-- ==== Sys2Proof/Word.lean ====
section
/-! DEFINITION. The word types and their plainest arithmetic: bit fields as `00_scope.md` writes them (R11). -/

namespace Sys2Proof

abbrev Byte := BitVec 8
abbrev U16 := BitVec 16
abbrev U32 := BitVec 32
abbrev U48 := BitVec 48
abbrev U64 := BitVec 64

/-- The bit range [hi:lo] of a word (R11). -/
def bits {n : Nat} (w : BitVec n) (hi lo : Nat) : BitVec (hi + 1 - lo) :=
  w.extractLsb' lo (hi + 1 - lo)

/-- The bit range [hi:lo] of a word, read as an unsigned number. -/
def fieldNat {n : Nat} (w : BitVec n) (hi lo : Nat) : Nat := (bits w hi lo).toNat

end Sys2Proof
end

