-- ==== Sys2Proof/Syntax.lean ====
section
/-! DEFINITION. The commands the ZM9 takes (spec/opcode_table.json, one constructor per row) and the data they carry. -/

namespace Sys2Proof

/-- A message as it arrives, with the virtual channel that carried it (R284). -/
structure OnChannel (α : Type) where
  vc : BitVec 2
  msg : α
  deriving DecidableEq, Repr

/-- A lease beacon's node ID and device time; its EPOCH stands beside it (R295). -/
structure Beacon where
  node : BitVec 7
  time : U64
  deriving DecidableEq, Repr

/-- Where a host command was fetched: what its completion echoes (R258, R266). -/
structure Origin where
  queue : Nat
  sqHead : U16
  tag : U64
  partition : Nat
  deriving DecidableEq, Repr

/-- The fields of SUBMIT_REQUEST (R261). -/
structure SubmitFields where
  cls : BitVec 2
  profile : Byte
  stopSet : Byte
  maxLen : BitVec 20
  promptLen : BitVec 20
  graftValid : Bool
  dlValid : Bool
  graftId : BitVec 12
  graftVer : U16
  deadline : U48
  seed : U64
  outRing : Nat
  promptAddr : U64
  admitAddr : U64
  deriving DecidableEq, Repr

/-- A graft entry (R203). -/
structure GraftEntry where
  row : U16
  col : U16
  delta : Byte
  deriving DecidableEq, Repr

/-- A graft-layer block (R203). -/
structure GraftBlock where
  layer : U16
  scale : U16
  entries : List GraftEntry
  deriving DecidableEq, Repr

/-- One member's part of a GRAFT_LOAD (R203); `readable` is what host memory answered. -/
structure GraftPart where
  position : Nat
  blocks : List GraftBlock
  readable : Bool
  deriving DecidableEq, Repr

/-- An address operand (R259). -/
structure AddrOp where
  position : Nat
  space : BitVec 2
  cluster : Nat
  offset : Nat
  deriving DecidableEq, Repr

/-- What RUN_OPERATOR names (R260): a library operator, or a graft-tuning step with its token rows, the lengths of their sequences, its graft,
the blocks of its workspace and the host buffer of its gradients (R165, R166). -/
inductive OperatorSpec where
  | library (operator : U16) (addr : Option AddrOp)
  | tuning (rows : Nat) (seqLens : List Nat) (graftId : BitVec 12) (graftVer : U16) (block blocks : Nat) (bufAddr : U64)
  deriving DecidableEq, Repr

/-- What WATCH_TENSOR names (R260, R438). -/
structure WatchSpec where
  byAddress : Bool
  symbol : U32
  addr : AddrOp
  mode : BitVec 2
  n : BitVec 30
  filter : Bool
  handle : U32
  hasRows : Bool
  bufAddr : U64
  bufLen : Nat
  deriving DecidableEq, Repr

/-- The kinds of work that Dypol places (R143). -/
inductive WorkKind where
  | linear | residualAdd | gatedActivation | rotary | normalisation | prefillAttention | decodeAttention | embedding | head | sensitive
  | standIn | columnPatch | shadowSample | tuning
  deriving DecidableEq, Repr

/-- The engines that work is placed on (R143). -/
inductive WorkEngine where
  | tiles | correctionUnit | dahlia | lupin
  deriving DecidableEq, Repr

/-- A shard manifest as it lies in host memory (R316 to R318): the header, the ciphertexts of k1 and k2, the chunk list and the two
signatures. `sigsOk`: both signatures verify over the signed bytes (R320); `rsaOk`: the RSA-OAEP unwrap succeeds; `keyCheckOk`: KEY_CHECK
agrees with the key that k1 and k2 give, which it does not where the ML-KEM unwrap failed (R319); `digest`: its SHA-384. -/
structure Manifest where
  header : BitVec 1024
  oaep : BitVec 3072
  kem : BitVec 8704
  chunks : List (BitVec 576)
  pss : BitVec 3072
  slh : BitVec 129792
  sigsOk : Bool
  rsaOk : Bool
  keyCheckOk : Bool
  digest : BitVec 384
  deriving DecidableEq, Repr

/-- An entry of the shard-set table (R321), with the manifest that it names as the member reads it; none: not in four tries (R324). -/
structure ShardEntry where
  member : Nat
  manLen : U32
  manAddr : U64
  chunkBase : U64
  manifest : Option Manifest
  deriving DecidableEq, Repr

/-- What an owner command carries besides its own fields (R412): the signing slot, the verdict of both signatures,
the serial and the nonce signed over. -/
structure OwnerAuth where
  slot : Nat
  sigsOk : Bool
  serial : BitVec 128
  nonce : BitVec 256
  deriving DecidableEq, Repr

/-- A debug token and its consent (R416). -/
structure DebugToken where
  tokenSigsOk : Bool
  consentOk : Bool
  magicFormatOk : Bool
  scope : Byte
  serial : BitVec 128
  nonce : BitVec 256
  expiry : U32
  deriving DecidableEq, Repr

/-- A Crocus pack as it lies in host memory (R347): the header, the entries and the two signatures. `sigsOk`: both signatures verify over
header and entries. -/
structure CrocusPack where
  header : BitVec 512
  entries : List (BitVec 4608)
  pss : BitVec 3072
  slh : BitVec 129792
  sigsOk : Bool
  deriving DecidableEq, Repr

/-- The HELLO payload (R290). -/
structure Hello where
  node : BitVec 7
  spare : Bool
  port : Nat
  coordValid : Bool
  position : Nat
  role : BitVec 2
  fenced : Bool
  gwCapable : Bool
  lanes : Byte
  leaseEpoch : U32
  sysId : U32
  seq : U16
  txTime : U64
  deriving DecidableEq, Repr

/-- A flit as a port receives it (R277, R278): the verdicts of FEC and tag, the header, and the number and the header of the message it
belongs to (R283). -/
structure Flit where
  fecOk : Bool
  tagOk : Bool
  vc : BitVec 2
  type : BitVec 3
  seq : BitVec 12
  ack : BitVec 12
  dl : Bool
  message : Nat
  head : BitVec 128
  nakSeq : BitVec 12
  /-- Credits that an idle flit returns, by 2 × virtual channel + dateline class (R281). -/
  credits : List Nat
  deriving DecidableEq, Repr

/-- A WINDOW_WRITE message (R299). -/
structure WinWrite where
  src : BitVec 7
  partition : Nat
  offset : BitVec 24
  xfer : BitVec 12
  epoch : U16
  windowId : BitVec 12
  body : List Byte
  deriving DecidableEq, Repr

/-- One row of a step (R182, R183). `poison`: its token word could not be read, or names no token of the vocabulary (R263). -/
structure StepRow where
  handle : U32
  decode : Bool
  position : BitVec 20
  token : BitVec 18
  last : Bool
  poison : Bool
  deriving DecidableEq, Repr

/-- A request-table change, a grant or a release that a step descriptor carries to the members (R183). -/
inductive ReqChange where
  | free (slot : Nat)
  | grant (slot : Nat) (staging : Nat)
  | release (staging : Nat)
  /-- The pages of a prompt are reserved (R187). -/
  | pages (slot : Nat)
  | admitted (slot : Nat) (gen : BitVec 14) (cls : BitVec 2) (maxLen promptLen : BitVec 20) (graft : Option (BitVec 12 × U16))
  /-- The version that a load has brought becomes current; `load` numbers the loads of the ID (log 167). -/
  | installGraft (id : BitVec 12) (ver : U16) (load : Nat)
  | retireGraft (id : BitVec 12)
  | dropGraft (id : BitVec 12) (ver : U16)
  /-- A load has failed: what it brought goes (R203, R204). -/
  | dropLoad (id : BitVec 12) (load : Nat)
  | watch (index : Nat) (o : Origin) (w : WatchSpec) (fromStep : U48)
  /-- The end of a drain, or the order to a lagging member: commit the inactive bank that holds this version (R207, R330). -/
  | drainEnd (version : U32)
  deriving DecidableEq, Repr

/-- A step descriptor (R183). `op`: a tuning step, which carries its rows in the operator's own arguments and shares no step with serving
rows (R165). `lookup`: no step of this member, but token rows whose embedding the lead asks for (R171). -/
structure StepDesc where
  no : U48
  rows : List StepRow
  changes : List ReqChange
  replay : Bool
  held : Bool
  op : Option OperatorSpec := none
  lookup : Bool := false
  deriving DecidableEq, Repr

/-- A command the gateway forwards on VC2 (R264). -/
inductive FwdBody where
  | submit (f : SubmitFields)
  | setDeadline (handle : U32) (deadline : U48) (dlValid now : Bool)
  | cancel (handle : U32)
  | graftLoad (id : BitVec 12) (parts : List GraftPart)
  | graftRetire (id : BitVec 12)
  | windowOpen (id : BitVec 12) (base : BitVec 23) (blocks : Nat)
  | windowClose (id : BitVec 12)
  | runOperator (spec : OperatorSpec)
  | loadShard (table : List ShardEntry)
  | commitShard (dr : U48) (drValid : Bool)
  | watch (w : WatchSpec)
  | calibrate
  | query (kind : Byte) (handle : U32) (graftId : BitVec 12) (bufAddr : U64) (bufLen : Nat)
  /-- No command: the gateway reports that a request's keys and values are lost (R178, R297). -/
  | lost (handle : U32)
  deriving DecidableEq, Repr

/-- A forwarded command with its origin (R264). -/
structure FwdCmd where
  origin : Origin
  body : FwdBody
  deriving DecidableEq, Repr

/-- What a HOST_WRITE message carries to the gateway (R268, R284). -/
inductive HostWriteMsg where
  | record (ring : Nat) (final : Bool) (data : U64)
  | completion (queue : Nat) (data : BitVec 256)
  | admission (queue : Nat) (sqHead : U16) (tag : U64) (addr : U64) (data : U64)
  | mirror (slot : Nat) (data : BitVec 128)
  /-- Bytes for a host buffer of a command of queue `queue` (R244). -/
  | buffer (queue : Nat) (addr : U64) (data : List Byte)
  /-- A member at a position has done a partition reset (R388; log 173). -/
  | partResetDone (partition position : Nat)
  /-- A rejoining package, at the position it keeps or as a spare, reports the versions of its commit records by partition (R312; log 173). -/
  | rejoin (node : BitVec 7) (position : Option Nat) (records : List (Nat × U32))
  /-- The primary copies a context to its standby, by the key of its cache: none where it is deleted (R296; log 156). -/
  | context (key : Nat) (w : Option (BitVec 256))
  /-- A package has accepted a Crocus pack or refused it (R348; log 51). -/
  | packTaken (node : BitVec 7) (accepted : Bool)
  /-- The primary tells its standby of a command that it is about to forward (R296). -/
  | forwarded (o : Origin) (opcode : Byte) (ring : Nat) (admitAddr : U64)
  /-- The primary tells its standby that it holds every context, or that it is dropped (R296). -/
  | standbySync (on : Bool)
  deriving DecidableEq, Repr

/-- One package's answer to the topology request (R292): its node, its strap, whether its CXL link is active (R296; log 176), and the far end of
each port. -/
structure TopoReport where
  node : BitVec 7
  spare : Bool
  gwCapable : Bool
  far : List (Nat × BitVec 7 × Nat)
  deriving DecidableEq, Repr

/-- A route push to one package (R285, R305): a position map and its route table with the device time at which they take effect, the
jobs that have a route between two members changed, and in formation's push the topology collected (log 107) and the node IDs that collide
(R289). `standby`: the standby in sync, with its hops from the primary (R296; log 176). -/
structure RoutePush where
  activation : U64
  jobs : List Nat
  posMap : List (Nat × BitVec 8)
  routes : List (Nat × BitVec 8)
  topo : List TopoReport
  collide : List (BitVec 7)
  standby : Option (BitVec 7 × Nat)
  deriving DecidableEq, Repr

/-- A route set: the new route table of each package that it changes, and the activation time (R286, R305). -/
structure RouteSet where
  activation : U64
  tables : List (BitVec 7 × List (Nat × BitVec 8))
  deriving DecidableEq, Repr

/-- Why a position is lost (R306): its package has reported that it has ended service, or, without that, it is out of reach. `routes`: the route set
that the primary has found for the substitution (R286, R308). -/
structure Loss where
  pos : Nat
  ended : Bool
  routes : Option RouteSet
  deriving DecidableEq, Repr

/-- A part of a watch dump (R439): its header fields and its body as stored. -/
structure DumpPart where
  position : Nat
  cluster : Nat
  format : BitVec 4
  row0 : Nat
  rows : Nat
  col0 : Nat
  cols : Nat
  data : List Byte
  deriving DecidableEq, Repr

/-- What Dypol's schedule declares of one pipeline stage, for the lead's predictions (R168, R186): compiled latency and the
allowance for boundary work in ns; logical tiles; Dahlia demand; bytes of keys and values of a position; guard in percent;
Q·Kᵀ (and as many P·V) MACs of a query-key pair; head-weight bytes streamed; further ps of a sampled row. -/
structure StagePlan where
  tFix : Nat
  tBnd : Nat
  tiles : Nat
  demand : Nat
  kvBytes : Nat
  guardPct : Nat
  pairMacs : Nat
  headBytes : Nat
  sampledPs : Nat
  deriving DecidableEq, Repr

/-- An entry of the placement table (R315): the 512-row and 512-column band of a layer, and its logical tile. -/
structure Placed where
  layer : Nat
  rowBand : Nat
  colBand : Nat
  cluster : Nat
  ltile : Nat
  deriving DecidableEq, Repr

/-- The planned slot of a cluster's part of a sublayer and the guard window after it, in ns; `start` counts from the schedule's
start, or from the release of the barrier before it (R105, R153). -/
structure GuardEntry where
  cluster : Nat
  layer : Nat
  start : Nat
  slot : Nat
  guard : Nat
  deriving DecidableEq, Repr

/-- An address range of the symbol table (R433): program words `first` to `last` of a cluster. -/
structure SymRange where
  cluster : Nat
  first : Nat
  last : Nat
  layer : U16
  operator : U16
  deriving DecidableEq, Repr

/-- The plaintext content of a verified shard chunk, as the ingress engine re-lays it (R315, R322 to R324). -/
inductive ChunkContent where
  /-- Bytes of the tile part: the layers' matrices in ascending layer ID, row-major, two weights a byte, low nibble first (R315). -/
  | tile (bytes : List Byte)
  | scales (entries : List (Nat × Nat × U16))
  | staticRows (entries : List (Nat × Nat × List Nat))
  | outlierWeights (entries : List (Nat × List (Nat × Nat × U16)))
  | placement (entries : List Placed)
  | program (cluster : Nat) (words : List (Nat × U32))
  | handles (cluster : Nat) (entries : List (Nat × U32)) (cache32 : BitVec 4)
  | slots (cluster : Nat) (entries : List (Nat × U32))
  | baseSlots (segment : Nat) (entries : List (Nat × U32))
  | guards (entries : List GuardEntry)
  | layers (entries : List (Nat × Nat))
  /-- The symbol table: the layer and operator of each range of program words of a cluster (R433). -/
  | symbols (ranges : List SymRange)
  /-- Where the schedule places each kind of work (R143), and whether it uses the narrow scalar scratchpad view (R30). -/
  | work (entries : List (WorkKind × WorkEngine)) (scalarView : Bool)
  /-- The token IDs whose embedding rows this device holds, and the position of the one other device that holds the rest (R171). -/
  | embedding (first count : Nat) (other : Option Nat)
  | jobParams (vocab streams posBytes ctxLimit demand : Nat) (kvBf16 : Bool) (weights : List Nat) (hops : Nat) (plan : List StagePlan)
  | dahlia (offset : Nat) (bytes : List Byte)
  deriving DecidableEq, Repr

/-- One chunk of a shard's plaintext: its number, part, length and content (R315, R318, R328). -/
structure FormChunk where
  n : Nat
  part : Nat
  length : Nat
  contents : List ChunkContent
  deriving DecidableEq, Repr

/-- A BULK message (R284), by what it delivers. -/
inductive BulkBody where
  /-- A chunk of this position's shard, from the −X neighbour's replica (R308, R322, R332). -/
  | shardChunk (partition : Nat) (x : FormChunk)
  /-- The +X neighbour wants a chunk of its shard from the replica held here (R322, R332). -/
  | replicaRead (partition chunk : Nat)
  /-- What a member's banks hold: the versions of its active bank and of its valid inactive bank, 0 for none (R326, R330; log 50). -/
  | bankReport (partition member : Nat) (active ready : U32)
  /-- The lead asks a member for that report (R330, R333; log 50). -/
  | bankQuery (position partition : Nat)
  /-- What a member reports of a load, of a commit and of a CALIBRATE command (R260, R325, R329; log 50). -/
  | loadReport (partition member : Nat) (version : U32) (status : Byte)
  | commitReport (partition member : Nat) (version : U32) (status : Byte)
  | calReport (partition position tiles : Nat)
  /-- The +X neighbour is about to copy its replica form of a job; `total`: the bytes of the replica forms of all its jobs (R328). -/
  | replica (partition : Nat) (version : U32) (digest : BitVec 384) (total : Nat)
  /-- The −X neighbour's answer: its peer replica region holds them all, or does not (R328). -/
  | replicaRoom (partition : Nat) (fits : Bool)
  /-- A chunk of the +X neighbour's replica form (R328). -/
  | replicaPart (partition : Nat) (x : FormChunk)
  /-- The −X neighbour has lost its replica of this device's shard, and wants it again (R233). -/
  | replicaWanted (partition : Nat)
  /-- The −X neighbour holds a valid replica of this device's shard (R328). -/
  | replicaHeld (partition : Nat) (version : U32) (digest : BitVec 384)
  /-- The −X neighbour begins to send its replica of this position's shard to the spare that has taken the position: version and
  manifest digest, and the chunks that follow (R308). -/
  | recovery (partition : Nat) (version : U32) (digest : BitVec 384) (chunks : Nat)
  | graftPart (id : BitVec 12) (ver : U16) (load : Nat) (part : GraftPart)
  | graftReport (id : BitVec 12) (load : Nat) (position : Nat) (status : Byte)
  | logits (partition : Nat) (handle : U32) (pos : BitVec 20) (first : Nat) (values : List (Option U32))
  | dump (partition : Nat) (watch : Nat) (part : DumpPart)
  | tracePage (partition : Nat) (bytes : List Byte)
  /-- What a member reports of an operator's step: the gradients of its graft layers, by layer, and the first status other than SUCCESS of a
  transfer (R166, R302). -/
  | opReport (partition : Nat) (step : U48) (grads : List (Nat × List Byte)) (xfer : Option Byte)
  deriving DecidableEq, Repr

/-- A throttle-and-hold notice (R377). -/
structure Notice where
  node : BitVec 7
  stage : BitVec 3
  cause : BitVec 3
  budget : U16
  deriving DecidableEq, Repr

/-- The partition set-up that the primary gateway pushes (R401). -/
structure PartSetup where
  partition : Nat
  cfg : U64
  quota : U32
  clusters : BitVec 512
  deriving DecidableEq, Repr

/-- An I3C transaction (R471). -/
inductive I3cOp where
  | entdaa (addr : BitVec 7)
  | setdasa (static addr : BitVec 7)
  | mctpCause
  | mctpBootStatus
  | hdr
  deriving DecidableEq, Repr

/-- What a debugger asks for (R417): a register word of BAR0, a device counter, a trace ring, bytes of the stack, or a scratchpad row, to read or to write. -/
inductive DebugOp where
  | register (offset : Nat)
  | counter (n : Nat)
  | trace (partition : Nat)
  | stackRead (addr len : Nat)
  | stackWrite (addr : Nat) (data : List Byte)
  | spadRead (cluster row : Nat)
  | spadWrite (cluster row : Nat) (data : BitVec 4096)
  deriving DecidableEq, Repr

/-- A JTAG instruction (R415). `other`: scan chains, halting and stepping, whose codes and effects the spec does not give. -/
inductive JtagIr where
  | idcode | bypass | samplePreload | extest | debug (op : DebugOp) | other (ir : Byte)
  deriving DecidableEq, Repr

/-- A KV page that prefill writes (R163): page, first position, positions, and the BF16 elements of each stream. -/
structure KvPage where
  page : Nat
  firstPos : Nat
  count : Nat
  streams : List (List U16)
  deriving DecidableEq, Repr

/-- Operand formats of Dahlia's array (R143, R144). -/
inductive DahliaFmt where
  | e4m3 | e5m2 | bf16
  deriving DecidableEq, Repr

/-- One operand element: its first byte in a cluster's scratchpad (512 × row + byte) or, without a cluster, in the Dahlia-weights region
of the partition's bank (R143). -/
structure DahliaSrc where
  cluster : Option Nat
  addr : Nat
  fmt : DahliaFmt
  deriving DecidableEq, Repr

/-- A product that is added to a sum (R145). -/
structure DahliaTerm where
  a : DahliaSrc
  b : DahliaSrc
  deriving DecidableEq, Repr

/-- Where and how a block of results is written: Z8 with its exponent's row and byte, FP8, or BF16 (R93, R145). -/
inductive DahliaOut where
  | z8 (expRow expByte : Nat)
  | fp8 (e5m2 : Bool)
  | bf16
  deriving DecidableEq, Repr

/-- Where the attention output of one row and head is written, in Z8: scratchpad row and byte of its first block, and the row and byte of
that block's exponent (R155). -/
structure AttOut where
  cluster : Nat
  row : Nat
  at_ : Nat
  expRow : Nat
  expByte : Nat
  deriving DecidableEq, Repr

/-- One query head of an attention job: its BF16 query in a scratchpad, from byte 512 × row + byte on; after the last chunk, where the
head's output goes (R151, R154). -/
structure AttQuery where
  head : Nat
  cluster : Nat
  addr : Nat
  out : Option AttOut
  deriving DecidableEq, Repr

/-- The attention of one query row over the keys and values of one key/value head (R151, R154, R158): the request, the layer, the two
streams, the head dimension, the model's softmax scale in BF16, and the query heads that share the streams. -/
structure AttJob where
  handle : U32
  layer : Nat
  keyStream : Nat
  valueStream : Nat
  elems : Nat
  scale : U16
  queries : List AttQuery
  deriving DecidableEq, Repr

/-- Where an embedding row goes: to a row of a scratchpad, with its exponents, or to the lead over the link, for a row of a step (R171). -/
inductive EmbedDest where
  | row (cluster dataRow expRow r : Nat)
  | lead (step : U48)
  deriving DecidableEq, Repr

/-- What a Dahlia operation computes (R143, R145, R148). -/
inductive DahliaKind where
  | standIn (tile : Nat)
  /-- Sums of products, each in its compiled order, written as one block of a scratchpad row. -/
  | sums (cluster row at_ : Nat) (out : DahliaOut) (results : List (List DahliaTerm))
  /-- Compiled work whose functions the spec does not give (normalisations, gradients, backward nonlinearities). -/
  | compiled (cluster : Nat) (rows : List Nat)
  /-- Logits of the row that gives the token at `pos`, from vocabulary entry `first` on. -/
  | logits (handle : U32) (pos : BitVec 20) (first : Nat) (results : List (List DahliaTerm))
  /-- The lookup of an embedding row of FP8 codes in the Dahlia-weights region, for row `row` of the step in progress. -/
  | embed (e5m2 : Bool) (offset len : Nat) (dest : EmbedDest) (row : Nat)
  | prefill (handle : U32) (pages : List KvPage)
  /-- Prefill attention of the row at `position`, with the BF16 scale of each query head's FP8 form (R154, R155). -/
  | attention (job : AttJob) (position : BitVec 20) (qScales : List U16)
  /-- A tuning step's head: the logits of a row as sums of products, and the loss gradient for its target (R166). -/
  | lossGradient (row : U32) (target : Nat) (results : List (List DahliaTerm))
  /-- The attention part of a tuning step's backward pass for the row at `position`, and the scratchpad rows that it leaves (R166). -/
  | attentionBack (job : AttJob) (position : BitVec 20) (qScales : List U16) (cluster : Nat) (rows : List Nat)
  | operator (tag : Nat)
  deriving DecidableEq, Repr

/-- A Dahlia operation that waits or runs (R146, R148). -/
structure DahliaOp where
  partition : Nat
  kind : DahliaKind
  deriving DecidableEq, Repr

/-- Which tensor an output block belongs to, as the symbol table names it, and the slots of its cluster's fill circuit (R216, R438). -/
structure BlockTag where
  symbol : U32
  layer : Nat
  handle : U32
  tokenRow : Nat
  col0 : Nat
  slots : List Nat
  deriving DecidableEq, Repr

/-- What one flit carries: up to 64 bytes of a scratchpad row, from byte `at_` on, and where its receivers put them (R214). -/
structure MeshPiece where
  row : Nat
  at_ : Nat
  len : Nat
  dstRow : Nat
  dstAt : Nat
  deriving DecidableEq, Repr

/-- What a mesh transfer carries (R92, R215, R217): pieces of scratchpad rows, one a flit; output blocks of 32 lanes, which the receivers merge
into their own from lane 32 × `base` on; or, of a segment of the base switch, pieces of what its ingress buffer holds: 0 of the stack
controller, 1 of Lupin, Foxglove, the staging SRAM, the request table and the ingress engine, 2 of the I/O ring, whose pieces name a row of
the step data on a virtual channel. -/
inductive MeshLoad where
  | rows (pieces : List MeshPiece)
  | lanes (first count base : Nat)
  | buffer (kind : Nat) (vc : BitVec 2) (pieces : List MeshPiece)
  deriving DecidableEq, Repr

/-- A read of BAR0 or BAR2 of function `fn`. `reply`: what the job's lead answers where the read is carried there (R446, R447). -/
structure RegRead where
  fn : Nat
  offset : Nat
  size : Nat
  reply : Option U64
  deriving DecidableEq, Repr

/-- What a register write brings: the value, and the Crocus pack that host memory answers with where the write makes the device read one
(R348). -/
structure RegData where
  value : U64
  pack : Option CrocusPack
  deriving DecidableEq, Repr

/-- What a member's counter push carries (R250, R437): its device counters, and LOST of its trace rings by partition. -/
structure CounterReport where
  counters : List U64
  lost : List U32
  deriving DecidableEq, Repr

/-- The converter's readings of a row slot: the level read, and the verify reads of a rewrite (R56, R60, R61). -/
structure RowReads where
  codes : List Byte
  verify : List (List Byte)
  deriving DecidableEq, Repr

/-- Where a receive action takes its data from (R212, R217): the mesh, by rows and output blocks; or scratchpad rows that an ingress buffer of
the base switch delivers, by the kind of the buffer, as in a mesh transfer. -/
inductive RecvSrc where
  | mesh (rows blocks : List Nat)
  | base (kind : Nat) (rows : List Nat)
  deriving DecidableEq, Repr

/-- A correction-unit operation on BF16 data of the scratchpad (R143): a residual add of `n` elements at byte addresses
512 × row + byte; or other work (gated activation, rotary encoding), whose functions the spec does not give, with the rows it writes. -/
inductive CorrectionOp where
  | residualAdd (dst a b n : Nat)
  | other (rows : List Nat)
  deriving DecidableEq, Repr

/-- What the sequencer's next planned action is (R212). -/
inductive SeqAction where
  /-- An operation of a logical tile (R28). -/
  | tileOp (ltile : Nat)
  /-- The read of a logical tile's results. -/
  | edgeRead (ltile : Nat)
  | correction (op : CorrectionOp)
  /-- Writes lanes 32 × block up in scratchpad row `row`; `tag` names the tensor where the symbol table does. -/
  | outputBlock (block : Nat) (row : Nat) (fmt : BitVec 3) (tag : Option BlockTag)
  /-- Reads the 32 lanes of output block `block` back from the half-row that they were spilled to, adding them (R92). -/
  | readLanes (block : Nat) (row half : Nat)
  /-- A mesh injection on a circuit with these slots; `output`: the sublayer whose output it is the first injection of (R108, R212). -/
  | inject (slots : List Nat) (output : Option Nat)
  /-- An operator's one-sided write into a window of another position (R299, R302). -/
  | windowWrite (position : Nat) (window : BitVec 12) (epoch : U16) (offset : BitVec 24) (body : List Byte)
  | receive (src : RecvSrc)
  | barrier
  /-- The end of the pair in progress (R105). -/
  | endPair
  /-- The key or value of a decode row in one stream, after rotary encoding (R161). -/
  | kvWrite (handle : U32) (stream : Nat) (values : List U16)
  | spadRead (row : Nat) (correctable : List Nat) (uncorrectable : List Nat)
  deriving DecidableEq, Repr

/-- An action in the compiled schedule: the sublayer whose slot it belongs to, and its planned time in ns from the start of the schedule or from
the release of the last barrier (R105, R153, R212). -/
structure PlannedAction where
  layer : Nat
  planned : Nat
  action : SeqAction
  deriving DecidableEq, Repr

/-- The kind of a cache line (R225). -/
inductive LineKind where
  | imageRow (tile row : Nat)
  | imageCol (tile col : Nat)
  | graft (id ver layer idx : Nat)
  | outlier (tile idx : Nat)
  deriving DecidableEq, Repr

/-- How the read of a shard chunk ended (R322). -/
inductive ChunkArrival where
  | missing
  | badTag
  | badDigest
  /-- `iv`: the IV under which the chunk's tag passes with the load's key (R319). -/
  | good (iv : BitVec 96) (contents : List ChunkContent)
  deriving DecidableEq, Repr

/-- Who accesses the stack (R230, R396). -/
structure Requester where
  partition : Nat
  secure : Bool
  /-- The stack class of R231: 0 to 3 for A to D. -/
  cls : Nat
  /-- The cluster whose sequencer waits for the access, if one does. -/
  cluster : Option Nat
  deriving DecidableEq, Repr

/-- A stack access (R230, R233). -/
inductive StackOp where
  | read (len : Nat)
  | write (data : List Byte)
  /-- A read whose ECC corrected an error. -/
  | readCorrected (len : Nat)
  /-- A read that met an uncorrectable block; `wait`: the ns that a fetch of the block again takes, where the region's outcome is one. -/
  | readUncorrectable (len wait : Nat)
  deriving DecidableEq, Repr

/-- The event that a unit reports to the fault ledger (R337, R338). -/
inductive LedgerEvent where
  | spadCorrected (cluster row : Nat)
  | spadUncorrectable (cluster row : Nat)
  | stackCorrected (pc : Nat)
  | stackUncorrectable (pc block : Nat)
  | laneFaulty (port lane : Nat) (failedTraining : Bool)
  | tileDegraded (tile : Nat)
  | tileOverdue (tile : Nat)
  | brownOutReturn
  deriving DecidableEq, Repr

/-- A boot image as the boot chain finds it in the two copies of the flash (R408, R409). -/
structure BootImage where
  id : Byte
  okA : Bool
  svnA : Nat
  measureA : BitVec 384
  okB : Bool
  svnB : Nat
  measureB : BitVec 384
  deriving DecidableEq, Repr

/-- What the far end of a port sends in the key exchange (R421). -/
structure PeerIdentity where
  chainOk : Bool
  ownerDigest : BitVec 384
  provisioned : Bool
  transcriptOk : Bool
  deriving DecidableEq, Repr

/-- A boundary tag of member `member` (R178, R183, R187, R191, R234, R354): FREE_PAGES and T_p, with the numbers of the first step that it had not
begun and of the first whose full slots it had not flushed; requests whose keys and values it has lost, requests whose page it could not
move, and the steps that it has marked. -/
structure MemberTag where
  member : Nat
  freePages : Nat
  positions : Nat
  begun : Nat
  flushed : Nat
  lost : List U32
  preempted : List U32
  marked : List U48
  deriving DecidableEq, Repr

/-- The commands: one constructor per row of spec/opcode_table.json, in its order. -/
inductive Instr where
  | submitRequest (o : Origin) (f : SubmitFields)
  | setDeadline (o : Origin) (handle : U32) (deadline : U48) (dlValid now : Bool)
  | cancel (o : Origin) (handle : U32)
  | graftLoad (o : Origin) (id : BitVec 12) (parts : List GraftPart)
  | graftRetire (o : Origin) (id : BitVec 12)
  | windowOpen (o : Origin) (id : BitVec 12) (base : BitVec 23) (blocks : Nat)
  | windowClose (o : Origin) (id : BitVec 12)
  | runOperator (o : Origin) (spec : OperatorSpec)
  | loadShard (o : Origin) (table : List ShardEntry)
  | commitShard (o : Origin) (dr : U48) (drValid : Bool)
  | watchTensor (o : Origin) (w : WatchSpec)
  | calibrate (o : Origin)
  | query (o : Origin) (kind : Byte) (handle : U32) (graftId : BitVec 12) (bufAddr : U64) (bufLen : Nat)
  | getNonce
  | provisionOwner (keys : BitVec 384)
  | setOwnerSlot (a : OwnerAuth) (slot : Nat) (keys : Option (BitVec 384))
  | genUnwrapKey (a : OwnerAuth) (slot : Nat)
  | setPolicy (a : OwnerAuth) (ideRequired : Bool)
  | setPartitionWorld (a : OwnerAuth) (partition : Nat) (secure : Bool)
  | advanceSvn (a : OwnerAuth) (image : Byte) (svn : Nat)
  | setLifecycle (a : OwnerAuth) (target : BitVec 2)
  | debugUnlock (tok : DebugToken)
  | debugLock
  | queueCtxCreate (fn : Nat)
  | queueCtxDelete (fn : Nat)
  | queueCtxRead (fn : Nat)
  | clIndRead (fn : Nat) (cluster : BitVec 9)
  | stackRegionReqSubmit (index : BitVec 7) (desc : U64)
  | deviceSoftReset (flr : Bool) (confirm : U16)
  | setLock (mask : BitVec 9)
  | crocusGo (addr : U64) (len : BitVec 27) (pack : Option CrocusPack)
  | sysLeaseWrite (epoch : U32)
  | sysJobWrite (n : Nat) (w : U32)
  | partSetValid (n : Nat) (w : U64)
  | partClearValid (n : Nat)
  | flRetrain (port : Nat)
  | monDataRead (monB : Bool)
  | wideRegisterRead (read : RegRead)
  /-- `reply`: what the target answers (R447). -/
  | remoteRegisterAccess (offset size : Nat) (write : Option RegData) (reply : Option U64)
  | registerWrite (fn : Nat) (offset size : Nat) (value : RegData)
  | setNumVfs (n : Nat)
  | hdmDecoderCommit (ways size : Nat)
  | doorbellSnoop (line : Nat) (records : List U64)
  | sqFetch (queue : Nat) (entry : Option (BitVec 512)) (cmd : Option FwdBody)
  | statusWindowRead (offset size : Nat)
  | statusWindowWrite (offset : Nat) (value : U64)
  | coalesceTimerExpiry (queue : Nat)
  | cxlLinkTrained (width rate : Nat) (flit256 allProtocols : Bool)
  | pbrFlitReceive
  | getEventRecords
  | clearEventRecords (count : Nat)
  | getEventInterruptPolicy
  | setEventInterruptPolicy (policy : U32)
  | getTimestamp
  | setTimestamp (t : U64)
  | mailboxUnsupportedCommand (opcode : U16)
  | attestationRequest (nonce : BitVec 256)
  | ideKmKeySet (cachemem : Bool) (inSession : Bool)
  | cdatTableAccess
  | portTrainingDone (port : Nat) (failed : Byte)
  | linkKeyExchange (port : Nat) (peer : PeerIdentity)
  | linkRekey (port : Nat) (peer : PeerIdentity)
  | flitReceive (port : Nat) (f : Flit)
  | retrainTimeout (port : Nat)
  | lossOfSignal (port : Nat)
  | helloSend (port : Nat)
  | helloReceive (port : Nat) (h : Hello)
  | helloTimeout (port : Nat)
  | laneSerCheck (port : Nat) (counts : List Nat)
  | degradeRequestReceive (port : Nat) (acknowledge : Bool) (peerHealthy : Byte)
  | stepDataReceive (vc : BitVec 2) (kind : BitVec 4) (partition : Nat) (step : U48) (rows : List (BitVec 4096))
  | windowWriteReceive (m : OnChannel WinWrite)
  | windowAckReceive (windowId : OnChannel (BitVec 12)) (xfer : BitVec 12) (epoch : U16) (status : Byte)
  | windowWriteTimeout (xfer : BitVec 12)
  | commandReceive (vc : BitVec 2) (c : FwdCmd)
  | stepCtlReceive (vc : BitVec 2) (partition : Nat) (d : StepDesc)
  | hostWriteReceive (vc : BitVec 2) (m : HostWriteMsg)
  | routePushReceive (p : OnChannel RoutePush)
  | routeActivate
  /-- `parentAway`: the parent's receive time of this package's last HELLO minus the TX_TIME in it (R293). -/
  | timeStepReceive (parentTime : OnChannel U64) (parentAway : U64)
  | partitionReset (n : Nat)
  | partitionResetReceive (n : OnChannel Nat)
  | bulkReceive (vc : BitVec 2) (b : BulkBody)
  | topologyRequestReceive
  | topologyCollectEnd (reports : List TopoReport)
  | leaseBeaconSend
  | leaseBeaconReceive (b : OnChannel Beacon) (epoch : U32) (sysId : U32)
  | leaseExpiry
  | fence
  | positionLost (x : Loss)
  | standbyResync
  | standbyAckReceive
  | counterPush
  | counterPushReceive (pos : OnChannel Nat) (report : CounterReport)
  | throttleNoticeReceive (n : OnChannel Notice)
  | partSetupReceive (p : OnChannel PartSetup)
  | crocusPackReceive (p : OnChannel CrocusPack)
  | crocusEntryRun (idx : Nat) (codesH codesL : List Byte)
  | crocusRerun
  | traceSample (partition : Nat)
  | pcSample (cluster : Nat)
  | tracePageSend (partition : Nat)
  | qualSummaryRefresh
  | restoreCreditTick
  | diodeConversion (a b : BitVec 12)
  | housekeepingConversion (monB : Bool) (channel : Nat) (code : BitVec 12)
  | monHostTrigger (monB : Bool) (inDiode : Bool) (abortsHk : Option Nat)
  | monHostResult (monB : Bool) (code : BitVec 12)
  | throttleEval
  | ledgerTimeTick
  | ledgerTimeSave
  | calIntervalTrigger (tile : Nat)
  /-- The cluster's engine and the tile that it has in hand, by its number in the cluster. -/
  | calibrationComplete (cluster tile : Nat)
  | idleTrimApply
  | debugExpiry
  | watchdogService
  | watchdogExpiry
  | coldPowerUp
  | warmResetAssert (perst : Bool)
  | resetRelease (nodeId : BitVec 7) (spareSel testEn : Bool)
  | bootImageVerify (img : BootImage)
  | deviceReady
  | pllLockLoss
  | brownoutWarn
  | brownoutReturn
  | brownoutReset
  | criticalAssert
  | criticalDeassert
  | thermalTrip (cause : BitVec 4)
  | tripLatchClear
  | serRailLoss
  | serRailRestore
  | auxRailLoss
  | jtagInstruction (ir : JtagIr)
  | tapReset
  | i3cTransaction (op : I3cOp)
  /-- `prompts`: by request slot, the prompt's token words as host memory answers them (R263). `tags`: one of every other member. -/
  | leadBoundary (partition : Nat) (prompts : List (Nat × List (Option U32))) (tags : List MemberTag)
  | memberBoundary (partition : Nat)
  | stepScheduleStart (partition : Nat)
  | sequencerAction (cluster : Nat) (a : PlannedAction)
  /-- `tile` is the logical tile address, cluster × 64 + logical number; the other tile commands name physical tiles. -/
  | edgeConversion (tile layer dataRow expRow r : Nat) (transposed : Bool) (accBase : Nat) (rowHandle : U32)
  /-- On the circuit with these slots; `planned` is the planned time of its first flit, as for a sequencer action. `service`: the flits of
  service traffic that take the circuit's first slots and carry no step data (R216). `cluster` is 512 + s for segment s of the base switch,
  where `planned` is a device time (R217). -/
  | meshTransfer (cluster planned : Nat) (slots : List Nat) (service : Nat) (load : MeshLoad)
  | tileEvalStart (tile : Nat)
  | tileEvalComplete (tile : Nat) (codesH codesL : List Byte) (codesH2 codesL2 : List Byte)
  | splitEvalStart (tile : Nat)
  | tileReplayStart (tile : Nat)
  | checksumReevalStart (tile : Nat)
  | columnPatchComplete (tile col : Nat)
  | shadowSample (tile : Nat)
  | cacheMissFill (cluster : Nat) (line : LineKind)
  /-- `due`: the cluster sequencer shows a scheduled evaluation of the tile due within the next 54 ns (R117). -/
  | restoreRow (tile : Nat) (due : Bool) (row : RowReads)
  | programmingStart (tile : Nat)
  | programRow (tile : Nat) (verify : List (List Byte))
  | verificationTest (tile : Nat) (codes : List (List Byte × List Byte))
  | dahliaOpStart (op : DahliaOp)
  | dahliaOpComplete (half : Nat)
  /-- One chunk on a lane's score buffer 0 or 1. -/
  | lupinChunkJob (partition : Nat) (job : AttJob) (lane buffer chunk : Nat)
  | attentionBarrierRelease (partition : Nat)
  | foxgloveRow (partition : Nat) (handle : U32) (pos : BitVec 20)
  | stackAccess (r : Requester) (addr : Nat) (op : StackOp)
  | pcMigrationBlock (pc block : Nat) (readable : Bool)
  | ledgerEventReport (e : LedgerEvent)
  | chunkReadComplete (partition chunk : Nat) (arrival : ChunkArrival)
  | chunkReadTimeout (partition chunk : Nat)
  | memberCommit (partition : Nat) (digestFailures : List Nat)
  | replicaCopyComplete (partition : Nat) (version : U32) (digest : BitVec 384)
  | watchDumpWrite (partition watch : Nat)
  | reqHoldExpiry (slot : Nat)
  | linkDownReportReceive (node : OnChannel (BitVec 7)) (port : Nat) (x : Option RouteSet)
  | laneSignalLoss (port lane : Nat)
  | linkSignalDetect (port : Nat)
  | regulatorSoftStart
  | jobPushReceive (n : OnChannel Nat) (w : U32)
  | stackSupplyWindowLoss
  deriving DecidableEq, Repr

end Sys2Proof
end

