-- ==== Sys2Proof/Config.lean ====
section
/-! DEFINITION. What the spec leaves open, as constants with no body (free values), and the fixed sizes of the ZM9. -/

namespace Sys2Proof.Config

open Sys2Proof

/-- The ordering code of the package (R1): `true` is ZM9-96E, `false` is ZM9-96C. -/
opaque isE : Bool

/-- The 128-bit package serial of the identity entry (R3, R456). -/
opaque serial : BitVec 128

/-- SHA-384 of each identity public key of the package (R419); the keys are the part's own (log 14). -/
opaque identityDigests : List (BitVec 384)

/-- The fused key digests (R408, R419), the part's own (log 14). -/
opaque fusedKeyDigests : List (BitVec 384)

/-- The JTAG identification code, which the spec does not give (R415; log 29). -/
opaque idcode : BitVec 32

/-- SHA-384, as the attestation report needs it; its computation is not modelled (log 14). -/
opaque sha384 : List Byte → BitVec 384

/-- A fresh value of `w` bits that the spec leaves open, drawn by the state's plain counter (log 7). -/
opaque freeBits : Nat → (w : Nat) → BitVec w

/-- Whether a reported quality figure is rounded up from its exact value (R132 gives the format and no rounding; log 9). -/
opaque roundUp : Nat → Bool

/-- Which way an exponential or a logarithm rounds whose exact value lies within 2^-290 of the middle between two binary32
numbers, too close for the model's own arithmetic to tell (R197; log 11). -/
opaque hardRound : Nat → Bool

/-- By how much an exponential of attention differs from the correctly rounded one, in units in the last place plus 2, modulo 5: R155 bounds
it to 2 ULP and says no more (log 12). -/
opaque expUlp : Rat → Nat

/-- Bytes of a message's body, and the kind-specific fields of its header: the spec gives those of window writes and acknowledgements alone
(R283, R299; log 140). -/
opaque bodyBytes : (message : Nat) → BitVec 24
opaque specific : (message : Nat) → BitVec 64

/-- By how many service slots the fill circuits of a base-switch segment are turned (R216 names no slots; log 133). -/
opaque fillTurn : (segment : Nat) → Nat

/-- Which of the evictable contexts the gateway's context cache gives up (R252 names no replacement rule; log 17). -/
opaque evictChoice : Nat → Nat

def numClusters : Nat := 512
def tilesPerCluster : Nat := 64
def numTiles : Nat := 32768
def logicalPerCluster : Nat := 62
def requestSlots : Nat := 200000
def stagingSlots : Nat := 3072
def progMax : Nat := 4096
def stackBytes : Nat := 0x1800000000
def ledgerEntries : Nat := 458752
def dataRows : Nat := 512
def allRows : Nat := 520
def allCols : Nat := 520

/-- The upper limit of the ordering code's rated range, in whole °C (R1, R114). -/
def ratedMax : Nat := if isE then 105 else 100

end Sys2Proof.Config
end

