-- ==== Sys2Proof/Machine/State.lean ====
section
/-! DEFINITION. The state of one ZM9 package: plain data, one record per block. A field's docstring reads
"meaning | width | file and rule of spec/ | reset value". Reset values marked "log <n>" are the model's (DESIGN CHOICE or
PRESUMED); the others are the spec's. -/

namespace Sys2Proof.Machine

/-- Sparse data by key: keys strictly rising, no entry equal to its default (Ops.lean gives the operations). -/
abbrev SMap (α : Type) := List (Nat × α)

/-- Why the machine stops with a fault. No command of the spec ends in one: every exceptional case of the spec has a
defined outcome that leaves a next state (R20). -/
inductive Fault where
  /-- Raised by nobody; the type needs a member. Safe: a fault stops the machine. -/
  | none
  deriving DecidableEq, Repr

/-- Why a command is refused. -/
inductive Refusal where
  /-- Raised by an arm of `exec` whose command has no meaning yet. Safe: the machine stops. -/
  | notModelled (mnemonic : String)
  deriving DecidableEq, Repr

/-- Where the package is between power-off and service (R386, R410, R380, R463). -/
inductive Phase where
  | off | inReset | booting | ready | bootFailed | tripped | testHeld
  deriving DecidableEq, Repr

/-- The RESET block and the latches behind it. -/
structure ResetBlk where
  /-- Where the package is between power-off and service | — | 12 R386 | booting: right after the release of a cold reset -/
  phase : Phase
  /-- RESET_CAUSE.CAUSE | 4 | 12 R394 | 0x0 cold power-up (MRAM) -/
  cause : BitVec 4
  /-- RESET_CAUSE.LAST_TRIP | 4 | 12 R394 | 0x0 none (MRAM as manufactured, DESIGN CHOICE, log 3) -/
  lastTrip : BitVec 4
  /-- RESET_CAUSE.WARM_COUNT | 16 | 12 R394 | 0 (MRAM as manufactured, DESIGN CHOICE, log 3) -/
  warmCount : U16
  /-- RESET_CAUSE.STACK_KEPT | 1 | 12 R384 | 0 (after a cold reset) -/
  stackKept : Bool
  /-- Stack-retention latch: content lost | 1 | 12 R372 | 1 (a cold reset is one that shows it lost, R384) -/
  retentionLost : Bool
  /-- Trip latch, THERMTRIP_N asserted | 1 | 12 R380 | 0 (DESIGN CHOICE, log 3) -/
  tripLatched : Bool
  /-- The reset in progress is held by a brown-out until VIN_IVR has been above 1.74 V for 1 ms | 1 | 12 R372 | 0 -/
  brownHeld : Bool
  /-- PERST_N asserted | 1 | 12 R385 | 0 (released) -/
  perst : Bool
  /-- RESET_N asserted | 1 | 12 R385 | 0 (released) -/
  resetN : Bool
  /-- The reset last entered has the scope of a cold reset | 1 | 12 R384 R391 | 1 -/
  cold : Bool
  /-- The reset last entered is a device soft reset | 1 | 12 R383 R387 | 0 -/
  soft : Bool
  /-- The stack is in self-refresh | 1 | 12 R385 | 0 (a cold reset has no content to keep) -/
  selfRefresh : Bool
  /-- The 96 regulator phases are on | 1 | 12 R392 R380 | 1 -/
  regulators : Bool
  /-- VDD_SER and VDDH_SER within limits | 1 | 16 R467 | 1 -/
  serUp : Bool
  /-- VDD_AUX within limits | 1 | 16 R467 | 1 -/
  auxUp : Bool
  /-- VIN_IVR at or above 1.74 V since it last rose through it | 1 | 12 R369 R392 | 1 -/
  vinUp : Bool
  /-- Time for which it has been so in a reset, up to 1 ms | ns | 12 R372 | 0 -/
  vinFor : Nat
  /-- CLOCK_STATUS.ROOT_LOCK | 1 | 07 R238 | 0; 1 once 0.1 ms have passed since release (R386; log 139) -/
  rootLock : Bool
  /-- CLOCK_STATUS.LOCK_LOSS | 16 | 07 R238 | 0 (MRAM as manufactured, DESIGN CHOICE, log 3) -/
  lockLoss : U16
  /-- Root-clock periods since release, from which the slot counter of the mesh follows | 64 | 07 R214 R236 | 0 -/
  rootCount : U64
  /-- Device time of the last service of the watchdog | 64 | 12 R390 | 0 -/
  watchdogAt : U64
  deriving DecidableEq, Repr

/-- The GLOBAL block and the host link. -/
structure Glob where
  /-- GLOBAL_TIME, device time in ns | 64 | 07 R238 | 0 -/
  timeNs : U64
  /-- Sampled NODE_ID strap | 7 | 16 R463 | 0 (DESIGN CHOICE, log 3) -/
  node : BitVec 7
  /-- Sampled SPARE_SEL strap | 1 | 16 R463 | 0 (DESIGN CHOICE, log 3) -/
  spareStrap : Bool
  /-- HOST_LINK_STATUS.CXL_ACTIVE | 1 | 08 R272 | 0 -/
  cxlActive : Bool
  /-- HOST_LINK_STATUS.MODE_ERR | 1 | 08 R272 | 0 -/
  modeErr : Bool
  /-- HOST_LINK_STATUS.IDE_IO | 1 | 08 R272 | 0 -/
  ideIo : Bool
  /-- HOST_LINK_STATUS.IDE_CM | 1 | 08 R272 | 0 -/
  ideCm : Bool
  /-- HOST_LINK_STATUS.WIDTH | 5 | 08 R272 | 0 -/
  width : BitVec 5
  /-- HOST_LINK_STATUS.RATE | 8 | 08 R272 | 0 -/
  rate : Byte
  /-- GLOBAL_LOCK.LOCKED | 9 | 15 R448 | 0 -/
  locks : BitVec 9
  /-- GLOBAL_TARGET.ERR | 1 | 15 R447 | 0 -/
  targetErr : Bool
  /-- Memory_Active of the CXL DVSEC range registers | 1 | 08 R242 | 0 -/
  memoryActive : Bool
  /-- The HDM decoder is committed | 1 | 08 R240 | 0 -/
  hdmCommitted : Bool
  /-- HDM decoder Error Not Committed | 1 | 08 R240 | 0 -/
  hdmError : Bool
  /-- NumVFs | 7 | 08 R240 | 0 -/
  numVfs : Nat
  /-- Uncorrectable internal errors logged through CXL.io error reporting | — | 08 R240 | none -/
  uncorrInternal : Nat
  /-- Mailbox event interrupt policy | 32 | 08 R246 | 0 (DESIGN CHOICE, log 4) -/
  eventPolicy : U32
  /-- Mailbox timestamp as last set | 64 | 08 R240 | 0 (DESIGN CHOICE, log 4) -/
  timestamp : U64
  /-- Device time at which the timestamp was set | 64 | 08 R240 | 0 (DESIGN CHOICE, log 4) -/
  timestampAt : U64
  /-- Words of the set-up registers as last written, by BAR0 word number; an unlisted word holds its reset value | 32 each | 15 R445 | Reset column of each field table -/
  regs : SMap U32
  /-- Words in force of the registers that take effect at a boundary | 32 each | 15 R443 | Reset column of each field table -/
  inForce : SMap U32
  /-- Jobs that have yet to pass a boundary before device-wide words written meanwhile are in force | — | 01 R24, 06 R476 | none -/
  regsOwed : List Nat
  /-- Latched words of a wide register | 32 each | 15 R441 | 0 -/
  latched : SMap U32
  /-- Held words of a wide write, by BAR0 word number | 32 each | 15 R441 | none -/
  heldWords : SMap (Option U32)
  deriving DecidableEq, Repr

/-- A job of SYS_JOB (R298). -/
structure JobSetup where
  /-- SYS_JOB.VALID, ACTIVE, STOPPED | 1 each | 09 R313 | 0 -/
  valid : Bool
  active : Bool
  stopped : Bool
  /-- SYS_JOB origin and extents, bits [11:0] | 12 | 09 R313 | 0 -/
  shape : BitVec 12
  deriving DecidableEq, Repr

/-- What the primary has sent its standby and holds until it is acknowledged, in order (R296). -/
inductive StandbyItem where
  /-- A change to a queue-pair or ring context. -/
  | context
  | command (position : Nat) (c : FwdCmd)
  | write (m : HostWriteMsg)
  deriving DecidableEq, Repr

/-- System membership, gateway and lease. -/
structure SysBlk where
  /-- SYS_LEASE.EPOCH as last written | 32 | 09 R313 | 0 -/
  leaseEpoch : U32
  /-- Highest lease epoch seen | 32 | 09 R290 R294 | 0 -/
  highEpoch : U32
  /-- SYS_LEASE.VALID | 1 | 09 R313 | 0 -/
  leaseValid : Bool
  /-- Device time of the last renewal | 64 | 09 R294 | 0 -/
  leaseAt : U64
  /-- Device time of the last lease beacon heard | 64 | 09 R310 | 0 -/
  beaconAt : U64
  /-- Node of the package whose beacons are heard | 7 | 09 R295 | 0 (DESIGN CHOICE, log 4) -/
  gwNode : BitVec 7
  /-- SYS_STATUS.FORMED, PRIMARY, STANDBY, STANDBY_SYNC, FENCED | 1 each | 09 R313 | 0 -/
  formed : Bool
  primary : Bool
  standby : Bool
  standbySync : Bool
  fenced : Bool
  /-- SYS_STATUS.FORM_ERR | 3 | 09 R313 | 0 -/
  formErr : BitVec 3
  /-- SYS_STATUS.COORD_VALID and POSITION | 1, 6 | 09 R313 | 0 -/
  coordValid : Bool
  position : Nat
  /-- SYS_POSMAP | 8 each, 64 | 09 R313 | 0 -/
  posMap : SMap Byte
  /-- FL_ROUTE | 8 each, 128 | 09 R313 | 0b0111: unreachable -/
  route : SMap Byte
  /-- SYS_JOB set-ups | 32 each, 64 | 09 R313 | 0 -/
  jobs : SMap JobSetup
  /-- Formation is collecting topology reports since this time | — | 09 R292 | none -/
  collecting : Option U64
  /-- The pending route pushes | — | 09 R305 | none -/
  push : List RoutePush
  /-- The topology as collected at formation | — | 09 R292 | none -/
  topo : List TopoReport
  /-- Device time of the topology request answered last | — | 09 R292 | none -/
  topoAt : Option U64
  /-- Device time in the newest beacon passed on | 64 | 09 R295 | 0 -/
  beaconTime : U64
  /-- Positions out of reach, with the device time since which they are (known at the primary) | 6, 64 | 09 R306 | none -/
  unreached : List (Nat × U64)
  /-- The standby in sync that leads and members push to, with its hops from the primary | 7, — | 09 R296 | none -/
  standbyKnown : Option (BitVec 7 × Nat)
  /-- SHARD_VERSION of each job, as the commit reports name it (known at the primary) | 32 each | 09 R312 | 0 -/
  versions : SMap U32
  /-- Ports reported down, as node and port (known at the primary) | 7, 3 each | 09 R305 R306 | none -/
  broken : List (BitVec 7 × Nat)
  /-- Packages whose position was declared lost (known at the primary) | 7 each | 09 R306 | none -/
  gone : List (BitVec 7)
  /-- Route tables as last pushed, the latest first (known at the primary) | — | 09 R286 R305 | none -/
  tables : List (BitVec 7 × List (Nat × BitVec 8))
  /-- Partitions whose jobs hold until the activation | — | 09 R305 | none -/
  holding : List Nat
  /-- Positions declared lost | — | 09 R306 | none -/
  lost : List Nat
  /-- Spares present | 4 | 08 R249 | 0 -/
  spares : Nat
  /-- A re-step of device time pending for the next boundary: the new offset from the parent | — | 09 R293 | none -/
  reStep : Option U64
  /-- Device time is aligned to the parent | 1 | 09 R293 | 0 -/
  aligned : Bool
  /-- The fenced package has heard a beacon and rejoins | 1 | 09 R312 | 0 -/
  rejoining : Bool
  /-- Commands and writes that wait for the standby | — | 09 R296 | none -/
  standbyHeld : List StandbyItem
  /-- Partitions and positions whose spare has not yet reported its commit (known at the primary) | 6, 6 | 09 R308 | none -/
  awaiting : List (Nat × Nat)
  deriving DecidableEq, Repr

/-- A message whose flits a port has yet to send: its number among the messages sent, from 1, its virtual channel, dateline class and header,
the flits left, and whether one has left (R281, R283, R286). -/
structure TxMsg where
  message : Nat
  vc : BitVec 2
  dl : Bool
  head : BitVec 128
  flits : Nat
  begun : Bool
  deriving DecidableEq, Repr

/-- A flit in the replay buffer (R277, R278): its sequence number, the number among the messages sent of what it carries, its header and
initialisation vector, whether it is the first of a message, and how often it has been replayed. -/
structure SentFlit where
  seq : U64
  message : Nat
  header : U32
  iv : BitVec 96
  first : Bool
  replayed : Nat
  deriving DecidableEq, Repr

/-- What a port tells the far end itself: NAK flits and link-control flits (R277, R290, R304, R421, R422). -/
inductive LinkCtl where
  | hello
  | nak
  | degrade (acknowledge : Bool)
  | keyExchange
  | keySwitch
  deriving DecidableEq, Repr

/-- One Fesin port. -/
structure Port where
  /-- FL_STATUS.STATE | 3 | 09 R313 | 0 down -/
  state : BitVec 3
  /-- FL_STATUS.WIDTH | 4 | 09 R313 | 0 -/
  width : BitVec 4
  /-- FL_STATUS.FAULTY | 8 | 09 R313 | 0 -/
  faulty : Byte
  /-- FL_STATUS.PEER_NODE and PEER_PORT | 7, 3 | 09 R313 | 0 -/
  peerNode : BitVec 7
  peerPort : BitVec 3
  /-- The port holds link keys; the number of key sets agreed so far | — | 09 R277, 13 R411 | none -/
  keyed : Bool
  keySet : Nat
  /-- GCM salts of the two directions, sent and received | 32 each | 09 R277, 13 R421 | 0 (no keys, DESIGN CHOICE, log 4) -/
  saltTx : U32
  saltRx : U32
  /-- Lanes that the far end has reported as not healthy | 8 | 09 R304 | 0 -/
  peerBad : Byte
  /-- The far end's node ID collides with another's, so the link is held down | 1 | 09 R289 | 0 -/
  heldDown : Bool
  /-- Flit sequence number of the next flit received in order | 64 | 09 R277 | 0 -/
  rxSeq : U64
  /-- Flit sequence number of the next flit sent | 64 | 09 R277 | 0 -/
  txSeq : U64
  /-- Replay buffer: flits sent and not acknowledged, by sequence number | 1,024 flits | 09 R278 | empty -/
  replay : List SentFlit
  /-- NAK and link-control flits that wait for a place in the replay buffer | — | 09 R278 | none -/
  ctl : List LinkCtl
  /-- Consecutive replays of the flit last named by a NAK | — | 09 R278 | 0 -/
  replays : Nat
  /-- Flit after the last good one that the NAK being counted named | 12 | 09 R278 | 0 -/
  replayOf : BitVec 12
  /-- Device times of recent tag failures on correct codewords | — | 09 R279 | none -/
  tagFails : List U64
  /-- Messages received in part | — | 09 R287 | none -/
  partials : List Nat
  /-- HELLO_SEQ | 16 | 09 R290 | 0 -/
  helloSeq : U16
  /-- Device time of the last HELLO received | 64 | 09 R290 | 0 -/
  helloAt : U64
  /-- Device time at which the port's own last HELLO left | 64 | 09 R293 | 0 -/
  helloSentAt : U64
  /-- Local receive time of the last HELLO minus its TX_TIME | 64 | 09 R293 | 0 -/
  away : U64
  /-- Link delay measured | ns | 09 R293 | 0 -/
  delay : Nat
  /-- Device time at which a retrain began | — | 09 R278 | none -/
  retrainAt : Option U64
  /-- The retrain in progress was ordered by the host | 1 | 09 R304 | 0 -/
  hostRetrain : Bool
  /-- Messages that wait for the port, oldest first | — | 09 R281 | none -/
  tx : List TxMsg
  /-- Flits that the far end can still take, by 2 × virtual channel + dateline class | — | 09 R280 | its receive buffers, empty -/
  credits : List Nat
  /-- Flits taken out of the own receive buffers whose credits have not been returned, likewise | — | 09 R281 | 0 -/
  owed : List Nat
  /-- Flit times since an idle flit returned credits | — | 09 R281 | 0 -/
  idleGap : Nat
  /-- Time until the next flit can leave | 0.01 ns | 09 R276 | 0 -/
  txWait : Nat
  /-- Device time at which the 1 µs window of the VC1 floor began, and flits of VC1 sent in it | 64, — | 09 R280 | 0 -/
  floorAt : U64
  floorSent : Nat
  deriving DecidableEq, Repr

/-- One window ID (R299). -/
structure Window where
  /-- Open; partition; base block; blocks | 1, 6, 23, 17 | 09 R299 | closed, 0 -/
  isOpen : Bool
  partition : Nat
  base : BitVec 23
  blocks : Nat
  /-- Epoch | 16 | 09 R301 | 0 (MRAM as manufactured, DESIGN CHOICE, log 3) -/
  epoch : U16
  deriving DecidableEq, Repr

/-- A one-sided write this package has sent (R302). -/
structure Transfer where
  xfer : BitVec 12
  windowId : BitVec 12
  partition : Nat
  sentAt : U64
  /-- Outcome once known. -/
  done : Option Byte
  /-- The step of RUN_OPERATOR that it belongs to, if any (R302). -/
  step : Option U48
  deriving DecidableEq, Repr

/-- Step data in the ingress buffer of its virtual channel (R218, R284). -/
structure StepData where
  partition : Nat
  step : U48
  vc : BitVec 2
  rows : List (BitVec 4096)
  deriving DecidableEq, Repr

/-- The links block: ports, windows and transfers. -/
structure LinkBlk where
  /-- FL0 to FL5 | — | 09 R313 | every port down -/
  ports : SMap Port
  /-- Window table | 4,096 entries | 09 R299 | closed -/
  windows : SMap Window
  /-- Transfers sent | — | 09 R302 | none -/
  transfers : List Transfer
  /-- Next transfer tag | 12 | 09 R299 | 0 -/
  nextXfer : BitVec 12
  /-- Ingress buffers of the I/O ring | — | 09 R284, 07 R218 | empty -/
  ingress : List StepData
  /-- Messages sent that have been given to a port | — | 09 R285 | 0 -/
  handed : Nat
  /-- Messages to be injected again, by number | — | 09 R287 | none -/
  again : List Nat
  deriving DecidableEq, Repr

/-- A queue-pair context and the gateway's bookkeeping of the pair (R252, R257, R271). -/
structure QCtx where
  /-- SQ_BASE, CQ_BASE | 64 each | 08 R252 | — (0 until created, log 4) -/
  sqBase : U64
  cqBase : U64
  /-- SQ_LOG2, CQ_LOG2 | 5 each | 08 R252 | — (log 4) -/
  sqLog2 : Nat
  cqLog2 : Nat
  /-- VECTOR, IRQ_EN, PIN | 11, 1, 1 | 08 R252 | — (log 4) -/
  vector : BitVec 11
  irqEn : Bool
  pin : Bool
  /-- COAL_COUNT, COAL_TIME | 8 each | 08 R252 | — (log 4) -/
  coalCount : Byte
  coalTime : Byte
  /-- HALTED | 1 | 08 R252 | 0 -/
  halted : Bool
  /-- SQ_HEAD | 16 | 08 R252 | 0 -/
  sqHead : U16
  /-- CQ_TAIL | 18 | 08 R252 | 0 -/
  cqTail : BitVec 18
  /-- CQ_PHASE | 1 | 08 R252 | 1 -/
  cqPhase : Bool
  /-- SQ_TAIL and CQ_HEAD as last taken from the doorbell record | 16, 18 | 08 R255 | 0 -/
  sqTail : U16
  cqHead : BitVec 18
  /-- Completions owed to fetched commands | — | 08 R257 | 0 -/
  owed : Nat
  /-- Completions not yet signalled, and the time of the first | — | 08 R271 | 0 -/
  unsignalled : Nat
  firstUnsignalled : U64
  deriving DecidableEq, Repr

/-- An output-ring context (R252). -/
structure RCtx where
  /-- RING_BASE | 64 | 08 R252 | — (log 4) -/
  base : U64
  /-- LOG2 | 5 | 08 R252 | — (log 4) -/
  log2 : Nat
  /-- VECTOR, IRQ_MODE | 11, 2 | 08 R252 | — (log 4) -/
  vector : BitVec 11
  irqMode : BitVec 2
  /-- W | 32 | 08 R252 | 0 -/
  w : U32
  deriving DecidableEq, Repr

/-- A function's QUEUE_CTX and CL_IND access registers (R252, R449). -/
structure FnRegs where
  /-- QUEUE_CTX_SEL | 32 | 08 R252 | 0 -/
  ctxSel : U32
  /-- QUEUE_CTX_DATA | 256 | 08 R252 | 0 -/
  ctxData : BitVec 256
  /-- QUEUE_CTX_CMD.RESULT | 4 | 08 R252 | 0 -/
  ctxResult : BitVec 4
  /-- CL_IND_SEL | 64 | 15 R449 | 0 -/
  indSel : U64
  /-- CL_IND_CMD.CLUSTER | 9 | 15 R449 | 0 -/
  indCluster : BitVec 9
  /-- CL_IND_CMD.RESULT | 4 | 15 R449 | 0 -/
  indResult : BitVec 4
  /-- CL_IND_DATA | 8 words of 64 | 15 R449 | 0 -/
  indData : List U64
  /-- MSI-X table, by word | 32 each, 8,192 | 08 R245 R271 | 0, every vector masked (PRESUMED, PCI Express, log 80) -/
  msixTable : SMap U32
  /-- MSI-X pending bits, by vector | 1 each, 2,048 | 08 R245 R271 | 0 (DESIGN CHOICE, log 80) -/
  msixPending : SMap Bool
  /-- Message Control of the MSI-X capability: Enable in bit 15, Function Mask in bit 14 | 16 | 08 R271 | 0 (PRESUMED, PCI Express, log 80) -/
  msixCtl : U16
  deriving DecidableEq, Repr

/-- What the device has written to host memory, in posted order (R268). -/
inductive HostWrite where
  | completion (queue : Nat) (addr : U64) (data : BitVec 256)
  | record (ring : Nat) (addr : U64) (data : U64)
  | admission (fn : Nat) (addr : U64) (data : U64)
  | msix (fn : Nat) (vector : BitVec 11) (addr : U64) (data : U32)
  | buffer (fn : Nat) (addr : U64) (data : List Byte)
  | tracePage (partition : Nat) (addr : U64) (data : List Byte)
  deriving DecidableEq, Repr

/-- An event record in the CXL event log (R246). -/
inductive EventRec where
  /-- `position`: that of the package, where the map gives it one (R377). -/
  | throttle (position : Option Nat) (n : Notice)
  | capacityLoss (cluster ltile : Nat)
  | spadExhausted (cluster row : Nat)
  /-- The package named for exchange, by its node ID (R346). -/
  | pcExhausted (node : BitVec 7) (pc : Nat)
  | shardUnrecoverable (partition : Nat)
  | violation (partition : Nat)
  deriving DecidableEq, Repr

/-- A partition entry of the attestation report (R420); the digests are carried as what they cover (log 14). -/
structure AttestPart where
  valid : Bool
  secure : Bool
  cfg : U64
  quota : U32
  queues : U32
  regions : BitVec 128
  owner : Option (BitVec 384)
  clusters : BitVec 512
  manifest : BitVec 384
  deriving DecidableEq, Repr

/-- The attestation report (R419), its partition entries as R420 lays them out; its two signatures are not computed (log 14). -/
structure AttestReport where
  magic : U32
  format : U16
  length : Nat
  serial : BitVec 128
  orderingE : Bool
  stepping : Byte
  node : BitVec 7
  position : Nat
  identity : List (BitVec 384)
  owner0 : Option (BitVec 384)
  images : List (Byte × Nat × Bool × BitVec 384)
  lifecycle : BitVec 2
  minSvn : List (Nat × Nat)
  ideRequired : Bool
  fusedKeys : List (BitVec 384)
  debug : Nat
  debugSeen : Nat
  debugExpiry : U32
  nonce : BitVec 256
  time : U64
  ltime : U32
  partitions : List (BitVec 1536)
  deriving DecidableEq, Repr

/-- What a read or a request is answered with. -/
inductive Reply where
  | word (value : U64)
  | bytes (data : List Byte)
  | unsupported
  | events (records : List EventRec)
  | nonce (value : BitVec 256)
  | ownerOk
  | ownerError
  | publicKeys (slot : Nat) (generation : Nat)
  | attestation (r : AttestReport)
  | cdat (latencyNs : Nat)
  | tdo (value : Option U32)
  | i3c (value : U32)
  | i3cNack
  deriving DecidableEq, Repr

/-- Logits of one sampled row, from vocabulary entry `first` on; none: poison (R195, R202). -/
structure LogitPart where
  partition : Nat
  handle : U32
  pos : BitVec 20
  first : Nat
  values : List (Option U32)
  deriving DecidableEq, Repr

/-- Messages this package has put on its links (R284), by what they carry. -/
inductive OutMsg where
  | hello (port : Nat) (h : Hello)
  | nak (port : Nat) (seq : BitVec 12)
  | replayFrom (port : Nat) (seq : U64)
  | degrade (port : Nat) (acknowledge : Bool) (healthy : Byte)
  | keyExchange (port : Nat)
  | keySwitch (port : Nat) (seq : U64)
  | windowAck (dst : BitVec 7) (windowId xfer : BitVec 12) (epoch : U16) (status : Byte)
  | windowWrite (position : Nat) (m : WinWrite)
  | command (position : Nat) (c : FwdCmd)
  | stepCtl (position partition : Nat) (d : StepDesc)
  | stepData (partition : Nat) (step : U48) (classZero : Bool) (rows : Nat)
  | hostWrite (m : HostWriteMsg)
  | routePush (node : BitVec 7) (p : RoutePush)
  | partReset (n : Nat)
  /-- A member's boundary tag for the lead (R178, R183, R354). -/
  | tag (partition : Nat) (t : MemberTag)
  | linkDown (port : Nat)
  /-- A head device sends the logits of a row to the lead (R171, R284). -/
  | logits (x : LogitPart)
  /-- A row that the lead asked for, embedded: Z8 blocks with their exponents (R171). -/
  | embedded (partition : Nat) (step : U48) (blocks : List (Byte × List Byte))
  | topologyRequest
  | topologyReport (r : TopoReport)
  | beacon (node : BitVec 7) (epoch : U32) (time : U64)
  | counters (position : Nat) (values : List (Nat × U64)) (lost : List U32)
  | notice (n : Notice)
  | partSetup (p : PartSetup)
  /-- `dst`: NODE_ADDR and DST of the message header, for a spare is not yet mapped (R283, R298, R308). -/
  | jobPush (dst : Byte) (n : Nat) (w : U32)
  | crocus (p : CrocusPack)
  /-- `dst`: NODE_ADDR and DST of the message header (R283, R447). -/
  | registerAccess (dst : Byte) (offset : Nat) (write : Option U64)
  | bulk (b : BulkBody)
  /-- A read of host memory for a partition's shard, through the gateway (R321). -/
  | hostRead (partition : Nat) (addr : U64) (length : Nat)
  /-- A block of the golden bank or of the Dahlia weights is wanted again, from the −X neighbour's replica or from host memory (R233). -/
  | refetch (partition block : Nat) (replica : Bool)
  /-- A step of device time for the children; `away`: by port, this package's receive time of the far end's last HELLO minus its TX_TIME
  (R293). -/
  | timeStep (time : U64) (away : List (Nat × U64))
  /-- A read of prompt words through the gateway, for the request of a queue (R244, R263). -/
  | promptRead (queue : Nat) (addr : U64) (length : Nat)
  /-- An idle flit of a port returns credits, by 2 × virtual channel + dateline class (R281). -/
  | credits (port : Nat) (counts : List Nat)
  /-- A message of another package that is only forwarded: the port and dateline class it came by, its channel and header (R282, R286). -/
  | transit (port : Nat) (dl : Bool) (vc : BitVec 2) (head : BitVec 128)
  deriving DecidableEq, Repr

/-- A read of host memory by this package as gateway: the function whose requester ID it carries, address and bytes (R244). -/
structure HostRead where
  fn : Nat
  addr : U64
  length : Nat
  deriving DecidableEq, Repr

/-- A command the gateway has fetched and not completed (R257, R265). -/
structure Outstanding where
  queue : Nat
  tag : U64
  opcode : Byte
  partition : Nat
  /-- The admitted request's handle, once its admission word has passed. -/
  handle : Option U32
  /-- Output ring and admission address of a submission; 0 otherwise. -/
  ring : Nat
  admitAddr : U64
  sqHead : U16
  deriving DecidableEq, Repr

/-- The host attachment. -/
structure HostBlk where
  /-- Queue-pair contexts | 256 each, 262,144 | 08 R252 | none -/
  queues : SMap (Option QCtx)
  /-- Output-ring contexts | 256 each, 262,144 | 08 R252 | none -/
  rings : SMap (Option RCtx)
  /-- Contexts cached on the die, newest first | 16,384 | 08 R252 | none -/
  cached : List Nat
  /-- Doorbell records as last seen | 64 each | 08 R255 | 0 (DESIGN CHOICE, log 16) -/
  doorbells : SMap U64
  /-- Doorbell lines held in Shared state | — | 08 R255 | not held -/
  linesHeld : Bool
  /-- Commands fetched and not completed | — | 08 R257 | none -/
  outstanding : List Outstanding
  /-- Access registers of the PF (0) and of VF n (n) | — | 08 R252, 15 R449 | 0 -/
  fns : SMap FnRegs
  /-- Host-memory writes, in posted order | — | 08 R268 | none -/
  writes : List HostWrite
  /-- Host-memory reads, in the order issued | — | 08 R244 | none -/
  reads : List HostRead
  /-- FLRs that wait: the partition, and the positions whose members have yet to report | — | 12 R388 | none -/
  flrs : List (Nat × List Nat)
  /-- Answers to reads and requests, oldest first | — | 08 R240 R248 | none -/
  replies : List Reply
  /-- Messages put on the links, oldest first | — | 09 R284 | none -/
  sent : List OutMsg
  /-- CXL event log | — | 08 R246 | empty -/
  events : List EventRec
  /-- Request mirror | 128 each, 200,000 | 06 R176, 08 R247 | 0 -/
  mirror : SMap (BitVec 128)
  /-- Counter mirror, device counter n of position p at 1,024 p + n | 64 each | 08 R250 | 0 -/
  ctrMirror : SMap U64
  /-- CTR_TIME by position | 48 each | 08 R249 | 0 -/
  ctrTime : SMap U48
  /-- LOST of the trace rings of other positions, partition n of position p at 64 p + n | 32 each | 14 R437 | 0 -/
  traceLost : SMap U32
  deriving DecidableEq, Repr

/-- Request states (R177). -/
inductive ReqState where
  | free | queued | prefill | decode | draining | done | expired | cancelled | lost
  deriving DecidableEq, Repr

/-- A request-table entry (R174), and what the lead keeps beside it. -/
structure ReqEntry where
  /-- STATE | 4 | 06 R174 | FREE -/
  state : ReqState
  /-- CLASS | 2 | 06 R174 | — (0, log 4) -/
  cls : BitVec 2
  /-- PARTITION | 6 | 06 R174 | — (0, log 4) -/
  partition : Nat
  /-- GEN | 14 | 06 R174 | 0 -/
  gen : BitVec 14
  /-- LEN | 20 | 06 R174 | — (0, log 4) -/
  len : BitVec 20
  /-- PROFILE, STOPSET | 8 each | 06 R174 | — (0, log 4) -/
  profile : Byte
  stopSet : Byte
  /-- MAXLEN | 20 | 06 R174 | — (0, log 4) -/
  maxLen : BitVec 20
  /-- PAGELIST | 23 | 06 R174 | — (0, log 4) -/
  pageList : BitVec 23
  /-- GRAFT_VALID, GRAFT_ID, GRAFT_VER | 1, 12, 16 | 06 R174 | — (0, log 4) -/
  graftValid : Bool
  graftId : BitVec 12
  graftVer : U16
  /-- DEADLINE, DL_VALID | 48, 1 | 06 R174 | — (0, log 4) -/
  deadline : U48
  dlValid : Bool
  /-- SEED | 64 | 06 R174 | — (0, log 4) -/
  seed : U64
  /-- OUT_RING, CQ | 18 each | 06 R174 | — (0, log 4) -/
  outRing : Nat
  cq : Nat
  /-- CANCEL | 1 | 06 R174 | — (0, log 4) -/
  cancel : Bool
  /-- DELIVERED | 20 | 06 R174 | — (0, log 4) -/
  delivered : BitVec 20
  /-- REASON | 4 | 06 R174 | — (0, log 4) -/
  reason : BitVec 4
  /-- TAG | 64 | 06 R174 | — (0, log 4) -/
  tag : U64
  /-- ADMIT_TIME | 48 | 06 R174 | — (0, log 4) -/
  admitTime : U48
  /-- SLOT, SLOT_VALID | 12, 1 | 06 R174 | — (0, log 4) -/
  slot : Nat
  slotValid : Bool
  /-- PROMPT_LEN, PREFILL_POS | 20 each | 06 R174 | — (0, log 4) -/
  promptLen : BitVec 20
  prefillPos : BitVec 20
  /-- MATCH, four lengths | 5 each | 06 R174 | — (0, log 4) -/
  matchLens : List Nat
  /-- Tokens generated last, at most 16, the last one first: what MATCH is computed from | 18 each | 06 R199 | — (none, log 4) -/
  recent : List (BitVec 18)
  /-- INFLIGHT, kept as the count of the request's rows in steps not yet ended at the lead | — | 06 R174 | — (0, log 4) -/
  inflight : Nat
  /-- SQ_HEAD of the submission, echoed in the completion | 16 | 08 R266 | — (0, log 4) -/
  sqHead : U16
  /-- Bus address of the prompt | 64 | 08 R261 R263 | — (0, log 4) -/
  promptAddr : U64
  /-- Token last sampled: the next decode row's token | 18 | 06 R182 | — (0, log 4) -/
  lastToken : BitVec 18
  /-- Device time at which the previous token was sampled, in ns | 64 | 06 R185 | — (0, log 4) -/
  sampledAt : U64
  /-- Device time of the completion write | 48 | 06 R179 | — (0, log 4) -/
  endedAt : U48
  /-- Device time of the last output record; of the arrival of the submission before the first | 48 | 06 R191 | — (0, log 4) -/
  lastRecordAt : U48
  /-- Marked steps that carried the request's row since then | — | 06 R191 | — (0, log 4) -/
  marks : Nat
  /-- Since then the bounds have been suspended at some time: by a protective action, a low budget, a drain or want of pages | 1 | 06 R191 | —
  (0, log 4) -/
  suspended : Bool
  /-- REQ_HOLD has passed since the completion was written | 1 | 06 R179 | — (0, log 4) -/
  holdOver : Bool
  deriving DecidableEq, Repr

/-- The keys and values of one request on this device (R158 to R162). -/
structure KvSeq where
  /-- Data pages in position order | 23 each | 05 R159 | none -/
  pages : List Nat
  /-- List pages in chain order | 23 each | 05 R159 | none -/
  listPages : List Nat
  /-- The one page more that prefill reserves, until it is entered in the list | 23 | 06 R187 | none -/
  spare : Option Nat
  /-- Pseudo-channel whose free list gives the request's next page; none before its first | 5 | 07 R232 | none -/
  turn : Option Nat
  deriving DecidableEq, Repr

/-- A staging slot (R160). -/
structure Staging where
  /-- Slot is open for this request slot | 18 | 05 R160 | free -/
  owner : Option Nat
  /-- Home page | 23 | 05 R160 | — (0, log 4) -/
  home : Nat
  /-- FILL | 8 | 05 R160 | — (0, log 4) -/
  fill : Nat
  /-- SCALE of the open page | 16 | 05 R161 | — (0x3F80 when opened) -/
  scale : U16
  /-- σ_page has been set by a position before FILL | 1 | 05 R161 | 0 -/
  scaled : Bool
  /-- Elements written at position FILL, by stream, before they are coded | BF16 | 05 R161 | none -/
  raw : List (Nat × List U16)
  /-- Content of the slot, by byte of the page image | 16 KiB | 05 R160 | 0 until written (log 5) -/
  data : SMap Byte
  deriving DecidableEq, Repr

/-- A graft version held (R204). -/
structure GraftVersion where
  /-- Version number | 16 | 06 R204 | — -/
  ver : U16
  /-- Reference count | — | 06 R181 | 0 -/
  refs : Nat
  /-- Marked unusable after an uncorrectable block | 1 | 07 R233 | 0 -/
  unusable : Bool
  /-- Bytes of the graft area it takes | — | 06 R203 | — -/
  bytes : Nat
  /-- This member's part | — | 06 R203 | — -/
  blocks : List GraftBlock
  deriving DecidableEq, Repr

/-- A graft load in progress: the version being created (R204), and the number of the load, which tells a later load of the same version from
one that failed (log 167). -/
structure GraftPending where
  origin : Origin
  ver : U16
  load : Nat
  /-- Positions that have yet to report. -/
  waiting : List Nat
  bytes : Nat
  blocks : List GraftBlock
  deriving DecidableEq, Repr

/-- A graft ID (R204). -/
structure Graft where
  /-- Current version; 0 before the first | 16 | 06 R204 | 0 -/
  current : U16
  /-- Version most recently created | 16 | 06 R204 | 0 -/
  created : U16
  /-- Retired: accepts no bindings | 1 | 06 R205 | 0 -/
  retired : Bool
  /-- Live versions | — | 06 R204 | none -/
  live : List GraftVersion
  /-- Loads in progress, oldest first | — | 06 R204 | none -/
  pending : List GraftPending
  /-- Loads of the ID begun by this package as lead | — | 06 R204 (log 167) | 0 -/
  loads : Nat
  deriving DecidableEq, Repr

/-- A token drawn and not yet applied at the boundary (R195). -/
structure FoxResult where
  handle : U32
  pos : BitVec 20
  poison : Bool
  token : BitVec 18
  /-- Device time of the draw. -/
  drawnAt : U64
  /-- LOGP in U8.8. -/
  logp : U16
  deriving DecidableEq, Repr

/-- What Dypol's schedule declares for a job (R168, R147, R158). -/
structure JobParams where
  vocab : Nat
  streams : Nat
  posBytes : Nat
  ctxLimit : Nat
  demand : Nat
  /-- KV format: BF16 rather than FP8 (R157). -/
  kvBf16 : Bool
  /-- Weighting profile of the clusters, empty for none (R75). -/
  weights : List Nat
  /-- Link hops of one round, and the stages of the pipeline, members first in member order (R168, R191). -/
  hops : Nat
  plan : List StagePlan
  /-- Token IDs whose embedding rows this device holds, and the position that holds the others (R171). -/
  embedFirst : Nat
  embedCount : Nat
  embedOther : Option Nat
  deriving DecidableEq, Repr

/-- A drain in progress (R207). -/
structure Drain where
  origin : Origin
  dr : U48
  drValid : Bool
  /-- SHARD_VERSION that every member is to hold. -/
  target : U32
  ended : Bool
  deriving DecidableEq, Repr

/-- An operator in progress (R260, R165). -/
structure Operator where
  origin : Origin
  spec : OperatorSpec
  started : Bool
  /-- Its step, once started | 48 | 06 R184 | 0 -/
  step : U48
  /-- Gradients that the members have reported, by layer | FP32 words | 05 R166 | none -/
  grads : List (Nat × List Byte)
  /-- First status other than SUCCESS of one of its transfers | 8 | 09 R302 | none -/
  xfer : Option Byte
  deriving DecidableEq, Repr

/-- A Z8 vector of a tuning step: the row and layer, the band of 512 elements, mantissas and exponents (R166). -/
structure TuningVec where
  row : U32
  layer : Nat
  band : Nat
  ms : List Byte
  es : List Byte
  deriving DecidableEq, Repr

/-- What a tuning step keeps on this member: the inputs of layers with graft entries, the output gradients that their tiles are driven with,
the attention output of each head as FP32 words (none: poison), the row statistics (m, l), and the loss gradients (R156, R166). -/
structure TuningRec where
  inputs : List TuningVec := []
  deltas : List TuningVec := []
  heads : List (U32 × Nat × Nat × List (Option U32)) := []
  stats : List (U32 × Nat × Nat × Rat × Rat) := []
  loss : List (U32 × List (Option U32)) := []
  deriving DecidableEq, Repr

/-- A step being computed by this member (R184, R106 to R109). -/
structure MemberStep where
  desc : StepDesc
  /-- Marked for replay | 1 | 03 R109 | 0 -/
  marked : Bool
  /-- The schedule has begun | 1 | 07 R212 | 0 -/
  started : Bool
  /-- The boundary work is over: the schedule begins at slot 0 of the next frame | 1 | 07 R212 | 0 -/
  due : Bool
  /-- Device time at which the schedule began | 64 | 07 R212 | 0 -/
  startedAt : U64
  /-- What a tuning step keeps | — | 05 R166 | none -/
  tuning : TuningRec := {}
  deriving DecidableEq, Repr

/-- A LOAD_SHARD outstanding at the lead (R325). -/
structure LoadCmd where
  origin : Origin
  /-- Member indices that have yet to report. -/
  waiting : List Nat
  /-- Failed members with their status. -/
  failed : List (Nat × Byte)
  deriving DecidableEq, Repr

/-- A CALIBRATE command outstanding (R260). -/
structure CalCmd where
  origin : Origin
  /-- Tiles selected here that have yet to stage. -/
  tiles : List Nat
  /-- Tiles selected. -/
  count : Nat
  /-- Positions that have yet to report. -/
  waiting : List Nat
  deriving DecidableEq, Repr

/-- What a member's last boundary tag told of its pages: FREE_PAGES, T_p, and the numbers of the first step that it had not begun and of the
first whose full slots it had not flushed (R183, R354; log 168). -/
structure TagPages where
  free : Nat
  positions : Nat
  begun : Nat
  flushed : Nat
  deriving DecidableEq, Repr

/-- Pages that a composed step takes on member `member`: of a prompt when the step begins there, of decode rows when it has ended there
(R162, R187, R354). -/
structure Promise where
  step : Nat
  member : Nat
  prompt : Bool
  pages : Nat
  deriving DecidableEq, Repr

/-- The serving state of one partition's job on this device (R171, R184). -/
structure Job where
  /-- Step number composed next | 48 | 06 R182 | 0 -/
  nextStep : U48
  /-- Steps composed and not ended at the lead, oldest first | — | 06 R184 | none -/
  inFlight : List StepDesc
  /-- Commands received and not yet applied, in fetch order, with the time of arrival | — | 08 R264 | none -/
  cmds : List (FwdCmd × U48)
  /-- Changes tagged to the members with the next descriptor | — | 06 R183 | none -/
  changes : List ReqChange
  /-- Changes applied on this member and not yet passed on with a descriptor | — | 06 R183 | none -/
  carry : List ReqChange
  /-- Drain of a base-weight replacement | — | 06 R207 | none -/
  drain : Option Drain
  /-- SHARD_VERSION of each other member's active bank, as it last reported, by member index | 32 each | 10 R330 | 0 -/
  versions : SMap U32
  /-- SHARD_VERSION of each other member's valid inactive bank, as it last reported | 32 each | 10 R326 | 0 -/
  loaded : SMap U32
  /-- What each other member's last boundary tag told of its pages, by member index | — | 06 R187, 11 R354 | none -/
  pagesOf : SMap (Option TagPages)
  /-- Pages that steps composed have yet to take | — | 06 R187, 11 R354 | none -/
  promised : List Promise
  /-- Number of the first step not begun here, and of the first whose full slots are not flushed here | — | 06 R184, 05 R162 | 0 -/
  begun : Nat
  flushed : Nat
  /-- A LOAD_SHARD outstanding | — | 10 R325 | none -/
  loading : Option LoadCmd
  /-- The step that just ended is to be replayed, and whether the replay runs in held mode | — | 03 R107 R108 | none -/
  replay : Option (StepDesc × Bool)
  /-- Budgets that notices have carried, by node, as taken into the predictions at the last boundary | 16 each | 12 R377 | none -/
  notices : SMap Nat
  /-- Notices that have arrived since | — | 12 R377 | none -/
  noticed : List Notice
  /-- Foxglove results held for the boundary | — | 06 R195 | none -/
  fox : List FoxResult
  /-- Operators in progress, oldest first | — | 05 R148 | none -/
  operators : List Operator
  /-- CALIBRATE commands outstanding: tiles selected | — | 08 R260 | none -/
  calibrates : List CalCmd
  /-- QUERY kind 0x01 commands read at the end of the next boundary | — | 08 R260 | none -/
  queries : List FwdCmd
  /-- Parameters of the schedule in force | — | 05 R168 | none loaded -/
  params : JobParams
  /-- A symbol table is held | 1 | 08 R259 | 0 -/
  symbols : Bool
  /-- The member's step in progress | — | 06 R184 | none -/
  step : Option MemberStep
  /-- Descriptors received and not begun | — | 06 R183 | none -/
  descs : List StepDesc
  /-- Step number of the step last ended on this member | 48 | 14 R432 | 0 -/
  lastStep : U48
  /-- Step number of the step that ended at the last lead boundary | 48 | 06 R176 R189 | 0 (log 23) -/
  boundaryNo : U48
  /-- Steps of the job whose embedding rows the lead has asked this device for | — | 06 R171 | none -/
  lookups : List StepDesc
  /-- Dahlia reservation of the job | 16 | 05 R147, 06 R476 | 0 -/
  reserve : Nat
  /-- The declared demand and the stand-ins' halves that it was last set from, at a boundary | 16 | 05 R147 | 0 -/
  want : Nat
  /-- The active bank is being reprogrammed and verified after a reset; the digests of its clusters have been compared and agree | 1 each |
  10 R332, 12 R388 | 0 -/
  rebuilding : Bool
  digestOk : Bool
  /-- Requests that a migration without a free page has condemned: PREEMPTED at the next lead boundary | — | 07 R234, 11 R354 | none -/
  preempts : List Nat
  /-- What the next boundary tag tells the lead: requests lost here, requests without a page to move to, steps marked here | — | 11 R354,
  06 R178 R191 | none -/
  lostOut : List U32
  preemptOut : List U32
  markOut : List U48
  /-- Operator loads in flight that end with the current step, and the watch list | — | 14 R438 | none -/
  stepEndedAt : U64
  deriving DecidableEq, Repr

/-- The serving state: request table, jobs, grafts, Foxglove set-up in force. -/
structure ServeBlk where
  /-- Request table | 512 each, 200,000 | 06 R174 | FREE, GEN 0 -/
  table : SMap ReqEntry
  /-- Keys and values by request slot | — | 05 R159 | none -/
  kv : SMap KvSeq
  /-- Staging buffer | 3,072 slots | 05 R160 | free -/
  staging : SMap Staging
  /-- Graft IDs | 4,096 | 06 R204 | none loaded -/
  grafts : SMap Graft
  /-- Jobs, by partition | 64 | 06 R184 | idle -/
  jobs : SMap Job
  deriving DecidableEq, Repr

/-- Tile states (R65). -/
inductive TileState where
  | off | blank | programming | verifying | ready | restoring | suspect | standin | retired
  deriving DecidableEq, Repr

/-- The operation that an evaluation is (R74). -/
inductive EvalKind where
  | normal | replay | reeval
  deriving DecidableEq, Repr

/-- An input at a tile's row drivers (R83). -/
structure EdgeVec where
  layer : Nat
  /-- Aligned mantissas by logical row, or by column in transposed evaluation. -/
  a : List Int
  /-- Tile-common exponent E_t | 10 signed | 03 R84 | — -/
  et : Int
  poison : Bool
  transposed : Bool
  /-- First accumulator lane of the tile's data column 0. -/
  accBase : Nat
  handle : U32
  deriving DecidableEq, Repr

/-- An evaluation in progress or whose codes are being settled (R44, R101, R124). -/
structure Eval where
  vec : EdgeVec
  kind : EvalKind
  split : Bool
  /-- Observed split of a clipped evaluation (R50, case 1). -/
  observed : Bool
  /-- Gain classes by column, 0 to 3 | 2 each | 02 R42 | — -/
  classes : List Nat
  startedAt : U64
  /-- The input has had its tile replay (R103). -/
  replayed : Bool
  /-- Re-evaluations the input has had (R124). -/
  reevals : Nat
  /-- Failures of the last check: group or column (9 for a clip in a split half), nibble (low), sign, reference clip (R124). -/
  fails : List (Nat × Bool × Bool × Bool)
  /-- The codes of a split's first half are complete and kept: after a brown-out hold only the second half runs again (R69). -/
  firstHalfKept : Bool
  deriving DecidableEq, Repr

/-- A shadow sample taken and not yet evaluated (R131, R132): the column, the pulses, V before the clamp of the high and the low
nibble, and the code weight. -/
structure ShadowSample where
  col : Nat
  a : List Int
  vHigh : Rat
  vLow : Rat
  weight : Nat
  deriving DecidableEq, Repr

/-- The exact estimates of a tile's offset, gain and curvature (R126). -/
structure Estimate where
  o : Rat
  g : Rat
  k : Rat
  deriving DecidableEq, Repr

/-- One converted part of an evaluation: its rows, whether the high nibble was skipped, its codes by nibble, its corrected offsets in
1/16 code, and the estimates that corrected each nibble (R87, R126, R127). -/
structure Part where
  half : Option Nat
  skip : Bool
  codesH : List Nat
  codesL : List Nat
  dH : List Int
  dL : List Int
  estH : Estimate
  estL : Estimate
  deriving DecidableEq, Repr

/-- Codes accepted under R101 that wait for column patches (R104). -/
structure Settling where
  ev : Eval
  part : Part
  /-- Clipped columns not yet patched. -/
  patches : List Nat
  /-- Columns patched, with their exact values in pu, high and low. -/
  patched : List (Nat × Int × Int)
  deriving DecidableEq, Repr

/-- The restore in progress on a tile (R60, R120). -/
structure Restore where
  row : Nat
  audit : Bool
  rewritten : Nat
  urgent : Bool
  deriving DecidableEq, Repr

/-- Programming progress (R55), with the sums over the rows below 512 of each column's straight-line fit of reading against 15 w, and the
levels and the final verify read of each spare row, which a remap may write again (R57, R130). -/
structure Programming where
  row : Nat
  sums : List (Int × Int × Int × Int × Int)
  spares : SMap (Option (List Int × List Byte))
  deriving DecidableEq, Repr

/-- One physical tile. -/
structure Tile where
  /-- TILE_STATUS.STATE | 4 | 02 R65 R70 | OFF -/
  state : TileState
  /-- TILE_STATUS.REPAIR_PHASE | 2 | 02 R65 | 0 -/
  repair : BitVec 2
  /-- TILE_STATUS.AGED | 1 | 02 R65 | 0 (MRAM as manufactured, DESIGN CHOICE, log 3) -/
  aged : Bool
  /-- AGED decided and not yet in force | 1 | 11 R344 | 0 -/
  agedStaged : Bool
  /-- TILE_ROWMAP, entry k | 16 each, 8 | 02 R37 | invalid (MRAM as manufactured, DESIGN CHOICE, log 3) -/
  rowMap : SMap Nat
  /-- Row remaps that take effect at the next boundary | — | 02 R57 | none -/
  rowMapStaged : SMap Nat
  /-- Pre-split flags, the layers that hold one | — | 02 R50 | none -/
  preSplit : List Nat
  /-- Layers with an observed split in this step; layers with a split evaluation; layers whose halves summed outside the x1 range | — | 02 R50 | none -/
  splitSeen : List Nat
  splitRun : List Nat
  splitWide : List Nat
  /-- Restore credit | fraction | 04 R112 | 0 -/
  credit : Rat
  /-- The tile's restore has been counted overdue | 1 | 04 R116 | 0 -/
  overdue : Bool
  /-- The restore, due or in progress, has been counted urgent | 1 | 04 R116, R142 | 0 -/
  urgentSeen : Bool
  /-- Restore in progress | — | 02 R60 | none -/
  restore : Option Restore
  /-- Device time at which the restore's row in progress ends | 64 | 02 R61 R62 | 0 -/
  rowUntil : U64
  /-- Restores since programming, from p mod 2^AUDIT_LOG2 | — | 04 R120 | 0 -/
  restores : Nat
  /-- Restores since the last audit (TILE_RETENTION.AUDIT_COUNT) | 8, saturating | 04 R141 | 0 (log 4) -/
  sinceAudit : Nat
  /-- Rows rewritten in the last 64 restores at 85 °C or above, newest first | — | 11 R344 | none -/
  rewrites : List Nat
  /-- Ledger times of overdue restores | 32 each | 11 R344 | none -/
  overdues : List Nat
  /-- Programming in progress | — | 02 R55 | none -/
  prog : Option Programming
  /-- The tile waits for programming to be granted | 1 | 02 R58 | 0 -/
  progWait : Bool
  /-- A verification test is admitted and in progress | 1 | 02 R59 R76 | 0 -/
  testing : Bool
  /-- Cells by 520 x physical row + column, level w | 4 signed each | 02 R34 | undefined (free value, log 10) -/
  cells : SMap (Option Int)
  /-- Running estimates | exact | 04 R126 | o 0, g 1, k 0 (R128) -/
  est : Estimate
  /-- Observations since the weights restarted | — | 04 R128 | 0 -/
  obs : Nat
  /-- Estimates at the end of the last calibration | exact | 04 R134 | o 0, g 1, k 0 -/
  calEst : Estimate
  /-- Q squared | exact | 04 R132 | 0.25 (0.5 LSB at READY) -/
  qSq : Rat
  /-- The tile has reached READY since its programming | 1 | 04 R474 | 0 -/
  everReady : Bool
  /-- The degraded report of this calibration period is made | 1 | 04 R133 | 0 -/
  degraded : Bool
  /-- Shadow LFSR | 16 | 04 R131 | — (0, log 4) -/
  lfsr : U16
  /-- Position of the sample in the window; eligible evaluations so far in it; SHADOW_LOG2 of the window | — | 04 R131 | 0 -/
  shadowPos : Nat
  shadowSeen : Nat
  shadowLog : Nat
  /-- Column sampled next | 9 | 04 R131 | 0 -/
  shadowCol : Nat
  /-- Samples taken and not yet evaluated, oldest first | — | 04 R131 | none -/
  samples : List ShadowSample
  /-- Shadow residuals since the last calibration: column, residual, exact value | — | 04 R135 | none -/
  residuals : List (Nat × Rat × Int)
  /-- Sums over the restore verify reads since the last calibration, by physical row: Σ x² and Σ x y of the reading y = c − 128
  against the level x = 15 w' | — | 04 R135 | none -/
  rowStats : SMap (Int × Int)
  /-- TILE_COL_TRIM offset and gain, by column | 6, 5 signed | 04 R141 | — (0, log 4) -/
  colTrim : SMap (Int × Int)
  /-- TILE_ROW_TRIM, by physical row | 4 | 04 R141 | — (8, log 4) -/
  rowTrim : SMap Nat
  /-- Trims staged by a calibration | — | 04 R136 | none -/
  staged : Option (SMap (Int × Int) × SMap Nat)
  /-- Calibration ordered and not complete | 1 | 04 R137 | 0 -/
  calibrating : Bool
  /-- Device time at which the last calibration ended | 64 | 04 R134 | 0 -/
  calAt : U64
  /-- Gain classes of each pair, by layer and column | 2 each | 03 R100 | x1 -/
  classes : SMap (List Nat)
  /-- Peaks of each pair in the current step, by layer | 16 each | 03 R99 | none -/
  peaks : SMap (List Nat)
  /-- Input at the row drivers | — | 03 R83 | none -/
  edge : Option EdgeVec
  /-- Evaluations begun whose last code is outstanding, oldest first | — | 02 R44 R45 | none -/
  evals : List Eval
  /-- Evaluations owed to inputs already begun, in order: replays, observed splits, re-evaluations and those that a brown-out hold
  discarded | — | 02 R45 R50 R68 R69 | none -/
  owed : List Eval
  /-- Accepted codes that wait for patches, oldest first | — | 03 R104 | none -/
  settling : List Settling
  /-- Ledger times of the last three ladder reprograms, newest first | 32 each | 11 R335 | none (MRAM as manufactured, log 3) -/
  ladder : List Nat
  /-- The ladder's ruling is pending: the repair's end and whether it passed | — | 11 R339 | none -/
  repairDone : Option Bool
  /-- A ladder event of the tile awaits its ruling | 1 | 11 R339 R342 | 0 (MRAM as manufactured, log 3) -/
  ruling : Bool
  /-- The ladder reprogram of that event is recorded | 1 | 11 R339 | 0 (MRAM as manufactured, log 3) -/
  recorded : Bool
  /-- Failures of a spare that holds no logical number | — | 11 R341 | 0 -/
  spareFails : Nat
  /-- The spare is being programmed for this logical number | — | 02 R72 | none -/
  spareFor : Option Nat
  deriving DecidableEq, Repr

/-- The correction tables of one logical tile (R210, R323). -/
structure CorrTab where
  /-- Column scales, by data column | 16 each | 03 R81 | 0 until loaded (log 5) -/
  scales : SMap U16
  /-- Residues, by 4 x logical row + group | 11 signed | 02 R52 | 0 until loaded (log 5) -/
  residues : SMap Int
  /-- Static outlier rows, by layer | 9 each, 16 | 03 R96 | none -/
  statics : SMap (List Nat)
  /-- The INT4 weight rows of the static outlier rows, by logical row | 4 signed each, 512 | 03 R97, 07 R210 | none -/
  staticWeights : SMap (List Int)
  deriving DecidableEq, Repr

/-- An accumulator lane (R90 to R92). -/
structure Lane where
  /-- EMPTY, INEXACT, EXT, POISON | 1 each | 03 R92 | 1, 0, 0, 0 -/
  empty : Bool
  inexact : Bool
  ext : Bool
  poison : Bool
  /-- Bits lost when the anchor was raised were not all 0 | 1 | 03 R91 | 0 -/
  sticky : Bool
  /-- ANCHOR | 10 signed | 03 R92 | 0 -/
  anchor : Int
  /-- ACC with its extension word | 48 or 96 signed | 03 R92 | 0 -/
  acc : Int
  deriving DecidableEq, Repr

/-- Stall codes (R435) are carried as 4 bits. A cluster sequencer (R211, R212). -/
structure Seq where
  /-- Program counter | 20 | 07 R211 | 0 (DESIGN CHOICE, log 4) -/
  pc : BitVec 20
  /-- Stall code | 4 | 14 R435 | 0 -/
  stall : BitVec 4
  /-- The sublayer whose slot is in progress; `none` before the first | — | 03 R105 | none -/
  layer : Option Nat
  /-- Running lateness of the pair in progress | ns | 03 R105 | 0 -/
  late : Nat
  /-- Device time from which planned times count: the start of the schedule, or the release of the last barrier | 64 | 05 R153 | 0 -/
  base : U64
  /-- Planned time of the action that waits | ns | 07 R212 | none -/
  waitsFor : Option Nat
  /-- Mesh cycle of the slot that an injection waits for | — | 07 R215 | none -/
  slotAt : Option Nat
  /-- The wait in progress, or the last one, is one that does not count against the pair | 1 | 03 R105, 07 R212 | 0 -/
  excusing : Bool
  /-- Sublayers whose pair has ended on this cluster since the schedule began | — | 03 R105 R108 | none -/
  ended : List Nat
  /-- Budget wait, receive wait charged to another pair and hold since `base` | ns | 03 R105, 07 R212 | 0 -/
  excused : Nat
  /-- What the plan has moved by since `base`: the stalls of the actions issued, and the extra cycles of accesses | ns | 07 R212 R226 | 0 -/
  shift : Nat
  /-- Waits at an attention barrier | 1 | 05 R153 | 0 -/
  atBarrier : Bool
  /-- Waits for data | 1 | 07 R212 | 0 -/
  receiving : Bool
  /-- Held in held mode | 1 | 03 R108 | 0 -/
  holding : Bool
  deriving DecidableEq, Repr

/-- A tile operation that waits for admission (R76). -/
structure WaitOp where
  tile : Nat
  charge : Nat
  /-- Rank of R76: 0 urgent restore, 1 evaluation, 2 programming or verification test, 3 other restore. -/
  rank : Nat
  deriving DecidableEq, Repr

/-- A cache line: what it holds, its scratchpad row, and whether it has been used since its fill (R225). -/
structure CacheLine where
  kind : LineKind
  row : Nat
  used : Bool
  deriving DecidableEq, Repr

/-- Outlier-channel, outlier-weight and graft work of an input that waits for cache lines: the logical tile, the input with its original
elements and exponents, its outlier channels, and the lines still to come (R97, R225). -/
structure SideWait where
  tile : Nat
  vec : EdgeVec
  ms : List Byte
  es : List Byte
  channels : List Nat
  lines : List LineKind
  deriving DecidableEq, Repr

/-- One cluster. -/
structure Cluster where
  /-- Tile-indirection table | 8 each, 64 | 02 R71 | entry t names tile t, VALID (MRAM as manufactured, DESIGN CHOICE, log 3) -/
  map : SMap Byte
  /-- CL_HANDLE | 32 each, 64 | 07 R223 | 0 -/
  handles : SMap U32
  /-- CL_SPAD_CACHE.CACHE_32 | 4 | 07 R224 | 0 -/
  cache32 : BitVec 4
  /-- Cache lines, most recently used first | — | 07 R225 | none -/
  lines : List CacheLine
  /-- Misses in progress and misses that wait | 3 | 07 R225 | none -/
  misses : List LineKind
  missWait : List LineKind
  /-- Correction-unit work that waits for lines, oldest first | — | 03 R97, 07 R225 | none -/
  sideWaits : List SideWait
  /-- SPAD_ROWMAP, spare k to logical row | 16 each, 8 | 07 R226 | invalid (MRAM as manufactured, DESIGN CHOICE, log 3) -/
  spadMap : SMap Nat
  /-- Rows ruled permanent that await their map-out | — | 07 R226 | none -/
  mapOut : List Nat
  /-- Scratchpad rows, logical 0 to 511 | 4,096 bits each | 07 R220 | 0 (log 5) -/
  spad : SMap (BitVec 4096)
  /-- Sequencer program | 32 each, 65,536 | 07 R211 | 0 (log 5) -/
  program : SMap U32
  /-- The sequencer | — | 07 R211 | idle -/
  sequencer : Seq
  /-- Accumulator lanes | 64 each | 03 R92 | EMPTY -/
  lanes : SMap Lane
  /-- MESH_SLOT of the router, without the SERVICE bit and the fill circuits | 32 each, 4,096 | 07 R219 | 0 -/
  slots : SMap U32
  /-- The planner's shadow table of step circuits | 32 each | 07 R216 | 0 -/
  shadow : SMap U32
  /-- The fill circuits are in place | 1 | 07 R216 | 0 -/
  fill : Bool
  /-- What the mesh delivers and no receive action has taken: logical row, or 512 + output block, with the mesh cycle of its last flit
  | — | 07 R212 R214 | none -/
  arrivals : List (Nat × Nat)
  /-- Tile operations held, with their charges | 16 | 02 R74 | none -/
  held : List (Nat × Nat)
  /-- Tile operations that wait, in order of arrival | — | 02 R76 | none -/
  waiting : List WaitOp
  /-- The physical tile whose calibration the cluster's engine has in hand | 15 | 04 R135 | none -/
  calNow : Option Nat
  deriving DecidableEq, Repr

/-- Bytes in an ingress buffer of the base die, bound for a scratchpad: the buffer's kind as in MeshLoad, cluster, row, first byte (R217). -/
structure BaseIn where
  kind : Nat
  cluster : Nat
  row : Nat
  at_ : Nat
  bytes : List Byte
  deriving DecidableEq, Repr

/-- Tiles and clusters. -/
structure ArrayBlk where
  /-- Physical tiles | 32,768 | 02 R65 | OFF -/
  tiles : SMap Tile
  /-- Correction tables by logical tile address | 31,744 | 07 R210 | empty until loaded -/
  tables : SMap CorrTab
  /-- Clusters | 512 | 07 R210 | as each field says -/
  clusters : SMap Cluster
  /-- T_LAST | signed 16 | 04 R140 | 0 -/
  tLast : Int
  /-- STEP_CAL_STATUS.LAST_TRIG | 3 | 04 R140 | 0 -/
  lastTrig : BitVec 3
  /-- A device-wide calibration waits for the one in progress | 1 | 04 R137 | 0 -/
  calPending : Bool
  /-- Tiles of the device-wide calibration in progress that have yet to complete | — | 04 R137 | none -/
  calWide : List Nat
  /-- CL_BUDGET_ALLOW.ALLOW by cluster; an empty list stands for 0 in every cluster | 16 each | 15 R450 | 0 -/
  allows : List Nat
  /-- STEP_QUAL_SUM and STEP_QUAL_WORST as last refreshed | 32 each | 04 R140 | 0 -/
  qualSum : U32
  qualWorst : List U32
  /-- Device time since which no step has been in progress | 64 | 04 R136 | 0 -/
  idleSince : U64
  /-- Cluster that received the last raise of an allowance | 9 | 02 R75 | 511: cluster 0 is next (DESIGN CHOICE, log 4) -/
  lastRaise : Nat
  /-- Base-switch slot entries, by 4,096 s + slot | 32 each | 15 R457 | 0 -/
  baseSlots : SMap U32
  /-- Ingress buffers of the base die beside the I/O ring's, oldest first | — | 07 R217, 15 R457 | empty -/
  baseIn : List BaseIn
  /-- Circuits that have given out slots: cluster, or 512 + segment; its slots; the first mesh cycle whose slot is still to be given | — |
  07 R215 | none -/
  circuits : List (Nat × List Nat × Nat)
  deriving DecidableEq, Repr

/-- What a chunk of keys leaves (R154): the row, layer, query head and chunk; m_c (none where an operand is poison), l_c and o_c in
FP32. -/
structure AttPart where
  handle : U32
  layer : Nat
  head : Nat
  chunk : Nat
  m : Option Rat
  l : Rat
  o : List Rat
  deriving DecidableEq, Repr

/-- What a half's operand SRAM holds: a tile's data columns from a bank, or the operands of an operation (R144, R149). -/
inductive Operand where
  | tile (bank lt : Nat)
  | work (k : DahliaKind)
  deriving DecidableEq, Repr

/-- The Dahlia engines and Lupin. -/
structure EngineBlk where
  /-- Operations running, by half 0 to 31 | — | 05 R144 | none -/
  halves : SMap (Option DahliaOp)
  /-- Operations waiting for a half or for the reservation | — | 05 R148 | none -/
  waiting : List DahliaOp
  /-- Inputs that wait for the half that is to compute their stand-in: logical tile and input | — | 05 R149 | none -/
  standInputs : List (Nat × EdgeVec)
  /-- Dahlia reservation in force, D | 16 | 05 R169 | 0 -/
  reserve : Nat
  /-- Stand-ins of the step for which no step circuit was placed, by logical tile | 15 each | 07 R216 | none -/
  noCircuit : List Nat
  /-- What each half's operand SRAM was last loaded with, by half | 2 MiB per half | 05 R144 R149 | nothing (DESIGN CHOICE, log 5) -/
  operand : SMap (Option Operand)
  /-- Words of the score and accumulator SRAM, by 262,144 × half + word | FP32, 262,144 per half | 05 R144 R154 | 0 (log 5) -/
  scores : SMap Rat
  /-- Words of Lupin's score SRAM, by 131,072 × lane + 65,536 × buffer + word | FP32, 131,072 per lane | 05 R151 R154 | 0 (log 5) -/
  lupinScores : SMap Rat
  /-- Chunk results of the attention in progress | FP32 | 05 R154 | none -/
  attention : List AttPart
  /-- Logits in Foxglove's two row buffers | FP32, 262,144 each | 06 R195 | none -/
  logits : List LogitPart
  /-- Logits that wait for a row buffer, oldest first | FP32 | 06 R195 | none -/
  logitsWait : List LogitPart
  deriving DecidableEq, Repr

/-- A stack pseudo-channel (R235). -/
structure PcState where
  /-- STACK_PC_STATUS.STATE | 2 | 07 R235 | in service (MRAM as manufactured, DESIGN CHOICE, log 3) -/
  state : BitVec 2
  /-- STACK_PC_STATUS.CE_COUNT | 12 | 07 R235 | 0 -/
  ce : BitVec 12
  deriving DecidableEq, Repr

/-- A commit-record entry (R327). -/
structure Commit where
  /-- ACTIVE, BANK_A, BANK_B | 2 each | 10 R327 | 0 (cold reset) -/
  active : BitVec 2
  bankA : BitVec 2
  bankB : BitVec 2
  /-- MEMBER | 6 | 10 R327 | 0 (MRAM as manufactured, DESIGN CHOICE, log 3) -/
  member : Nat
  /-- VER_A, VER_B, COMMIT_SEQ | 32 each | 10 R327 | 0 (MRAM as manufactured, DESIGN CHOICE, log 3) -/
  verA : U32
  verB : U32
  seq : U32
  /-- DIGEST | 384 | 10 R327 | 0 (MRAM as manufactured, DESIGN CHOICE, log 3) -/
  digest : BitVec 384
  /-- Manifest digests of banks A and B (the manifest copy in each bank, R323) | 384 each | 10 R323 | 0 -/
  digA : BitVec 384
  digB : BitVec 384
  deriving DecidableEq, Repr

/-- STACK_REPLICA (R328). -/
structure Replica where
  /-- HELD_VALID, OWN_VALID, OWN_NONE, HELD_VERSION | 1, 1, 1, 32 | 10 R328 | 0 -/
  heldValid : Bool
  ownValid : Bool
  ownNone : Bool
  heldVersion : U32
  /-- Manifest digest in the replica header | 384 | 10 R328 | 0 -/
  heldDigest : BitVec 384
  /-- Version and digest of the replica of this device's shard that the −X neighbour last reported (log 79) | 416 | 10 R328 | none -/
  peer : Option (U32 × BitVec 384)
  /-- The replica held: the +X neighbour's shard by chunk, in the peer replica region | — | 10 R328 | none -/
  form : List FormChunk
  deriving DecidableEq, Repr

/-- What the schedule and correction parts of a bank hold, as the ingress engine laid them (R315, R323). -/
structure BankInfo where
  /-- Placement table | — | 10 R315 | none -/
  placement : List Placed
  params : JobParams
  /-- A symbol table is there, and its address ranges | — | 14 R433 | none -/
  symbols : Bool
  ranges : List SymRange
  scales : List (Nat × Nat × U16)
  /-- Static outlier lists: logical tile, layer, rows. -/
  statics : List (Nat × Nat × List Nat)
  outliers : List (Nat × List (Nat × Nat × U16))
  residues : List (Nat × Nat × Int)
  handles : List (Nat × Nat × U32)
  caches : List (Nat × BitVec 4)
  programs : List (Nat × Nat × U32)
  slots : List (Nat × Nat × U32)
  /-- Slot-table entries of the base switch, by 4,096 × segment + slot | 32 each | 07 R219, 15 R457 | none -/
  baseSlots : List (Nat × U32)
  /-- Slots and guard windows of the pairs of cluster and sublayer | — | 03 R105 | none -/
  guards : List GuardEntry
  /-- Cells of each layer. -/
  layers : List (Nat × Nat)
  /-- The plaintext of the shard, by chunk: what the replica form is made of | — | 10 R328 | none -/
  form : List FormChunk
  /-- The copy of the schedule or of the correction tables is marked invalid | 1 | 07 R233 | 0 -/
  copyBad : Bool
  deriving DecidableEq, Repr

/-- A chunk that a load has yet to lay (R318, R322). -/
structure ChunkLeft where
  n : Nat
  /-- PART; 0 where only the replica's holder knows it. -/
  part : Nat
  /-- Its address in host memory and its length in bytes. -/
  addr : U64
  length : Nat
  /-- Tries that have failed, and whether the last one failed tag or digest. -/
  tries : Nat
  bad : Bool
  /-- The read is in progress, and when it was issued. -/
  reading : Bool
  issuedAt : U64
  /-- The data are taken from the peer replica. -/
  peer : Bool
  deriving DecidableEq, Repr

/-- A shard load in progress on this member (R322, R325). -/
structure ShardLoad where
  /-- SHARD_VERSION and manifest digest. -/
  version : U32
  digest : BitVec 384
  /-- MEMBER of the manifest. -/
  member : Nat
  /-- The bank that it fills. -/
  bank : Nat
  /-- Chunks that have yet to pass, and those that have, in ascending order. -/
  chunks : List ChunkLeft
  got : List FormChunk
  /-- The clusters that are rebuilt after a digest failure; none: the whole bank is laid (R332). -/
  only : Option (List Nat)
  /-- The data come from the peer replica that the −X neighbour of a spare's position holds (R308). -/
  recovery : Bool
  deriving DecidableEq, Repr

/-- The stack, its descriptors and the shard state. -/
structure StackBlk where
  /-- DRAM content by byte address; an unlisted byte reads 0 | 8 each | 07 R227 | undefined after power-up (reads 0, DESIGN CHOICE, log 5) -/
  mem : List Host.Cell
  /-- STACK_REGION | 64 each, 128 | 07 R229 | per R228 -/
  regions : SMap U64
  /-- STACK_SHARE.STACK_DESC_ERR | 1 | 07 R231 | 0 -/
  descErr : Bool
  /-- STACK_REGION_REQ pending: index and descriptor | 71 | 15 R451 | none -/
  request : Option (Nat × U64)
  /-- Pseudo-channels | 32 | 07 R235 | in service -/
  pcs : SMap PcState
  /-- Block-remap table | 131,072 entries per retired pseudo-channel | 07 R234 | empty -/
  remap : SMap Nat
  /-- KV pages in use | 23 each | 07 R232 | none -/
  pagesUsed : List Nat
  /-- Pseudo-channel whose free list gives the first page of the next request | 5 | 07 R232 | 0 (DESIGN CHOICE, log 18) -/
  turn : Nat
  /-- Commit record | 512 each, 64 | 10 R327 | 0 -/
  commits : SMap Commit
  /-- The two copies of each commit-record entry in MRAM | 512 each, 2 × 64 | 10 R327 | 0 (as manufactured, DESIGN CHOICE, log 3) -/
  mram : SMap (BitVec 512 × BitVec 512)
  /-- STACK_REPLICA | 64 each, 64 | 10 R328 | 0 -/
  replicas : SMap Replica
  /-- Contents of the correction and schedule halves, by 2 x partition + bank | — | 10 R323 | empty -/
  banks : SMap BankInfo
  /-- Shard loads in progress, by partition | — | 10 R325 | none -/
  loads : SMap (Option ShardLoad)
  /-- Commits in progress, by partition: the bank being programmed | — | 10 R329 | none -/
  committing : SMap (Option (BitVec 2))
  /-- Device time of the last violation event, by partition | 64 | 13 R397 | 0 -/
  violationAt : SMap U64
  deriving DecidableEq, Repr

/-- The power manager, THERM and Marigold. -/
structure PowerBlk where
  /-- POWER_STATUS.STAGE | 3 | 12 R375 | 0 -/
  stage : Nat
  /-- Critical asserted | 1 | 12 R373 | 0 -/
  crit : Bool
  /-- BO_HOLD | 1 | 12 R370 | 0 -/
  boHold : Bool
  /-- SWEEP | 1 | 12 R371 | 0 -/
  sweep : Bool
  /-- Tiles the sweep has yet to test | — | 12 R371 | none -/
  sweepLeft : List Nat
  /-- Times of heat and calm, ms | — | 12 R375 | 0 -/
  hot : Nat
  cool : Nat
  /-- Host limit in force | 16 | 12 R367 | 27,648 -/
  hostLimit : Nat
  /-- Throttle-stage limit in force | 16 | 12 R367 | none -/
  stageLimit : Option Nat
  /-- MON_DISAGREE limit in force | 1 | 12 R367 | none -/
  monLimit : Bool
  /-- Jobs that have yet to pass a boundary since a change of the budget was staged | — | 06 R476 | none -/
  owed : List Nat
  /-- MON_DISAGREE | 1 | 12 R365 | 0 -/
  disagree : Bool
  /-- Successive pairs that failed the agreement check; successive good pairs while raised | — | 12 R365 | 0 -/
  badPairs : Nat
  goodPairs : Nat
  /-- Tdiode, 1/16 °C; known since reset | 16 signed | 12 R394 | 0; unknown -/
  tNow : Int
  tKnown : Bool
  /-- T_MAX | 16 signed | 12 R394 | 0 -/
  tMax : Int
  /-- Known Tdiode at the last ten evaluations, newest first | — | 12 R375 | none -/
  tHist : List Int
  /-- REQ_ABS, REQ_RATE | 1 each | 12 R394 | 0 -/
  reqAbs : Bool
  reqRate : Bool
  /-- Highest Tdiode sample of the current 100 µs tick | — | 04 R112 | none -/
  tickMax : Option Int
  /-- MON_HK | 16 each, 32 | 12 R366 | 0 -/
  hk : SMap U16
  /-- MON_A_DATA, MON_B_DATA | 32 each | 12 R366 | 0 -/
  monA : U32
  monB : U32
  /-- MON_x_CTL taken at the last trigger | 64 each | 12 R363 | reset value of MON_x_CTL -/
  ctlA : U64
  ctlB : U64
  /-- Host conversion in progress: channel and LATE | — | 12 R363 | none -/
  convA : Option (Nat × Bool)
  convB : Option (Nat × Bool)
  /-- Device time at which each host trigger last fired since it was enabled | — | 12 R363 | none -/
  firedA : Option U64
  firedB : Option U64
  /-- Housekeeping conversions aborted by a host conversion and to be repeated: converter and channel | — | 12 R363 | none -/
  hkRepeat : List (Bool × Nat)
  deriving DecidableEq, Repr

/-- One partition's set-up (R401). -/
structure PartEntry where
  /-- PART_CFG | 64 | 13 R401 | 0 -/
  cfg : U64
  /-- PART_QUOTA | 32 | 13 R401 | 0 -/
  quota : U32
  /-- PART_CLUSTERS | 512 | 13 R401 | 0 -/
  clusters : BitVec 512
  deriving DecidableEq, Repr

/-- The PART block. -/
structure PartBlk where
  /-- PART_CFG, PART_QUOTA, PART_CLUSTERS as accepted | 64 entries | 13 R401 | 0 -/
  accepted : SMap PartEntry
  /-- Set-ups in force on this package | 64 entries | 13 R401 | 0 -/
  inForce : SMap PartEntry
  /-- Set-ups received that await a boundary | — | 13 R401 | none -/
  staged : List PartSetup
  /-- Jobs that have yet to pass a boundary since the staged set-ups arrived | — | 13 R401, 06 R476 | none -/
  owed : List Nat
  /-- PART_STATUS.ERR, ERR_PART, ERR_CODE | 1, 6, 4 | 13 R401 | 0 -/
  err : Bool
  errPart : Nat
  errCode : BitVec 4
  deriving DecidableEq, Repr

/-- A scratchpad row's tally or a lane's record in the unit-state area (R335). -/
structure Tally where
  times : List Nat
  deriving DecidableEq, Repr

/-- A lane's record (R337). -/
structure LaneRec where
  /-- Ledger time of the retrain that returned the lane. -/
  returnedAt : Option Nat
  permanent : Bool
  deriving DecidableEq, Repr

/-- The fault ledger. -/
structure LedgerBlk where
  /-- LEDGER_STATUS.LTIME | 32 | 11 R357 | 0 (MRAM as manufactured, DESIGN CHOICE, log 3) -/
  ltime : U32
  /-- Ledger time last saved to MRAM | 32 | 11 R336 | 0 (log 3) -/
  saved : U32
  /-- HEAD, WRAPPED | 19, 1 | 11 R357 | 0 (MRAM as manufactured, DESIGN CHOICE, log 3) -/
  head : Nat
  wrapped : Bool
  /-- Event log | 256 each, 458,752 | 11 R338 | 0 (MRAM as manufactured, DESIGN CHOICE, log 3) -/
  log : SMap (BitVec 256)
  /-- Tally of corrected errors by 512 cluster + row, newest first | 4,096 entries | 11 R335 | none (log 3) -/
  tally : List (Nat × Tally)
  /-- Corrected and uncorrectable events by pseudo-channel: ledger time and block | — | 11 R337 | none (log 3) -/
  pcErrors : SMap (List Nat × List (Nat × Nat))
  /-- Lane states by 8 port + lane | — | 11 R335 | none (log 3) -/
  lanes : SMap LaneRec
  /-- The stored Crocus pack; the last PACK_ID accepted; ledger time of the last run | — | 11 R348 R351 | none (log 3) -/
  pack : Option CrocusPack
  packId : U32
  packRunAt : Nat
  /-- LEDGER_CROCUS.STATE, ACCEPTED, REFUSED | 3, 7, 7 | 11 R348 | 0 -/
  crocusState : BitVec 3
  crocusAccepted : Nat
  crocusRefused : Nat
  /-- Packages that have not answered the pack being distributed (known at the primary) | 7 each | 11 R348 | none -/
  crocusAsked : List (BitVec 7)
  /-- Entries still to run; those whose next evaluation is split; first failures by entry: group, nibble, sign, sum | — | 11 R349 R350 | none -/
  crocusTodo : List Nat
  crocusSplit : List Nat
  crocusFails : List (Nat × Nat × Nat × Bool × Int)
  deriving DecidableEq, Repr

/-- The Serbel security controller: fuses, keys, boot and debug. -/
structure SecBlk where
  /-- LIFECYCLE fuses | 2 | 13 R425 | 0b00 BLANK (fuse as manufactured, R413) -/
  lifecycle : BitVec 2
  /-- Owner slots, SHA-384 of the public keys | 384 each, 16 | 13 R411 | empty (log 3) -/
  owners : SMap (Option (BitVec 384))
  /-- Unwrap-key generation by slot; 0 for none | — | 13 R411 | none (log 3) -/
  unwrap : SMap Nat
  /-- Nonces issued and unused, with the device time of issue | 256 each | 13 R412 | none -/
  nonces : List (BitVec 256 × U64)
  /-- IDE_REQUIRED | 1 | 13 R425 | 0 (fuse as manufactured, DESIGN CHOICE, log 3) -/
  ideRequired : Bool
  /-- Fused minimum SVN by image | — | 13 R408 | 0 (fuse as manufactured, DESIGN CHOICE, log 3) -/
  minSvn : SMap Nat
  /-- Images accepted at this boot: image, SVN, copy B, measurement | — | 13 R409 | none -/
  images : List (Byte × Nat × Bool × BitVec 384)
  /-- BOOT_FAIL image | 8 | 13 R410 | none -/
  bootFail : Option Byte
  /-- DEBUG, DEBUG_SEEN | 3 each | 13 R425 | 0 -/
  debug : Nat
  debugSeen : Nat
  /-- Ports whose tamper-down was reported to the Serbel controller, until they are keyed again | 6 | 09 R279 | 0 -/
  tamper : BitVec 6
  /-- Debug EXPIRY | 32 | 13 R418 | 0 -/
  debugExpiry : U32
  /-- The move to RETURNED is not complete | 1 | 13 R414 | 0 -/
  returning : Bool
  /-- TAP instruction | — | 13 R415 | IDCODE (PRESUMED, IEEE 1149.1, log 29) -/
  tap : JtagIr
  /-- I3C dynamic address | 7 | 16 R471 | none -/
  i3cAddr : Option (BitVec 7)
  deriving DecidableEq, Repr

/-- A trace record (R432 to R435). -/
structure TraceRec where
  type : BitVec 8
  units : Nat
  addrTag : Bool
  replay : Bool
  position : Nat
  cluster : Nat
  partition : Nat
  time : U64
  step : U48
  tag : U64
  body : List U64
  deriving DecidableEq, Repr

/-- The PC samples of one sequencer that a batch record collects (R435). -/
structure PcBatch where
  /-- TIME, STEP, REPLAY, TAG and ADDR_TAG of the first sample -/
  time : U64
  step : U48
  replay : Bool
  tag : U64
  addrTag : Bool
  /-- Sample words -/
  words : List U32
  deriving DecidableEq, Repr

/-- A full page of a trace ring: the place of the ring that it lies in, counted from the first (R431). -/
structure TracePage where
  slot : Nat
  records : List TraceRec
  deriving DecidableEq, Repr

/-- A partition's trace ring on this member, and the host ring on the gateway (R431, R436). -/
structure Ring where
  /-- Records of the page being filled, and when its first was written | — | 14 R436 | none -/
  page : List TraceRec
  pageAt : U64
  /-- Pages filled so far: the place of the page being filled | — | 14 R431 | 0 (DESIGN CHOICE, log 103) -/
  slot : Nat
  /-- Full pages not yet sent | — | 14 R436 | none -/
  pages : List TracePage
  /-- Pages received at the gateway and held back | — | 14 R436 | none -/
  heldBack : List (List Byte)
  /-- Records dropped since the last marker; LOST | —, 32 | 14 R436 R437 | 0 -/
  dropped : Nat
  lost : U32
  /-- TRACE_HOST_PTR.WPTR | 32 | 14 R437 | 0 -/
  wptr : U32
  /-- PC samples collected, by cluster | — | 14 R435 | none -/
  batches : SMap (Option PcBatch)
  deriving DecidableEq, Repr

/-- An armed tensor watch (R438). -/
structure Watch where
  origin : Origin
  spec : WatchSpec
  /-- Step number from which the watch matches | 48 | 14 R438 | — -/
  fromStep : U48
  /-- Parts captured | — | 14 R439 | none -/
  parts : List DumpPart
  fired : Bool
  step : U48
  deriving DecidableEq, Repr

/-- Traces, watches and counters. -/
structure ObsBlk where
  /-- Device counters | 64 each, 1,024 | 14 R428 | 0 -/
  dev : SMap U64
  /-- Cluster counters, by 64 c + number | 64 each | 14 R428 | 0 -/
  clu : SMap U64
  /-- Trace rings, by partition | 64 | 14 R431 | empty -/
  rings : SMap Ring
  /-- Watches, by 16 partition + index | 16 per partition | 14 R438 | none -/
  watches : SMap (Option Watch)
  deriving DecidableEq, Repr

/-- Everything of the package but the queue of commands. -/
structure Dev where
  rst : ResetBlk
  glob : Glob
  sys : SysBlk
  link : LinkBlk
  host : HostBlk
  serve : ServeBlk
  array : ArrayBlk
  engine : EngineBlk
  stack : StackBlk
  power : PowerBlk
  part : PartBlk
  ledger : LedgerBlk
  sec : SecBlk
  obs : ObsBlk
  /-- The model's own: free values drawn so far | — | model (log 7) | 0 (DESIGN CHOICE, log 7) -/
  fresh : Nat
  deriving DecidableEq, Repr

/-- The machine: the package and the commands that wait, first in, first out. -/
structure State where
  dev : Dev
  /-- The model's own: the queue of waiting commands | — | the row's cut (log 1) | empty -/
  pending : List Instr
  deriving DecidableEq, Repr

/-! ### Reset values -/

def ResetBlk.reset : ResetBlk :=
  { phase := .booting, cause := 0, lastTrip := 0, warmCount := 0, stackKept := false, retentionLost := true,
    tripLatched := false, brownHeld := false, perst := false, resetN := false, cold := true, soft := false,
    selfRefresh := false, regulators := true, serUp := true, auxUp := true, vinUp := true, vinFor := 0, rootLock := false,
    lockLoss := 0, rootCount := 0, watchdogAt := 0 }

def Glob.reset : Glob :=
  { timeNs := 0, node := 0, spareStrap := false, cxlActive := false, modeErr := false, ideIo := false, ideCm := false,
    width := 0, rate := 0, locks := 0, targetErr := false, memoryActive := false, hdmCommitted := false,
    hdmError := false, numVfs := 0, uncorrInternal := 0, eventPolicy := 0, timestamp := 0, timestampAt := 0,
    regs := [], inForce := [], regsOwed := [], latched := [], heldWords := [] }

def JobSetup.none : JobSetup := { valid := false, active := false, stopped := false, shape := 0 }

def SysBlk.reset : SysBlk :=
  { leaseEpoch := 0, highEpoch := 0, leaseValid := false, leaseAt := 0, beaconAt := 0, gwNode := 0, formed := false,
    primary := false, standby := false, standbySync := false, fenced := false, formErr := 0, coordValid := false,
    position := 0, posMap := [], route := [], jobs := [], collecting := .none, push := [], topo := [], topoAt := .none, beaconTime := 0,
    unreached := [], standbyKnown := .none, versions := [],
    broken := [], gone := [], tables := [], holding := [], lost := [],
    spares := 0, reStep := .none, aligned := false, rejoining := false, standbyHeld := [],
    awaiting := [] }

/-- Credits of empty receive buffers: 128, 512, 64 and 16 KiB of 256-byte flits, shared equally between the dateline classes (R280). -/
def fullCredits : List Nat := [256, 256, 1024, 1024, 128, 128, 32, 32]

def noCredits : List Nat := [0, 0, 0, 0, 0, 0, 0, 0]

def Port.reset : Port :=
  { state := 0, width := 0, faulty := 0, peerNode := 0, peerPort := 0, keyed := false, keySet := 0, saltTx := 0, saltRx := 0,
    peerBad := 0, heldDown := false, rxSeq := 0, txSeq := 0, replay := [], ctl := [], replays := 0, replayOf := 0, tagFails := [], partials := [], helloSeq := 0, helloAt := 0,
    helloSentAt := 0, away := 0, delay := 0, retrainAt := .none, hostRetrain := false, tx := [], credits := fullCredits, owed := noCredits,
    idleGap := 0, txWait := 0, floorAt := 0, floorSent := 0 }

def Window.closed : Window := { isOpen := false, partition := 0, base := 0, blocks := 0, epoch := 0 }

def LinkBlk.reset : LinkBlk := { ports := [], windows := [], transfers := [], nextXfer := 0, ingress := [], handed := 0, again := [] }

def FnRegs.reset : FnRegs :=
  { ctxSel := 0, ctxData := 0, ctxResult := 0, indSel := 0, indCluster := 0, indResult := 0, indData := [],
    msixTable := [], msixPending := [], msixCtl := 0 }

def HostBlk.reset : HostBlk :=
  { queues := [], rings := [], cached := [], doorbells := [], linesHeld := false, outstanding := [], fns := [],
    writes := [], reads := [], flrs := [], replies := [], sent := [], events := [], mirror := [], ctrMirror := [], ctrTime := [], traceLost := [] }

def ReqEntry.free (gen : BitVec 14) : ReqEntry :=
  { state := .free, cls := 0, partition := 0, gen := gen, len := 0, profile := 0, stopSet := 0, maxLen := 0,
    pageList := 0, graftValid := false, graftId := 0, graftVer := 0, deadline := 0, dlValid := false, seed := 0,
    outRing := 0, cq := 0, cancel := false, delivered := 0, reason := 0, tag := 0, admitTime := 0, slot := 0,
    slotValid := false, promptLen := 0, prefillPos := 0, matchLens := [0, 0, 0, 0], recent := [], inflight := 0, sqHead := 0,
    promptAddr := 0, lastToken := 0, sampledAt := 0, endedAt := 0, lastRecordAt := 0, marks := 0, suspended := false, holdOver := false }

def KvSeq.empty : KvSeq := { pages := [], listPages := [], spare := .none, turn := .none }

def Staging.free : Staging := { owner := .none, home := 0, fill := 0, scale := 0, scaled := false, raw := [], data := [] }

def Graft.empty : Graft := { current := 0, created := 0, retired := false, live := [], pending := [], loads := 0 }

def JobParams.none : JobParams :=
  { vocab := 0, streams := 0, posBytes := 0, ctxLimit := 0, demand := 0, kvBf16 := false, weights := [], hops := 0, plan := [],
    embedFirst := 0, embedCount := 0, embedOther := .none }

def Job.idle : Job :=
  { nextStep := 0, inFlight := [], cmds := [], changes := [], carry := [], drain := .none, versions := [], loaded := [], pagesOf := [],
    promised := [], begun := 0, flushed := 0, loading := .none,
    replay := .none, notices := [], noticed := [], fox := [], operators := [], calibrates := [], queries := [],
    params := JobParams.none, symbols := false, step := .none, descs := [], lastStep := 0, boundaryNo := 0, lookups := [], reserve := 0, want := 0,
    rebuilding := false, digestOk := false, preempts := [], lostOut := [], preemptOut := [], markOut := [], stepEndedAt := 0 }

def ServeBlk.reset : ServeBlk := { table := [], kv := [], staging := [], grafts := [], jobs := [] }

def Estimate.start : Estimate := { o := 0, g := 1, k := 0 }

def Tile.off : Tile :=
  { state := .off, repair := 0, aged := false, agedStaged := false, rowMap := [], rowMapStaged := [], preSplit := [],
    splitSeen := [], splitRun := [], splitWide := [], credit := 0, overdue := false, urgentSeen := false, restore := .none, rowUntil := 0, restores := 0,
    sinceAudit := 0, rewrites := [], overdues := [], prog := .none, progWait := false, testing := false, cells := [],
    est := Estimate.start, obs := 0, calEst := Estimate.start, qSq := 1/4, everReady := false, degraded := false,
    lfsr := 0, shadowPos := 0, shadowSeen := 0, shadowLog := 0, shadowCol := 0, samples := [], residuals := [], rowStats := [],
    colTrim := [], rowTrim := [], staged := .none, calibrating := false, calAt := 0, classes := [],
    peaks := [], edge := .none, evals := [], owed := [], settling := [], ladder := [], repairDone := .none, ruling := false, recorded := false, spareFails := 0, spareFor := .none }

def CorrTab.empty : CorrTab := { scales := [], residues := [], statics := [], staticWeights := [] }

def Lane.fresh : Lane := { empty := true, inexact := false, ext := false, poison := false, sticky := false, anchor := 0, acc := 0 }

def Seq.idle : Seq :=
  { pc := 0, stall := 0, layer := .none, late := 0, base := 0, waitsFor := .none, slotAt := .none, excusing := false, ended := [],
    excused := 0, shift := 0, atBarrier := false,
    receiving := false, holding := false }

def Cluster.reset : Cluster :=
  { map := [], handles := [], cache32 := 0, lines := [], misses := [], missWait := [], sideWaits := [], spadMap := [], mapOut := [],
    spad := [], program := [], sequencer := Seq.idle, lanes := [], slots := [], shadow := [], fill := false, arrivals := [], held := [],
    waiting := [], calNow := .none }

def ArrayBlk.reset : ArrayBlk :=
  { tiles := [], tables := [], clusters := [], tLast := 0, lastTrig := 0, calPending := false, calWide := [], allows := [], qualSum := 0, qualWorst := [],
    idleSince := 0, lastRaise := 511, baseSlots := [], baseIn := [], circuits := [] }

def EngineBlk.reset : EngineBlk := { halves := [], waiting := [], standInputs := [], reserve := 0, noCircuit := [], operand := [], scores := [], lupinScores := [], attention := [], logits := [], logitsWait := [] }

def PcState.inService : PcState := { state := 0, ce := 0 }

def Commit.none : Commit :=
  { active := 0, bankA := 0, bankB := 0, member := 0, verA := 0, verB := 0, seq := 0, digest := 0, digA := 0, digB := 0 }

def Replica.none : Replica :=
  { heldValid := false, ownValid := false, ownNone := false, heldVersion := 0, heldDigest := 0,
    peer := Option.none, form := [] }

def BankInfo.empty : BankInfo :=
  { placement := [], params := JobParams.none, symbols := false, ranges := [], scales := [], statics := [], outliers := [],
    residues := [], handles := [], caches := [], programs := [], slots := [], baseSlots := [], guards := [], layers := [], form := [], copyBad := false }

def StackBlk.reset : StackBlk :=
  { mem := [], regions := [], descErr := false, request := .none, pcs := [], remap := [], pagesUsed := [], turn := 0,
    commits := [], mram := [], replicas := [], banks := [], loads := [], committing := [], violationAt := [] }

def PowerBlk.reset : PowerBlk :=
  { stage := 0, crit := false, boHold := false, sweep := false, sweepLeft := [], hot := 0, cool := 0,
    hostLimit := 27648, stageLimit := .none, monLimit := false, owed := [], disagree := false, badPairs := 0, goodPairs := 0,
    tNow := 0, tKnown := false, tMax := 0, tHist := [], reqAbs := false, reqRate := false, tickMax := .none, hk := [],
    monA := 0, monB := 0, ctlA := 0xFA000, ctlB := 0xFA000, convA := .none, convB := .none,
    firedA := .none, firedB := .none, hkRepeat := [] }

def PartEntry.none : PartEntry := { cfg := 0, quota := 0, clusters := 0 }

def PartBlk.reset : PartBlk := { accepted := [], inForce := [], staged := [], owed := [], err := false, errPart := 0, errCode := 0 }

def LaneRec.good : LaneRec := { returnedAt := .none, permanent := false }

def LedgerBlk.reset : LedgerBlk :=
  { ltime := 0, saved := 0, head := 0, wrapped := false, log := [], tally := [], pcErrors := [], lanes := [],
    pack := .none, packId := 0, packRunAt := 0, crocusState := 0, crocusAccepted := 0, crocusRefused := 0, crocusAsked := [],
    crocusTodo := [], crocusSplit := [], crocusFails := [] }

def SecBlk.reset : SecBlk :=
  { lifecycle := 0, owners := [], unwrap := [], nonces := [], ideRequired := false, minSvn := [], images := [],
    bootFail := .none, debug := 0, debugSeen := 0, tamper := 0, debugExpiry := 0, returning := false, tap := .idcode,
    i3cAddr := .none }

def Ring.empty : Ring :=
  { page := [], pageAt := 0, slot := 0, pages := [], heldBack := [], dropped := 0, lost := 0, wptr := 0, batches := [] }

def ObsBlk.reset : ObsBlk := { dev := [], clu := [], rings := [], watches := [] }

def Dev.reset : Dev :=
  { rst := ResetBlk.reset, glob := Glob.reset, sys := SysBlk.reset, link := LinkBlk.reset, host := HostBlk.reset,
    serve := ServeBlk.reset, array := ArrayBlk.reset, engine := EngineBlk.reset, stack := StackBlk.reset,
    power := PowerBlk.reset, part := PartBlk.reset, ledger := LedgerBlk.reset, sec := SecBlk.reset,
    obs := ObsBlk.reset, fresh := 0 }

/-- The machine right after the release of a cold reset of a package as manufactured (R16, R384, R386; log 3). -/
def State.reset : State := { dev := Dev.reset, pending := [] }

end Sys2Proof.Machine
end

