-- ==== Sys2Proof/Machine/Counters.lean ====
section
/-! DEFINITION. The numbers of the counters, in the order of their tables (R428). -/

namespace Sys2Proof.Machine

/-! ### Cluster counters, 0 to 63 of each cluster -/

/-- Evaluations started, forward and transposed; each split half counts once (02 R77). -/
def CC.tileEval : Nat := 0
/-- Zero-skipped inputs (R46) (02 R77). -/
def CC.tileZeroSkip : Nat := 1
/-- Nibble-skipped evaluations (R47) (02 R77). -/
def CC.tileNibbleSkip : Nat := 2
/-- Evaluations with a clip at class ×1 (02 R77). -/
def CC.tileClipX1 : Nat := 3
/-- Observed splits (R50, case 1) (02 R77). -/
def CC.tileSplitObserved : Nat := 4
/-- Splits started from the outset (R50, cases 2 and 3) (02 R77). -/
def CC.tileSplitPlanned : Nat := 5
/-- Transposed evaluations started (02 R77). -/
def CC.tileTransposed : Nat := 6
/-- TILE_CLK cycles in which an evaluation waited for admission (R76) (02 R77). -/
def CC.tileBudgetWait : Nat := 7
/-- TILE_CLK cycles in which an evaluation waited for a restore (R62) (02 R77). -/
def CC.tileRestoreWait : Nat := 8
/-- Restores completed (02 R77). -/
def CC.tileRestore : Nat := 9
/-- Rows rewritten by restore (R60) (02 R77). -/
def CC.tileRestoreRewrite : Nat := 10
/-- Write-verify iterations, by programming and by restore (02 R77). -/
def CC.tileProgIter : Nat := 11
/-- Row remap entries written (R57) (02 R77). -/
def CC.tileRowRemap : Nat := 12
/-- Transitions into SUSPECT, STANDIN or RETIRED (02 R77). -/
def CC.tileStateChange : Nat := 13
/-- Dynamic outlier channels selected (03 R111). -/
def CC.arithDynOutlier : Nat := 14
/-- Inputs with a gap larger than DYN_D at a rank from room + 1 to 16, with the gaps of R83, including the infinite gap of a last candidate; nothing is counted while DYN_D is 0 (03 R111). -/
def CC.arithOutlierFull : Nat := 15
/-- Dynamic outlier rows that missed the cache (03 R111). -/
def CC.arithOutlierMiss : Nat := 16
/-- Nonzero elements aligned to zero (R84) (03 R111). -/
def CC.arithAlignZero : Nat := 17
/-- Columns patched (R104) (03 R111). -/
def CC.arithColPatch : Nat := 18
/-- Tile replays ordered by clips (03 R111). -/
def CC.arithReplayClip : Nat := 19
/-- Tile replays ordered by the band check (03 R111). -/
def CC.arithReplayBand : Nat := 20
/-- Band violations accepted without replay (03 R111). -/
def CC.arithBandAccept : Nat := 21
/-- Lanes that entered extended mode (03 R111). -/
def CC.arithExtended : Nat := 22
/-- Lanes written with the sticky bit (R91) (03 R111). -/
def CC.arithInexact : Nat := 23
/-- Output lanes written as poison (03 R111). -/
def CC.arithPoison : Nat := 24
/-- Output values or Z8 blocks saturated (03 R111). -/
def CC.arithSaturate : Nat := 25
/-- CORE_CLK cycles of lateness, summed over pairs (03 R111). -/
def CC.arithLateCycles : Nat := 26
/-- Restores started before becoming urgent (04 R142). -/
def CC.restoreEligible : Nat := 27
/-- Restores that became urgent (04 R142). -/
def CC.restoreUrgent : Nat := 28
/-- Restores overdue (R116) (04 R142). -/
def CC.restoreOverdue : Nat := 29
/-- Level audits completed (04 R142). -/
def CC.auditRun : Nat := 30
/-- Level mismatches (R121) (04 R142). -/
def CC.auditMismatch : Nat := 31
/-- First failures of the checksum check (04 R142). -/
def CC.chkFail : Nat := 32
/-- Failures cleared by re-evaluation (04 R142). -/
def CC.chkCleared : Nat := 33
/-- Persistent mismatches (R124) (04 R142). -/
def CC.chkPersist : Nat := 34
/-- Shadow samples taken (04 R142). -/
def CC.shadowSample : Nat := 35
/-- Tile calibrations completed (04 R142). -/
def CC.calTile : Nat := 36
/-- Trim changes limited to ±2 steps or clipped to range (04 R142). -/
def CC.trimLimited : Nat := 37
/-- Reference-estimate restarts (R128) (04 R142). -/
def CC.refRestart : Nat := 38
/-- CORE_CLK cycles in receive waits (07 R239). -/
def CC.seqRecvWait : Nat := 39
/-- CORE_CLK cycles held in held mode (07 R239). -/
def CC.seqHold : Nat := 40
/-- Flits sent in a later slot than planned (R215) (07 R239). -/
def CC.meshSlotMiss : Nat := 41
/-- Extra cycles for spares in another bank (R226) (07 R239). -/
def CC.spadBankExtra : Nat := 42
/-- Corrected and uncorrectable scratchpad words (R222) (07 R239). -/
def CC.spadCe : Nat := 43
/-- Corrected and uncorrectable scratchpad words (R222) (07 R239). -/
def CC.spadUe : Nat := 44
/-- Cache lookups by outcome (07 R239). -/
def CC.cacheHit : Nat := 45
/-- Cache lookups by outcome (07 R239). -/
def CC.cacheMiss : Nat := 46
/-- CORE_CLK cycles in which a fourth miss waited (07 R239). -/
def CC.cacheMissWait : Nat := 47
/-- Program-counter samples taken (R435) (14 R429). -/
def CC.pcSamples : Nat := 48

/-! ### Device counters, 0 to 1,023; a per-port counter takes six numbers, FL0 first -/

/-- Steps marked, by any cause (03 R111). -/
def DC.stepMarked : Nat := 16
/-- Steps marked by guard overrun (03 R111). -/
def DC.stepMarkGuard : Nat := 17
/-- Replay steps run (03 R111). -/
def DC.stepReplay : Nat := 18
/-- Steps run in held mode (03 R111). -/
def DC.stepHeld : Nat := 19
/-- Tiles reported degraded (R133) (04 R142). -/
def DC.qualDegraded : Nat := 32
/-- Device-wide temperature triggers (04 R142). -/
def DC.calTrigTemp : Nat := 33
/-- Drift triggers (04 R142). -/
def DC.calTrigDrift : Nat := 34
/-- Interval triggers (04 R142). -/
def DC.calTrigIvl : Nat := 35
/-- Quality triggers (04 R142). -/
def DC.calTrigQual : Nat := 36
/-- CALIBRATE commands executed (04 R142). -/
def DC.calTrigHost : Nat := 37
/-- Dahlia operations completed (05 R170). -/
def DC.dahliaOps : Nat := 64
/-- CORE_CLK cycles summed over running halves (05 R170). -/
def DC.dahliaHalfCycles : Nat := 65
/-- Cycles in which a Dahlia operation waited for the reservation (05 R170). -/
def DC.dahliaBudgetWait : Nat := 66
/-- Stand-in inputs computed on Dahlia (R149) (05 R170). -/
def DC.standinRowsDahlia : Nat := 67
/-- Stand-in inputs computed by correction units (R150) (05 R170). -/
def DC.standinRowsCcu : Nat := 68
/-- Lupin chunk jobs completed (05 R170). -/
def DC.lupinJobs : Nat := 69
/-- Bytes streamed by Lupin, in units of 64 (05 R170). -/
def DC.lupinBytes : Nat := 70
/-- Cluster-sequencer cycles spent at attention barriers (R153) (05 R170). -/
def DC.attBarrierWait : Nat := 71
/-- Pages allocated, data and list (05 R170). -/
def DC.kvPageAlloc : Nat := 72
/-- Slot flushes (R162) (05 R170). -/
def DC.kvFlush : Nat := 73
/-- Key or value elements saturated (R161) (05 R170). -/
def DC.kvSaturate : Nat := 74
/-- Slots granted (05 R170). -/
def DC.kvSlotGrant : Nat := 75
/-- Graft-tuning steps completed (05 R170). -/
def DC.tuneSteps : Nat := 76
/-- Requests admitted (06 R209). -/
def DC.reqAdmit : Nat := 96
/-- Submissions refused, any status (06 R209). -/
def DC.reqRefuse : Nat := 97
/-- Requests reaching each terminal state (06 R209). -/
def DC.reqDone : Nat := 98
/-- Requests reaching each terminal state (06 R209). -/
def DC.reqExpired : Nat := 99
/-- Requests reaching each terminal state (06 R209). -/
def DC.reqCancelled : Nat := 100
/-- Requests reaching each terminal state (06 R209). -/
def DC.reqLost : Nat := 101
/-- Requests ended with REASON PREEMPTED (06 R209). -/
def DC.reqPreempted : Nat := 102
/-- Steps composed (06 R209). -/
def DC.stepComposed : Nat := 103
/-- Rows composed, by kind (06 R209). -/
def DC.stepRowsDecode : Nat := 104
/-- Rows composed, by kind (06 R209). -/
def DC.stepRowsPrefill : Nat := 105
/-- Rows deferred by STEP_TGT or GRAFTS_MAX (R186) (06 R209). -/
def DC.stepCapDefer : Nat := 106
/-- Prefill starts deferred for pages (R187) (06 R209). -/
def DC.stepPageDefer : Nat := 107
/-- CORE_CLK cycles summed over requests waiting for a staging slot (06 R209). -/
def DC.slotWaitCycles : Nat := 108
/-- Class-0 bounds missed under R191 (06 R209). -/
def DC.class0MissAdm : Nat := 109
/-- Class-0 bounds missed under R191 (06 R209). -/
def DC.class0MissTtft : Nat := 110
/-- Class-0 bounds missed under R191 (06 R209). -/
def DC.class0MissItt : Nat := 111
/-- Rows sampled (06 R209). -/
def DC.foxRows : Nat := 112
/-- Drawn tokens discarded by deadline or cancellation (06 R209). -/
def DC.foxDiscard : Nat := 113
/-- Rows with poison logits (R202) (06 R209). -/
def DC.foxPoison : Nat := 114
/-- Output records written (06 R209). -/
def DC.foxRecords : Nat := 115
/-- Graft versions installed and reclaimed, on every member (06 R209). -/
def DC.graftLoaded : Nat := 116
/-- Graft versions installed and reclaimed, on every member (06 R209). -/
def DC.graftReclaimed : Nat := 117
/-- GRAFT_LOAD refused with GRAFT_VERSION_BUSY (06 R209). -/
def DC.graftBusy : Nat := 118
/-- Base-switch slots that went empty for want of buffered data (R217) (07 R239). -/
def DC.meshEmptySlot : Nat := 160
/-- Stand-ins placed on the correction-unit path for want of a step circuit (R216) (07 R239). -/
def DC.svcNoCircuit : Nat := 161
/-- Bytes served per class, in units of 64 (07 R239). -/
def DC.stackBytesA : Nat := 162
/-- Bytes served per class, in units of 64 (07 R239). -/
def DC.stackBytesB : Nat := 163
/-- Bytes served per class, in units of 64 (07 R239). -/
def DC.stackBytesC : Nat := 164
/-- Bytes served per class, in units of 64 (07 R239). -/
def DC.stackBytesD : Nat := 165
/-- Corrected and uncorrectable stack errors (07 R239). -/
def DC.stackCe : Nat := 166
/-- Corrected and uncorrectable stack errors (07 R239). -/
def DC.stackUe : Nat := 167
/-- Accesses refused under R230 (07 R239). -/
def DC.stackViolation : Nat := 168
/-- Blocks copied under R234 (07 R239). -/
def DC.stackMigrated : Nat := 169
/-- Doorbell-line invalidations received (08 R273). -/
def DC.dbSnoop : Nat := 192
/-- Changed records of queues with no context (08 R273). -/
def DC.dbIgnored : Nat := 193
/-- Submission entries fetched (08 R273). -/
def DC.sqFetched : Nat := 194
/-- Entries completed by R262 (08 R273). -/
def DC.sqRefused : Nat := 195
/-- CORE_CLK cycles in which a queue with pending entries had no credit (08 R273). -/
def DC.cqCreditWait : Nat := 196
/-- Completion entries written (08 R273). -/
def DC.cqWritten : Nat := 197
/-- Context fetches from the stack (08 R273). -/
def DC.qctxMiss : Nat := 198
/-- Queue pairs halted (R256) (08 R273). -/
def DC.queueHalt : Nat := 199
/-- Status-window reads served (08 R273). -/
def DC.winRead : Nat := 200
/-- Status-window writes discarded (R248) (08 R273). -/
def DC.winWriteDiscard : Nat := 201
/-- MSI-X messages sent (08 R273). -/
def DC.msixSent : Nat := 202
/-- Output records not written for want of a ring context (R269) (08 R273). -/
def DC.recNoRing : Nat := 203
/-- Flits sent and accepted, per port (09 R314). -/
def DC.flFlitTx : Nat := 224
/-- Flits sent and accepted, per port (09 R314). -/
def DC.flFlitRx : Nat := 230
/-- Flits replayed, per port (R278) (09 R314). -/
def DC.flReplay : Nat := 236
/-- Uncorrectable codewords, per port (09 R314). -/
def DC.flFecUncorr : Nat := 242
/-- Tag failures, per port (R279) (09 R314). -/
def DC.flTagFail : Nat := 248
/-- Lanes found faulty, per port (09 R314). -/
def DC.flLaneFault : Nat := 254
/-- Width reductions and ports taken down, per port (09 R314). -/
def DC.flDegrade : Nat := 260
/-- Width reductions and ports taken down, per port (09 R314). -/
def DC.flDown : Nat := 266
/-- Messages discarded for kind, channel or reachability (R284, R285) (09 R314). -/
def DC.msgDiscard : Nat := 272
/-- Messages injected again under R287 (09 R314). -/
def DC.msgResend : Nat := 273
/-- Window writes applied (09 R314). -/
def DC.winWriteRx : Nat := 274
/-- WINDOW_CLOSED returned as target and received as sender (09 R314). -/
def DC.winClosedRx : Nat := 275
/-- WINDOW_CLOSED returned as target and received as sender (09 R314). -/
def DC.winClosedTx : Nat := 276
/-- Transfers ended by the 10 ms timeout (R302) (09 R314). -/
def DC.winTimeout : Nat := 277
/-- Lease writes ignored (R294) (09 R314). -/
def DC.leaseStale : Nat := 278
/-- CORE_CLK cycles spent waiting for standby acknowledgements (09 R314). -/
def DC.standbyWait : Nat := 279
/-- Time errors above 100 ns and re-steps (R293) (09 R314). -/
def DC.timeErr : Nat := 280
/-- Time errors above 100 ns and re-steps (R293) (09 R314). -/
def DC.timeStep : Nat := 281
/-- Positions declared lost and spares substituted (09 R314). -/
def DC.posLost : Nat := 282
/-- Positions declared lost and spares substituted (09 R314). -/
def DC.spareSubst : Nat := 283
/-- Fences entered (09 R314). -/
def DC.fence : Nat := 284
/-- Chunks verified (10 R334). -/
def DC.shardChunkOk : Nat := 384
/-- Chunk re-fetches (R322) (10 R334). -/
def DC.shardRefetch : Nat := 385
/-- Chunks or clusters taken from a peer replica (10 R334). -/
def DC.shardReplicaUse : Nat := 386
/-- Shards refused under R324 (10 R334). -/
def DC.shardMalformed : Nat := 387
/-- Commit-record flips (10 R334). -/
def DC.shardCommit : Nat := 388
/-- Cluster digest mismatches (R329, R332) (10 R334). -/
def DC.shardDigestFail : Nat := 389
/-- Replica copies completed (10 R334). -/
def DC.replicaCopy : Nat := 390
/-- Log entries written (11 R358). -/
def DC.ledgerEvent : Nat := 400
/-- Log entries overwritten (R338) (11 R358). -/
def DC.ledgerWrap : Nat := 401
/-- Tiles entering the ladder (R339) (11 R358). -/
def DC.ladderSuspect : Nat := 402
/-- Ladder rulings by outcome (11 R358). -/
def DC.ladderTransient : Nat := 403
/-- Ladder rulings by outcome (11 R358). -/
def DC.ladderPermanent : Nat := 404
/-- Spare tiles given a logical number (11 R358). -/
def DC.spareTileUsed : Nat := 405
/-- Logical tiles left on stand-in for want of a spare (R343) (11 R358). -/
def DC.capacityLoss : Nat := 406
/-- Tiles moved to the aged class (R344) (11 R358). -/
def DC.agedSet : Nat := 407
/-- Crocus entries run and skipped (R349) (11 R358). -/
def DC.crocusRun : Nat := 408
/-- Crocus entries run and skipped (R349) (11 R358). -/
def DC.crocusSkip : Nat := 409
/-- Crocus failures cleared and confirmed (R350) (11 R358). -/
def DC.crocusCleared : Nat := 410
/-- Crocus failures cleared and confirmed (R350) (11 R358). -/
def DC.crocusFail : Nat := 411
/-- Decode rows withheld for pages (R354) (11 R358). -/
def DC.kvPause : Nat := 412
/-- Requests ended for want of pages (R354) (11 R358). -/
def DC.kvPreempt : Nat := 413
/-- GRAFT_LOAD refused under R356 (11 R358). -/
def DC.graftAreaFull : Nat := 414
/-- Entries to stage 1 (12 R395). -/
def DC.thermReq : Nat := 432
/-- Stage rises and falls (R375) (12 R395). -/
def DC.thermStageUp : Nat := 433
/-- Stage rises and falls (R375) (12 R395). -/
def DC.thermStageDown : Nat := 434
/-- Critical assertions (12 R395). -/
def DC.thermCrit : Nat := 435
/-- Raises of MON_DISAGREE (12 R395). -/
def DC.monDisagreeEvt : Nat := 436
/-- Overwritten host results (R364) (12 R395). -/
def DC.monOvrA : Nat := 437
/-- Overwritten host results (R364) (12 R395). -/
def DC.monOvrB : Nat := 438
/-- Host conversions delayed by a diode conversion (12 R395). -/
def DC.monLate : Nat := 439
/-- Brown-out holds begun and ended by RETURN (12 R395). -/
def DC.boWarn : Nat := 440
/-- Brown-out holds begun and ended by RETURN (12 R395). -/
def DC.boReturn : Nat := 441
/-- Verification sweeps completed (R371) (12 R395). -/
def DC.sweepRun : Nat := 442
/-- CORE_CLK cycles in which a limit imposed at once held back an operation (12 R395). -/
def DC.protWaitCycles : Nat := 443
/-- Host accesses to the SEC block (R398) (13 R426). -/
def DC.secRegRefused : Nat := 464
/-- Accesses refused under R397, other than STACK_VIOLATION (13 R426). -/
def DC.worldRefused : Nat := 465
/-- PART writes ignored (R402) (13 R426). -/
def DC.partRefused : Nat := 466
/-- KV page header mismatches (R405) (13 R426). -/
def DC.kvHandleErr : Nat := 467
/-- Owner commands executed and refused (R412) (13 R426). -/
def DC.ownerCmd : Nat := 468
/-- Owner commands executed and refused (R412) (13 R426). -/
def DC.ownerRefused : Nat := 469
/-- Debug sessions opened (R416) (13 R426). -/
def DC.debugUnlock : Nat := 470
/-- Failed key exchanges and completed rekeys (R421, R422) (13 R426). -/
def DC.flKeyFail : Nat := 471
/-- Failed key exchanges and completed rekeys (R421, R422) (13 R426). -/
def DC.flRekey : Nat := 472
/-- Attestation reports produced (13 R426). -/
def DC.attestReport : Nat := 473
/-- Records written to trace rings (14 R429). -/
def DC.traceRecords : Nat := 0
/-- Records lost because a trace ring was full (R436) (14 R429). -/
def DC.traceDrop : Nat := 1
/-- Trace pages sent toward the host (14 R429). -/
def DC.tracePages : Nat := 2
/-- Records lost to uncorrectable stack errors (R233) (14 R429). -/
def DC.traceStackLost : Nat := 3
/-- Watch parts captured on this device (14 R429). -/
def DC.watchFired : Nat := 4
/-- Watch matches ignored because their step was marked (R438) (14 R429). -/
def DC.watchDeferred : Nat := 5
/-- SYS_JOB writes ignored under R298 (14 R429). -/
def DC.jobIgnored : Nat := 6

end Sys2Proof.Machine
end

