-- ==== Sys2Proof/Machine/Ops.lean ====
section
/-! DEFINITION. The named operations over the state: sparse data, memory, counters, messages, and the accessors of every
table. -/

namespace Sys2Proof.Machine

/-- The outcome of a command. -/
abbrev Out := Host.Outcome State Fault Refusal

/-- A command's effect: a function of the package; the queue is untouched. -/
def State.on (s : State) (f : Dev → Dev) : Out := .next { s with dev := f s.dev }

/-! ### Sparse data -/

/-- The entry at `k`, or the default `z` where nothing is listed. -/
def SMap.get {α : Type} (z : α) : SMap α → Nat → α
  | [], _ => z
  | (j, v) :: m, k => if j = k then v else SMap.get z m k

/-- Inserts an entry before the first greater key. -/
def SMap.insert {α : Type} : SMap α → Nat → α → SMap α
  | [], k, v => [(k, v)]
  | (j, w) :: m, k, v => if k < j then (k, v) :: (j, w) :: m else (j, w) :: SMap.insert m k v

/-- Writes `v` at `k`, keeping the keys rising and listing no entry equal to the default `z`. -/
def SMap.put {α : Type} [DecidableEq α] (z : α) (m : SMap α) (k : Nat) (v : α) : SMap α :=
  if v = z then m.filter (fun e => e.1 != k) else SMap.insert (m.filter (fun e => e.1 != k)) k v

/-- Every key of `m` is at least `lo`, the keys rise strictly, and no entry equals `z`. -/
def SMap.wfFrom {α : Type} [DecidableEq α] (z : α) : Nat → SMap α → Bool
  | _, [] => true
  | lo, (k, v) :: m => decide (lo ≤ k) && decide (v ≠ z) && SMap.wfFrom z (k + 1) m

/-- The canonical form of sparse data. -/
def SMap.wf {α : Type} [DecidableEq α] (z : α) (m : SMap α) : Bool := SMap.wfFrom z 0 m

/-- Keeps the entries whose key satisfies `p`: the others return to the default. -/
def SMap.keep {α : Type} (p : Nat → Bool) (m : SMap α) : SMap α := m.filter (fun e => p e.1)

/-- Applies `f` to every listed entry, dropping those that become the default. -/
def SMap.mapVals {α : Type} [DecidableEq α] (z : α) (f : Nat → α → α) (m : SMap α) : SMap α :=
  m.filterMap (fun e => if f e.1 e.2 = z then none else some (e.1, f e.1 e.2))

/-! ### Numbers -/

/-- x before y, modulo 2^48 (R12). -/
def before48 (x y : U48) : Bool := decide ((x - y).toNat ≥ 2 ^ 47)

/-- Rounds n / d to the nearest integer, ties to even (d > 0). -/
def roundHalfEven (n : Int) (d : Nat) : Int :=
  let q := n / (d : Int)
  let r := 2 * (n % (d : Int))
  if r > d ∨ (r = d ∧ q % 2 = 1) then q + 1 else q

/-- Clamps x to lo .. hi. -/
def clampInt (lo hi x : Int) : Int := if x < lo then lo else if x > hi then hi else x

/-- ceil(n / d). -/
def ceilDiv (n d : Nat) : Nat := (n + d - 1) / d

/-! ### Device time, counters, messages -/

/-- Device time in ns (R12, R238). -/
def Dev.now (d : Dev) : U64 := d.glob.timeNs

/-- Device time in µs, modulo 2^48 (R12). -/
def Dev.us (d : Dev) : U48 := BitVec.ofNat 48 (d.glob.timeNs.toNat / 1000)

/-- Time elapsed since `t`, in ns. -/
def Dev.since (d : Dev) (t : U64) : Nat := (d.glob.timeNs - t).toNat

/-- Adds `k` to device counter `n` (R427). -/
def Dev.count (d : Dev) (n : Nat) (k : Nat := 1) : Dev :=
  { d with obs := { d.obs with dev := SMap.put 0 d.obs.dev n (SMap.get 0 d.obs.dev n + BitVec.ofNat 64 k) } }

/-- Adds `k` to counter `n` of cluster `c` (R427). -/
def Dev.countC (d : Dev) (c n : Nat) (k : Nat := 1) : Dev :=
  { d with obs := { d.obs with clu := SMap.put 0 d.obs.clu (64 * c + n)
                                        (SMap.get 0 d.obs.clu (64 * c + n) + BitVec.ofNat 64 k) } }

/-- The value of device counter `n`. -/
def Dev.counter (d : Dev) (n : Nat) : U64 := SMap.get 0 d.obs.dev n

/-- The value of counter `n` of cluster `c`. -/
def Dev.counterC (d : Dev) (c n : Nat) : U64 := SMap.get 0 d.obs.clu (64 * c + n)

/-- A write to host memory, after every earlier one (R268). -/
def Dev.post (d : Dev) (w : HostWrite) : Dev := { d with host := { d.host with writes := d.host.writes ++ [w] } }

/-- An answer to a read or a request. -/
def Dev.answer (d : Dev) (r : Reply) : Dev := { d with host := { d.host with replies := d.host.replies ++ [r] } }

/-- A message put on the links (R284). -/
def Dev.send (d : Dev) (m : OutMsg) : Dev := { d with host := { d.host with sent := d.host.sent ++ [m] } }

/-- A free value's draw (log 7). -/
def Dev.draw (d : Dev) : Dev := { d with fresh := d.fresh + 1 }

/-! ### The tables -/

def Dev.tile (d : Dev) (k : Nat) : Tile := SMap.get Tile.off d.array.tiles k
def Dev.setTile (d : Dev) (k : Nat) (t : Tile) : Dev :=
  { d with array := { d.array with tiles := SMap.put Tile.off d.array.tiles k t } }
def Dev.updTile (d : Dev) (k : Nat) (f : Tile → Tile) : Dev := d.setTile k (f (d.tile k))

def Dev.table (d : Dev) (lt : Nat) : CorrTab := SMap.get CorrTab.empty d.array.tables lt
def Dev.updTable (d : Dev) (lt : Nat) (f : CorrTab → CorrTab) : Dev :=
  { d with array := { d.array with tables := SMap.put CorrTab.empty d.array.tables lt (f (d.table lt)) } }

def Dev.cluster (d : Dev) (c : Nat) : Cluster := SMap.get Cluster.reset d.array.clusters c
def Dev.setCluster (d : Dev) (c : Nat) (x : Cluster) : Dev :=
  { d with array := { d.array with clusters := SMap.put Cluster.reset d.array.clusters c x } }
def Dev.updCluster (d : Dev) (c : Nat) (f : Cluster → Cluster) : Dev := d.setCluster c (f (d.cluster c))

def Dev.job (d : Dev) (p : Nat) : Job := SMap.get Job.idle d.serve.jobs p
def Dev.setJob (d : Dev) (p : Nat) (j : Job) : Dev :=
  { d with serve := { d.serve with jobs := SMap.put Job.idle d.serve.jobs p j } }
def Dev.updJob (d : Dev) (p : Nat) (f : Job → Job) : Dev := d.setJob p (f (d.job p))

def Dev.req (d : Dev) (slot : Nat) : ReqEntry := SMap.get (ReqEntry.free 0) d.serve.table slot
def Dev.setReq (d : Dev) (slot : Nat) (r : ReqEntry) : Dev :=
  { d with serve := { d.serve with table := SMap.put (ReqEntry.free 0) d.serve.table slot r } }
def Dev.updReq (d : Dev) (slot : Nat) (f : ReqEntry → ReqEntry) : Dev := d.setReq slot (f (d.req slot))

def Dev.kv (d : Dev) (slot : Nat) : KvSeq := SMap.get KvSeq.empty d.serve.kv slot
def Dev.setKv (d : Dev) (slot : Nat) (v : KvSeq) : Dev :=
  { d with serve := { d.serve with kv := SMap.put KvSeq.empty d.serve.kv slot v } }

def Dev.stg (d : Dev) (k : Nat) : Staging := SMap.get Staging.free d.serve.staging k
def Dev.setStg (d : Dev) (k : Nat) (v : Staging) : Dev :=
  { d with serve := { d.serve with staging := SMap.put Staging.free d.serve.staging k v } }

def Dev.graft (d : Dev) (id : Nat) : Graft := SMap.get Graft.empty d.serve.grafts id
def Dev.setGraft (d : Dev) (id : Nat) (g : Graft) : Dev :=
  { d with serve := { d.serve with grafts := SMap.put Graft.empty d.serve.grafts id g } }
def Dev.updGraft (d : Dev) (id : Nat) (f : Graft → Graft) : Dev := d.setGraft id (f (d.graft id))

def Dev.port (d : Dev) (n : Nat) : Port := SMap.get Port.reset d.link.ports n
def Dev.setPort (d : Dev) (n : Nat) (p : Port) : Dev :=
  { d with link := { d.link with ports := SMap.put Port.reset d.link.ports n p } }
def Dev.updPort (d : Dev) (n : Nat) (f : Port → Port) : Dev := d.setPort n (f (d.port n))

def Dev.window (d : Dev) (id : Nat) : Window := SMap.get Window.closed d.link.windows id
def Dev.setWindow (d : Dev) (id : Nat) (w : Window) : Dev :=
  { d with link := { d.link with windows := SMap.put Window.closed d.link.windows id w } }

def Dev.queue (d : Dev) (q : Nat) : Option QCtx := SMap.get none d.host.queues q
def Dev.setQueue (d : Dev) (q : Nat) (x : Option QCtx) : Dev :=
  { d with host := { d.host with queues := SMap.put none d.host.queues q x } }
def Dev.updQueue (d : Dev) (q : Nat) (f : QCtx → QCtx) : Dev := d.setQueue q ((d.queue q).map f)

def Dev.ring (d : Dev) (r : Nat) : Option RCtx := SMap.get none d.host.rings r
def Dev.setRing (d : Dev) (r : Nat) (x : Option RCtx) : Dev :=
  { d with host := { d.host with rings := SMap.put none d.host.rings r x } }

def Dev.fn (d : Dev) (f : Nat) : FnRegs := SMap.get FnRegs.reset d.host.fns f
def Dev.setFn (d : Dev) (f : Nat) (x : FnRegs) : Dev :=
  { d with host := { d.host with fns := SMap.put FnRegs.reset d.host.fns f x } }

def Dev.pcs (d : Dev) (n : Nat) : PcState := SMap.get PcState.inService d.stack.pcs n
def Dev.setPcs (d : Dev) (n : Nat) (x : PcState) : Dev :=
  { d with stack := { d.stack with pcs := SMap.put PcState.inService d.stack.pcs n x } }

def Dev.commit (d : Dev) (p : Nat) : Commit := SMap.get Commit.none d.stack.commits p

def Dev.replica (d : Dev) (p : Nat) : Replica := SMap.get Replica.none d.stack.replicas p
def Dev.setReplica (d : Dev) (p : Nat) (x : Replica) : Dev :=
  { d with stack := { d.stack with replicas := SMap.put Replica.none d.stack.replicas p x } }

/-- The correction and schedule halves of bank `b` (0 for A, 1 for B) of partition `p`. -/
def Dev.bank (d : Dev) (p b : Nat) : BankInfo := SMap.get BankInfo.empty d.stack.banks (2 * p + b)
def Dev.setBank (d : Dev) (p b : Nat) (x : BankInfo) : Dev :=
  { d with stack := { d.stack with banks := SMap.put BankInfo.empty d.stack.banks (2 * p + b) x } }

def Dev.load (d : Dev) (p : Nat) : Option ShardLoad := SMap.get none d.stack.loads p
def Dev.setLoad (d : Dev) (p : Nat) (x : Option ShardLoad) : Dev :=
  { d with stack := { d.stack with loads := SMap.put none d.stack.loads p x } }

def Dev.committing (d : Dev) (p : Nat) : Option (BitVec 2) := SMap.get none d.stack.committing p
def Dev.setCommitting (d : Dev) (p : Nat) (x : Option (BitVec 2)) : Dev :=
  { d with stack := { d.stack with committing := SMap.put none d.stack.committing p x } }

/-- The partition's set-up in force on this package. -/
def Dev.partIn (d : Dev) (p : Nat) : PartEntry := SMap.get PartEntry.none d.part.inForce p

/-- The partition's set-up as accepted at the primary gateway. -/
def Dev.partAcc (d : Dev) (p : Nat) : PartEntry := SMap.get PartEntry.none d.part.accepted p
def Dev.setPartAcc (d : Dev) (p : Nat) (x : PartEntry) : Dev :=
  { d with part := { d.part with accepted := SMap.put PartEntry.none d.part.accepted p x } }
def Dev.setPart (d : Dev) (p : Nat) (x : PartEntry) : Dev :=
  { d with part := { d.part with inForce := SMap.put PartEntry.none d.part.inForce p x } }

def Dev.jobSetup (d : Dev) (p : Nat) : JobSetup := SMap.get JobSetup.none d.sys.jobs p
def Dev.setJobSetup (d : Dev) (p : Nat) (x : JobSetup) : Dev :=
  { d with sys := { d.sys with jobs := SMap.put JobSetup.none d.sys.jobs p x } }

def Dev.lane (d : Dev) (k : Nat) : LaneRec := SMap.get LaneRec.good d.ledger.lanes k
def Dev.setLane (d : Dev) (k : Nat) (x : LaneRec) : Dev :=
  { d with ledger := { d.ledger with lanes := SMap.put LaneRec.good d.ledger.lanes k x } }

def Dev.traceRing (d : Dev) (p : Nat) : Ring := SMap.get Ring.empty d.obs.rings p
def Dev.setTraceRing (d : Dev) (p : Nat) (x : Ring) : Dev :=
  { d with obs := { d.obs with rings := SMap.put Ring.empty d.obs.rings p x } }

def Dev.watch (d : Dev) (p w : Nat) : Option Watch := SMap.get none d.obs.watches (16 * p + w)
def Dev.setWatch (d : Dev) (p w : Nat) (x : Option Watch) : Dev :=
  { d with obs := { d.obs with watches := SMap.put none d.obs.watches (16 * p + w) x } }

/-! ### Stack memory -/

/-- The canonical form of the stack's content. -/
def Memory.wf (m : List Host.Cell) : Bool := SMap.wf (0 : Byte) m

/-- The byte at address `a`; an unlisted byte reads 0 (log 5). -/
def Memory.read (m : List Host.Cell) (a : Nat) : Byte := SMap.get 0 m a

/-- Writes one byte. -/
def Memory.write (m : List Host.Cell) (a : Nat) (b : Byte) : List Host.Cell := SMap.put 0 m a b

/-- Writes bytes from address `a` upward. -/
def Memory.writes (m : List Host.Cell) (a : Nat) : List Byte → List Host.Cell
  | [] => m
  | b :: bs => Memory.writes (Memory.write m a b) (a + 1) bs

/-- Zeros the bytes a .. a + n − 1. -/
def Memory.zero (m : List Host.Cell) (a n : Nat) : List Host.Cell := SMap.keep (fun k => !(decide (a ≤ k) && decide (k < a + n))) m

/-- The bytes a .. a + n − 1. -/
def Memory.reads (m : List Host.Cell) (a : Nat) : Nat → List Byte
  | 0 => []
  | n + 1 => Memory.read m a :: Memory.reads m (a + 1) n

def Dev.byte (d : Dev) (a : Nat) : Byte := Memory.read d.stack.mem a
def Dev.setMem (d : Dev) (m : List Host.Cell) : Dev := { d with stack := { d.stack with mem := m } }
def Dev.writeBytes (d : Dev) (a : Nat) (bs : List Byte) : Dev := d.setMem (Memory.writes d.stack.mem a bs)
def Dev.zeroRange (d : Dev) (a n : Nat) : Dev := d.setMem (Memory.zero d.stack.mem a n)

/-- Applies `f` along a list, left to right. -/
def Dev.forAll {α : Type} (d : Dev) (xs : List α) (f : Dev → α → Dev) : Dev := xs.foldl f d

/-! ### Messages that a port has not delivered (R278, R287) -/

/-- A flit of a message: TYPE 1 or 2 (R277). -/
def SentFlit.carries (f : SentFlit) : Bool := fieldNat f.header 29 27 == 1 || fieldNat f.header 29 27 == 2
/-- The virtual channel of a flit sent. -/
def SentFlit.vc (f : SentFlit) : BitVec 2 := f.header.extractLsb' 30 2

/-- The messages of the flits that are not acknowledged; a HELLO or an idle flit belongs to none. -/
def Port.unacked (p : Port) : List Nat := ((p.replay.filter SentFlit.carries).map (·.message)).eraseDups

/-- Every message that the port holds: with a flit not acknowledged, or waiting to be sent. -/
def Port.undelivered (p : Port) : List Nat := (p.unacked ++ p.tx.map (·.message)).eraseDups

/-- The messages that a port holds are to be injected again, on the route in force then; those that had begun to leave are counted (R287). -/
def Dev.reinject (d : Dev) (n : Nat) : Dev :=
  let p := d.port n
  { d with link := { d.link with again := d.link.again ++ p.undelivered.filter fun m => !d.link.again.contains m } }.count DC.msgResend
    p.unacked.length

/-- The port carries nothing any more: what it held is injected again, and incomplete messages are discarded (R287). -/
def Port.empty (p : Port) : Port :=
  { p with width := 0, keyed := false, keySet := 0, saltTx := 0, saltRx := 0, peerBad := 0, partials := [], replay := [], ctl := [], replays := 0, retrainAt := none, hostRetrain := false,
           tagFails := [], tx := [], owed := noCredits, credits := fullCredits, idleGap := 0, txWait := 0 }

end Sys2Proof.Machine
end

