-- ==== Sys2Proof/Machine/Operands.lean ====
section
/-! DEFINITION. The number formats and the exact accumulator: Z8, FP8, BF16, the column scale, the lane, and the single
rounding (R78 to R95, R475). -/

namespace Sys2Proof.Machine

/-! ### Rounding -/

/-- n × 2^k rounded to an integer: nearest, ties to even. -/
def scaleRound (n : Int) (k : Int) : Int :=
  if k ≥ 0 then n * (2 : Int) ^ k.toNat else roundHalfEven n (2 ^ (-k).toNat)

/-- As `scaleRound`, of n plus a positive residue below 1 where `sticky` holds (R91, R94). -/
def scaleRoundSticky (n : Int) (sticky : Bool) (k : Int) : Int :=
  if sticky && decide (k < 0) then
    let m := 2 * n + 1
    let d : Nat := 2 ^ (1 - k).toNat
    let q := m / (d : Int)
    if 2 * (m % (d : Int)) > d then q + 1 else q
  else scaleRound n k

/-- A rational rounded to an integer, ties to even. -/
def ratRound (r : Rat) : Int := roundHalfEven r.num r.den

/-! ### BF16 scales (R82) -/

/-- The signed significand q of a BF16 word. -/
def bf16q (w : U16) : Int :=
  let f := fieldNat w 6 0
  let m : Int := if fieldNat w 14 7 = 0 then f else 128 + f
  if w.getLsbD 15 then -m else m

/-- The biased exponent e of a BF16 word: the value is q × 2^(e − 134). -/
def bf16e (w : U16) : Nat := max 1 (fieldNat w 14 7)

/-- The word is finite. -/
def bf16Finite (w : U16) : Bool := decide (fieldNat w 14 7 ≠ 255)

/-! ### Floating formats of 8 and 16 bits (R93) -/

/-- A binary format: exponent bits, fraction bits, bias, the largest finite code without its sign, the poison code. -/
structure Fmt where
  expBits : Nat
  fracBits : Nat
  bias : Nat
  maxCode : Nat
  poison : Nat
  deriving DecidableEq, Repr

def Fmt.e4m3 : Fmt := { expBits := 4, fracBits := 3, bias := 7, maxCode := 0x7E, poison := 0x7F }
def Fmt.e5m2 : Fmt := { expBits := 5, fracBits := 2, bias := 15, maxCode := 0x7B, poison := 0x7F }
/-- FP32, the format of Dahlia's sums (R145). -/
def Fmt.f32 : Fmt := { expBits := 8, fracBits := 23, bias := 127, maxCode := 0x7F7FFFFF, poison := 0x7FC00000 }
def Fmt.bf16 : Fmt := { expBits := 8, fracBits := 7, bias := 127, maxCode := 0x7F7F, poison := 0x7FC0 }

/-- The finite value of an unsigned code as (significand, exponent): significand × 2^exponent. -/
def Fmt.sig (f : Fmt) (code : Nat) : Nat × Int :=
  let e := code / 2 ^ f.fracBits
  let m := code % 2 ^ f.fracBits
  if e = 0 then (m, 1 - (f.bias : Int) - f.fracBits) else (2 ^ f.fracBits + m, (e : Int) - f.bias - f.fracBits)

/-- Rounds n × 2^a to the format: nearest, ties to even, subnormals, saturating; where bits of n itself are rounded off, `sticky` adds a
positive residue below 2^a (R93, R94). Answers the unsigned code and whether it saturated. -/
def Fmt.round (f : Fmt) (n : Int) (sticky : Bool) (a : Int) : Nat × Bool :=
  if n = 0 then (0, false) else
  let top : Int := (n.natAbs.log2 : Int) + a
  let emin : Int := 1 - (f.bias : Int)
  let lsb : Int := max top emin - f.fracBits
  let q : Int := (scaleRoundSticky n sticky (a - lsb)).natAbs
  let k : Int := max top emin + f.bias - 1
  let code := (k * 2 ^ f.fracBits + q).toNat
  if code > f.maxCode then (f.maxCode, true) else (code, false)

/-- The code with its sign bit. -/
def Fmt.code (f : Fmt) (neg : Bool) (c : Nat) : Nat := if neg then 2 ^ (f.expBits + f.fracBits) + c else c

/-! ### Z8 (R78 to R80) -/

/-- Mantissa byte as a signed number. -/
def z8m (b : Byte) : Int := b.toInt

/-- An element is poison (R80). -/
def z8Poison (m : Byte) (e : Byte) : Bool := m == 0x80 || e == 0xFF

/-- The normal exponent of a nonzero element (R83). -/
def normExp (e : Byte) (m : Byte) : Int := (e.toNat : Int) + (z8m m).natAbs.log2 - 6

/-! ### The lane (R90, R91) -/

/-- x fits a signed word of `w` bits. -/
def fitsBits (w : Nat) (x : Int) : Bool := decide (-(2 ^ (w - 1) : Int) ≤ x) && decide (x < 2 ^ (w - 1))

/-- x shifted left. -/
def shl (x : Int) (k : Int) : Int := x * (2 : Int) ^ k.toNat

/-- The lowest anchor at or above `a` at which acc (anchored at a) and v (at u) add within 96 bits. R91 does not say how far an anchor is
raised (DESIGN CHOICE, log 126). -/
def raiseTo (acc v a u : Int) : Nat → Int → Int
  | 0, n => n
  | fuel + 1, n =>
    let x := scaleFloor acc (a - n)
    let y := scaleFloor v (u - n)
    if fitsBits 96 x && fitsBits 96 y && fitsBits 96 (x + y) then n else raiseTo acc v a u fuel (n + 1)
where
  /-- n × 2^k rounded toward minus infinity. -/
  scaleFloor (n : Int) (k : Int) : Int := if k ≥ 0 then n * (2 : Int) ^ k.toNat else n / (2 : Int) ^ (-k).toNat

/-- n × 2^k rounded toward minus infinity: the shift right of a two's complement word (R91; log 20). -/
def scaleFloor (n : Int) (k : Int) : Int := raiseTo.scaleFloor n k

/-- The shift right of n by −k loses a bit that is set. -/
def losesBits (n : Int) (k : Int) : Bool := decide (k < 0) && decide (n % (2 : Int) ^ (-k).toNat ≠ 0)

/-- add(lane, v, u) (R90, R91). -/
def Lane.add (l : Lane) (v u : Int) : Lane :=
  if l.empty then { l with empty := false, ext := l.ext || !fitsBits 48 v, acc := v, anchor := u }
  else
    let m := if l.inexact then l.anchor else min l.anchor u
    let x := shl l.acc (l.anchor - m)
    let y := if u ≥ m then shl v (u - m) else scaleFloor v (u - m)
    let lost := losesBits v (u - m)
    let ok := fun w => fitsBits w x && fitsBits w y && fitsBits w (x + y)
    if ok 48 && !l.ext then { l with anchor := m, acc := x + y, sticky := l.sticky || lost }
    else if ok 96 then { l with ext := true, anchor := m, acc := x + y, sticky := l.sticky || lost }
    else
      let n := raiseTo l.acc v l.anchor u 1024 l.anchor
      { l with ext := true, inexact := true, anchor := n,
               acc := scaleFloor l.acc (l.anchor - n) + scaleFloor v (u - n),
               sticky := l.sticky || losesBits l.acc (l.anchor - n) || losesBits v (u - n) }

/-- Merging a moved lane: add(lane, ACC, A) (R92). -/
def Lane.merge (l m : Lane) : Lane :=
  if m.empty then { l with poison := l.poison || m.poison }
  else
    let x := l.add m.acc m.anchor
    { x with poison := l.poison || m.poison, inexact := x.inexact || m.inexact, sticky := x.sticky || m.sticky }

/-- The 64-bit lane state (R92). -/
def Lane.word (l : Lane) : U64 :=
  (0 : BitVec 2) ++ BitVec.ofBool l.empty ++ BitVec.ofBool l.inexact ++ BitVec.ofBool l.ext ++ BitVec.ofBool l.poison
    ++ BitVec.ofInt 10 l.anchor ++ BitVec.ofInt 48 l.acc

/-- The extension word: bits [95:48] of the accumulator, in the low 48 bits of 64 (log 21). -/
def Lane.extWord (l : Lane) : U64 := (0 : BitVec 16) ++ (BitVec.ofInt 96 l.acc).extractLsb' 48 48

/-- A lane as its state words give it. The format has one bit for both: a lane with INEXACT set has lost bits that were not all 0 (R92;
log 131). -/
def Lane.ofWords (w x : U64) : Lane :=
  { empty := w.getLsbD 61, inexact := w.getLsbD 60, ext := w.getLsbD 59, poison := w.getLsbD 58, sticky := w.getLsbD 60,
    anchor := (w.extractLsb' 48 10).toInt
    acc := if w.getLsbD 59 then (x.extractLsb' 0 48 ++ w.extractLsb' 0 48 : BitVec 96).toInt else (w.extractLsb' 0 48).toInt }

/-! ### Writing an output block (R93 to R95) -/

/-- The block exponent and mantissas of 32 values n_i × 2^a_i (R95), with the lanes' poison. Answers the exponent, the
mantissas, and whether the block saturated. -/
def z8Block (ls : List Lane) : Nat × List Byte × Bool :=
  let live := ls.filter (fun l => !l.poison && !l.empty)
  let fits := fun (e : Nat) => live.all (fun l => decide ((scaleRoundSticky l.acc l.sticky (l.anchor + 133 - (e : Int))).natAbs ≤ 127))
  let e : Nat := ((List.range 255).find? fits).getD 254
  let m := fun (l : Lane) =>
    if l.poison then (0x80 : Byte) else if l.empty then 0
    else BitVec.ofInt 8 (clampInt (-127) 127 (scaleRoundSticky l.acc l.sticky (l.anchor + 133 - (e : Int))))
  (e, ls.map m, !fits e)

/-- One lane in a floating format: the code and whether it saturated. An EMPTY lane is positive zero (R94). A negative value that rounds to
zero keeps its sign, which R93 leaves open (DESIGN CHOICE, log 127). -/
def Fmt.ofLane (f : Fmt) (l : Lane) : Nat × Bool :=
  if l.poison then (f.poison, false) else if l.empty then (0, false)
  else
    let r := f.round l.acc l.sticky l.anchor
    (f.code (decide (l.acc < 0)) r.1, r.2)

/-- The finite value of an FP8 code as significand and exponent; none for poison (R475). -/
def fp8Value (e5m2 : Bool) (b : Byte) : Option (Int × Int) :=
  let f := if e5m2 then Fmt.e5m2 else Fmt.e4m3
  let c := b.toNat % 128
  if (if e5m2 then decide (c ≥ 0x7C) else decide (c = 0x7F)) then none
  else
    let v := f.sig c
    some (if b.getLsbD 7 then -(v.1 : Int) else v.1, v.2)

/-- The lane that holds exactly one FP8 element, for the conversion of R475. -/
def fp8Lane (e5m2 : Bool) (b : Byte) : Lane :=
  match fp8Value e5m2 b with
  | none => { Lane.fresh with poison := true }
  | some (n, e) => { Lane.fresh with empty := false, acc := n, anchor := e }

/-- An FP32 word as significand and exponent. -/
def f32Sig (w : U32) : Int × Int :=
  let v := Fmt.f32.sig (w.toNat % 2 ^ 31)
  (if w.getLsbD 31 then -(v.1 : Int) else v.1, v.2)

/-- Adds n × 2^e to an FP32 sum: one rounding to nearest, ties to even, saturating (R145). -/
def f32Add (acc : U32) (n e : Int) : U32 :=
  let a := f32Sig acc
  let lo := min a.2 e
  let sum := a.1 * (2 : Int) ^ (a.2 - lo).toNat + n * (2 : Int) ^ (e - lo).toNat
  BitVec.ofNat 32 (Fmt.f32.code (decide (sum < 0)) (Fmt.f32.round sum false lo).1)

/-- The lane that holds exactly one FP32 result; none is poison. -/
def f32Lane (w : Option U32) : Lane :=
  match w with
  | none => { Lane.fresh with poison := true }
  | some w => { Lane.fresh with empty := false, acc := (f32Sig w).1, anchor := (f32Sig w).2 }

/-- A row of FP8 codes expanded to Z8: per block of 32, padded with zeros, the exponent and mantissas (R475). -/
def expandFp8 (e5m2 : Bool) : Nat → List Byte → List (Nat × List Byte)
  | 0, _ => []
  | fuel + 1, codes =>
    if codes.isEmpty then []
    else
      let block := codes.take 32 ++ List.replicate (32 - codes.length) 0
      let z := z8Block (block.map (fp8Lane e5m2))
      (z.1, z.2.1) :: expandFp8 e5m2 fuel (codes.drop 32)

/-! ### Page scales and KV elements (R157, R161, R163) -/

/-- The largest magnitude of BF16 elements as (q, e); none where all are zero or not finite. -/
def bf16Max (xs : List U16) : Option (Nat × Nat) :=
  xs.foldl (fun m x =>
    if bf16Finite x && decide (bf16q x ≠ 0) then
      let c := x.toNat % 32768
      match m with | some y => if c > y.1 then some (c, 0) else m | none => some (c, 0)
    else m) none

/-- σ_page = 2^ceil(log2(max|x| / (448 / 2^n))) as a power of two's exponent, within the powers that a BF16 SCALE can hold, subnormals
included; beyond them R161 names no scale (DESIGN CHOICE, log 130). -/
def pageScaleExp (xs : List U16) (n : Nat) : Option Int :=
  (bf16Max xs).map fun y =>
    let w := BitVec.ofNat 16 y.1
    -- max|x| × 2^n / 448 = q × 2^(e − 134 + n − 6) / 7
    let q := (bf16q w).natAbs
    let base : Int := (bf16e w : Int) - 134 + n - 6
    -- smallest k with q / 7 ≤ 2^k
    clampInt (-133) 127 (match (List.range 10).find? (fun (i : Nat) => decide (8 * q ≤ 7 * 2 ^ i)) with
      | some i => base + (i : Int) - 3
      | none => base + 6)

/-- The BF16 word of 2^k, −133 ≤ k ≤ 127; a subnormal below 2^−126. -/
def bf16Pow2 (k : Int) : U16 := BitVec.ofNat 16 (if k < -126 then 2 ^ (k + 133).toNat else (k + 127).toNat * 128)

/-- Element x divided by 2^k, in E4M3: the code and whether it saturated beyond ±448 (R161). -/
def kvElement (x : U16) (k : Int) : Byte × Bool :=
  let r := Fmt.e4m3.round (bf16q x) false ((bf16e x : Int) - 134 - k)
  if bf16Finite x then (BitVec.ofNat 8 (Fmt.e4m3.code (x.getLsbD 15) r.1), r.2) else (0x7F, false)

end Sys2Proof.Machine
end

