-- ==== Sys2Proof/Machine/Arith.lean ====
section
/-! DEFINITION. The arithmetic of one tile input: edge conversion, reference columns, correction, classes, the checksum check
(R35, R39 to R43, R52 to R54, R83 to R87, R99 to R103, R122 to R127, R474). -/

namespace Sys2Proof.Machine

/-! ### Edge conversion (R83, R84, R86) -/

/-- What the edge converter makes of one input. -/
structure EdgeOut where
  /-- Aligned mantissas, 512. -/
  a : List Int
  et : Int
  /-- Dynamic outlier rows, by rank. -/
  dynamic : List Nat
  /-- A gap beyond the room (ARITH_OUTLIER_FULL). -/
  full : Bool
  alignZero : Nat
  poison : Bool
  /-- Every pulse is zero (R46). -/
  zero : Bool
  deriving DecidableEq, Repr

/-- Inserts a candidate: n descending, ties by ascending row. -/
def insertCand (x : Int × Nat) : List (Int × Nat) → List (Int × Nat)
  | [] => [x]
  | y :: ys => if x.1 > y.1 then x :: y :: ys else y :: insertCand x ys

/-- The gap at rank `k` (from 1) exceeds `dyn`; the last candidate's gap is infinite (R83). -/
def bigGap (ns : List Int) (dyn k : Nat) : Bool :=
  match ns[k - 1]?, ns[k]? with
  | some x, some y => decide (x - y > dyn)
  | some _, none => true
  | none, _ => false

/-- k_sel of R83 over the 17 largest normal exponents. -/
def selectK (ns : List Int) (dyn room : Nat) : Nat :=
  if dyn = 0 then 0
  else (List.range room).foldl (fun sel i => if bigGap ns dyn (i + 1) then i + 1 else sel) 0

/-- The edge conversion of one input: 512 mantissas and 16 block exponents, the static outlier list, DYN_D (R83). -/
def edgeConvert (ms es : List Byte) (static : List Nat) (dyn : Nat) : EdgeOut :=
  let el := fun (i : Nat) => (ms.getD i 0, es.getD (i / 32) 0)
  let poisoned := fun (i : Nat) => z8Poison (el i).1 (el i).2
  let cand := (List.range 512).filter (fun i => !static.contains i && !poisoned i && (el i).1 != 0)
  let top := cand.foldl (fun t i => (insertCand (normExp (el i).2 (el i).1, i) t).take 17) []
  let ns := top.map Prod.fst
  let room := 16 - static.length
  let k := selectK ns dyn room
  let dynamic := (top.take k).map Prod.snd
  let full := decide (dyn > 0) && (List.range 16).any (fun i => decide (i + 1 > room) && bigGap ns dyn (i + 1))
  let poison := (List.range 512).any poisoned
  if k ≥ cand.length then
    { a := List.replicate 512 0, et := 0, dynamic := dynamic, full := full, alignZero := 0, poison := poison, zero := true }
  else
    let et := ns.getD k 0
    let a := (List.range 512).map (fun i =>
      if static.contains i || poisoned i || dynamic.contains i then 0
      else scaleRound (z8m (el i).1) (((el i).2.toNat : Int) - et))
    let rest := cand.filter (fun i => !dynamic.contains i)
    { a := a, et := et, dynamic := dynamic, full := full,
      alignZero := (rest.filter (fun i => a.getD i 0 == 0)).length, poison := poison, zero := false }

/-! ### Pulses and reference columns -/

/-- The signed pulse width of a nibble: high where `high`, else low (R39). -/
def pulse (high : Bool) (a : Int) : Int :=
  let m := a.natAbs
  let p : Int := if high then (m / 16 : Nat) else (m % 16 : Nat)
  if a < 0 then -p else p

/-- A row lies in the part that an evaluation drives: all rows, or a half (R48). -/
def inHalf (half : Option Nat) (i : Nat) : Bool := match half with | none => true | some h => i / 256 == h

/-- Σ σ p x over the driven rows. -/
def pulseSum (high : Bool) (half : Option Nat) (a : List Int) (x : Nat → Int) : Int :=
  ((List.range 512).map (fun i => if inHalf half i then pulse high (a.getD i 0) * x i else 0)).sum

/-- Every high nibble of the part is zero (R47). -/
def nibbleSkip (half : Option Nat) (a : List Int) : Bool :=
  (List.range 512).all (fun i => !inHalf half i || decide ((a.getD i 0).natAbs < 16))

/-- The expected values of the reference columns 516 to 519 (R54). -/
def refExpected (high : Bool) (half : Option Nat) (a : List Int) : List Int :=
  let s := pulseSum high half a (fun _ => 1)
  let e := pulseSum high half a (fun i => if i % 2 = 0 then 1 else 0)
  [7 * s, -8 * s, 7 * e - 8 * (s - e), 0]

/-- Code weight of a class (R41). -/
def codeWeight (cls : Nat) : Nat := 256 / 2 ^ cls

/-- The finest class whose condition holds, else ×1. -/
def finest (ok : Nat → Bool) : Nat := (([3, 2, 1].find? ok)).getD 0

/-- The class of a reference column: the finest that holds both nibbles' expected values with 8 codes to spare (R43). Where none does,
which column 518 allows and R43 leaves open, the column takes ×1 (DESIGN CHOICE, log 121). -/
def refClass (xs : List Int) : Nat :=
  finest fun cls => xs.all fun x => decide (-(119 * codeWeight cls : Int) ≤ x) && decide (x ≤ 118 * codeWeight cls)

/-- Classes of the four reference columns (R43). -/
def refClasses (a : List Int) : List Nat :=
  let h := refExpected true none a
  let l := refExpected false none a
  (List.range 3).map (fun c => refClass [h.getD c 0, l.getD c 0]) ++ [3]

/-- A reference column of all +7 or all −8 beyond ×1 less the margin: the evaluation is split from the start (R50, case 2). -/
def refSplit (a : List Int) : Bool :=
  [true, false].any fun high => (List.range 2).any fun c => decide (((refExpected high none a).getD c 0).natAbs > 30208)

/-! ### Reference-column correction (R126, R127) -/

/-- F of R126, in pu. -/
def refF : Rat := 32768

/-- Determinant of a 3 × 3 matrix by rows. -/
def det3 (a b c d e f g h i : Rat) : Rat := a * (e * i - f * h) - b * (d * i - f * g) + c * (d * h - e * g)

/-- The least-squares fit of M = o + g E + k E² / F over points (E, M) (R126). -/
def lsq3 (ps : List (Int × Int)) : Estimate :=
  let s := fun (f : Rat → Rat → Rat) => (ps.map (fun p => f p.1 p.2)).sum
  let q := fun (e : Rat) => e * e / refF
  let n : Rat := ps.length
  let x1 := s fun e _ => e
  let x2 := s fun e _ => q e
  let x11 := s fun e _ => e * e
  let x12 := s fun e _ => e * q e
  let x22 := s fun e _ => q e * q e
  let y0 := s fun _ m => m
  let y1 := s fun e m => e * m
  let y2 := s fun e m => q e * m
  let d := det3 n x1 x2 x1 x11 x12 x2 x12 x22
  { o := det3 y0 x1 x2 y1 x11 x12 y2 x12 x22 / d
    g := det3 n y0 x2 x1 y1 x12 x2 y2 x22 / d
    k := det3 n x1 y0 x1 x11 y1 x2 x12 y2 / d }

/-- One nibble's own fit; with |E_516| and |E_517| below 1,024 pu only o is fitted (R126). -/
def refFit (est : Estimate) (es ms : List Int) : Estimate :=
  if (es.getD 0 0).natAbs < 1024 ∧ (es.getD 1 0).natAbs < 1024 then
    { est with o := ((es.zip ms).map (fun p => (p.2 : Rat) - est.g * p.1 - est.k * p.1 * p.1 / refF)).sum / 4 }
  else lsq3 (es.zip ms)

/-- The fitted values enter the estimate with weight 1/n, n at most 16 (R126, R128). -/
def Estimate.enter (est fit : Estimate) (n : Nat) : Estimate :=
  let w : Rat := 1 / (max 1 (min n 16) : Nat)
  { o := est.o + (fit.o - est.o) * w, g := est.g + (fit.g - est.g) * w, k := est.k + (fit.k - est.k) * w }

/-- V of R127 before the clamp. -/
def correctValue (est : Estimate) (code w : Nat) : Rat :=
  let u : Rat := (((code : Int) - 128) * w - est.o) / est.g
  u - est.k * u * u / refF

/-- The corrected offset d in 1/16 code (R87, R127); with a gain of 0, which R127 does not provide for, the free value
`free` (log 24). -/
def correctCode (est : Estimate) (free : Int) (code w : Nat) : Int :=
  if est.g = 0 then clampInt (-2048) 2047 free
  else clampInt (-2048) 2047 (ratRound (16 * correctValue est code w / w))

/-- Column value D = d × W in pu (R122). -/
def columnPu (d : Int) (cls : Nat) : Int := d * (codeWeight cls / 16 : Nat)

/-- A code that is a clip (R41). -/
def isClip (code : Nat) : Bool := code == 0 || code == 255

/-! ### The time of an evaluation (R45, R47, R48, R69) -/

/-- The throughput period in ns of an evaluation's part: all rows, or a half (R45, R47). -/
def Eval.partNs (e : Eval) (half : Option Nat) : Nat := if nibbleSkip half e.vec.a then 48 else 96

/-- The throughput period of an evaluation in ns; of the second half alone where the first is kept (R45, R48, R69). -/
def Eval.period (e : Eval) : Nat :=
  if e.split then (if e.firstHalfKept then 0 else e.partNs (some 0)) + e.partNs (some 1) else e.partNs none

/-- What a brown-out hold makes of an evaluation that began `ns` ago: the evaluation to run when the hold ends, or none where the nibble
that is integrating is its last. A nibble that has begun completes. An evaluation between its nibbles is discarded and runs again from its
high nibble; a split's half whose codes are complete keeps them (R69). -/
def Eval.heldAfter (e : Eval) (ns : Nat) : Option Eval :=
  if e.split then
    let first := if e.firstHalfKept then 0 else e.partNs (some 0)
    if ns < first then
      if first = 96 ∧ ns < 48 then some e else some { e with firstHalfKept := true }
    else if e.partNs (some 1) = 96 ∧ ns < first + 48 then some { e with firstHalfKept := true } else none
  else if e.partNs none = 96 ∧ ns < 48 then some e else none

/-! ### Classes (R100, R102) -/

/-- R100: the finest class whose in-range magnitude is at least HEADROOM / 8 of the peak. -/
def predictClass (headroom peak : Nat) : Nat := finest fun cls => decide (8 * (126 * codeWeight cls) ≥ headroom * peak)

/-- R102: the class of an unclipped column for a replay: 1.125 × (|d|max + 1) × W, with d in 1/16 code. -/
def replayClass (dmax w : Nat) : Nat := finest fun cls => decide (128 * (126 * codeWeight cls) ≥ 9 * (dmax + 16) * w)

/-! ### The checksum check (R122, R53) -/

/-- The residual e_k of group `k` of one nibble. -/
def residual (high : Bool) (half : Option Nat) (a : List Int) (r : Nat → Nat → Int) (D : List Int) (k : Nat) : Int :=
  ((D.drop (128 * k)).take 128).sum - 16 * D.getD (512 + k) 0 - pulseSum high half a (fun i => r i k)

/-- The squared tolerance τ_k² with q² and TOL_SIGMA (R122). -/
def tolerance2 (sigma : Nat) (q2 : Rat) (classes : List Nat) (k : Nat) : Rat :=
  let w2 := fun (c : Nat) => ((codeWeight c) ^ 2 : Nat)
  (sigma ^ 2 : Nat) * q2 * ((((classes.drop (128 * k)).take 128).map w2).sum + 256 * w2 (classes.getD (512 + k) 0) : Nat)

/-- q² of R122: q = max(Q, 0.35). -/
def checkQ2 (q2 : Rat) : Rat := max q2 (49 / 400)

/-- The groups of one nibble that fail the check: group, low nibble, negative residual, and the residual. -/
def failedGroups (high : Bool) (half : Option Nat) (a : List Int) (r : Nat → Nat → Int) (sigma : Nat) (q2 : Rat)
    (classes : List Nat) (D : List Int) : List ((Nat × Bool × Bool × Bool) × Int) :=
  (List.range 4).filterMap fun k =>
    let e := residual high half a r D k
    if ((e : Rat) * e) > tolerance2 sigma q2 classes k then some ((k, !high, decide (e < 0), false), e) else none

/-- DETAIL of a failure (R338): `low` nibble; for a reference event `neg` says code 0 or a value below the fit. -/
def failDetail (f : Nat × Bool × Bool × Bool) (e : Int) : U32 :=
  let mag : Nat := if f.2.2.2 then 0xFFFFFFF else min e.natAbs 0xFFFFFFE
  BitVec.ofNat 28 mag ++ BitVec.ofBool f.2.2.1 ++ BitVec.ofBool f.2.1 ++ BitVec.ofNat 2 f.1

end Sys2Proof.Machine
end

