-- ==== Sys2Proof/Machine/RegMap.lean ====
section
/-! DEFINITION. PF BAR0: where the writable set-up registers lie, their reset values, writable bits and locks (R445, R448). -/

namespace Sys2Proof.Machine

/-! ### Offsets in PF BAR0 (R445) -/

def Off.sysCtl : Nat := 0x10018
def Off.sysGwCtl : Nat := 0x10028
def Off.globalTarget : Nat := 0x10014
def Off.budget : Nat := 0x40000
def Off.monA : Nat := 0x50000
def Off.monB : Nat := 0x50008
def Off.therm : Nat := 0x60000
def Off.queueRange (p : Nat) : Nat := 0x300000 + 4 * p
def Off.dbBase : Nat := 0x300100
def Off.reqCtl : Nat := 0x400000
def Off.arith : Nat := 0x500000
def Off.restore : Nat := 0x500004
def Off.cal : Nat := 0x500008
def Off.qual : Nat := 0x50000C
def Off.jobCtl (p : Nat) : Nat := 0x501000 + 8 * p
def Off.jobQ0 (p : Nat) : Nat := 0x501200 + 8 * p
def Off.flCtl (n : Nat) : Nat := 0x600000 + 0x10000 * n
def Off.share : Nat := 0x700400
def Off.regionReq : Nat := 0x700410
def Off.dahlia : Nat := 0x900000
def Off.lupinKv : Nat := 0xA00000
def Off.foxProfile (p i : Nat) : Nat := 0x1000000 + 8 * (256 * p + i)
def Off.foxStop (p i : Nat) : Nat := 0x1100000 + 512 * (256 * p + i)
def Off.traceCtl (p : Nat) : Nat := 0x2000000 + 0x100 * p
def Off.traceSel (p : Nat) : Nat := 0x2000008 + 0x100 * p
def Off.traceRing (p : Nat) : Nat := 0x2000010 + 0x100 * p
def Off.traceHost (p : Nat) : Nat := 0x2000018 + 0x100 * p
def Off.tracePtr (p : Nat) : Nat := 0x2000020 + 0x100 * p
def Off.traceDev (p : Nat) : Nat := 0x2000040 + 0x100 * p
def Off.logIdx : Nat := 0x2100008
def Off.crocus : Nat := 0x2100010

/-- Offset `o` lies in one of `n` instances of `w` bytes that start at `b` and are `s` bytes apart. -/
def within (o b n s w : Nat) : Bool := decide (b ≤ o) && decide ((o - b) / s < n) && decide ((o - b) % s < w)

/-- The reset value of the set-up word at byte offset `o` (Reset columns of the field tables). -/
def regReset (o : Nat) : U32 :=
  if o = Off.sysCtl then 0x000A0040
  else if o = Off.globalTarget then 0x8000
  else if o = Off.budget then 27648
  else if o = Off.monA ∨ o = Off.monB then 0xFA000
  else if o = Off.therm then 0x14305F
  else if o = Off.reqCtl then 1000
  else if o = Off.arith then 0x148024
  else if o = Off.restore then 0x625DA
  else if o = Off.cal then 0x25836C08
  else if o = Off.qual then 0x20001000
  else if within o 0x501000 64 8 4 then 0x40000000
  else if within o 0x501004 64 8 4 then 4
  else if within o 0x501200 64 8 4 then 0x2020
  else if within o 0x501204 64 8 4 then 0x10010
  else if within o 0x600000 6 0x10000 4 then 0x03E80001
  else if o = Off.share then 0x00190201
  else if o = Off.dahlia then 12320
  else if o = Off.lupinKv then 1
  else if within o 0x1000000 16384 8 4 then 0x3F800000
  else if within o 0x2000004 64 0x100 4 then 0x087D0000
  else 0

/-- The RW and RWL bits of the set-up word at byte offset `o` (R13). -/
def regMask (o : Nat) : U32 :=
  if o = Off.sysCtl then 0xFFFF007F
  else if o = Off.sysCtl + 4 then 0xFFFFFFFF
  else if o = Off.sysGwCtl then 0xFF
  else if o = Off.globalTarget then 0x80FF
  else if o = Off.budget then 0xFFFF
  else if o = Off.monA ∨ o = Off.monB then 0xFFFFFFC3
  else if o = Off.monA + 4 ∨ o = Off.monB + 4 then 0x3FF
  else if o = Off.therm then 0xFFF07F
  else if within o 0x300000 64 4 4 then 0x3FF01FF
  else if o = Off.dbBase then 0xFFE00001
  else if o = Off.dbBase + 4 then 0xFFFFFFFF
  else if o = Off.reqCtl then 0xFFFF
  else if o = Off.arith then 0x3FFFFF
  else if o = Off.restore then 0xF3FFF
  else if o = Off.cal then 0xBFFFFFFF
  else if o = Off.qual then 0xFFFFFFFF
  else if within o 0x501000 64 8 4 then 0xFFFFFFFF
  else if within o 0x501004 64 8 4 then 0xF
  else if within o 0x501200 64 8 4 then 0xFFFFFFFF
  else if within o 0x501204 64 8 4 then 0x1FFFFF
  else if within o 0x600000 6 0x10000 4 then 0xFFFFFF03
  else if o = Off.share then 0xFFFFFF
  else if o = Off.dahlia then 0xFFFF
  else if o = Off.lupinKv then 0x3
  else if within o 0x1000000 16384 8 4 then 0xFFFFFFFF
  else if within o 0x1000004 16384 8 4 then 0x7FF
  else if within o 0x1100000 16384 512 308 then
    let w := (o - 0x1100000) % 512 / 4
    if w = 9 ∨ w = 26 ∨ w = 43 ∨ w = 60 then 0x1F else 0x8003FFFF
  else if within o 0x2000000 64 0x100 4 then 0
  else if within o 0x2000004 64 0x100 4 then 0xFFFFE000
  else if within o 0x2000008 64 0x100 8 then 0xFFFFFFFF
  else if within o 0x2000010 64 0x100 4 then 0xFFFFFFFF
  else if within o 0x2000014 64 0x100 4 then 0x3FFF
  else if within o 0x2000018 64 0x100 4 then 0xFFFFF01F
  else if within o 0x200001C 64 0x100 4 then 0xFFFFFFFF
  else if within o 0x2000024 64 0x100 4 then 0xFFFFFFFF
  else if within o 0x2000040 64 0x100 32 then 0x83FF83FF
  else if o = Off.logIdx then 0x7FFFF
  else if o = Off.crocus ∨ o = Off.crocus + 4 then 0xFFFFFFFF
  else if o = Off.crocus + 8 then 0x7FFFFFF
  else if o = Off.regionReq ∨ o = Off.regionReq + 4 then 0xFFFFFFFF
  else if o = Off.regionReq + 8 then 0x7F
  else 0

/-- The lock and the RWL bits of the word at byte offset `o` (R448). -/
def regLock (o : Nat) : Option (Nat × U32) :=
  if o = Off.sysCtl then some (0, 0x3F)
  else if o = Off.sysCtl + 4 then some (0, 0xFFFFFFFF)
  else if within o 0x300000 64 4 4 then some (1, 0xFFFFFFFF)
  else if o = Off.dbBase ∨ o = Off.dbBase + 4 then some (1, 0xFFFFFFFF)
  else if within o 0x600000 6 0x10000 4 then some (3 + (o - 0x600000) / 0x10000, 0xFF01)
  else none

/-- The word takes effect at a lead boundary (R196, R199, R208), and of which partition (none: any). -/
def regAtLead (o : Nat) : Option (Option Nat) :=
  if o = Off.reqCtl then some none
  else if within o 0x501000 64 8 8 then some (some ((o - 0x501000) / 8))
  else if within o 0x501200 64 8 8 then some (some ((o - 0x501200) / 8))
  else if within o 0x1000000 16384 8 8 then some (some ((o - 0x1000000) / 8 / 256))
  else if within o 0x1100000 16384 512 320 then some (some ((o - 0x1100000) / 512 / 256))
  else none

/-- The word takes effect at a member boundary (R110, R140, R147, R161, R231, R437), and of which partition (none: any). -/
def regAtMember (o : Nat) : Option (Option Nat) :=
  if o = Off.arith ∨ o = Off.restore ∨ o = Off.cal ∨ o = Off.qual ∨ o = Off.share ∨ o = Off.dahlia ∨ o = Off.lupinKv
  then some none
  else if within o 0x2000000 64 0x100 0x20 ∨ within o 0x2000040 64 0x100 32 then some (some ((o - 0x2000000) / 0x100))
  else none

/-- The word at byte offset `o` as last written (R443). -/
def Dev.reg (d : Dev) (o : Nat) : U32 := SMap.get (regReset o) d.glob.regs (o / 4)

/-- The word at byte offset `o` in force (R443). -/
def Dev.regIn (d : Dev) (o : Nat) : U32 := SMap.get (regReset o) d.glob.inForce (o / 4)

def Dev.setReg (d : Dev) (o : Nat) (w : U32) : Dev :=
  { d with glob := { d.glob with regs := SMap.put (regReset o) d.glob.regs (o / 4) w } }

def Dev.setRegIn (d : Dev) (o : Nat) (w : U32) : Dev :=
  { d with glob := { d.glob with inForce := SMap.put (regReset o) d.glob.inForce (o / 4) w } }

/-- A 64-bit register as last written, its low word at byte offset `o`. -/
def Dev.reg64 (d : Dev) (o : Nat) : U64 := d.reg (o + 4) ++ d.reg o

/-- A 64-bit register in force. -/
def Dev.regIn64 (d : Dev) (o : Nat) : U64 := d.regIn (o + 4) ++ d.regIn o

/-- A field of the word last written. -/
def Dev.fld (d : Dev) (o hi lo : Nat) : Nat := fieldNat (d.reg o) hi lo

/-- A field of the word in force. -/
def Dev.fldIn (d : Dev) (o hi lo : Nat) : Nat := fieldNat (d.regIn o) hi lo

/-- Some job has a step in progress on this device (R24, R443). -/
def Dev.busy (d : Dev) : Bool := d.serve.jobs.any (fun e => e.2.step.isSome)

/-- Puts in force every staged word that `sel` selects (R443). -/
def Dev.applyRegs (d : Dev) (sel : Nat → Bool) : Dev :=
  d.forAll (d.glob.regs.map Prod.fst ++ d.glob.inForce.map Prod.fst) (fun d k => if sel (4 * k) then d.setRegIn (4 * k) (d.reg (4 * k)) else d)

/-! ### Named fields -/

/-- The host's BUDGET as it acts (R368). -/
def Dev.hostBudget (d : Dev) : Nat := max 5120 (min 36000 (d.fld Off.budget 15 0))

/-- THR_REQ in 1/16 °C (R394). -/
def Dev.thrReq (d : Dev) : Int :=
  let t := d.fld Off.therm 6 0
  16 * (if 70 ≤ t ∧ t ≤ Config.ratedMax then t else 95)

/-- HYST in 1/16 °C (R394). -/
def Dev.hyst (d : Dev) : Int := 16 * (max 1 (d.fld Off.therm 15 12))

/-- GRACE in ms (R394). -/
def Dev.grace (d : Dev) : Nat := max 1 (min 200 (d.fld Off.therm 23 16))

/-- Logical sizes minus 1 in X, Y and Z (R313). -/
def Dev.xm1 (d : Dev) : Nat := d.fld Off.sysCtl 1 0
def Dev.ym1 (d : Dev) : Nat := d.fld Off.sysCtl 3 2
def Dev.zm1 (d : Dev) : Nat := d.fld Off.sysCtl 5 4
def Dev.sysId (d : Dev) : U32 := d.reg (Off.sysCtl + 4)
def Dev.spareEn (d : Dev) : Bool := d.fld Off.sysCtl 6 6 == 1

/-- N_S of a job (R184). -/
def Dev.stepsMax (d : Dev) (p : Nat) : Nat := d.fldIn (Off.jobCtl p) 21 16 + 1
/-- STEP_TGT of a job in µs (R208). -/
def Dev.stepTgt (d : Dev) (p : Nat) : Nat := d.fldIn (Off.jobCtl p) 15 0
/-- CHUNK of a job as it acts (R208). -/
def Dev.chunk (d : Dev) (p : Nat) : Nat :=
  let c := fieldNat (d.regIn64 (Off.jobCtl p)) 30 22
  if c = 0 ∨ c > 256 then 256 else c
/-- GRAFTS_MAX of a job as it acts (R208). -/
def Dev.graftsMax (d : Dev) (p : Nat) : Nat :=
  let g := fieldNat (d.regIn64 (Off.jobCtl p)) 35 31
  if g = 0 ∨ g > 16 then 16 else g
/-- Q0_PROMPT, 1 to 256; other values act as the nearest end of the range (log 40). -/
def Dev.q0Prompt (d : Dev) (p : Nat) : Nat := max 1 (min 256 (fieldNat (d.regIn64 (Off.jobQ0 p)) 52 44))
def Dev.q0Ctx (d : Dev) (p : Nat) : Nat := fieldNat (d.regIn64 (Off.jobQ0 p)) 43 24
def Dev.q0Req (d : Dev) (p : Nat) : Nat := min 16384 (fieldNat (d.regIn64 (Off.jobQ0 p)) 23 9)
def Dev.q0Rows (d : Dev) (p : Nat) : Nat := min 256 (fieldNat (d.regIn64 (Off.jobQ0 p)) 8 0)
/-- REQ_HOLD in µs (R208). -/
def Dev.reqHold (d : Dev) : Nat := d.fldIn Off.reqCtl 15 0

/-- DYN_D, CLIP_N, BAND_U and HEADROOM as they act (R110). -/
def Dev.dynD (d : Dev) : Nat := d.fldIn Off.arith 3 0
def Dev.clipN (d : Dev) : Nat := d.fldIn Off.arith 7 4
def Dev.bandU (d : Dev) : Nat := d.fldIn Off.arith 16 8
def Dev.headroom (d : Dev) : Nat :=
  let h := d.fldIn Off.arith 21 17
  if 8 ≤ h ∧ h ≤ 16 then h else 10

/-- AUDIT_LOG2 as it acts; none disables the audit (R140). -/
def Dev.auditLog2 (d : Dev) : Option Nat :=
  let a := d.fldIn Off.restore 19 16
  if a = 15 then none else some (min a 10)

/-- EARLY and URGENT in percent as they act (R140). -/
def Dev.earlyUrgent (d : Dev) : Nat × Nat :=
  let e := d.fldIn Off.restore 13 7
  let u := d.fldIn Off.restore 6 0
  if 50 ≤ e ∧ e ≤ 85 ∧ 80 ≤ u ∧ u ≤ 95 ∧ e + 5 ≤ u then (e, u) else (75, 90)

def Dev.freeze (d : Dev) : Bool := d.fldIn Off.cal 31 31 == 1
/-- CAL_MAX_IVL in seconds (R140). -/
def Dev.calMaxIvl (d : Dev) : Nat :=
  let v := d.fldIn Off.cal 29 20
  if 10 ≤ v ∧ v ≤ 600 then v else 600
/-- ΔT in °C (R140). -/
def Dev.calDt (d : Dev) : Nat := d.fldIn Off.cal 19 16 + 1
/-- TOL_SIGMA (R140). -/
def Dev.tolSigma (d : Dev) : Nat := max 4 (d.fldIn Off.cal 15 12)
/-- SHADOW_LOG2 as it acts; none disables shadow sampling (R140). -/
def Dev.shadowLog2 (d : Dev) : Option Nat :=
  let n := d.fldIn Off.cal 11 8
  if n = 0 then none else some (max n 8)
/-- DRIFT_THR in 1/16 LSB; none disables the drift trigger (R140). -/
def Dev.driftThr (d : Dev) : Option Nat :=
  let v := d.fldIn Off.cal 7 0
  if v = 0 then none else some v
/-- QLIM_FAULT and QLIM_CAL in 1/4096 LSB (R140). -/
def Dev.qlimFault (d : Dev) : Nat := d.fldIn Off.qual 31 16
def Dev.qlimCal (d : Dev) : Nat := d.fldIn Off.qual 15 0

/-- DAHLIA_CAP as it acts (R169). -/
def Dev.dahliaCap (d : Dev) : Nat :=
  let v := d.fldIn Off.dahlia 15 0
  if v = 0 then 0 else max 385 (min 12320 v)

/-- The page-scale headroom n (R169). -/
def Dev.scaleHr (d : Dev) : Nat :=
  let v := d.fldIn Off.lupinKv 1 0
  if v = 3 then 1 else v

end Sys2Proof.Machine
end

