-- ==== Sys2Proof/Machine/Base.lean ====
section
/-! DEFINITION. Shared operations of the whole package: jobs and positions, host writes and completions, interrupts,
events, notices and the ledger log. -/

namespace Sys2Proof.Machine

/-! ### Partitions, jobs and positions -/

/-- PART_CFG.VALID and SECURE of the set-up in force (R401). -/
def Dev.partValid (d : Dev) (p : Nat) : Bool := (d.partIn p).cfg.getLsbD 63
def Dev.partSecure (d : Dev) (p : Nat) : Bool := (d.partIn p).cfg.getLsbD 62

/-- First request slot and number of slots of a partition (R172, R401). -/
def Dev.reqBase (d : Dev) (p : Nat) : Nat := 256 * fieldNat (d.partIn p).cfg 9 0
def Dev.reqCount (d : Dev) (p : Nat) : Nat :=
  min (256 * fieldNat (d.partIn p).cfg 19 10) (Config.requestSlots - d.reqBase p)
/-- First staging slot and number of slots of a partition. -/
def Dev.stgBase (d : Dev) (p : Nat) : Nat := fieldNat (d.partIn p).cfg 31 20
def Dev.stgCount (d : Dev) (p : Nat) : Nat := fieldNat (d.partIn p).cfg 43 32
def Dev.ownerSlot (d : Dev) (p : Nat) : Nat := fieldNat (d.partIn p).cfg 47 44

/-- The clusters of a partition on this package (R400). -/
def Dev.partClusters (d : Dev) (p : Nat) : List Nat :=
  (List.range Config.numClusters).filter (fun c => (d.partIn p).clusters.getLsbD c)

/-- The partition that owns cluster `c`, if any (R400). -/
def Dev.clusterOwner (d : Dev) (c : Nat) : Option Nat :=
  (d.part.inForce.find? (fun e => e.2.cfg.getLsbD 63 && e.2.clusters.getLsbD c)).map Prod.fst

/-- The logical positions of a job in ascending member index (R298, R315). -/
def Dev.members (d : Dev) (p : Nat) : List Nat :=
  let s := (d.jobSetup p).shape
  let f := fun hi lo => fieldNat s hi lo
  (List.range (f 11 10 + 1)).flatMap fun k =>
    (List.range (f 9 8 + 1)).flatMap fun j =>
      (List.range (f 7 6 + 1)).map fun i =>
        (f 1 0 + i) % (d.xm1 + 1) + 4 * ((f 3 2 + j) % (d.ym1 + 1)) + 16 * ((f 5 4 + k) % (d.zm1 + 1))

/-- This package's member index in a job. -/
def Dev.memberIndex (d : Dev) (p : Nat) : Option Nat :=
  if d.sys.coordValid then
    let i := (d.members p).findIdx (· == d.sys.position)
    if i < (d.members p).length then some i else none
  else none

/-- The job is defined and pushed (R298). -/
def Dev.jobActive (d : Dev) (p : Nat) : Bool := (d.jobSetup p).valid && (d.jobSetup p).active

/-- This package is a member of the job. -/
def Dev.isMember (d : Dev) (p : Nat) : Bool := (d.jobSetup p).valid && (d.memberIndex p).isSome

/-- This package leads the job: it is the member of index 0 (R171; log 41). -/
def Dev.isLead (d : Dev) (p : Nat) : Bool := (d.jobSetup p).valid && d.memberIndex p == some 0

/-- This package takes host commands: it is ready and not fenced (R242, R311). -/
def Dev.serving (d : Dev) : Bool := decide (d.rst.phase = .ready) && !d.sys.fenced

/-- A package holds position `pos` (SYS_POSMAP.VALID). -/
def Dev.present (d : Dev) (pos : Nat) : Bool := (SMap.get 0 d.sys.posMap pos).getLsbD 7

/-- The node at a position. -/
def Dev.nodeAt (d : Dev) (pos : Nat) : BitVec 7 := (SMap.get (0 : Byte) d.sys.posMap pos).truncate 7

/-- The partitions whose jobs this package serves. -/
def Dev.myJobs (d : Dev) : List Nat := (d.sys.jobs.map Prod.fst).filter (fun p => d.isMember p)

/-- The time to lease expiry in 10 µs units; 0 without a valid lease (R294, R313). -/
def Dev.leaseLeft (d : Dev) : Nat :=
  if d.sys.leaseValid then min 65535 ((300000000 - d.since d.sys.leaseAt) / 10000) else 0

/-! ### Stack regions (R227 to R229) -/

/-- KIND, first block and blocks of descriptor `i` at reset (R228). -/
def regionInit : Nat → Option (Nat × Nat × Nat)
  | 0 => some (0, 0, 262144) | 1 => some (1, 262144, 262144) | 2 => some (2, 524288, 262144)
  | 3 => some (3, 786432, 262144) | 4 => some (4, 1048576, 4718592) | 5 => some (5, 5767168, 131072)
  | 6 => some (6, 5898240, 65536) | 7 => some (7, 5963776, 65536) | 8 => some (8, 6029312, 262144)
  | _ => none

/-- STACK_REGION `i` at reset (R228, R229). -/
def regionReset (i : Nat) : U64 :=
  match regionInit i with
  | some (k, b, n) => (0x80 : BitVec 8) ++ (1 : BitVec 1) ++ BitVec.ofNat 4 k ++ (0 : BitVec 5) ++ BitVec.ofNat 23 n ++ BitVec.ofNat 23 b
  | none => 0

/-- STACK_REGION `i`. -/
def Dev.region (d : Dev) (i : Nat) : U64 := SMap.get (regionReset i) d.stack.regions i

/-- Fields of a region descriptor (R229). -/
def rgValid (w : U64) : Bool := w.getLsbD 63
def rgSecure (w : U64) : Bool := w.getLsbD 62
def rgPart (w : U64) : Nat := fieldNat w 61 56
def rgShared (w : U64) : Bool := w.getLsbD 55
def rgKind (w : U64) : Nat := fieldNat w 54 51
def rgSize (w : U64) : Nat := fieldNat w 45 23
def rgBase (w : U64) : Nat := fieldNat w 22 0

/-- The valid region of a kind: first block and blocks; (0, 0) where there is none. -/
def Dev.kindAt (d : Dev) (kind : Nat) : Nat × Nat :=
  match (List.range 128).find? (fun i => rgValid (d.region i) && rgKind (d.region i) == kind) with
  | some i => (rgBase (d.region i), rgSize (d.region i))
  | none => (0, 0)

/-- Byte address of the first byte of a region kind. -/
def Dev.kindBase (d : Dev) (kind : Nat) : Nat := 16384 * (d.kindAt kind).1

/-- Block through the block-remap table (R234). -/
def Dev.mapBlock (d : Dev) (b : Nat) : Nat := SMap.get b d.stack.remap b

/-- Byte address through the block-remap table. -/
def Dev.mapAddr (d : Dev) (a : Nat) : Nat := 16384 * d.mapBlock (a / 16384) + a % 16384

/-- Bytes from address `a`, through the block-remap table. -/
def Dev.stackRead (d : Dev) (a n : Nat) : List Byte := (List.range n).map fun i => d.byte (d.mapAddr (a + i))

/-- Writes bytes from address `a`, through the block-remap table. -/
def Dev.stackWrite (d : Dev) (a : Nat) (bs : List Byte) : Dev :=
  d.setMem ((bs.zipIdx).foldl (fun m b => Memory.write m (d.mapAddr (a + b.2)) b.1) d.stack.mem)

/-- The pseudo-channel of a block (R227). -/
def pcOf (b : Nat) : Nat :=
  (b % 32) ^^^ (b / 32 % 32) ^^^ (b / 1024 % 32) ^^^ (b / 32768 % 32) ^^^ (b / 1048576 % 8)

/-! ### Bit patterns of what the host sees -/

def ReqState.code : ReqState → BitVec 4
  | .free => 0 | .queued => 1 | .prefill => 2 | .decode => 3 | .draining => 4 | .done => 5 | .expired => 6
  | .cancelled => 7 | .lost => 8

/-- The request ended (R177). -/
def ReqState.terminal : ReqState → Bool
  | .done | .expired | .cancelled | .lost => true
  | _ => false

/-- The request has not ended and is not FREE. -/
def ReqState.live : ReqState → Bool
  | .queued | .prefill | .decode | .draining => true
  | _ => false

def TileState.code : TileState → BitVec 4
  | .off => 0 | .blank => 1 | .programming => 2 | .verifying => 3 | .ready => 4 | .restoring => 5 | .suspect => 6
  | .standin => 7 | .retired => 8

/-- The handle of a slot (R172). -/
def handleOf (slot : Nat) (gen : BitVec 14) : U32 := gen ++ BitVec.ofNat 18 slot

/-- The slot of a handle. -/
def slotOf (h : U32) : Nat := fieldNat h 17 0

/-- The generation of a handle. -/
def genOf (h : U32) : BitVec 14 := h.extractLsb' 18 14

/-- The completion entry (R266). -/
def completionWord (phase : Bool) (sqId : Nat) (result : U32) (reason state : BitVec 4) (delivered : BitVec 20)
    (opcode status : Byte) (sqHead : U16) (handle : U32) (tag : U64) : BitVec 256 :=
  BitVec.ofBool phase ++ (0 : BitVec 45) ++ BitVec.ofNat 18 sqId ++ result ++ (0 : BitVec 4) ++ reason ++ state
    ++ delivered ++ opcode ++ status ++ sqHead ++ handle ++ tag

/-- The output record (R201). -/
def recordWord (phase : Bool) (reason : BitVec 4) (tokvalid final : Bool) (seq logp : U16) (token : BitVec 18) : U64 :=
  BitVec.ofBool phase ++ (0 : BitVec 7) ++ reason ++ BitVec.ofBool tokvalid ++ BitVec.ofBool final ++ seq ++ logp ++ token

/-- The admission word (R270). -/
def admissionWord (h : U32) : U64 := (1 : BitVec 1) ++ (0 : BitVec 31) ++ h

/-- The request-table entry (R174). -/
def ReqEntry.word (r : ReqEntry) : BitVec 512 :=
  let m := fun i => BitVec.ofNat 5 (r.matchLens.getD i 0)
  (0 : BitVec 3) ++ BitVec.ofBool (decide (r.inflight ≠ 0)) ++ m 3 ++ m 2 ++ m 1 ++ m 0 ++ r.prefillPos ++ r.promptLen
    ++ (0 : BitVec 3) ++ BitVec.ofBool r.slotValid ++ BitVec.ofNat 12 r.slot ++ r.admitTime ++ r.tag ++ (0 : BitVec 2)
    ++ r.reason ++ r.delivered ++ BitVec.ofBool r.cancel ++ BitVec.ofBool r.dlValid ++ BitVec.ofNat 18 r.cq
    ++ BitVec.ofNat 18 r.outRing ++ r.seed ++ r.deadline ++ r.graftVer ++ (0 : BitVec 7) ++ r.graftId
    ++ BitVec.ofBool r.graftValid ++ (0 : BitVec 1) ++ r.pageList ++ r.maxLen ++ r.stopSet ++ r.profile ++ (0 : BitVec 2)
    ++ r.len ++ r.gen ++ BitVec.ofNat 6 r.partition ++ r.cls ++ r.state.code

/-- The mirror entry (R176). -/
def ReqEntry.mirror (r : ReqEntry) (step : U48) : BitVec 128 :=
  step ++ (0 : BitVec 12) ++ BitVec.ofBool r.slotValid ++ BitVec.ofBool r.cancel ++ r.delivered ++ r.len ++ r.gen
    ++ BitVec.ofNat 6 r.partition ++ r.cls ++ r.state.code

/-- The bytes of a word, lowest first (R11). -/
def bytesOf {n : Nat} (w : BitVec n) (count : Nat) : List Byte :=
  (List.range count).map (fun i => w.extractLsb' (8 * i) 8)

/-! ### Status codes (R267) -/

def St.success : Byte := 0x00
def St.opcodeInvalid : Byte := 0x01
def St.fieldInvalid : Byte := 0x02
def St.notPermitted : Byte := 0x03
def St.identUnavailable : Byte := 0x04
def St.hostReadError : Byte := 0x05
def St.unsupportedCapability : Byte := 0x06
def St.scheduleTooLarge : Byte := 0x07
def St.jobAbsent : Byte := 0x08
def St.tableFull : Byte := 0x10
def St.class0Quota : Byte := 0x11
def St.lenInvalid : Byte := 0x12
def St.graftInvalid : Byte := 0x13
def St.invalidHandle : Byte := 0x14
def St.staleHandle : Byte := 0x15
def St.reqEnded : Byte := 0x16
def St.jobStopped : Byte := 0x17
def St.graftMalformed : Byte := 0x20
def St.graftVersionBusy : Byte := 0x21
def St.windowClosed : Byte := 0x30
def St.windowBusy : Byte := 0x31
def St.shardCorrupt : Byte := 0x40
def St.shardMissing : Byte := 0x41
def St.bankInvalid : Byte := 0x42
def St.replacementBusy : Byte := 0x43
def St.watchFull : Byte := 0x50

/-- The opcode of a forwarded command (R260). -/
def FwdBody.opcode : FwdBody → Byte
  | .submit _ => 0x01 | .setDeadline .. => 0x02 | .cancel _ => 0x03 | .graftLoad .. => 0x10 | .graftRetire _ => 0x11
  | .windowOpen .. => 0x20 | .windowClose _ => 0x21 | .runOperator _ => 0x30 | .loadShard _ => 0x40
  | .commitShard .. => 0x41 | .watch _ => 0x50 | .calibrate => 0x60 | .query .. => 0x70
  | .lost _ => 0x00

/-! ### Host memory writes at the gateway -/

/-- The partition in whose QUEUE_RANGE an ID lies (R251, R252). -/
def Dev.idOwner (d : Dev) (id : Nat) : Option Nat :=
  (List.range 64).find? fun p =>
    let r := d.reg (Off.queueRange p)
    decide (512 * fieldNat r 8 0 ≤ id) && decide (id < 512 * (fieldNat r 8 0 + fieldNat r 25 16))

/-- The function whose requester ID and vectors an ID uses (R252): the VF of its partition, or the PF. -/
def Dev.idFn (d : Dev) (id : Nat) : Nat := match d.idOwner id with | some p => p + 1 | none => 0

/-- A word of the function's MSI-X table; bit 0 of an entry's fourth word masks its vector, and is set at reset (R271; log 80). -/
def tableReset (i : Nat) : U32 := if i % 4 = 3 then 1 else 0
def FnRegs.table (f : FnRegs) (i : Nat) : U32 := SMap.get (tableReset i) f.msixTable i

/-- The vector may not be sent: it is masked, the whole function is, or MSI-X is not enabled (R271; log 80). -/
def FnRegs.masked (f : FnRegs) (vector : Nat) : Bool :=
  (f.table (4 * vector + 3)).getLsbD 0 || f.msixCtl.getLsbD 14 || !f.msixCtl.getLsbD 15

/-- An MSI-X message: the Data of the vector's table entry is written to its Address; a masked vector stays pending (R271; log 80). -/
def Dev.msix (d : Dev) (fn : Nat) (vector : BitVec 11) : Dev :=
  let f := d.fn fn
  let k := 4 * vector.toNat
  if f.masked vector.toNat then d.setFn fn { f with msixPending := SMap.put false f.msixPending vector.toNat true }
  else (d.post (.msix fn vector (f.table (k + 1) ++ f.table k) (f.table (k + 2)))).count DC.msixSent

/-- Signals the completions of a queue pair (R271). -/
def Dev.signalQueue (d : Dev) (q : Nat) : Dev :=
  match d.queue q with
  | none => d
  | some x => if x.unsignalled = 0 then d
    else (d.setQueue q (some { x with unsignalled := 0 })).msix (d.idFn q) x.vector

/-- The key of a context: a queue pair's ID, or 2^18 plus a ring's ID. -/
def ctxKey (ring : Bool) (id : Nat) : Nat := if ring then 262144 + id else id

/-- The context is pinned on the die (R252). -/
def Dev.pinned (d : Dev) (key : Nat) : Bool :=
  if key < 262144 then (match d.queue key with | some x => x.pin | none => false) else false

/-- The queue-pair context as 256 bits. -/
def QCtx.word (x : QCtx) : BitVec 256 :=
  (0 : BitVec 29) ++ BitVec.ofBool x.cqPhase ++ x.cqTail ++ x.sqHead ++ (0 : BitVec 23) ++ BitVec.ofBool x.halted
    ++ x.coalTime ++ x.coalCount ++ (0 : BitVec 1) ++ BitVec.ofBool x.pin ++ BitVec.ofBool x.irqEn ++ x.vector
    ++ BitVec.ofNat 5 x.cqLog2 ++ BitVec.ofNat 5 x.sqLog2 ++ x.cqBase ++ x.sqBase

/-- The output-ring context as 256 bits. -/
def RCtx.word (x : RCtx) : BitVec 256 :=
  (0 : BitVec 96) ++ x.w ++ (0 : BitVec 46) ++ x.irqMode ++ x.vector ++ BitVec.ofNat 5 x.log2 ++ x.base

/-- The context of a key as 256 bits; none where there is none. -/
def Dev.ctxWord (d : Dev) (key : Nat) : Option (BitVec 256) :=
  if key < 262144 then (d.queue key).map QCtx.word else (d.ring (key - 262144)).map RCtx.word

/-- First byte of a context in the 16 MiB at the top of the schedules-and-images region: the queue pairs', then the rings' (R252, R323; which
lies first is a DESIGN CHOICE, log 174). -/
def Dev.ctxAt (d : Dev) (key : Nat) : Nat := d.kindBase 6 + 1056964608 + 32 * key

/-- Writes a context to its place in the stack; one that is deleted is cleared there (R252; log 174). -/
def Dev.storeCtx (d : Dev) (key : Nat) : Dev := d.stackWrite (d.ctxAt key) (bytesOf ((d.ctxWord key).getD 0) 32)

/-- Brings a context into the gateway's cache; a full cache gives up a context that is not pinned, which goes back to the
stack (R252; log 17). -/
def Dev.cacheCtx (d : Dev) (key : Nat) : Dev :=
  let cs := d.host.cached
  if cs.contains key then d
  else if cs.length < 16384 then { d with host := { d.host with cached := key :: cs } }
  else
    let free := cs.filter fun k => !d.pinned k
    match free[Config.evictChoice d.fresh % free.length]? with
    | none => d
    | some k => { d with host := { d.host with cached := key :: cs.erase k }, fresh := d.fresh + 1 }.storeCtx k

/-- The gateway uses a context; one that is not cached is fetched from the stack (R252, R273). -/
def Dev.touchCtx (d : Dev) (key : Nat) : Dev :=
  if d.host.cached.contains key then d else (d.cacheCtx key).count DC.qctxMiss

/-- The context after a completion entry is written: the tail moves on, and the entry is owed no longer and not yet signalled (R257, R266, R271). -/
def QCtx.written (x : QCtx) (now : U64) : QCtx :=
  let next := (x.cqTail.toNat + 1) % 2 ^ x.cqLog2
  { x with cqTail := BitVec.ofNat 18 next, cqPhase := if next = 0 then !x.cqPhase else x.cqPhase,
           owed := x.owed - 1, unsignalled := x.unsignalled + 1,
           firstUnsignalled := if x.unsignalled = 0 then now else x.firstUnsignalled }

/-- Writes a completion entry into a queue's CQ and counts it unsignalled (R257, R266, R271). -/
def Dev.writeCompletion (d : Dev) (q : Nat) (w : BitVec 256) : Dev :=
  match d.queue q with
  | none => d
  | some x =>
    let addr := x.cqBase + BitVec.ofNat 64 (32 * x.cqTail.toNat)
    let data := BitVec.ofBool x.cqPhase ++ w.extractLsb' 0 255
    let x' := x.written d.now
    let d := (((d.touchCtx q).setQueue q (some x')).post (.completion q addr data)).count DC.cqWritten
    if x.irqEn ∧ x'.unsignalled ≥ max 1 x.coalCount.toNat then d.signalQueue q else d

/-- Writes an output record into a ring (R269) and raises its vector (R271). -/
def Dev.writeRecord (d : Dev) (r : Nat) (final : Bool) (w : U64) : Dev :=
  match d.ring r with
  | none => d.count DC.recNoRing
  | some x =>
    let i := x.w.toNat % 2 ^ x.log2
    let phase := decide (x.w.toNat / 2 ^ x.log2 % 2 = 0)
    let data := BitVec.ofBool phase ++ w.extractLsb' 0 63
    let d := ((d.touchCtx (ctxKey true r)).setRing r (some { x with w := x.w + 1 })).post (.record r (x.base + BitVec.ofNat 64 (8 * i)) data)
    if x.irqMode = 2 ∨ (x.irqMode ≠ 0 ∧ final) then d.msix (d.idFn r) x.vector else d

/-- A message takes effect where it came on the virtual channel of its kind; on another it is discarded and counted (R284). -/
def State.onChannel (s : State) (want vc : BitVec 2) (f : Dev → Dev) : Out := s.on fun d => if vc = want then f d else d.count DC.msgDiscard

/-- The outstanding command that a completion entry answers: same queue, TAG, OPCODE and SQ_HEAD, which tells a command from a later one that
reuses its TAG, and the handle where the command is an admitted request (R265, R266). -/
def Outstanding.answeredBy (o : Outstanding) (q : Nat) (w : BitVec 256) : Bool :=
  o.queue == q && o.tag == w.extractLsb' 0 64 && o.opcode == w.extractLsb' 120 8 && o.sqHead == w.extractLsb' 96 16
    && o.handle == (if fieldNat w 151 148 = 0 then none else some (w.extractLsb' 64 32))

/-- The gateway learns the handle of an admitted submission. -/
def Dev.noteAdmitted (d : Dev) (q : Nat) (sqHead : U16) (tag : U64) (h : U32) : Dev :=
  match d.host.outstanding.find? (fun o => o.queue == q && o.tag == tag && o.sqHead == sqHead && o.opcode == 0x01 && o.handle.isNone) with
  | none => d
  | some o => { d with host := { d.host with outstanding := { o with handle := some h } :: d.host.outstanding.erase o } }

/-- A package's answer to the pack being distributed is counted once; with the last one STATE is done (R348). -/
def Dev.packAnswer (d : Dev) (node : BitVec 7) (ok : Bool) : Dev :=
  let l := d.ledger
  if l.crocusAsked.contains node then
    let left := l.crocusAsked.erase node
    { d with ledger := { l with crocusAsked := left, crocusState := if left.isEmpty then 2 else l.crocusState
                                crocusAccepted := l.crocusAccepted + (if ok then 1 else 0)
                                crocusRefused := l.crocusRefused + (if ok then 0 else 1) } }
  else d

/-- The gateway carries out a host write that a lead or a member sent (R268). A completion of a command no longer outstanding
is discarded (R265). A job's first COMMIT_SHARD brings its symbol table into service (R259). -/
def Dev.applyHostWrite (d : Dev) (m : HostWriteMsg) : Dev :=
  match m with
  | .record r final w => d.writeRecord r final w
  | .admission q sq tag a w =>
    let d := d.noteAdmitted q sq tag (w.extractLsb' 0 32)
    if a = 0 then d else d.post (.admission (d.idFn q) a w)
  | .mirror slot w => { d with host := { d.host with mirror := SMap.put 0 d.host.mirror slot w } }
  | .buffer q a bs => d.post (.buffer (d.idFn q) a bs)
  | .partResetDone p pos =>
    let done := d.host.flrs.map fun x => if x.1 = p then (p, x.2.filter (· != pos)) else x
    { d with host := { d.host with flrs := done.filter fun x => !x.2.isEmpty } }
  | .packTaken node ok => d.packAnswer node ok
  | .rejoin .. | .context .. | .forwarded .. | .standbySync _ => d
  | .completion q w =>
    match d.host.outstanding.find? (·.answeredBy q w) with
    | none => d
    | some o =>
      let d := if o.opcode = 0x41 ∧ fieldNat w 119 112 = 0 then d.updJob o.partition fun j => { j with symbols := true } else d
      { d with host := { d.host with outstanding := d.host.outstanding.erase o } }.writeCompletion q w

/-- The commands outstanding to partition `p` end without a completion, and their queues owe them none (R253, R257, R388). -/
def Dev.dropCommands (d : Dev) (p : Nat) : Dev :=
  let gone := d.host.outstanding.filter fun o => o.partition == p
  let d := d.forAll gone fun d o => match d.queue o.queue with
    | some x => d.setQueue o.queue (some { x with owed := x.owed - 1 })
    | none => d
  { d with host := { d.host with outstanding := d.host.outstanding.filter fun o => o.partition != p } }

/-- The primary sends a change to its standby and holds what must wait for the acknowledgement (R296). -/
def Dev.toStandby (d : Dev) (i : StandbyItem) (m : OutMsg) : Dev :=
  { d with sys := { d.sys with standbyHeld := d.sys.standbyHeld ++ [i] } }.send m

/-- A host write of this package: done here where this package is the primary gateway, sent there otherwise (R284). With a
standby in sync, the primary sends it what the host will see, and all of that but a mirror update waits for the acknowledgement (R296). -/
def Dev.hostWrite (d : Dev) (m : HostWriteMsg) : Dev :=
  if d.sys.primary then
    match m with
    | .mirror .. => (if d.sys.standbySync then d.send (.hostWrite m) else d).applyHostWrite m
    | .partResetDone .. | .packTaken .. => d.applyHostWrite m
    | _ => if d.sys.standbySync then d.toStandby (.write m) (.hostWrite m) else d.applyHostWrite m
  else d.send (.hostWrite m)

/-- The completion of a command that names request `h`, where it is not refused: R266 gives it the request's handle (DEDUCED for QUERY kind
0x01, SET_DEADLINE and CANCEL, log 92). -/
def Dev.completeNamed (d : Dev) (o : Origin) (opcode : Byte) (h result : U32) : Dev :=
  d.hostWrite (.completion o.queue (completionWord false o.queue result 0 0 0 opcode St.success o.sqHead h o.tag))

/-- The completion of a host command that names no request, or of one that is refused, from the unit that ends it: HANDLE is 0 (R266). -/
def Dev.complete (d : Dev) (o : Origin) (opcode status : Byte) (result : U32) : Dev :=
  d.hostWrite (.completion o.queue (completionWord false o.queue result 0 0 0 opcode status o.sqHead 0 o.tag))

/-- The completion of an admitted request (R179, R266). -/
def Dev.completeRequest (d : Dev) (slot : Nat) (r : ReqEntry) (state : ReqState) : Dev :=
  d.hostWrite (.completion r.cq (completionWord false r.cq 0 r.reason state.code r.delivered 0x01 St.success r.sqHead
    (handleOf slot r.gen) r.tag))

/-! ### Events, notices, ALERT_N -/

/-- Places an event record in the CXL event log and signals the PF vector of the policy (R246; log 42). -/
def Dev.event (d : Dev) (e : EventRec) : Dev :=
  let d := { d with host := { d.host with events := d.host.events ++ [e] } }
  if fieldNat d.glob.eventPolicy 1 0 = 1 then d.msix 0 (BitVec.ofNat 11 (fieldNat d.glob.eventPolicy 7 4)) else d

/-- The event record of a violation, at most once per millisecond per partition (R397). -/
def Dev.violation (d : Dev) (p : Nat) : Dev :=
  let at_ := SMap.get 0 d.stack.violationAt p
  if at_ = 0 ∨ d.since at_ ≥ 1000000 then
    { d with stack := { d.stack with violationAt := SMap.put 0 d.stack.violationAt p (if d.now = 0 then 1 else d.now) } }.event (.violation p)
  else d

/-! ### Accesses to the stack (R230) -/

/-- The whole range lies in one valid region that the requester may use, in its world (R230, R397). -/
def Dev.mayUse (d : Dev) (r : Requester) (addr len : Nat) : Bool :=
  (List.range 128).any fun i =>
    let w := d.region i
    rgValid w && (rgShared w || rgPart w == r.partition) && (r.secure || !rgSecure w)
      && decide (16384 * rgBase w ≤ addr) && decide (addr + len ≤ 16384 * (rgBase w + rgSize w))

/-- A unit that works for partition `p` may access the range. -/
def Dev.unitMay (d : Dev) (p addr len : Nat) : Bool :=
  d.mayUse { partition := p, secure := d.partSecure p, cls := 0, cluster := none } addr len

/-- A refused access is counted and reported (R230, R397). -/
def Dev.refuseAccess (d : Dev) (p : Nat) : Dev := (d.count DC.stackViolation).violation p

/-- A unit's read: zeros where it is refused. -/
def Dev.unitRead (d : Dev) (p addr len : Nat) : Dev × List Byte :=
  if d.unitMay p addr len then (d, d.stackRead addr len) else (d.refuseAccess p, List.replicate len 0)

/-- A unit's write: nothing where it is refused. -/
def Dev.unitWrite (d : Dev) (p addr : Nat) (bs : List Byte) : Dev :=
  if d.unitMay p addr bs.length then d.stackWrite addr bs else d.refuseAccess p

/-! ### The activity budget (R367, R368) -/

/-- The budget limit of a throttle stage at the host's BUDGET (R367, R368). -/
def stagePercent : Nat → Nat
  | 2 => 50 | 3 => 25 | 4 => 10 | _ => 100

/-- The limit of stage `s` under BUDGET `b`; no limit below stage 2. -/
def stageLimitOf (b s : Nat) : Option Nat := if s < 2 then none else some (max 897 (b * stagePercent s / 100))

/-- The activity budget in force: the smallest of the active limits, each taken from the BUDGET in force, not from one that is staged (R24,
R367, R368). -/
def Dev.budget (d : Dev) : Nat :=
  let b := d.power.hostLimit
  let b := match d.power.stageLimit with | some s => min b s | none => b
  let b := if d.power.crit then min b (max 897 (d.power.hostLimit * 10 / 100)) else b
  let b := if d.power.monLimit then min b (d.power.hostLimit * 50 / 100) else b
  max 897 b

/-- ALERT_N is asserted (R377). -/
def Dev.alert (d : Dev) : Bool :=
  decide (d.power.stage ≥ 1) || d.power.crit || d.power.disagree || d.power.boHold

/-- The bounds of job `p`'s class-0 requests are suspended for the records that they now wait for (R191). -/
def Dev.suspendBounds (d : Dev) (p : Nat) : Dev :=
  let mark := fun (_ : Nat) (r : ReqEntry) => if r.partition = p ∧ r.cls = 0 ∧ r.state.live then { r with suspended := true } else r
  { d with serve := { d.serve with table := SMap.mapVals (ReqEntry.free 0) mark d.serve.table } }

/-- The position that the map gives a package. -/
def Dev.posOf (d : Dev) (n : BitVec 7) : Option Nat :=
  (List.range 64).find? fun pos => SMap.get (0 : Byte) d.sys.posMap pos == (1 : BitVec 1) ++ n

/-- The packages of the system other than this one, those of lost positions left out. -/
def Dev.packages (d : Dev) : List (BitVec 7) :=
  (d.sys.topo.map (·.node)).filter fun n => n != d.glob.node && !d.sys.gone.contains n

/-- A notice that reaches this package: each lead takes what it carries at its next boundary, and the primary gateway logs it with the position that
it comes from (R377). -/
def Dev.takeNotice (d : Dev) (n : Notice) : Dev :=
  let d := d.forAll (d.myJobs.filter d.isLead) fun d p =>
    d.updJob p fun j => { j with noticed := j.noticed ++ [n] }
  if d.sys.primary then d.event (.throttle (d.posOf n.node) n) else d

/-- The limits as they stand after every staged change (R367). -/
def Dev.newLimits (d : Dev) : Dev :=
  { d with power := { d.power with hostLimit := d.hostBudget, stageLimit := stageLimitOf d.hostBudget d.power.stage,
                                   monLimit := d.power.disagree } }

/-- Sends a throttle-and-hold notice (R377). Its budget is the one that its event leaves in force: a limit that is staged counts as it stands from
the next boundary on, at which the leads take it (DEDUCED, log 96). Causes: 0 stage, 1 critical asserted, 2 critical deasserted, 3 MON_DISAGREE
raised, 4 MON_DISAGREE cleared, 5 brown-out hold (log 43). -/
def Dev.notice (d : Dev) (cause : BitVec 3) : Dev :=
  let n : Notice := { node := d.glob.node, stage := BitVec.ofNat 3 d.power.stage, cause := cause,
                      budget := BitVec.ofNat 16 d.newLimits.budget }
  (d.send (.notice n)).takeNotice n

/-! ### The ledger log -/

/-- The log entry (R338). -/
def logWord (ltime : U32) (kind event : BitVec 4) (ruling : BitVec 2) (origin : BitVec 3) (unit : U32) (step : U48)
    (detail : U32) : BitVec 256 :=
  (0 : BitVec 64) ++ detail ++ (0 : BitVec 16) ++ step ++ unit ++ (0 : BitVec 19) ++ origin ++ ruling ++ event ++ kind ++ ltime

/-- Writes a log entry; a full ring overwrites its oldest entry (R338, log 44). -/
def Dev.log (d : Dev) (kind event : BitVec 4) (ruling : BitVec 2) (origin : BitVec 3) (unit : Nat) (step : U48)
    (detail : U32) : Dev :=
  let l := d.ledger
  let w := logWord l.ltime kind event ruling origin (BitVec.ofNat 32 unit) step detail
  let next := (l.head + 1) % Config.ledgerEntries
  let d := if l.wrapped then d.count DC.ledgerWrap else d
  { d with ledger := { l with log := SMap.put 0 l.log l.head w, head := next, wrapped := l.wrapped || decide (next = 0) } }.count DC.ledgerEvent

/-- The step number that a log entry carries for cluster `c`: of the owner's step in progress, else 0 (R338). -/
def Dev.stepAt (d : Dev) (c : Nat) : U48 :=
  match d.clusterOwner c with
  | some p => match (d.job p).step with | some s => s.desc.no | none => 0
  | none => 0

/-- The step number that a log entry of a unit outside the clusters carries: of the step in progress on this package, the lowest job's where
several are, else 0 (R338; DESIGN CHOICE, log 179). -/
def Dev.stepHere (d : Dev) : U48 :=
  match d.serve.jobs.findSome? fun e => e.2.step with | some s => s.desc.no | none => 0

/-! ### Marking a step -/

/-- Marks the step in progress of job `p` for replay (R109); a marked step is marked once (R340). -/
def Dev.mark (d : Dev) (p : Nat) : Dev :=
  match (d.job p).step with
  | none => d
  | some s => if s.marked then d
    else
      let out := fun (j : Job) => if d.isLead p then j.markOut else j.markOut ++ [s.desc.no]
      (d.updJob p fun j => { j with step := some { s with marked := true }, markOut := out j }).count DC.stepMarked

/-! ### Operators -/

/-- What the lead learns of an operator's step: gradients, and the status of a transfer (R166, R302). -/
def Dev.takeOpReport (d : Dev) (p : Nat) (step : U48) (grads : List (Nat × List Byte)) (xfer : Option Byte) : Dev :=
  d.updJob p fun j => { j with operators := j.operators.map fun o =>
    if o.started && o.step == step then { o with grads := o.grads ++ grads, xfer := o.xfer.or xfer } else o }

/-- A member reports to the lead what an operator's step left on it. -/
def Dev.reportOp (d : Dev) (p : Nat) (step : U48) (grads : List (Nat × List Byte)) (xfer : Option Byte) : Dev :=
  if d.isLead p then d.takeOpReport p step grads xfer else d.send (.bulk (.opReport p step grads xfer))

/-! ### Leaving service -/

/-- Closes window `id`: its epoch rises by 1 (R301). -/
def Dev.closeWindow (d : Dev) (id : Nat) : Dev :=
  let w := d.window id
  d.setWindow id { w with isOpen := false, epoch := w.epoch + 1 }

/-- Closes every open window that `sel` selects. -/
def Dev.closeWindows (d : Dev) (sel : Nat → Window → Bool) : Dev :=
  d.forAll d.link.windows fun d e => if e.2.isOpen && sel e.1 e.2 then d.closeWindow e.1 else d

/-- Sends to every other member of a job (R264); a message to this package itself is not sent. -/
def Dev.toMembers (d : Dev) (p : Nat) (m : Nat → OutMsg) : Dev :=
  d.forAll ((d.members p).filter (· != d.sys.position)) fun d pos => d.send (m pos)

end Sys2Proof.Machine
end

