-- ==== Sys2Proof/Machine/Requests.lean ====
section
/-! DEFINITION. What the whole package does to a request: its pages, its slots, its graft, its end (R158, R159, R178, R179, R181,
R201, R232). -/

namespace Sys2Proof.Machine

/-! ### Pages (R158, R159, R232) -/

/-- Bytes of one position over all streams (R158). -/
def JobParams.kvBytes (p : JobParams) : Nat := p.streams * p.posBytes

/-- T_p, positions of a page (R158); 255 on a member that holds no stream (log 22). -/
def JobParams.pagePositions (p : JobParams) : Nat := if p.kvBytes = 0 then 255 else min 255 (16320 / p.kvBytes)

/-- Pages of the KV pool (R228). -/
def Dev.poolPages (d : Dev) : Nat := (d.kindAt 4).2

/-- Pseudo-channel of a KV page. -/
def Dev.pagePc (d : Dev) (page : Nat) : Nat := pcOf ((d.kindAt 4).1 + page)

/-- Byte address of a KV page. -/
def Dev.pageAddr (d : Dev) (page : Nat) : Nat := d.kindBase 4 + 16384 * page

/-- Pool pages that hold relocated blocks (R234). -/
def Dev.relocated (d : Dev) : List Nat :=
  (d.stack.remap.map Prod.snd).filterMap fun b => if (d.kindAt 4).1 ≤ b then some (b - (d.kindAt 4).1) else none

/-- Free pages of the pool (R169, R234). Each pseudo-channel out of service withdraws 196,608 pages, the pages that take its relocated blocks
among them. -/
def Dev.freePages (d : Dev) : Nat :=
  let out := (d.stack.pcs.filter (fun e => decide (e.2.state ≠ 0))).map Prod.fst
  let moved := d.relocated
  d.poolPages - 196608 * out.length
    - (d.stack.pagesUsed.filter (fun p => !out.contains (d.pagePc p) && !moved.contains p)).length

/-- The lowest free page of a pseudo-channel at or above `p` (log 18). -/
def Dev.findPage (d : Dev) (pc : Nat) : Nat → Nat → Option Nat
  | 0, _ => none
  | fuel + 1, p => if d.pagePc p = pc ∧ !d.stack.pagesUsed.contains p then some p else d.findPage pc fuel (p + 1)

/-- The page that the free lists of the pseudo-channels in service give next, in turn from list `turn`. -/
def Dev.pageFrom (d : Dev) (turn : Nat) : Option Nat :=
  (List.range 32).findSome? fun i =>
    let pc := (turn + i) % 32
    if (d.pcs pc).state = 0 then d.findPage pc d.poolPages 0 else none

/-- The page that request slot `slot` receives next: each request takes from the lists in its own turn, so that no pseudo-channel appears
twice among 32 consecutive pages of a request (R232). -/
def Dev.nextPage (d : Dev) (slot : Nat) : Option Nat :=
  if d.freePages = 0 then none else d.pageFrom ((d.kv slot).turn.getD d.stack.turn)

/-- Takes a page off its free list. -/
def Dev.takePage (d : Dev) (p : Nat) : Dev :=
  { d with stack := { d.stack with pagesUsed := p :: d.stack.pagesUsed } }.count DC.kvPageAlloc

/-- Takes a page for a request. -/
def Dev.takeFor (d : Dev) (slot p : Nat) : Dev :=
  let next := (d.pagePc p + 1) % 32
  let d := if (d.kv slot).turn.isNone then { d with stack := { d.stack with turn := next } } else d
  (d.takePage p).setKv slot { d.kv slot with turn := some next }

/-- Returns a page to its free list. -/
def Dev.givePage (d : Dev) (p : Nat) : Dev := { d with stack := { d.stack with pagesUsed := d.stack.pagesUsed.erase p } }

/-- A page-list entry (R159). -/
def pageEntry (p : Nat) : U32 := (1 : BitVec 1) ++ (0 : BitVec 8) ++ BitVec.ofNat 23 p

/-- Writes entry `i` of list page `l` for partition `p`, in class B; a refused write changes nothing (R159, R230, R231). -/
def Dev.writeEntry (d : Dev) (p l i : Nat) (w : U32) : Dev := (d.unitWrite p (d.pageAddr l + 4 * i) (bytesOf w 4)).count DC.stackBytesB

/-- Clears a page for partition `p`; a refused write changes nothing (R230). -/
def Dev.clearPage (d : Dev) (p page : Nat) : Dev :=
  if d.unitMay p (d.pageAddr page) 16384 then d.zeroRange (d.mapAddr (d.pageAddr page)) 16384 else d.refuseAccess p

/-- Enters data page `p` at the end of a request's list; a full list page is chained to a new one (R159). -/
def Dev.enterPage (d : Dev) (slot p : Nat) : Dev :=
  let v := d.kv slot
  let part := (d.req slot).partition
  let n := v.pages.length
  let d := if n % 4095 = 0 then
      match d.nextPage slot with
      | none => d
      | some l =>
        let d := d.takeFor slot l
        let d := match v.listPages.getLast? with | some last => d.writeEntry part last 4095 (pageEntry l) | none => d
        let d := d.clearPage part l
        let d := d.setKv slot { d.kv slot with listPages := v.listPages ++ [l] }
        if n = 0 then d.updReq slot fun r => { r with pageList := BitVec.ofNat 23 l } else d
    else d
  let v := d.kv slot
  let d := match v.listPages.getLast? with | some l => d.writeEntry part l (n % 4095) (pageEntry p) | none => d
  d.setKv slot { v with pages := v.pages ++ [p] }

/-- Pages that a whole prompt needs: data pages, list pages and one more (R187). -/
def promptPages (tp promptLen : Nat) : Nat := ceilDiv promptLen tp + ceilDiv (ceilDiv promptLen tp) 4095 + 1

/-- Allocates and enters `n` data pages. -/
def Dev.allocPages (d : Dev) (slot : Nat) : Nat → Dev
  | 0 => d
  | n + 1 => match d.nextPage slot with
    | none => d
    | some p => Dev.allocPages ((d.takeFor slot p).enterPage slot p) slot n

/-- Reserves the pages of a prompt: `n` data pages with their list pages, and one page more (R187). -/
def Dev.reservePages (d : Dev) (slot n : Nat) : Dev :=
  let d := d.allocPages slot n
  match d.nextPage slot with
  | some p =>
    let d := d.takeFor slot p
    d.setKv slot { d.kv slot with spare := some p }
  | none => d

/-- Frees the pages and the staging slots of request slot `slot` on this device. -/
def Dev.freeKv (d : Dev) (slot : Nat) : Dev :=
  let v := d.kv slot
  let held := v.pages ++ v.listPages ++ v.spare.toList
  let d := { d with stack := { d.stack with pagesUsed := d.stack.pagesUsed.filter (fun p => !held.contains p) } }
  let d := d.setKv slot KvSeq.empty
  { d with serve := { d.serve with staging := d.serve.staging.filter (fun e => e.2.owner != some slot) } }

/-- Returns an entry to FREE with GEN incremented (R178). -/
def Dev.freeEntry (d : Dev) (slot : Nat) : Dev :=
  (d.freeKv slot).updReq slot fun r => ReqEntry.free (r.gen + 1)

/-! ### The pages of every member, as the lead tracks them (R187, R354) -/

/-- Pages promised on member `m` by steps composed and not yet taken: of a prompt until the member begins the step, of decode rows until it has
flushed the step's full slots. -/
def Job.promisedOn (j : Job) (m begun flushed : Nat) : Nat :=
  ((j.promised.filter fun x => x.member == m && decide ((if x.prompt then begun else flushed) ≤ x.step)).map (·.pages)).sum

/-- Free pages that are not promised, and T_p, of member `m`: of the lead its own; of another member by its last tag. Without a tag the lead knows
of no page there, and none is counted on (R183, R354; DEDUCED, log 168). -/
def Dev.pagesLeft (d : Dev) (p m : Nat) : Option (Nat × Nat) :=
  let j := d.job p
  if d.memberIndex p = some m then some (d.freePages - j.promisedOn m j.begun j.flushed, j.params.pagePositions)
  else match SMap.get none j.pagesOf m with
    | some t => some (t.free - j.promisedOn m t.begun t.flushed, t.positions)
    | none => none

/-- Every member can allocate what `count` asks of it by its T_p (R187, R354). -/
def Dev.pagesFor (d : Dev) (p : Nat) (count : Nat → Nat) : Bool :=
  (List.range (d.members p).length).all fun m =>
    match d.pagesLeft p m with | some t => decide (count t.2 ≤ t.1) | none => false

/-- The step being composed promises what `count` asks of each member; a prompt's pages the lead has reserved on its own device (R187). -/
def Dev.promise (d : Dev) (p : Nat) (prompt : Bool) (count : Nat → Nat) : Dev :=
  let new := (List.range (d.members p).length).filterMap fun m =>
    match d.pagesLeft p m with
    | some t => if count t.2 = 0 ∨ (prompt ∧ d.memberIndex p = some m) then none
      else some { step := (d.job p).nextStep.toNat, member := m, prompt := prompt, pages := count t.2 : Promise }
    | none => none
  d.updJob p fun j => { j with promised := j.promised ++ new }

/-- Member `m` has begun every step below `begun` and flushed the full slots of every step below `flushed`: those promises are kept. -/
def Job.keptOn (j : Job) (m begun flushed : Nat) : Job :=
  { j with promised := j.promised.filter fun x => !(x.member == m && decide (x.step < if x.prompt then begun else flushed)) }

/-! ### Grafts bound by requests (R181, R204) -/

/-- Adds `k` to the reference count of a version. -/
def Dev.bindGraft (d : Dev) (id : BitVec 12) (ver : U16) : Dev :=
  d.updGraft id.toNat fun g => { g with live := g.live.map fun v => if v.ver = ver then { v with refs := v.refs + 1 } else v }

/-- The count falls by 1 when the request becomes terminal. -/
def Dev.unbindGraft (d : Dev) (id : BitVec 12) (ver : U16) : Dev :=
  d.updGraft id.toNat fun g => { g with live := g.live.map fun v => if v.ver = ver then { v with refs := v.refs - 1 } else v }

/-- Invalidates the cached lines that `sel` selects, in every cluster of the list (R225). -/
def Dev.dropLines (d : Dev) (cs : List Nat) (sel : LineKind → Bool) : Dev :=
  d.forAll cs fun d c => d.updCluster c fun x => { x with lines := x.lines.filter (fun l => !sel l.kind) }

/-- A version leaves this device: its part and its cached lines go (R203, R204, R209, R225). -/
def Dev.reclaimVersion (d : Dev) (id : Nat) (ver : U16) : Dev :=
  if (d.graft id).live.any fun v => v.ver == ver then
    ((d.updGraft id fun g => { g with live := g.live.filter fun v => v.ver != ver }).dropLines (d.array.clusters.map Prod.fst) fun l => match l with
      | .graft i v _ _ => i == id && v == ver.toNat
      | _ => false).count DC.graftReclaimed
  else d

/-- A load ends without a version: what it has brought here goes (R203, R204). -/
def Dev.dropLoad (d : Dev) (id load : Nat) : Dev :=
  d.updGraft id fun g => { g with pending := g.pending.filter fun x => x.load != load }

/-- Versions of an ID that are no longer current and that no request uses (R204, R205). -/
def Graft.dead (g : Graft) : List U16 :=
  (g.live.filter (fun v => v.refs == 0 && (g.retired || v.ver != g.current))).map (·.ver)

/-- Reclaims what is dead, and tags it to the members of the partition's job (R204). -/
def Dev.reclaimGrafts (d : Dev) (p : Nat) (ids : List Nat) : Dev :=
  d.forAll ids fun d id =>
    d.forAll (d.graft id).dead fun d ver =>
      (d.reclaimVersion id ver).updJob p fun j => { j with changes := j.changes ++ [.dropGraft (BitVec.ofNat 12 id) ver] }

/-! ### The end of a request (R178, R179, R201) -/

/-- A request's final event: a record with FINAL and no token (R201). -/
def Dev.finalRecord (d : Dev) (r : ReqEntry) (reason : BitVec 4) : Dev :=
  (d.hostWrite (.record r.outRing true (recordWord false reason false true (r.delivered.setWidth 16) 0 0))).count DC.foxRecords

/-- Updates the mirror of an entry at a boundary of job `p`; UPDATED is the number of the step that ended there (R176; log 23). -/
def Dev.mirrorOut (d : Dev) (p slot : Nat) : Dev :=
  d.hostWrite (.mirror slot ((d.req slot).mirror (d.job p).boundaryNo))

/-- The counter of a terminal state (R209). -/
def ReqState.counter : ReqState → Nat
  | .done => DC.reqDone | .expired => DC.reqExpired | .cancelled => DC.reqCancelled | _ => DC.reqLost

/-- Makes a request terminal at its lead: final record where none has been written, completion, graft and frees (R178,
R179, R181, R188). `final` says that a final record is still to be written. -/
def Dev.endRequest (d : Dev) (slot : Nat) (state : ReqState) (reason : BitVec 4) (final : Bool) : Dev :=
  let r := { d.req slot with state := state, reason := reason, endedAt := d.us, inflight := 0, holdOver := false }
  let d := if final then d.finalRecord r reason else d
  let d := (d.setReq slot { r with slotValid := false }).mirrorOut r.partition slot
  let d := d.completeRequest slot r state
  let d := if r.graftValid then d.unbindGraft r.graftId r.graftVer else d
  let d := d.updJob r.partition fun j => { j with changes := j.changes ++ [.free slot] ++ (if r.slotValid then [.release r.slot] else []) }
  let d := d.count state.counter
  if reason = 7 then d.count DC.reqPreempted else d

/-- A request's keys and values are lost: it ends LOST at once at its lead (R178). Elsewhere the next boundary tag reports the loss. -/
def Dev.loseRequest (d : Dev) (slot : Nat) : Dev :=
  let r := d.req slot
  if r.state.live then
    let written := decide (r.state = .draining) && !(r.reason == 5 || r.reason == 6 || r.reason == 7)
    if d.isLead r.partition then d.endRequest slot .lost 8 (!written)
    else d.updJob r.partition fun j => { j with lostOut := j.lostOut ++ [handleOf slot r.gen] }
  else d

end Sys2Proof.Machine
end

