-- ==== Sys2Proof/Machine/Commit.lean ====
section
/-! DEFINITION. The commit record: its entries, their two copies in MRAM and the copy in the stack (R323, R326, R327). -/

namespace Sys2Proof.Machine

/-! ### CHECK (R327) -/

/-- One step of CRC-16/CCITT-FALSE. -/
def crcStep (c : U16) (b : Bool) : U16 := if c.msb != b then (c <<< 1) ^^^ 0x1021 else c <<< 1

/-- CRC-16/CCITT-FALSE over bits, first bit first. -/
def crc16 (bs : List Bool) : U16 := bs.foldl crcStep 0xFFFF

/-- The bits [hi:lo] of a word, highest first. -/
def bitsDown {n : Nat} (w : BitVec n) (hi lo : Nat) : List Bool := (List.range (hi + 1 - lo)).map fun i => w.getLsbD (hi - i)

/-- CHECK of an entry: over its bits [511:32], then [15:0] (log 72). -/
def commitCheck (w : BitVec 512) : U16 := crc16 (bitsDown w 511 32 ++ bitsDown w 15 0)

/-- An entry without its CHECK. -/
def Commit.bare (c : Commit) : BitVec 512 :=
  c.digest ++ c.seq ++ c.verB ++ c.verA ++ (0 : U16) ++ (0 : BitVec 2) ++ BitVec.ofNat 6 c.member ++ (0 : BitVec 2) ++ c.bankB ++ c.bankA
    ++ c.active

/-- The commit-record entry (R327). -/
def Commit.word (c : Commit) : BitVec 512 := c.bare ||| ((commitCheck c.bare).setWidth 512 <<< 16)

/-- The entry that a word holds, beside the manifest digests that the banks hold. -/
def Commit.ofWord (w : BitVec 512) (banks : Commit) : Commit :=
  { banks with active := w.extractLsb' 0 2, bankA := w.extractLsb' 2 2, bankB := w.extractLsb' 4 2, member := fieldNat w 13 8,
               verA := w.extractLsb' 32 32, verB := w.extractLsb' 64 32, seq := w.extractLsb' 96 32, digest := w.extractLsb' 128 384 }

/-- CHECK of a copy is correct. -/
def copyGood (w : BitVec 512) : Bool := w.extractLsb' 16 16 == commitCheck w

/-- COMMIT_SEQ of a copy. -/
def copySeq (w : BitVec 512) : U32 := w.extractLsb' 96 32

/-- The copy that a boot takes: a correct CHECK, and the larger COMMIT_SEQ modulo 2^32 (R327). -/
def chooseCopy (a b : BitVec 512) : Option (BitVec 512) :=
  match copyGood a, copyGood b with
  | true, true => some (if (copySeq a - copySeq b).toNat < 2 ^ 31 then a else b)
  | true, false => some a
  | false, true => some b
  | false, false => none

/-! ### Writing and reading the record -/

/-- A write of an entry: COMMIT_SEQ increases, and the MRAM copies are written in turn (R327). -/
def StackBlk.writeCommit (s : StackBlk) (p : Nat) (x : Commit) : StackBlk :=
  let x := { x with seq := (SMap.get Commit.none s.commits p).seq + 1 }
  let m := SMap.get (0, 0) s.mram p
  { s with commits := SMap.put Commit.none s.commits p x
           mram := SMap.put (0, 0) s.mram p (if x.seq.getLsbD 0 then (m.1, x.word) else (x.word, m.2)) }

/-- Writes the entries that `f` changes. -/
def StackBlk.mapCommits (s : StackBlk) (f : Commit → Commit) : StackBlk :=
  s.commits.foldl (fun (s : StackBlk) e => if f e.2 = e.2 then s else s.writeCommit e.1 (f e.2)) s

/-- First byte of the entry of partition `p` in the stack copy, 992 MiB into the schedules-and-images region (R323, R327). The spec does not
say where the copy holds an entry: they lie in the order of the partitions (DESIGN CHOICE, log 143). -/
def Dev.commitCopy (d : Dev) (p : Nat) : Nat := d.kindBase 6 + 1040187392 + 64 * p

/-- Rewrites the stack copy of an entry. -/
def Dev.copyCommit (d : Dev) (p : Nat) : Dev := d.stackWrite (d.commitCopy p) (bytesOf (d.commit p).word 64)

/-- Writes an entry of the commit record, MRAM first, then the stack copy (R327, R329). -/
def Dev.setCommit (d : Dev) (p : Nat) (x : Commit) : Dev := { d with stack := d.stack.writeCommit p x }.copyCommit p

/-- At boot each entry is taken from its MRAM copies, and the stack copy is rewritten from it (R327). -/
def Dev.takeCommit (d : Dev) (p : Nat) : Dev :=
  let m := SMap.get (0, 0) d.stack.mram p
  let c := match chooseCopy m.1 m.2 with | some w => Commit.ofWord w (d.commit p) | none => Commit.none
  { d with stack := { d.stack with commits := SMap.put Commit.none d.stack.commits p c } }.copyCommit p

/-- The active bank of a partition: 0 for A, 1 for B (R327). -/
def Commit.bank (c : Commit) : Option Nat := if c.active = 1 then .some 0 else if c.active = 2 then some 1 else .none

/-- The inactive bank: 0 for A, 1 for B; bank A when none is active (R326). -/
def Commit.inactive (c : Commit) : Nat := if c.active = 1 then 1 else 0

/-- State, version and manifest digest of bank `b`. -/
def Commit.state (c : Commit) (b : Nat) : BitVec 2 := if b = 0 then c.bankA else c.bankB
def Commit.ver (c : Commit) (b : Nat) : U32 := if b = 0 then c.verA else c.verB
def Commit.dig (c : Commit) (b : Nat) : BitVec 384 := if b = 0 then c.digA else c.digB
def Commit.setState (c : Commit) (b : Nat) (s : BitVec 2) : Commit := if b = 0 then { c with bankA := s } else { c with bankB := s }

/-- SHARD_VERSION of the active bank; 0 for none. -/
def Commit.version (c : Commit) : U32 := match c.bank with | some b => c.ver b | .none => 0

/-- SHARD_VERSION of the inactive bank where it is valid; 0 otherwise. -/
def Commit.ready (c : Commit) : U32 := if c.state c.inactive = 2 then c.ver c.inactive else 0

/-- A member tells the lead what its banks hold, whenever that changes otherwise than by a load or a commit that it reports (R326, R330; log
50). -/
def Dev.reportBanks (d : Dev) (p : Nat) : Dev :=
  match d.memberIndex p with
  | none => d
  | some m => if d.isLead p then d else d.send (.bulk (.bankReport p m (d.commit p).version (d.commit p).ready))

/-- The lead asks the other members what their banks hold (R330, R333; log 50). -/
def Dev.askBanks (d : Dev) (p : Nat) : Dev :=
  if d.isLead p then d.toMembers p fun pos => .bulk (.bankQuery pos p) else d

/-- The lead takes a member's report. -/
def Dev.takeBankReport (d : Dev) (p m : Nat) (active ready : U32) : Dev :=
  if d.memberIndex p = some m then d
  else d.updJob p fun j => { j with versions := SMap.put 0 j.versions m active, loaded := SMap.put 0 j.loaded m ready }

end Sys2Proof.Machine
end

