-- ==== Sys2Proof/Machine/Reset.lean ====
section
/-! DEFINITION. Resets: what each scope clears and keeps, the entry and the release, the partition reset, and the automatic
reprogramming that follows (R70, R253, R327, R332, R383 to R394, R414, R427, R463, R467). -/

namespace Sys2Proof.Machine

/-! ### Tiles and schedules after a reset -/

/-- Entry `e` of a row remap table names logical row `l`, and no other entry does (R37). -/
def mapRow (m : SMap Nat) (e l : Nat) : SMap Nat :=
  SMap.put 512 (SMap.mapVals 512 (fun _ v => if v = l then 512 else v) m) e l

/-- A tile after a reset whose scope includes it: contents lost, MRAM records kept (R66, R70, R335, R344). -/
def Tile.afterReset (t : Tile) : Tile :=
  { Tile.off with state := if t.state = .retired then .retired else .off, aged := t.aged || t.agedStaged,
                  rowMap := t.rowMapStaged.foldl (fun m e => mapRow m e.1 e.2) t.rowMap,
                  overdues := t.overdues, ladder := t.ladder, spareFor := t.spareFor,
                  ruling := t.ruling, recorded := t.recorded }

/-- A cluster after a reset of the whole package: the tables of the ledger are reloaded (R70, R226). -/
def Cluster.afterReset (c : Cluster) : Cluster := { Cluster.reset with map := c.map, spadMap := c.spadMap, mapOut := c.mapOut }

/-- A cluster whose partition is reset: its sequencer, lanes and cached lines start again (R388). -/
def Cluster.idle (c : Cluster) : Cluster :=
  { c with sequencer := Seq.idle, lanes := [], lines := [], misses := [], missWait := [], sideWaits := [], held := [], waiting := [], calNow := none }

/-- Entry `l` of a cluster's indirection table: VALID and PHYS (R71; log 3). -/
def Cluster.entry (c : Cluster) (l : Nat) : Byte := SMap.get (BitVec.ofNat 8 (64 + l)) c.map l

/-- Writes an indirection entry. -/
def Cluster.setEntry (c : Cluster) (l : Nat) (b : Byte) : Cluster :=
  { c with map := SMap.put (BitVec.ofNat 8 (64 + l)) c.map l b }

/-- The physical tile that serves logical number `l` of cluster `c` (R71). -/
def Dev.physOf (d : Dev) (c l : Nat) : Option Nat :=
  let e := (d.cluster c).entry l
  if e.getLsbD 6 then some (64 * c + fieldNat e 5 0) else none

/-- The logical number that physical tile `k` serves, if any (R71). -/
def Dev.logicalOf (d : Dev) (k : Nat) : Option Nat :=
  (List.range Config.logicalPerCluster).find? fun l => d.physOf (k / 64) l == some k

/-- The 64 physical tiles of a cluster. -/
def tilesOf (c : Nat) : List Nat := (List.range Config.tilesPerCluster).map (64 * c + ·)

/-- Powers the tiles of a cluster for an owning partition: OFF becomes BLANK (R66). -/
def Dev.powerCluster (d : Dev) (c : Nat) : Dev :=
  d.forAll (tilesOf c) fun d k => if (d.tile k).state = .off then d.updTile k fun t => { t with state := .blank } else d

/-- Byte address of the image of logical tile `l` of cluster `c` in bank `b` (R323). -/
def Dev.imageBase (d : Dev) (b c l : Nat) : Nat := d.kindBase b + 132096 * (62 * c + l)

/-- Column `j` (0 to 515) of row `r` of an image: the low nibble for even `j` (R323). -/
def Dev.imageCell (d : Dev) (b c l r j : Nat) : Int :=
  let x := d.byte (d.mapAddr (d.imageBase b c l + 258 * r + j / 2))
  (if j % 2 = 0 then x.extractLsb' 0 4 else x.extractLsb' 4 4 : BitVec 4).toInt

/-- A service slot: its index is 3 modulo 4 (R216). -/
def serviceSlot (slot : Nat) : Bool := slot % 4 == 3

/-- A cluster's SRAMs before a schedule is laid in them: what an earlier schedule left goes, and the service entries, which the
planner writes, stay (R211, R216, R223, R224). -/
def Cluster.unschedule (c : Cluster) : Cluster :=
  { c with handles := [], cache32 := 0, lines := [], misses := [], missWait := [], sideWaits := [], program := [],
           slots := SMap.keep serviceSlot c.slots }

/-- The reserved bits of a CL_HANDLE entry read 0 (R223). -/
def handleWord (w : U32) : U32 := w &&& 0xE00FFDFF

/-- Loads the correction-table, program, slot-table and handle-table SRAMs of a partition from a bank's halves (R97, R210, R211,
R219, R223, R224, R329 step 3). A copy marked invalid loads nothing (R233). Compiled slot entries do not touch service slots
(R216). -/
def Dev.loadSchedule (d : Dev) (p b : Nat) : Dev :=
  let i := d.bank p b
  if i.copyBad then d else
  let d := d.forAll (d.partClusters p) fun d c =>
    let d := d.updCluster c Cluster.unschedule
    d.forAll (tilesOf c) fun d k => d.updTable k fun _ => CorrTab.empty
  let d := d.forAll i.handles fun d h => d.updCluster h.1 fun c => { c with handles := SMap.put 0 c.handles h.2.1 (handleWord h.2.2) }
  let d := d.forAll i.caches fun d h => d.updCluster h.1 fun c => { c with cache32 := h.2 }
  let d := d.forAll i.programs fun d h => d.updCluster h.1 fun c => { c with program := SMap.put 0 c.program h.2.1 h.2.2 }
  let d := d.forAll (i.slots.filter fun (h : Nat × Nat × U32) => !serviceSlot h.2.1) fun d h =>
    d.updCluster h.1 fun c => { c with slots := SMap.put 0 c.slots h.2.1 h.2.2 }
  let other := (d.bank p (1 - b)).baseSlots.map Prod.fst
  let kept : SMap U32 := d.array.baseSlots.filter fun e => !other.contains e.1
  let base := (i.baseSlots.filter fun (h : Nat × U32) => !serviceSlot h.1).foldl (fun (m : SMap U32) (h : Nat × U32) => SMap.put 0 m h.1 h.2) kept
  let d := { d with array := { d.array with baseSlots := base } }
  let addr := fun (l : Nat) => 64 * (l / 62) + l % 62
  let d := d.forAll i.scales fun d h => d.updTable (addr h.1) fun t => { t with scales := SMap.put 0 t.scales h.2.1 h.2.2 }
  let d := d.forAll i.residues fun d h => d.updTable (addr h.1) fun t => { t with residues := SMap.put 0 t.residues h.2.1 h.2.2 }
  let d := d.forAll i.statics fun d h =>
    let row := fun (r : Nat) => (List.range 512).map fun j => d.imageCell b (h.1 / 62) (h.1 % 62) r j
    d.updTable (addr h.1) fun t =>
      { t with statics := SMap.put [] t.statics h.2.1 (SMap.get [] t.statics h.2.1 ++ h.2.2), staticWeights := h.2.2.foldl (fun m r => SMap.put [] m r (row r)) t.staticWeights }
  d.updJob p fun j => { j with params := i.params }

/-- Withholds what the tile was doing (R66). -/
def Tile.stop (t : Tile) : Tile :=
  { t with edge := none, evals := [], owed := [], settling := [], restore := none, rowUntil := 0, urgentSeen := false, prog := none,
           progWait := false, testing := false, samples := [] }

/-- The charge of what tile `t` has in progress: programming 2; an evaluation, a restore or a verification test 1 (R74). A tile holds the
largest single charge only. -/
def Tile.charge (t : Tile) : Nat :=
  if t.prog.isSome then 2 else if !t.evals.isEmpty || t.restore.isSome || t.testing then 1 else 0

/-- Enters in the cluster's account what tile `k` now holds (R74). -/
def Dev.rehold (d : Dev) (k : Nat) : Dev :=
  let v := (d.tile k).charge
  d.updCluster (k / 64) fun c =>
    { c with held := (c.held.filter (fun h => h.1 != k)) ++ (if v = 0 then [] else [(k, v)]) }

/-- Takes tile `k`'s waiting operations of a rank off the list. -/
def Dev.unwait (d : Dev) (k rank : Nat) : Dev :=
  d.updCluster (k / 64) fun c => { c with waiting := c.waiting.filter (fun w => w.tile != k || w.rank != rank) }

/-- Takes all of tile `k`'s waiting operations off the list. -/
def Dev.unwaitAll (d : Dev) (k : Nat) : Dev :=
  d.updCluster (k / 64) fun c => { c with waiting := c.waiting.filter (fun w => w.tile != k) }

/-- A tile whose programming is ordered waits for its grant: a tile in service enters PROGRAMMING at once, and so does one that is being
programmed or tested. A BLANK tile enters it with the grant, a SUSPECT tile waits for its ladder, and a repair in progress starts again from the
image now ordered (R66, R329, R339, R342; log 119). -/
def Tile.order (t : Tile) : Tile :=
  match t.state with
  | .retired | .suspect => t
  | .off | .blank => { t with state := .blank, progWait := true }
  | .standin => { t.stop with repair := 0, repairDone := none, progWait := true }
  | .programming | .verifying | .ready | .restoring => { t.stop with state := .programming, repairDone := none, progWait := true }

/-- Orders tile `k` to be programmed; what it held of the budget is free again (R66, R74). -/
def Dev.orderTile (d : Dev) (k : Nat) : Dev := ((d.updTile k Tile.order).rehold k).unwaitAll k

/-- Orders the tiles that bank `b` of partition `p` places to be programmed: each waits for its grant (R58, R332). A spare
assignment in progress in one of their clusters starts again from its programming (R342). -/
def Dev.orderProgramming (d : Dev) (p b : Nat) : Dev :=
  let placed := (d.bank p b).placement
  let spares := d.array.tiles.filter fun e => e.2.spareFor.isSome && placed.any fun x => x.cluster == e.1 / 64
  let d := d.forAll spares fun d e => d.orderTile e.1
  d.forAll placed fun d cl =>
    match d.physOf cl.cluster cl.ltile with
    | none => d
    | some k => d.orderTile k

/-- Reprograms a partition from its active bank without any command; the lead and the members tell each other what their banks hold (R330, R332,
R333, R388). -/
def Dev.reprogramActive (d : Dev) (p : Nat) : Dev :=
  match (d.commit p).bank with
  | none => d
  | some b =>
    let d := (d.orderProgramming p b).loadSchedule p b
    let d := d.updJob p fun j => { j with rebuilding := true, digestOk := false, symbols := false }
    (d.reportBanks p).askBanks p

/-! ### What each scope clears -/

/-- The links after a reset: ports down, windows closed with their epochs raised, epochs kept in MRAM (R301). -/
def LinkBlk.afterReset (l : LinkBlk) : LinkBlk :=
  { LinkBlk.reset with
    windows := SMap.mapVals Window.closed
      (fun _ w => { Window.closed with epoch := if w.isOpen then w.epoch + 1 else w.epoch }) l.windows }

/-- A bank state after a reset during a load (R333): loading becomes empty. -/
def bankAfterReset (b : BitVec 2) : BitVec 2 := if b = 1 then 0 else b

/-- The stack after a reset that keeps its content: descriptors at their reset values, retirement states and relocated blocks kept, the pool
pages that hold these in use (R228, R234, R235, R333). -/
def StackBlk.afterReset (s : StackBlk) : StackBlk :=
  { StackBlk.reset with
    mem := s.mem
    pcs := SMap.mapVals PcState.inService (fun _ p => { p with ce := 0 }) s.pcs
    remap := s.remap
    pagesUsed := (s.remap.map Prod.snd).filterMap fun b => if 1048576 ≤ b then some (b - 1048576) else none
    replicas := SMap.mapVals Replica.none (fun _ r => { Replica.none with peer := r.peer }) s.replicas
    commits := s.commits
    mram := s.mram
    banks := s.banks }.mapCommits fun c => { c with bankA := bankAfterReset c.bankA, bankB := bankAfterReset c.bankB }

/-- A cold reset loses the stack: every ACTIVE is none and both banks are empty (R327). -/
def StackBlk.lose (s : StackBlk) : StackBlk :=
  { s with mem := [], banks := [] }.mapCommits fun c => { c with active := 0, bankA := 0, bankB := 0, digA := 0, digB := 0 }

/-- The whole package loses the stack, and with it the Crocus pack that it stores (R327, R348, R351). -/
def Dev.loseStack (d : Dev) : Dev :=
  { d with stack := d.stack.lose
           ledger := { d.ledger with pack := none, crocusTodo := [], crocusSplit := [], crocusFails := [] } }

/-- The host attachment after a reset: every context cleared; what was already written stays written (R253). -/
def HostBlk.afterReset (h : HostBlk) : HostBlk :=
  { HostBlk.reset with writes := h.writes, reads := h.reads, replies := h.replies, sent := h.sent }

/-- The GLOBAL block after a reset; a device soft reset keeps the host link and the configuration space (R383, R387). -/
def Glob.afterReset (g : Glob) (soft : Bool) : Glob :=
  let k := { Glob.reset with node := g.node, spareStrap := g.spareStrap }
  if soft then { k with cxlActive := g.cxlActive, modeErr := g.modeErr, ideIo := g.ideIo, ideCm := g.ideCm,
                        width := g.width, rate := g.rate, hdmCommitted := g.hdmCommitted, hdmError := g.hdmError,
                        numVfs := g.numVfs, uncorrInternal := g.uncorrInternal }
  else k

/-- The ledger after a reset: everything is in MRAM but the LEDGER block's registers (R335, R336, R351). -/
def LedgerBlk.afterReset (l : LedgerBlk) : LedgerBlk :=
  { l with saved := l.ltime, crocusState := 0, crocusAccepted := 0, crocusRefused := 0, crocusAsked := [] }

/-- Serbel after a warm or cold reset: fuses and keys stay, debug ends, the images are verified again (R409, R418). -/
def SecBlk.afterReset (s : SecBlk) : SecBlk :=
  { s with nonces := [], images := [], bootFail := none, debug := 0, debugExpiry := 0 }

/-- The array after a reset: MRAM records of tiles and clusters kept (R70, R226). -/
def ArrayBlk.afterReset (a : ArrayBlk) : ArrayBlk :=
  { ArrayBlk.reset with
    tiles := SMap.mapVals Tile.off (fun _ t => t.afterReset) a.tiles
    clusters := SMap.mapVals Cluster.reset (fun _ c => c.afterReset) a.clusters }

/-- Every block in the scope of a warm reset, or of a device soft reset, held at its reset values (R383, R385, R427). -/
def Dev.clearBlocks (d : Dev) (soft : Bool) : Dev :=
  { rst := d.rst, glob := d.glob.afterReset soft, sys := SysBlk.reset, link := { d.link.afterReset with handed := d.host.sent.length },
    host := d.host.afterReset, serve := ServeBlk.reset, array := d.array.afterReset, engine := EngineBlk.reset,
    stack := d.stack.afterReset,
    power := { PowerBlk.reset with boHold := soft && d.power.boHold },
    part := PartBlk.reset, ledger := d.ledger.afterReset, sec := if soft then d.sec else d.sec.afterReset,
    obs := ObsBlk.reset, fresh := d.fresh }

/-! ### Entry and release -/

/-- The package is powered and not shut down by a trip: a reset can act (R380). -/
def Dev.resettable (d : Dev) : Bool := !d.rst.tripLatched && decide (d.rst.phase ≠ .off)

/-- A reset is being entered or released (R391). -/
def Dev.resetting (d : Dev) : Bool := decide (d.rst.phase = .inReset) || decide (d.rst.phase = .booting)

/-- The entry sequence of a warm reset (`soft` false) or a device soft reset, with its CAUSE (R385, R391, R394). A soft reset
that falls inside a wider reset restarts that one. -/
def Dev.enterReset (d : Dev) (cause : BitVec 4) (soft : Bool) : Dev :=
  if d.resettable then
    let soft := soft && (!d.resetting || d.rst.soft)
    let cold := d.resetting && d.rst.cold
    let d' := d.clearBlocks soft
    { d' with rst := { d.rst with
        phase := .inReset, cause := cause, soft := soft, cold := cold, selfRefresh := true, rootCount := 0,
        watchdogAt := 0, rootLock := false,
        warmCount := if soft ∨ d.rst.warmCount = 0xFFFF then d.rst.warmCount else d.rst.warmCount + 1 } }
  else d

/-- Ledger time at power-off: what MRAM holds (R336). -/
def Dev.losePower (d : Dev) : Dev :=
  let d' := d.clearBlocks false
  let d' := d'.loseStack
  { d' with ledger := { d'.ledger with ltime := d.ledger.saved, saved := d.ledger.saved },
            rst := { d.rst with phase := .off, retentionLost := true, cold := true, soft := false, selfRefresh := false,
                                auxUp := false, regulators := false, rootLock := false } }

/-- The reset can be left: no trip is latched, every supply is up, and after a brown-out VIN_IVR has been above 1.74 V for 1 ms (R372, R380, R386,
R392). -/
def Dev.mayRelease (d : Dev) : Bool :=
  decide (d.rst.phase = .inReset) && !d.rst.tripLatched && d.rst.auxUp && d.rst.serUp && d.rst.regulators && d.rst.vinUp
    && (!d.rst.brownHeld || decide (d.rst.vinFor ≥ 1000000))

/-- Reset release: the reset can be left, the PLL locks, the straps are sampled after a cold or warm reset, MRAM is loaded,
the retention latch decides cold or warm, and the boot begins (R327, R384, R386, R463). -/
def Dev.releaseReset (d : Dev) (nodeId : BitVec 7) (spareSel testEn : Bool) : Dev :=
  let r := d.rst
  if d.mayRelease then
    let cold := !r.soft && (r.cold || r.retentionLost)
    let d := if cold then { d.loseStack with sec := { d.sec with debugSeen := 0 } } else d
    let d := if r.soft then d else { d with glob := { d.glob with node := nodeId, spareStrap := spareSel } }
    let d := { d with glob := { d.glob with timeNs := 0 } }
    let d := d.forAll (d.stack.mram.map Prod.fst) Dev.takeCommit
    { d with rst := { r with phase := if testEn && !r.soft then .testHeld else .booting, perst := false, resetN := false,
                             cold := cold, stackKept := !cold, retentionLost := false, brownHeld := false,
                             selfRefresh := false, rootLock := false, rootCount := 0, watchdogAt := 0 } }
  else d

/-! ### The partition reset (R388) -/

/-- The request slots of a partition that are not FREE, ascending. -/
def Dev.usedSlots (d : Dev) (p : Nat) : List Nat :=
  (d.serve.table.filter (fun e => decide (e.2.state ≠ .free) && e.2.partition == p)).map Prod.fst

/-- First graft ID, number of IDs, and bytes of graft area of a partition (R401). -/
def Dev.graftBase (d : Dev) (p : Nat) : Nat := 64 * fieldNat (d.partIn p).quota 5 0
def Dev.graftCount (d : Dev) (p : Nat) : Nat := 64 * fieldNat (d.partIn p).quota 12 6
def Dev.winBase (d : Dev) (p : Nat) : Nat := 64 * fieldNat (d.partIn p).quota 18 13
def Dev.winCount (d : Dev) (p : Nat) : Nat := 64 * fieldNat (d.partIn p).quota 25 19
def Dev.graftArea (d : Dev) (p : Nat) : Nat := 134217728 * fieldNat (d.partIn p).quota 31 26

/-- The ID is one of `n` from `b`. -/
def inRange (b n k : Nat) : Bool := decide (b ≤ k) && decide (k < b + n)

/-- The step of job `p` is over on this device, however it ends: the idle period of R26 counts from here. -/
def Dev.stepOver (d : Dev) (p : Nat) : Dev :=
  if (d.job p).step.isSome then { d.updJob p fun j => { j with step := none } with array := { d.array with idleSince := d.now } } else d

/-- The sweep of a brown-out return is complete: it is counted, and the ledger records the return (R371). The tests of a rejoin are no such sweep
(R312). -/
def Dev.endSweep (d : Dev) : Dev :=
  ({ d with power := { d.power with sweep := false } }.count DC.sweepRun).log 5 0xD 3 0 0 d.stepHere 0

/-- Tiles leave a verification sweep: tested, or reset. With the last one the sweep is complete (R66, R371). -/
def Dev.leaveSweep (d : Dev) (ks : List Nat) : Dev :=
  let d := { d with power := { d.power with sweepLeft := d.power.sweepLeft.filter fun k => !ks.contains k } }
  if d.power.sweep && d.power.sweepLeft.isEmpty then d.endSweep else d

/-! ### The move to RETURNED (R414) -/

/-- Steps 2 to 4 of R414 but for the reset: keys zeroised, links and IDE down, commit records cleared, windows closed, retention lost. -/
def Dev.scrub (d : Dev) : Dev :=
  let d := { d with sec := { d.sec with owners := [], unwrap := [] } }
  let d := { d with stack := d.stack.mapCommits fun c => { c with active := 0, bankA := 0, bankB := 0 } }
  let d := d.closeWindows fun _ _ => true
  { d with link := { d.link with ports := SMap.mapVals Port.reset (fun _ p => { p with keyed := false, state := 0, width := 0 }) d.link.ports }
           glob := { d.glob with ideIo := false, ideCm := false }
           rst := { d.rst with retentionLost := true } }

/-- The move to RETURNED (R414): the fuse, the steps above, and a warm reset that becomes cold. The zero-fill of the stack is the cold
reset's (an unlisted byte reads 0). -/
def Dev.returnPackage (d : Dev) : Dev :=
  let d := { d with sec := { d.sec with lifecycle := 3, returning := true } }.scrub
  d.enterReset d.rst.cause false

/-! ### The reset commands -/

/-- Power-up of VDD_AUX: a cold reset with every block in scope. The SerDes rails and VIN_IVR follow (R383, R392). Ledger time continues from
MRAM. -/
def execColdPowerUp (s : State) : Out := s.on fun d =>
  let d' := d.losePower
  { d' with rst := { d'.rst with phase := .inReset, cause := 0, perst := true, resetN := true, auxUp := true, serUp := false,
                                 vinUp := false, vinFor := 0, brownHeld := false, tripLatched := d.rst.tripLatched } }

/-- PERST_N or RESET_N held for 1 µs (R385, R468): ignored under a latched trip (R380). -/
def execWarmResetAssert (perst : Bool) (s : State) : Out := s.on fun d =>
  let d' := d.enterReset (if perst then 1 else 2) false
  { d' with rst := { d'.rst with perst := d'.rst.perst || perst, resetN := d'.rst.resetN || !perst } }

/-- PERST_N and RESET_N both deasserted, or the end of an internal cause (R386). In RETURNED with R414 incomplete the sequence
runs again (R414). -/
def execResetRelease (nodeId : BitVec 7) (spareSel testEn : Bool) (s : State) : Out :=
  s.on fun d => (if d.sec.returning && d.mayRelease then d.scrub else d).releaseReset nodeId spareSel testEn

/-- RESET_CTL.SOFT with CONFIRM 0x5A7E, or an FLR of the PF (R383, R394). -/
def execDeviceSoftReset (flr : Bool) (confirm : U16) (s : State) : Out := s.on fun d =>
  if flr ∨ (confirm = 0x5A7E ∧ d.rst.phase = .ready) then d.enterReset 3 true else d

/-- The five images of the boot chain run (R408, R409). -/
def Dev.imagesRun (d : Dev) : Bool := [1, 2, 3, 4, 5].all fun i => d.sec.images.any fun x => x.1.toNat == i

/-- Loss of PLL lock or of REFCLK: a warm reset with cause PLL, counted in LOCK_LOSS (R237, R238). -/
def execPllLockLoss (s : State) : Out := s.on fun d =>
  if d.resettable then
    let d := d.enterReset 5 false
    { d with rst := { d.rst with lockLoss := if d.rst.lockLoss = 0xFFFF then 0xFFFF else d.rst.lockLoss + 1 } }
  else d

/-- The MCU services the watchdog (R390). -/
def execWatchdogService (s : State) : Out := s.on fun d => { d with rst := { d.rst with watchdogAt := d.now } }

/-- The watchdog expires 100 ms after its last service: a warm reset with cause watchdog (R390). -/
def execWatchdogExpiry (s : State) : Out := s.on fun d =>
  if d.rst.phase = .ready ∧ d.since d.rst.watchdogAt ≥ 100000000 then d.enterReset 4 false else d

/-- VIN_IVR falls through 1.62 V: a warm reset with cause brown-out, held until 1 ms above 1.74 V (R372). -/
def execBrownoutReset (s : State) : Out := s.on fun d =>
  if d.resettable then
    let d := d.enterReset 6 false
    { d with rst := { d.rst with brownHeld := true, vinUp := false, vinFor := 0 } }
  else d

/-- VDD_STK or the stack pump supply leaves its window between a warm reset's start and its release. A fall of VIN_IVR below 1.50 V, below which
the regulators do not keep VDD_STK, sets the latch too and has no row of its own: it arrives as this one (R372; DEDUCED, log 180). -/
def execStackSupplyWindowLoss (s : State) : Out := s.on fun d =>
  if d.rst.phase = .inReset ∧ !d.rst.soft then { d with rst := { d.rst with retentionLost := true } } else d

/-- VIN_IVR above 1.74 V with the rails that precede it in tolerance starts the regulators (R392). -/
def execRegulatorSoftStart (s : State) : Out := s.on fun d =>
  if d.rst.auxUp ∧ d.rst.serUp ∧ !d.rst.tripLatched then { d with rst := { d.rst with regulators := true, vinUp := true } } else d

/-- A SerDes rail is lost: every PHY stops; the CXL link and every port go down; the package keeps its state (R467). -/
def Dev.portsDown (d : Dev) : Dev :=
  let d := d.forAll (List.range 6) Dev.reinject
  { d with link := { d.link with ports := SMap.mapVals Port.reset (fun _ p =>
    { p.empty with state := if p.state = 5 then 5 else 0 }) d.link.ports } }

/-- VDD_AUX is lost: the management plane, the retention latch and the trip latch lose power (R336, R467). The trip latch
itself is cleared only by a loss of at least 10 ms (TRIP_LATCH_CLEAR). -/
def execAuxRailLoss (s : State) : Out := s.on Dev.losePower

/-- A trip, rate trip or sensor fault: latched shutdown, every regulator off, the stack content lost (R380, R394). -/
def execThermalTrip (cause : BitVec 4) (s : State) : Out := s.on fun d =>
  if d.rst.auxUp ∧ !d.rst.tripLatched ∧ d.rst.phase ≠ .off ∧ (cause = 7 ∨ cause = 8 ∨ cause = 9) then
    let d' := (d.clearBlocks false).loseStack
    { d' with ledger := { d'.ledger with saved := d.ledger.saved }
              rst := { d.rst with phase := .tripped, tripLatched := true, lastTrip := cause, cause := cause, regulators := false,
                                  retentionLost := true, cold := true, soft := false, selfRefresh := false, rootCount := 0 } }
  else d

/-- VDD_AUX removed for at least 10 ms clears the trip latch; the next start is cold (R380). -/
def execTripLatchClear (s : State) : Out := s.on fun d =>
  let d' := d.losePower
  { d' with rst := { d'.rst with tripLatched := false } }

end Sys2Proof.Machine
end

