-- ==== Sys2Proof/Machine/Budget.lean ====
section
/-! DEFINITION. The activity budget: limits staged and at once, the Dahlia reservation, the cluster allowances, and the start
of calibrations (R75, R118, R134, R137, R146, R147, R367, R476). -/

namespace Sys2Proof.Machine

/-! ### Who holds what -/

/-- Cluster `c` holds a READY or RESTORING tile (R118). -/
def Dev.clusterLive (d : Dev) (c : Nat) : Bool :=
  d.array.tiles.any (fun e => e.1 / 64 == c && (decide (e.2.state = .ready) || decide (e.2.state = .restoring)))

/-- The cluster floors in all (R118). -/
def Dev.floors (d : Dev) : Nat := ((List.range Config.numClusters).filter d.clusterLive).length

/-- Logical tile `l` of cluster `c` is computed by digital stand-in (R67, R343). -/
def Dev.onStandIn (d : Dev) (c l : Nat) : Bool :=
  match d.physOf c l with
  | none => true
  | some k => match (d.tile k).state with | .suspect | .standin | .retired => true | _ => false

/-- The logical tiles that the schedule in force of job `p` places here. -/
def Dev.placed (d : Dev) (p : Nat) : List Placed :=
  match (d.commit p).bank with | some b => (d.bank p b).placement | none => []

/-- Logical tiles of job `p` in stand-in (R147). -/
def Dev.standIns (d : Dev) (p : Nat) : Nat := ((d.placed p).filter (fun x => d.onStandIn x.cluster x.ltile)).length

/-! ### The Dahlia reservation -/

/-- What job `p` wants: its declared demand and one half for each stand-in (R147). -/
def Dev.dahliaWant (d : Dev) (p : Nat) : Nat := (d.job p).params.demand + 385 * d.standIns p

/-- D of one job under a limit: one half can always start where Dahlia work is declared (R147). -/
def reservation (want cap limit : Nat) : Nat :=
  let v := min want (min cap limit)
  if cap = 0 then 0 else if 1 ≤ v ∧ v ≤ 384 ∧ want ≥ 385 then 385 else v

/-- The index of the largest entry, ties to the last. -/
def largest (xs : List (Nat × Nat)) : Option (Nat × Nat) :=
  xs.foldl (fun m x => match m with | none => some x | some y => if x.2 ≥ y.2 then some x else some y) none

/-- Reduces the reservations one half at a time until they fit (R476): the largest first, ties to the higher partition; a job
keeps one half while another can still give. -/
def fitReservations (limit : Nat) : Nat → List (Nat × Nat) → List (Nat × Nat)
  | 0, xs => xs
  | fuel + 1, xs =>
    if (xs.map Prod.snd).sum ≤ limit then xs
    else
      let pool := if xs.any (fun x => decide (x.2 > 385)) then xs.filter (fun x => decide (x.2 > 385)) else xs
      match largest pool with
      | none => xs
      | some m => fitReservations limit fuel
          (xs.map (fun x => if x.1 = m.1 then (x.1, if x.2 > 770 then x.2 - 385 else if x.2 > 385 then 385 else 0) else x))

/-- The reservations of the jobs under budget `b`, where each wants `want`: R147 for each job, reduced until they fit (R147, R476). -/
def Dev.reservations (d : Dev) (b : Nat) (want : Nat → Nat) : List (Nat × Nat) :=
  let cap := d.dahliaCap
  let limit := b - d.floors
  let jobs := (d.serve.jobs.map Prod.fst).filter (fun p => decide (want p > 0))
  fitReservations (min cap limit) 4096 (jobs.map fun p => (p, reservation (want p) cap limit))

/-! ### What a tile holds -/

/-- Tile-equivalents that cluster `c` holds (R74). -/
def Dev.held (d : Dev) (c : Nat) : Nat := ((d.cluster c).held.map Prod.snd).sum

/-- What tile `k` holds now. -/
def Dev.tileHeld (d : Dev) (k : Nat) : Nat := (((d.cluster (k / 64)).held.find? (fun h => h.1 == k)).map Prod.snd).getD 0

/-! ### The cluster allowances -/

/-- The largest charge of the operations that wait in cluster `c`, 0 for none (R75). -/
def Dev.waitingCharge (d : Dev) (c : Nat) : Nat := (d.cluster c).waiting.foldl (fun m w => max m w.charge) 0

/-- Gives the raises above the floor, one cluster at a time from after the last, until one does not fit: that cluster keeps its
floor and comes first at the next setting (R75). Answers the clusters raised, with the amount, and the last one raised. -/
def giveRaises : List (Nat × Nat) → Nat → Nat → List (Nat × Nat) × Nat
  | [], _, last => ([], last)
  | (c, need) :: xs, room, last =>
    if need = 0 then giveRaises xs room last
    else if need ≤ room then
      let r := giveRaises xs (room - need) c
      ((c, need) :: r.1, r.2)
    else ([], last)

/-- Divides `rest` by weights, rounding down, and gives what is left one at a time in ascending order (R75). -/
def byWeight (rest : Nat) (ws : List Nat) : List Nat :=
  let total := ws.sum
  let base := ws.map (fun w => if total = 0 then 0 else rest * w / total)
  let left := rest - base.sum
  base.mapIdx (fun i v => v + left / ws.length + (if i < left % ws.length then 1 else 0))

/-- The weight of cluster `c` in the division of the remainder, where a job supplies a profile: its owner's, 1 where the owner
supplies none, and for a cluster without an owner the weight in the first profile. R75 speaks of one job (DESIGN CHOICE, log
118). -/
def Dev.weightOf (d : Dev) (first : List Nat) (c : Nat) : Nat :=
  match d.clusterOwner c with
  | some p => if (d.job p).params.weights.isEmpty then 1 else (d.job p).params.weights.getD c 0
  | none => first.getD c 0

/-- Deals a list out to the clusters that `sel` selects, in order; the others have 0. -/
def dealOut (sel : Nat → Bool) : List Nat → List Nat → List Nat
  | [], _ => []
  | c :: cs, xs => if sel c then xs.headD 0 :: dealOut sel cs xs.tail else 0 :: dealOut sel cs xs

/-- The allowances of the clusters that `sel` selects under a tile share `bt`, and the cluster that received the last raise (R75,
R118). A cluster that is not selected has 0 here. -/
def Dev.allowances (d : Dev) (bt : Nat) (sel : Nat → Bool) : List Nat × Nat :=
  let all := List.range Config.numClusters
  let floors := all.map (fun c => if sel c && d.clusterLive c then 1 else 0)
  let order := all.map (fun i => (d.array.lastRaise + 1 + i) % 512)
  let needs := (order.filter sel).map (fun c =>
    let w := d.waitingCharge c
    (c, if w = 0 then 0 else w - floors.getD c 0))
  let raised := giveRaises needs (bt - floors.sum) d.array.lastRaise
  let minima := floors.mapIdx (fun c f => f + ((raised.1.find? (fun x => x.1 == c)).map Prod.snd).getD 0)
  let rest := bt - minima.sum
  let chosen := all.filter sel
  let first := ((d.serve.jobs.map (fun e => e.2.params.weights)).find? (fun w => !w.isEmpty)).getD []
  let n := chosen.length
  let shares := if first.isEmpty then (List.range n).map (fun i => rest / n + (if i < rest % n then 1 else 0))
    else byWeight rest (chosen.map (d.weightOf first))
  (minima.zipWith (· + ·) (dealOut sel all shares), raised.2)

/-- The allowance of cluster `c` in force. -/
def Dev.allow (d : Dev) (c : Nat) : Nat := d.array.allows.getD c 0

/-- What a setting of the power manager is for: a boundary, or a time without a step, at which D takes its terms anew; a protective cut,
which raises no reservation; or a raise of DAHLIA_CAP, which raises no allowance. The last two come in the middle of a step, whose demand and
stand-ins are those of its boundary (R24, R25, R75, R147). -/
inductive Setting where
  | boundary | cut | raise
  deriving DecidableEq, Repr

/-- One setting of the power manager for a budget of `b` (R75, R147, R476): the jobs that `js` selects take their reservations and
the clusters that `sel` selects their allowances. The others keep theirs, and the sum of all stays within the budget in force: where
what the others keep leaves less than their part of `b`, the selected share what is left. -/
def Dev.divide (d : Dev) (b : Nat) (k : Setting) (js sel : Nat → Bool) : Dev :=
  let all := List.range Config.numClusters
  let olds := d.array.allows ++ List.replicate (Config.numClusters - d.array.allows.length) 0
  let total := fun (p : Nat → Bool) (xs : List Nat) => (((all.zip xs).filter fun x => p x.1).map Prod.snd).sum
  let old := d.serve.jobs.map fun e => (e.1, e.2.reserve)
  let kept := ((old.filter fun e => !js e.1).map Prod.snd).sum
  let room := d.budget - kept - total (fun c => !sel c) olds
  let wants := fun (p : Nat) => if k = Setting.boundary then d.dahliaWant p else (d.job p).want
  let rs := d.reservations b wants
  let want := (old.filter fun e => js e.1).map fun e =>
    let v := ((rs.find? fun r => r.1 == e.1).map Prod.snd).getD 0
    (e.1, if k = Setting.cut then min v e.2 else v)
  let mine := fitReservations (room - (all.filter fun c => sel c && d.clusterLive c).length) 4096 want
  let sum := kept + (mine.map Prod.snd).sum
  let part := total sel (d.allowances (b - sum) fun _ => true).1
  let a := d.allowances (min part (room - (mine.map Prod.snd).sum)) sel
  let allows := (all.zip (a.1.zip olds)).map (fun x => if !sel x.1 then x.2.2 else if k = Setting.raise then min x.2.1 x.2.2 else x.2.1)
  let d := { d with array := { d.array with allows := allows, lastRaise := if k = Setting.raise then d.array.lastRaise else a.2 }
                    engine := { d.engine with reserve := sum } }
  d.forAll mine fun d r => d.updJob r.1 fun j => { j with reserve := r.2, want := wants r.1 }

/-! ### Staged and immediate limits -/

/-- Jobs with a step in progress on this device. -/
def Dev.busyJobs (d : Dev) : List Nat := (d.serve.jobs.filter (fun e => e.2.step.isSome)).map Prod.fst

/-- No job with a step in progress owns cluster `c` (R476). -/
def Dev.clusterIdle (d : Dev) (c : Nat) : Bool :=
  match d.clusterOwner c with | some q => !(d.job q).step.isSome | none => true

/-- A setting for what no step in progress uses: those jobs and clusters change at once (R75, R476). -/
def Dev.divideIdle (d : Dev) : Dev :=
  d.divide (min d.newLimits.budget d.budget) .boundary (fun p => !(d.job p).step.isSome) d.clusterIdle

/-- A staged change of the budget: at the next boundary, or at once when no step is in progress; clusters that no job with a step in
progress owns take their part at once, an increase then being part-applied (R367, R476). -/
def Dev.stageLimits (d : Dev) : Dev :=
  if d.busy then
    let d := { d with power := { d.power with owed := d.busyJobs } }
    let new := d.newLimits
    let d := if new.budget > d.budget ∧ (List.range Config.numClusters).any d.clusterIdle then new else d
    d.divideIdle
  else
    let d := d.newLimits
    { d with power := { d.power with owed := [] } }.divide d.budget .boundary (fun _ => true) fun _ => true

/-- A protective limit, or its effect, at once for every job (R25, R75, R367, R476). -/
def Dev.divideNow (d : Dev) : Dev := d.divide d.budget .cut (fun _ => true) fun _ => true

/-- A raise of DAHLIA_CAP while a Dahlia operation waits for the reservation: D is computed again at once from the step's declared demand. No
allowance rises; one falls where the sum would else exceed the budget in force (R24, R75, R147; DEDUCED, log 161). -/
def Dev.raiseReserve (d : Dev) : Dev := d.divide d.budget .raise (fun _ => true) fun _ => true

/-- The floors of cluster `c` have changed: where no step is in progress on it, the power manager sets the allowances at once (R75, R118). -/
def Dev.refloor (d : Dev) (c : Nat) : Dev := if d.clusterIdle c then d.divideIdle else d

/-- Job `p` passes a boundary: a staged increase reaches it, and a staged decrease is in force once every job has passed. Its
clusters, and those that no job with a step in progress owns, take their allowances (R75, R476). -/
def Dev.passBudget (d : Dev) (p : Nat) : Dev :=
  let d := { d with power := { d.power with owed := d.power.owed.filter (· != p) } }
  let new := d.newLimits
  let target := new.budget
  let d := if d.power.owed.isEmpty ∨ target ≥ d.budget then new else d
  let free := fun (q : Nat) => q == p || !(d.job q).step.isSome
  d.divide target .boundary free fun c => match d.clusterOwner c with | some q => free q | none => true

/-- Job `p` passes a boundary: its own words are in force, and the device-wide ones once every job that had a step in progress when they were
written has passed one, so that no word changes in the middle of a step (R24, R443, R476; log 136). -/
def Dev.passRegs (d : Dev) (p : Nat) : Dev :=
  let owed := d.glob.regsOwed.filter (· != p)
  { d with glob := { d.glob with regsOwed := owed } }.applyRegs fun o => match regAtMember o with
    | some (some q) => q == p
    | some none => owed.isEmpty
    | none => false

/-! ### What follows a reset -/

/-- Applies the reset of partition `p` on this member (R388). -/
def Dev.resetPartition (d : Dev) (p : Nat) : Dev :=
  let slots := d.usedSlots p
  let lead := d.isLead p
  let d := { d with engine := { d.engine with
      halves := SMap.mapVals none (fun _ o => o.filter fun x => x.partition != p) d.engine.halves
      waiting := d.engine.waiting.filter fun x => x.partition != p
      standInputs := d.engine.standInputs.filter fun x => d.clusterOwner (x.1 / 64) != some p
      attention := d.engine.attention.filter fun a => !slots.contains (slotOf a.handle) } }
  let d := d.forAll slots fun d s =>
    let d := d.freeEntry s
    if lead then d.hostWrite (.mirror s ((d.req s).mirror (d.job p).boundaryNo)) else d
  let d := d.stepOver p
  let d := d.updJob p fun j => { Job.idle with nextStep := j.nextStep, lastStep := j.lastStep, boundaryNo := j.boundaryNo }
  let mine := fun (q : Nat) => d.idOwner q == some p
  let d := { d with host := { d.host with
      queues := SMap.keep (fun q => !mine q) d.host.queues, rings := SMap.keep (fun r => !mine r) d.host.rings } }
  let d := d.dropCommands p
  let d := d.closeWindows fun _ w => w.partition == p
  let d := { d with obs := { d.obs with watches := SMap.keep (fun k => k / 16 != p) d.obs.watches } }
  let en := Off.traceCtl p + 4
  let d := (d.setReg en (d.reg en &&& 0x7FFFFFFF)).setRegIn en (d.regIn en &&& 0x7FFFFFFF)
  let fox := fun (k : Nat) => within (4 * k) (Off.foxProfile p 0) 256 8 8 || within (4 * k) (Off.foxStop p 0) 256 512 512
  let d := { d with glob := { d.glob with regs := SMap.keep (fun k => !fox k) d.glob.regs
                                          inForce := SMap.keep (fun k => !fox k) d.glob.inForce } }
  let d := { d with serve := { d.serve with
      grafts := SMap.keep (fun g => !inRange (d.graftBase p) (d.graftCount p) g) d.serve.grafts } }
  let cs := d.partClusters p
  let d := d.forAll cs fun d c => d.updCluster c Cluster.idle
  let d := d.forAll (cs.flatMap tilesOf) fun d k => d.updTile k Tile.afterReset
  let d := d.leaveSweep (cs.flatMap tilesOf)
  let d := { d with rst := { d.rst with cause := 0xA } }
  ((d.forAll cs Dev.powerCluster).reprogramActive p).divideIdle

/-- The device becomes ready once every image of the boot chain is accepted: Memory_Active is set, the STACK lock is set by the management plane, and every partition with
an active bank is reprogrammed (R242, R332, R386, R409, R448). It does not become ready after a boot failure (R410) or with
TEST_EN (R463). The allowances are set at once, no step being in progress (R75). -/
def execDeviceReady (s : State) : Out := s.on fun d =>
  if d.rst.phase = .booting ∧ d.sec.bootFail = none ∧ d.imagesRun = true then
    let d := { d with rst := { d.rst with phase := .ready, watchdogAt := d.now, rootLock := true }
                      glob := { d.glob with memoryActive := true, locks := d.glob.locks ||| 4 }
                      sec := { d.sec with returning := false } }
    (d.forAll (d.stack.commits.map Prod.fst) Dev.reprogramActive).divideIdle
  else d

/-! ### Admission (R74, R76) -/

/-- The tile's restore, if urgent, comes first: one in progress that runs or has become urgent, or one due (R62, R68, R116). -/
def Dev.restoreFirst (d : Dev) (k : Nat) : Bool :=
  let t := d.tile k
  let due := decide (t.credit * 100 ≥ d.earlyUrgent.2)
  match t.restore with
  | some x => x.urgent || due
  | none => due && decide (t.state = .ready)

/-- An urgent restore of tile `k` waits to begin. -/
def Dev.urgentWaits (d : Dev) (k : Nat) : Bool :=
  (d.tile k).restore.isNone && (d.tile k).evals.isEmpty && d.restoreFirst k

/-- What tile `k`'s operation adds to its cluster's account: a tile never holds more than its largest charge (R74). R76 compares the amount
held plus the operation's charge with the allowance and does not say what the charge is of an operation whose tile holds it already; the model
adds 0, so that such an operation starts at a held amount equal to the allowance, after the allowance has fallen too where the sum allows it
(DESIGN CHOICE, log 162). -/
def Dev.extra (d : Dev) (k charge : Nat) : Nat := charge - d.tileHeld k

/-- The operations that go before one of tile `k` with this rank, as tile and charge: urgent restores that wait, and operations that
wait with a lower rank number, or with the same and since earlier. One whose charge the allowance does not reach waits for a setting
and keeps no other back (R76). -/
def Dev.ahead (d : Dev) (k rank : Nat) : List (Nat × Nat) :=
  let c := k / 64
  let ws := (d.cluster c).waiting
  let own := ws.findIdx (fun w => w.tile == k && w.rank == rank)
  let queued := (ws.zipIdx.filter fun w => w.1.tile != k && (decide (w.1.rank < rank) || (w.1.rank == rank && decide (w.2 < own)))
    && decide (w.1.charge ≤ d.allow c)).map fun w => (w.1.tile, w.1.charge)
  let urgent := if rank = 0 then [] else
    ((List.range 64).map (fun i => 64 * c + i)).filter fun j => j != k && d.urgentWaits j && !(queued.any fun q => q.1 == j)
  queued ++ urgent.map fun j => (j, 1)

/-- An operation of tile `k` with this charge and rank can start: what its cluster holds, what goes before it and what it adds do not
exceed the allowance (R74, R76). -/
def Dev.admits (d : Dev) (k charge rank : Nat) : Bool :=
  decide (d.held (k / 64) + ((d.ahead k rank).map fun x => d.extra x.1 x.2).sum + d.extra k charge ≤ d.allow (k / 64))

/-- An operation of tile `k` waits for admission, in its place in the order of arrival; where no step is in progress on the cluster,
the allowances are set at once (R75, R76). -/
def Dev.await (d : Dev) (k charge rank : Nat) : Dev :=
  let d := d.updCluster (k / 64) fun c =>
    if c.waiting.any (fun w => w.tile == k && w.rank == rank) then c
    else { c with waiting := c.waiting ++ [{ tile := k, charge := charge, rank := rank }] }
  if d.clusterIdle (k / 64) then d.divideIdle else d

/-- An operation of tile `k` asks for admission: it is admitted, or it waits (R76). -/
def Dev.ask (d : Dev) (k charge rank : Nat) : Dev × Bool :=
  if d.admits k charge rank then (d.unwait k rank, true)
  else
    let d := d.await k charge rank
    if d.admits k charge rank then (d.unwait k rank, true) else (d, false)

/-! ### The verification test's admission (R59, R66, R76, R371) -/

/-- Tile `k` is to run the verification test: it is VERIFYING, or a tile under repair has been programmed. -/
def Tile.testDue (t : Tile) : Bool := decide (t.state = .verifying) || (decide (t.state = .standin) && t.repair == 2)

/-- The verification test of tile `k` begins, once its last code is in and the budget admits it; none begins during a brown-out hold
(R68, R74, R76, R370). -/
def Dev.beginTest (d : Dev) (k : Nat) : Dev :=
  let t := d.tile k
  if t.testDue && !t.testing && t.evals.isEmpty && !d.power.boHold then
    let x := d.ask k 1 2
    if x.2 then (x.1.updTile k fun t => { t with testing := true }).rehold k else x.1
  else d

/-- The next tile of cluster `c` whose test waits begins it. -/
def Dev.nextTest (d : Dev) (c : Nat) : Dev :=
  match (tilesOf c).find? fun k => (d.tile k).testDue && !(d.tile k).testing with
  | some k => d.beginTest k
  | none => d

/-! ### Starting calibrations -/

/-- The tile that cluster `c`'s calibration engine has in hand: it finishes what it has begun, then takes the lowest tile that is to
be calibrated (R135). -/
def Dev.calTile (d : Dev) (c : Nat) : Option Nat :=
  match (d.cluster c).calNow with
  | some k => if (d.tile k).calibrating then some k else (tilesOf c).find? fun k => (d.tile k).calibrating
  | none => (tilesOf c).find? fun k => (d.tile k).calibrating

/-- The engine of cluster `c` takes its next tile. -/
def Dev.takeCal (d : Dev) (c : Nat) : Dev := d.updCluster c fun x => { x with calNow := d.calTile c }

/-- Tile `k` can be calibrated: it is in service and neither its calibration nor its staged set is pending, into which a trigger is
merged (R134, R137). -/
def Dev.calReady (d : Dev) (k : Nat) : Bool :=
  let t := d.tile k
  (decide (t.state = .ready) || decide (t.state = .restoring)) && !t.calibrating && t.staged.isNone

/-- Starts the calibration of the tiles of a list that can be calibrated; LAST_TRIG names the trigger of the last one started (R134,
R137, R140). -/
def Dev.calibrateTiles (d : Dev) (ks : List Nat) (trig : BitVec 3) : Dev :=
  let mine := ks.filter d.calReady
  if mine.isEmpty then d
  else
    let d := { d with array := { d.array with lastTrig := trig } }
    let d := d.forAll mine fun d k => d.updTile k fun t => { t with calibrating := true }
    d.forAll (mine.map (· / 64)).dedup Dev.takeCal

/-- The READY tiles of the device. -/
def Dev.readyTiles (d : Dev) : List Nat := (d.array.tiles.filter (fun e => decide (e.2.state = .ready))).map Prod.fst

/-- Starts a device-wide calibration, T_LAST at its start; it lasts until the calibration of each tile that was READY, merged ones counted,
is complete (R134, R137). -/
def Dev.calibrateDevice (d : Dev) : Dev :=
  let d := { d with array := { d.array with tLast := d.power.tNow, calPending := false } }
  let ks := d.readyTiles
  let d := d.calibrateTiles ks 1
  { d with array := { d.array with calWide := ks.filter fun k => (d.tile k).calibrating } }

/-- A device-wide calibration is in progress. -/
def Dev.calibratingWide (d : Dev) : Bool := d.array.calWide.any fun k => (d.tile k).calibrating

/-- The temperature trigger: |Tdiode − T_LAST| above ΔT, suspended while temperature is unknown; during a device-wide
calibration it starts a new one when the first ends (R134, R137). -/
def Dev.tempTrigger (d : Dev) : Dev :=
  if !d.power.disagree ∧ (d.power.tNow - d.array.tLast).natAbs > 16 * d.calDt then
    if d.calibratingWide then
      if d.array.calPending then d else ({ d with array := { d.array with calPending := true } }).count DC.calTrigTemp
    else (d.calibrateDevice).count DC.calTrigTemp
  else d

end Sys2Proof.Machine
end

