-- ==== Sys2Proof/Machine/Accum.lean ====
section
/-! DEFINITION. What the cluster correction unit does with the terms of a tile input: the golden image, scratchpad rows and cache lines,
lanes, the side path, and the digital stand-in (R55, R67, R81, R89 to R92, R96 to R98, R149, R150, R220 to R226). -/

namespace Sys2Proof.Machine

/-! ### The golden image (R55, R323) -/

/-- The fixed pattern of a reference column at logical row `r` (R54). -/
def refPattern (r j : Nat) : Int :=
  if j = 516 then 7 else if j = 517 then -8 else if j = 518 then (if r % 2 = 0 then 7 else -8) else 0

/-- The bank that tile contents come from: the one being committed, else the active one (R55, R329). -/
def Dev.sourceBank (d : Dev) (p : Nat) : Option Nat :=
  match d.committing p with
  | some b => some (b.toNat - 1)
  | none => (d.commit p).bank

/-- The partition whose weights cluster `c` holds: its owner; before the set-up is written again after a reset, the partition
whose bank places tiles there (R332). -/
def Dev.holderOf (d : Dev) (c : Nat) : Option Nat :=
  match d.clusterOwner c with
  | some p => some p
  | none => (d.stack.commits.find? fun e => match d.sourceBank e.1 with
      | some b => (d.bank e.1 b).placement.any fun x => x.cluster == c
      | none => false).map Prod.fst

/-- Bank and logical number whose image physical tile `k` holds or is to hold. -/
def Dev.imageOf (d : Dev) (k : Nat) : Option (Nat × Nat) :=
  match d.holderOf (k / 64) with
  | none => none
  | some p =>
    let l := match (d.tile k).spareFor with | some l => some l | none => d.logicalOf k
    match d.sourceBank p, l with
    | some b, some l => some (b, l)
    | _, _ => none

/-- The golden weight of tile `k` in logical row `r`, column `j`. -/
def Dev.golden (d : Dev) (k r j : Nat) : Int :=
  if j ≥ 516 then refPattern r j
  else match d.imageOf k with
    | some (b, l) => d.imageCell b (k / 64) l r j
    | none => 0

/-! ### Reads of an image (R230) -/

/-- Units of cluster `c`'s partition may read the image of its logical tile `l` in the bank that the cluster runs with. -/
def Dev.imageOpen (d : Dev) (c l : Nat) : Bool :=
  match d.clusterOwner c with
  | some p => d.unitMay p (d.imageBase ((d.sourceBank p).getD 0) c l) 132096
  | none => false

/-- An image read that is refused. -/
def Dev.noteImage (d : Dev) (c l : Nat) : Dev := if d.imageOpen c l then d else d.refuseAccess ((d.clusterOwner c).getD 0)

/-! ### Scratchpad rows (R220, R221, R226) -/

/-- The bank of logical row `r` (R221). -/
def spadBank (r : Nat) : Nat := (r % 8) ^^^ (r / 8 % 8) ^^^ (r / 64 % 8)

/-- An access to row `r` of cluster `c`: where a spare in another bank stands in for the row it costs one extra cycle, which counts as
lateness (R226). -/
def Dev.useRow (d : Dev) (c r : Nat) : Dev :=
  match ((d.cluster c).spadMap.find? (fun e => e.2 == r)).map Prod.fst with
  | some k =>
    if k = spadBank r then d
    else (d.countC c CC.spadBankExtra).updCluster c fun x => { x with sequencer := { x.sequencer with shift := x.sequencer.shift + 1 } }
  | none => d

/-- Logical scratchpad row `r` of cluster `c` as bytes. -/
def Dev.spadBytes (d : Dev) (c r : Nat) : List Byte := bytesOf (SMap.get 0 (d.cluster c).spad r) 512

/-- Writes a whole scratchpad row (R220). -/
def Dev.setSpad (d : Dev) (c r : Nat) (w : BitVec 4096) : Dev :=
  (d.useRow c r).updCluster c fun x => { x with spad := SMap.put 0 x.spad r w }

/-- Bytes as a row, the first lowest (R11). -/
def rowOfBytes (bs : List Byte) : BitVec 4096 := bs.reverse.foldl (fun (w : BitVec 4096) b => (w <<< 8) ||| b.setWidth 4096) 0

/-- A row with `bs.length` bytes replaced from byte `at_` on. -/
def patchRow (w : BitVec 4096) (at_ : Nat) (bs : List Byte) : BitVec 4096 :=
  bs.zipIdx.foldl (fun (w : BitVec 4096) (b : Byte × Nat) =>
    let k := 8 * (at_ + b.2)
    let mask : BitVec 4096 := (0xFF : BitVec 4096) <<< k
    let v : BitVec 4096 := (b.1.setWidth 4096) <<< k
    (w &&& ~~~mask) ||| v) w

/-- Puts bytes in a row from byte `at_` on, as part of an access that is counted elsewhere. -/
def Dev.pokeSpad (d : Dev) (c r at_ : Nat) (bs : List Byte) : Dev :=
  d.updCluster c fun x => { x with spad := SMap.put 0 x.spad r (patchRow (SMap.get (0 : BitVec 4096) x.spad r) at_ bs) }

/-- Replaces `bs.length` bytes of a row from byte `at_`. -/
def Dev.patchSpad (d : Dev) (c r at_ : Nat) (bs : List Byte) : Dev := (d.useRow c r).pokeSpad c r at_ bs

/-! ### Sparse lists and grafts (R81, R98, R203) -/

/-- The bank whose schedule and tables cluster `c` runs with. -/
def Dev.bankOf (d : Dev) (c : Nat) : Nat := ((d.clusterOwner c).bind d.sourceBank).getD 0

/-- The outlier-weight list of logical tile `l` of cluster `c`, which streams from the stack (R98, R210). -/
def Dev.outlierList (d : Dev) (c l : Nat) : List (Nat × Nat × U16) :=
  match d.clusterOwner c with
  | some p => ((d.bank p (d.bankOf c)).outliers.filter fun e => e.1 == 62 * c + l).flatMap Prod.snd
  | none => []

/-- The placement of a logical tile in the schedule in force. -/
def Dev.placeOf (d : Dev) (c l : Nat) : Option Placed :=
  (d.clusterOwner c).bind fun p => (d.placed p).find? (fun x => x.cluster == c && x.ltile == l)

/-- The operator whose step is in progress for job `p`. -/
def Dev.stepOp (d : Dev) (p : Nat) : Option OperatorSpec := (d.job p).step.bind fun s => s.desc.op

/-- The graft that a row on cluster `c` is bound to: the one that a tuning step carries, else its request's (R165, R166, R203). -/
def Dev.graftOf (d : Dev) (c : Nat) (handle : U32) : Option (Nat × U16) :=
  match (d.clusterOwner c).bind d.stepOp with
  | some (.tuning _ _ id ver _ _ _) => some (id.toNat, ver)
  | _ =>
    let r := d.req (slotOf handle)
    if r.graftValid then some (r.graftId.toNat, r.graftVer) else none

/-- The blocks of a graft version that this member holds for a layer. -/
def Dev.graftBlocks (d : Dev) (g : Nat × U16) (layer : Nat) : List GraftBlock :=
  ((d.graft g.1).live.filter fun v => v.ver == g.2).flatMap fun v => v.blocks.filter fun b => b.layer.toNat == layer

/-- The graft entries that apply to a row in this tile: row, column, δ and the scale g (R81, R203). -/
def Dev.graftEntries (d : Dev) (c l layer : Nat) (handle : U32) : List (Nat × Nat × Byte × U16) :=
  match d.placeOf c l, d.graftOf c handle with
  | some pl, some g => (d.graftBlocks g layer).flatMap fun b =>
      (b.entries.filter (fun e => e.row.toNat / 512 == pl.rowBand && e.col.toNat / 512 == pl.colBand)).map fun e =>
        (e.row.toNat % 512, e.col.toNat % 512, e.delta, b.scale)
  | _, _ => []

/-- Changes what the tuning step of job `p` keeps, if its step in progress is one (R166). -/
def Dev.tune (d : Dev) (p : Nat) (f : TuningRec → TuningRec) : Dev :=
  match d.stepOp p with
  | some (.tuning ..) => d.updJob p fun j => { j with step := j.step.map fun s => { s with tuning := f s.tuning } }
  | _ => d

/-- A vector takes the place of an earlier one of its row, layer and band. -/
def putVec (v : TuningVec) (xs : List TuningVec) : List TuningVec :=
  xs.filter (fun x => !(x.row == v.row && x.layer == v.layer && x.band == v.band)) ++ [v]

/-- A tuning step keeps the Z8 input of a layer that carries graft entries, and the output gradient that its tiles are driven with (R166). -/
def Dev.keepVec (d : Dev) (c l : Nat) (v : EdgeVec) (ms es : List Byte) : Dev :=
  match d.clusterOwner c, d.placeOf c l, d.graftOf c v.handle with
  | some p, some pl, some g =>
    if (d.graftBlocks g v.layer).isEmpty then d
    else
      let x : TuningVec := { row := v.handle, layer := v.layer, band := if v.transposed then pl.colBand else pl.rowBand, ms := ms, es := es }
      d.tune p fun t => if v.transposed then { t with deltas := putVec x t.deltas } else { t with inputs := putVec x t.inputs }
  | _, _, _ => d

/-! ### Cache lines (R224, R225) -/

/-- Rows of the cache (R224). -/
def Cluster.cacheRows (x : Cluster) : Nat := 32 * min 8 x.cache32.toNat

/-- The bytes of a line (R98, R203, R225, R323): an image row, an image column gathered two cells to a byte, 64 entries of one layer of a
graft version, or 80 entries of a tile's outlier-weight list. -/
def Dev.lineBytes (d : Dev) (c : Nat) (l : LineKind) : List Byte :=
  let b := d.bankOf c
  match l with
  | .imageRow lt r => d.stackRead (d.imageBase b (lt / 64) (lt % 64) + 258 * r) 258
  | .imageCol lt j => (List.range 256).map fun i =>
      (BitVec.ofInt 4 (d.imageCell b (lt / 64) (lt % 64) (2 * i + 1) j) ++ BitVec.ofInt 4 (d.imageCell b (lt / 64) (lt % 64) (2 * i) j) : Byte)
  | .graft id ver layer i =>
    let es := ((d.graft id).live.filter fun v => v.ver.toNat == ver).flatMap fun v =>
      (v.blocks.filter fun x => x.layer.toNat == layer).flatMap GraftBlock.entries
    ((es.drop (64 * i)).take 64).flatMap fun e => bytesOf ((0 : BitVec 24) ++ e.delta ++ e.col ++ e.row) 8
  | .outlier lt i => (((d.outlierList (lt / 64) (lt % 64)).drop (80 * i)).take 80).flatMap fun w =>
      bytesOf (w.2.2 ++ BitVec.ofNat 9 w.1 ++ BitVec.ofNat 9 w.2.1 ++ (0 : BitVec 14)) 6

/-- A cache lookup of cluster `c`: a hit uses the line and moves it to the front; a miss is asked of the stack, a fourth waits
(R225). -/
def Dev.lookup (d : Dev) (c : Nat) (l : LineKind) : Dev :=
  let x := d.cluster c
  match x.lines.find? (fun e => e.kind == l) with
  | some e => (d.setCluster c { x with lines := { e with used := true } :: x.lines.filter (fun y => y.kind != l) }).countC c CC.cacheHit
  | none =>
    let d := d.countC c CC.cacheMiss
    if x.misses.contains l || x.missWait.contains l then d
    else if x.misses.length < 3 then d.setCluster c { x with misses := x.misses ++ [l] }
    else d.setCluster c { x with missWait := x.missWait ++ [l] }

/-- A line is held. -/
def Dev.cachedLine (d : Dev) (c : Nat) (l : LineKind) : Bool := (d.cluster c).lines.any (fun e => e.kind == l)

/-- A fetched line is used, which makes it one that may give way (R225). -/
def Dev.useLine (d : Dev) (c : Nat) (l : LineKind) : Dev :=
  d.updCluster c fun x => { x with lines := x.lines.map fun e => if e.kind = l then { e with used := true } else e }

/-- The row that a new line takes: the lowest free one of the cache rows 512 − n to 511, else that of the least recently used line that
has been used since its fill (R224, R225). -/
def Cluster.lineRow (x : Cluster) : Option Nat :=
  let rows := (List.range x.cacheRows).map (512 - x.cacheRows + ·)
  match rows.find? fun r => !(x.lines.any fun e => e.row == r) with
  | some r => some r
  | none => (x.lines.reverse.find? CacheLine.used).map CacheLine.row

/-! ### Lanes (R89 to R92) -/

/-- The column scale of column `j`. -/
def CorrTab.scale (t : CorrTab) (j : Nat) : U16 := SMap.get 0 t.scales j

/-- Accumulator lane `n` of cluster `c`. -/
def Dev.accLane (d : Dev) (c n : Nat) : Lane := SMap.get Lane.fresh (d.cluster c).lanes n

/-- Lane `n` of cluster `c` takes a new value; entering extended mode is counted, however it comes about (R91, R111). -/
def Dev.setAccLane (d : Dev) (c n : Nat) (l : Lane) : Dev :=
  let old := d.accLane c n
  let d := d.updCluster c fun x => { x with lanes := SMap.put Lane.fresh x.lanes n l }
  if l.ext && !old.ext then d.countC c CC.arithExtended else d

/-- Adds (v, u) to a lane (R90). -/
def Dev.addLane (d : Dev) (c n : Nat) (v u : Int) : Dev := d.setAccLane c n ((d.accLane c n).add v u)

/-- Marks `k` lanes from `n` as poison (R80). -/
def Dev.poisonLanes (d : Dev) (c n k : Nat) : Dev :=
  d.updCluster c fun x => { x with lanes := (List.range k).foldl (fun ls i =>
    SMap.put Lane.fresh ls (n + i) { SMap.get Lane.fresh ls (n + i) with poison := true }) x.lanes }

/-- Adds the 512 partials P_j of a tile input at E_t (R89); a transposed input's outputs carry no column scale (R166). -/
def Dev.addPartials (d : Dev) (c lt : Nat) (v : EdgeVec) (P : List Int) : Dev :=
  let t := d.table lt
  d.forAll (List.range 512) fun d j =>
    if v.transposed then d.addLane c (v.accBase + j) (P.getD j 0) (v.et - 133)
    else d.addLane c (v.accBase + j) (P.getD j 0 * bf16q (t.scale j)) (v.et + bf16e (t.scale j) - 267)

/-- The INT4 weight row of an outlier channel: a static channel's from the correction tables, a dynamic one's from the golden bank
(R97). -/
def Dev.channelRow (d : Dev) (c l i : Nat) : List Int :=
  match SMap.get [] (d.table (64 * c + l)).staticWeights i with
  | [] => (List.range 512).map fun j => d.imageCell (d.bankOf c) c l i j
  | ws => ws

/-- The side path of one input: outlier channels, outlier weights and graft terms, from the original Z8 elements (R89, R96 to R98). Each
channel adds 512 contributions, whatever its mantissa; a poison element adds none, its lanes being poison (R80). -/
def Dev.sidePath (d : Dev) (c l : Nat) (v : EdgeVec) (ms es : List Byte) (channels : List Nat) : Dev :=
  let t := d.table (64 * c + l)
  let poison := fun (i : Nat) => z8Poison (ms.getD i 0) (es.getD (i / 32) 0)
  let m := fun (i : Nat) => z8m (ms.getD i 0)
  let e := fun (i : Nat) => ((es.getD (i / 32) 0).toNat : Int)
  let d := d.forAll (channels.filter fun i => !poison i) fun d i =>
    let w := d.channelRow c l i
    d.forAll (List.range 512) fun d j =>
      d.addLane c (v.accBase + j) (m i * w.getD j 0 * bf16q (t.scale j)) (e i + bf16e (t.scale j) - 267)
  let d := d.forAll ((d.outlierList c l).filter fun w => !poison w.1) fun d w =>
    d.addLane c (v.accBase + w.2.1) (m w.1 * bf16q w.2.2) (e w.1 + bf16e w.2.2 - 267)
  d.forAll ((d.graftEntries c l v.layer v.handle).filter fun x => !poison x.1) fun d x =>
    d.addLane c (v.accBase + x.2.1) (m x.1 * x.2.2.1.toInt * bf16q x.2.2.2) (e x.1 + bf16e x.2.2.2 - 267)

/-- What the column edges are driven with in a transposed evaluation: the output gradient δ times the column scales s_j, as Z8 (R63, R166).
R166 does not say how the product becomes Z8; the model writes it as an output block of R93 to R95 (DEDUCED, log 142). -/
def Dev.scaledInput (d : Dev) (c l : Nat) (ms es : List Byte) : List Byte × List Byte :=
  let t := d.table (64 * c + l)
  let lane := fun (j : Nat) =>
    let m := ms.getD j 0
    let e := es.getD (j / 32) 0
    if z8Poison m e then { Lane.fresh with poison := true }
    else if z8m m * bf16q (t.scale j) = 0 then Lane.fresh
    else { Lane.fresh with empty := false, acc := z8m m * bf16q (t.scale j), anchor := e.toNat + bf16e (t.scale j) - 267 }
  let bs := (List.range 16).map fun b => z8Block ((List.range 32).map fun i => lane (32 * b + i))
  (bs.flatMap fun b => b.2.1, bs.map fun b => BitVec.ofNat 8 b.1)

/-- The outlier weights and the graft terms of a transposed input, from δ itself: entry (i, j) takes element j to output i (R166). -/
def Dev.sideTransposed (d : Dev) (c l : Nat) (v : EdgeVec) (ms es : List Byte) : Dev :=
  let poison := fun (j : Nat) => z8Poison (ms.getD j 0) (es.getD (j / 32) 0)
  let m := fun (j : Nat) => z8m (ms.getD j 0)
  let e := fun (j : Nat) => ((es.getD (j / 32) 0).toNat : Int)
  let d := d.forAll ((d.outlierList c l).filter fun w => !poison w.2.1) fun d w =>
    d.addLane c (v.accBase + w.1) (m w.2.1 * bf16q w.2.2) (e w.2.1 + bf16e w.2.2 - 267)
  d.forAll ((d.graftEntries c l v.layer v.handle).filter fun x => !poison x.2.1) fun d x =>
    d.addLane c (v.accBase + x.1) (m x.2.1 * x.2.2.1.toInt * bf16q x.2.2.2) (e x.2.1 + bf16e x.2.2.2 - 267)

/-- The side path of an input, forward or transposed. -/
def Dev.addSide (d : Dev) (c l : Nat) (v : EdgeVec) (ms es : List Byte) (channels : List Nat) : Dev :=
  if v.transposed then d.sideTransposed c l v ms es else d.sidePath c l v ms es channels

/-- A line has arrived: the correction unit uses it for the inputs that wait for it, and what waits for no further line is added (R97, R225). -/
def Dev.lineArrives (d : Dev) (c : Nat) (line : LineKind) : Dev :=
  let ws := (d.cluster c).sideWaits.map fun w => { w with lines := w.lines.erase line }
  let d := d.updCluster c fun x => { x with sideWaits := ws.filter fun w => !w.lines.isEmpty }
  d.forAll (ws.filter fun w => w.lines.isEmpty) fun d w => d.addSide c (w.tile % 64) w.vec w.ms w.es w.channels

/-- CACHE_MISS_FILL: the line's last write (R225). An input that waits for a row or for list entries uses the line as it arrives; a column
is used by the patch or the sample that asked for it. Where every line held has yet to be used, the new one is not kept. -/
def execCacheMissFill (cluster : Nat) (line : LineKind) (s : State) : Out := s.on fun d =>
  let x := d.cluster cluster
  if x.misses.contains line then
    let d := d.setCluster cluster { x with misses := x.misses.erase line ++ x.missWait.take 1, missWait := x.missWait.drop 1 }
    let used := x.sideWaits.any fun w => w.lines.contains line
    match x.lineRow with
    | none => d.lineArrives cluster line
    | some r =>
      let tile := match line with | .imageRow lt _ | .imageCol lt _ => some lt | _ => none
      let open_ := tile.all fun lt => d.imageOpen (lt / 64) (lt % 64)
      let bytes := d.lineBytes cluster line
      let d := match tile with | some lt => d.noteImage (lt / 64) (lt % 64) | none => d
      let d := (d.setSpad cluster r (rowOfBytes (if open_ then bytes else bytes.map fun _ => 0))).count DC.stackBytesA (ceilDiv bytes.length 64)
      (d.updCluster cluster fun x => { x with lines := { kind := line, row := r, used := used } :: x.lines.filter (fun e => e.row != r) }).lineArrives
        cluster line
  else d

/-! ### Digital stand-in (R67, R146, R149, R150) -/

/-- The exact partials of an input: P_j = Σ a_i w_ij over the golden image, or its transpose. -/
def Dev.exactPartials (d : Dev) (c l : Nat) (v : EdgeVec) : List Int :=
  let b := d.bankOf c
  (List.range 512).map fun j => ((List.range 512).map fun i =>
    v.a.getD i 0 * (if v.transposed then d.imageCell b c l j i else d.imageCell b c l i j)).sum

/-- Halves of Dahlia that run. -/
def Dev.runningHalves (d : Dev) : Nat := (d.engine.halves.filter (fun e => e.2.isSome)).length

/-- Tile-equivalents that the running halves hold, with one more, stay within the reservation (R146). -/
def Dev.halfFits (d : Dev) : Bool := decide (385 * (d.runningHalves + 1) ≤ d.engine.reserve)

/-- The tier of a Dahlia half: engines 0 to 7, halves 0 to 15, are on tier A, the others on tier B (R144, R213). -/
def halfTier (h : Nat) : Nat := h / 16

/-- The tier on which an operation must run: a stand-in runs on its tile's own (R149). -/
def opTier (o : DahliaOp) : Option Nat := match o.kind with | .standIn lt => some (lt / 16384) | _ => none

/-- The half that an operation takes: R148 names no order among the free ones; the model takes the lowest numbered of the operation's tier
(DESIGN CHOICE, log 120). -/
def Dev.freeHalf (d : Dev) (o : DahliaOp) : Option Nat :=
  (List.range 32).find? fun h => SMap.get none d.engine.halves h == none
    && (match opTier o with | some t => halfTier h == t | none => true)

/-- The operation is the stand-in of logical tile `lt`. -/
def standsFor (o : DahliaOp) (lt : Nat) : Bool := match o.kind with | .standIn t => t == lt | _ => false

/-- A half runs the stand-in of logical tile `lt`. -/
def Dev.standInRuns (d : Dev) (lt : Nat) : Bool := d.engine.halves.any (fun e => e.2.any fun o => standsFor o lt)

/-- The stand-in of logical tile `lt` waits for a half. -/
def Dev.standInWaits (d : Dev) (lt : Nat) : Bool := d.engine.waiting.any fun o => standsFor o lt

/-- The exact partials of an input enter accumulation, from Dahlia or from the correction unit (R149, R150, R170). -/
def Dev.standInAdd (d : Dev) (lt : Nat) (v : EdgeVec) (onDahlia : Bool) : Dev :=
  let P := if d.imageOpen (lt / 64) (lt % 64) then d.exactPartials (lt / 64) (lt % 64) v else List.replicate 512 0
  ((d.noteImage (lt / 64) (lt % 64)).addPartials (lt / 64) lt v P).count (if onDahlia then DC.standinRowsDahlia else DC.standinRowsCcu)

/-- A half loads a tile's data columns, 131,072 bytes, from the golden bank into its operand SRAM (R149, R239). -/
def Dev.loadTile (d : Dev) (h lt : Nat) : Dev :=
  { d with engine := { d.engine with operand := SMap.put none d.engine.operand h (some (.tile (d.bankOf (lt / 64)) lt)) } }.count DC.stackBytesA 2048

/-- Computes one input of a withheld logical tile (R149, R150, R216): on the half that runs its stand-in; once the half that it waits for
has it; on a free half of its tier, where the reservation has room and a circuit was placed, from now on; else in the correction unit. -/
def Dev.standIn (d : Dev) (c l : Nat) (v : EdgeVec) : Dev :=
  let lt := 64 * c + l
  let o : DahliaOp := { partition := (d.clusterOwner c).getD 0, kind := .standIn lt }
  if d.engine.noCircuit.contains lt then d.standInAdd lt v false
  else if d.standInRuns lt then d.standInAdd lt v true
  else if d.standInWaits lt then { d with engine := { d.engine with standInputs := d.engine.standInputs ++ [(lt, v)] } }
  else match d.freeHalf o with
    | some h =>
      if d.halfFits && !d.power.boHold && !d.power.sweep then
        ({ d with engine := { d.engine with halves := SMap.put none d.engine.halves h (some o) } }.loadTile h lt).standInAdd lt v true
      else d.standInAdd lt v false
    | none => d.standInAdd lt v false

/-! ### Guard windows (R105) -/

/-- The slot and guard window of the pair of cluster `c` and a sublayer. -/
def Dev.pairOf (d : Dev) (c layer : Nat) : Option GuardEntry :=
  (d.clusterOwner c).bind fun p => (d.bank p (d.bankOf c)).guards.find? fun g => g.cluster == c && g.layer == layer

/-- The guard window of a pair in ns; 0 where the schedule gives none. -/
def Dev.guardOf (d : Dev) (c layer : Nat) : Nat := ((d.pairOf c layer).map GuardEntry.guard).getD 0

/-- How far the sequencer of cluster `c` is behind a planned time at this instant, less the waits that count against no pair or against
another one (R105, R153, R212). -/
def Dev.behind (d : Dev) (c planned : Nat) : Nat :=
  let q := (d.cluster c).sequencer
  max (d.since q.base - planned) q.shift - q.excused

/-- The running lateness of the pair in progress on cluster `c`: it never falls (R105). -/
def Dev.runningLate (d : Dev) (c : Nat) : Nat :=
  let q := (d.cluster c).sequencer
  match q.waitsFor with | some t => max q.late (d.behind c t) | none => q.late

/-- The running lateness of the pair of cluster `c` and a sublayer: 0 while the sequencer is not in its slot. -/
def Dev.pairLate (d : Dev) (c layer : Nat) : Nat :=
  if (d.cluster c).sequencer.layer = some layer then d.runningLate c else 0

end Sys2Proof.Machine
end

