-- ==== Sys2Proof/Machine/Layouts.lean ====
section
/-! DEFINITION. Records in host memory as the spec lays them out: the shard manifest and its chunk list, and the Crocus pack (R316 to R318,
R347). -/

namespace Sys2Proof

open Sys2Proof.Machine

/-! ### The shard manifest (R316 to R318) -/

/-- Fields of the header (R317). -/
def Manifest.magic (x : Manifest) : U32 := x.header.extractLsb' 0 32
def Manifest.format (x : Manifest) : U16 := x.header.extractLsb' 32 16
def Manifest.member (x : Manifest) : Nat := fieldNat x.header 53 48
/-- SXM1, SYM1, SZM1 in the order of SYS_JOB's extent fields. -/
def Manifest.extents (x : Manifest) : BitVec 6 := x.header.extractLsb' 54 6
def Manifest.version (x : Manifest) : U32 := x.header.extractLsb' 64 32
def Manifest.count (x : Manifest) : Nat := fieldNat x.header 111 96

/-- Fields of a chunk-list entry (R318). -/
def chunkPart (w : BitVec 576) : Nat := fieldNat w 7 0
def chunkLength (w : BitVec 576) : Nat := fieldNat w 63 32
def chunkTag (w : BitVec 576) : BitVec 128 := w.extractLsb' 64 128
def chunkDigest (w : BitVec 576) : BitVec 384 := w.extractLsb' 192 384

/-- Offsets of the parts of a manifest with `n` chunks (R316). -/
def manifestOaep : Nat := 0x0080
def manifestKem : Nat := 0x0200
def manifestList : Nat := 0x0640
def manifestPss (n : Nat) : Nat := 0x0640 + 72 * n
def manifestSlh (n : Nat) : Nat := 0x07C0 + 72 * n

/-- Bytes of a manifest with `n` chunks. -/
def manifestLength (n : Nat) : Nat := manifestSlh n + 16224

/-- The manifest's bytes in order: each part ends where the next one's offset begins (R11, R316). -/
def Manifest.bytes (x : Manifest) : List Byte :=
  bytesOf x.header 128 ++ bytesOf x.oaep 384 ++ bytesOf x.kem 1088 ++ x.chunks.flatMap (fun w => bytesOf w 72) ++ bytesOf x.pss 384
    ++ bytesOf x.slh 16224

/-- The bytes that both signatures cover (R316). -/
def Manifest.signed (x : Manifest) : List Byte := x.bytes.take (manifestPss x.chunks.length)

/-- Address of chunk `n` (R318). -/
def chunkAddr (base : U64) (n : Nat) : U64 := base + BitVec.ofNat 64 (4194304 * n)

/-- The chunk list keeps R318: known parts in ascending order, each with its chunks in one run, and lengths of 1 to 4 MiB of which only a
part's last may be shorter. -/
def chunkListOk (cs : List (BitVec 576)) : Bool :=
  cs.all (fun w => decide (1 ≤ chunkPart w) && decide (chunkPart w ≤ 4) && decide (1 ≤ chunkLength w) && decide (chunkLength w ≤ 4194304))
    && (cs.zip (cs.drop 1)).all fun w => decide (chunkPart w.1 < chunkPart w.2)
        || (decide (chunkPart w.1 = chunkPart w.2) && decide (chunkLength w.1 = 4194304))

/-- Bytes of the chunks of a part. -/
def bytesOfPart (cs : List (BitVec 576)) (part : Nat) : Nat := ((cs.filter fun w => chunkPart w == part).map chunkLength).sum

/-- The manifest's lengths agree: N counts the chunk list, MAN_LEN is the length that N gives, and SHARD_VERSION is not 0 (R316, R317,
R321). -/
def Manifest.shaped (x : Manifest) (manLen : Nat) : Bool :=
  decide (1 ≤ x.count) && decide (x.count = x.chunks.length) && decide (manLen = manifestLength x.chunks.length) && decide (x.version ≠ 0)
    && chunkListOk x.chunks

/-! ### The Crocus pack (R347) -/

/-- Fields of the header. -/
def CrocusPack.format (x : CrocusPack) : U16 := x.header.extractLsb' 32 16
def CrocusPack.packId (x : CrocusPack) : U32 := x.header.extractLsb' 64 32
def CrocusPack.shardVersion (x : CrocusPack) : U32 := x.header.extractLsb' 96 32
def CrocusPack.count (x : CrocusPack) : Nat := fieldNat x.header 159 128
/-- Bytes of a pack (R347). -/
def CrocusPack.size (x : CrocusPack) : Nat := 64 + 576 * x.entries.length + 384 + 16224
def CrocusPack.rerun (x : CrocusPack) : U16 := x.header.extractLsb' 160 16

/-- Fields of an entry: the 512 aligned mantissas, and the exact sum of group `k`, nibble `n` (0 high). -/
def crocusMember (w : BitVec 4608) : Nat := fieldNat w 5 0
def crocusCluster (w : BitVec 4608) : Nat := fieldNat w 14 6
def crocusLtile (w : BitVec 4608) : Nat := fieldNat w 20 15
def crocusInput (w : BitVec 4608) : List Int := (List.range 512).map fun i => (w.extractLsb' (128 + 8 * i) 8).toInt
def crocusSum (w : BitVec 4608) (k n : Nat) : Int := (w.extractLsb' (4224 + 32 * (2 * k + n)) 32).toInt

/-- The pack's bytes in order (R11, R347). -/
def CrocusPack.bytes (x : CrocusPack) : List Byte :=
  bytesOf x.header 64 ++ x.entries.flatMap (fun w => bytesOf w 576) ++ bytesOf x.pss 384 ++ bytesOf x.slh 16224

/-! ### Link frames (R277, R283, R290, R299) -/

/-- The header of a flit (R277). -/
def flitHeader (vc : BitVec 2) (type : BitVec 3) (seq ack : BitVec 12) (dl : Bool) : U32 :=
  vc ++ type ++ seq ++ ack ++ BitVec.ofBool dl ++ (0 : BitVec 2)

/-- The header of a message (R283): `dst` is NODE_ADDR and DST. -/
def messageHeader (specific : U64) (len : BitVec 24) (partition : Nat) (kind : BitVec 4) (src : BitVec 7) (dst : Byte) : BitVec 128 :=
  specific ++ (0 : Byte) ++ len ++ (0 : BitVec 6) ++ BitVec.ofNat 6 partition ++ kind ++ (0 : BitVec 1) ++ src ++ dst

/-- Fields of the header of a message (R283): DST with NODE_ADDR, KIND and LEN. -/
def headDst (h : BitVec 128) : Byte := h.extractLsb' 0 8
def headKind (h : BitVec 128) : BitVec 4 := h.extractLsb' 16 4
def headLen (h : BitVec 128) : Nat := fieldNat h 55 32

/-- Flits of a message: its header and its body, 240 bytes a flit (R277, R283). -/
def flitsOf (h : BitVec 128) : Nat := ceilDiv (16 + headLen h) 240

/-- The virtual channels of a kind; a reserved kind has none (R284). -/
def kindOnVc (kind : BitVec 4) (vc : BitVec 2) : Bool :=
  match kind.toNat with
  | 0 => vc == 0 || vc == 1
  | 1 | 7 => vc == 1
  | 2 | 3 | 4 | 5 | 6 => vc == 2
  | 8 => vc == 3
  | _ => false

/-- The first 256 bits of a HELLO's payload (R290). -/
def Hello.payload (h : Hello) : BitVec 256 :=
  (0 : U64) ++ h.txTime ++ h.seq ++ h.sysId ++ h.leaseEpoch ++ h.lanes ++ (0 : BitVec 2) ++ BitVec.ofBool h.gwCapable
    ++ BitVec.ofBool h.fenced ++ h.role ++ BitVec.ofNat 6 h.position ++ BitVec.ofBool h.coordValid ++ BitVec.ofNat 3 h.port
    ++ BitVec.ofBool h.spare ++ h.node ++ (1 : Byte) ++ (1 : Byte)

/-- The specific fields of a WINDOW_WRITE and of a WINDOW_ACK (R299). -/
def WinWrite.specific (m : WinWrite) : U64 := m.offset ++ m.xfer ++ m.epoch ++ m.windowId
def ackSpecific (windowId xfer : BitVec 12) (epoch : U16) (status : Byte) : U64 := (0 : U16) ++ epoch ++ xfer ++ windowId ++ status

/-- The bytes of link frames, lowest first (R11): a flit's header and a HELLO's payload; a WINDOW_WRITE and a WINDOW_ACK for a destination. -/
def Flit.headerBytes (f : Flit) : List Byte := bytesOf (flitHeader f.vc f.type f.seq f.ack f.dl) 4
def Hello.bytes (h : Hello) : List Byte := bytesOf h.payload 240
def WinWrite.bytes (m : WinWrite) (dst : Byte) : List Byte :=
  bytesOf (messageHeader m.specific (BitVec.ofNat 24 m.body.length) m.partition 1 m.src dst) 16 ++ m.body
def ackBytes (src : BitVec 7) (dst : Byte) (partition : Nat) (windowId xfer : BitVec 12) (epoch : U16) (status : Byte) : List Byte :=
  bytesOf (messageHeader (ackSpecific windowId xfer epoch status) 0 partition 2 src dst) 16

end Sys2Proof
end

