-- ==== Sys2Proof/Machine/Power.lean ====
section
/-! DEFINITION. Marigold, the throttle stages, brown-out, critical and the rails (R361 to R380, R467). -/

namespace Sys2Proof.Machine

/-! ### Marigold -/

/-- The code is plausible for a diode conversion (R365). -/
def plausible (c : BitVec 12) : Bool := decide (128 ≤ c.toNat) && decide (c.toNat ≤ 3967)

/-- |code_A − code_B| ≤ 6 (R365). -/
def agree (a b : BitVec 12) : Bool := decide (((a.toNat : Int) - b.toNat).natAbs ≤ 6)

/-- Tdiode of a pair in 1/16 °C: round_half_even((A + B) / 2) − 1,024 (R365). -/
def tdiode (a b : BitVec 12) : Int := roundHalfEven (a.toNat + b.toNat) 2 - 1024

/-- A known Tdiode (R365, R394): T_NOW, T_MAX and the highest sample of the tick. -/
def Dev.takeTemp (d : Dev) (t : Int) : Dev :=
  let p := d.power
  { d with power := { p with tNow := t, tKnown := true, tMax := if p.tKnown then max p.tMax t else t,
                             tHist := if p.tHist.isEmpty then [t] else p.tHist,
                             tickMax := some (match p.tickMax with | some m => max m t | none => t) } }

/-- Publishes a housekeeping code in MON_HK (R362, R366). -/
def Dev.publishHk (d : Dev) (i : Nat) (code : BitVec 12) : Dev :=
  { d with power := { d.power with hk := SMap.put 0 d.power.hk i ((8 : BitVec 4) ++ code) } }

/-- MON_DISAGREE rises: the 50 % limit applies at once (R365, R367, R377). -/
def Dev.raiseDisagree (d : Dev) : Dev :=
  if d.power.disagree then { d with power := { d.power with goodPairs := 0 } }
  else
    let d := { d with power := { d.power with disagree := true, monLimit := true, goodPairs := 0 } }
    ((d.divideNow).count DC.monDisagreeEvt).notice 3

/-- MON_DISAGREE clears: the limit is lifted at the next boundary (R365, R367). -/
def Dev.clearDisagree (d : Dev) : Dev :=
  let d := { d with power := { d.power with disagree := false, badPairs := 0, goodPairs := 0, tHist := [] } }
  d.stageLimits.notice 4

/-- Both converters convert the diode (R362, R365). -/
def execDiodeConversion (a b : BitVec 12) (s : State) : Out := s.on fun d =>
  let d := (d.publishHk 15 a).publishHk 31 b
  let good := plausible a && plausible b && agree a b
  if good then
    let d := { d with power := { d.power with badPairs := 0 } }
    if d.power.disagree then
      let d := { d with power := { d.power with goodPairs := d.power.goodPairs + 1 } }
      if d.power.goodPairs ≥ 20000 then (d.clearDisagree.takeTemp (tdiode a b)).tempTrigger else d
    else (d.takeTemp (tdiode a b)).tempTrigger
  else
    let bad := if agree a b then 0 else d.power.badPairs + 1
    let d := { d with power := { d.power with badPairs := bad, goodPairs := 0 } }
    if !(plausible a && plausible b) ∨ bad ≥ 3 then d.raiseDisagree else d

/-- A housekeeping conversion of channels 0 to 9 and 11 to 14 is published in MON_HK (R362, R366). -/
def execHousekeepingConversion (monB : Bool) (channel : Nat) (code : BitVec 12) (s : State) : Out := s.on fun d =>
  if channel < 15 ∧ channel ≠ 10 then
    { d with power := { d.power with hkRepeat := d.power.hkRepeat.filter (· != (monB, channel)) } }.publishHk ((if monB then 16 else 0) + channel) code
  else d

/-- The host conversion in progress and the control word of a converter. -/
def Dev.conv (d : Dev) (monB : Bool) : Option (Nat × Bool) := if monB then d.power.convB else d.power.convA
def Dev.setConv (d : Dev) (monB : Bool) (c : Option (Nat × Bool)) : Dev :=
  { d with power := if monB then { d.power with convB := c } else { d.power with convA := c } }

/-- PERIOD in ns and PHASE of a trigger's control word: 0 acts as 1 µs, and 96 to 127 as phase 0 (R366). -/
def monPeriod (ctl : U64) : Nat := 1000 * max 1 (fieldNat ctl 25 10)
def monPhase (ctl : U64) : Nat := if fieldNat ctl 32 26 < 96 then fieldNat ctl 32 26 else 0

/-- The root-clock count `n`, within the nanosecond that it begins, holds a rising edge of a phase: phase 0 rises at multiples of 4,000 periods, for its
2.000 MHz are divided from the root clock, and phase k rises k / 96 of a period later (R360; the count at which phase 0 rises is a DESIGN
CHOICE, log 179). -/
def risingEdge (n phase : Nat) : Bool := decide ((n + 4000 - 4000 * phase / 96) % 4000 < 8)

/-- A trigger is due (R363). By timer: PERIOD after it last fired, or at once when it is enabled. By PWM edge: an edge of PHASE that lies DELAY ×
10 ns back follows the arming, PERIOD after the trigger last fired. Where a falling edge lies is not given, so any instant may be one (log 179). -/
def Dev.monDue (d : Dev) (ctl : U64) (fired : Option U64) : Bool :=
  let delay := 10 * fieldNat ctl 41 34
  let gap := match fired with | some t => d.since t | none => monPeriod ctl + delay
  if ctl.getLsbD 1 then
    decide (gap ≥ monPeriod ctl + delay)
      && (ctl.getLsbD 33 || decide (8 * delay ≤ d.rst.rootCount.toNat) && risingEdge (d.rst.rootCount.toNat - 8 * delay) (monPhase ctl))
  else decide (gap ≥ monPeriod ctl)

/-- A host trigger fires (R363): the control register as it stands takes effect; the conversion of CH begins, after the diode
conversion it meets. A housekeeping conversion of another channel that it meets is aborted and repeated later. A trigger that is not due does not
fire. -/
def execMonHostTrigger (monB inDiode : Bool) (abortsHk : Option Nat) (s : State) : Out := s.on fun d =>
  let ctl := d.reg64 (if monB then Off.monB else Off.monA)
  let fired := if monB then d.power.firedB else d.power.firedA
  let set := fun (d : Dev) (ctl : U64) (fired : Option U64) =>
    { d with power := if monB then { d.power with ctlB := ctl, firedB := fired } else { d.power with ctlA := ctl, firedA := fired } }
  if !ctl.getLsbD 0 then set d ctl none
  else if d.monDue ctl fired then
    let d := (set d ctl (some d.now)).setConv monB (some (fieldNat ctl 9 6, inDiode))
    let d := match abortsHk with
      | some c => if c < 15 ∧ c ≠ 10 ∧ c ≠ fieldNat ctl 9 6 then
          { d with power := { d.power with hkRepeat := d.power.hkRepeat.filter (· != (monB, c)) ++ [(monB, c)] } } else d
      | none => d
    if inDiode then d.count DC.monLate else d
  else d

/-- A host conversion's result (R364): written with VALID; an unread result that it replaces sets OVR and is counted. -/
def execMonHostResult (monB : Bool) (code : BitVec 12) (s : State) : Out := s.on fun d =>
  match d.conv monB with
  | none => d
  | some (ch, late) =>
    let old := if monB then d.power.monB else d.power.monA
    let ovr := old.getLsbD 31
    let w : U32 := (1 : BitVec 1) ++ BitVec.ofBool ovr ++ BitVec.ofBool late ++ (0 : BitVec 9) ++ BitVec.ofNat 4 ch
      ++ (0 : BitVec 4) ++ code
    let d := d.setConv monB none
    let d := { d with power := if monB then { d.power with monB := w } else { d.power with monA := w } }
    if ovr then d.count (if monB then DC.monOvrB else DC.monOvrA) else d

/-- A read of MON_A_DATA or MON_B_DATA returns the word, then clears VALID and OVR (R364). -/
def Dev.readMon (d : Dev) (monB : Bool) : Dev :=
  { d with power := if monB then { d.power with monB := d.power.monB &&& 0x3FFFFFFF } else { d.power with monA := d.power.monA &&& 0x3FFFFFFF } }

/-- A read of MON_A_DATA or MON_B_DATA (R364); before ready BAR0 reads return zeros (R386). -/
def execMonDataRead (monB : Bool) (s : State) : Out := s.on fun d =>
  if d.rst.phase = .ready then
    let w := if monB then d.power.monB else d.power.monA
    (d.readMon monB).answer (.word (w.setWidth 64))
  else d.answer (.word 0)

/-! ### The throttle stages (R375) -/

/-- r of R375: T minus known Tdiode 10 ms earlier, or minus the oldest known since then; 0 while T is the only value. -/
def Dev.rise (d : Dev) : Int :=
  match d.power.tHist.getLast? with | some t => d.power.tNow - t | none => 0

/-- One evaluation of the procedure of R375: the new stage, hot and cool. -/
def throttleNext (req calm crit : Bool) (grace stage hot cool : Nat) : Nat × Nat × Nat :=
  let hot := if req then hot + 1 else 0
  let cool := if req then 0 else if calm then cool + 1 else 0
  if crit then (4, 0, 0)
  else if stage = 0 ∧ req then (1, 0, cool)
  else if 1 ≤ stage ∧ stage ≤ 3 ∧ hot ≥ grace then (stage + 1, 0, cool)
  else if stage ≥ 1 ∧ cool ≥ grace then (stage - 1, hot, 0)
  else (stage, hot, cool)

/-- A change of stage: staged, counted and noticed (R367, R375, R377, R395). -/
def Dev.changeStage (d : Dev) (stage : Nat) : Dev :=
  let old := d.power.stage
  let d := { d with power := { d.power with stage := stage } }
  let d := if stage > old then d.count DC.thermStageUp else d.count DC.thermStageDown
  let d := if old = 0 ∧ stage = 1 then d.count DC.thermReq else d
  d.stageLimits.notice 0

/-- The power manager's evaluation once every 1 ms (R375). THERM_STATUS.REQ_ABS and REQ_RATE show what it found; they stand until the next
evaluation and are 0 while the temperature is unknown, which R394 leaves open (DESIGN CHOICE, log 179). -/
def execThrottleEval (s : State) : Out := s.on fun d =>
  let known := d.power.tKnown && !d.power.disagree
  let r := d.rise
  let abs := known && decide (d.power.tNow ≥ d.thrReq)
  let rate := known && decide (r ≥ 64)
  let calm := known && decide (d.power.tNow ≤ d.thrReq - d.hyst) && decide (r < 64)
  let p := d.power
  let n := throttleNext (abs || rate) calm p.crit d.grace p.stage p.hot p.cool
  let hist := if known then (d.power.tNow :: p.tHist).take 10 else p.tHist
  let d := { d with power := { p with hot := n.2.1, cool := n.2.2, reqAbs := abs, reqRate := rate, tHist := hist } }
  if n.1 ≠ p.stage then d.changeStage n.1 else d

/-- The critical detector asserts: stage 4 and its 10 % limit at once (R373, R378). -/
def execCriticalAssert (s : State) : Out := s.on fun d =>
  if d.power.crit ∨ d.rst.phase = .off ∨ d.rst.phase = .tripped then d
  else
    let up := d.power.stage < 4
    let d := { d with power := { d.power with crit := true, stage := 4, hot := 0, cool := 0,
                                              stageLimit := stageLimitOf d.power.hostLimit 4 } }
    let d := d.divideNow.count DC.thermCrit
    let d := if up then d.count DC.thermStageUp else d
    d.notice 1

/-- Critical deasserts 3 °C below its threshold: the stage stays 4 and may fall by R375 (R373, R378). -/
def execCriticalDeassert (s : State) : Out := s.on fun d =>
  if d.power.crit then { d with power := { d.power with crit := false } }.notice 2 else d

/-! ### Brown-out (R369 to R371) -/

/-- The hold marks every step in flight (R69, R109). -/
def Dev.markAll (d : Dev) : Dev := d.forAll d.busyJobs Dev.mark

/-- What a brown-out hold makes of tile `k`'s evaluations: those between their nibbles run again when it ends, before anything else that
the tile owes; a test in progress starts again after the hold (R69, R370, R371). -/
def Dev.holdTile (d : Dev) (k : Nat) : Dev :=
  let t := d.tile k
  let held := t.evals.filterMap fun e => e.heldAfter (d.since e.startedAt)
  if held.isEmpty && !t.testing then d
  else (d.setTile k { t with evals := t.evals.filter (fun e => (e.heldAfter (d.since e.startedAt)).isNone), owed := held ++ t.owed,
                             testing := false }).rehold k

/-- WARN: the hold begins, evaluations between their nibbles are discarded, the steps in flight are marked, and a notice leaves (R69, R370).
A WARN during the sweep starts a new hold; the tiles not yet tested stay VERIFYING for the sweep that follows it (R66, R371). In a reset held by a
brown-out, VIN_IVR has fallen again, and its 1 ms above 1.74 V begins anew (R372). -/
def execBrownoutWarn (s : State) : Out := s.on fun d =>
  if d.rst.phase = .inReset ∧ d.rst.brownHeld then { d with rst := { d.rst with vinUp := false, vinFor := 0 } }
  else if d.power.boHold ∨ d.rst.phase = .off ∨ d.rst.phase = .tripped ∨ d.rst.phase = .inReset then d
  else
    let d := d.forAll (d.array.tiles.map Prod.fst) Dev.holdTile
    let d := { d with power := { d.power with boHold := true, sweep := false } }
    (d.markAll.count DC.boWarn).notice 5

/-- Every READY tile is to run the verification test, and so is every tile that an earlier sweep left untested; the tests begin as the
budget in force admits them (R66, R371). -/
def Dev.startSweep (d : Dev) : Dev :=
  let ks := d.readyTiles
  let left := d.power.sweepLeft.filter fun k => decide ((d.tile k).state = .verifying)
  let d := d.forAll ks fun d k => d.updTile k fun t => { t with state := .verifying }
  let d := { d with power := { d.power with sweep := true, sweepLeft := left ++ ks } }
  d.forAll (left ++ ks) Dev.beginTest

/-- RETURN, VIN_IVR rising through 1.74 V (R371): the hold ends and the sweep begins; with no READY tile it is over at once.
In a reset held by a brown-out, the reset may then be left (R372). -/
def execBrownoutReturn (s : State) : Out := s.on fun d =>
  let d := { d with rst := { d.rst with vinUp := d.rst.vinUp || d.rst.brownHeld } }
  if d.power.boHold then
    let d := ({ d with power := { d.power with boHold := false } }).count DC.boReturn
    if d.rst.phase = .ready then
      let d := d.startSweep
      d.leaveSweep []
    else d
  else d

/-! ### The SerDes rails (R467) -/

/-- VDD_SER or VDDH_SER is lost: every PHY stops, without a reset. -/
def execSerRailLoss (s : State) : Out := s.on fun d =>
  let up := d.link.ports.filter (fun e => e.2.state == 3)
  let d := d.forAll up fun d e => d.count (DC.flDown + e.1)
  let d := d.portsDown
  { d with rst := { d.rst with serUp := false }
           glob := { d.glob with cxlActive := false, width := 0, rate := 0, ideIo := false, ideCm := false } }

/-- Both rails have been within limits for 1 ms: every enabled port trains again, and the CXL link retrains (R467). -/
def execSerRailRestore (s : State) : Out := s.on fun d =>
  let d := { d with rst := { d.rst with serUp := true } }
  d.forAll (List.range 6) fun d n =>
    if d.fld (Off.flCtl n) 0 0 = 1 ∧ (d.port n).state ≠ 5 then d.updPort n fun p => { p with state := 1 } else d

end Sys2Proof.Machine
end

