-- ==== Sys2Proof/Machine/Ledger.lean ====
section
/-! DEFINITION. The fault ledger: rulings on scratchpad rows, pseudo-channels and lanes, and the tile fault ladder (R335 to
R346, R72, R226, R234). -/

namespace Sys2Proof.Machine

/-- Ledger time in seconds (R336). -/
def Dev.ltime (d : Dev) : Nat := d.ledger.ltime.toNat

/-- The times that lie within the last `w` seconds. -/
def Dev.inWindow (d : Dev) (w : Nat) (ts : List Nat) : List Nat := ts.filter (fun t => decide (d.ltime - t < w))

/-! ### The tile ladder -/

/-- Logs a tile event (R338). -/
def Dev.logTile (d : Dev) (k : Nat) (event : BitVec 4) (ruling : BitVec 2) (origin : BitVec 3) (detail : U32) : Dev :=
  d.log 0 event ruling origin k (d.stepAt (k / 64)) detail

/-- The inputs that a tile has not accumulated, oldest first. -/
def Tile.inputs (t : Tile) : List EdgeVec :=
  t.settling.map (fun x => x.ev.vec) ++ t.owed.map Eval.vec ++ t.evals.map Eval.vec ++ t.edge.toList

/-- A tile that serves a logical number enters SUSPECT at once; the step in progress is marked, and every input of the tile that is not
accumulated is computed by stand-in (R66, R67, R339). A further event on a tile out of service is logged and changes nothing (R340). -/
def Dev.suspectTile (d : Dev) (k : Nat) (event : BitVec 4) (origin : BitVec 3) (detail : U32) : Dev :=
  let t := d.tile k
  let d := d.logTile k event 0 origin detail
  match t.state with
  | .suspect | .standin | .retired => d
  | _ =>
    let d := d.setTile k { t.stop with state := .suspect, repair := 0, ruling := true, recorded := false, repairDone := none }
    let d := (d.rehold k).unwaitAll k
    let d := (d.countC (k / 64) CC.tileStateChange).count DC.ladderSuspect
    let d := match d.clusterOwner (k / 64) with
      | some p => d.mark p
      | none => d
    match d.logicalOf k with
    | some l => d.forAll t.inputs fun d v => d.standIn (k / 64) l v
    | none => d

/-- The tile reset of R389: OFF, then BLANK, with programming ordered. -/
def Dev.resetTile (d : Dev) (k : Nat) : Dev :=
  let d := d.updTile k fun t => { t.afterReset with state := .blank, progWait := true, ruling := t.ruling, recorded := t.recorded,
                                                    spareFails := t.spareFails, spareFor := t.spareFor,
                                                    calibrating := t.calibrating }
  (d.rehold k).unwaitAll k

/-- A spare of cluster `c` that is available: the entry and the tile (R71). -/
def Dev.spareOf (d : Dev) (c : Nat) : Option (Nat × Nat) :=
  [62, 63].findSome? fun e => (d.physOf c e).bind fun k => if (d.tile k).spareFor.isNone then some (e, k) else none

/-- The lowest spare is prepared for logical number `l`; with none left the cluster loses capacity (R72, R343). -/
def Dev.seekSpare (d : Dev) (c l lost : Nat) : Dev :=
  match d.spareOf c with
  | some (_, k) => (d.updTile k fun t => { t with spareFor := some l, spareFails := 0 }).resetTile k
  | none => ((d.logTile lost 0xF 3 0 0).count DC.capacityLoss).event (.capacityLoss c l)

/-- A spare that holds no logical number fails: once, its tile reset takes it through OFF and BLANK to PROGRAMMING at once, where it waits for
its grant; twice, it is retired and the other spare is tried (R58, R66, R341, R389). -/
def Dev.failSpare (d : Dev) (k : Nat) (event : BitVec 4) (origin : BitVec 3) (detail : U32) : Dev :=
  let t := d.tile k
  let c := k / 64
  let d := d.countC c CC.tileStateChange
  if t.spareFails = 0 then
    (((d.logTile k event 0 origin detail).updTile k fun t => { t with spareFails := 1 }).resetTile k).updTile k fun t => { t with state := .programming }
  else
    let d := d.logTile k event 2 origin detail
    let d := (d.updTile k fun t => { t.stop with state := .retired, spareFor := none }).rehold k
    let d := d.countC c CC.tileStateChange
    let d := d.updCluster c fun x =>
      [62, 63].foldl (fun x e => if d.physOf c e = some k then x.setEntry e 0 else x) x
    match t.spareFor with
    | some l => d.seekSpare c l k
    | none => d

/-- A failure of tile `k`: the ladder where it serves a logical number, R341 where it does not. The tile leaves a sweep that had yet to test
it: its own repair rules on it (R66, R371). -/
def Dev.failTile (d : Dev) (k : Nat) (event : BitVec 4) (origin : BitVec 3) (detail : U32) : Dev :=
  if (d.tile k).state = .retired then d.logTile k event 0 origin detail
  else
    let d := match d.logicalOf k with
      | some _ => d.suspectTile k event origin detail
      | none => d.failSpare k event origin detail
    (d.leaveSweep [k]).refloor (k / 64)

/-- The end of a tile's repair: passed or failed (R339). -/
def Dev.repairEnds (d : Dev) (k : Nat) (passed : Bool) : Dev :=
  (d.updTile k fun t => { t.stop with repairDone := some passed, repair := 0 }).rehold k

/-- A SUSPECT tile at its boundary: STANDIN, awaiting, with its ladder reprogram recorded and programming ordered (R339). -/
def Dev.startRepair (d : Dev) (k : Nat) : Dev :=
  (d.updTile k fun t => { t with state := .standin, repair := 0, progWait := true, recorded := true,
                                 ladder := (d.ltime :: t.ladder).take 3 }).countC (k / 64) CC.tileStateChange

/-- The ruling on a tile whose repair has ended (R337, R339). -/
def Dev.rule (d : Dev) (k : Nat) (passed : Bool) : Dev :=
  let t := d.tile k
  let n := (d.inWindow 86400 t.ladder).length
  let event : BitVec 4 := if passed then 5 else 6
  if passed ∧ n < 3 then
    (((d.logTile k event 1 1 0).setTile k { t with state := .ready, repair := 0, ruling := false, recorded := false, repairDone := none }).count
      DC.ladderTransient).refloor (k / 64)
  else
    let d := (d.logTile k event 2 1 0).count DC.ladderPermanent
    let d := (d.setTile k { t.stop with state := .retired, repair := 0, ruling := false, recorded := false, repairDone := none }).rehold k
    let d := d.countC (k / 64) CC.tileStateChange
    match d.logicalOf k with
    | none => d
    | some l => (d.updCluster (k / 64) fun c => c.setEntry l 0).seekSpare (k / 64) l k

/-- A READY spare takes the logical number it was programmed for (R72, steps 2 to 4). -/
def Dev.assignSpare (d : Dev) (k l : Nat) : Dev :=
  let c := k / 64
  let d := d.updCluster c fun x =>
    let x := x.setEntry l (BitVec.ofNat 8 (64 + k % 64))
    [62, 63].foldl (fun x e => if d.physOf c e = some k then x.setEntry e 0 else x) x
  ((d.updTile k fun t => { t with spareFor := none, spareFails := 0 }).count DC.spareTileUsed).logTile k 0xE 3 0 0

/-- The ladder at a boundary of tile `k`'s owner, in ascending physical order over the tiles (R339, R340). -/
def Dev.ladderTile (d : Dev) (k : Nat) : Dev :=
  let t := d.tile k
  match t.state with
  | .suspect =>
    if t.ruling ∧ t.repairDone = some false then d.rule k false
    else if (d.logicalOf k).isSome then d.startRepair k else d
  | .standin => match t.repairDone with | some b => d.rule k b | none => d
  | .ready =>
    if t.ruling then (match t.repairDone with | some b => d.rule k b | none => d)
    else match t.spareFor with
      | some l => d.assignSpare k l
      | none => d
  | _ => d

/-! ### Other rulings (R337) -/

/-- Copies row `r` of cluster `c` to a spare row and maps it out: the spare of the row's own bank if free, else the lowest
free one (R226). With none free the row stays in use and an event record is raised (R345). -/
def Dev.mapOutRow (d : Dev) (c r : Nat) : Dev :=
  let x := d.cluster c
  let free := fun (k : Nat) => SMap.get 512 x.spadMap k == 512
  let bank := spadBank r
  let already := x.spadMap.any (fun e => e.2 == r)
  let d := d.updCluster c fun x => { x with mapOut := x.mapOut.filter (· != r) }
  if already then d
  else match (bank :: List.range 8).find? free with
    | some k => d.updCluster c fun x => { x with spadMap := SMap.put 512 x.spadMap k r }
    | none => d.event (.spadExhausted c r)

/-- A permanent ruling on a scratchpad row: at the next boundary, or at once where no job owns the cluster (R226, R337). -/
def Dev.condemnRow (d : Dev) (c r : Nat) : Dev :=
  match d.clusterOwner c with
  | some _ => d.updCluster c fun x => if x.mapOut.contains r || x.spadMap.any (fun e => e.2 == r) then x else { x with mapOut := x.mapOut ++ [r] }
  | none => d.mapOutRow c r

/-- A corrected word: 16 on one row within 24 h make it permanent. The tally holds 4,096 rows; the one with the oldest last
event gives way (R335, R337). -/
def Dev.spadCe (d : Dev) (c r : Nat) : Dev :=
  let key := 512 * c + r
  let old := ((d.ledger.tally.find? (fun e => e.1 == key)).map (·.2.times)).getD []
  let times := (d.ltime :: d.inWindow 86400 old).take 16
  let perm := decide (times.length ≥ 16)
  let d := { d with ledger := { d.ledger with tally := ((key, ({ times := times } : Tally)) :: d.ledger.tally.filter (fun e => e.1 != key)).take 4096 } }
  let d := d.log 2 0xA (if perm then 2 else 1) 0 (c + 512 * r) (d.stepAt c) 0
  if perm then d.condemnRow c r else d

/-- An uncorrectable word is permanent (R337). -/
def Dev.spadUe (d : Dev) (c r : Nat) : Dev :=
  (d.log 2 0xB 2 0 (c + 512 * r) (d.stepAt c) 0).condemnRow c r

/-- Blocks of valid regions outside the KV pool (R235). -/
def Dev.outsideBlocks (d : Dev) : Nat :=
  (((List.range 128).filter (fun i => rgValid (d.region i) && rgKind (d.region i) != 4)).map (fun i => rgSize (d.region i))).sum

/-- A pseudo-channel ruled permanent starts to migrate; a third one, or one that cannot be retired, stays in service
(R234, R235, R346). -/
def Dev.condemnPc (d : Dev) (pc : Nat) : Dev :=
  if (d.pcs pc).state ≠ 0 then d
  else if (d.stack.pcs.filter (fun e => decide (e.2.state ≠ 0))).length < 2 ∧ d.outsideBlocks ≤ 4194304 then
    d.setPcs pc { d.pcs pc with state := 1 }
  else d.event (.pcExhausted d.glob.node pc)

/-- A corrected stack error: 4,096 within 3,600 s make the pseudo-channel permanent (R337). -/
def Dev.stackCe (d : Dev) (pc : Nat) : Dev :=
  let e := SMap.get ([], []) d.ledger.pcErrors pc
  let times := (d.ltime :: d.inWindow 3600 e.1).take 4096
  let perm := decide (times.length ≥ 4096)
  let d := { d with ledger := { d.ledger with pcErrors := SMap.put ([], []) d.ledger.pcErrors pc (times, e.2) } }
  let d := d.log 3 0xA (if perm then 2 else 1) 0 pc d.stepHere 0
  if perm then d.condemnPc pc else d

/-- An uncorrectable block: two distinct blocks within 24 h make the pseudo-channel permanent (R337). -/
def Dev.stackUe (d : Dev) (pc block : Nat) : Dev :=
  let e := SMap.get ([], []) d.ledger.pcErrors pc
  let recent := e.2.filter (fun x => decide (d.ltime - x.1 < 86400) && x.2 != block)
  let perm := !recent.isEmpty
  let d := { d with ledger := { d.ledger with pcErrors := SMap.put ([], []) d.ledger.pcErrors pc (e.1, ((d.ltime, block) :: recent).take 2) } }
  let d := d.log 3 0xB (if perm then 2 else 1) 0 pc d.stepHere 0
  if perm then d.condemnPc pc else d

/-- A faulty lane: permanent when it fails training, or is found faulty again within 24 h of the retrain that returned it
(R337). -/
def Dev.laneFault (d : Dev) (port lane : Nat) (failedTraining : Bool) : Dev :=
  let r := d.lane (8 * port + lane)
  let perm := failedTraining || (match r.returnedAt with | some t => decide (d.ltime - t < 86400) | none => false)
  let d := d.setLane (8 * port + lane) { r with permanent := r.permanent || perm }
  d.log 4 0xC (if perm then 2 else 1) 0 (port + 8 * lane) d.stepHere 0

/-- A degraded tile is recorded only (R133, R337). -/
def Dev.tileDegraded (d : Dev) (k : Nat) : Dev := (d.logTile k 8 3 0 0).count DC.qualDegraded

/-- The tile's retention class becomes aged at the next boundary, or at once where the tile serves no number (R344). -/
def Dev.ageTile (d : Dev) (k : Nat) : Dev :=
  let t := d.tile k
  if t.aged ∨ t.agedStaged then d
  else if (d.logicalOf k).isSome then d.setTile k { t with agedStaged := true }
  else (d.setTile k { t with aged := true }).count DC.agedSet

/-- An overdue restore is recorded; two within 24 h age the tile (R116, R337, R344). -/
def Dev.tileOverdue (d : Dev) (k : Nat) : Dev :=
  let t := d.tile k
  let times := (d.ltime :: d.inWindow 86400 t.overdues).take 2
  let d := (d.setTile k { t with overdues := times }).logTile k 9 3 0 0
  if times.length ≥ 2 then d.ageTile k else d

/-- LEDGER_EVENT_REPORT: the management plane logs a reported event and rules it (R337, R338). -/
def execLedgerEventReport (e : LedgerEvent) (s : State) : Out := s.on fun d =>
  match e with
  | .spadCorrected c r => d.spadCe c r
  | .spadUncorrectable c r => d.spadUe c r
  | .stackCorrected pc => d.stackCe pc
  | .stackUncorrectable pc b => d.stackUe pc b
  | .laneFaulty p l f => d.laneFault p l f
  | .tileDegraded k => d.tileDegraded k
  | .tileOverdue k => d.tileOverdue k
  | .brownOutReturn => d.log 5 0xD 3 0 0 d.stepHere 0

/-- Ledger time advances by one second (R336). -/
def execLedgerTimeTick (s : State) : Out := s.on fun d =>
  if d.rst.auxUp then { d with ledger := { d.ledger with ltime := d.ledger.ltime + 1 } } else d

/-- Ledger time is saved in MRAM (R336). -/
def execLedgerTimeSave (s : State) : Out := s.on fun d =>
  if d.rst.auxUp then { d with ledger := { d.ledger with saved := d.ledger.ltime } } else d

end Sys2Proof.Machine
end

