-- ==== Sys2Proof/Machine/Tile.lean ====
section
/-! DEFINITION. Tile inputs: edge conversion, evaluation, the checks that follow it, patches, replays, splits, re-evaluations and shadow
samples (R44 to R54, R63, R67, R68, R83 to R88, R97, R99 to R104, R122 to R128, R131 to R134). -/

namespace Sys2Proof.Machine

/-! ### Physical rows (R37) -/

/-- Logical row of a physical row, if it holds one (R37). -/
def Tile.rowOf (t : Tile) (r : Nat) : Option Nat :=
  if r < 512 then some r else
    match SMap.get 512 t.rowMap (r - 512) with | 512 => none | l => some l

/-- Physical row `r` is mapped out. -/
def Tile.mappedOut (t : Tile) (r : Nat) : Bool := decide (r < 512) && t.rowMap.any (fun e => e.2 == r)

/-- The physical rows that hold a logical row now: those whose codes a transposed evaluation uses (R63). -/
def Tile.liveRows (t : Tile) : List Nat := (List.range 520).filter fun r => (t.rowOf r).isSome && !t.mappedOut r

/-! ### Edge conversion -/

/-- EDGE_CONVERSION (R46, R67, R80, R83 to R86, R97, R166): the input of a logical tile from a data row and its exponents. An edge
that still holds an input takes no other. Side-path work that misses in the cache waits for its lines (R225). -/
def execEdgeConversion (tile layer dataRow expRow r : Nat) (transposed : Bool) (accBase : Nat) (rowHandle : U32) (s : State) : Out :=
  s.on fun d =>
  let c := tile / 64
  let l := tile % 64
  let phys := d.physOf c l
  if (phys.map (fun k => (d.tile k).edge.isSome)).getD false then d
  else
    let d := (d.useRow c dataRow).useRow c expRow
    let ms := d.spadBytes c dataRow
    let es := ((d.spadBytes c expRow).drop (16 * r)).take 16
    let static := if transposed then [] else SMap.get [] (d.table tile).statics layer
    let input := if transposed then d.scaledInput c l ms es else (ms, es)
    let o := edgeConvert input.1 input.2 static (if transposed then 0 else d.dynD)
    let v : EdgeVec := { layer := layer, a := o.a, et := o.et, poison := o.poison, transposed := transposed,
                         accBase := accBase, handle := rowHandle }
    let d := if o.dynamic.isEmpty then d else d.countC c CC.arithDynOutlier o.dynamic.length
    let d := if o.full then d.countC c CC.arithOutlierFull else d
    let d := if o.alignZero = 0 then d else d.countC c CC.arithAlignZero o.alignZero
    let d := d.forAll o.dynamic fun d i =>
      let line := LineKind.imageRow tile i
      let d' := d.lookup c line
      if d.cachedLine c line then d' else d'.countC c CC.arithOutlierMiss
    let d := d.forAll (List.range (ceilDiv (d.outlierList c l).length 80)) fun d i => d.lookup c (.outlier tile i)
    let d := d.keepVec c l v ms es
    let g := (d.graftOf c rowHandle).getD (0, 0)
    let n := (d.graftEntries c l layer rowHandle).length
    let d := d.forAll (List.range (ceilDiv n 64)) fun d i => d.lookup c (.graft g.1 g.2.toNat layer i)
    let needs := o.dynamic.map (LineKind.imageRow tile) ++ (List.range (ceilDiv (d.outlierList c l).length 80)).map (LineKind.outlier tile)
      ++ (List.range (ceilDiv n 64)).map (LineKind.graft g.1 g.2.toNat layer)
    let missing := needs.filter fun x => !d.cachedLine c x
    let d := if missing.isEmpty then d.addSide c l v ms es (static ++ o.dynamic)
      else d.updCluster c fun x => { x with sideWaits := x.sideWaits ++
        [{ tile := tile, vec := v, ms := ms, es := es, channels := static ++ o.dynamic, lines := missing }] }
    let d := if o.poison then d.poisonLanes c accBase 512 else d
    if o.zero then d.countC c CC.tileZeroSkip
    else match phys with
      | none => d.standIn c l v
      | some k =>
        if d.onStandIn c l then d.standIn c l v
        else d.updTile k fun t => { t with edge := some v }

/-! ### Starting evaluations (R44, R45, R48, R50, R68) -/

/-- No evaluation of tile `k` is still within its throughput period (R45). -/
def Dev.pastPeriods (d : Dev) (k : Nat) : Bool := (d.tile k).evals.all fun e => decide (d.since e.startedAt ≥ e.period)

/-- The tile is in service (R66). -/
def Tile.serves (t : Tile) : Bool := decide (t.state = .ready) || decide (t.state = .restoring)

/-- A row of tile `k`'s restore is in progress, for which an evaluation waits (R62). -/
def Dev.rowRuns (d : Dev) (k : Nat) : Bool := decide (d.now < (d.tile k).rowUntil)

/-- The tile can begin an evaluation now: it is in service, free, held neither by a brown-out nor by a sweep, no row of a restore is in progress,
and no urgent restore comes first (R45, R62, R66, R68, R69). -/
def Dev.tileFree (d : Dev) (k : Nat) : Bool :=
  let t := d.tile k
  t.serves && d.pastPeriods k && !d.rowRuns k && !d.power.boHold && !d.power.sweep && !d.restoreFirst k && decide (d.rst.phase = .ready)

/-- An evaluation of tile `k` waits for the budget or for the end of a hold, and for nothing else of the tile (R68, R76, R370, R371). -/
def Dev.budgetWaits (d : Dev) (k : Nat) : Bool :=
  (d.tile k).serves && d.pastPeriods k && !d.rowRuns k && !d.restoreFirst k && (d.power.boHold || d.power.sweep || !d.admits k 1 1)

/-- The parts that an evaluation runs: the whole, or the halves that are not kept (R48, R69). -/
def Eval.parts (e : Eval) : List (Option Nat) :=
  if e.split then (if e.firstHalfKept then [some 1] else [some 0, some 1]) else [none]

/-- Begins an evaluation: it is counted and holds its tile-equivalent (R74, R77). Split flags are those of forward pairs (R50). -/
def Dev.startEval (d : Dev) (k : Nat) (ev : Eval) : Dev :=
  let c := k / 64
  let skips := (ev.parts.filter (fun h => nibbleSkip h ev.vec.a)).length
  let mine := ev.split && !ev.vec.transposed
  let d := (d.updTile k fun t =>
    { t with evals := t.evals ++ [{ ev with startedAt := d.now }],
             splitRun := if mine && !t.splitRun.contains ev.vec.layer then ev.vec.layer :: t.splitRun else t.splitRun }).rehold k
  let d := d.countC c CC.tileEval ev.parts.length
  let d := if skips = 0 then d else d.countC c CC.tileNibbleSkip skips
  if ev.vec.transposed then d.countC c CC.tileTransposed ev.parts.length else d

/-- Key of a pair's classes and peaks: the layer, and apart from it the transposed pair (R63). -/
def pairKey (v : EdgeVec) : Nat := if v.transposed then 65536 + v.layer else v.layer

/-- The evaluation of an input at the row drivers: split from the start where R50 says so, else with the predicted classes and those of
the reference columns (R42, R43, R63, R99). -/
def Tile.plan (t : Tile) (v : EdgeVec) : Eval :=
  let planned := !v.transposed && (t.preSplit.contains v.layer || refSplit v.a)
  let pred := SMap.get [] t.classes (pairKey v)
  let cls := if planned then List.replicate 520 0
    else if v.transposed then (List.range 520).map (fun j => pred.getD j 0)
    else (List.range 516).map (fun j => pred.getD j 0) ++ refClasses v.a
  { vec := v, kind := .normal, split := planned, observed := false, classes := cls, startedAt := 0,
    replayed := false, reevals := 0, fails := [], firstHalfKept := false }

/-- Begins the evaluation that the tile owes first, where it is of the kind that the command names (R45, R50, R68). -/
def Dev.startOwed (d : Dev) (k : Nat) (is : Eval → Bool) : Dev :=
  match (d.tile k).owed with
  | [] => d
  | ev :: rest =>
    if !is ev then d
    else if d.tileFree k then
      let x := d.ask k 1 1
      if x.2 then (x.1.updTile k fun t => { t with owed := rest }).startEval k ev else x.1
    else if d.budgetWaits k then d.await k 1 1
    else d

/-- TILE_EVAL_START: what the tile owes comes first, here an evaluation that a brown-out hold discarded (R69); then the input at the row
drivers is evaluated. One that only the budget or a hold keeps back waits for admission (R76, R77, R370). -/
def execTileEvalStart (tile : Nat) (s : State) : Out := s.on fun d =>
  let t := d.tile tile
  if !t.owed.isEmpty then d.startOwed tile fun e => decide (e.kind = .normal) && !e.observed
  else match t.edge with
    | none => d
    | some v =>
      if d.tileFree tile then
        let ev := t.plan v
        let x := d.ask tile 1 1
        if x.2 then
          let d := x.1.updTile tile fun t => { t with edge := none }
          (if ev.split then d.countC (tile / 64) CC.tileSplitPlanned else d).startEval tile ev
        else x.1
      else if d.budgetWaits tile then d.await tile 1 1
      else d

/-- SPLIT_EVAL_START: an observed split (R50). -/
def execSplitEvalStart (tile : Nat) (s : State) : Out :=
  s.on fun d => d.startOwed tile fun e => e.observed && decide (e.kind = .normal)

/-- TILE_REPLAY_START (R102). -/
def execTileReplayStart (tile : Nat) (s : State) : Out := s.on fun d => d.startOwed tile fun e => decide (e.kind = .replay)

/-- CHECKSUM_REEVAL_START (R124). -/
def execChecksumReevalStart (tile : Nat) (s : State) : Out := s.on fun d => d.startOwed tile fun e => decide (e.kind = .reeval)

/-! ### Judging an evaluation -/

/-- Column values D in pu of one nibble. -/
def Part.pu (p : Part) (high : Bool) (classes : List Nat) : List Int :=
  (if high then p.dH else p.dL).zipWith columnPu (classes.take 516)

/-- Column `j` of the part clips in either nibble. -/
def Part.clipsAt (p : Part) (j : Nat) : Bool := (!p.skip && isClip (p.codesH.getD j 128)) || isClip (p.codesL.getD j 128)

/-- A reference code of the part clips. -/
def Part.refClip (p : Part) : Bool := [516, 517, 518, 519].any p.clipsAt

/-- Columns of `0 .. n − 1` that clip in either nibble. -/
def Part.clips (p : Part) (n : Nat) : List Nat := (List.range n).filter p.clipsAt

/-- Takes the codes of one part through reference correction, high nibble first: every nibble that was evaluated enters the estimates with
its own fit, and is corrected with estimates that include it (R126, R127). Transposed codes take the estimates as they stand (R64). -/
def Dev.correctPart (d : Dev) (k : Nat) (ev : Eval) (half : Option Nat) (ch cl : List Byte) : Dev × Part :=
  let skip := nibbleSkip half ev.vec.a
  let H := ch.map BitVec.toNat
  let L := cl.map BitVec.toNat
  let t := d.tile k
  let w := fun (j : Nat) => codeWeight (ev.classes.getD j 0)
  let free := fun (n : Nat) (j : Nat) => (Config.freeBits (2048 * d.fresh + 1024 * n + j) 12).toInt
  let ms := fun (codes : List Nat) => (List.range 4).map fun c => ((codes.getD (516 + c) 128 : Int) - 128) * w (516 + c)
  let learn := !ev.vec.transposed
  let fit := fun (est : Estimate) (n : Nat) (high : Bool) (codes : List Nat) =>
    est.enter (refFit est (refExpected high half ev.vec.a) (ms codes)) n
  let e1 := if learn && !skip then fit t.est (t.obs + 1) true H else t.est
  let o1 := if learn && !skip then t.obs + 1 else t.obs
  let e2 := if learn then fit e1 (o1 + 1) false L else e1
  let o2 := if learn then o1 + 1 else o1
  let n := if ev.vec.transposed then 520 else 516
  let dH := (List.range n).map fun j => if skip then 0 else correctCode e1 (free 0 j) (H.getD j 128) (w j)
  let dL := (List.range n).map fun j => correctCode e2 (free 1 j) (L.getD j 128) (w j)
  ((d.setTile k { t with est := e2, obs := o2 }).draw,
    { half := half, skip := skip, codesH := H, codesL := L, dH := dH, dL := dL, estH := e1, estL := e2 })

/-- The step in progress on cluster `c` is marked: statistics taken from now on have no effect (R106). -/
def Dev.markedAt (d : Dev) (c : Nat) : Bool :=
  match d.clusterOwner c with
  | some p => (match (d.job p).step with | some s => s.marked | none => false)
  | none => false

/-- Observed magnitudes of the `n` columns of a pair raise its peaks, unless the step is marked (R99). -/
def Dev.raisePeaks (d : Dev) (k : Nat) (v : EdgeVec) (n : Nat) (seen : Nat → Nat) : Dev :=
  let marked := match d.clusterOwner (k / 64) with
    | some p => (match (d.job p).step with | some s => s.marked | none => true)
    | none => true
  if marked then d
  else d.updTile k fun t =>
    let old := SMap.get [] t.peaks (pairKey v)
    { t with peaks := SMap.put [] t.peaks (pairKey v) ((List.range n).map fun j => min 65535 (max (old.getD j 0) (seen j))) }

/-- Records the peaks of an evaluation's or a half's column values (R99). -/
def Dev.recordPeaks (d : Dev) (k : Nat) (v : EdgeVec) (H L : List Int) : Dev :=
  d.raisePeaks k v H.length fun j => max (H.getD j 0).natAbs (L.getD j 0).natAbs

/-- Orders an operation that the tile owes this input. -/
def Dev.order (d : Dev) (k : Nat) (ev : Eval) : Dev :=
  d.updTile k fun t => { t with owed := t.owed ++ [{ ev with firstHalfKept := false }] }

/-- The failing input's tile becomes SUSPECT; that input is among those then computed by stand-in (R67, R124). -/
def Dev.persist (d : Dev) (k : Nat) (ev : Eval) (f : Nat × Bool × Bool × Bool) (e : Int) : Dev :=
  ((d.countC (k / 64) CC.chkPersist).order k ev).failTile k (if f.1 = 9 then 3 else 1) 0 (if f.1 ≥ 8 then 0 else failDetail f e)

/-- A failed check: one re-evaluation, at most two for an input; the same failure again, or a third, persists (R124). R142 does not say whether
several groups or nibbles that fail in one evaluation are several mismatches: CHK_FAIL counts one for each re-evaluation ordered (DESIGN CHOICE,
log 163). -/
def Dev.checkFailed (d : Dev) (k : Nat) (ev : Eval) (fs : List ((Nat × Bool × Bool × Bool) × Int)) : Dev :=
  match fs with
  | [] => d
  | f :: _ =>
    match fs.find? (fun x => decide (ev.reevals ≥ 1) && ev.fails.contains x.1) with
    | some g => d.persist k ev g.1 g.2
    | none =>
      if ev.reevals ≥ 2 then d.persist k ev f.1 f.2
      else (d.countC (k / 64) CC.chkFail).order k
        { ev with kind := .reeval, reevals := ev.reevals + 1, fails := fs.map Prod.fst }

/-! ### Shadow sampling (R131) -/

/-- Sixteen steps of the shadow LFSR. -/
def shadowStep (state : U16) : Nat → U16
  | 0 => state
  | n + 1 =>
    let b := state.getLsbD 15 ^^ state.getLsbD 13 ^^ state.getLsbD 12 ^^ state.getLsbD 10
    shadowStep ((state <<< 1) ||| (if b then 1 else 0)) n

/-- A new window of 2^n eligible evaluations; with sampling disabled there is none. -/
def Tile.newWindow (t : Tile) (setting : Option Nat) : Tile :=
  match setting with
  | none => { t with shadowLog := 0, shadowSeen := 0 }
  | some n =>
    let s := shadowStep t.lfsr 16
    { t with lfsr := s, shadowLog := n, shadowPos := s.toNat % 2 ^ n, shadowSeen := 0 }

/-- V of a sampled code before the clamp: the corrected value of R127, or the exact value of a patched column (R132; DESIGN CHOICE, log
122). With a gain of 0, for which R127 gives no value, it is free (log 24). -/
def Dev.sampleValue (d : Dev) (est : Estimate) (code w n : Nat) (patch : Option Int) : Rat :=
  match patch with
  | some x => x
  | none => if est.g = 0 then ((Config.freeBits (2 * d.fresh + n) 24).toInt : Rat) else correctValue est code w

/-- An eligible evaluation passes: where no window is open the next one begins; the evaluation at the window's position is the sample, and
the column is asked for; after its last evaluation the window gives way to the next, with SHADOW_LOG2 as it then stands (R131). -/
def Dev.shadowPass (d : Dev) (k : Nat) (ev : Eval) (p : Part) (patched : List (Nat × Int × Int)) : Dev :=
  let d := if (d.tile k).shadowLog = 0 then d.updTile k fun t => t.newWindow d.shadowLog2 else d
  let t := d.tile k
  if t.shadowLog = 0 then d
  else
    let d := if t.shadowSeen = t.shadowPos then
        let j := t.shadowCol
        let w := codeWeight (ev.classes.getD j 0)
        let x := patched.find? (fun e => e.1 == j)
        let high := if p.skip then 0 else d.sampleValue p.estH (p.codesH.getD j 128) w 0 (x.map fun e => e.2.1)
        let low := d.sampleValue p.estL (p.codesL.getD j 128) w 1 (x.map fun e => e.2.2)
        let smp : ShadowSample := { col := j, a := ev.vec.a, vHigh := high, vLow := low, weight := w }
        let lt := 64 * (k / 64) + (d.logicalOf k).getD 0
        ((d.updTile k fun t => { t with samples := t.samples ++ [smp], shadowCol := (j + 1) % 512 }).draw).lookup (k / 64) (.imageCol lt j)
      else d
    d.updTile k fun t =>
      let t := { t with shadowSeen := t.shadowSeen + 1 }
      if t.shadowSeen ≥ 2 ^ t.shadowLog then t.newWindow d.shadowLog2 else t

/-- The drift trigger (R134). -/
def Dev.driftTrigger (d : Dev) (k : Nat) : Dev :=
  match d.driftThr with
  | none => d
  | some thr =>
    let t := d.tile k
    let a := fun (x : Rat) => if x < 0 then -x else x
    let v := a (t.est.o - t.calEst.o) / 256 + 127 * (a (t.est.g - t.calEst.g) + a (t.est.k - t.calEst.k))
    if v > (thr : Rat) / 16 ∧ d.calReady k then (d.calibrateTiles [k] 2).count DC.calTrigDrift
    else d

/-! ### Acceptance -/

/-- The columns of one part's codes as they enter the check: what it covers, and the values in pu, high and low. -/
abbrev PartValues := Part × List Int × List Int

/-- A code set passes or fails its check; one that passes is accumulated (R87, R89, R122, R123). `patched` gives the exact values of
patched columns. In a marked step it is no statistic: it gives no shadow sample and triggers no calibration (R106). -/
def Dev.settle (d : Dev) (k : Nat) (ev : Eval) (parts : List PartValues) (patched : List (Nat × Int × Int)) : Dev :=
  let t := d.tile k
  let c := k / 64
  let lt := 64 * c + (d.logicalOf k).getD 0
  let res := (d.table lt).residues
  let r := fun (i g : Nat) => SMap.get 0 res (4 * i + g)
  let q2 := checkQ2 t.qSq
  let fails := if ev.vec.transposed then [] else parts.flatMap fun p =>
    (if p.1.skip then [] else failedGroups true p.1.half ev.vec.a r d.tolSigma q2 ev.classes p.2.1)
      ++ failedGroups false p.1.half ev.vec.a r d.tolSigma q2 ev.classes p.2.2
  if fails.isEmpty then
    let sum := fun (f : PartValues → List Int) (j : Nat) => (parts.map fun p => (f p).getD j 0).sum
    let H := sum (fun p => p.2.1)
    let L := sum (fun p => p.2.2)
    let d := if ev.reevals = 0 then d else d.countC c CC.chkCleared ev.reevals
    let P := if ev.vec.transposed then
        -- physical rows back to their logical rows; a mapped-out row's code is discarded (R63)
        (List.range 512).map fun i =>
          let row := match t.rowMap.find? (fun e => e.2 == i) with | some e => 512 + e.1 | none => i
          16 * H row + L row
      else (List.range 512).map fun j => 16 * H j + L j
    let d := d.addPartials c lt ev.vec P
    if d.markedAt c then d
    else
      let d := match parts with
        | [p] => if ev.split || ev.vec.transposed then d else d.shadowPass k ev p.1 patched
        | _ => d
      d.driftTrigger k
  else d.checkFailed k ev fails

/-- Judges an unsplit forward evaluation (R101). -/
def Dev.judgeForward (d : Dev) (k : Nat) (ev : Eval) (p : Part) : Dev :=
  let c := k / 64
  let H := p.pu true ev.classes
  let L := p.pu false ev.classes
  let clips := p.clips 516
  let cls := fun (j : Nat) => ev.classes.getD j 0
  let x1 := (p.clips 520).any (fun j => cls j == 0)
  let d := (if x1 then d.countC c CC.tileClipX1 else d).recordPeaks k ev.vec H L
  if p.refClip then
    let dir := fun (codes : List Nat) (low : Bool) => [516, 517, 518, 519].filterMap fun j =>
      let v := codes.getD j 128
      if isClip v then some ((j - 516, low, v == 0, true), (0 : Int)) else none
    d.checkFailed k ev ((if p.skip then [] else dir p.codesH false) ++ dir p.codesL true)
  else if x1 then
    let d := d.countC c CC.tileSplitObserved
    let d := d.updTile k fun t => { t with splitSeen := if t.splitSeen.contains ev.vec.layer then t.splitSeen else ev.vec.layer :: t.splitSeen }
    d.order k { ev with kind := .normal, split := true, observed := true, classes := List.replicate 520 0 }
  else
    let newCls := (List.range 516).map fun j =>
      if clips.contains j then 0 else replayClass (max (p.dH.getD j 0).natAbs (p.dL.getD j 0).natAbs) (codeWeight (cls j))
    let replay : Eval := { ev with kind := .replay, replayed := true, classes := newCls ++ ev.classes.drop 516 }
    if clips.length > d.clipN ∧ !ev.replayed then (d.countC c CC.arithReplayClip).order k replay
    else
      let d := if clips.isEmpty then d else d.countC c CC.arithColPatch clips.length
      let under := ((List.range 512).filter fun j =>
        cls j != 3 && decide ((p.dH.getD j 0).natAbs ≤ 880) && decide ((p.dL.getD j 0).natAbs ≤ 880)).length
      let band := decide (d.bandU > 0) && decide (under > d.bandU)
      let room := decide (2 * (d.pairLate c ev.vec.layer + 192) ≤ d.guardOf c ev.vec.layer)
      if band && !ev.replayed && room then (d.countC c CC.arithReplayBand).order k replay
      else
        let d := if band then d.countC c CC.arithBandAccept else d
        if clips.isEmpty then d.settle k ev [(p, H, L)] []
        else
          let lt := 64 * c + (d.logicalOf k).getD 0
          let d := d.forAll clips fun d j => d.lookup c (.imageCol lt j)
          d.updTile k fun t => { t with settling := t.settling ++ [{ ev := ev, part := p, patches := clips, patched := [] }] }

/-- Judges an unsplit transposed evaluation by the rows that hold a logical row: no patch, no band check (R63, R104). -/
def Dev.judgeTransposed (d : Dev) (k : Nat) (ev : Eval) (p : Part) : Dev :=
  let c := k / 64
  let live := (d.tile k).liveRows
  let keep := fun (xs : List Int) => (xs.zipWith columnPu ev.classes).zipIdx.map fun x => if live.contains x.2 then x.1 else 0
  let H := keep p.dH
  let L := keep p.dL
  let clips := (p.clips 520).filter live.contains
  let d := d.recordPeaks k ev.vec H L
  if clips.any (fun j => ev.classes.getD j 0 == 0) then
    ((d.countC c CC.tileClipX1).countC c CC.tileSplitObserved).order k
      { ev with kind := .normal, split := true, observed := true, classes := List.replicate 520 0 }
  else if clips.isEmpty then d.settle k ev [(p, H, L)] []
  else if ev.replayed then d.checkFailed k ev [((8, false, false, false), 0)]
  else
    let newCls := (List.range 520).map fun j =>
      if clips.contains j then 0
      else replayClass (max (p.dH.getD j 0).natAbs (p.dL.getD j 0).natAbs) (codeWeight (ev.classes.getD j 0))
    (d.countC c CC.arithReplayClip).order k { ev with kind := .replay, replayed := true, classes := newCls }

/-- Judges the two halves of a split evaluation: a clip in either is a checksum mismatch (R49); of a transposed one, a clip in a row that
holds a logical row (R63). Halves of a forward pair that sum outside the ×1 range keep its pre-split flag, whatever the check makes of them
(R50, case 3). -/
def Dev.judgeSplit (d : Dev) (k : Nat) (ev : Eval) (p q : Part) : Dev :=
  let live := (d.tile k).liveRows
  let counts := fun (j : Nat) => !ev.vec.transposed || live.contains j
  let pu := fun (xs : List Int) => (xs.zipWith columnPu ev.classes).zipIdx.map fun x => if counts x.2 then x.1 else 0
  let d := (d.recordPeaks k ev.vec (pu p.dH) (pu p.dL)).recordPeaks k ev.vec (pu q.dH) (pu q.dL)
  let beyond := fun (f : Part → List Int) => (List.range 516).any fun j =>
    let v := (pu (f p)).getD j 0 + (pu (f q)).getD j 0
    decide (v < -32512) || decide (v > 32256)
  let d := if !ev.vec.transposed && (beyond Part.dH || beyond Part.dL) then
      d.updTile k fun t => { t with splitWide := if t.splitWide.contains ev.vec.layer then t.splitWide else ev.vec.layer :: t.splitWide }
    else d
  let clipped := [p, q].filter (fun x => (x.clips 520).any counts)
  if clipped.isEmpty then d.settle k ev [(p, pu p.dH, pu p.dL), (q, pu q.dH, pu q.dL)] []
  else (d.countC (k / 64) CC.tileClipX1 clipped.length).checkFailed k ev [((9, false, false, false), 0)]

/-- TILE_EVAL_COMPLETE: the codes of the oldest evaluation are all there; it is released and its codes are judged (R74, R101). The
second pair of code lists is the second half of a split. In a marked step the estimates keep what they held (R106). -/
def execTileEvalComplete (tile : Nat) (codesH codesL codesH2 codesL2 : List Byte) (s : State) : Out := s.on fun d =>
  match (d.tile tile).evals with
  | [] => d
  | ev :: rest =>
    let d := (d.updTile tile fun t => { t with evals := rest }).rehold tile
    let t := d.tile tile
    let keep := fun (d : Dev) => if d.markedAt (tile / 64) then d.updTile tile fun x => { x with est := t.est, obs := t.obs } else d
    if ev.split then
      let x := d.correctPart tile ev (some 0) codesH codesL
      let y := x.1.correctPart tile ev (some 1) codesH2 codesL2
      (keep y.1).judgeSplit tile ev x.2 y.2
    else
      let x := d.correctPart tile ev none codesH codesL
      if ev.vec.transposed then (keep x.1).judgeTransposed tile ev x.2 else (keep x.1).judgeForward tile ev x.2

/-- The values of an evaluation's columns with the exact values of those patched (R104). -/
def Settling.values (x : Settling) (high : Bool) : List Int :=
  (x.part.pu high x.ev.classes).mapIdx fun j v =>
    match x.patched.find? (fun e => e.1 == j) with
    | some e => if high then e.2.1 else e.2.2
    | none => v

/-- COLUMN_PATCH_COMPLETE: a clipped column's exact value replaces its codes, of the oldest evaluation that waits for it; with its last
one the evaluation is settled (R104). -/
def execColumnPatchComplete (tile col : Nat) (s : State) : Out := s.on fun d =>
  match (d.tile tile).settling.find? (fun x => x.patches.contains col) with
  | none => d
  | some st =>
    let may := d.imageOpen (tile / 64) ((d.logicalOf tile).getD 0)
    let x := fun (high : Bool) => pulseSum high none st.ev.vec.a (fun i => if may then d.golden tile i col else 0)
    let new := { st with patches := st.patches.erase col, patched := (col, x true, x false) :: st.patched }
    let lt := 64 * (tile / 64) + (d.logicalOf tile).getD 0
    let d := (d.useLine (tile / 64) (.imageCol lt col)).raisePeaks tile st.ev.vec 516 fun j => if j = col then max (x true).natAbs (x false).natAbs else 0
    if new.patches.isEmpty then
      let d := d.updTile tile fun t => { t with settling := t.settling.erase st }
      d.settle tile st.ev [(st.part, new.values true, new.values false)] new.patched
    else d.updTile tile fun t => { t with settling := t.settling.map fun y => if y = st then new else y }

/-! ### Shadow samples (R132, R133) -/

/-- The quality trigger and the degraded report (R133, R134). -/
def Dev.qualityCheck (d : Dev) (k : Nat) : Dev :=
  let t := d.tile k
  let above := fun (q : Nat) => decide (t.qSq > ((q : Rat) / 4096) * ((q : Rat) / 4096))
  let d := if above d.qlimFault && !t.degraded then (d.setTile k { t with degraded := true }).tileDegraded k else d
  if above d.qlimCal && d.calReady k then (d.calibrateTiles [k] 4).count DC.calTrigQual
  else d

/-- New statistics of a tile arrive: before a staged set takes effect they calibrate the tile again (R137; log 59). -/
def Dev.newStatistics (d : Dev) (k : Nat) : Dev :=
  if (d.tile k).staged.isSome then (d.updTile k fun t => { t with calibrating := true }).takeCal (k / 64) else d

/-- SHADOW_SAMPLE: the exact values of the oldest sample's column give its two residuals and update Q (R131, R132). While sampling is
disabled Q is frozen and the sample is dropped (R140). -/
def execShadowSample (tile : Nat) (s : State) : Out := s.on fun d =>
  match (d.tile tile).samples with
  | [] => d
  | x :: rest =>
    let d := d.updTile tile fun t => { t with samples := rest }
    if (d.tile tile).shadowLog = 0 then d
    else
      let may := d.imageOpen (tile / 64) ((d.logicalOf tile).getD 0)
      let exact := fun (high : Bool) => pulseSum high none x.a (fun i => if may then d.golden tile i x.col else 0)
      let rs := [((x.vHigh - exact true) / (x.weight : Rat), exact true), ((x.vLow - exact false) / (x.weight : Rat), exact false)]
      let lt := 64 * (tile / 64) + (d.logicalOf tile).getD 0
      let d := (d.useLine (tile / 64) (.imageCol lt x.col)).countC (tile / 64) CC.shadowSample
      let d := d.updTile tile fun t =>
        { t with qSq := rs.foldl (fun q e => q + (e.1 * e.1 - q) / 64) t.qSq, residuals := t.residuals ++ rs.map (fun e => (x.col, e.1, e.2)) }
      (d.newStatistics tile).qualityCheck tile

end Sys2Proof.Machine
end

