-- ==== Sys2Proof/Machine/Restore.lean ====
section
/-! DEFINITION. Restore, level audit, programming and the verification test (R55 to R62, R66, R112 to R121, R130, R331, R474). -/

namespace Sys2Proof.Machine

/-! ### Restore credit (R112 to R116) -/

/-- The largest n at or below `fuel` with n^10 × 2^e ≤ 1280^10. -/
def tenthRoot (e : Nat) : Nat → Nat
  | 0 => 0
  | n + 1 => if (n + 1) ^ 10 * 2 ^ e ≤ 1280 ^ 10 then n + 1 else tenthRoot e n

/-- The fresh restore interval at T °C in units of 0.1 ms: 128 ms × 2^((55 − T)/10), rounded down (R113). -/
def freshInterval (t : Int) : Nat :=
  if t ≤ 55 then 1280 else tenthRoot (t - 55).toNat 1280

/-- I(T, class) in units of 0.1 ms; half the fresh value is rounded down too, as R113's table has it (DEDUCED, log 77). -/
def restoreInterval (t : Int) (aged : Bool) : Rat := ((if aged then freshInterval t / 2 else freshInterval t : Nat) : Rat)

/-- T_tick: the highest sample of the tick rounded up to a whole °C; the upper limit of the rated range while temperature is
unknown after MON_DISAGREE (R112, R114), and before the first sample since reset, for which the spec gives none (DESIGN CHOICE, log
124). -/
def Dev.tTick (d : Dev) : Int :=
  if d.power.disagree ∨ !d.power.tKnown then Config.ratedMax
  else
    let t := d.power.tickMax.getD d.power.tNow
    (t + 15) / 16

/-- A restore of tile `k` turns urgent: it is counted once (R116, R142). One in progress runs on without pause (R62). -/
def Dev.turnUrgent (d : Dev) (k : Nat) : Dev :=
  let t := d.tile k
  let c := k / 64
  if t.urgentSeen ∨ !d.restoreFirst k then d
  else (d.setTile k { t with urgentSeen := true, restore := t.restore.map fun x => { x with urgent := true } }).countC c CC.restoreUrgent

/-- One tick of one tile's credit, with the thresholds it crosses (R112, R116). -/
def Dev.tickTile (d : Dev) (k : Nat) (t : Int) : Dev :=
  let x := d.tile k
  if x.state = .ready ∨ x.state = .restoring then
    let c := x.credit + 1 / restoreInterval t x.aged
    let d := (d.setTile k { x with credit := c }).turnUrgent k
    if x.restore.isNone && decide (c ≥ 1) && !x.overdue then
      ((d.updTile k fun y => { y with overdue := true }).countC (k / 64) CC.restoreOverdue).tileOverdue k
    else d
  else d

/-- RESTORE_CREDIT_TICK: every 100 µs each READY or RESTORING tile adds to its credit (R112). -/
def execRestoreCreditTick (s : State) : Out := s.on fun d =>
  let t := d.tTick
  let d := d.forAll (d.array.tiles.map Prod.fst).dedup fun d k => d.tickTile k t
  { d with power := { d.power with tickMax := none } }

/-! ### Rows (R37, R55 to R57, R60) -/

/-- A verify code's nearest level (R60). -/
def nearestLevel (code : Nat) : Int := clampInt (-8) 7 (roundHalfEven ((code : Int) - 128) 15)

/-- The deviation d = c − 128 − 15 w'. -/
def levelDev (code : Nat) (w : Int) : Int := (code : Int) - 128 - 15 * w

/-- Every cell of a row is within the pass window of ±2 codes (R56). -/
def rowPasses (levels : List Int) (codes : List Byte) : Bool :=
  (levels.zip codes).all fun x => decide ((levelDev x.2.toNat x.1).natAbs ≤ 2)

/-- Writes a row with up to 8 iterations, 4 and a retry of 4 (R55, R57): whether it passed, the iterations, the final verify
read, and the verify reads left over. -/
def writeRow (levels : List Int) (reads : List (List Byte)) : Bool × Nat × List Byte × List (List Byte) :=
  let now := reads.take 8
  match now.findIdx? (rowPasses levels) with
  | some i => (true, i + 1, now.getD i [], reads.drop (i + 1))
  | none => (false, now.length, now.getLast?.getD [], reads.drop 8)

/-- The level of a cell, by physical row and column; the weight of a cell not programmed since the tile was last off is undefined: a free
value (R34, log 10). -/
def Dev.cellLevel (d : Dev) (k r j : Nat) : Int :=
  match SMap.get none (d.tile k).cells (520 * r + j) with
  | some w => w
  | none => (Config.freeBits (d.fresh + 520 * r + j) 4).toInt

/-- V_j of R35: the ideal signal of data column `j` in product units for one nibble of the aligned values `a`, from the cells of the physical
rows that hold the data rows as they stand. What a converter makes of it is the analogue side's and comes with the command (R6, R34, R35, R37;
log 6). -/
def Dev.columnSignal (d : Dev) (k : Nat) (high : Bool) (half : Option Nat) (a : List Int) (j : Nat) : Int :=
  let t := d.tile k
  pulseSum high half a fun i => d.cellLevel k ((t.liveRows.find? fun r => t.rowOf r == some i).getD i) j

/-- Sets the cells of a physical row. -/
def Dev.setRow (d : Dev) (k r : Nat) (levels : List Int) : Dev :=
  d.updTile k fun t => { t with cells := levels.zipIdx.foldl (fun m x => SMap.put none m (520 * r + x.2) (some x.1)) t.cells }

/-- The lowest free remap entry of a tile, staged ones counted (R57). -/
def Tile.freeEntry (t : Tile) (skip : List Nat) : Option Nat :=
  (List.range 8).find? fun k => !skip.contains k && SMap.get 512 t.rowMap k == 512 && SMap.get 512 t.rowMapStaged k == 512

/-- Writes remap entry `e`: at once where the tile serves no number, else staged for the next boundary (R57). -/
def Dev.writeRemap (d : Dev) (k e l : Nat) : Dev :=
  let d := if (d.logicalOf k).isNone ∨ (d.tile k).state ≠ .restoring then
      d.updTile k fun t => { t with rowMap := mapRow t.rowMap e l }
    else d.updTile k fun t => { t with rowMapStaged := mapRow t.rowMapStaged e l }
  d.countC (k / 64) CC.tileRowRemap

/-- Logical row that physical row `r` holds or is staged to hold. -/
def Tile.rowHeldBy (t : Tile) (r : Nat) : Option Nat :=
  match SMap.get 512 t.rowMapStaged (r - 512) with
  | 512 => t.rowOf r
  | l => if r < 512 then some r else some l

/-- How a remap ends: whether the tile can go on, the spare rows written, and the one that passed with its final verify read. -/
structure RemapEnd where
  goesOn : Bool
  spares : Nat
  written : Option (Nat × List Byte)
  deriving DecidableEq, Repr

/-- A row that failed twice: the ledger records it, and a spare row takes its logical row; a spare that fails is handled in
turn (R57). R57 does not say whether a spare that failed may be picked again: within one row's handling
it is not tried twice, its entry names no row afterwards and counts as free, and an unused spare that fails is recorded and stays eligible
(DESIGN CHOICE, log 123). -/
def Dev.remapRow (d : Dev) (k r : Nat) (levels : List Int) : Nat → List Nat → List (List Byte) → Dev × RemapEnd
  | 0, tried, _ => (d, { goesOn := false, spares := tried.length, written := none })
  | fuel + 1, tried, reads =>
    let d := d.log 1 7 2 0 (k + 32768 * r) (d.stepAt (k / 64)) 0
    match (d.tile k).rowHeldBy r with
    | none => (d, { goesOn := true, spares := tried.length, written := none })
    | some l =>
      match (d.tile k).freeEntry tried with
      | none => (d, { goesOn := false, spares := tried.length, written := none })
      | some e =>
        let w := writeRow levels reads
        let d := (d.writeRemap k e l).countC (k / 64) CC.tileProgIter w.2.1
        if w.1 then (d.setRow k (512 + e) levels, { goesOn := true, spares := tried.length + 1, written := some (512 + e, w.2.2.1) })
        else Dev.remapRow d k (512 + e) levels fuel (e :: tried) w.2.2.2

/-! ### Restore (R60 to R62, R116 to R121) -/

/-- An entry of the Crocus pack waits for tile `k` where one may run: a verification test of rank 4, in an idle window of the schedule (R68,
R349). -/
def Dev.crocusDue (d : Dev) (k : Nat) : Bool :=
  match d.ledger.pack with
  | none => false
  | some x => d.clusterIdle (k / 64) && !d.power.sweep && d.ledger.crocusTodo.any fun i => match x.entries[i]? with
    | some e => crocusCluster e == k / 64 && d.physOf (crocusCluster e) (crocusLtile e) == some k
    | none => false

/-- The gap rule (R117): no evaluation of the tile is in progress and the cluster sequencer shows none `due` within the next 54 ns. An
evaluation that waits for the tile runs first, and so does a Crocus entry (R62, R68); neither can start during a brown-out hold, through
which the restore goes on (R69). -/
def Dev.gap (d : Dev) (k : Nat) (due : Bool) : Bool :=
  let t := d.tile k
  t.evals.isEmpty && !due && (d.power.boHold || (t.edge.isNone && t.owed.isEmpty && !d.crocusDue k))

/-- A restore begins: the credit returns to 0 and one tile-equivalent is held (R74, R115, R120). -/
def Dev.beginRestore (d : Dev) (k : Nat) (urgent : Bool) : Dev :=
  let audit := match d.auditLog2 with | none => false | some n => ((d.tile k).restores + 1) % 2 ^ n == 0
  let d := (d.updTile k fun t => { t with state := .restoring, credit := 0, overdue := false,
                                          restore := some { row := 0, audit := audit, rewritten := 0, urgent := urgent } }).rehold k
  if urgent then d else d.countC (k / 64) CC.restoreEligible

/-- The last row is done: READY again, with its statistics (R66, R120, R344). -/
def Dev.endRestore (d : Dev) (k : Nat) (x : Restore) : Dev :=
  let c := k / 64
  let hot := d.power.tKnown && decide (d.power.tNow ≥ 85 * 16)
  let d := d.updTile k fun t =>
    { t with state := .ready, restore := none, urgentSeen := false, restores := t.restores + 1,
             sinceAudit := if x.audit then 0 else min 255 (t.sinceAudit + 1),
             rewrites := if hot then (x.rewritten :: t.rewrites).take 64 else t.rewrites }
  let d := (d.rehold k).countC c CC.tileRestore
  let d := if x.audit then d.countC c CC.auditRun else d
  let h := (d.tile k).rewrites
  if h.length = 64 ∧ h.sum > 24 * 64 then d.ageTile k else d

/-- The programming and audit unit may read the image that tile `k` holds or is to hold (R230). -/
def Dev.goldenOpen (d : Dev) (k : Nat) : Bool :=
  match d.holderOf (k / 64), d.imageOf k with
  | some p, some x => d.unitMay p (d.imageBase x.1 (k / 64) x.2) 132096
  | _, _ => true

/-- The levels that the golden image gives physical row `r`: of the logical row that it holds, a staged remap counted, or 0 for an unused
spare; `may`: the image may be read, else it reads 0 (R55, R57, R120, R230). -/
def Dev.goldenRow (d : Dev) (k r : Nat) (may : Bool) : List Int :=
  match (d.tile k).rowHeldBy r with
  | none => List.replicate 520 0
  | some l => (List.range 520).map fun j => if may || decide (j ≥ 516) then d.golden k l j else 0

/-- The image row of physical row `r` is read in class C, or the read is refused (R230, R231). -/
def Dev.readGolden (d : Dev) (k r : Nat) (may : Bool) : Dev :=
  if ((d.tile k).rowHeldBy r).isNone then d else if may then d.count DC.stackBytesC 5 else d.refuseAccess ((d.holderOf (k / 64)).getD 0)

/-- Σ x² and Σ x y of a row's verify read, x = 15 w' and y = c − 128 (R135). -/
def readSums (levels : List Int) (codes : List Byte) : Int × Int :=
  (List.range 520).foldl (fun s j =>
    let x := 15 * levels.getD j 0
    (s.1 + x * x, s.2 + x * (((codes.getD j 128).toNat : Int) - 128))) (0, 0)

/-- A restore's verify read of a row joins the statistics for the tile's next calibration (R135, R137). -/
def Dev.takeRead (d : Dev) (k r : Nat) (levels : List Int) (codes : List Byte) : Dev :=
  let new := readSums levels codes
  (d.updTile k fun t =>
    let old := SMap.get (0, 0) t.rowStats r
    { t with rowStats := SMap.put (0, 0) t.rowStats r (old.1 + new.1, old.2 + new.2) }).newStatistics k

/-- The time of one row slot in ns: a verify read of 54, 74 for each write-verify iteration of a rewrite, 592 for each spare row written (R61). -/
def slotTime (iterations spares : Nat) : Nat := 54 + 74 * iterations + 592 * spares

/-- A row slot of tile `k` begins, after the one before it, and takes `n` ns, for which an evaluation waits (R61, R62). -/
def Dev.takeSlot (d : Dev) (k n : Nat) : Dev :=
  d.updTile k fun t => { t with rowUntil := BitVec.ofNat 64 (max d.now.toNat t.rowUntil.toNat + n) }

/-- One row slot of a restore in progress (R60, R61, R120, R121). A row whose rewrite failed twice stays in use until the boundary that brings its
remap into force, and R57 does not say which levels its cells then hold: the model keeps the levels from before the rewrite
(DESIGN CHOICE, log 164). -/
def Dev.restoreSlot (d : Dev) (k : Nat) (x : Restore) (codes : List Byte) (reads : List (List Byte)) : Dev :=
  let c := k / 64
  let next := fun (d : Dev) (x : Restore) =>
    if x.row + 1 ≥ 520 then d.endRestore k x else d.updTile k fun t => { t with restore := some { x with row := x.row + 1 } }
  if (d.tile k).mappedOut x.row then next (d.takeSlot k (slotTime 0 0)) x
  else
    let levels := (List.range 520).map fun j => nearestLevel (codes.getD j 128).toNat
    let d := d.takeRead k x.row levels codes
    let may := d.goldenOpen k
    let wrong := x.audit && levels != d.goldenRow k x.row may
    let d := if x.audit then d.readGolden k x.row may else d
    if wrong then (d.countC c CC.auditMismatch).failTile k 2 4 0
    else
      let moved := (List.range 520).any fun j => decide ((levelDev (codes.getD j 128).toNat (levels.getD j 0)).natAbs ≥ 4)
      if moved then
        let w := writeRow levels reads
        let d := (d.countC c CC.tileRestoreRewrite).countC c CC.tileProgIter w.2.1
        let x := { x with rewritten := x.rewritten + 1 }
        if w.1 then next ((d.setRow k x.row levels).takeSlot k (slotTime w.2.1 0)) x
        else
          let y := d.remapRow k x.row levels 9 [] w.2.2.2
          if y.2.goesOn then next (y.1.takeSlot k (slotTime w.2.1 y.2.spares)) x else y.1.failTile k 7 0 0
      else next (d.takeSlot k (slotTime 0 0)) x

/-- RESTORE_ROW: one row slot; the first begins the restore when the credit allows. An urgent restore waits for the last code of an
evaluation that has begun and runs on; another reads a row only under the gap rule. `due`: the sequencer shows an evaluation of the tile due
within 54 ns (R60, R62, R68, R76, R116, R117). -/
def execRestoreRow (tile : Nat) (due : Bool) (row : RowReads) (s : State) : Out := s.on fun d =>
  let d := d.turnUrgent tile
  let t := d.tile tile
  let urgent := d.restoreFirst tile
  if !t.evals.isEmpty || !(urgent || d.gap tile due) then d
  else match t.restore with
    | some x => d.restoreSlot tile { x with urgent := urgent } row.codes row.verify
    | none =>
      if t.state = .ready ∧ t.credit * 100 ≥ d.earlyUrgent.1 then
        let x := d.ask tile 1 (if urgent then 0 else 3)
        if x.2 then
          let d := x.1.beginRestore tile urgent
          match (d.tile tile).restore with
          | some x => d.restoreSlot tile x row.codes row.verify
          | none => d
        else x.1
      else d

/-! ### Programming (R55, R57, R58, R130, R331) -/

/-- Tiles that program now (R58). -/
def Dev.programming (d : Dev) : Nat := (d.array.tiles.filter (fun e => e.2.prog.isSome)).length

/-- Programming may be granted in this state of the tile (R66): BLANK; PROGRAMMING, which a base-weight replacement has ordered a tile in service
into; STANDIN under repair. -/
def TileState.programs : TileState → Bool
  | .blank | .programming | .standin => true
  | .off | .verifying | .ready | .restoring | .suspect | .retired => false

/-- PROGRAMMING_START: a tile that waits is granted under the 4,096-tile limit and the budget (R58, R66, R76, R339). -/
def execProgrammingStart (tile : Nat) (s : State) : Out := s.on fun d =>
  let t := d.tile tile
  if t.progWait && t.state.programs && t.prog.isNone && t.evals.isEmpty && !d.power.boHold && decide (d.programming < Config.progMax) then
    let x := d.ask tile 2 2
    if x.2 then
      let d := if t.ruling && !t.recorded then
          x.1.updTile tile fun t => { t with recorded := true, ladder := (d.ltime :: t.ladder).take 3 }
        else x.1
      (d.updTile tile fun t =>
        { t.stop with state := if t.state = .standin then .standin else .programming, repair := if t.state = .standin then 1 else 0,
                      prog := some { row := 0, sums := [], spares := [] }, everReady := false, classes := [], peaks := [], repairDone := none }).rehold tile
    else x.1
  else d

/-- The levels of physical row `r` (R55). -/
def Dev.targetRow (d : Dev) (k r : Nat) : List Int := d.goldenRow k r (d.goldenOpen k)

/-- Adds a row's final verify read to the column sums: n, Σx, Σx², Σy, Σxy of y = c − 128 against x = 15 w. -/
def addSums (sums : List (Int × Int × Int × Int × Int)) (levels : List Int) (codes : List Byte) : List (Int × Int × Int × Int × Int) :=
  (List.range 520).map fun j =>
    let s := sums.getD j (0, 0, 0, 0, 0)
    let x := 15 * levels.getD j 0
    let y : Int := ((codes.getD j 128).toNat : Int) - 128
    (s.1 + 1, s.2.1 + x, s.2.2.1 + x * x, s.2.2.2.1 + y, s.2.2.2.2 + x * y)

/-- Offset and gain trims of a column from its fit y = a + b x (R129, R130; log 25). -/
def trimOf (s : Int × Int × Int × Int × Int) : Int × Int :=
  let det : Int := s.1 * s.2.2.1 - s.2.1 * s.2.1
  let b : Rat := if det = 0 then 1 else ((s.1 * s.2.2.2.2 - s.2.1 * s.2.2.2.1 : Int) : Rat) / (det : Rat)
  let a : Rat := if s.1 = 0 then 0 else (((s.2.2.2.1 : Int) : Rat) - b * ((s.2.1 : Int) : Rat)) / ((s.1 : Int) : Rat)
  (clampInt (-32) 31 (-ratRound (a * 8)), clampInt (-16) 15 (-ratRound ((b - 1) * 400)))

/-- The delay trim of a row from the ratio of its readings to its levels, a pulse of 3,750 ps in steps of 15.6 ps (R130; log
25). -/
def delayOf (levels : List Int) (codes : List Byte) : Nat :=
  let xs : List (Int × Int) := (List.range 520).map fun j => (15 * levels.getD j 0, ((codes.getD j 128).toNat : Int) - 128)
  let xx : Int := (xs.map fun p => p.1 * p.1).sum
  let xy : Int := (xs.map fun p => p.1 * p.2).sum
  let ratio : Rat := if xx = 0 then 1 else (xy : Rat) / xx
  (clampInt 0 15 (8 - ratRound ((ratio - 1) * 37500 / 156))).toNat

/-- A programming fails for want of a remap entry: a repair fails, any other tile takes R57's course. -/
def Dev.programFails (d : Dev) (k : Nat) : Dev :=
  let t := d.tile k
  let d := (d.updTile k fun t => { t with prog := none }).rehold k
  if t.state = .standin then (d.logTile k 7 0 1 0).repairEnds k false
  else if t.ruling then (d.suspectTile k 7 1 0).updTile k fun t => { t with recorded := true, repairDone := some false }
  else d.failTile k 7 1 0

/-- The last row is within its window: the trims are set at once and the verification test is due, which begins as the budget admits it
(R66, R74, R76, R130). -/
def Dev.programEnds (d : Dev) (k : Nat) (p : Programming) : Dev :=
  let sums := p.spares.foldl (fun s e => match e.2 with | some x => addSums s x.1 x.2 | none => s) p.sums
  let trims := (List.range 520).foldl (fun m j => SMap.put (0, 0) m j (trimOf (sums.getD j (0, 0, 0, 0, 0)))) []
  ((d.updTile k fun t => { t with state := if t.state = .standin then .standin else .verifying,
                                  repair := if t.state = .standin then 2 else 0, prog := none, colTrim := trims }).rehold k).beginTest k

/-- The final verify read of a row: its delay trim, and its place in the columns' sums. A spare row that a remap writes again later has the
read of its last writing (R55, R57, R130). -/
def Dev.takeVerify (d : Dev) (k : Nat) (p : Programming) (r : Nat) (levels : List Int) (codes : List Byte) : Dev × Programming :=
  (d.updTile k fun t => { t with rowTrim := SMap.put 8 t.rowTrim r (delayOf levels codes) },
    if r < 512 then { p with sums := addSums p.sums levels codes } else { p with spares := SMap.put none p.spares r (some (levels, codes)) })

/-- PROGRAM_ROW: the next row is written and verified until it lies in the pass window, or it fails (R55 to R57). No pulse
starts during a brown-out hold (R331). -/
def execProgramRow (tile : Nat) (verify : List (List Byte)) (s : State) : Out := s.on fun d =>
  match (d.tile tile).prog with
  | none => d
  | some p =>
    if d.power.boHold then d
    else
      let next := fun (d : Dev) (p : Programming) =>
        if p.row + 1 ≥ 520 then d.programEnds tile { p with row := p.row + 1 }
        else d.updTile tile fun t => { t with prog := some { p with row := p.row + 1 } }
      if (d.tile tile).mappedOut p.row then next d p
      else
        let levels := d.targetRow tile p.row
        let w := writeRow levels verify
        let d := (d.readGolden tile p.row (d.goldenOpen tile)).countC (tile / 64) CC.tileProgIter w.2.1
        if w.1 then
          let x := (d.setRow tile p.row levels).takeVerify tile p p.row levels w.2.2.1
          next x.1 x.2
        else
          let y := d.remapRow tile p.row levels 9 [] w.2.2.2
          if y.2.goesOn then
            let x := match y.2.written with | some e => y.1.takeVerify tile p e.1 levels e.2 | none => (y.1, p)
            next x.1 x.2
          else y.1.programFails tile

/-! ### The verification test (R59, R66, R115, R120, R128, R131, R132, R474) -/

/-- What a tile that reaches READY after programming starts from. Until its first calibration ends, its drift is measured from the start
estimates and its interval from here, which R134 leaves open (DESIGN CHOICE, log 125). -/
def Dev.freshTile (d : Dev) (k : Nat) : Dev :=
  let start := match d.auditLog2 with | some n => k % 2 ^ n | none => 0
  (d.updTile k fun t =>
    let t := { t with credit := ((k % 64 : Nat) : Rat) / 256, overdue := false, urgentSeen := false, restores := start, sinceAudit := min 255 start,
                      est := Estimate.start, calEst := Estimate.start, obs := 0, qSq := 1 / 4, everReady := true, degraded := false,
                      lfsr := 0x8000 ||| BitVec.ofNat 16 k, shadowCol := 0, shadowSeen := 0, shadowLog := 0, samples := [],
                      residuals := [], rowStats := [], staged := none, calAt := d.now }
    t.newWindow d.shadowLog2).countC (k / 64) CC.refRestart

/-- Eight bits of the test's LFSR, the first drawn as bit 7, and its state after them (R59). -/
def testByte : Nat → Nat → Nat → Nat × Nat
  | 0, state, v => (state, v)
  | n + 1, state, v =>
    let b := (state / 2 ^ 30 + state / 2 ^ 27) % 2
    testByte n ((2 * state + b) % 2 ^ 31) (2 * v + b)

/-- A test mantissa: the byte in two's complement, −128 as −127 (R59). -/
def testMantissa (v : Nat) : Int := if v < 128 then v else if v = 128 then -127 else (v : Int) - 256

/-- `n` mantissas from an LFSR state, and the state after them. -/
def testVector : Nat → Nat → List Int × Nat
  | 0, state => ([], state)
  | n + 1, state =>
    let x := testByte 8 state 0
    let y := testVector n x.1
    (testMantissa x.2 :: y.1, y.2)

/-- The halves of `n` test evaluations from an LFSR state: half and input (R48, R59). -/
def testHalves : Nat → Nat → List (Nat × List Int)
  | 0, _ => []
  | n + 1, state =>
    let x := testVector 512 state
    (0, x.1) :: (1, x.1) :: testHalves n x.2

/-- The reference-column check of one nibble of a split half: the first event, as column less 516 and direction (R474). A gain out of
range names column 516 (log 34). -/
def refCheck (est : Estimate) (sigma : Nat) (q2 : Rat) (es : List Int) (codes : List Nat) : Option (Nat × Bool) :=
  let code := fun (c : Nat) => codes.getD (516 + c) 128
  match (List.range 4).find? fun c => isClip (code c) with
  | some c => some (c, code c == 0)
  | none =>
    let ms := (List.range 4).map fun c => ((code c : Int) - 128) * 256
    let fit := refFit est es ms
    if fit.g < 3 / 4 ∨ fit.g > 5 / 4 then some (0, decide (fit.g < 3 / 4))
    else
      let off := fun (c : Nat) =>
        let e : Rat := es.getD c 0
        (ms.getD c 0 : Rat) - (fit.o + fit.g * e + fit.k * e * e / refF)
      ((List.range 4).find? fun c => decide (off c * off c > (sigma ^ 2 : Nat) * q2 * 65536)).map fun c => (c, decide (off c < 0))

/-- One split half of the test: its codes pass the reference-column check and the checksum check, or the first failing check with its
residual. A clip of a data or checksum column is a mismatch of its group (R49, R59, R122, R474; log 34). -/
def Dev.testHalf (d : Dev) (k half : Nat) (a : List Int) (codesH codesL : List Byte) : Dev × Option ((Nat × Bool × Bool × Bool) × Int) :=
  let t := d.tile k
  let vec : EdgeVec := { layer := 0, a := a, et := 0, poison := false, transposed := false, accBase := 0, handle := 0 }
  let ev : Eval := { vec := vec, kind := .normal, split := true, observed := false, classes := List.replicate 520 0, startedAt := 0,
                     replayed := false, reevals := 0, fails := [], firstHalfKept := false }
  let q2 := checkQ2 (if t.everReady then t.qSq else 1 / 4)
  let exp := fun (high : Bool) => refExpected high (some half) a
  let x := d.correctPart k ev (some half) codesH codesL
  let p := x.2
  let ms := (List.range 4).map fun c => ((p.codesH.getD (516 + c) 128 : Int) - 128) * 256
  let est1 := if p.skip then t.est else t.est.enter (refFit t.est (exp true) ms) (t.obs + 1)
  let refs := ((if p.skip then none else refCheck t.est d.tolSigma q2 (exp true) p.codesH).map fun e => (e.1, false, e.2)).or
    ((refCheck est1 d.tolSigma q2 (exp false) p.codesL).map fun e => (e.1, true, e.2))
  let res := (d.table (64 * (k / 64) + ((d.imageOf k).map Prod.snd).getD 0)).residues
  let r := fun (i g : Nat) => SMap.get 0 res (4 * i + g)
  let H := p.pu true ev.classes
  let L := p.pu false ev.classes
  let fails := (if p.skip then [] else failedGroups true (some half) a r d.tolSigma q2 ev.classes H)
    ++ failedGroups false (some half) a r d.tolSigma q2 ev.classes L
  (x.1, match refs with
    | some e => some ((e.1, e.2.1, e.2.2, true), 0)
    | none => match (p.clips 516).head? with
      | some j =>
        let low := p.skip || !isClip (p.codesH.getD j 128)
        let g := if j < 512 then j / 128 else j - 512
        let e := residual (!low) (some half) a r (if low then L else H) g
        some ((g, low, decide (e < 0), false), e)
      | none => fails.head?)

/-- The halves of the test in turn, up to the first failing check (R59). -/
def Dev.testRun (d : Dev) (k : Nat) : List ((Nat × List Int) × (List Byte × List Byte)) → Dev × Option ((Nat × Bool × Bool × Bool) × Int)
  | [] => (d, none)
  | x :: xs =>
    let y := d.testHalf k x.1.1 x.1.2 x.2.1 x.2.2
    match y.2 with
    | some f => (y.1, some f)
    | none => y.1.testRun k xs

/-- The verification test of physical tile `k` on its converters' codes, high and low of each of the 32 halves. A programmed tile's
estimates start afresh; a tile in a sweep keeps its own (R59, R126, R128). -/
def Dev.verifyTile (d : Dev) (k : Nat) (codes : List (List Byte × List Byte)) : Dev × Option ((Nat × Bool × Bool × Bool) × Int) :=
  let d := if (d.tile k).everReady then d else d.updTile k fun t => { t with est := Estimate.start, obs := 0 }
  d.testRun k ((testHalves 16 (2 ^ 30 + k % 2 ^ 15)).zip (codes ++ List.replicate 32 ([], [])))

/-- A code of an evaluation or a half clips; a skipped high nibble has no codes (R41, R47, R77). -/
def halfClips (skip : Bool) (codesH codesL : List Byte) : Bool :=
  (!skip && codesH.any fun c => isClip c.toNat) || codesL.any fun c => isClip c.toNat

/-- The verification test of a tile ends: READY, or the first failing check takes its course (R59, R66, R338, R339, R371). -/
def Dev.testEnds (d : Dev) (k : Nat) (sweep : Bool) (failed : Option ((Nat × Bool × Bool × Bool) × Int)) : Dev :=
  let t := d.tile k
  match failed with
  | none =>
    if sweep then (d.updTile k fun t => { t with state := .ready }).refloor (k / 64)
    else
      let d := d.freshTile k
      if t.state = .standin then d.updTile k fun t => { t with repair := 0, repairDone := some true }
      else (d.updTile k fun t => { t with state := .ready, repairDone := if t.ruling then some true else none }).refloor (k / 64)
  | some f =>
    let detail := failDetail f.1 f.2
    if t.state = .standin then (d.logTile k 1 0 1 detail).repairEnds k false
    else if t.ruling && !sweep then (d.suspectTile k 1 1 detail).updTile k fun t => { t with recorded := true, repairDone := some false }
    else d.failTile k 1 (if sweep then 2 else 1) detail

/-- VERIFICATION_TEST: the 16 split evaluations, once begun, have run with these codes by half; the first failing check is recorded, and the
next test of the cluster may begin (R59, R66, R74, R76, R338, R339, R371). -/
def execVerificationTest (tile : Nat) (codes : List (List Byte × List Byte)) (s : State) : Out := s.on fun d =>
  let d := d.beginTest tile
  let t := d.tile tile
  let sweep := d.power.sweepLeft.contains tile
  if t.testing && !d.power.boHold then
    let halves := testHalves 16 (2 ^ 30 + tile % 2 ^ 15)
    let skips := (halves.filter fun x => nibbleSkip (some x.1) x.2).length
    let clips := ((halves.zip codes).filter fun x => halfClips (nibbleSkip (some x.1.1) x.1.2) x.2.1 x.2.2).length
    let x := d.verifyTile tile codes
    let d := ((x.1.updTile tile fun t => { t with testing := false }).rehold tile).countC (tile / 64) CC.tileEval 32
    let d := if skips = 0 then d else d.countC (tile / 64) CC.tileNibbleSkip skips
    let d := if clips = 0 then d else d.countC (tile / 64) CC.tileClipX1 clips
    let d := d.testEnds tile sweep x.2
    let d := if sweep then d.leaveSweep [tile] else d
    d.nextTest (tile / 64)
  else d

end Sys2Proof.Machine
end

