-- ==== Sys2Proof/Machine/Calibrate.lean ====
section
/-! DEFINITION. Calibration, trims and the quality summary (R128 to R137, R140, R141, R260). -/

namespace Sys2Proof.Machine

/-- Changes one trim: at most ±2 steps, clipped to its range; answers the value and whether it was limited (R135). -/
def limitTrim (lo hi old change : Int) : Int × Bool :=
  let c := clampInt (-2) 2 change
  let v := clampInt lo hi (old + c)
  (v, decide (c ≠ change) || decide (v ≠ old + c))

/-- The fit r = a + b · X / F over one column's residuals (R135). -/
def residualFit (rs : List (Rat × Int)) : Rat × Rat :=
  let n : Rat := rs.length
  let x := fun (p : Rat × Int) => (p.2 : Rat) / refF
  let sx := (rs.map x).sum
  let sy := (rs.map Prod.fst).sum
  let sxx := (rs.map fun p => x p * x p).sum
  let sxy := (rs.map fun p => x p * p.1).sum
  let det := n * sxx - sx * sx
  if det = 0 then (sy / n, 0)
  else
    let b := (n * sxy - sx * sy) / det
    ((sy - b * sx) / n, b)

/-- Steps of the delay trim that a row's ratio, relative to the tile's mean, calls for: the pulse of a verify read is 3,750 ps, a step 15.6
ps (R56, R129, R135). -/
def rowChange (rel : Rat) : Int := -ratRound ((rel - 1) * 37500 / 156)

/-- The delay trims that a calibration stages, and how many changes it limited. A row without a read of nonzero levels keeps its trim, and
so do all rows where the mean ratio is 0, for which R135 gives no relation (R135; log 129). -/
def Tile.newRowTrims (t : Tile) : SMap Nat × Nat :=
  let ratios := (t.rowStats.filter fun e => e.2.1 != 0).map fun e => (e.1, (e.2.2 : Rat) / (e.2.1 : Rat))
  let mean : Rat := (ratios.map Prod.snd).sum / (ratios.length : Nat)
  if mean = 0 then (t.rowTrim, 0)
  else ratios.foldl (fun m e =>
    let v := limitTrim 0 15 ((SMap.get (8 : Nat) t.rowTrim e.1 : Nat) : Int) (rowChange (e.2 / mean))
    (SMap.put 8 m.1 e.1 v.1.toNat, m.2 + (if v.2 then 1 else 0))) (t.rowTrim, 0)

/-- The column trims that a calibration stages, and how many changes it limited (R135). -/
def Tile.newColTrims (t : Tile) : SMap (Int × Int) × Nat :=
  (List.range 512).foldl (fun m j =>
    let rs := (t.residuals.filter (fun e => e.1 == j)).map (fun e => (e.2.1, e.2.2))
    if rs.length < 8 then m
    else
      let f := residualFit rs
      let old := SMap.get (0, 0) t.colTrim j
      let o := limitTrim (-32) 31 old.1 (-ratRound (f.1 * 8))
      let g := limitTrim (-16) 15 old.2 (-ratRound (f.2 * 400))
      (SMap.put (0, 0) m.1 j (o.1, g.1), m.2 + (if o.2 then 1 else 0) + (if g.2 then 1 else 0))) (t.colTrim, 0)

/-- Completes the CALIBRATE commands of job `p` that wait for nothing more; another member reports to the lead (R260; log 50). -/
def Dev.finishCalibrates (d : Dev) (p : Nat) : Dev :=
  let done := fun (c : CalCmd) => c.tiles.isEmpty && c.waiting.isEmpty
  let cs := (d.job p).calibrates
  let d := d.updJob p fun j => { j with calibrates := cs.filter fun c => !done c }
  d.forAll (cs.filter done) fun d c =>
    if d.isLead p then d.complete c.origin 0x60 St.success (BitVec.ofNat 32 c.count)
    else d.send (.bulk (.calReport p d.sys.position c.count))

/-- Takes a calibrated tile off every CALIBRATE command. -/
def Dev.calDone (d : Dev) (k : Nat) : Dev :=
  d.forAll (d.serve.jobs.map Prod.fst) fun d p =>
    (d.updJob p fun j => { j with calibrates := j.calibrates.map fun c => { c with tiles := c.tiles.erase k } }).finishCalibrates p

/-- CAL_INTERVAL_TRIGGER: CAL_MAX_IVL since the tile's last calibration (R134). -/
def execCalIntervalTrigger (tile : Nat) (s : State) : Out := s.on fun d =>
  if d.calReady tile ∧ d.since (d.tile tile).calAt ≥ d.calMaxIvl * 1000000000 then
    (d.calibrateTiles [tile] 3).count DC.calTrigIvl
  else d

/-- CALIBRATION_COMPLETE: the cluster's engine has computed the new trims of the tile that it has in hand; they are staged as one set
unless FREEZE is set, and the engine takes the next tile (R135 to R137). What counts as a residual since the last calibration while a set
is only staged is open: the statistics stay, with the trims they were taken under, until the set takes effect, and FREEZE drops them here
(DESIGN CHOICE, log 128). -/
def execCalibrationComplete (cluster tile : Nat) (s : State) : Out := s.on fun d =>
  let k := 64 * cluster + tile
  let t := d.tile k
  if d.calTile cluster = some k then
    let cols := t.newColTrims
    let rows := t.newRowTrims
    let n := cols.2 + rows.2
    let d := d.setTile k { t with calibrating := false, calEst := t.est, calAt := d.now, degraded := false,
                                  residuals := if d.freeze then [] else t.residuals
                                  rowStats := if d.freeze then [] else t.rowStats
                                  staged := if d.freeze then t.staged else some (cols.1, rows.1) }
    let d := d.countC cluster CC.calTile
    let d := if n = 0 then d else d.countC cluster CC.trimLimited n
    let d := (d.takeCal cluster).calDone k
    let d := { d with array := { d.array with calWide := d.array.calWide.erase k } }
    if d.array.calPending && !d.calibratingWide then d.calibrateDevice else d
  else d

/-- Staged trims of a tile take effect, the weights of its estimates restart, and the statistics since the last calibration start again
(R128, R135, R136; log 128). -/
def Dev.applyTrims (d : Dev) (k : Nat) : Dev :=
  let t := d.tile k
  match t.staged with
  | none => d
  | some x => (d.setTile k { t with colTrim := x.1, rowTrim := x.2, staged := none, residuals := [], rowStats := [], obs := 0 }).countC
      (k / 64) CC.refRestart

/-- IDLE_TRIM_APPLY: no step has been in progress for 50 µs (R136). -/
def execIdleTrimApply (s : State) : Out := s.on fun d =>
  if !d.busy ∧ d.since d.array.idleSince ≥ 50000 then d.forAll (d.array.tiles.map Prod.fst) Dev.applyTrims else d

/-- Q in U4.12 from Q², saturating; a value between two codes is rounded as the model's free choice says (R132; log 9). -/
def qCode (q2 : Rat) : Nat :=
  let v := q2 * (4096 * 4096)
  let n := Nat.sqrt (v.num / v.den).toNat
  let exact := ((n * n : Nat) : Rat) = v
  min 65535 (if exact then n else if Config.roundUp n then n + 1 else n)

/-- The READY tiles in descending order of Q. R140 does not say which of two with equal Q comes first, nor which stays among the 32: the lower
physical tile does (DESIGN CHOICE, log 165). -/
def insertWorst (x : Nat × Rat) : List (Nat × Rat) → List (Nat × Rat)
  | [] => [x]
  | y :: ys => if x.2 > y.2 then x :: y :: ys else y :: insertWorst x ys

/-- QUAL_SUMMARY_REFRESH: every 1 ms (R133, R140). -/
def execQualSummaryRefresh (s : State) : Out := s.on fun d =>
  let qs := (d.array.tiles.filter (fun e => decide (e.2.state = .ready))).map (fun e => (e.1, e.2.qSq))
  let worst := qs.foldl (fun w x => (insertWorst x w).take 32) []
  let mean : Rat := if qs.isEmpty then 0 else (qs.map Prod.snd).sum / qs.length
  let top : Rat := match worst with | [] => 0 | x :: _ => x.2
  { d with array := { d.array with
      qualSum := BitVec.ofNat 16 (qCode top) ++ BitVec.ofNat 16 (qCode mean)
      qualWorst := worst.map fun x => (1 : BitVec 1) ++ BitVec.ofNat 15 x.1 ++ BitVec.ofNat 16 (qCode x.2) } }

end Sys2Proof.Machine
end

