-- ==== Sys2Proof/Machine/Float.lean ====
section
/-! DEFINITION. Binary32 arithmetic on exact rationals, with exp and ln (R145, R155, R197). -/

namespace Sys2Proof.Machine

/-! ### Binary32 (R197) -/

/-- 2^k as a rational. -/
def pow2 (k : Int) : Rat := if k ≥ 0 then (((2 : Nat) ^ k.toNat : Nat) : Rat) else 1 / (((2 : Nat) ^ (-k).toNat : Nat) : Rat)

/-- floor(log2 |x|) of a nonzero rational. -/
def ratLog2 (x : Rat) : Int :=
  let e : Int := (x.num.natAbs.log2 : Int) - x.den.log2
  let y : Rat := (x.num.natAbs : Rat) / x.den
  if y < pow2 e then e - 1 else if y ≥ pow2 (e + 1) then e + 1 else e

/-- The largest binary32 number. -/
def f32Max : Rat := pow2 128 - pow2 104

/-- x rounded to binary32: nearest, ties to even, saturating (R197). -/
def f32 (x : Rat) : Rat :=
  if x = 0 then 0
  else
    let q := pow2 (max (ratLog2 x) (-126) - 23)
    let y := (ratRound (x / q) : Rat) * q
    if y > f32Max then f32Max else if y < -f32Max then -f32Max else y

/-- The value of a finite binary32 word. -/
def f32Value (w : U32) : Rat :=
  let e := fieldNat w 30 23
  let m : Rat := if e = 0 then (fieldNat w 22 0 : Rat) * pow2 (-149)
    else ((2 ^ 23 + fieldNat w 22 0 : Nat) : Rat) * pow2 ((e : Int) - 150)
  if w.getLsbD 31 then -m else m

/-- The value of a finite BF16 word. -/
def bf16Value (w : U16) : Rat := (bf16q w : Rat) * pow2 ((bf16e w : Int) - 134)

/-- Bits of the fixed-point numbers that bound exp and ln. -/
def fixBits : Nat := 320

/-- A value known within 2^-290 is rounded where that decides it, and is a free choice of the two neighbours otherwise (log
11). -/
def roundNear (v : Int) : Rat :=
  let mid : Rat := (v : Rat) / (2 ^ fixBits : Nat)
  let lo := f32 (mid - pow2 (-290))
  let hi := f32 (mid + pow2 (-290))
  if lo = hi then lo else if Config.hardRound v.natAbs then hi else lo

/-- Sum of r^n / n! in fixed point, from term `t` with index `n`. -/
def expSeries (r : Int) : Nat → Int → Nat → Int
  | 0, t, _ => t
  | fuel + 1, t, n => t + expSeries r fuel (t * r / 2 ^ fixBits / (n + 1)) (n + 1)

/-- Squares in fixed point. -/
def squares : Nat → Int → Int
  | 0, x => x
  | k + 1, x => squares k (x * x / 2 ^ fixBits)

/-- exp(x) for x at most 0, correctly rounded: below −110 it lies under half the smallest number (R197). -/
def f32Exp (x : Rat) : Rat :=
  if x = 0 then 1
  else if x < -110 then 0
  else
    let r := (x.num * 2 ^ fixBits) / (256 * x.den : Nat)
    roundNear (squares 8 (expSeries r 60 (2 ^ fixBits) 0))

/-- Sum of z^(2n+1) / (2n+1) in fixed point, from power `p` with index `n`. -/
def atanhSeries (z2 : Int) : Nat → Int → Nat → Int
  | 0, _, _ => 0
  | fuel + 1, p, n => p / (2 * n + 1) + atanhSeries z2 fuel (p * z2 / 2 ^ fixBits) (n + 1)

/-- 2 · atanh(n / d) in fixed point. -/
def twoAtanh (n : Int) (d : Nat) : Int :=
  let z := n * 2 ^ fixBits / d
  2 * atanhSeries (z * z / 2 ^ fixBits) 110 z 0

/-- ln(x) for x at least 1, correctly rounded (R197). -/
def f32Ln (x : Rat) : Rat :=
  if x = 1 then 0
  else
    let k := ratLog2 x
    let m := x / pow2 k
    let z := (m - 1) / (m + 1)
    roundNear (k * twoAtanh 1 3 + twoAtanh z.num z.den)

/-- A binary32 sum, lowest index first. -/
def f32Sum (xs : List Rat) : Rat := xs.foldl (fun s x => f32 (s + x)) 0

/-- One unit in the last place of a binary32 number. -/
def f32Ulp (x : Rat) : Rat := pow2 (max (ratLog2 x) (-126) - 23)

/-- An exponential of attention, of x at most 0: within 2 ULP of the correctly rounded one, a free choice within that (R155, log 12). -/
def attExp (x : Rat) : Rat :=
  let e := f32Exp x
  let k : Int := ((Config.expUlp x % 5 : Nat) : Int) - 2
  let y := if e = 0 then e else e + (k : Rat) * f32Ulp e
  if y < 0 then 0 else f32 y

/-- A value rounded to a format, as the value of its code: nearest, ties to even, saturating (R93). -/
def Fmt.value (f : Fmt) (x : Rat) : Rat :=
  if x = 0 then 0
  else
    let q := pow2 (max (ratLog2 x) (1 - (f.bias : Int)) - f.fracBits)
    let top := ((f.sig f.maxCode).1 : Rat) * pow2 (f.sig f.maxCode).2
    let y := (ratRound (x / q) : Rat) * q
    if y > top then top else if y < -top then -top else y

/-- The value of a significand and exponent. -/
def ratOf (x : Int × Int) : Rat := (x.1 : Rat) * pow2 x.2

end Sys2Proof.Machine
end

