-- ==== Sys2Proof/Machine/Observe.lean ====
section
/-! DEFINITION. Traces, counter pushes and tensor watches (R250, R430 to R440). -/

namespace Sys2Proof.Machine

/-! ### Trace records (R432 to R435) -/

/-- TRACE_CTL in force: EN with a ring, PC_EN, DEV_EN, CL_EN. -/
def Dev.traceOn (d : Dev) (p : Nat) : Bool :=
  (d.regIn64 (Off.traceCtl p)).getLsbD 63 && decide (fieldNat (d.regIn64 (Off.traceRing p)) 45 23 ≠ 0)
def Dev.tracePc (d : Dev) (p : Nat) : Bool := (d.regIn64 (Off.traceCtl p)).getLsbD 62
def Dev.traceDev (d : Dev) (p : Nat) : Bool := (d.regIn64 (Off.traceCtl p)).getLsbD 61
def Dev.traceCl (d : Dev) (p : Nat) : Bool := (d.regIn64 (Off.traceCtl p)).getLsbD 60

/-- PC_LOG2 as it acts (R437). -/
def Dev.pcLog2 (d : Dev) (p : Nat) : Nat :=
  let n := fieldNat (d.regIn64 (Off.traceCtl p)) 59 55
  if 10 ≤ n ∧ n ≤ 24 then n else 16

/-- INTERVAL in µs as it acts (R437). -/
def Dev.traceInterval (d : Dev) (p : Nat) : Nat := max 1 (min 1000 (fieldNat (d.regIn64 (Off.traceCtl p)) 54 45))

/-- TRACE_HOST.LOG2 as it acts; none sends nothing (R437). -/
def Dev.traceLog2 (d : Dev) (p : Nat) : Option Nat :=
  let n := fieldNat (d.regIn (Off.traceHost p)) 4 0
  if 4 ≤ n ∧ n ≤ 20 then some n else none

/-- The step in progress of partition `p`, or the last step ended (R432). -/
def Dev.stepNow (d : Dev) (p : Nat) : U48 := match (d.job p).step with | some s => s.desc.no | none => (d.job p).lastStep

/-- The sample instant lies in a replay or a held step (R432). -/
def Dev.inReplay (d : Dev) (p : Nat) : Bool := match (d.job p).step with | some s => s.desc.replay || s.desc.held | none => false

/-- Units of a record with `k` body words (R434). -/
def recordUnits (k : Nat) : Nat := ceilDiv (32 + 8 * k) 64

/-- TAG of a record of cluster `c` at program counter `pc`, and ADDR_TAG (R433): layer and operator come from the symbol table; R433 gives
none for a word that no range holds, and they are free values there (log 149). -/
def Dev.traceTag (d : Dev) (p c : Nat) (pc : BitVec 20) : U64 × Bool :=
  let j := d.job p
  if j.symbols then
    if j.step.isNone then (0xFFFFFFFF, false)
    else match (d.bank p (((d.commit p).bank).getD 0)).ranges.find? fun r => r.cluster == c && decide (r.first ≤ pc.toNat) && decide (pc.toNat ≤ r.last) with
      | some r => ((0 : BitVec 32) ++ r.operator ++ r.layer, false)
      | none => ((0 : BitVec 32) ++ Config.freeBits d.fresh 32, false)
  else if d.partSecure p then (0, true)
  else (BitVec.ofNat 6 d.sys.position ++ (2 : BitVec 2) ++ BitVec.ofNat 9 c ++ (0 : BitVec 10) ++ (pc.setWidth 37 : BitVec 37), true)

/-- Pages of the stack ring (R431). -/
def Dev.ringPages (d : Dev) (p : Nat) : Nat := 4 * fieldNat (d.regIn64 (Off.traceRing p)) 45 23

/-- First byte of the place `slot` of the stack ring: the pages lie in the ring in turn, from its first block (R431; the order is a DESIGN CHOICE,
log 103). -/
def Dev.ringPageAt (d : Dev) (p slot : Nat) : Nat := 16384 * fieldNat (d.regIn64 (Off.traceRing p)) 22 0 + 4096 * (slot % d.ringPages p)

/-- The header of a record (R432). -/
def TraceRec.head (x : TraceRec) : BitVec 256 :=
  x.tag ++ (0 : BitVec 16) ++ x.step ++ x.time ++ (0 : BitVec 26) ++ BitVec.ofNat 6 x.partition ++ (0 : BitVec 3)
    ++ BitVec.ofNat 9 x.cluster ++ BitVec.ofNat 6 x.position ++ BitVec.ofBool x.replay ++ BitVec.ofBool x.addrTag
    ++ BitVec.ofNat 4 x.units ++ x.type

/-- A list of bytes padded with zeros to `n`. -/
def padTo (n : Nat) (bs : List Byte) : List Byte := bs ++ List.replicate (n - bs.length) 0

/-- A record's bytes, padded to whole units. -/
def TraceRec.bytes (x : TraceRec) : List Byte := padTo (64 * x.units) (bytesOf x.head 32 ++ x.body.flatMap (fun w => bytesOf w 8))

/-- A pad record of one unit (R431, R432; its other fields are 0, log 103). -/
def TraceRec.pad : TraceRec :=
  { type := 0, units := 1, addrTag := false, replay := false, position := 0, cluster := 0, partition := 0, time := 0, step := 0, tag := 0, body := [] }

/-- The 4 KiB of a page: its records, and pad records in the space left (R431). -/
def pageBytes (xs : List TraceRec) : List Byte :=
  (xs ++ List.replicate (64 - (xs.map (·.units)).sum) TraceRec.pad).flatMap TraceRec.bytes

/-- Closes the page being filled (R431, R436). -/
def Ring.closePage (r : Ring) : Ring :=
  if r.page.isEmpty then r else { r with pages := r.pages ++ [{ slot := r.slot, records := r.page }], page := [], slot := r.slot + 1 }

/-- Puts a record in the page being filled; a record never crosses a page (R431). -/
def Ring.put (r : Ring) (now : U64) (x : TraceRec) : Ring :=
  let used := (r.page.map (·.units)).sum
  let r := if used + x.units > 64 then r.closePage else r
  let r := { r with page := r.page ++ [x], pageAt := if r.page.isEmpty then now else r.pageAt }
  if (r.page.map (·.units)).sum = 64 then r.closePage else r

/-- The ring lies whole in a region of kind 5 that the partition may use (R230, R431). -/
def Dev.ringAllowed (d : Dev) (p : Nat) : Bool :=
  let base := fieldNat (d.regIn64 (Off.traceRing p)) 22 0
  let size := fieldNat (d.regIn64 (Off.traceRing p)) 45 23
  (List.range 128).any fun i =>
    let w := d.region i
    rgValid w && rgKind w == 5 && (rgShared w || rgPart w == p) && (d.partSecure p || !rgSecure w)
      && decide (rgBase w ≤ base) && decide (base + size ≤ rgBase w + rgSize w)

/-- The pages of `p`'s ring from place `first` on, as they stand, are written to the stack (R431). -/
def Dev.storePages (d : Dev) (p first : Nat) : Dev :=
  let r := d.traceRing p
  let all : List TracePage := r.pages ++ [{ slot := r.slot, records := r.page }]
  d.forAll (all.filter fun x => decide (first ≤ x.slot) && !x.records.isEmpty) fun d x =>
    d.stackWrite (d.ringPageAt p x.slot) (pageBytes x.records)

/-- Writes a record into the ring of partition `p`. A full ring drops it while a host ring takes pages, and overwrites its
oldest page while none does; the first record after a drop is a loss marker (R436). The stack refuses a ring that the partition
may not use (R230). -/
def Dev.traceRecord (d : Dev) (p : Nat) (x : TraceRec) : Dev :=
  if !d.ringAllowed p then (d.count DC.stackViolation).violation p else
  let r := d.traceRing p
  let size := d.ringPages p
  let need := (if ((r.page.map (·.units)).sum + x.units + (if r.dropped = 0 then 0 else 1)) > 64 then 1 else 0)
  let full := decide (r.pages.length + 1 + need > size)
  let r := if full && (d.traceLog2 p).isNone then { r with pages := r.pages.drop 1 } else r
  if full && (d.traceLog2 p).isSome then
    (d.setTraceRing p { r with dropped := r.dropped + 1, lost := if r.lost = 0xFFFFFFFF then r.lost else r.lost + 1 }).count DC.traceDrop
  else
    let mark : TraceRec := { x with type := 4, units := 1, addrTag := false, cluster := 0, tag := 0, body := [BitVec.ofNat 64 r.dropped] }
    let r' := if r.dropped = 0 then r else { r.put d.now mark with dropped := 0 }
    let d := (d.setTraceRing p (r'.put d.now x)).storePages p r.slot
    (d.count DC.traceRecords (if r.dropped = 0 then 1 else 2)).count DC.stackBytesD (x.units + if r.dropped = 0 then 0 else 1)

/-- The header fields that every record of partition `p` shares at this instant. -/
def Dev.traceHead (d : Dev) (p : Nat) : TraceRec :=
  { type := 0, units := 1, addrTag := false, replay := d.inReplay p, position := d.sys.position, cluster := 0, partition := p,
    time := d.now, step := d.stepNow p, tag := 0, body := [] }

/-- TRACE_SAMPLE: the records of one sample instant, all values latched together (R434). -/
def execTraceSample (partition : Nat) (s : State) : Out := s.on fun d =>
  if d.traceOn partition ∧ d.now.toNat % (1000 * d.traceInterval partition) = 0 then
    let at_ := d
    let sel := d.regIn64 (Off.traceSel partition)
    let ks := (List.range 64).filter (fun k => sel.getLsbD k)
    let d := if d.traceCl partition then
        d.forAll (d.partClusters partition) fun d c =>
          let tag := d.traceTag partition c (d.cluster c).sequencer.pc
          d.draw.traceRecord partition { at_.traceHead partition with
            type := 1, units := recordUnits ks.length, cluster := c, tag := tag.1, addrTag := tag.2, body := ks.map (at_.counterC c) }
      else d
    if d.traceDev partition then
      let es := (List.range 16).map fun i => fieldNat (d.regIn (Off.traceDev partition + 4 * (i / 2))) (16 * (i % 2) + 15) (16 * (i % 2))
      let ns := (es.filter (fun e => decide (e ≥ 0x8000))).map (· % 1024)
      d.traceRecord partition { at_.traceHead partition with type := 2, units := recordUnits ns.length, body := ns.map at_.counter }
    else d
  else d

/-- The stall code that a sample reports (R435). -/
def Dev.stallCode (d : Dev) (p c : Nat) : BitVec 4 :=
  let q := (d.cluster c).sequencer
  if (d.job p).step.isNone then 0 else if q.stall ≠ 0 then q.stall else if d.inReplay p then 7 else 0

/-- The PC sample word (R435). -/
def pcWord (delta : Nat) (stall : BitVec 4) (pc : BitVec 20) : U32 := BitVec.ofNat 8 (min 255 delta) ++ stall ++ pc

/-- PC_SAMPLE: one sample of a sequencer; eight make a PC batch record (R435). -/
def execPcSample (cluster : Nat) (s : State) : Out := s.on fun d =>
  match d.clusterOwner cluster with
  | none => d
  | some p =>
    if d.traceOn p ∧ d.tracePc p ∧ d.now.toNat % 2 ^ d.pcLog2 p = 0 then
      let q := (d.cluster cluster).sequencer
      let d := d.countC cluster CC.pcSamples
      let r := d.traceRing p
      let tag := d.traceTag p cluster q.pc
      let old := SMap.get none r.batches cluster
      let b : PcBatch := old.getD { time := d.now, step := d.stepNow p, replay := d.inReplay p, tag := tag.1, addrTag := tag.2, words := [] }
      let d := if old.isNone then d.draw else d
      let b := { b with words := b.words ++ [pcWord (d.stepNow p - b.step).toNat (d.stallCode p cluster) q.pc] }
      if b.words.length < 8 then d.setTraceRing p { r with batches := SMap.put none r.batches cluster (some b) }
      else
        let d := d.setTraceRing p { r with batches := SMap.put none r.batches cluster none }
        let w := fun (i : Nat) => b.words.getD (2 * i + 1) 0 ++ b.words.getD (2 * i) 0
        d.traceRecord p { d.traceHead p with
          type := 3, units := 1, cluster := cluster, time := b.time, step := b.step, replay := b.replay, tag := b.tag, addrTag := b.addrTag,
          body := (List.range 4).map w }
    else d

/-- The gateway writes a page into the partition's host ring, or holds it back while the ring is full (R436). -/
def Dev.tracePageArrive (d : Dev) (p : Nat) (bytes : List Byte) : Dev :=
  let r := d.traceRing p
  match d.traceLog2 p with
  | none => d.setTraceRing p { r with heldBack := r.heldBack ++ [bytes] }
  | some n =>
    if (r.wptr - d.reg (Off.tracePtr p + 4)).toNat ≥ 2 ^ n then d.setTraceRing p { r with heldBack := r.heldBack ++ [bytes] }
    else
      let base := d.regIn64 (Off.traceHost p) &&& 0xFFFFFFFFFFFFF000
      (d.setTraceRing p { r with wptr := r.wptr + 1 }).post (.tracePage p (base + BitVec.ofNat 64 (4096 * (r.wptr.toNat % 2 ^ n))) bytes)

/-- Space returned in the host ring: the pages held back are written, oldest first (R436). -/
def Dev.traceRelease (d : Dev) (p : Nat) : Dev :=
  let held := (d.traceRing p).heldBack
  (d.setTraceRing p { d.traceRing p with heldBack := [] }).forAll held fun d b => d.tracePageArrive p b

/-- A page reaches the gateway: it follows every page held back (R436). -/
def Dev.tracePageIn (d : Dev) (p : Nat) (bytes : List Byte) : Dev :=
  let r := d.traceRing p
  (d.setTraceRing p { r with heldBack := r.heldBack ++ [bytes] }).traceRelease p

/-- The host ring is full or holds pages back (known at the gateway). -/
def Dev.hostRingFull (d : Dev) (p : Nat) : Bool :=
  d.sys.primary && (!(d.traceRing p).heldBack.isEmpty || (match d.traceLog2 p with
    | some n => decide (((d.traceRing p).wptr - d.reg (Off.tracePtr p + 4)).toNat ≥ 2 ^ n)
    | none => true))

/-- TRACE_PAGE_SEND: a full page, or one whose first record is 1 ms old, leaves toward the host (R436). -/
def execTracePageSend (partition : Nat) (s : State) : Out := s.on fun d =>
  let d := if d.sys.primary then d.traceRelease partition else d
  if (d.traceLog2 partition).isNone ∨ d.hostRingFull partition then d
  else
    let r := d.traceRing partition
    let r := if r.pages.isEmpty && !r.page.isEmpty && decide (d.since r.pageAt ≥ 1000000) then r.closePage else r
    match r.pages with
    | [] => d
    | pg :: rest =>
      let d := (d.setTraceRing partition { r with pages := rest }).count DC.tracePages
      let bytes := pageBytes pg.records
      if d.sys.primary then d.tracePageIn partition bytes else d.send (.bulk (.tracePage partition bytes))

/-! ### The counter mirror (R250) -/

/-- Replaces the slice of a position, then sets its CTR_TIME. -/
def Dev.mirrorCounters (d : Dev) (pos : Nat) (value : Nat → U64) : Dev :=
  let kept := SMap.keep (fun k => k / 1024 != pos) d.host.ctrMirror
  let new := (List.range 1024).foldl (fun m n => SMap.put 0 m (1024 * pos + n) (value n)) kept
  { d with host := { d.host with ctrMirror := new, ctrTime := SMap.put 0 d.host.ctrTime pos d.us } }

/-- COUNTER_PUSH: a member pushes its device counters once per millisecond, to a standby in sync too (R250, R296). -/
def execCounterPush (s : State) : Out := s.on fun d =>
  let d := if d.sys.primary then d.mirrorCounters d.sys.position d.counter else d
  if d.sys.primary && !d.sys.standbySync then d
  else d.send (.counters d.sys.position d.obs.dev ((List.range 64).map fun p => (d.traceRing p).lost))

/-- COUNTER_PUSH_RECEIVE, a MGMT message (R250, R284, R437). -/
def execCounterPushReceive (pos : OnChannel Nat) (report : CounterReport) (s : State) : Out := s.onChannel 3 pos.vc fun d =>
  let pos := pos.msg
  if d.sys.primary || d.sys.standby then
    let d := d.mirrorCounters pos (fun n => report.counters.getD n 0)
    { d with host := { d.host with traceLost := (List.range 64).foldl (fun m n => SMap.put 0 m (64 * pos + n) (report.lost.getD n 0)) d.host.traceLost } }
  else d

/-! ### Tensor watches (R438 to R440) -/

/-- The lowest index of partition `p` with no watch armed. -/
def Dev.freeWatch (d : Dev) (p : Nat) : Option Nat := (List.range 16).find? fun w => (d.watch p w).isNone

/-- The bytes that an address watch dumps, in their stored form (R438). -/
def Dev.addressBytes (d : Dev) (a : AddrOp) (n : Nat) : List Byte :=
  let x := d.cluster a.cluster
  if a.space = 0 then (List.range n).map fun i => d.byte (d.mapAddr (a.offset + i))
  else if a.space = 1 then
    (List.range n).map fun i => (SMap.get (0 : BitVec 4096) x.spad ((a.offset + i / 512) % 512)).extractLsb' (8 * (i % 512)) 8
  else (List.range n).map fun i => (SMap.get (0 : U32) x.program ((a.offset + i / 4) % 65536)).extractLsb' (8 * (i % 4)) 8

/-- An address watch fires: it dumps BUF_LEN − 64 bytes (R438; log 46). -/
def Dev.fireAddress (d : Dev) (p w : Nat) : Dev :=
  match d.watch p w with
  | none => d
  | some x =>
    let part : DumpPart := { position := d.sys.position, cluster := if x.spec.addr.space = 0 then 0x1FF else x.spec.addr.cluster,
                             format := 5, row0 := 0, rows := 1, col0 := 0, cols := x.spec.bufLen - 64,
                             data := d.addressBytes x.spec.addr (x.spec.bufLen - 64) }
    (d.setWatch p w (some { x with parts := [part], fired := true, step := d.stepNow p })).count DC.watchFired

/-- The watch matches an output block (R438). -/
def Watch.matches (x : Watch) (step : U48) (t : BlockTag) : Bool :=
  !x.fired && !x.spec.byAddress && x.spec.symbol == t.symbol
    && (if x.spec.mode = 1 then !before48 step x.fromStep
        else if x.spec.mode = 2 then t.layer == fieldNat x.spec.n 15 0 else true)
    && (!x.spec.filter || x.spec.handle == t.handle)

/-- An armed watch of partition `p` matches the block. -/
def Dev.watched (d : Dev) (p : Nat) (t : BlockTag) : Bool :=
  (List.range 16).any fun w => match d.watch p w with | some x => x.matches (d.stepNow p) t | none => false

/-- Copies an output block to every watch that matches it (R438). -/
def Dev.captureBlock (d : Dev) (p c : Nat) (t : BlockTag) (format : BitVec 4) (cols : Nat) (data : List Byte) : Dev :=
  d.forAll (List.range 16) fun d w =>
    match d.watch p w with
    | none => d
    | some x =>
      if x.matches (d.stepNow p) t then
        let part : DumpPart := { position := d.sys.position, cluster := c, format := format, row0 := t.tokenRow, rows := 1,
                                 col0 := t.col0, cols := cols, data := data }
        d.setWatch p w (some { x with parts := x.parts ++ [part], step := d.stepNow p })
      else d

/-- At the end of a step: parts of a marked step are discarded, others fire their watch and travel to where the dump is
written (R438). -/
def Dev.watchBoundary (d : Dev) (p : Nat) (marked : Bool) : Dev :=
  d.forAll (List.range 16) fun d w =>
    match d.watch p w with
    | none => d
    | some x =>
      if x.spec.byAddress && !x.fired && x.spec.addr.position == d.sys.position then d.fireAddress p w
      else if x.fired || x.parts.isEmpty then d
      else if marked then (d.setWatch p w (some { x with parts := [] })).count DC.watchDeferred
      else
        let d := d.count DC.watchFired x.parts.length
        if d.isLead p then d.setWatch p w (some { x with fired := true })
        else (d.forAll x.parts fun d b => d.send (.bulk (.dump p w b))).setWatch p w none

/-- Ascending position, cluster, ROW0, COL0 (R439). -/
def partLe (a b : DumpPart) : Bool :=
  decide (a.position < b.position) || (a.position == b.position && (decide (a.cluster < b.cluster) || (a.cluster == b.cluster
    && (decide (a.row0 < b.row0) || (a.row0 == b.row0 && decide (a.col0 ≤ b.col0))))))

/-- Inserts a part in order. -/
def insertPart (x : DumpPart) : List DumpPart → List DumpPart
  | [] => [x]
  | y :: ys => if partLe x y then x :: y :: ys else y :: insertPart x ys

/-- The part header (R439). -/
def partHead (x : DumpPart) : BitVec 256 :=
  (0 : BitVec 96) ++ BitVec.ofNat 32 x.data.length ++ (0 : BitVec 24) ++ BitVec.ofNat 20 x.cols ++ BitVec.ofNat 20 x.col0
    ++ (0 : BitVec 16) ++ BitVec.ofNat 8 (x.rows - 1) ++ BitVec.ofNat 8 x.row0 ++ (0 : BitVec 12) ++ x.format
    ++ (0 : BitVec 1) ++ BitVec.ofNat 9 x.cluster ++ BitVec.ofNat 6 x.position

/-- A part's bytes in the buffer: header, and body padded to 32 bytes. -/
def partBytes (x : DumpPart) : List Byte :=
  bytesOf (partHead x) 32 ++ padTo (32 * ceilDiv x.data.length 32) x.data

/-- The parts that fit whole in `room` bytes, in order: bytes, parts written, and whether some were left out. A part that does not fit is left
out, and a later one that does is written (R439; log 147). -/
def fitParts (room : Nat) : List DumpPart → List Byte × Nat × Bool
  | [] => ([], 0, false)
  | x :: xs =>
    let b := partBytes x
    if b.length ≤ room then
      let r := fitParts (room - b.length) xs
      (b ++ r.1, r.2.1 + 1, r.2.2)
    else
      let r := fitParts room xs
      (r.1, r.2.1, true)

/-- An address operand (R259). -/
def addrWord (a : AddrOp) : U64 :=
  BitVec.ofNat 6 a.position ++ a.space ++ BitVec.ofNat 9 a.cluster ++ (0 : BitVec 10) ++ BitVec.ofNat 37 a.offset

/-- The dump header (R439). -/
def dumpHead (w : Nat) (x : Watch) (truncated : Bool) (parts bytes : Nat) (time : U64) : BitVec 512 :=
  (0 : BitVec 192) ++ (if x.spec.byAddress then addrWord x.spec.addr else 0) ++ (if x.spec.filter then x.spec.handle else 0)
    ++ (if x.spec.byAddress then 0 else x.spec.symbol) ++ time ++ (0 : BitVec 16) ++ x.step ++ BitVec.ofNat 32 bytes
    ++ BitVec.ofNat 16 parts ++ (0 : BitVec 5) ++ BitVec.ofBool x.spec.filter ++ BitVec.ofBool truncated
    ++ BitVec.ofBool x.spec.byAddress ++ BitVec.ofNat 8 w

/-- WATCH_DUMP_WRITE: the parts, then the dump header, then the completion; the index is free again (R439, R440). -/
def execWatchDumpWrite (partition watch : Nat) (s : State) : Out := s.on fun d =>
  match d.watch partition watch with
  | none => d
  | some x =>
    if x.fired then
      let parts := x.parts.foldl (fun ps b => insertPart b ps) []
      let body := if x.spec.byAddress then (parts.flatMap (·.data), parts.length, false) else fitParts (x.spec.bufLen - 64) parts
      let fn := x.origin.queue
      let d := if body.1.isEmpty then d else d.hostWrite (.buffer fn (x.spec.bufAddr + 64) body.1)
      let d := d.hostWrite (.buffer fn x.spec.bufAddr
        (bytesOf (dumpHead watch x body.2.2 body.2.1 (64 + body.1.length) (d.job partition).stepEndedAt) 64))
      (d.setWatch partition watch none).complete x.origin 0x50 St.success (BitVec.ofNat 32 watch)
    else d

/-- Arms a watch (R438): in the lowest free index, or a refusal. -/
def Dev.armWatch (d : Dev) (o : Origin) (w : WatchSpec) : Dev :=
  if (!w.byAddress && w.mode = 3) || (w.filter && !w.hasRows) || w.bufLen < 64 then d.complete o 0x50 St.fieldInvalid 0
  else match d.freeWatch o.partition with
    | none => d.complete o 0x50 St.watchFull 0
    | some i =>
      let start : U48 := (d.job o.partition).nextStep + w.n.setWidth 48
      d.setWatch o.partition i (some { origin := o, spec := w, fromStep := start, parts := [], fired := false, step := 0 })

/-- A commit of a new shard version completes the watches that never matched (R440). -/
def Dev.dropWatches (d : Dev) (p : Nat) : Dev :=
  d.forAll (List.range 16) fun d w =>
    match d.watch p w with
    | none => d
    | some x => if x.fired then d else
      let d := d.setWatch p w none
      if d.isLead p then d.complete x.origin 0x50 St.fieldInvalid 0 else d

end Sys2Proof.Machine
end

