-- ==== Sys2Proof/Machine/Stack.lean ====
section
/-! DEFINITION. The stack controller: accesses, uncorrectable blocks, and the migration of a faulty pseudo-channel (R227 to R235, R354). -/

namespace Sys2Proof.Machine

/-! ### The stack controller (R227 to R235) -/

/-- The valid region that holds a block: its kind. -/
def Dev.kindOf (d : Dev) (block : Nat) : Option Nat :=
  ((List.range 128).find? fun i =>
    let w := d.region i
    rgValid w && decide (rgBase w ≤ block) && decide (block < rgBase w + rgSize w)).map fun i => rgKind (d.region i)

/-- The request that holds KV page `p`. -/
def Dev.pageOwner (d : Dev) (p : Nat) : Option Nat :=
  (d.serve.kv.find? fun e => e.2.pages.contains p || e.2.listPages.contains p || e.2.spare == some p).map Prod.fst

/-- Bank `b` of partition `p` becomes invalid (R233), and the lead hears of it (R326). -/
def Dev.spoilBank (d : Dev) (p b : Nat) : Dev :=
  let c := d.commit p
  (d.setCommit p (if b = 0 then { c with bankA := 3 } else { c with bankB := 3 })).reportBanks p

/-- The partitions whose data in bank `b` a block holds, from byte `at_` of the bank on: the owners of the clusters whose images or digests
lie in it, and where it holds the copy of the manifest or what follows, every partition that has something in the bank (R323). -/
def Dev.bankOwners (d : Dev) (b at_ : Nat) : List Nat :=
  let last := at_ + 16383
  if last < 0xF9F00000 then ([at_, last].filterMap fun a => d.clusterOwner (a / 132096 / 62)).dedup
  else if at_ < 0xF9F10000 then
    let cs := (List.range 512).filter fun c =>
      decide (0xF9F00000 + 48 * c ≤ last ∧ at_ < 0xF9F00000 + 48 * c + 48) || (decide (at_ < 0xF9F00000) && c == at_ / 132096 / 62)
    (cs.filterMap d.clusterOwner).dedup
  else (d.stack.commits.filter fun e => decide ((if b = 0 then e.2.bankA else e.2.bankB) ≠ 0)).map Prod.fst

/-- A graft version becomes unusable and its requests are lost (R233). -/
def Dev.spoilGraft (d : Dev) (id : Nat) (ver : U16) : Dev :=
  let d := d.updGraft id fun g => { g with live := g.live.map fun v => if v.ver = ver then { v with unusable := true } else v }
  let slots := (d.serve.table.filter fun e => e.2.graftValid && e.2.graftId.toNat == id && e.2.graftVer == ver).map Prod.fst
  d.forAll slots Dev.loseRequest

/-- The copies in half `b` of the schedules or correction-tables region are marked invalid: the next schedule load needs the
data again from the host (R233, R323; log 78). -/
def Dev.spoilCopies (d : Dev) (b : Nat) : Dev :=
  { d with stack := { d.stack with
      banks := SMap.mapVals BankInfo.empty (fun k i => if k % 2 = b then { i with copyBad := true } else i) d.stack.banks } }

/-- A block of the bank in force, or of the Dahlia weights, is fetched again: from the −X neighbour's replica where it holds a valid one
and the block is the golden bank's, else from host memory (R233, R322, R328). -/
def Dev.fetchAgain (d : Dev) (p block : Nat) (golden : Bool) : Dev :=
  let replica := golden && (d.replica p).ownValid
  let d := d.send (.refetch p block replica)
  if golden then (if replica then (d.count DC.shardRefetch).count DC.shardReplicaUse else d.count DC.shardRefetch) else d

/-- The replicas held become invalid, and each is asked of the +X neighbour again (R233, R328). -/
def Dev.replicasAgain (d : Dev) : Dev :=
  let ps := (d.stack.replicas.filter fun e => e.2.heldValid).map Prod.fst
  d.forAll ps fun d p => (d.setReplica p { d.replica p with heldValid := false }).send (.bulk (.replicaWanted p))

/-- What a lost block of the counters and trace region held is lost and counted: of a trace ring, the pages that lie in it (R233, R431). -/
def Dev.loseSample (d : Dev) (block : Nat) : Dev :=
  d.forAll (d.obs.rings.map Prod.fst) fun d p =>
    let r := d.traceRing p
    let inBlock := fun (slot : Nat) => d.ringPageAt p slot / 16384 == block
    let gone := (r.pages.filter fun x => inBlock x.slot).flatMap (·.records) ++ if inBlock r.slot then r.page else []
    (d.setTraceRing p { r with pages := r.pages.filter fun x => !inBlock x.slot, page := if inBlock r.slot then [] else r.page }).count
      DC.traceStackLost gone.length

/-- The outcome of an uncorrectable block, by its region; `p` is the partition that met it. What is fetched again has the content it had
(R233). -/
def Dev.loseBlock (d : Dev) (p block : Nat) : Dev :=
  match d.kindOf block with
  | some 0 | some 1 =>
    let b := (d.kindOf block).getD 0
    let at_ := 16384 * block - d.kindBase b
    d.forAll (d.bankOwners b at_) fun d p => if (d.commit p).bank = some b then d.fetchAgain p block true else d.spoilBank p b
  | some 2 => d.replicasAgain
  | some 3 =>
    -- the graft area's own layout is not given: which version the block held is a free value (log 47)
    let live := d.serve.grafts.flatMap fun e => e.2.live.map fun v => (e.1, v.ver)
    match live[(Config.freeBits d.fresh 32).toNat % max 1 live.length]? with
    | some (id, ver) => d.draw.spoilGraft id ver
    | none => d
  | some 4 =>
    match d.pageOwner (block - (d.kindAt 4).1) with
    | some slot => d.loseRequest slot
    | none => d
  | some 5 => d.loseSample block
  | some 6 => d.spoilCopies ((16384 * block - d.kindBase 6) / 520093696)
  | some 7 => d.spoilCopies ((16384 * block - d.kindBase 7) / 536870912)
  | some 8 => d.fetchAgain p block false
  | _ => d

/-- The counter of bytes served in a stack class. -/
def bytesCounter (cls : Nat) : Nat :=
  match cls with | 0 => DC.stackBytesA | 1 => DC.stackBytesB | 2 => DC.stackBytesC | _ => DC.stackBytesD

/-- A corrected error is counted in its pseudo-channel and reported (R233, R235). -/
def Dev.stackCorrected (d : Dev) (block : Nat) : Dev :=
  let pc := pcOf (d.mapBlock block)
  let x := d.pcs pc
  ((d.setPcs pc { x with ce := if x.ce = 0xFFF then x.ce else x.ce + 1 }).count DC.stackCe).stackCe pc

/-- An uncorrectable block is counted, reported with its pseudo-channel, and takes its outcome. `at_` is where its content now belongs: the
block itself, or the page that a migration has given it. -/
def Dev.stackUncorrectable (d : Dev) (p pc block at_ : Nat) : Dev := ((d.count DC.stackUe).stackUe pc block).loseBlock p at_

/-- The block's outcome lets the access complete, once the block has been fetched again: the golden bank in force, or the Dahlia weights
(R233). -/
def Dev.comesAgain (d : Dev) (addr : Nat) : Bool :=
  match d.kindOf (addr / 16384) with
  | some 8 => true
  | some b => decide (b < 2) && (d.bankOwners b (16384 * (addr / 16384) - d.kindBase b)).any fun p => decide ((d.commit p).bank = some b)
  | none => false

/-- The sequencer of the cluster that waits for an access is late by that time (R105, R233). -/
def Dev.accessLate (d : Dev) (cluster : Option Nat) (ns : Nat) : Dev :=
  match cluster with
  | some c => d.updCluster c fun x => { x with sequencer := { x.sequencer with shift := x.sequencer.shift + ns } }
  | none => d

/-- STACK_ACCESS (R230, R231, R233). A refused read returns zeros, and a refused write changes nothing. -/
def execStackAccess (r : Requester) (addr : Nat) (op : StackOp) (s : State) : Out := s.on fun d =>
  let len := match op with | .read n | .readCorrected n | .readUncorrectable n _ => n | .write bs => bs.length
  if d.mayUse r addr len then
    let d := d.count (bytesCounter r.cls) (ceilDiv len 64)
    match op with
    | .read n => d.answer (.bytes (d.stackRead addr n))
    | .write bs => d.stackWrite addr bs
    | .readCorrected n => (d.stackCorrected (addr / 16384)).answer (.bytes (d.stackRead addr n))
    | .readUncorrectable n wait =>
      let b := addr / 16384
      let again := d.comesAgain addr
      let d := d.stackUncorrectable r.partition (pcOf (d.mapBlock b)) b b
      if again then (d.accessLate r.cluster wait).answer (.bytes (d.stackRead addr n)) else d
  else
    let d := d.refuseAccess r.partition
    match op with
    | .write _ => d
    | _ => d.answer (.bytes (List.replicate len 0))

/-- Copies a block's content. -/
def Dev.copyBlock (d : Dev) (src dst : Nat) : Dev :=
  let cells := d.stack.mem.filter fun e => e.1 / 16384 == src
  (d.zeroRange (16384 * dst) 16384).setMem
    (cells.foldr (fun e m => Memory.write m (16384 * dst + e.1 % 16384) e.2) (Memory.zero d.stack.mem (16384 * dst) 16384))

/-- A request is preempted for want of pages at its lead's next boundary; another member reports it there (R234, R354). -/
def Dev.preempt (d : Dev) (slot : Nat) : Dev :=
  let r := d.req slot
  if !r.state.live then d
  else if d.isLead r.partition then d.updJob r.partition fun j => { j with preempts := if j.preempts.contains slot then j.preempts else j.preempts ++ [slot] }
  else d.updJob r.partition fun j => { j with preemptOut := j.preemptOut ++ [handleOf slot r.gen] }

/-- Replaces a page number in a list. -/
def swapPage (old new : Nat) (xs : List Nat) : List Nat := xs.map fun p => if p = old then new else p

/-- Moves an in-use KV page: the copy, its page-list entry, its slot's home page (R234, step 2). -/
def Dev.moveKvPage (d : Dev) (slot page new : Nat) (readable : Bool) : Dev :=
  let v := d.kv slot
  let d := (d.takeFor slot new).givePage page
  let d := if readable then ((d.copyBlock (d.mapBlock ((d.kindAt 4).1 + page)) (d.mapBlock ((d.kindAt 4).1 + new))).count DC.stackMigrated).count DC.stackBytesC 256 else d
  let v' : KvSeq := { d.kv slot with pages := swapPage page new v.pages, listPages := swapPage page new v.listPages,
                                     spare := v.spare.map fun p => if p = page then new else p }
  let d := d.setKv slot v'
  let i := v.pages.findIdx (· == page)
  let d := if i < v.pages.length then d.writeEntry (d.req slot).partition (v'.listPages.getD (i / 4095) 0) (i % 4095) (pageEntry new) else d
  let l := v.listPages.findIdx (· == page)
  let d := if l < v.listPages.length then
      if l = 0 then d.updReq slot fun r => { r with pageList := BitVec.ofNat 23 new }
      else d.writeEntry (d.req slot).partition (v'.listPages.getD (l - 1) 0) 4095 (pageEntry new)
    else d
  let rehome := fun (x : Staging) => if x.owner = some slot ∧ x.home = page then { x with home := new } else x
  { d with serve := { d.serve with staging := SMap.mapVals Staging.free (fun _ x => rehome x) d.serve.staging } }

/-- PC_MIGRATION_BLOCK: one in-use block of a migrating pseudo-channel is copied; a block that cannot be read is reported with the
pseudo-channel that it leaves and takes the outcome of R233 (R234). A block outside the KV pool goes to a page of those that the
pseudo-channel withdraws, and stays where it is while none is free (log 48); what is fetched again lands on the new page, and the page of a block
whose content is lost reads 0 (DESIGN CHOICE, log 48). -/
def execPcMigrationBlock (pc block : Nat) (readable : Bool) (s : State) : Out := s.on fun d =>
  if (d.pcs pc).state = 1 ∧ pcOf (d.mapBlock block) = pc then
    let pool := d.kindAt 4
    if pool.1 ≤ block ∧ block < pool.1 + pool.2 then
      let page := block - pool.1
      match d.pageOwner page with
      | none => d
      | some slot =>
        match d.nextPage slot with
        | none => d.preempt slot
        | some new =>
          let d := d.moveKvPage slot page new readable
          if readable then d else d.stackUncorrectable (d.req slot).partition pc block (pool.1 + new)
    else if (d.kindOf block).isSome then
      match d.pageFrom d.stack.turn with
      | none => d
      | some new =>
        let dst := pool.1 + new
        let d := d.takePage new
        let d := if readable || d.comesAgain (16384 * block) then (d.copyBlock (d.mapBlock block) (d.mapBlock dst)).count DC.stackBytesC 256
          else d.zeroRange (16384 * d.mapBlock dst) 16384
        let d := if readable then d.count DC.stackMigrated else d
        let d := { d with stack := { d.stack with remap := SMap.put block d.stack.remap block (d.mapBlock dst) } }
        if readable then d else d.stackUncorrectable 0 pc block block
    else d
  else d

end Sys2Proof.Machine
end

