-- ==== Sys2Proof/Machine/Kv.lean ====
section
/-! DEFINITION. The KV cache: pages, staging slots, prefill, and what attention reads (R157 to R164, R405). -/

namespace Sys2Proof.Machine

/-! ### The KV cache (R157 to R164) -/

/-- The page header (R158). -/
def pageHeader (bf16 : Bool) (count firstPos : Nat) (handle : U32) (scale : U16) : BitVec 128 :=
  (0 : BitVec 51) ++ BitVec.ofBool bf16 ++ BitVec.ofNat 8 count ++ BitVec.ofNat 20 firstPos ++ handle ++ scale

/-- Offset in a page of the elements of a stream at an entry (R158). -/
def JobParams.elemAt (p : JobParams) (stream entry : Nat) : Nat := 64 + stream * p.pagePositions * p.posBytes + entry * p.posBytes

/-- Bytes of stored elements, and how many saturated (R157, R161). `k` is σ_page's exponent. -/
def codeElements (bf16 : Bool) (k : Int) (xs : List U16) : List Byte × Nat :=
  if bf16 then (xs.flatMap fun x => bytesOf x 2, 0)
  else
    let ys := xs.map fun x => kvElement x k
    (ys.map Prod.fst, (ys.filter Prod.snd).length)

/-- Puts bytes into a page image. -/
def putBytes (m : SMap Byte) (at_ : Nat) (bs : List Byte) : SMap Byte :=
  bs.zipIdx.foldl (fun m b => SMap.put 0 m (at_ + b.2) b.1) m

/-- The exponent of a power-of-two page scale, which may be a BF16 subnormal. -/
def scaleExpOf (w : U16) : Int := if fieldNat w 14 7 = 0 then ((w.toNat % 128).log2 : Int) - 133 else (fieldNat w 14 7 : Int) - 127

/-- Writes one stream of a position into a slot. Until σ_page is set by an earlier position, it follows from all the elements
written at this position, which are coded again as more arrive (R161; log 49). Answers the elements saturated. -/
def Staging.write (x : Staging) (ps : JobParams) (hr : Nat) (stream : Nat) (values : List U16) : Staging × Nat :=
  let raw := (stream, values) :: x.raw.filter (fun e => e.1 != stream)
  if ps.kvBf16 then
    ({ x with raw := raw, data := putBytes x.data (ps.elemAt stream x.fill) (codeElements true 0 values).1 }, 0)
  else if x.scaled then
    let c := codeElements false (scaleExpOf x.scale) values
    ({ x with raw := raw, data := putBytes x.data (ps.elemAt stream x.fill) c.1 }, c.2)
  else
    let k := pageScaleExp (raw.flatMap Prod.snd) hr
    let code := fun (e : Nat × List U16) => codeElements false (k.getD 0) e.2
    ({ x with raw := raw, scale := match k with | some v => bf16Pow2 v | none => 0x3F80,
              data := raw.foldl (fun m e => putBytes m (ps.elemAt e.1 x.fill) (code e).1) x.data },
     (raw.map fun e => (code e).2).sum)

/-- The key or value of a decode row is written at its slot's position FILL (R161). -/
def Dev.kvWrite (d : Dev) (handle : U32) (stream : Nat) (values : List U16) : Dev :=
  let slot := slotOf handle
  let r := d.req slot
  let x := d.stg r.slot
  if r.slotValid ∧ r.gen = genOf handle ∧ x.owner = some slot then
    let y := x.write (d.job r.partition).params d.scaleHr stream values
    let d := d.setStg r.slot y.1
    if y.2 = 0 then d else d.count DC.kvSaturate y.2
  else d

/-- FILL passes the position just completed: σ_page stays as it now is if any of its elements was nonzero (R161, R162). -/
def Staging.advance (x : Staging) : Staging :=
  { x with fill := x.fill + 1, scaled := x.scaled || (pageScaleExp (x.raw.flatMap Prod.snd) 0).isSome, raw := [] }

/-- Writes a slot's image to its home page, with its header; a refused write changes nothing (R158, R162, R230). -/
def Dev.flushSlot (d : Dev) (slot : Nat) (x : Staging) (firstPos : Nat) : Dev :=
  let r := d.req slot
  let ps := (d.job r.partition).params
  let base := d.mapAddr (d.pageAddr x.home)
  if !d.unitMay r.partition (d.pageAddr x.home) 16384 then d.refuseAccess r.partition else
  let d := d.zeroRange base 16384
  let d := d.writeBytes base (bytesOf (pageHeader ps.kvBf16 x.fill firstPos (handleOf slot r.gen) x.scale) 16)
  let d := d.setMem (x.data.foldl (fun m e => Memory.write m (base + e.1) e.2) d.stack.mem)
  (d.count DC.kvFlush).count DC.stackBytesA 256

/-- The elements of position `i` of a page's stream, `n` positions in all. -/
def sliceOf (xs : List U16) (n i : Nat) : List U16 := (xs.drop (i * (xs.length / max 1 n))).take (xs.length / max 1 n)

/-- σ_page of a page that prefill writes, as an exponent (R163): over all positions of a full page, else by the first
position that has a nonzero element. -/
def prefillScale (pg : KvPage) (full : Bool) (hr : Nat) : Option Int :=
  if full then pageScaleExp pg.streams.flatten hr
  else (List.range pg.count).findSome? fun i => pageScaleExp (pg.streams.flatMap fun xs => sliceOf xs pg.count i) hr

/-- Prefill writes a page directly; a refused write changes nothing (R163, R230). -/
def Dev.prefillPage (d : Dev) (handle : U32) (pg : KvPage) : Dev :=
  let p := (d.req (slotOf handle)).partition
  let ps := (d.job p).params
  if !d.unitMay p (d.pageAddr pg.page) 16384 then d.refuseAccess p else
  let k := if ps.kvBf16 then none else prefillScale pg (decide (pg.count = ps.pagePositions)) d.scaleHr
  let base := d.mapAddr (d.pageAddr pg.page)
  let d := d.zeroRange base 16384
  let head := pageHeader ps.kvBf16 pg.count pg.firstPos handle (match k with | some v => bf16Pow2 v | none => 0x3F80)
  let d := d.writeBytes base (bytesOf head 16)
  let d := d.forAll pg.streams.zipIdx fun d st =>
    d.forAll (List.range pg.count) fun d i =>
      let c := codeElements ps.kvBf16 (k.getD 0) (sliceOf st.1 pg.count i)
      let d := d.writeBytes (base + ps.elemAt st.2 i) c.1
      if c.2 = 0 then d else d.count DC.kvSaturate c.2
  d.count DC.stackBytesB 256

/-- The header of a KV page, as its block holds it. -/
def Dev.headerOf (d : Dev) (page : Nat) : BitVec 128 :=
  let bs := Memory.reads d.stack.mem (d.mapAddr (d.pageAddr page)) 16
  bs.reverse.foldl (fun (w : BitVec 128) b => (w <<< 8) ||| b.setWidth 128) 0

/-- A unit that works for the request may read its page (R230). -/
def Dev.pageOpen (d : Dev) (slot page : Nat) : Bool := d.unitMay (d.req slot).partition (d.pageAddr page) 16384

/-- The header of a page as a unit that works for a request reads it: zeros where the read is refused (R230). -/
def Dev.readHeader (d : Dev) (slot page : Nat) : BitVec 128 := if d.pageOpen slot page then d.headerOf page else 0

/-- Pages read for a request: a refused read is counted and gives zeros, and one whose header names another handle loses the request (R230,
R405). Answers whether the request goes on. -/
def Dev.checkPages (d : Dev) (handle : U32) (pages : List Nat) : Dev × Bool :=
  let slot := slotOf handle
  let ok := pages.all fun p => (d.readHeader slot p).extractLsb' 16 32 == handle
  let d := d.forAll (pages.filter fun g => !d.pageOpen slot g) fun d _ => d.refuseAccess (d.req slot).partition
  if ok then (d, true) else ((d.count DC.kvHandleErr).loseRequest slot, false)

/-! ### Reading keys and values (R154, R157, R164) -/

/-- Where the position of a request's stream lies: in its staging slot, or in a page (R164). -/
def Dev.inSlot (d : Dev) (slot page : Nat) : Bool :=
  (d.req slot).slotValid && (d.stg (d.req slot).slot).owner == some slot && (d.stg (d.req slot).slot).home == page

/-- The stored bytes of a position's elements in one stream, and σ_page's exponent (R157, R158, R164). -/
def Dev.kvStored (d : Dev) (slot stream pos len : Nat) : List Byte × Int :=
  let ps := (d.job (d.req slot).partition).params
  let tp := ps.pagePositions
  let page := (d.kv slot).pages.getD (pos / tp) 0
  let at_ := ps.elemAt stream (pos % tp)
  let one := fun (w : U16) => if ps.kvBf16 then (0 : Int) else scaleExpOf w
  if d.inSlot slot page then
    let x := d.stg (d.req slot).slot
    ((List.range len).map fun i => SMap.get 0 x.data (at_ + i), one x.scale)
  else (if d.pageOpen slot page then d.stackRead (d.pageAddr page + at_) len else List.replicate len 0,
    one ((d.readHeader slot page).extractLsb' 0 16))

/-- The elements of a position as stored, without σ_page, and σ_page's exponent; none: poison (R80, R93, R157). -/
def Dev.kvElems (d : Dev) (slot stream pos n : Nat) : List (Option Rat) × Int :=
  if (d.job (d.req slot).partition).params.kvBf16 then
    let x := d.kvStored slot stream pos (2 * n)
    ((List.range n).map fun i =>
      let w : U16 := x.1.getD (2 * i + 1) 0 ++ x.1.getD (2 * i) 0
      if bf16Finite w then some (ratOf (bf16q w, (bf16e w : Int) - 134)) else none, x.2)
  else
    let x := d.kvStored slot stream pos n
    (x.1.map fun b => (fp8Value false b).map ratOf, x.2)

end Sys2Proof.Machine
end

