-- ==== Sys2Proof/Machine/Dahlia.lean ====
section
/-! DEFINITION. Dahlia, Lupin and attention (R143 to R156, R164, R475). -/

namespace Sys2Proof.Machine

/-! ### Halves (R144, R146, R148, R149) -/

/-- R148's rank: stand-ins, the step's compiled operations, operators; what a step of RUN_OPERATOR asks for is an operator's (R165). -/
def Dev.dahliaRank (d : Dev) (o : DahliaOp) : Nat :=
  match o.kind with
  | .standIn _ => 0
  | .operator _ => 2
  | _ => if (d.stepOp o.partition).isSome then 2 else 1

/-- Queues an operation behind every operation of its rank. -/
def Dev.queueOp (d : Dev) (o : DahliaOp) : Dev :=
  let r := d.dahliaRank o
  { d with engine := { d.engine with waiting := d.engine.waiting.filter (fun x => decide (d.dahliaRank x ≤ r)) ++ [o]
                                                ++ d.engine.waiting.filter (fun x => decide (d.dahliaRank x > r)) } }

/-- A half begins an operation: its operand SRAM takes the operands, those of a stand-in being the tile's data columns, and the inputs that
waited for a stand-in are computed (R144, R146, R149). -/
def Dev.runHalf (d : Dev) (h : Nat) (o : DahliaOp) : Dev :=
  let d := { d with engine := { d.engine with halves := SMap.put none d.engine.halves h (some o) } }
  match o.kind with
  | .standIn lt =>
    let mine := (d.engine.standInputs.filter fun x => x.1 == lt).map Prod.snd
    let d := { d with engine := { d.engine with standInputs := d.engine.standInputs.filter fun x => x.1 != lt } }.loadTile h lt
    d.forAll mine fun d v => d.standInAdd lt v true
  | k => { d with engine := { d.engine with operand := SMap.put none d.engine.operand h (some (.work k)) } }

/-- Starts waiting operations in the order of R148, each on a free half that it can use, while the reservation has room (R146); none starts
in a brown-out hold, nor before the verification sweep that follows it is over (R370, R371). -/
def Dev.startHalves (d : Dev) : Nat → Dev
  | 0 => d
  | fuel + 1 =>
    if d.halfFits && !d.power.boHold && !d.power.sweep then
      match d.engine.waiting.find? fun o => (d.freeHalf o).isSome with
      | none => d
      | some o => match d.freeHalf o with
        | none => d
        | some h => ({ d with engine := { d.engine with waiting := d.engine.waiting.erase o } }.runHalf h o).startHalves fuel
    else d

/-- DAHLIA_OP_START: an operation asks for a half, and waiting operations start in the order of R148; one that waits is never dropped
(R146). -/
def execDahliaOpStart (op : DahliaOp) (s : State) : Out := s.on fun d =>
  (d.queueOp op).startHalves 32

/-! ### Sums of products (R145) -/

/-- A list of output codes as bytes, and how many saturated. -/
def codeBytes (f : Fmt) (n : Nat) (ls : List Lane) : List Byte × Nat :=
  let cs := ls.map f.ofLane
  (cs.flatMap (fun c => bytesOf (BitVec.ofNat 16 c.1) n), (cs.filter Prod.snd).length)

/-- First byte of the Dahlia-weights half of bank `b` (R323). -/
def Dev.weightsBase (d : Dev) (b : Nat) : Nat := d.kindBase 8 + 2147483648 * b

/-- The value of an operand element as significand and exponent; none: poison (R80, R93, R143). `b` is the bank of the weights; a unit that
may not read them gets zeros (R230). -/
def Dev.dahliaValue (d : Dev) (b : Nat) (may : Bool) (x : DahliaSrc) : Option (Int × Int) :=
  let byte := fun (i : Nat) => match x.cluster with
    | some c => (SMap.get (0 : BitVec 4096) (d.cluster c).spad (i / 512)).extractLsb' (8 * (i % 512)) 8
    | none => if may then d.byte (d.mapAddr (d.weightsBase b + i)) else 0
  match x.fmt with
  | .e4m3 => fp8Value false (byte x.addr)
  | .e5m2 => fp8Value true (byte x.addr)
  | .bf16 =>
    let w : U16 := byte (x.addr + 1) ++ byte x.addr
    if bf16Finite w then some (bf16q w, (bf16e w : Int) - 134) else none

/-- A sum of products in its compiled order: exact products, FP32 additions; a poison operand gives poison (R80, R145). -/
def Dev.dahliaSum (d : Dev) (b : Nat) (may : Bool) (ts : List DahliaTerm) : Option U32 :=
  ts.foldl (fun acc t => match acc, d.dahliaValue b may t.a, d.dahliaValue b may t.b with
    | some s, some x, some y => some (f32Add s (x.1 * y.1) (x.2 + y.2))
    | _, _, _ => none) (some 0)

/-- The scratchpad rows that operands lie in. -/
def termRows (ts : List DahliaTerm) : List (Nat × Nat) :=
  (ts.flatMap fun t => [t.a, t.b].filterMap fun x => x.cluster.map fun c => (c, x.addr / 512)).dedup

/-- The operands of a list of results are read: scratchpad rows, and the Dahlia weights, where a refused read is counted (R226, R230). Answers
whether the weights may be read. -/
def Dev.readOperands (d : Dev) (p b : Nat) (rs : List (List DahliaTerm)) : Dev × Bool :=
  let ts := rs.flatten
  let d := d.forAll (termRows ts) fun d x => d.useRow x.1 x.2
  let offs := ts.flatMap fun t => [t.a, t.b].filterMap fun x => if x.cluster.isNone then some x.addr else none
  let d := if offs.isEmpty then d else d.count DC.stackBytesB (ceilDiv (offs.length * 2) 64)
  match offs with
  | [] => (d, true)
  | o :: os =>
    let lo := os.foldl min o
    let hi := os.foldl max o
    if d.unitMay p (d.weightsBase b + lo) (hi + 2 - lo) then (d, true) else (d.refuseAccess p, false)

/-- A unit of the base die puts bytes for a scratchpad into its ingress buffer of the base switch (R217). -/
def Dev.toBase (d : Dev) (kind c row at_ : Nat) (bs : List Byte) : Dev :=
  { d with array := { d.array with baseIn := d.array.baseIn ++ [{ kind := kind, cluster := c, row := row, at_ := at_, bytes := bs }] } }

/-- Lupin puts a Z8 block of results, each rounded once, into its buffer of the base switch, mantissas and exponent, for the compiled slots that
bring it to the cluster (R93, R154, R217). -/
def Dev.lupinStore (d : Dev) (c row at_ expRow expByte : Nat) (rs : List (Option U32)) : Dev :=
  let z := z8Block (rs.map f32Lane)
  let d := (d.toBase 1 c row at_ z.2.1).toBase 1 c expRow expByte [BitVec.ofNat 8 z.1]
  let d := if z.2.2 then d.countC c CC.arithSaturate else d
  let n := (rs.filter (·.isNone)).length
  if n = 0 then d else d.countC c CC.arithPoison n

/-- Writes a block of results, each rounded once to the output format (R93, R145). -/
def Dev.dahliaStore (d : Dev) (c row at_ : Nat) (out : DahliaOut) (rs : List (Option U32)) : Dev :=
  let ls := rs.map f32Lane
  let z := z8Block ls
  let d := match out with
    | .z8 expRow expByte =>
      let d := (d.patchSpad c row at_ z.2.1).patchSpad c expRow expByte [BitVec.ofNat 8 z.1]
      if z.2.2 then d.countC c CC.arithSaturate else d
    | .fp8 e5m2 =>
      let x := codeBytes (if e5m2 then Fmt.e5m2 else Fmt.e4m3) 1 ls
      let d := d.patchSpad c row at_ x.1
      if x.2 = 0 then d else d.countC c CC.arithSaturate x.2
    | .bf16 =>
      let x := codeBytes Fmt.bf16 2 ls
      let d := d.patchSpad c row at_ x.1
      if x.2 = 0 then d else d.countC c CC.arithSaturate x.2
  let n := (rs.filter (·.isNone)).length
  if n = 0 then d else d.countC c CC.arithPoison n

/-- The residual add of the correction unit: BF16 elements added in FP32 and rounded once; poison stays poison (R80, R93, R143). -/
def Dev.residualAdd (d : Dev) (c dst a b n : Nat) : Dev :=
  let rows := ([a, b].flatMap fun x => (List.range (2 * n)).map fun i => (x + i) / 512).dedup
  let d := d.forAll rows fun d r => d.useRow c r
  let val := fun (addr : Nat) => d.dahliaValue 0 true { cluster := some c, addr := addr, fmt := .bf16 }
  d.dahliaStore c (dst / 512) (dst % 512) .bf16 ((List.range n).map fun i => match val (a + 2 * i), val (b + 2 * i) with
    | some x, some y => some (f32Add (f32Add 0 x.1 x.2) y.1 y.2)
    | _, _ => none)

/-- Rows that work of an unstated function writes: free values (log 13). -/
def Dev.freeRows (d : Dev) (c : Nat) (rows : List Nat) : Dev :=
  d.forAll rows fun d r => (d.setSpad c r (Config.freeBits d.fresh 4096)).draw

/-- The rows of the job's steps in flight that need a token and have none yet, in row-list order: request and position of the token (R27, R187,
R195). -/
def Job.undrawn (j : Job) : List (U32 × BitVec 20) :=
  (j.inFlight.flatMap StepDesc.rows).filterMap fun x =>
    if (x.decode || x.last) && !(j.fox.any fun f => f.handle == x.handle && f.pos == x.position + 1) then some (x.handle, x.position + 1) else none

/-- The row that a part belongs to. -/
def LogitPart.rowOf (x : LogitPart) : Nat × U32 × BitVec 20 := (x.partition, x.handle, x.pos)

/-- The row has a row buffer or gets one: there are two, and a job's rows take them in row-list order (R195). -/
def Dev.hasBuffer (d : Dev) (x : LogitPart) : Bool :=
  let rows := (d.engine.logits.map LogitPart.rowOf).eraseDups
  let next := (d.job x.partition).undrawn
  rows.contains x.rowOf || (decide (rows.length < 2)
    && (next[0]? == some (x.handle, x.pos)
      || (next[1]? == some (x.handle, x.pos) && (match next[0]? with | some y => rows.contains (x.partition, y.1, y.2) | none => false))))

/-- Logits of a row reach its row buffer of 1 MiB, or wait for one; a part computed again replaces the earlier one (R195). -/
def Dev.bufferLogits (d : Dev) (x : LogitPart) : Dev :=
  let other := fun (y : LogitPart) => !(y.rowOf == x.rowOf && y.first == x.first)
  if x.first + x.values.length > 262144 then d
  else if d.hasBuffer x then { d with engine := { d.engine with logits := x :: d.engine.logits.filter other, logitsWait := d.engine.logitsWait.filter other } }
  else { d with engine := { d.engine with logitsWait := d.engine.logitsWait.filter other ++ [x] } }

/-- A row buffer is free: what waits moves up, oldest first. -/
def Dev.refillBuffers (d : Dev) : Dev := d.forAll d.engine.logitsWait Dev.bufferLogits

/-- The logits that `sel` selects leave the row buffers. -/
def Dev.dropLogits (d : Dev) (sel : LogitPart → Bool) : Dev :=
  { d with engine := { d.engine with logits := d.engine.logits.filter (!sel ·), logitsWait := d.engine.logitsWait.filter (!sel ·) } }.refillBuffers

/-! ### Attention (R154, R155) -/

/-- The BF16 query of a head, from its scratchpad; none: poison. -/
def Dev.queryOf (d : Dev) (q : AttQuery) (n : Nat) : List (Option Rat) :=
  (List.range n).map fun i => (d.dahliaValue 0 true { cluster := some q.cluster, addr := q.addr + 2 * i, fmt := .bf16 }).map ratOf

/-- All of a list, or none where one is poison. -/
def allOf (xs : List (Option Rat)) : Option (List Rat) := if xs.all Option.isSome then some (xs.filterMap id) else none

/-- A dot product with FP32 accumulation, in element order (R145). -/
def f32Dot (xs ys : List Rat) : Rat := f32Sum (xs.zipWith (· * ·) ys)

/-- A score: scale · (q · k) · σ_page in FP32, each product rounded (R154, R155; log 132). -/
def scoreOf (scale qScale : Rat) (q k : List Rat) (sigma : Int) : Rat := f32 (f32 (f32 (f32Dot q k * qScale) * scale) * pow2 sigma)

/-- The three passes over the scored positions of a chunk (R154): m_c, l_c, and o_c from the values with σ_page applied. On Dahlia the
probabilities are rounded to BF16 for the value pass (R155). -/
def chunkPasses (dahlia : Bool) (elems : Nat) (scores : List Rat) (values : List (List Rat)) : Rat × Rat × List Rat :=
  let m := scores.foldl max (scores.headD 0)
  let e := scores.map fun s => attExp (f32 (s - m))
  let p := if dahlia then e.map Fmt.bf16.value else e
  (m, f32Sum e, (List.range elems).map fun j => f32Sum (p.zipWith (fun x v => x * v.getD j 0) values))

/-- One chunk of attention for one query head over the positions of a list; where an operand is poison, so is the result (R80, R154). Answers
the scores too. -/
def Dev.attendChunk (d : Dev) (dahlia : Bool) (job : AttJob) (head chunk : Nat) (q : List (Option Rat)) (qScale : Rat) (positions : List Nat) :
    AttPart × List Rat :=
  let slot := slotOf job.handle
  let scale := allOf [if bf16Finite job.scale then some (ratOf (bf16q job.scale, (bf16e job.scale : Int) - 134)) else none]
  let ks := positions.map fun i => d.kvElems slot job.keyStream i job.elems
  let vs := positions.map fun i => d.kvElems slot job.valueStream i job.elems
  let bad : AttPart := { handle := job.handle, layer := job.layer, head := head, chunk := chunk, m := none, l := 0, o := [] }
  match allOf q, scale, allOf (ks.flatMap Prod.fst), allOf (vs.flatMap Prod.fst) with
  | some q, some [sc], some _, some _ =>
    let scores := ks.map fun k => scoreOf sc qScale q (k.1.filterMap id) k.2
    let values := vs.map fun v => (v.1.filterMap id).map fun x => x * pow2 v.2
    let r := chunkPasses dahlia job.elems scores values
    ({ bad with m := some r.1, l := r.2.1, o := r.2.2 }, scores)
  | _, _, _, _ => (bad, [])

/-- The chunks of a row and head in ascending order: m, l and the output o; none where a chunk is poison (R154). A sum l of 0, which R154
does not provide for, leaves a free value (log 12). -/
def combineParts (free : Rat) (elems : Nat) (parts : List AttPart) : Option (Rat × Rat × List Rat) :=
  match allOf (parts.map AttPart.m) with
  | none => none
  | some ms =>
    let m := ms.foldl max (ms.headD 0)
    let w := ms.map fun x => attExp (f32 (x - m))
    let l := f32Sum (w.zipWith (fun x p => f32 (x * p.l)) parts)
    some (m, l, (List.range elems).map fun j =>
      let o := f32Sum (w.zipWith (fun x p => f32 (x * p.o.getD j 0)) parts)
      if l = 0 then free else f32 (o / l))

/-- A binary32 value as a word. -/
def f32Word (x : Rat) : U32 :=
  if x = 0 then 0
  else
    let k := max (ratLog2 x) (-126) - 23
    f32Add 0 (ratRound (x / pow2 k)) k

/-- A tuning step in progress on partition `p` keeps the row statistics for its workspace; otherwise they are discarded (R156, R166). -/
def Dev.keepStats (d : Dev) (p : Nat) (handle : U32) (layer head : Nat) (m l : Rat) : Dev :=
  d.tune p fun t => { t with stats := t.stats ++ [(handle, layer, head, m, l)] }

/-- The attention output of a row and head is complete: it is rounded once, to Z8, in blocks of 32 elements; Lupin's goes through its buffer of
the base switch (R95, R154, R155, R217). -/
def Dev.writeHead (d : Dev) (lupin : Bool) (p : Nat) (job : AttJob) (head : Nat) (out : AttOut) : Dev :=
  let mine := d.engine.attention.filter fun a => a.handle == job.handle && a.layer == job.layer && a.head == head
  let parts := (List.range mine.length).filterMap fun c => mine.find? fun a => a.chunk == c
  let x := combineParts ((Config.freeBits d.fresh 24).toInt : Rat) job.elems parts
  let d := match x with | some r => d.keepStats p job.handle job.layer head r.1 r.2.1 | none => d
  let words : List (Option U32) := match x with
    | some r => r.2.2.map fun v => some (f32Word v)
    | none => List.replicate job.elems none
  let d := d.tune p fun t => { t with heads := t.heads ++ [(job.handle, job.layer, head, words)] }
  d.draw.forAll (List.range (ceilDiv job.elems 32)) fun d i =>
    let ws := (words.drop (32 * i)).take 32
    if lupin then d.lupinStore out.cluster out.row (out.at_ + 32 * i) out.expRow (out.expByte + i) ws
    else d.dahliaStore out.cluster out.row (out.at_ + 32 * i) (.z8 out.expRow (out.expByte + i)) ws

/-- A chunk result takes its place among those in progress. -/
def Dev.addPart (d : Dev) (a : AttPart) : Dev :=
  let same := fun (b : AttPart) => b.handle == a.handle && b.layer == a.layer && b.head == a.head && b.chunk == a.chunk
  { d with engine := { d.engine with attention := (d.engine.attention.filter fun b => !same b) ++ [a] } }

/-- q in FP8 with its row and head's scale (R155): each element over the scale, rounded to E4M3; with a scale of 0 or none finite the query
is poison. -/
def quantQuery (scale : U16) (q : List (Option Rat)) : List (Option Rat) × Rat :=
  let s := ratOf (bf16q scale, (bf16e scale : Int) - 134)
  if bf16Finite scale && s != 0 then (q.map fun x => x.map fun v => Fmt.e4m3.value (v / s), s) else (q.map fun _ => none, 1)

/-- The scratchpad rows of a query are read (R220, R226). -/
def Dev.useQuery (d : Dev) (q : AttQuery) (elems : Nat) : Dev :=
  d.forAll ((List.range (2 * elems)).map fun i => (q.addr + i) / 512).dedup fun d r => d.useRow q.cluster r

/-- The positions of chunk `c` of 1,024 that a row at `position` attends to: later ones are masked (R154). -/
def rowChunk (position c : Nat) : List Nat := (List.range (min 1024 (position + 1 - 1024 * c))).map (1024 * c + ·)

/-- A half's score SRAM takes the scores of a chunk (R144, R154). -/
def Dev.keepScores (d : Dev) (half : Nat) (xs : List Rat) : Dev :=
  { d with engine := { d.engine with scores := xs.zipIdx.foldl (fun m s => SMap.put 0 m (262144 * half + s.2) s.1) d.engine.scores } }

/-- Prefill attention of one row on a half: chunks of 1,024 positions up to the row's own, later ones masked; the half's score SRAM keeps
the scores of the chunk last computed (R154, R155). -/
def Dev.attendRow (d : Dev) (p half : Nat) (job : AttJob) (position : Nat) (qScales : List U16) : Dev :=
  let d := d.count DC.stackBytesB (2 * (position + 1) * ((d.job p).params.posBytes / 64) * job.queries.length)
  let d := d.forAll job.queries.zipIdx fun d qi =>
    let q := quantQuery (qScales.getD qi.2 0x3F80) (d.queryOf qi.1 job.elems)
    let d := (d.useQuery qi.1 job.elems).forAll (List.range (position / 1024 + 1)) fun d c =>
      let x := d.attendChunk true job qi.1.head c q.1 q.2 (rowChunk position c)
      (d.keepScores half x.2).addPart x.1
    match qi.1.out with | some o => d.writeHead false p job qi.1.head o | none => d
  let mine := fun (a : AttPart) => a.handle == job.handle && a.layer == job.layer && job.queries.any fun q => q.head == a.head
  { d with engine := { d.engine with attention := d.engine.attention.filter fun a => !mine a } }

/-! ### A tuning step's head and backward pass (R166) -/

/-- softmax(logits) − onehot(target) in FP32: exponentials within 2 ULP (R155), sums in entry order (R145); poison where a logit is. -/
def lossGradient (target : Nat) (logits : List (Option U32)) : List (Option U32) :=
  match allOf (logits.map fun x => x.map f32Value) with
  | none => logits.map fun _ => none
  | some xs =>
    let m := xs.foldl max (xs.headD 0)
    let es := xs.map fun x => attExp (f32 (x - m))
    let l := f32Sum es
    es.zipIdx.map fun e => some (f32Word (f32 (f32 (e.1 / l) - (if e.2 = target then 1 else 0))))

/-- The backward pass of a row's attention recomputes the scores from q, the stored keys and (m, l) as p = exp(s − m) / l, chunk by chunk in the
half's score SRAM; a score matrix is never stored. What it then forms of p the spec does not state: free values (R166; log 13). -/
def Dev.attentionBack (d : Dev) (p half : Nat) (job : AttJob) (position : Nat) (qScales : List U16) : Dev :=
  let stats := ((d.job p).step.map fun s => s.tuning.stats).getD []
  d.forAll job.queries.zipIdx fun d qi =>
    let q := quantQuery (qScales.getD qi.2 0x3F80) (d.queryOf qi.1 job.elems)
    match stats.find? fun s => s.1 == job.handle && s.2.1 == job.layer && s.2.2.1 == qi.1.head with
    | none => d
    | some s => (d.useQuery qi.1 job.elems).forAll (List.range (position / 1024 + 1)) fun d c =>
        let x := d.attendChunk true job qi.1.head c q.1 q.2 (rowChunk position c)
        d.keepScores half (x.2.map fun v => if s.2.2.2.2 = 0 then 0 else f32 (attExp (f32 (v - s.2.2.2.1)) / s.2.2.2.2))

/-! ### What an operation leaves -/

/-- A row that the lead has asked for is embedded: it returns over the link as Z8 blocks, each with its exponent (R171). -/
def Dev.embedForLead (d : Dev) (p : Nat) (step : U48) (blocks : List (Byte × List Byte)) : Dev :=
  match (d.job p).lookups.find? fun x => x.no == step with
  | none => d
  | some x =>
    let rest : StepDesc := { x with rows := x.rows.drop 1 }
    (d.updJob p fun j => { j with lookups := j.lookups.filterMap fun y =>
      if y.no = step then (if rest.rows.isEmpty then none else some rest) else some y }).send (.embedded p step blocks)

/-- The row whose token is looked up had no readable token word, or a token past the vocabulary: it embeds as poison (R80, R263). -/
def Dev.embedsPoison (d : Dev) (p : Nat) (dest : EmbedDest) (row : Nat) : Bool :=
  match dest with
  | .row .. => match (d.job p).step.bind fun s => s.desc.rows[row]? with | some x => x.poison | none => false
  | .lead no => match ((d.job p).lookups.find? fun x => x.no == no).bind fun x => x.rows.head? with | some x => x.poison | none => false

/-- What an operation of half `h` leaves when it completes. Work whose functions the spec does not give leaves free values (R145, R475; log
13). -/
def Dev.opResult (d : Dev) (h : Nat) (o : DahliaOp) : Dev :=
  let b := ((d.commit o.partition).bank).getD 0
  match o.kind with
  | .standIn _ | .operator _ => d
  | .compiled c rows => d.freeRows c rows
  | .sums c row at_ out rs =>
    let x := d.readOperands o.partition b rs
    x.1.dahliaStore c row at_ out (rs.map (x.1.dahliaSum b x.2))
  | .logits h pos first rs =>
    let y := d.readOperands o.partition b rs
    let x : LogitPart := { partition := o.partition, handle := h, pos := pos, first := first, values := rs.map (y.1.dahliaSum b y.2) }
    if y.1.isLead o.partition then y.1.bufferLogits x else y.1.send (.logits x)
  | .embed e5m2 offset len dest row =>
    let x := d.unitRead o.partition (d.weightsBase b + offset) len
    let x := (x.1.count DC.stackBytesB (ceilDiv len 64), x.2)
    let blocks := (expandFp8 e5m2 16 x.2).map fun k => (k.1, if d.embedsPoison o.partition dest row then k.2.map fun _ => 0x80 else k.2)
    match dest with
    | .row c dataRow expRow r => x.1.forAll blocks.zipIdx fun d k =>
        (d.patchSpad c dataRow (32 * k.2) k.1.2).patchSpad c expRow (16 * r + k.2) [BitVec.ofNat 8 k.1.1]
    | .lead step => x.1.embedForLead o.partition step (blocks.map fun k => (BitVec.ofNat 8 k.1, k.2))
  | .lossGradient row target rs =>
    let y := d.readOperands o.partition b rs
    y.1.tune o.partition fun t => { t with loss := t.loss.filter (fun e => e.1 != row) ++ [(row, lossGradient target (rs.map (y.1.dahliaSum b y.2)))] }
  | .attentionBack job position qScales c rows =>
    let tp := (d.job o.partition).params.pagePositions
    let x := d.checkPages job.handle ((d.kv (slotOf job.handle)).pages.take (position.toNat / tp + 1))
    if x.2 then (x.1.attentionBack o.partition h job position.toNat qScales).freeRows c rows else x.1
  | .prefill handle pages =>
    let v := d.kv (slotOf handle)
    let tp := (d.job (d.req (slotOf handle)).partition).params.pagePositions
    let first := pages.foldl (fun m pg => min m pg.firstPos) 1048575
    let x := d.checkPages handle (v.pages.take (first / tp))
    if x.2 then x.1.forAll pages fun d pg => d.prefillPage handle pg else x.1
  | .attention job position qScales =>
    let tp := (d.job o.partition).params.pagePositions
    let x := d.checkPages job.handle ((d.kv (slotOf job.handle)).pages.take (position.toNat / tp + 1))
    if x.2 then x.1.attendRow o.partition h job position.toNat qScales else x.1

/-- DAHLIA_OP_COMPLETE: the half is free, and waiting operations start. -/
def execDahliaOpComplete (half : Nat) (s : State) : Out := s.on fun d =>
  match SMap.get none d.engine.halves half with
  | none => d
  | some o =>
    let d := { d with engine := { d.engine with halves := SMap.put none d.engine.halves half none } }
    ((d.opResult half o).count DC.dahliaOps).startHalves 32

/-! ### Lupin (R151 to R156, R164, R405) -/

/-- Positions 0 to L of a request that lie in full pages, by page, and those of its staging slot (R164). -/
def Dev.fullPages (d : Dev) (slot : Nat) : List Nat :=
  let v := d.kv slot
  v.pages.filter fun p => !d.inSlot slot p

/-- Positions that a chunk of 4,096 holds: those of full pages, then the staging slot's 0 to FILL (R154, R164). -/
def Dev.chunkPositions (d : Dev) (slot chunk : Nat) : Nat × List Nat :=
  let tp := (d.job (d.req slot).partition).params.pagePositions
  let full := tp * (d.fullPages slot).length
  let all := full + (if (d.req slot).slotValid then (d.stg (d.req slot).slot).fill + 1 else 0)
  let first := 4096 * chunk
  (min (first + 4096) full - first, (List.range (min (first + 4096) all - first)).map (first + ·))

/-- The full pages that a chunk reads. -/
def Dev.chunkPages (d : Dev) (slot chunk : Nat) : List Nat :=
  let tp := (d.job (d.req slot).partition).params.pagePositions
  let n := (d.chunkPositions slot chunk).1
  ((d.fullPages slot).drop (4096 * chunk / tp)).take (ceilDiv (4096 * chunk + n) tp - 4096 * chunk / tp)

/-- LUPIN_CHUNK_JOB: a lane computes the attention of one row over one chunk for the query heads of one key and value stream (R151, R154,
R155). The keys and the values of the positions in full pages are streamed once for each 16 query heads; the staging slot costs no stack
traffic (R164, R170). With the last chunk each head's output is complete. -/
def execLupinChunkJob (partition : Nat) (job : AttJob) (lane buffer chunk : Nat) (s : State) : Out := s.on fun d =>
  let slot := slotOf job.handle
  let c := d.chunkPositions slot chunk
  let x := d.checkPages job.handle (d.chunkPages slot chunk)
  if x.2 then
    let bytes := 2 * c.1 * ((d.job partition).params.posBytes / 64) * ceilDiv job.queries.length 16
    let d := ((x.1.count DC.lupinJobs).count DC.lupinBytes bytes).count DC.stackBytesB bytes
    let d := d.forAll job.queries fun d q => d.useQuery q job.elems
    let d := d.forAll job.queries.zipIdx fun d qi =>
      let y := d.attendChunk false job qi.1.head chunk (d.queryOf qi.1 job.elems) 1 c.2
      let base := 131072 * lane + 65536 * buffer + 4096 * (qi.2 % 16)
      let sram := y.2.zipIdx.foldl (fun m s => SMap.put 0 m (base + s.2) s.1) d.engine.lupinScores
      { d with engine := { d.engine with lupinScores := sram } }.addPart y.1
    d.forAll job.queries fun d q => match q.out with | some o => d.writeHead true partition job q.head o | none => d
  else x.1

/-- The sequencers of a partition. -/
def Dev.updSeqs (d : Dev) (p : Nat) (f : Seq → Seq) : Dev :=
  d.forAll (d.partClusters p) fun d c => d.updCluster c fun x => { x with sequencer := f x.sequencer }

/-- The sequencer leaves the barrier: later planned times count from here (R153). -/
def Seq.release (q : Seq) (now : U64) : Seq :=
  { q with atBarrier := false, stall := 0, pc := q.pc + 1, layer := none, late := 0, base := now, waitsFor := none, slotAt := none, excusing := false,
           excused := 0, shift := 0 }

/-- ATTENTION_BARRIER_RELEASE: the engine reports the layer's attention complete for every row of the step (R153); statistics and chunk
results are discarded (R156). -/
def execAttentionBarrierRelease (partition : Nat) (s : State) : Out := s.on fun d =>
  let d := d.updSeqs partition fun q => if q.atBarrier then q.release d.now else q
  let mine := fun (h : U32) => (d.req (slotOf h)).partition == partition
  { d with engine := { d.engine with attention := d.engine.attention.filter (fun a => !mine a.handle) } }

end Sys2Proof.Machine
end

