-- ==== Sys2Proof/Machine/Security.lean ====
section
/-! DEFINITION. The Serbel security controller: owner commands, lifecycle, debug, attestation, boot images, and the
management sideband (R407 to R425, R471). -/

namespace Sys2Proof.Machine

/-! ### Nonces and owner commands -/

/-- Serbel is running: out of a warm reset's entry, not shut down, not held by TEST_EN (R383, R463). -/
def Dev.serbelUp (d : Dev) : Bool :=
  decide (d.rst.phase = .ready) || decide (d.rst.phase = .booting) || (decide (d.rst.phase = .inReset) && d.rst.soft)

/-- A nonce issued at most 60 s ago and not yet used (R412). -/
def Dev.nonceOk (d : Dev) (n : BitVec 256) : Bool :=
  d.sec.nonces.any (fun x => x.1 == n && decide (d.since x.2 ≤ 60000000000))

/-- Uses a nonce up. -/
def Dev.useNonce (d : Dev) (n : BitVec 256) : Dev :=
  { d with sec := { d.sec with nonces := d.sec.nonces.filter (fun x => x.1 != n) } }

/-- The keys in an owner slot. -/
def Dev.owner (d : Dev) (slot : Nat) : Option (BitVec 384) := SMap.get none d.sec.owners slot
def Dev.setOwner (d : Dev) (slot : Nat) (k : Option (BitVec 384)) : Dev :=
  { d with sec := { d.sec with owners := SMap.put none d.sec.owners slot k } }

/-- The checks every signed owner command passes: both signatures, this package's serial, a live nonce, signed by slot
`slot`, which holds keys (R412). -/
def Dev.authOk (d : Dev) (a : OwnerAuth) (slot : Nat) : Bool :=
  a.sigsOk && a.serial == Config.serial && d.nonceOk a.nonce && a.slot == slot && (d.owner slot).isSome

/-- PROVISIONED or DEPLOYED. -/
def Dev.inService (d : Dev) : Bool := d.sec.lifecycle == 1 || d.sec.lifecycle == 2

/-- An owner command that fails a check: answered with an error, changing nothing else (R412). -/
def Dev.refuseOwner (d : Dev) : Dev := (d.answer .ownerError).count DC.ownerRefused

/-- An owner command that is executed. -/
def Dev.acceptOwner (d : Dev) : Dev := (d.answer .ownerOk).count DC.ownerCmd

/-- A signed owner command: executed with its nonce used up where `ok` holds, refused otherwise (R412). -/
def Dev.ownerCmd (d : Dev) (a : OwnerAuth) (slot : Nat) (ok : Bool) (f : Dev → Dev) : Dev :=
  if d.serbelUp then
    if d.authOk a slot && ok then f (d.useNonce a.nonce).acceptOwner else d.refuseOwner
  else d

/-- GET_NONCE (R412): the nonce's value is a free value. -/
def execGetNonce (s : State) : Out := s.on fun d =>
  if d.serbelUp then
    let n := Config.freeBits d.fresh 256
    let d := { d.draw with sec := { d.sec with nonces := d.sec.nonces ++ [(n, d.now)] } }
    (d.answer (.nonce n)).count DC.ownerCmd
  else d

/-- PROVISION_OWNER, unsigned, in BLANK only: slot 0 is installed and the lifecycle becomes PROVISIONED (R412, R413). -/
def execProvisionOwner (keys : BitVec 384) (s : State) : Out := s.on fun d =>
  if d.serbelUp then
    if d.sec.lifecycle = 0 then
      let d := d.setOwner 0 (some keys)
      { d with sec := { d.sec with lifecycle := 1 } }.acceptOwner
    else d.refuseOwner
  else d

/-- SET_OWNER_SLOT: installs or clears slot 1 to 15; a slot named by a VALID partition cannot be cleared (R412). -/
def execSetOwnerSlot (a : OwnerAuth) (slot : Nat) (keys : Option (BitVec 384)) (s : State) : Out := s.on fun d =>
  let named := d.part.inForce.any (fun e => e.2.cfg.getLsbD 63 && fieldNat e.2.cfg 47 44 == slot)
    || d.part.accepted.any (fun e => e.2.cfg.getLsbD 63 && fieldNat e.2.cfg 47 44 == slot)
  d.ownerCmd a 0 (d.inService && decide (1 ≤ slot) && decide (slot ≤ 15) && (keys.isSome || !named)) fun d => d.setOwner slot keys

/-- GEN_UNWRAP_KEY: replaces the slot's unwrap pairs and returns the public keys (R411, R412). -/
def execGenUnwrapKey (a : OwnerAuth) (slot : Nat) (s : State) : Out := s.on fun d =>
  d.ownerCmd a slot (d.inService && decide (slot ≤ 15)) fun d =>
    let g := SMap.get 0 d.sec.unwrap slot + 1
    { d with sec := { d.sec with unwrap := SMap.put 0 d.sec.unwrap slot g } }.answer (.publicKeys slot g)

/-- SET_POLICY sets IDE_REQUIRED (R423). -/
def execSetPolicy (a : OwnerAuth) (ideRequired : Bool) (s : State) : Out := s.on fun d =>
  d.ownerCmd a 0 d.inService fun d => { d with sec := { d.sec with ideRequired := ideRequired } }

/-- SET_PARTITION_WORLD sets or clears SECURE of a partition that is not VALID, signed by its owner (R399, R412). -/
def execSetPartitionWorld (a : OwnerAuth) (partition : Nat) (secure : Bool) (s : State) : Out := s.on fun d =>
  let e := d.partAcc partition
  d.ownerCmd a (fieldNat e.cfg 47 44)
    (d.inService && decide (partition < 64) && !e.cfg.getLsbD 63 && !d.partValid partition) fun d =>
    let set := fun (w : U64) => if secure then w ||| 0x4000000000000000 else w &&& 0xBFFFFFFFFFFFFFFF
    let d := d.setPartAcc partition { e with cfg := set e.cfg }
    let i := d.partIn partition
    d.setPart partition { i with cfg := set i.cfg }

/-- The SVN of the image now running. -/
def Dev.runningSvn (d : Dev) (image : Byte) : Option Nat := (d.sec.images.find? (fun x => x.1 == image)).map (fun x => x.2.1)

/-- ADVANCE_SVN raises the fused minimum, at most to the SVN of the image now running (R410). -/
def execAdvanceSvn (a : OwnerAuth) (image : Byte) (svn : Nat) (s : State) : Out := s.on fun d =>
  let cur := SMap.get 0 d.sec.minSvn image.toNat
  let ok := match d.runningSvn image with | some v => decide (svn ≤ v) && decide (cur ≤ svn) | none => false
  d.ownerCmd a 0 (d.inService && ok) fun d => { d with sec := { d.sec with minSvn := SMap.put 0 d.sec.minSvn image.toNat svn } }

/-- SET_LIFECYCLE: PROVISIONED to DEPLOYED, or PROVISIONED or DEPLOYED to RETURNED (R413, R414). -/
def execSetLifecycle (a : OwnerAuth) (target : BitVec 2) (s : State) : Out := s.on fun d =>
  let ok := (d.sec.lifecycle == 1 && target == 2) || (d.inService && target == 3)
  d.ownerCmd a 0 ok fun d =>
    if target = 3 then d.returnPackage else { d with sec := { d.sec with lifecycle := 2 } }

/-! ### Debug -/

/-- The token and its consent are good for its scope in this lifecycle (R416, R417). -/
def Dev.tokenOk (d : Dev) (t : DebugToken) : Bool :=
  let scopeOk :=
    if t.scope = 1 ∨ t.scope = 2 then d.sec.lifecycle == 0 || (d.inService && t.consentOk)
    else if t.scope = 3 then d.sec.lifecycle == 3
    else t.scope == 4 && d.inService
  t.tokenSigsOk && t.magicFormatOk && scopeOk && t.serial == Config.serial && d.nonceOk t.nonce
    && decide (d.ledger.ltime.toNat < t.expiry.toNat) && decide (t.expiry.toNat ≤ d.ledger.ltime.toNat + 86400)

/-- DEBUG_UNLOCK (R416, R417): opens the scope at once; a scope-4 token starts the move to RETURNED and opens nothing. -/
def execDebugUnlock (tok : DebugToken) (s : State) : Out := s.on fun d =>
  if d.serbelUp then
    if d.tokenOk tok then
      let d := (d.useNonce tok.nonce).acceptOwner
      if tok.scope = 4 then d.returnPackage
      else { d with sec := { d.sec with debug := tok.scope.toNat, debugSeen := max d.sec.debugSeen tok.scope.toNat,
                                        debugExpiry := tok.expiry } }.count DC.debugUnlock
    else d.refuseOwner
  else d

/-- Debug ends (R418). -/
def Dev.endDebug (d : Dev) : Dev := { d with sec := { d.sec with debug := 0, debugExpiry := 0 } }

/-- DEBUG_LOCK ends a debug session (R418). -/
def execDebugLock (s : State) : Out := s.on fun d => if d.serbelUp then d.acceptOwner.endDebug else d

/-- Debug ends at EXPIRY in ledger time (R418). -/
def execDebugExpiry (s : State) : Out := s.on fun d =>
  if d.sec.debug ≠ 0 ∧ d.sec.debugExpiry.toNat ≤ d.ledger.ltime.toNat then d.endDebug else d

/-! ### Attestation and host keys -/

/-- What entry n of the report says of partition n (R420). -/
def Dev.attestPart (d : Dev) (p : Nat) : AttestPart :=
  let e := d.partIn p
  let owns := fun (i : Nat) => let r := d.region i
    rgValid r && !rgShared r && rgPart r == p
  { valid := e.cfg.getLsbD 63, secure := e.cfg.getLsbD 62, cfg := e.cfg, quota := e.quota,
    queues := d.reg (Off.queueRange p),
    regions := (List.range 128).foldl (fun w i => if owns i then w ||| BitVec.twoPow 128 i else w) 0,
    owner := d.owner (fieldNat e.cfg 47 44), clusters := e.clusters,
    manifest := if (d.commit p).active = 0 then 0 else (d.commit p).digest }

/-- A partition entry of the report (R420). -/
def AttestPart.word (x : AttestPart) (n : Nat) : BitVec 1536 :=
  x.manifest ++ Config.sha384 (bytesOf x.clusters 64) ++ x.owner.getD 0 ++ x.regions ++ (0 : BitVec 64) ++ x.queues ++ x.quota ++ x.cfg
    ++ (0 : BitVec 50) ++ BitVec.ofNat 6 n ++ (0 : BitVec 6) ++ BitVec.ofBool x.secure ++ BitVec.ofBool x.valid

/-- The attestation report (R419). -/
def Dev.attest (d : Dev) (nonce : BitVec 256) : AttestReport :=
  { magic := 0x54414D5A, format := 0x0001, length := 17600, serial := Config.serial, orderingE := Config.isE, stepping := 0xB0,
    node := d.glob.node, position := d.sys.position, identity := Config.identityDigests, owner0 := d.owner 0,
    images := d.sec.images, lifecycle := d.sec.lifecycle, minSvn := d.sec.minSvn, ideRequired := d.sec.ideRequired,
    fusedKeys := Config.fusedKeyDigests, debug := d.sec.debug, debugSeen := d.sec.debugSeen, debugExpiry := d.sec.debugExpiry, nonce := nonce, time := d.now,
    ltime := d.ledger.ltime, partitions := (List.range 64).map fun n => (d.attestPart n).word n }

/-- An attestation request over the CMA/SPDM DOE (R243, R419). -/
def execAttestationRequest (nonce : BitVec 256) (s : State) : Out := s.on fun d =>
  if d.serbelUp then (d.answer (.attestation (d.attest nonce))).count DC.attestReport else d

/-- IDE_KM inside an SPDM session sets the keys of a stream, which becomes active (R243, R272). -/
def execIdeKmKeySet (cachemem inSession : Bool) (s : State) : Out := s.on fun d =>
  if d.serbelUp && inSession && d.sec.lifecycle != 3 then
    { d with glob := { d.glob with ideIo := d.glob.ideIo || !cachemem, ideCm := d.glob.ideCm || cachemem } }
  else d

/-! ### Boot (R408 to R410) -/

/-- An image of the boot chain: taken from the preferred copy, with fallback to the other; a copy is good only if both
signatures verify and its SVN reaches the fused minimum. An image bad in both copies is a boot failure. -/
def execBootImageVerify (img : BootImage) (s : State) : Out := s.on fun d =>
  if d.rst.phase = .booting ∧ d.sec.bootFail = none then
    let min := SMap.get 0 d.sec.minSvn img.id.toNat
    let okA := img.okA && decide (min ≤ img.svnA)
    let okB := img.okB && decide (min ≤ img.svnB)
    let first := (d.sec.images.find? (fun x => x.1 == 1)).map (fun x => x.2.2.1)
    let preferB := if img.id = 1 then false else first.getD false
    let copyB := if preferB then okB else !okA && okB
    if okA || okB then
      let e := if copyB then (img.id, img.svnB, true, img.measureB) else (img.id, img.svnA, false, img.measureA)
      { d with sec := { d.sec with images := d.sec.images ++ [e] } }
    else { d with rst := { d.rst with phase := .bootFailed }, sec := { d.sec with bootFail := some img.id } }
  else d

/-! ### JTAG and I3C -/

/-- TRST_N resets the TAP only (R415). -/
def execTapReset (s : State) : Out := s.on fun d => { d with sec := { d.sec with tap := .idcode } }

/-- The cause of an asserted ALERT_N over MCTP (R377, R471; log 45). -/
def Dev.alertCause (d : Dev) : U32 :=
  (if d.power.stage ≥ 1 then 1 else 0) ||| (if d.power.crit then 2 else 0) ||| (if d.power.disagree then 4 else 0)
    ||| (if d.power.boHold then 8 else 0)

/-- An I3C transaction (R471): address assignment by ENTDAA or by SETDASA from the static address 0x3A, and MCTP; HDR modes
are not supported. It is answered while VDD_AUX is within limits. -/
def execI3cTransaction (op : I3cOp) (s : State) : Out := s.on fun d =>
  if d.rst.auxUp then
    match op with
    | .entdaa a => if d.sec.i3cAddr = none then { d with sec := { d.sec with i3cAddr := some a } }.answer (.i3c 0) else d.answer .i3cNack
    | .setdasa st a =>
      if st = 0x3A ∧ d.sec.i3cAddr = none then { d with sec := { d.sec with i3cAddr := some a } }.answer (.i3c 0)
      else d.answer .i3cNack
    | .mctpCause => d.answer (if d.sec.i3cAddr = none then .i3cNack else .i3c d.alertCause)
    | .mctpBootStatus =>
      d.answer (if d.sec.i3cAddr = none then .i3cNack else .i3c (match d.sec.bootFail with | some i => 0x100 ||| i.setWidth 32 | none => 0))
    | .hdr => d.answer .i3cNack
  else d

end Sys2Proof.Machine
end

