-- ==== Sys2Proof/Machine/Mesh.lean ====
section
/-! DEFINITION. The mesh and the base switch: routers, slot tables, circuits and transfers (R92, R210, R213 to R219, R457). -/

namespace Sys2Proof.Machine

/-! ### Routers and their ports (R210, R213, R457) -/

/-- Tier (0 for A), row and column of the router of cluster `c` (R210). -/
def tierOf (c : Nat) : Nat := c / 256
def meshRow (c : Nat) : Nat := c / 16 % 16
def meshCol (c : Nat) : Nat := c % 16

/-- What forwards flits by a slot table: the router of a cluster, or a segment of the base switch. -/
inductive MeshNode where
  | router (c : Nat)
  | segment (s : Nat)
  deriving DecidableEq, Repr

/-- Where a flit ends: a cluster's LOCAL port, one of the four edge ports of a Dahlia engine, or a segment's buffer on the base die: 0 of the
stack controller, 1 of Lupin, Foxglove, the staging SRAM, the request table and the ingress engine, 2 of the I/O ring (R213, R457). -/
inductive MeshEnd where
  | cluster (c : Nat)
  | engine (e port : Nat)
  | buffer (segment kind : Nat)
  deriving DecidableEq, Repr

/-- Where an output port leads: to the input port of another node, or to an end. -/
inductive MeshNext where
  | node (n : MeshNode) (port : Nat)
  | stop (e : MeshEnd)
  deriving DecidableEq, Repr

/-- Port codes in the order of R219: 0 N, 1 E, 2 S, 3 W, 4 LOCAL, 5 UP, 6 DOWN. Rows count from N to S and columns from W to E; R213's worked
example fixes E, and N is the model's choice (DESIGN CHOICE, log 133). -/
def routerNext (c port : Nat) : Option MeshNext :=
  let t := tierOf c
  let r := meshRow c
  let k := meshCol c
  match port with
  | 0 => if 0 < r then some (.node (.router (c - 16)) 2) else none
  | 1 => if k < 15 then some (.node (.router (c + 1)) 3) else some (.stop (.engine (8 * t + 4 + r / 4) (r % 4)))
  | 2 => if r < 15 then some (.node (.router (c + 16)) 0) else none
  | 3 => if 0 < k then some (.node (.router (c - 1)) 1) else some (.stop (.engine (8 * t + r / 4) (r % 4)))
  | 4 => some (.stop (.cluster c))
  | 5 => if t = 0 then some (.node (.router (c + 256)) 6) else none
  | 6 => if t = 1 then some (.node (.router (c - 256)) 5)
    else if r % 2 = 0 ∧ k % 2 = 0 then some (.node (.segment (4 * (r / 4) + k / 4)) (2 * (r / 2 % 2) + k / 2 % 2))
    else none
  | _ => none

/-- The fields of segment `s` of the base switch name the DOWN ports of four tier-A routers and its three buffers (R457). -/
def segmentNext (s port : Nat) : Option MeshNext :=
  if port < 4 then some (.node (.router (16 * (4 * (s / 4) + 2 * (port / 2)) + 4 * (s % 4) + 2 * (port % 2))) 6)
  else if port < 7 then some (.stop (.buffer s (port - 4)))
  else none

/-- Where output port `port` of a node leads. -/
def MeshNode.next : MeshNode → Nat → Option MeshNext
  | .router c, port => routerNext c port
  | .segment s, port => segmentNext s port

/-! ### Slot tables (R214, R216, R219) -/

/-- The nodes that a flit passes which enters node `n` at port `src` and leaves by `outs` in turn: node, input port and output port. -/
def hopsOf : MeshNode → Nat → List Nat → List (MeshNode × Nat × Nat)
  | _, _, [] => []
  | n, src, o :: os => (n, src, o) :: (match n.next o with | some (.node m q) => hopsOf m q os | _ => [])

/-- The segment under cluster `c`, and which of its four DOWN ports serves the cluster (R213, R457). -/
def segmentOf (c : Nat) : Nat := 4 * (meshRow c / 4) + meshCol c / 4
def segmentPort (c : Nat) : Nat := 2 * (meshRow c / 2 % 2) + meshCol c / 2 % 2

/-- The number of cluster `c` among the eight that share a DOWN port. -/
def fillGroup (c : Nat) : Nat := 4 * tierOf c + 2 * (meshRow c % 2) + meshCol c % 2

/-- A value where a condition holds, else nothing. -/
def onlyIf (b : Bool) (x : Nat) : List Nat := if b then [x] else []

/-- The nodes of the fill circuit of cluster `c` toward the stack controller's buffer, and of the one from it (R216). -/
def fillHops (c : Nat) (toward : Bool) : List (MeshNode × Nat × Nat) :=
  let t := tierOf c == 1
  let r := meshRow c % 2 == 1
  let k := meshCol c % 2 == 1
  if toward then hopsOf (.router c) 4 (onlyIf t 6 ++ onlyIf k 3 ++ onlyIf r 0 ++ [6, 4])
  else hopsOf (.segment (segmentOf c)) 4 ([segmentPort c] ++ onlyIf r 2 ++ onlyIf k 1 ++ onlyIf t 5 ++ [4])

/-- The fill circuits of cluster `c` have service slot 4 i + 3 at their `h`-th node: 16 slots of a frame toward the base die, of which no two in a
segment are the same; 64 from it, of which no two on a DOWN port are, though the segment's one port of the stack controller has 1,024 service slots
for the 2,048 of its clusters, so that two ports share each (R214, R216, R457; the assignment is the model's: DESIGN CHOICE, log 133). -/
def fillHas (c : Nat) (toward : Bool) (h i : Nat) : Bool :=
  let turn := Config.fillTurn (segmentOf c)
  let n := (fillHops c toward).length
  if toward then (i + (n - 1) + 1024 - h) % 64 == (8 * segmentPort c + fillGroup c + turn) % 64
  else (i + 1024 - h) % 16 == (8 * (segmentPort c % 2) + fillGroup c + turn) % 16

/-- An entry's bits that connect output port `out` to input port `src` (R219). -/
def connect (src out : Nat) : U32 := BitVec.ofNat 32 ((8 + src) <<< (4 * out))

/-- The clusters whose fill circuits may pass a node. -/
def MeshNode.feeds : MeshNode → List Nat
  | .router c => (List.range 8).map fun g => 256 * (g / 4) + 16 * (meshRow c - meshRow c % 2 + g / 2 % 2) + (meshCol c - meshCol c % 2 + g % 2)
  | .segment s => (List.range 32).map fun x =>
      256 * (x / 16) + 16 * (4 * (s / 4) + x / 4 % 4) + (4 * (s % 4) + x % 4)

/-- The fill circuits' part of a node's entry for service slot 4 i + 3 (R216, R219). -/
def Dev.fillWord (d : Dev) (n : MeshNode) (i : Nat) : U32 :=
  (n.feeds.filter fun c => (d.cluster c).fill).foldl (fun w c =>
    [true, false].foldl (fun w toward => (fillHops c toward).zipIdx.foldl (fun w x =>
      if x.1.1 = n && fillHas c toward x.2 i then w ||| connect x.1.2.1 x.1.2.2 else w) w) w) 0

/-- The slot-table entry of a node, without the SERVICE bit. A service slot has the entries of the fill circuits beside those of the step
circuits (R216). -/
def Dev.slotEntry (d : Dev) (n : MeshNode) (slot : Nat) : U32 :=
  let w := match n with
    | .router c => SMap.get (0 : U32) (d.cluster c).slots slot
    | .segment s => SMap.get (0 : U32) d.array.baseSlots (4096 * s + slot)
  if serviceSlot slot then w ||| d.fillWord n (slot / 4) else w

/-- The output ports that an entry connects to input port `src`. -/
def outputsOf (w : U32) (src : Nat) : List Nat :=
  (List.range 7).filter fun o => w.getLsbD (4 * o + 3) && fieldNat w (4 * o + 2) (4 * o) == src

/-- Where a flit at input port `src` of a node in mesh cycle `t` is delivered, and in which cycle: each router's entry for the slot forwards
it, and it is at the next node's input four cycles later (R214). A flit that is still under way after as many nodes as there are is lost. -/
def Dev.forward (d : Dev) : Nat → MeshNode → Nat → Nat → List (MeshEnd × Nat)
  | 0, _, _, _ => []
  | fuel + 1, n, src, t =>
    (outputsOf (d.slotEntry n (t % 4096)) src).flatMap fun o =>
      match n.next o with
      | some (.node m q) => d.forward fuel m q (t + 4)
      | some (.stop (.engine e k)) => [(.engine e k, t + 4)]
      | some (.stop e) => [(e, t)]
      | none => []

/-- The clusters that a flit entering node `n` at port `src` in cycle `t` reaches. -/
def Dev.reachesFrom (d : Dev) (n : MeshNode) (src t : Nat) : List (Nat × Nat) :=
  (d.forward 528 n src t).filterMap fun x => match x.1 with | .cluster r => some (r, x.2) | _ => none

/-- The clusters that a flit injected at the LOCAL port of cluster `c` in cycle `t` reaches. -/
def Dev.reaches (d : Dev) (c t : Nat) : List (Nat × Nat) := d.reachesFrom (.router c) 4 t

/-! ### Circuits and transfers (R214, R215) -/

/-- The first mesh cycle at or after this instant: MESH_CLK is the root clock over 5 (R236). The slot is that cycle modulo 4,096 (R214). -/
def Dev.meshCycle (d : Dev) : Nat := ceilDiv d.rst.rootCount.toNat 5

/-- The first mesh cycle at or after a planned time of cluster `c`'s schedule. -/
def Dev.plannedCycle (d : Dev) (c planned : Nat) : Nat :=
  ceilDiv (d.rst.rootCount.toNat - 8 * d.since (d.cluster c).sequencer.base + 8 * planned) 5

/-- The cycle of the i-th slot of a circuit since cycle 0; its slots are in rising order. -/
def slotCycle (slots : List Nat) (i : Nat) : Nat := 4096 * (i / slots.length) + slots.getD (i % slots.length) 0

/-- The index of the circuit's first slot at or after cycle `x`. -/
def firstSlot (slots : List Nat) (x : Nat) : Nat := x / 4096 * slots.length + (slots.filter (fun s => decide (s < x % 4096))).length

/-- The first mesh cycle whose slot the circuit has yet to give out. -/
def Dev.circuitNext (d : Dev) (c : Nat) (slots : List Nat) : Nat :=
  ((d.array.circuits.find? fun e => e.1 == c && e.2.1 == slots).map fun e => e.2.2).getD 0

/-- The circuit has given out every slot before its `i`-th. -/
def Dev.takeSlots (d : Dev) (c : Nat) (slots : List Nat) (i : Nat) : Dev :=
  { d with array := { d.array with circuits := (c, slots, slotCycle slots (i - 1) + 1) :: d.array.circuits.filter fun e => !(e.1 == c && e.2.1 == slots) } }

/-- Index of the first slot that a transfer of cluster `c` takes: the first at or after readiness, not before the planned time, and after those
that earlier transfers have taken, so that flits arrive in the order in which they were sent (R212, R215). -/
def Dev.slotIndex (d : Dev) (c planned : Nat) (slots : List Nat) : Nat :=
  firstSlot slots (max (max d.meshCycle (d.plannedCycle c planned)) (d.circuitNext c slots))

/-- The transfer's first flit misses its planned slot. -/
def Dev.missesSlot (d : Dev) (c planned : Nat) (slots : List Nat) : Bool :=
  d.slotIndex c planned slots != firstSlot slots (d.plannedCycle c planned)

/-- The mesh delivers to a receive action: row `key`, or output block `key` − 512, complete in cycle `t`. -/
def Dev.arrive (d : Dev) (c key t : Nat) : Dev :=
  d.updCluster c fun x =>
    let before := ((x.arrivals.find? fun e => e.1 == key).map Prod.snd).getD 0
    { x with arrivals := (x.arrivals.filter fun e => e.1 != key) ++ [(key, max before t)] }

/-- One flit's bytes reach the scratchpads of every receiver (R214). -/
def Dev.sendPiece (d : Dev) (c t : Nat) (p : MeshPiece) : Dev :=
  let bytes := ((d.spadBytes c p.row).drop p.at_).take (min 64 p.len)
  d.forAll (d.reaches c t) fun d x =>
    (d.pokeSpad x.1 p.dstRow p.dstAt bytes).arrive x.1 p.dstRow x.2

/-- Merges lanes, given as their state words and extension words, into output block `base` of cluster `c` (R92). -/
def Dev.mergeLanes (d : Dev) (c base : Nat) (ws : List (U64 × U64)) : Dev :=
  d.forAll ws.zipIdx fun d w => d.setAccLane c (32 * base + w.2) ((d.accLane c (32 * base + w.2)).merge (Lane.ofWords w.1.1 w.1.2))

/-- The state words of output block `b` of cluster `c`, with the extension words. -/
def Dev.blockWords (d : Dev) (c b : Nat) : List (U64 × U64) :=
  (List.range 32).map fun i => ((d.accLane c (32 * b + i)).word, (d.accLane c (32 * b + i)).extWord)

/-- Flits of an output block's lane state: 32 words of 8 bytes, and as many extension words where a lane is extended (R92). -/
def blockFlits (ws : List (U64 × U64)) : Nat := if ws.any (fun w => w.1.getLsbD 59) then 8 else 4

/-- An output block leaves cluster `c` as lane state, complete with the flit of cycle `t`: its lanes are EMPTY here, and merged where they
arrive (R92). -/
def Dev.sendBlock (d : Dev) (c b base t : Nat) : Dev :=
  let ws := d.blockWords c b
  let d := d.updCluster c fun x => { x with lanes := (List.range 32).foldl (fun m i => SMap.put Lane.fresh m (32 * b + i) Lane.fresh) x.lanes }
  d.forAll (d.reaches c t) fun d x => (d.mergeLanes x.1 base ws).arrive x.1 (512 + base) x.2

/-- Output blocks leave one after another, from the circuit's slot `i` on. -/
def Dev.sendBlocks (d : Dev) (c base i : Nat) (slots : List Nat) : List Nat → Dev
  | [] => d
  | b :: bs =>
    let n := blockFlits (d.blockWords c b)
    (d.sendBlock c b base (slotCycle slots (i + n - 1))).sendBlocks c (base + 1) (i + n) slots bs

/-- Flits of a transfer. -/
def Dev.loadFlits (d : Dev) (c : Nat) (load : MeshLoad) : Nat :=
  match load with
  | .rows ps => ps.length
  | .lanes first count _ => ((List.range count).map fun i => blockFlits (d.blockWords c (first + i))).sum
  | .buffer _ _ ps => ps.length

/-! ### The ingress buffers of the base switch (R217, R218) -/

/-- The bytes of a piece in the I/O ring's buffer, for a cluster of the partition whose step is in progress. -/
def Dev.ringBytes (d : Dev) (c : Nat) (vc : BitVec 2) (p : MeshPiece) : Option (List Byte) :=
  let mine := fun (e : StepData) => d.clusterOwner c == some e.partition && e.vc == vc
    && (match (d.job e.partition).step with | some st => st.desc.no == e.step | none => false)
  ((d.link.ingress.find? mine).bind fun e => e.rows[p.row]?).map fun w => ((bytesOf w 512).drop p.at_).take (min 64 p.len)

/-- What a segment's buffer holds of a piece for cluster `c`: places in the cluster's row, with their bytes; nothing, where it does not yet
hold the data. -/
def Dev.bufferBytes (d : Dev) (segment kind c : Nat) (vc : BitVec 2) (p : MeshPiece) : List (Nat × List Byte) :=
  if kind = 2 then ((d.ringBytes c vc p).map fun bs => (p.dstAt, bs)).toList
  else (d.array.baseIn.filter fun e => e.kind == kind && e.cluster == c && segmentOf c == segment && e.row == p.dstRow
      && decide (p.dstAt ≤ e.at_) && decide (e.at_ + e.bytes.length ≤ p.dstAt + min 64 p.len)).map fun e => (e.at_, e.bytes)

/-- One slot of a segment: the piece goes where the slot tables forward it; without data in the buffer the slot goes empty (R214, R217,
R239). -/
def Dev.sendBuffered (d : Dev) (s kind : Nat) (vc : BitVec 2) (t : Nat) (p : MeshPiece) : Dev :=
  let ends := (d.reachesFrom (.segment s) (4 + kind) t).map fun x => (x, d.bufferBytes s kind x.1 vc p)
  if ends.all fun e => e.2.isEmpty then d.count DC.meshEmptySlot
  else
    let d := d.forAll (ends.filter fun e => !e.2.isEmpty) fun d e =>
      (d.forAll e.2 fun d b => d.pokeSpad e.1.1 p.dstRow b.1 b.2).arrive e.1.1 p.dstRow e.1.2
    let sent := fun (x : BaseIn) => ends.any fun e => x.kind == kind && x.cluster == e.1.1 && x.row == p.dstRow && e.2.contains (x.at_, x.bytes)
    if kind = 2 then d else { d with array := { d.array with baseIn := d.array.baseIn.filter fun x => !sent x } }

/-- MESH_TRANSFER: its n flits take the next n slots of the circuit, from the first at or after readiness (R215); flits of service traffic take
the first of them and carry no step data (R216). Each goes where the slot tables forward it (R214, R217). -/
def execMeshTransfer (cluster planned : Nat) (slots : List Nat) (service : Nat) (load : MeshLoad) (s : State) : Out := s.on fun d =>
  let n := service + d.loadFlits cluster load
  let d := if slots.isEmpty || decide (cluster ≥ 512) || !d.missesSlot cluster planned slots then d else d.countC cluster CC.meshSlotMiss n
  let i := d.slotIndex cluster planned slots + service
  if slots.isEmpty then d
  else
    let d := if n = 0 then d else d.takeSlots cluster slots (i - service + n)
    match load with
    | .rows ps =>
      let d := d.forAll (ps.map MeshPiece.row).dedup fun d r => d.useRow cluster r
      let ends := (ps.zipIdx.flatMap fun p => (d.reaches cluster (slotCycle slots (i + p.2))).map fun x => (x.1, p.1.dstRow)).dedup
      let d := d.forAll ps.zipIdx fun d p => d.sendPiece cluster (slotCycle slots (i + p.2)) p.1
      d.forAll ends fun d x => d.useRow x.1 x.2
    | .buffer kind vc ps => d.forAll ps.zipIdx fun d p => d.sendBuffered (cluster - 512) kind vc (slotCycle slots (i + p.2)) p.1
    | .lanes first count base => d.sendBlocks cluster base i slots ((List.range count).map (first + ·))

end Sys2Proof.Machine
end

