-- ==== Sys2Proof/Machine/Sequencer.lean ====
section
/-! DEFINITION. The cluster sequencers: planned actions, waits and how they are charged, the guard windows, output blocks, and the start of a
step's schedule (R28, R79, R92 to R95, R105 to R109, R153, R211, R212, R215 to R217, R222, R299, R302, R435). -/

namespace Sys2Proof.Machine

/-! ### Output blocks (R79, R92 to R95) -/

/-- Exponent row and row within its group of data row `row`, from the handle table (R79, R223). -/
def Cluster.expRow (x : Cluster) (row : Nat) : Option (Nat × Nat) :=
  x.handles.findSome? fun h =>
    let base := fieldNat h.2 8 0
    let off := row - base
    if h.2.getLsbD 31 && fieldNat h.2 30 29 == 1 && decide (base ≤ row) && decide (off < fieldNat h.2 19 10) && decide (off % 33 ≠ 0)
    then some (base + 33 * (off / 33), off % 33 - 1) else none

/-- Output block `block` of cluster `c` is EMPTY again. -/
def Dev.emptyBlock (d : Dev) (c block : Nat) : Dev :=
  d.updCluster c fun x => { x with lanes := (List.range 32).foldl (fun m i => SMap.put Lane.fresh m (32 * block + i) Lane.fresh) x.lanes }

/-- Writes bytes to a half-row of scratchpad rows from `row` on: half `h` is bytes 256 × (h mod 2) of row `row` + h / 2. -/
def Dev.writeHalf (d : Dev) (c row h : Nat) (bs : List Byte) : Dev := d.patchSpad c (row + h / 2) (256 * (h % 2)) bs

/-- Spills output block `block` to the half-row `half` of a row, an extended block's extension words to the half-row after it (R92). -/
def Dev.spillBlock (d : Dev) (c block row half : Nat) : Dev × List Byte :=
  let ws := d.blockWords c block
  let low := ws.flatMap fun w => bytesOf w.1 8
  let d := d.writeHalf c row half low
  let d := if blockFlits ws = 8 then d.writeHalf c row (half + 1) (ws.flatMap fun w => bytesOf w.2 8) else d
  (d.emptyBlock c block, low ++ (if blockFlits ws = 8 then ws.flatMap fun w => bytesOf w.2 8 else []))

/-- Writes output block `block` in a format: 0 Z8 with its exponent, 1 E4M3, 2 E5M2, 3 BF16. Each lane is rounded once and counted, and is
EMPTY again (R93 to R95, R111). Answers the bytes written, a Z8 block's exponent before its mantissas. -/
def Dev.writeBlock (d : Dev) (c block row : Nat) (fmt : BitVec 3) : Dev × List Byte :=
  let x := d.cluster c
  let ls := (List.range 32).map fun i => d.accLane c (32 * block + i)
  let z := z8Block ls
  let out : List Byte × Nat :=
    if fmt = 0 then (z.2.1, if z.2.2 then 1 else 0)
    else if fmt = 1 then codeBytes Fmt.e4m3 1 ls
    else if fmt = 2 then codeBytes Fmt.e5m2 1 ls
    else codeBytes Fmt.bf16 2 ls
  let d := if fmt = 0 then
      let d := d.patchSpad c row (32 * (block % 16)) out.1
      match x.expRow row with
      | some e => d.patchSpad c e.1 (16 * e.2 + block % 16) [BitVec.ofNat 8 z.1]
      | none => d
    else if fmt = 3 then d.patchSpad c row (64 * (block % 8)) out.1
    else d.patchSpad c row (32 * (block % 16)) out.1
  let k := fun (p : Lane → Bool) => (ls.filter p).length
  let d := if k (·.inexact) = 0 then d else d.countC c CC.arithInexact (k (·.inexact))
  let d := if k (·.poison) = 0 then d else d.countC c CC.arithPoison (k (·.poison))
  let d := if out.2 = 0 then d else d.countC c CC.arithSaturate out.2
  (d.emptyBlock c block, (if fmt = 0 then [BitVec.ofNat 8 z.1] else []) ++ out.1)

/-- Formats 0 to 3 round the block; the others spill it as lane state (R92, R93). R92 has two blocks fit in a row and does not say which half a
block takes: half `block` mod 2 (DESIGN CHOICE, log 166). -/
def Dev.outputBlock (d : Dev) (c block row : Nat) (fmt : BitVec 3) : Dev × List Byte :=
  if fmt.toNat ≤ 3 then d.writeBlock c block row fmt else d.spillBlock c block row (block % 2)

/-- Reads spilled lane state back and adds it: add(lane, ACC, A), as a moved lane is merged (R92). -/
def Dev.readLanes (d : Dev) (c block row half : Nat) : Dev :=
  let word := fun (h i : Nat) => (SMap.get (0 : BitVec 4096) (d.cluster c).spad (row + h / 2)).extractLsb' (2048 * (h % 2) + 64 * i) 64
  let ws : List (U64 × U64) := (List.range 32).map fun i => (word half i, word (half + 1) i)
  let d := d.useRow c (row + half / 2)
  let d := if blockFlits ws = 8 then d.useRow c (row + (half + 1) / 2) else d
  d.mergeLanes c block ws

/-! ### Lateness and the guard window (R105, R106, R108, R212) -/

/-- Changes the sequencer of cluster `c`. -/
def Dev.updSeq (d : Dev) (c : Nat) (f : Seq → Seq) : Dev := d.updCluster c fun x => { x with sequencer := f x.sequencer }

/-- The sequencer turns to the slot of a sublayer: the new pair's lateness is its own (R105). -/
def Seq.enter (q : Seq) (layer : Nat) : Seq := if q.layer = some layer then q else { q with layer := some layer, late := 0 }

/-- The step in progress on the owner of cluster `c` runs in held mode. -/
def Dev.heldAt (d : Dev) (c : Nat) : Bool :=
  match d.clusterOwner c with
  | some p => (match (d.job p).step with | some s => s.desc.held | none => false)
  | none => false

/-- The guard window is overrun: the step is marked at the first instant at which the running lateness of a pair exceeds it, except a held
step (R105, R106, R108). -/
def Dev.checkGuard (d : Dev) (c : Nat) : Dev :=
  match d.clusterOwner c, (d.cluster c).sequencer.layer with
  | some p, some l =>
    match (d.job p).step, d.pairOf c l with
    | some st, some g => if d.runningLate c > g.guard ∧ st.started ∧ !st.desc.held ∧ !st.marked then (d.mark p).count DC.stepMarkGuard else d
    | _, _ => d
  | _, _ => d

/-- The action is issued: the program counter moves on, and what the sequencer is behind stays: every later action moves by as much (R105,
R212). -/
def Dev.issued (d : Dev) (c planned : Nat) : Dev :=
  let late := d.behind c planned
  (d.updSeq c fun q => { q with late := max q.late late, shift := max q.shift (d.since q.base - planned), pc := q.pc + 1, stall := 0, waitsFor := none, slotAt := none, receiving := false,
                                holding := false }).checkGuard c

/-- The action waits under a stall code. `excuse`: the wait counts against no pair, or against another one (R105, R212, R435). -/
def Dev.stalled (d : Dev) (c planned : Nat) (code : BitVec 4) (excuse : Bool) : Dev :=
  (d.updSeq c fun q => { q with stall := code, waitsFor := some planned, excusing := excuse }).checkGuard c

/-! ### What keeps an action from being issued (R212, R435) -/

/-- What keeps an operation of physical tile `k` from being issued, as a stall code; 0 for nothing (R62, R68, R76). -/
def Dev.tileStall (d : Dev) (k : Nat) : BitVec 4 :=
  let t := d.tile k
  if d.budgetWaits k || d.power.boHold || d.power.sweep then 0xA
  else if !t.owed.isEmpty then 6
  else if t.edge.isSome || !d.pastPeriods k then 2
  else if d.restoreFirst k || d.rowRuns k then 8
  else 0

/-- Dahlia operations of job `p` wait, for the reservation or for the end of a hold (R146, R370). -/
def Dev.dahliaWaits (d : Dev) (p : Nat) : Bool := d.engine.waiting.any (fun o => o.partition == p) && (!d.halfFits || d.power.boHold || d.power.sweep)

/-- Results of logical tile `lt` that are outstanding for inputs that `sel` selects, as the stall code that names why; 0 for none. A wait for
the budget or for the Dahlia reservation, and any time of a hold, is budget wait; a cache miss is a stack wait (R76, R97, R146, R225, R370,
R435). -/
def Dev.resultStall (d : Dev) (lt : Nat) (sel : EdgeVec → Bool) : BitVec 4 :=
  let code : BitVec 4 :=
    if d.engine.standInputs.any fun x => x.1 == lt && sel x.2 then (if d.standInWaits lt && !d.halfFits then 0xA else 0xB)
    else match d.physOf (lt / 64) (lt % 64) with
      | none => 0
      | some k =>
        let t := d.tile k
        let begins := (t.owed.any fun e => sel e.vec) || t.edge.any sel
        if begins && d.budgetWaits k then 0xA
        else if t.owed.any fun e => sel e.vec then 6
        else if t.settling.any fun x => sel x.ev.vec then 3
        else if t.edge.any sel && (d.restoreFirst k || d.rowRuns k) then 8
        else if (t.evals.any fun e => sel e.vec) || t.edge.any sel then 2
        else 0
  let code : BitVec 4 := if code = 0 && (d.cluster (lt / 64)).sideWaits.any fun w => w.tile == lt && sel w.vec then 4 else code
  if code ≠ 0 && (d.power.boHold || d.power.sweep) then 0xA else code

/-- What the pair of cluster `c` and a sublayer still waits for: the first code of its logical tiles that is not 0. -/
def Dev.pairStall (d : Dev) (c layer : Nat) : BitVec 4 :=
  (((List.range Config.logicalPerCluster).map fun l => d.resultStall (64 * c + l) fun v => v.layer == layer).find? (· != 0)).getD 0

/-- The accumulation of a sublayer is complete in every cluster of the job that contributes to it (R108, R212). -/
def Dev.layerDone (d : Dev) (c layer : Nat) : Bool :=
  match d.clusterOwner c with
  | none => true
  | some p => (d.partClusters p).all fun x => (d.pairOf x layer).isNone || (d.cluster x).sequencer.ended.contains layer

/-- The end of a pair: nothing of it is outstanding on the cluster; its lateness is the time after its slot's planned end (R105, R111). -/
def Dev.endPair (d : Dev) (c layer planned : Nat) : Dev :=
  let due := match d.pairOf c layer with | some g => g.start + g.slot | none => planned
  let code := d.pairStall c layer
  if code ≠ 0 then d.stalled c due code (code == 0xA)
  else
    let late := max (d.cluster c).sequencer.late (d.behind c due)
    let d := if late = 0 then d else d.countC c CC.arithLateCycles late
    (d.updSeq c fun q => { q with ended := if q.ended.contains layer then q.ended else q.ended ++ [layer] }).issued c due

/-- An action that needs a slot of a circuit: one that has missed its slot waits for the circuit's next slot, a wait charged as the one that made
it miss (R212, R215). -/
def Dev.atSlot (d : Dev) (c planned : Nat) (slots : List Nat) (f : Dev → Dev) : Dev :=
  let q := (d.cluster c).sequencer
  let at_ := q.slotAt.getD (slotCycle slots (d.slotIndex c planned slots))
  if slots.isEmpty || (q.slotAt.isNone && !d.missesSlot c planned slots) || decide (5 * at_ < d.rst.rootCount.toNat + 8) then f d
  else (d.updSeq c fun q => { q with slotAt := some at_ }).stalled c planned 1 q.excusing

/-- An injection: in held mode the first one of a sublayer's output waits until that sublayer's accumulation is complete in every cluster
that contributes to it (R108). -/
def Dev.inject (d : Dev) (c planned : Nat) (slots : List Nat) (output : Option Nat) : Dev :=
  if d.heldAt c && output.any (fun l => !d.layerDone c l) then
    (d.updSeq c fun q => { q with holding := true, slotAt := none }).stalled c planned 7 true
  else
    (d.updSeq c fun q => { q with holding := false }).atSlot c planned slots fun d => d.issued c planned

/-- An output block is written; where an armed watch matches it, a copy leaves on the cluster's fill circuit as it is written, for a slot of which
the sequencer waits (R93, R216, R438). -/
def Dev.outputAction (d : Dev) (c planned block row : Nat) (fmt : BitVec 3) (tag : Option BlockTag) : Dev :=
  match tag, d.clusterOwner c with
  | some t, some p =>
    let write := fun (d : Dev) =>
      let x := d.outputBlock c block row fmt
      (x.1.captureBlock p c t (fmt.setWidth 4) 32 x.2).issued c planned
    if d.watched p t then d.atSlot c planned t.slots write else write d
  | _, _ => (d.outputBlock c block row fmt).1.issued c planned

/-- A receive action takes what has been delivered, or waits (R212, R217). Data of the mesh that are late count against the pair that sends
them; data of the base switch are waited for as stack wait or as window wait, by their buffer (R435). -/
def Dev.receive (d : Dev) (c planned : Nat) (src : RecvSrc) : Dev :=
  let keys := match src with | .mesh rows blocks => rows ++ blocks.map (512 + ·) | .base _ rows => rows
  let there := fun (k : Nat) => (d.cluster c).arrivals.any fun e => e.1 == k && decide (5 * e.2 ≤ d.rst.rootCount.toNat)
  if keys.all there then
    (d.updCluster c fun x => { x with arrivals := x.arrivals.filter fun e => !keys.contains e.1 }).issued c planned
  else
    let d := d.updSeq c fun q => { q with receiving := true }
    match src with
    | .mesh .. => d.stalled c planned (match d.clusterOwner c with | some p => if d.dahliaWaits p then 0xA else 1 | none => 1) true
    | .base kind _ => d.stalled c planned (if kind = 2 then 5 else 4) false

/-- A scratchpad row read with errors (R222): corrected words and words delivered as 0x80 bytes are counted and reported. -/
def Dev.spadRead (d : Dev) (c row : Nat) (correctable uncorrectable : List Nat) : Dev :=
  let d := d.forAll correctable fun d _ => (d.countC c CC.spadCe).spadCe c row
  d.forAll uncorrectable fun d w => ((d.pokeSpad c row (8 * w) (List.replicate 8 0x80)).countC c CC.spadUe).spadUe c row

/-- A one-sided write of 1 to 65,536 bytes leaves for a window of another position, under a transfer tag (R299, R302). -/
def Dev.sendWindow (d : Dev) (c pos : Nat) (window : BitVec 12) (epoch : U16) (offset : BitVec 24) (body : List Byte) : Dev :=
  if body.length = 0 ∨ body.length > 65536 then d
  else
    let p := (d.clusterOwner c).getD 0
    let x := d.link.nextXfer
    let op := (d.job p).step.bind fun s => if s.desc.op.isSome then some s.desc.no else none
    let t : Transfer := { xfer := x, windowId := window, partition := p, sentAt := d.now, done := none, step := op }
    let m : WinWrite := { src := d.glob.node, partition := p, offset := offset, xfer := x, epoch := epoch, windowId := window, body := body }
    { d with link := { d.link with transfers := (d.link.transfers.filter fun (y : Transfer) => y.xfer != x) ++ [t], nextXfer := x + 1 } }.send
      (.windowWrite pos m)

/-! ### The commands -/

/-- An action in the slot of a sublayer (R212). -/
def Dev.act (d : Dev) (c layer planned : Nat) (a : SeqAction) : Dev :=
  match a with
  | .tileOp l =>
    match d.physOf c l with
    | none => d.issued c planned
    | some k =>
      if d.onStandIn c l then d.issued c planned
      else
        let st := d.tileStall k
        if st = 0 then (d.unwait k 1).issued c planned
        else if st = 0xA then (d.await k 1 1).stalled c planned st true else d.stalled c planned st false
  | .edgeRead l =>
    let st := d.resultStall (64 * c + l) fun _ => true
    if st = 0 then d.issued c planned else d.stalled c planned st (st == 0xA)
  | .correction (.residualAdd dst x y n) => (d.residualAdd c dst x y n).issued c planned
  | .correction (.other rows) => (d.freeRows c rows).issued c planned
  | .outputBlock block row fmt tag => d.outputAction c planned block row fmt tag
  | .readLanes block row half => (d.readLanes c block row half).issued c planned
  | .inject slots output => d.inject c planned slots output
  | .windowWrite pos window epoch offset body => (d.sendWindow c pos window epoch offset body).issued c planned
  | .receive src => d.receive c planned src
  | .barrier => d.updSeq c fun q => { q with atBarrier := true, stall := 4, waitsFor := none }
  | .endPair => d.endPair c layer planned
  | .kvWrite handle stream values => (d.kvWrite handle stream values).issued c planned
  | .spadRead row ce ue => ((d.useRow c row).spadRead c row ce ue).issued c planned

/-- The planned time of an action, with what the plan has moved by, is yet to come (R212). -/
def Dev.early (d : Dev) (c planned : Nat) : Bool :=
  let q := (d.cluster c).sequencer
  decide (d.since q.base < planned + q.shift)

/-- SEQUENCER_ACTION (R212): each action is performed at its planned time, moved by the stalls before it; one that comes earlier waits for it.
Then it is issued, or it stalls the sequencer; at an attention barrier nothing is issued before the release (R153). -/
def execSequencerAction (cluster : Nat) (a : PlannedAction) (s : State) : Out := s.on fun d =>
  if (d.cluster cluster).sequencer.atBarrier then d
  else if d.early cluster a.planned then (d.updSeq cluster fun q => { q.enter a.layer with stall := 0, waitsFor := some a.planned }).checkGuard cluster
  else (d.updSeq cluster fun q => q.enter a.layer).act cluster a.layer a.planned a.action

/-- Queues the stand-ins of job `p`'s withheld logical tiles that have a circuit, as many as its reservation gives halves; the others run on
the correction-unit path for the step (R147, R148, R150, R216). The spec names no order among them: the model takes the lowest logical tiles
first (DESIGN CHOICE, log 134). -/
def Dev.queueStandIns (d : Dev) (p : Nat) : Dev :=
  let all := ((d.placed p).filter fun x => d.onStandIn x.cluster x.ltile).map fun x => 64 * x.cluster + x.ltile
  let lts := (all.foldl (fun (m : SMap Nat) lt => if d.engine.noCircuit.contains lt then m else SMap.put 0 m lt 1) []).map Prod.fst
  let room := (d.job p).reserve / 385
  let d := { d with engine := { d.engine with noCircuit := d.engine.noCircuit ++ lts.drop room } }
  d.forAll (lts.take room) fun d lt =>
    if d.standInRuns lt || d.standInWaits lt then d
    else d.queueOp { partition := p, kind := .standIn lt }

/-- The schedule of job `p`'s step begins: the sequencers start, and the planner's shadow entries replace the old step circuits (R212,
R216). -/
def Dev.startSchedule (d : Dev) (p : Nat) : Dev :=
  match (d.job p).step with
  | none => d
  | some st =>
    let d := d.updJob p fun j => { j with step := some { st with started := true, due := false, startedAt := d.now } }
    let d := d.updSeqs p fun _ => { Seq.idle with base := d.now }
    let d := d.forAll (d.partClusters p) fun d c => d.updCluster c fun x =>
      { x with slots := x.shadow.foldl (fun m e => SMap.put 0 m e.1 e.2) (SMap.keep (fun s => !serviceSlot s) x.slots), shadow := [],
               arrivals := [] }
    let own := d.partClusters p
    let d := { d with array := { d.array with circuits := d.array.circuits.filter fun e => !own.contains e.1 } }
    (d.queueStandIns p).startHalves 32

/-- Slot 0 of a frame: 4,096 cycles of MESH_CLK are 20,480 root periods (R214, R236). -/
def Dev.frameStart (d : Dev) : Bool := decide (d.rst.rootCount.toNat % 20480 = 0)

/-- STEP_SCHEDULE_START: the boundary work is over. The schedule begins at slot 0 of the next frame: now, or when the slot counter comes
there (R212). -/
def execStepScheduleStart (partition : Nat) (s : State) : Out := s.on fun d =>
  match (d.job partition).step with
  | none => d
  | some st =>
    if st.started then d
    else if d.frameStart then d.startSchedule partition
    else d.updJob partition fun j => { j with step := some { st with due := true } }

/-- A frame begins: so do the schedules that wait for it (R212). -/
def Dev.startDue (d : Dev) : Dev :=
  if d.frameStart then
    let ps := (d.serve.jobs.filter fun e => match e.2.step with | some st => st.due && !st.started | none => false).map Prod.fst
    d.forAll ps Dev.startSchedule
  else d

end Sys2Proof.Machine
end

