-- ==== Sys2Proof/Machine/Shard.lean ====
section
/-! DEFINITION. Weight shards, golden banks, commits and replicas, and the Crocus packs (R52, R98, R315 to R333, R347 to R351). -/

namespace Sys2Proof.Machine

/-! ### Banks and versions (R326, R327, R330) -/

/-- The version that member `m`'s active bank holds, as the lead knows it. -/
def Dev.memberVersion (d : Dev) (p m : Nat) : U32 :=
  if d.memberIndex p = some m then (d.commit p).version else SMap.get 0 (d.job p).versions m

/-- The version that member `m`'s inactive bank holds valid. -/
def Dev.memberReady (d : Dev) (p m : Nat) : U32 :=
  if d.memberIndex p = some m then (d.commit p).ready else SMap.get 0 (d.job p).loaded m

/-- Member indices of a job. -/
def Dev.memberList (d : Dev) (p : Nat) : List Nat := List.range (d.members p).length

/-- Every placed logical tile has a READY tile or a stand-in (R329, step 4). -/
def Dev.tilesServe (d : Dev) (p b : Nat) : Bool :=
  (d.bank p b).placement.all fun x =>
    d.onStandIn x.cluster x.ltile || (match d.physOf x.cluster x.ltile with
      | some k => decide ((d.tile k).state = .ready) || decide ((d.tile k).state = .restoring)
      | none => true)

/-- The job serves: every member's active bank holds one version, and this member programs nothing of it (R330). -/
def Dev.jobServes (d : Dev) (p : Nat) : Bool :=
  let v := (d.commit p).version
  decide (v ≠ 0) && (d.memberList p).all (fun m => d.memberVersion p m == v) && (d.committing p).isNone && !(d.job p).rebuilding

/-! ### Reports to the lead (R325, R329; log 50) -/

/-- Completes LOAD_SHARD once every member has reported (R325). Where the members loaded different banks, RESULT names the lead's own, which
R325 leaves open (DESIGN CHOICE, log 181). -/
def Dev.finishLoad (d : Dev) (p : Nat) : Dev :=
  match (d.job p).loading with
  | none => d
  | some l =>
    if l.waiting.isEmpty then
      let d := d.updJob p fun j => { j with loading := none }
      match l.failed.foldl (fun (m : Option (Nat × Byte)) f => match m with | some x => if f.1 < x.1 then some f else some x | none => some f) none with
      | some f => d.complete l.origin 0x40 f.2 (BitVec.ofNat 32 f.1)
      | none => d.complete l.origin 0x40 St.success (BitVec.ofNat 32 ((d.commit p).inactive))
    else d

/-- The lead takes a member's report of a load; one that failed has left the member's inactive bank invalid (R325, R326). -/
def Dev.takeLoadReport (d : Dev) (p m : Nat) (version : U32) (status : Byte) : Dev :=
  let d := d.updJob p fun j =>
    { j with loaded := if d.memberIndex p ≠ some m then SMap.put 0 j.loaded m (if status = 0 then version else 0) else j.loaded,
             loading := j.loading.map fun l =>
               { l with waiting := l.waiting.erase m, failed := if status = 0 then l.failed else l.failed ++ [(m, status)] } }
  d.finishLoad p

/-- A member reports a load. -/
def Dev.reportLoad (d : Dev) (p : Nat) (version : U32) (status : Byte) : Dev :=
  match d.memberIndex p with
  | none => d
  | some m => if d.isLead p then d.takeLoadReport p m version status else d.send (.bulk (.loadReport p m version status))

/-- The lead takes a member's report of a commit: a digest failure completes COMMIT_SHARD (R329). -/
def Dev.takeCommitReport (d : Dev) (p m : Nat) (version : U32) (status : Byte) : Dev :=
  let d := if d.memberIndex p = some m then d else d.updJob p fun j => { j with versions := SMap.put 0 j.versions m version }
  if status = 0 then d
  else match (d.job p).drain with
    | some dr => (d.updJob p fun j => { j with drain := none }).complete dr.origin 0x41 status 0
    | none => d

/-- A member reports a commit to the lead, and to the primary gateway, which keeps the job's version and may wait for a spare (R308, R312,
R329). -/
def Dev.reportCommit (d : Dev) (p : Nat) (status : Byte) : Dev :=
  match d.memberIndex p with
  | none => d
  | some m =>
    let v := (d.commit p).version
    let d := if d.isLead p then d.takeCommitReport p m v status else d
    if d.isLead p ∧ d.sys.primary ∧ !(d.jobSetup p).stopped then d else d.send (.bulk (.commitReport p m v status))

/-! ### Loading (R321 to R325) -/

/-- The load of partition `p` fails: the bank becomes invalid, and the member reports (R325). -/
def Dev.failLoad (d : Dev) (p : Nat) (status : Byte) : Dev :=
  let c := d.commit p
  ((d.setCommit p (c.setState c.inactive 3)).setLoad p none).reportLoad p 0 status

/-- Shards and Crocus packs are refused outside PROVISIONED and DEPLOYED; a signature verifies under keys that the key store
holds (R320, R347, R411, R413). -/
def Dev.takesShards (d : Dev) (slot : Nat) : Bool := d.inService && (d.owner slot).isSome

/-- The manifest is accepted: both unwraps succeed, under the unwrap pairs that the owner's slot holds, and KEY_CHECK agrees; the signatures
verify under keys that the store holds; MAGIC, FORMAT, MEMBER and the extents agree with this member under its job's SYS_JOB (R319, R320). -/
def Dev.manifestOk (d : Dev) (p m : Nat) (x : Manifest) : Bool :=
  x.rsaOk && x.keyCheckOk && SMap.get 0 d.sec.unwrap (d.ownerSlot p) != 0 && x.sigsOk && d.takesShards (d.ownerSlot p)
    && x.magic == 0x315A5247 && x.format == 0x0001 && x.member == m && x.extents == (d.jobSetup p).shape.extractLsb' 6 6

/-- The IV of chunk `n`: SHARD_VERSION, MEMBER and n, each in 32 bits little-endian (R319). -/
def chunkIv (version : U32) (member n : Nat) : BitVec 96 := BitVec.ofNat 32 n ++ BitVec.ofNat 32 member ++ version

/-- The chunks that a manifest lists, none read yet. -/
def manifestChunks (x : Manifest) (base : U64) : List ChunkLeft :=
  x.chunks.zipIdx.map fun w =>
    { n := w.2, part := chunkPart w.1, addr := chunkAddr base w.2, length := chunkLength w.1, tries := 0, bad := false, reading := false,
      issuedAt := 0, peer := false }

/-- Reads of the next chunks are issued, while fewer than 16 are in progress (R318, R322). -/
def Dev.issueReads (d : Dev) (p : Nat) : Dev :=
  match d.load p with
  | none => d
  | some l =>
    let room := 16 - (l.chunks.filter ChunkLeft.reading).length
    let next := (l.chunks.filter fun c => !c.reading).take room
    let d := d.setLoad p (some { l with chunks := l.chunks.map fun c => if next.contains c then { c with reading := true, issuedAt := d.now } else c })
    d.forAll next fun d c => d.send (.hostRead p c.addr c.length)

/-- The member's part of LOAD_SHARD (R316 to R321, R324, R325): the manifest is read, in up to four tries, and judged. A manifest of another
shape than R316 to R318 give is refused as one that fails R320 (DESIGN CHOICE, log 135). The bank holds a copy of the manifest (R323). -/
def Dev.beginLoad (d : Dev) (p : Nat) (e : ShardEntry) : Dev :=
  let c := d.commit p
  let b := c.inactive
  let reads := if e.manifest.isSome then 1 else 4
  let d := d.forAll (List.range reads) fun d _ => d.send (.hostRead p e.manAddr e.manLen.toNat)
  let marked := (d.setCommit p (c.setState b 1)).setBank p b BankInfo.empty
  match e.manifest with
  | none => marked.failLoad p St.shardMissing
  | some x =>
    if c.bank.isSome ∧ c.version = x.version ∧ c.dig (1 - b) = x.digest then d.reportLoad p 0 St.success
    else if !d.manifestOk p e.member x || !x.shaped e.manLen.toNat then marked.failLoad p St.shardCorrupt
    else if bytesOfPart x.chunks 3 > 520093696 then marked.failLoad p St.scheduleTooLarge
    else
      let d := marked.unitWrite p (d.kindBase b + 0xF9F10000) x.bytes
      (d.setLoad p (some { version := x.version, digest := x.digest, member := e.member, bank := b, chunks := manifestChunks x e.chunkBase,
                           got := [], only := none, recovery := false })).issueReads p

/-- The table names every member of the job exactly once (R321). -/
def Dev.tableComplete (d : Dev) (p : Nat) (table : List ShardEntry) : Bool :=
  (d.memberList p).all fun m => (table.filter fun e => e.member == m).length == 1

/-- LOAD_SHARD at a member; the lead also keeps the command until every member has reported (R321, R325). The gateway has refused it where one
was outstanding. -/
def Dev.loadShard (d : Dev) (o : Origin) (table : List ShardEntry) : Dev :=
  let p := o.partition
  let lead := d.isLead p
  if !d.tableComplete p table then (if lead then d.complete o 0x40 St.fieldInvalid 0 else d)
  else if (d.job p).loading.isSome ∨ (d.job p).drain.isSome ∨ (d.load p).isSome ∨ (d.committing p).isSome then
    (if lead then d.complete o 0x40 St.replacementBusy 0 else d)
  else
    let d := if lead then d.updJob p fun j => { j with loading := some { origin := o, waiting := d.memberList p, failed := [] } } else d
    match d.memberIndex p with
    | none => d
    | some m => match table.find? (fun e => e.member == m) with
      | none => d
      | some e => d.beginLoad p e

/-- The checksum cell of logical row and group: nearest, ties away from zero, clipped (R52). -/
def checkCell (sum : Int) : Int :=
  let n := (2 * sum.natAbs + 16) / 32
  clampInt (-8) 7 (if sum < 0 then -(n : Int) else n)

/-- The sum of group `g` of a row of weights. -/
def groupSum (ws : List (BitVec 4)) (g : Nat) : Int := (((ws.drop (128 * g)).take 128).map BitVec.toInt).sum

/-- The 258 bytes of an image row: 512 data cells and 4 checksum cells (R323). -/
def imageRow (ws : List (BitVec 4)) : List Byte :=
  let cells : List (BitVec 4) := ws ++ List.replicate (512 - ws.length) 0
  let all := cells.take 512 ++ (List.range 4).map fun g => BitVec.ofInt 4 (checkCell (groupSum cells g))
  (List.range 258).map fun i => all.getD (2 * i + 1) 0 ++ all.getD (2 * i) 0

/-- The part of a shard that a content belongs to (R315). -/
def partOf (x : ChunkContent) : Nat :=
  match x with
  | .tile _ => 1
  | .scales _ | .staticRows _ | .outlierWeights _ => 2
  | .dahlia .. => 4
  | _ => 3

/-! ### The tile part (R315, R323, R325) -/

/-- How many 512-row and 512-column bands the placement table gives a layer: its matrix is that large, partial tiles filled up (R315). -/
def rowBands (ps : List Placed) (layer : Nat) : Nat := (ps.filter fun x => x.layer == layer).foldl (fun m x => max m (x.rowBand + 1)) 0
def colBands (ps : List Placed) (layer : Nat) : Nat := (ps.filter fun x => x.layer == layer).foldl (fun m x => max m (x.colBand + 1)) 0

/-- Bytes of a layer's matrix. -/
def matrixBytes (ps : List Placed) (layer : Nat) : Nat := 131072 * rowBands ps layer * colBands ps layer

/-- First byte in the tile part of row `r` of a placed tile: the matrices lie in ascending layer ID, and each is row-major across every
column band (R315, R325). -/
def tileAt (ps : List Placed) (x : Placed) (r : Nat) : Nat :=
  let before := ((ps.map (·.layer)).dedup.filter fun l => decide (l < x.layer)).map (matrixBytes ps)
  before.sum + 256 * ((512 * x.rowBand + r) * colBands ps x.layer + x.colBand)

/-- Two weights, low nibble first (R315). -/
def nibbles (b : Byte) : List (BitVec 4) := [b.extractLsb' 0 4, b.extractLsb' 4 4]

/-- The weights of row `r` of a placed tile, gathered from the tile part; none where the part ends before it (R315, R325). -/
def tileRow (ps : List Placed) (part : List Byte) (x : Placed) (r : Nat) : List (BitVec 4) :=
  ((part.drop (tileAt ps x r)).take 256).flatMap nibbles

/-- The bytes of the tile part, chunk after chunk. -/
def tilePart (all : List ChunkContent) : List Byte := all.flatMap fun x => match x with | .tile bs => bs | _ => []

/-! ### Laying a bank (R323) -/

/-- What a chunk's content adds to what the bank's correction and schedule halves hold (R315, R323). -/
def BankInfo.lay (i : BankInfo) (content : ChunkContent) : BankInfo :=
  match content with
  | .tile _ | .dahlia .. | .work .. => i
  | .scales es => { i with scales := i.scales ++ es }
  | .staticRows es => { i with statics := i.statics ++ es }
  | .outlierWeights es => { i with outliers := i.outliers ++ es }
  | .placement es => { i with placement := i.placement ++ es }
  | .program c ws => { i with programs := i.programs ++ ws.map fun w => (c, w.1, w.2) }
  | .handles c es n => { i with handles := i.handles ++ es.map (fun e => (c, e.1, e.2)), caches := i.caches ++ [(c, n)] }
  | .slots c es => { i with slots := i.slots ++ es.map fun e => (c, e.1, e.2) }
  | .baseSlots g es => { i with baseSlots := i.baseSlots ++ es.map fun e => (4096 * g + e.1, e.2) }
  | .guards es => { i with guards := i.guards ++ es }
  | .layers es => { i with layers := i.layers ++ es }
  | .symbols rs => { i with symbols := true, ranges := i.ranges ++ rs }
  | .embedding first n other => { i with params := { i.params with embedFirst := first, embedCount := n, embedOther := other } }
  | .jobParams v s pb cl dm bf w h pl =>
    { i with params := { i.params with vocab := v, streams := s, posBytes := pb, ctxLimit := cl, demand := dm, kvBf16 := bf, weights := w, hops := h, plan := pl } }

/-- The residues that the checksum cells of a row leave, by group (R52, R323). -/
def rowResidues (x : Placed) (r : Nat) (ws : List (BitVec 4)) : List (Nat × Nat × Int) :=
  (List.range 4).map fun g => (62 * x.cluster + x.ltile, 4 * r + g, groupSum ws g - 16 * checkCell (groupSum ws g))

/-- The residues of every row that the tile part holds. -/
def residuesOf (ps : List Placed) (part : List Byte) : List (Nat × Nat × Int) :=
  ps.flatMap fun x => (List.range 512).flatMap fun r =>
    let ws := tileRow ps part x r
    if ws.isEmpty then [] else rowResidues x r ws

/-- Writes the images of the placed tiles into bank `b`, with their checksum cells (R52, R323). -/
def Dev.layImages (d : Dev) (p b : Nat) (ps : List Placed) (part : List Byte) (sel : Nat → Bool) : Dev :=
  d.forAll (ps.filter fun x => sel x.cluster) fun d x => d.forAll (List.range 512) fun d r =>
    let ws := tileRow ps part x r
    if ws.isEmpty then d else d.unitWrite p (d.imageBase b x.cluster x.ltile + 258 * r) (imageRow ws)

/-- Writes the digests of the clusters at 0xF9F0_0000 of bank `b`, 48 bytes each (R323). The digests themselves are free values (log 172). -/
def Dev.layDigests (d : Dev) (p b : Nat) (cs : List Nat) : Dev :=
  d.forAll cs fun d c => (d.unitWrite p (d.kindBase b + 0xF9F00000 + 48 * c) (bytesOf (Config.freeBits d.fresh 384) 48)).draw

/-- Writes the Dahlia weights into the half of bank `b` (R323). -/
def Dev.layDahlia (d : Dev) (p b : Nat) (all : List ChunkContent) : Dev :=
  d.forAll all fun d x => match x with
    | .dahlia off bytes => d.unitWrite p (d.kindBase 8 + 2147483648 * b + off) bytes
    | _ => d

/-- The handle entries of a cluster are valid ranges that do not overlap and end below the cache (R223). -/
def handlesFit (es : List U32) (cache32 : BitVec 4) : Bool :=
  let rs := (es.filter fun e => e.getLsbD 31).map fun e => (fieldNat e 8 0, fieldNat e 19 10)
  let top := 512 - 32 * min 8 cache32.toNat
  rs.all (fun r => decide (1 ≤ r.2) && decide (r.1 + r.2 ≤ top))
    && rs.zipIdx.all fun x => (rs.take x.2).all fun y => decide (x.1.1 + x.1.2 ≤ y.1) || decide (y.1 + y.2 ≤ x.1.1)

/-- The engines on which a kind of work may be placed (R143). -/
def mayRunOn (k : WorkKind) : List WorkEngine :=
  match k with
  | .linear => [.tiles, .correctionUnit]
  | .residualAdd | .gatedActivation | .rotary | .columnPatch | .shadowSample => [.correctionUnit]
  | .decodeAttention => [.lupin]
  | .standIn => [.dahlia, .correctionUnit]
  | .normalisation | .prefillAttention | .embedding | .head | .sensitive | .tuning => [.dahlia]

/-- What a chunk's content is refused for by itself: SHARD_CORRUPT (R82, R96, R105, R324), SCHEDULE_TOO_LARGE (R211) or
UNSUPPORTED_CAPABILITY (R30, R143, R158); 0 for nothing. -/
def contentStatus (content : ChunkContent) : Byte :=
  match content with
  | .scales es => if es.all fun e => bf16Finite e.2.2 then 0 else St.shardCorrupt
  | .staticRows es => if es.all fun e => decide (e.2.2.length ≤ 16) && e.2.2.all fun r => decide (r < 512) then 0 else St.shardCorrupt
  | .outlierWeights es =>
    if es.all fun e => e.2.all fun w => bf16Finite w.2.2 && decide (w.1 < 512) && decide (w.2.1 < 512) then 0 else St.shardCorrupt
  | .program _ ws => if ws.all fun w => decide (w.1 < 65536) then 0 else St.scheduleTooLarge
  | .guards es => if es.all fun e => decide (2 * e.guard ≤ e.slot) then 0 else St.shardCorrupt
  | .work es scalarView => if !scalarView && es.all fun e => (mayRunOn e.1).contains e.2 then 0 else St.unsupportedCapability
  | .jobParams _ s pb _ _ _ _ _ _ => if decide (s * pb ≤ 16320) then 0 else St.unsupportedCapability
  | _ => 0

/-- The outlier-weight list of a tile, whatever chunks brought it. -/
def BankInfo.outlierList (i : BankInfo) (idx : Nat) : List (Nat × Nat × U16) := (i.outliers.filter fun e => e.1 == idx).flatMap Prod.snd

/-- A tile's outlier-weight list is in order without duplicates and within its limit, and its cells hold 0 in the tile part (R98, R324). -/
def BankInfo.outliersOk (i : BankInfo) (part : List Byte) (idx : Nat) (ws : List (Nat × Nat × U16)) : Bool :=
  let keys := ws.map fun w => 512 * w.1 + w.2.1
  decide (ws.length ≤ 2048) && (keys.zip (keys.drop 1)).all (fun k => decide (k.1 < k.2))
    && ws.all fun w => match i.placement.find? fun x => x.cluster == idx / 62 && x.ltile == idx % 62 with
      | some x => decide ((tileRow i.placement part x w.1).getD w.2.1 0 = 0)
      | none => true

/-- The layer of a symbol range that names none (R433; log 172). -/
def noLayer : U16 := 0xFFFF

/-- What can only be judged with every part there: tiles and layers lie in the placement table, whose clusters are the partition's, and the tile
part is not longer than their matrices; each tile's outlier weights are as R98 asks, with their cells 0, and at most 0.5 % of a layer's cells; a
pair of tile and layer has at most 16 static rows (R96, R98, R324, R400; log 172). -/
def Dev.bankConsistent (d : Dev) (p : Nat) (i : BankInfo) (part : List Byte) : Bool :=
  let placed := fun (idx : Nat) => i.placement.any fun x => x.cluster == idx / 62 && x.ltile == idx % 62
  let layer := fun (l : Nat) => i.placement.any fun x => x.layer == l
  let tiles := (i.outliers.map Prod.fst).dedup
  let pairs := (i.statics.map fun e => (e.1, e.2.1)).dedup
  i.placement.all (fun x => d.clusterOwner x.cluster == some p && decide (x.ltile < 62))
    && decide (part.length ≤ (((i.placement.map (·.layer)).dedup).map (matrixBytes i.placement)).sum)
    && i.scales.all (fun e => placed e.1) && i.statics.all (fun e => placed e.1 && layer e.2.1)
    && i.outliers.all (fun e => placed e.1) && i.layers.all (fun l => layer l.1)
    && i.guards.all (fun g => layer g.layer) && i.ranges.all (fun r => r.layer == noLayer || layer r.layer.toNat)
    && tiles.all (fun t => i.outliersOk part t (i.outlierList t))
    && pairs.all (fun k => decide ((((i.statics.filter fun e => e.1 == k.1 && e.2.1 == k.2).map fun e => e.2.2.length).sum) ≤ 16))
    && i.layers.all fun l =>
      let mine := i.outliers.filter fun e => i.placement.any fun x => x.layer == l.1 && x.cluster == e.1 / 62 && x.ltile == e.1 % 62
      decide (200 * ((mine.map fun e => e.2.length).sum) ≤ l.2)

/-- The handle tables of every cluster, and the cache below which they end, fit (R223, R224). -/
def BankInfo.handlesFit (i : BankInfo) : Bool :=
  ((i.handles.map Prod.fst).dedup).all fun c =>
    let last := fun (n : Nat) => ((i.handles.reverse.find? fun e => e.1 == c && e.2.1 == n).map fun e => e.2.2).toList
    let cache := ((i.caches.reverse.find? fun e => e.1 == c).map Prod.snd).getD 0
    Machine.handlesFit ((List.range 64).flatMap last) cache

/-- A member begins its commit of a version: its tiles are to be programmed from the inactive bank, and cached images go (R329,
step 1). A member whose active bank already holds the version does nothing (R330). -/
def Dev.beginCommit (d : Dev) (p : Nat) (version : U32) : Dev :=
  let c := d.commit p
  let b := c.inactive
  if (d.committing p).isSome ∨ c.state b ≠ 2 ∨ c.ver b ≠ version ∨ (c.bank.isSome ∧ c.version = version) then d
  else
    let d := d.setCommitting p (some (BitVec.ofNat 2 (b + 1)))
    let d := d.dropLines (d.partClusters p) fun l => match l with | .imageRow .. | .imageCol .. => true | _ => false
    d.orderProgramming p b

/-- A tile that has nothing to hold is left BLANK, through the tile reset (R66, R332, R389). -/
def Dev.blankTile (d : Dev) (k : Nat) : Dev :=
  if (d.tile k).state = .retired then d else (d.resetTile k).updTile k fun t => { t with progWait := false }

/-- The partition cannot serve any more: the bank is invalid, ACTIVE is none, the tiles are left BLANK, and the host hears of it (R332). -/
def Dev.loseShard (d : Dev) (p : Nat) : Dev :=
  let c := d.commit p
  let d := match c.bank with | some b => d.setCommit p { c.setState b 3 with active := 0 } | none => d
  let d := d.forAll ((d.partClusters p).flatMap tilesOf) Dev.blankTile
  (((d.updJob p fun j => { j with rebuilding := false, digestOk := false }).setLoad p none).reportBanks p).event (.shardUnrecoverable p)

/-- What a failed load ends in: the inactive bank is invalid, or, of a rebuild after a reset, the active one (R325, R332). -/
def Dev.badLoad (d : Dev) (p : Nat) (l : ShardLoad) (status : Byte) : Dev :=
  if l.only.isSome then d.loseShard p else d.failLoad p status

/-- What a load has brought, as its bank's halves hold it. -/
def ShardLoad.info (l : ShardLoad) : BankInfo :=
  let all := l.got.flatMap FormChunk.contents
  let i := all.foldl BankInfo.lay { BankInfo.empty with form := l.got }
  { i with residues := residuesOf i.placement (tilePart all) }

/-- The rebuilt clusters are laid in the active bank and programmed again; the data of each came from the replica (R332, R334). -/
def Dev.endRebuild (d : Dev) (p : Nat) (l : ShardLoad) (cs : List Nat) : Dev :=
  let i := l.info
  let d := d.layImages p l.bank i.placement (tilePart (l.got.flatMap FormChunk.contents)) cs.contains
  let d := ((d.layDigests p l.bank cs).setBank p l.bank i).setLoad p none
  let d := (d.count DC.shardReplicaUse (max 1 cs.length)).loadSchedule p l.bank
  d.forAll (i.placement.filter fun x => cs.contains x.cluster) fun d x => match d.physOf x.cluster x.ltile with
    | some k => d.orderTile k
    | none => d

/-- The last chunk has passed: the bank is judged as a whole and laid, and is valid or invalid (R223, R324, R325). The spec has each chunk re-laid
as it passes, and a tile's cells gathered from the chunks by the placement table, which another chunk brings: the model lays them all
at the end (DESIGN CHOICE, log 172). A spare that recovers its position's shard programs it at once (R308). -/
def Dev.endLoad (d : Dev) (p : Nat) (l : ShardLoad) : Dev :=
  let i := l.info
  let all := l.got.flatMap FormChunk.contents
  if !d.bankConsistent p i (tilePart all) then (d.count DC.shardMalformed).badLoad p l St.shardCorrupt
  else if !i.handlesFit then d.badLoad p l St.scheduleTooLarge
  else match l.only with
  | some cs => d.endRebuild p l cs
  | none =>
    let c := d.commit p
    let b := l.bank
    let d := d.layImages p b i.placement (tilePart all) fun _ => true
    let d := ((d.layDigests p b ((i.placement.map (·.cluster)).dedup)).layDahlia p b all).setBank p b i
    let c := if b = 0 then { c with bankA := 2, verA := l.version, digA := l.digest } else { c with bankB := 2, verB := l.version, digB := l.digest }
    let d := (d.setCommit p c).setLoad p none
    if l.recovery then d.beginCommit p l.version else d.reportLoad p l.version St.success

/-- A chunk takes its place among those that have passed. -/
def insertChunk (x : FormChunk) : List FormChunk → List FormChunk
  | [] => [x]
  | y :: ys => if x.n < y.n then x :: y :: ys else y :: insertChunk x ys

/-- A verified chunk, from host memory or (`peer`) from the peer replica: what it holds of its part is checked, its bytes are written in class C,
and the next reads are issued (R318, R322 to R325). -/
def Dev.takeChunk (d : Dev) (p : Nat) (x : FormChunk) (peer : Bool) : Dev :=
  match d.load p with
  | none => d
  | some l =>
    match l.chunks.find? (fun c => c.n == x.n && c.reading && c.peer == peer) with
    | none => d
    | some c =>
      let part := if c.part = 0 then x.part else c.part
      let x : FormChunk := { x with part := part, length := if c.part = 0 then x.length else c.length
                                    contents := x.contents.filter fun y => partOf y == part }
      let st := ((x.contents.map contentStatus).find? (· != 0)).getD 0
      let d := (d.count DC.shardChunkOk).count DC.stackBytesC (ceilDiv x.length 64)
      let d := if peer && l.only.isNone then d.count DC.shardReplicaUse else d
      if st = St.shardCorrupt then (d.count DC.shardMalformed).badLoad p l st
      else if st ≠ 0 then d.badLoad p l st
      else
        let l := { l with chunks := l.chunks.filter (fun c => c.n != x.n), got := insertChunk x l.got }
        let d := d.setLoad p (some l)
        if l.chunks.isEmpty then d.endLoad p l else d.issueReads p

/-- A chunk that is to come from the peer replica (R308, R322, R332). -/
def peerChunk (now : U64) (n : Nat) : ChunkLeft :=
  { n := n, part := 0, addr := 0, length := 0, tries := 0, bad := false, reading := true, issuedAt := now, peer := true }

/-- The −X neighbour begins to send the shard of the position that this spare has taken; a member that holds a shard, or loads
one, takes none (R308). -/
def Dev.takeRecovery (d : Dev) (p : Nat) (version : U32) (digest : BitVec 384) (chunks : Nat) : Dev :=
  let c := d.commit p
  match d.memberIndex p with
  | none => d
  | some m =>
    if c.bank.isSome ∨ (d.load p).isSome ∨ (d.committing p).isSome then d
    else
      let b := c.inactive
      ((d.setCommit p (c.setState b 1)).setBank p b BankInfo.empty).setLoad p
        (some { version := version, digest := digest, member := m, bank := b, chunks := (List.range chunks).map (peerChunk d.now), got := []
                only := none, recovery := true })

/-- A peer replica of this device's shard matches the version being loaded (R328). -/
def Dev.replicaMatches (d : Dev) (p : Nat) (l : ShardLoad) : Bool := (d.replica p).peer == some (l.version, l.digest)

/-- A try at chunk `n` failed: up to 3 re-fetches, then its data are asked of the peer replica, else the load fails (R322). -/
def Dev.chunkFailed (d : Dev) (p n : Nat) (bad : Bool) : Dev :=
  match d.load p with
  | none => d
  | some l =>
    match l.chunks.find? (fun c => c.n == n && c.reading && !c.peer) with
    | none => d
    | some c =>
      let peer := decide (3 ≤ c.tries) && d.replicaMatches p l
      let d := d.setLoad p (some { l with chunks := l.chunks.map fun x =>
        if x.n = n then { x with tries := x.tries + 1, bad := bad, issuedAt := d.now, peer := peer } else x })
      if c.tries < 3 then (d.count DC.shardRefetch).send (.hostRead p c.addr c.length)
      else if peer then d.send (.bulk (.replicaRead p n))
      else d.failLoad p (if bad then St.shardCorrupt else St.shardMissing)

/-- CHUNK_READ_COMPLETE (R322). A chunk is opened with the load's key and the IV of its place; under another IV its tag fails (R319). -/
def execChunkReadComplete (partition chunk : Nat) (arrival : ChunkArrival) (s : State) : Out := s.on fun d =>
  match arrival with
  | .missing => d.chunkFailed partition chunk false
  | .badTag | .badDigest => d.chunkFailed partition chunk true
  | .good iv contents =>
    match d.load partition with
    | none => d
    | some l => if iv = chunkIv l.version l.member chunk then d.takeChunk partition { n := chunk, part := 0, length := 0, contents := contents } false
      else d.chunkFailed partition chunk true

/-- CHUNK_READ_TIMEOUT: 500 ms from issue without an answer counts as a missing chunk (R322). -/
def execChunkReadTimeout (partition chunk : Nat) (s : State) : Out := s.on fun d =>
  let late := fun (l : ShardLoad) => l.chunks.any fun c => c.n == chunk && c.reading && !c.peer && decide (d.since c.issuedAt ≥ 500000000)
  match d.load partition with
  | some l => if late l then d.chunkFailed partition chunk false else d
  | none => d

/-! ### Committing (R328, R329, R332) -/

/-- Bytes of a replica form: a 4 KiB header and the shard's plaintext (R328). -/
def BankInfo.replicaBytes (i : BankInfo) : Nat := 4096 + (i.form.map FormChunk.length).sum

/-- Starts the copy of this device's replica form to its −X neighbour, which says first whether the forms of all this device's jobs fit its
region (R328; log 79). -/
def Dev.startReplica (d : Dev) (p : Nat) : Dev :=
  let c := d.commit p
  let total := ((d.stack.commits.filter fun e => e.2.bank.isSome).map fun e => (d.bank e.1 ((e.2.bank).getD 0)).replicaBytes).sum
  let r := d.replica p
  (d.setReplica p { r with ownValid := false, ownNone := false, peer := none }).send (.bulk (.replica p c.version c.digest total))

/-- The −X neighbour has said whether there is room: the copy goes, read and sent in class C, or OWN_NONE is set (R328). -/
def Dev.sendReplica (d : Dev) (p : Nat) (fits : Bool) : Dev :=
  if fits then
    let form := (d.bank p ((d.commit p).bank.getD 0)).form
    d.forAll form fun d x => (d.count DC.stackBytesC (ceilDiv x.length 64)).send (.bulk (.replicaPart p x))
  else d.setReplica p { d.replica p with ownNone := true }

/-- Clusters whose digest failed after a reset are rebuilt from the replica, chunk by chunk (R332). -/
def Dev.beginRebuild (d : Dev) (p b : Nat) (cs : List Nat) : Dev :=
  let c := d.commit p
  let ns := (d.bank p b).form.map FormChunk.n
  let d := d.setLoad p (some { version := c.version, digest := c.digest, member := c.member, bank := b, chunks := ns.map (peerChunk d.now), got := []
                               only := some cs, recovery := false })
  d.forAll ns fun d n => d.send (.bulk (.replicaRead p n))

/-- MEMBER_COMMIT: the digests of the programmed bank are compared, and the commit record is written (R329, steps 3 to 6); after
a reset the same reads verify the active bank (R332). A correction or schedule copy marked invalid counts as a failed digest
(R233; log 78). `digestFailures` are the clusters whose digest does not match: the outcome of the comparison, for the digests are free values (log
172). -/
def execMemberCommit (partition : Nat) (digestFailures : List Nat) (s : State) : Out := s.on fun d =>
  let p := partition
  let d := if digestFailures.isEmpty then d else d.count DC.shardDigestFail digestFailures.length
  match d.committing p with
  | some bb =>
    let b := bb.toNat - 1
    if !digestFailures.isEmpty ∨ (d.bank p b).copyBad then
      let d := (d.spoilBank p b).setCommitting p none
      let d := match (d.commit p).bank with | some a => d.orderProgramming p a | none => d
      d.reportCommit p St.shardCorrupt
    else if d.tilesServe p b then
      let c := d.commit p
      let d := d.loadSchedule p b
      let d := d.setCommit p { c with active := BitVec.ofNat 2 (b + 1), digest := c.dig b,
                                      member := (d.memberIndex p).getD 0 }
      let d := (d.setCommitting p none).updJob p fun j => { j with symbols := (d.bank p b).symbols, rebuilding := false }
      (((d.dropWatches p).count DC.shardCommit).reportCommit p St.success).startReplica p
    else d
  | none =>
    let c := d.commit p
    let b := (c.bank).getD 0
    if (d.job p).rebuilding ∧ (d.load p).isNone then
      if !digestFailures.isEmpty ∨ (d.bank p b).copyBad then
        (if (d.replica p).peer = some (c.version, c.digest) then d.beginRebuild p b digestFailures else d.loseShard p)
      else d.updJob p fun j => { j with digestOk := true }
    else d

/-- The +X neighbour is about to copy its replica form: where it fits, the held header's VALID is cleared before the first write (R328). -/
def Dev.replicaArrives (d : Dev) (p total : Nat) : Dev :=
  if total ≤ 16384 * (d.kindAt 2).2 then
    (d.setReplica p { d.replica p with heldValid := false, form := [] }).send (.bulk (.replicaRoom p true))
  else d.send (.bulk (.replicaRoom p false))

/-- A chunk of the +X neighbour's replica form is written in class C (R328). -/
def Dev.takeReplicaPart (d : Dev) (p : Nat) (x : FormChunk) : Dev :=
  (d.setReplica p { d.replica p with form := insertChunk x (d.replica p).form }).count DC.stackBytesC (ceilDiv x.length 64)

/-- A chunk of the replica held is read in class C for its owner (R322, R332). -/
def Dev.giveChunk (d : Dev) (p n : Nat) : Dev :=
  if (d.replica p).heldValid then
    match (d.replica p).form.find? fun x => x.n == n with
    | some x => (d.count DC.stackBytesC (ceilDiv x.length 64)).send (.bulk (.shardChunk p x))
    | none => d
  else d

/-- The whole replica held goes to the spare that has taken its owner's position (R308). -/
def Dev.giveReplica (d : Dev) (p : Nat) : Dev :=
  let r := d.replica p
  if r.heldValid then
    let d := d.send (.bulk (.recovery p r.heldVersion r.heldDigest r.form.length))
    d.forAll r.form fun d x => (d.count DC.stackBytesC (ceilDiv x.length 64)).send (.bulk (.shardChunk p x))
  else d

/-- The −X neighbour reports a valid replica of this device's shard (R328). -/
def Dev.replicaReported (d : Dev) (p : Nat) (version : U32) (digest : BitVec 384) : Dev :=
  let c := d.commit p
  let own := decide (c.version = version ∧ c.digest = digest)
  d.setReplica p { d.replica p with ownValid := own, peer := some (version, digest) }

/-- REPLICA_COPY_COMPLETE: after the last write this device sets VALID, with the version and the manifest digest, on the
replica it received, and reports it to the owner (R328). -/
def execReplicaCopyComplete (partition : Nat) (version : U32) (digest : BitVec 384) (s : State) : Out := s.on fun d =>
  ((d.setReplica partition { d.replica partition with heldValid := true, heldVersion := version, heldDigest := digest }).send
    (.bulk (.replicaHeld partition version digest))).count DC.replicaCopy

/-! ### Crocus packs (R347 to R351) -/

/-- The entries this package runs: its member index in a partition whose active bank holds the pack's version (R349). -/
def Dev.crocusMine (d : Dev) (x : CrocusPack) (e : BitVec 4608) : Bool :=
  d.stack.commits.any fun c => c.2.bank.isSome && c.2.version == x.shardVersion && d.memberIndex c.1 == some (crocusMember e)
    && d.clusterOwner (crocusCluster e) == some c.1

/-- A run of the stored pack begins (R349, R351). -/
def Dev.startCrocus (d : Dev) (x : CrocusPack) : Dev :=
  let idx := (x.entries.zipIdx.filter fun e => d.crocusMine x e.1).map Prod.snd
  let d := { d with ledger := { d.ledger with crocusTodo := idx, crocusSplit := [], crocusFails := [], packRunAt := d.ltime } }
  if x.entries.length = idx.length then d else d.count DC.crocusSkip (x.entries.length - idx.length)

/-- First byte of the top 64 MiB of the counters-and-trace region, where the pack is stored (R348). -/
def Dev.packBase (d : Dev) : Nat := 16384 * ((d.kindAt 5).1 + (d.kindAt 5).2) - 67108864

/-- The package accepts a pack, stores it and runs it, or refuses it; a pack of more than 64 MiB is none (R347, R348, R413). Answers whether it accepted. -/
def Dev.takePack (d : Dev) (x : CrocusPack) : Dev × Bool :=
  if x.sigsOk ∧ d.takesShards 0 ∧ x.format = 0x0001 ∧ x.packId.toNat > d.ledger.packId.toNat ∧ x.size ≤ 67108864 then
    let d := d.stackWrite d.packBase x.bytes
    ({ d with ledger := { d.ledger with pack := some x, packId := x.packId } }.startCrocus x, true)
  else (d, false)

/-- CROCUS_PACK_RECEIVE, a MGMT message: the package takes the pack or refuses it, and answers the primary, which counts (R284, R348; log 51,
log 177). -/
def execCrocusPackReceive (p : OnChannel CrocusPack) (s : State) : Out := s.onChannel 3 p.vc fun d =>
  let t := d.takePack p.msg
  t.1.hostWrite (.packTaken d.glob.node t.2)

/-- GO of LEDGER_CROCUS at the primary gateway: the pack is read and flooded to every package; no effect while STATE is 1, which it is until every
package has answered (R348; log 51). -/
def Dev.goCrocus (d : Dev) (pack : Option CrocusPack) : Dev :=
  if d.sys.primary ∧ d.ledger.crocusState ≠ 1 then
    match pack with
    | none => { d with ledger := { d.ledger with crocusState := 3 } }
    | some x =>
      let t := (d.send (.crocus x)).takePack x
      { t.1 with ledger := { t.1.ledger with crocusState := 1, crocusAsked := d.glob.node :: d.packages, crocusAccepted := 0
                                             crocusRefused := 0 } }.packAnswer d.glob.node t.2
  else d

/-- CROCUS_GO: the pack's address and length are written to LEDGER_CROCUS with GO (R348). -/
def execCrocusGo (addr : U64) (len : BitVec 27) (pack : Option CrocusPack) (s : State) : Out := s.on fun d =>
  if d.sys.primary ∧ d.ledger.crocusState ≠ 1 then
    (((d.setReg Off.crocus (addr.extractLsb' 0 32)).setReg (Off.crocus + 4) (addr.extractLsb' 32 32)).setReg (Off.crocus + 8) (len.setWidth 32)).goCrocus
      pack
  else d

/-- The failures of a Crocus evaluation: group, low nibble, negative (R350); a clip in a split half counts as one, with group 9 (R49). -/
def crocusFailures (e : BitVec 4608) (sigma : Nat) (q2 : Rat) (classes : List Nat) (clipped : Bool) (parts : List (List Int × List Int)) :
    List ((Nat × Bool × Bool) × Int) :=
  let D := fun (high : Bool) (j : Nat) => (parts.map fun p => (if high then p.1 else p.2).getD j 0).sum
  let sums := (List.range 4).flatMap fun k => [true, false].filterMap fun high =>
    let r := ((List.range 128).map fun j => D high (128 * k + j)).sum - crocusSum e k (if high then 0 else 1)
    let w2 := (((classes.drop (128 * k)).take 128).map fun c => (codeWeight c) ^ 2).sum
    if ((r : Rat) * r) > (sigma ^ 2 : Nat) * q2 * (w2 : Nat) then some ((k, !high, decide (r < 0)), r) else none
  if clipped then [((9, false, false), 0)] else sums

/-- The tile has an idle window for a Crocus entry: no step is in progress on its cluster, and nothing of a higher rank is there or waits. A
restore that is not urgent gives way between its rows (R62, R68, R349). -/
def Dev.crocusWindow (d : Dev) (k : Nat) : Bool :=
  let t := d.tile k
  t.serves && t.edge.isNone && t.evals.isEmpty && t.owed.isEmpty && t.settling.isEmpty && !t.testing && !d.restoreFirst k
    && !d.rowRuns k && !d.power.boHold && !d.power.sweep && d.clusterIdle (k / 64)

/-- The outcome of a Crocus evaluation: passed, or failed once and to be run once more, or the failure confirmed or cleared, which is logged with the
DETAIL of the first failing group (R338, R350). -/
def Dev.judgeCrocus (d : Dev) (idx k : Nat) (fails : List ((Nat × Bool × Bool) × Int)) : Dev :=
  let seen := d.ledger.crocusFails.filter fun f => f.1 == idx
  let before := seen.map fun f => (f.2.1, f.2.2.1 == 1, f.2.2.2.1)
  let detail := fun (f : (Nat × Bool × Bool) × Int) => if f.1.1 = 9 then 0 else failDetail (f.1.1, f.1.2.1, f.1.2.2, false) f.2
  let drop := fun (d : Dev) => { d with ledger := { d.ledger with
    crocusTodo := d.ledger.crocusTodo.erase idx, crocusSplit := d.ledger.crocusSplit.erase idx,
    crocusFails := d.ledger.crocusFails.filter fun f => f.1 != idx } }
  match fails.find? fun f => before.contains f.1 with
  | some f => ((drop d).count DC.crocusFail).failTile k 4 3 (detail f)
  | none =>
    if !before.isEmpty then (if fails.isEmpty then
        ((drop d).count DC.crocusCleared).logTile k 4 1 3 ((((before.zip (seen.map fun f => f.2.2.2.2)).head?).map detail).getD 0)
      else drop d)
    else if fails.isEmpty then drop d
    else { d with ledger := { d.ledger with
      crocusFails := d.ledger.crocusFails ++ fails.map fun f => (idx, f.1.1, (if f.1.2.1 then 1 else 0), f.1.2.2, f.2) } }

/-- CROCUS_ENTRY_RUN: an entry runs in an idle window on the tile that serves its logical number, every column at ×1; a clip has it run again
split, and an input beyond the reference columns' range is split from the start (R50, R349, R350). The second 520 codes of a list are those of
the second half of a split. -/
def execCrocusEntryRun (idx : Nat) (codesH codesL : List Byte) (s : State) : Out := s.on fun d =>
  match (d.ledger.pack.bind fun x => x.entries[idx]?) with
  | none => d
  | some e =>
    match d.physOf (crocusCluster e) (crocusLtile e) with
    | none => d
    | some k =>
      if d.ledger.crocusTodo.contains idx && d.crocusWindow k then
        let x := d.ask k 1 2
        if !x.2 then x.1 else
        let c := k / 64
        let vec : EdgeVec := { layer := 0, a := crocusInput e, et := 0, poison := false, transposed := false, accBase := 0, handle := 0 }
        let planned := refSplit vec.a
        let split := planned || d.ledger.crocusSplit.contains idx
        let ev : Eval := { vec := vec, kind := .normal, split := split, observed := split && !planned, classes := List.replicate 520 0,
                           startedAt := d.now, replayed := false, reevals := 0, fails := [], firstHalfKept := false }
        let skips := (ev.parts.filter fun h => nibbleSkip h vec.a).length
        let d := (x.1.updTile k fun t => { t with evals := [ev] }).rehold k
        let one := fun (d : Dev) (half : Option Nat) (h l : List Byte) => d.correctPart k ev half h l
        let y := if split then
            let a := one d (some 0) (codesH.take 520) (codesL.take 520)
            let b := one a.1 (some 1) (codesH.drop 520) (codesL.drop 520)
            (b.1, [a.2, b.2])
          else let a := one d none codesH codesL; (a.1, [a.2])
        let clips := (y.2.filter fun (p : Part) => !(p.clips 520).isEmpty).length
        let d := (y.1.updTile k fun t => { t with evals := [] }).rehold k
        let d := (d.countC c CC.tileEval y.2.length).count DC.crocusRun
        let d := if skips = 0 then d else d.countC c CC.tileNibbleSkip skips
        let d := if clips = 0 then d else d.countC c CC.tileClipX1 clips
        let d := if planned then d.countC c CC.tileSplitPlanned else d
        if !split && decide (0 < clips) then
          { d with ledger := { d.ledger with crocusSplit := d.ledger.crocusSplit ++ [idx] } }.countC c CC.tileSplitObserved
        else
          d.judgeCrocus idx k (crocusFailures e d.tolSigma (checkQ2 (d.tile k).qSq) ev.classes (split && decide (0 < clips))
            (y.2.map fun (p : Part) => (p.pu true ev.classes, p.pu false ev.classes)))
      else d

/-- CROCUS_RERUN: RERUN × 60 s after the last run (R351). -/
def execCrocusRerun (s : State) : Out := s.on fun d =>
  match d.ledger.pack with
  | none => d
  | some x => if x.rerun ≠ 0 ∧ d.ltime - d.ledger.packRunAt ≥ 60 * x.rerun.toNat then d.startCrocus x else d

end Sys2Proof.Machine
end

