-- ==== Sys2Proof/Machine/Part.lean ====
section
/-! DEFINITION. Partitions and stack regions: what a set-up is checked for, when it comes into force, and descriptor requests
(R229, R400 to R406, R451). -/

namespace Sys2Proof.Machine

/-! ### Accepting a set-up (R401, R402) -/

/-- Two ranges share an element. -/
def overlap (b1 n1 b2 n2 : Nat) : Bool := decide (0 < n1) && decide (0 < n2) && decide (b1 < b2 + n2) && decide (b2 < b1 + n1)

/-- Fields of PART_CFG and PART_QUOTA (R401). -/
def cfgReq (w : U64) : Nat × Nat := (fieldNat w 9 0, fieldNat w 19 10)
def cfgStg (w : U64) : Nat × Nat := (fieldNat w 31 20, fieldNat w 43 32)
def quotaGraft (w : U32) : Nat × Nat := (fieldNat w 5 0, fieldNat w 12 6)
def quotaWin (w : U32) : Nat × Nat := (fieldNat w 18 13, fieldNat w 25 19)
def quotaArea (w : U32) : Nat := fieldNat w 31 26

/-- Ranges given as base and count overlap. -/
def overlapPair (x y : Nat × Nat) : Bool := overlap x.1 x.2 y.1 y.2

/-- The ERR_CODE of the first check that set-up `e` of partition `n` fails, in the order of the codes; 0 for none (R402). -/
def Dev.partError (d : Dev) (n : Nat) (e : PartEntry) : BitVec 4 :=
  let others := (d.part.accepted.filter fun o => o.1 != n && o.2.cfg.getLsbD 63).map Prod.snd
  let meets := fun (f : PartEntry → Nat × Nat) => others.any fun o => overlapPair (f e) (f o)
  if others.any fun o => decide (e.clusters &&& o.clusters ≠ 0) then 1
  else if meets fun x => cfgReq x.cfg then 2
  else if meets fun x => cfgStg x.cfg then 3
  else if meets (fun x => quotaGraft x.quota) || decide ((others.map fun o => quotaArea o.quota).sum + quotaArea e.quota > 32) then 4
  else if meets fun x => quotaWin x.quota then 5
  else if (d.owner (fieldNat e.cfg 47 44)).isNone then 6
  else if decide ((cfgReq e.cfg).1 + (cfgReq e.cfg).2 > 782) || decide ((cfgStg e.cfg).1 + (cfgStg e.cfg).2 > 3072)
      || decide ((quotaGraft e.quota).1 + (quotaGraft e.quota).2 > 64) || decide ((quotaWin e.quota).1 + (quotaWin e.quota).2 > 64)
  then 8 else 0

/-- A PART write is ignored: PART_STATUS says why, and the event is counted (R401, R426). -/
def Dev.partRefuse (d : Dev) (n : Nat) (code : BitVec 4) : Dev :=
  { d with part := { d.part with err := true, errPart := n, errCode := code } }.count DC.partRefused

/-! ### A set-up comes into force (R401, R403, R406) -/

/-- Zero-fills the workspace of descriptor `w`, in class C: 256 units of 64 bytes a block (R239, R406). -/
def Dev.zeroWorkspace (d : Dev) (w : U64) : Dev :=
  (d.zeroRange (16384 * rgBase w) (16384 * rgSize w)).count DC.stackBytesC (256 * rgSize w)

/-- Zero-fills the workspace regions that `sel` selects (R406). -/
def Dev.fillWorkspace (d : Dev) (sel : U64 → Bool) : Dev :=
  d.forAll (List.range 128) fun d i =>
    let w := d.region i
    if rgValid w && rgKind w == 9 && sel w then d.zeroWorkspace w else d

/-- The partition owns the resources of a VALID set-up from now on: the tiles of its clusters are powered, and their fill circuits are in
place (R66, R216, R401). -/
def Dev.bringIn (d : Dev) (p : PartSetup) : Dev :=
  let d := d.setPart p.partition { cfg := p.cfg, quota := p.quota, clusters := p.clusters }
  let cs := d.partClusters p.partition
  (d.forAll cs Dev.powerCluster).forAll cs fun d c => d.updCluster c fun x => { x with fill := true }

/-- Job `p` passes a boundary: the staged set-ups come into force once every job has (R401, R476). -/
def Dev.passParts (d : Dev) (p : Nat) : Dev :=
  let owed := d.part.owed.filter (· != p)
  if owed.isEmpty then
    let staged := d.part.staged
    { d with part := { d.part with staged := [], owed := [] } }.forAll staged Dev.bringIn
  else { d with part := { d.part with owed := owed } }

/-- Job `p`'s step is over without a boundary: what waited for its boundary waits for it no longer (R24, R401, R476). -/
def Dev.jobOut (d : Dev) (p : Nat) : Dev := ((d.passParts p).passBudget p).passRegs p

/-- A cleared partition: its reset, then the release of its resources (R403). -/
def Dev.releasePart (d : Dev) (p : PartSetup) : Dev :=
  let n := p.partition
  let cs := d.partClusters n
  let d := (d.resetPartition n).forAll cs fun d c => d.updCluster c fun x => { x with fill := false, shadow := [] }
  let d := d.forAll (cs.flatMap tilesOf) fun d k => d.updTile k fun t => { t.afterReset with state := if t.state = .retired then .retired else .off }
  let d := d.fillWorkspace fun w => !rgShared w && rgPart w == n
  let d := { d with part := { d.part with staged := d.part.staged.filter fun x => x.partition != n } }
  (d.setPart n { cfg := p.cfg, quota := p.quota, clusters := p.clusters }).jobOut n

/-- A set-up that a package receives: one that clears VALID acts on receipt, as the partition reset does; another at the next
step boundary, once every job with a step in progress has passed one, or at once where there is none (R401, R403, R476). -/
def Dev.takeSetup (d : Dev) (p : PartSetup) : Dev :=
  if !p.cfg.getLsbD 63 then d.releasePart p
  else if d.busy then { d with part := { d.part with staged := d.part.staged ++ [p], owed := d.busyJobs } }
  else d.bringIn p

/-- An FLR of VF n + 1 on the primary gateway: a RECOVERY message to every member, which each applies on receipt; this
package applies it at once where it is a member. The FLR is complete once every other member has reported (R388). The function's MSI-X registers are
reset with it (log 80). -/
def Dev.flr (d : Dev) (p : Nat) : Dev :=
  let d := if d.isMember p then (d.resetPartition p).jobOut p else
    let mine := fun (q : Nat) => d.idOwner q == some p
    { d with host := { d.host with
        queues := SMap.keep (fun q => !mine q) d.host.queues
        rings := SMap.keep (fun r => !mine r) d.host.rings } }.dropCommands p |>.updJob p fun j => { j with symbols := false }
  let d := d.setFn (p + 1) { d.fn (p + 1) with msixTable := [], msixPending := [], msixCtl := 0 }
  let others := if (d.jobSetup p).valid then (d.members p).filter (· != d.sys.position) else []
  let d := if others.isEmpty then d else { d with host := { d.host with flrs := (d.host.flrs.filter fun x => x.1 != p) ++ [(p, others)] } }
  d.send (.partReset p)

/-- An FLR of virtual function n + 1 on the primary gateway (R388). -/
def execPartitionReset (n : Nat) (s : State) : Out := s.on fun d => if d.sys.primary then d.flr n else d

/-- A member applies a partition reset on receipt, as a RECOVERY message (R284; log 177), and reports (R388). -/
def execPartitionResetReceive (n : OnChannel Nat) (s : State) : Out := s.onChannel 2 n.vc fun d =>
  ((d.resetPartition n.msg).jobOut n.msg).hostWrite (.partResetDone n.msg d.sys.position)

/-- PART_SETUP_RECEIVE, a MGMT message (R284, R401; log 177). -/
def execPartSetupReceive (p : OnChannel PartSetup) (s : State) : Out := s.onChannel 3 p.vc fun d => d.takeSetup p.msg

/-- The primary gateway accepts a set-up: it reads back at once and is pushed to every package (R401). -/
def Dev.acceptSetup (d : Dev) (n : Nat) (e : PartEntry) : Dev :=
  let s : PartSetup := { partition := n, cfg := e.cfg, quota := e.quota, clusters := e.clusters }
  ((d.setPartAcc n e).send (.partSetup s)).takeSetup s

/-- PART_CFG with its reserved bits 0 and SECURE as the partition has it (R399, R401). -/
def cfgOf (old w : U64) : U64 := (w &&& 0x8000FFFFFFFFFFFF) ||| (old &&& 0x4000000000000000)

/-- A write of PART_CFG that sets VALID (R402). While VALID is 1 a write that changes another field is ignored with ERR_CODE 7. -/
def Dev.setValid (d : Dev) (n : Nat) (w : U64) : Dev :=
  let e := d.partAcc n
  let cfg := cfgOf e.cfg w ||| 0x8000000000000000
  if e.cfg.getLsbD 63 then (if cfg = e.cfg then d else d.partRefuse n 7)
  else
    let e' := { e with cfg := cfg }
    let code := d.partError n e'
    if code = 0 then d.acceptSetup n e' else d.partRefuse n code

/-- A write of PART_CFG that clears VALID, ignored while the partition's SYS_JOB is VALID (R403). -/
def Dev.clearValid (d : Dev) (n : Nat) : Dev :=
  let e := d.partAcc n
  if (d.jobSetup n).valid then d.partRefuse n 7
  else if e.cfg.getLsbD 63 then d.acceptSetup n { e with cfg := e.cfg &&& 0x7FFFFFFFFFFFFFFF }
  else d

/-- PART writes act on the primary gateway (R401). -/
def Dev.partWritable (d : Dev) (n : Nat) : Bool := d.sys.primary && decide (d.rst.phase = .ready) && decide (n < 64)

/-- PART_SET_VALID (R402). -/
def execPartSetValid (n : Nat) (w : U64) (s : State) : Out := s.on fun d => if d.partWritable n then d.setValid n w else d

/-- PART_CLEAR_VALID (R403). -/
def execPartClearValid (n : Nat) (s : State) : Out := s.on fun d => if d.partWritable n then d.clearValid n else d

/-- A write to PART_CFG that neither sets nor clears VALID, to PART_QUOTA or to PART_CLUSTERS: ignored while VALID is 1
(R402). -/
def Dev.writePart (d : Dev) (n : Nat) (f : PartEntry → PartEntry) : Dev :=
  if !d.partWritable n then d
  else if (d.partAcc n).cfg.getLsbD 63 then d.partRefuse n 7
  else d.setPartAcc n (f (d.partAcc n))

/-- PART_STATUS (R401). -/
def Dev.partStatus (d : Dev) : U32 := BitVec.ofBool d.part.err ++ (0 : BitVec 21) ++ BitVec.ofNat 6 d.part.errPart ++ d.part.errCode

/-! ### Region descriptor requests (R229, R451) -/

/-- A write of descriptor `i` keeps R229: valid or not, it reaches no block past the stack and overlaps no other valid descriptor; a valid
one is the only one of its kind where the kind allows one. A valid descriptor of a reserved kind or of no block is none (log 53). -/
def Dev.regionOk (d : Dev) (i : Nat) (w : U64) : Bool :=
  (!rgValid w || (decide (rgKind w ≤ 9) && decide (1 ≤ rgSize w))) && decide (rgBase w + rgSize w ≤ 6291456)
    && (List.range 128).all fun j =>
      let o := d.region j
      j == i || !rgValid o || (!overlap (rgBase w) (rgSize w) (rgBase o) (rgSize o)
        && !(rgValid w && rgKind w == rgKind o && (decide (rgKind w ≤ 4) || rgKind w == 6 || rgKind w == 7)))

/-- A descriptor as it stands lets itself be changed: no VALID partition for the shared kinds, no VALID job of its owner for
kinds 5 and 9 (R451). A descriptor that is not in force stands in no one's way (log 53). -/
def Dev.regionFree (d : Dev) (w : U64) : Bool :=
  !rgValid w ||
    (if rgKind w = 5 ∨ rgKind w = 9 then rgShared w || !(d.jobSetup (rgPart w)).valid
     else !d.part.inForce.any fun e => e.2.cfg.getLsbD 63)

/-- A write of STACK_REGION while the STACK lock is clear: the checks of R229 alone. -/
def Dev.writeRegion (d : Dev) (i : Nat) (desc : U64) : Dev :=
  let new := (desc &&& 0xBFF83FFFFFFFFFFF) ||| (d.region i &&& 0x4000000000000000)
  if d.regionOk i new then { d with stack := { d.stack with regions := SMap.put (regionReset i) d.stack.regions i new } }
  else { d with stack := { d.stack with descErr := true } }

/-- Applies a descriptor request, or ignores it and sets STACK_DESC_ERR (R451). SECURE is written only from the secure world:
the descriptor keeps it (log 54). -/
def Dev.applyRegion (d : Dev) (i : Nat) (desc : U64) : Dev :=
  let old := d.region i
  let new := (desc &&& 0xBFF83FFFFFFFFFFF) ||| (old &&& 0x4000000000000000)
  let d := { d with stack := { d.stack with request := none } }
  if d.regionOk i new && d.regionFree old && d.regionFree new then
    let d := { d with stack := { d.stack with regions := SMap.put (regionReset i) d.stack.regions i new } }
    if rgValid new ∧ rgKind new = 9 ∧ (!rgValid old ∨ rgKind old ≠ 9 ∨ rgPart old ≠ rgPart new) then
      d.zeroWorkspace new
    else d
  else { d with stack := { d.stack with descErr := true } }

/-- A boundary applies the pending descriptor request. -/
def Dev.passRegion (d : Dev) : Dev :=
  match d.stack.request with
  | some r => d.applyRegion r.1 r.2
  | none => d

/-- SUBMIT of STACK_REGION_REQ: ignored while PENDING is 1; else it waits for the boundary, or acts at once when no step is in
progress (R451). -/
def Dev.submitRegion (d : Dev) (index : Nat) (desc : U64) : Dev :=
  if d.stack.request.isSome then { d with stack := { d.stack with descErr := true } }
  else if d.busy then { d with stack := { d.stack with request := some (index, desc) } }
  else d.applyRegion index desc

/-- STACK_REGION_REQ_SUBMIT: the fields are written with it (R451). -/
def execStackRegionReqSubmit (index : BitVec 7) (desc : U64) (s : State) : Out := s.on fun d =>
  if d.rst.phase = .ready then
    let d := ((d.setReg Off.regionReq (desc.extractLsb' 0 32)).setReg (Off.regionReq + 4) (desc.extractLsb' 32 32)).setReg
      (Off.regionReq + 8) (index.setWidth 32)
    d.submitRegion index.toNat desc
  else d

end Sys2Proof.Machine
end

