-- ==== Sys2Proof/Machine/Foxglove.lean ====
section
/-! DEFINITION. Foxglove: the draw, the stop checks and the log-probability (R195 to R202). -/

namespace Sys2Proof.Machine

/-! ### draw (R198) -/

/-- One SipRound. -/
def sipRound (v : U64 × U64 × U64 × U64) : U64 × U64 × U64 × U64 :=
  let a := v.1 + v.2.1
  let b := v.2.1.rotateLeft 13 ^^^ a
  let a := a.rotateLeft 32
  let c := v.2.2.1 + v.2.2.2
  let e := v.2.2.2.rotateLeft 16 ^^^ c
  let a2 := a + e
  let e2 := e.rotateLeft 21 ^^^ a2
  let c2 := c + b
  let b2 := b.rotateLeft 17 ^^^ c2
  (a2, b2, c2.rotateLeft 32, e2)

/-- SipHash-2-4 of an 8-byte message. -/
def sipHash (k0 k1 m : U64) : U64 :=
  let block := fun (v : U64 × U64 × U64 × U64) (w : U64) =>
    let v := sipRound (sipRound (v.1, v.2.1, v.2.2.1, v.2.2.2 ^^^ w))
    (v.1 ^^^ w, v.2.1, v.2.2.1, v.2.2.2)
  let v := (k0 ^^^ 0x736f6d6570736575, k1 ^^^ 0x646f72616e646f6d, k0 ^^^ 0x6c7967656e657261, k1 ^^^ 0x7465646279746573)
  let v := block (block v m) 0x0800000000000000
  let v := (v.1, v.2.1, v.2.2.1 ^^^ 0xFF, v.2.2.2)
  let v := sipRound (sipRound (sipRound (sipRound v)))
  v.1 ^^^ v.2.1 ^^^ v.2.2.1 ^^^ v.2.2.2

/-- draw(seed, pos): the top 24 bits of the hash, as a fraction. -/
def foxDraw (seed : U64) (pos : Nat) : Rat :=
  ((sipHash seed 0 (BitVec.ofNat 64 pos) >>> 40).toNat : Rat) / ((2 ^ 24 : Nat) : Rat)

/-! ### The procedure of R197 -/

/-- TEMP as it acts: 0 is greedy; negative or non-finite values act as 1.0 (R196). -/
def foxTemp (w : U16) : Rat :=
  if !bf16Finite w then 1 else let t := bf16Value w; if t < 0 then 1 else t

/-- TOP_P as it acts (R196). -/
def foxTopP (w : U16) : Rat :=
  if !bf16Finite w then 1 else let t := bf16Value w; if 0 < t ∧ t ≤ 1 then t else 1

/-- TOP_K as it acts (R196). -/
def foxTopK (k : Nat) : Nat := if k = 0 ∨ k > 1024 then 1024 else k

/-- Inserts a token among the candidates: by logit descending, ties by the smaller ID. -/
def insertTop (x : Nat × Rat) : List (Nat × Rat) → List (Nat × Rat)
  | [] => [x]
  | y :: ys => if x.2 > y.2 then x :: y :: ys else y :: insertTop x ys

/-- The `k` tokens of largest logit, in order (R197). -/
def topTokens (k : Nat) (z : List Rat) : List (Nat × Rat) :=
  z.zipIdx.foldl (fun c x => (insertTop (x.2, x.1) c).take k) []

/-- Running binary32 sums of a list. -/
def runningSums (s : Rat) : List Rat → List Rat
  | [] => []
  | x :: xs => f32 (s + x) :: runningSums (f32 (s + x)) xs

/-- The token drawn and its log-probability, from finite logits (R197). -/
def foxPick (temp topP : Rat) (topK : Nat) (seed : U64) (pos : Nat) (z : List Rat) : Nat × Rat :=
  let t := if temp > 0 then temp else 1
  let y := z.map fun v => f32 (v / t)
  let m := y.foldl max (y.headD 0)
  let l := f32Sum (y.map fun v => f32Exp (f32 (v - m)))
  let c := (topTokens topK z).map Prod.fst
  let pick :=
    if temp = 0 then c.headD 0
    else
      let e := c.map fun i => f32Exp (f32 (y.getD i 0 - m))
      let sums := runningSums 0 e
      let n := match sums.findIdx? fun s => decide (s ≥ f32 (topP * l)) with | some i => i + 1 | none => c.length
      let s := sums.getD (n - 1) 0
      let us := f32 (foxDraw seed pos * s)
      match (sums.take n).findIdx? fun x => decide (x > us) with
      | some i => c.getD i 0
      | none => c.getD (n - 1) 0
  (pick, f32 (f32 (y.getD pick 0 - m) - f32Ln l))

/-- LOGP of the record: −256 × logp in U8.8, half to even, within 0 to 65,535 (R201). -/
def logpCode (logp : Rat) : U16 := BitVec.ofInt 16 (clampInt 0 65535 (ratRound (f32 (-256 * logp))))

/-! ### Stop sets (R199, R200) -/

/-- Word `k` of a stop set in force. -/
def Dev.stopWord (d : Dev) (p set k : Nat) : U32 := d.regIn (Off.foxStop p set + 4 * k)

/-- A token word matches a token. -/
def wordIs (w : U32) (t : BitVec 18) : Bool := w.getLsbD 31 && w.extractLsb' 0 18 == t

/-- The words of sequence `s` of a stop set; none where it is unused. -/
def Dev.stopSeq (d : Dev) (p set s : Nat) : List U32 :=
  let n := fieldNat (d.stopWord p set (9 + 17 * s)) 4 0
  if n > 16 then [] else (List.range n).map fun i => d.stopWord p set (10 + 17 * s + i)

/-- MATCH: the length of the longest suffix of the tokens generated, given last first, that is a prefix of the sequence (R199). -/
def matchLen (seq : List U32) (recent : List (BitVec 18)) : Nat :=
  let fits := fun (k : Nat) => decide (k ≤ seq.length) && ((seq.take k).zip (recent.take k).reverse).all fun x => wordIs x.1 x.2
  ((List.range (recent.length + 1)).reverse.find? fits).getD 0

/-- The tokens generated last, with one more. A stop sequence has at most 16 tokens (R199). -/
def ReqEntry.withToken (r : ReqEntry) (t : BitVec 18) : List (BitVec 18) := (t :: r.recent).take 16

/-- The checks after a token is drawn: REASON, 0 for none, and the new match lengths (R199, R200). -/
def Dev.stopCheck (d : Dev) (r : ReqEntry) (pos : Nat) (t : BitVec 18) : BitVec 4 × List Nat :=
  let p := r.partition
  let set := r.stopSet.toNat
  let lens := (List.range 4).map fun s => matchLen (d.stopSeq p set s) (r.withToken t)
  let full := (List.range 4).any fun s => let q := d.stopSeq p set s; !q.isEmpty && lens.getD s 0 == q.length
  let reason : BitVec 4 :=
    if wordIs (d.stopWord p set 0) t then 1
    else if (List.range 8).any fun i => wordIs (d.stopWord p set (1 + i)) t then 2
    else if full then 3
    else if pos = r.maxLen.toNat - 1 then 4 else 0
  (reason, lens)

/-! ### FOXGLOVE_ROW -/

/-- The row of a step that needs the token at `pos` of this request (R27, R187). -/
def needsToken (h : U32) (pos : BitVec 20) (x : StepRow) : Bool :=
  x.handle == h && (x.decode || x.last) && x.position + 1 == pos

/-- The logits of a row from entry `n` on, part by part; none where a part is missing. -/
def rowLogits (parts : List LogitPart) (vocab : Nat) : Nat → Nat → Option (List (Option U32))
  | 0, _ => none
  | fuel + 1, n =>
    if n ≥ vocab then some []
    else match parts.find? fun x => x.first == n && !x.values.isEmpty with
      | some x => (rowLogits parts vocab fuel (n + x.values.length)).map (x.values ++ ·)
      | none => none

/-- The logits in the row buffer for the token at `pos`, once all of the vocabulary is there (R195). -/
def Dev.logitsOf (d : Dev) (p : Nat) (h : U32) (pos : BitVec 20) : Option (List (Option U32)) :=
  let parts := d.engine.logits.filter fun x => x.partition == p && x.handle == h && x.pos == pos
  let vocab := (d.job p).params.vocab
  if vocab = 0 then none else rowLogits parts vocab (parts.length + 1) 0

/-- FOXGLOVE_ROW: one row's logits give a token, or poison; the result waits for step 4 of the boundary (R195 to R198, R202). Only the lead
samples, and the rows of the steps in flight that are sampled come one at a time, in row-list order. -/
def execFoxgloveRow (partition : Nat) (handle : U32) (pos : BitVec 20) (s : State) : Out := s.on fun d =>
  let j := d.job partition
  let r := d.req (slotOf handle)
  let next := j.undrawn.head? == some (handle, pos)
  match d.logitsOf partition handle pos with
  | none => d
  | some logits =>
  if d.isLead partition && next then
    let add := fun (d : Dev) (f : FoxResult) =>
      (d.updJob partition fun j => { j with fox := j.fox ++ [f] }).dropLogits fun x => x.rowOf == (partition, handle, pos)
    if logits.any (·.isNone) then
      (add d { handle := handle, pos := pos, poison := true, token := 0, drawnAt := d.now, logp := 0 }).count DC.foxPoison
    else
      let o := Off.foxProfile partition r.profile.toNat
      let lo := d.regIn o
      let hi := d.regIn (o + 4)
      let x := foxPick (foxTemp (lo.extractLsb' 0 16)) (foxTopP (lo.extractLsb' 16 16)) (foxTopK (fieldNat hi 10 0)) r.seed pos.toNat
        (logits.map fun w => f32Value (w.getD 0))
      (add d { handle := handle, pos := pos, poison := false, token := BitVec.ofNat 18 x.1, drawnAt := d.now, logp := logpCode x.2 }).count DC.foxRows
  else d

end Sys2Proof.Machine
end

