-- ==== Sys2Proof/Machine/Member.lean ====
section
/-! DEFINITION. The member boundary: the outcome of a stage, the changes a descriptor carries, the work of steps 6 to 8 of the
boundary order, and the start of the next step (R24, R50, R57, R66, R72, R75, R100, R106 to R108, R136, R160 to R163, R175,
R183, R184, R189, R216, R226, R234, R293, R339, R344, R401, R437, R451, R476). -/

namespace Sys2Proof.Machine

/-! ### The outcome of a stage (R106 to R108, R162, R189 step 1) -/

/-- A row's request as this member holds it: its slot number, where the handle is current. -/
def Dev.rowSlot (d : Dev) (x : StepRow) : Option Nat :=
  let slot := slotOf x.handle
  if (d.req slot).gen = genOf x.handle then some slot else none

/-- The keys and values of a row's position are held: for a decode row FILL advances, and LEN passes it (R162, R189). The lead
advances LEN at its own boundary (R175). -/
def Dev.rowHeld (d : Dev) (x : StepRow) : Dev :=
  match d.rowSlot x with
  | none => d
  | some slot =>
    let r := d.req slot
    let d := if d.isLead r.partition then d else d.setReq slot { r with len := x.position + 1 }
    if x.decode && r.slotValid && (d.stg r.slot).owner == some slot then d.setStg r.slot (d.stg r.slot).advance else d

/-- The descriptor goes on to the next member, with every change applied here since the last one (R183). -/
def Dev.passOn (d : Dev) (p : Nat) (x : StepDesc) : Dev :=
  let next := match d.memberIndex p with | some i => (d.members p)[i + 1]? | none => none
  match next with
  | none => d.updJob p fun j => { j with carry := [] }
  | some pos =>
    let y : StepDesc := { no := x.no, rows := x.rows, changes := (d.job p).carry, replay := false, held := false, op := x.op }
    (d.send (.stepCtl pos p y)).updJob p fun j => { j with carry := [] }

/-- The bytes that a tuning step writes to its workspace: the Z8 inputs of the layers with graft entries, the attention output of each head, and
the row statistics as FP32 words. The spec does not give the workspace's layout: the model lays them one after another in the order in which they
arose, a Z8 vector as its mantissas and then its exponents (R156, R166; DESIGN CHOICE, log 137). -/
def TuningRec.bytes (t : TuningRec) : List Byte :=
  let head := fun (ws : List (Option U32)) =>
    let bs := (List.range (ceilDiv ws.length 32)).map fun i => z8Block (((ws.drop (32 * i)).take 32).map f32Lane)
    bs.flatMap (fun b => b.2.1) ++ bs.map fun b => BitVec.ofNat 8 b.1
  t.inputs.flatMap (fun v => v.ms ++ v.es) ++ t.heads.flatMap (fun h => head h.2.2.2)
    ++ t.stats.flatMap fun s => bytesOf (f32Word s.2.2.2.1) 4 ++ bytesOf (f32Word s.2.2.2.2) 4

/-- A tuning step's workspace after a stage (R156, R165, R166, R230). -/
def Dev.writeWorkspace (d : Dev) (p : Nat) (sp : OperatorSpec) (t : TuningRec) : Dev :=
  match sp with
  | .tuning _ _ _ _ block blocks _ => d.unitWrite p (16384 * block) (t.bytes.take (16384 * blocks))
  | .library .. => d

/-- Σ x_i · δ_j over the rows of a tuning step, in FP32, each addition rounded, in the order in which the inputs came; none where an element is
poison (R80, R145, R166). -/
def TuningRec.sum (t : TuningRec) (layer row col : Nat) : Option U32 :=
  let el := fun (v : TuningVec) (i : Nat) => if z8Poison (v.ms.getD i 0) (v.es.getD (i / 32) 0) then none
    else some (z8m (v.ms.getD i 0), ((v.es.getD (i / 32) 0).toNat : Int))
  (t.inputs.filter fun x => x.layer == layer && x.band == row / 512).foldl (fun acc x =>
    match t.deltas.find? fun y => y.row == x.row && y.layer == layer && y.band == col / 512 with
    | none => acc
    | some y => match acc, el x (row % 512), el y (col % 512) with
      | some s, some a, some b => some (f32Add s (a.1 * b.1) (a.2 + b.2 - 266))
      | _, _, _ => none) (some 0)

/-- The gradients of one graft layer in entry order, g · Σ x_i δ_j for each entry, and then that of g: Σ over the entries of their δ times the
same sum, which R166 names and does not write out (DEDUCED, log 137). FP32 has no poison code: a poison sum is written as 0x7FC00000 (log 137). -/
def TuningRec.layerGradients (t : TuningRec) (b : GraftBlock) : List Byte :=
  let sums := b.entries.map fun e => (e, (t.sum b.layer.toNat e.row.toNat e.col.toNat).map f32Value)
  let word := fun (x : Option Rat) => bytesOf (match x with | some v => f32Word v | none => (0x7FC00000 : U32)) 4
  let g := allOf (sums.map fun s => s.2.map fun v => f32 ((s.1.delta.toInt : Rat) * v))
  sums.flatMap (fun s => word (s.2.map fun v => f32 (bf16Value b.scale * v))) ++ word (g.map f32Sum)

/-- The stage of a tuning step is complete: its workspace is written and its gradients go to the lead (R166). -/
def Dev.endTuning (d : Dev) (p : Nat) (x : StepDesc) (t : TuningRec) : Dev :=
  match x.op with
  | some (.tuning rows lens id ver block blocks buf) =>
    let bs := ((d.graft id.toNat).live.filter fun v => v.ver == ver).flatMap GraftVersion.blocks
    (d.writeWorkspace p (.tuning rows lens id ver block blocks buf) t).reportOp p x.no (bs.map fun b => (b.layer.toNat, t.layerGradients b)) none
  | _ => d

/-- A complete stage: its rows' positions are held, and its rows and the descriptor go on to the next member; the last member's
rows return to the lead (R162, R171, R183, R189). -/
def Dev.stageDone (d : Dev) (p : Nat) (x : StepDesc) (t : TuningRec) : Dev :=
  let d := d.forAll x.rows Dev.rowHeld
  let zero := x.rows.any fun r => decide ((d.req (slotOf r.handle)).cls = 0)
  let d := d.endTuning p x t
  let d := if (d.members p).length > 1 then d.send (.stepData p x.no zero x.rows.length) else d
  d.passOn p x

/-- A marked stage: the replay carries the same rows, and runs in held mode when the marked step was itself a replay. The lead
composes the replay at its boundary; another member replays at once (R107, R108). -/
def Dev.stageMarked (d : Dev) (p : Nat) (x : StepDesc) : Dev :=
  let again : StepDesc := { no := x.no, rows := x.rows, changes := [], replay := true, held := x.replay, op := x.op }
  if d.isLead p then d.updJob p fun j => { j with replay := some (again, again.held) }
  else d.updJob p fun j => { j with descs := again :: j.descs }

/-- The stage in progress is over: complete, or marked for replay (R106 to R108). -/
def Dev.endStage (d : Dev) (p : Nat) : Dev :=
  match (d.job p).step with
  | none => d
  | some st =>
    let d := d.watchBoundary p st.marked
    let d := d.updJob p fun j => { j with step := none, lastStep := st.desc.no, stepEndedAt := d.now }
    let d := { d with array := { d.array with idleSince := d.now } }
    if st.marked then d.stageMarked p st.desc
    else { d with link := { d.link with ingress := d.link.ingress.filter fun e => !(e.partition == p && e.step == st.desc.no) } }.stageDone p st.desc st.tuning

/-! ### The changes that a descriptor carries (R175, R183) -/

/-- The image of a page that holds positions, as a staging slot takes it (R163). -/
def Dev.pageImage (d : Dev) (page : Nat) : SMap Byte :=
  let base := d.mapAddr (d.pageAddr page)
  (d.stack.mem.filter fun e => decide (base + 64 ≤ e.1) && decide (e.1 < base + 16384)).map fun e => (e.1 - base, e.2)

/-- A staging slot opens for a request: on the prompt's last, partial page, or on the page reserved beyond the prompt, which is
entered in the list (R160, R163, R188). -/
def Dev.openSlot (d : Dev) (slot k : Nat) : Dev :=
  let d := d.updReq slot fun r => { r with slot := k, slotValid := true }
  let r := d.req slot
  let ps := (d.job r.partition).params
  let v := d.kv slot
  let fresh := fun (d : Dev) (home : Nat) =>
    let d := (d.clearPage r.partition home).unitWrite r.partition (d.pageAddr home)
      (bytesOf (pageHeader ps.kvBf16 0 r.len.toNat (handleOf slot r.gen) 0x3F80) 16)
    d.setStg k { Staging.free with owner := some slot, home := home, scale := 0x3F80 }
  let d := if r.promptLen.toNat % ps.pagePositions ≠ 0 then
      match v.pages.getLast? with
      | none => d
      | some home =>
        let head := d.headerOf home
        let image := d.pageImage home
        d.setStg k { Staging.free with
          owner := some slot, home := home, fill := fieldNat head 75 68, scale := head.extractLsb' 0 16,
          scaled := image.any fun e => decide (e.2.toNat % 128 ≠ 0), data := image }
    else match v.spare with
      | some home => fresh ((d.setKv slot { v with spare := none }).enterPage slot home) home
      | none => match d.nextPage slot with
        | some home => fresh ((d.takeFor slot home).enterPage slot home) home
        | none => d
  d.count DC.kvSlotGrant

/-- A member arms a watch in the index that the lead chose (R438). -/
def Dev.takeWatch (d : Dev) (p i : Nat) (o : Origin) (w : WatchSpec) (fromStep : U48) : Dev :=
  d.setWatch p i (some { origin := o, spec := w, fromStep := fromStep, parts := [], fired := false, step := 0 })

/-- The later of two versions, modulo 2^16 (R204). -/
def laterVersion (a b : U16) : U16 := if (b - a).toNat < 32768 then b else a

/-- A pending version becomes current, and the ID accepts bindings again (R204, R205). R205 speaks of a load that comes after GRAFT_RETIRE; that one
which was pending when the retirement was applied has the same effect is the model's choice (DESIGN CHOICE, log 169). -/
def Graft.install (g : Graft) (ver : U16) (load : Nat) : Graft :=
  match g.pending.find? fun x => x.load == load with
  | some x =>
    { g with current := ver, created := laterVersion g.created ver, retired := false, pending := g.pending.filter fun y => y.load != load,
             live := g.live ++ [{ ver := ver, refs := 0, unusable := false, bytes := x.bytes, blocks := x.blocks }] }
  | none => g

/-- One change takes effect on this member (R175, R183). The lead has made its own table changes already. -/
def Dev.applyChange (d : Dev) (p : Nat) (c : ReqChange) : Dev :=
  let lead := d.isLead p
  match c with
  | .free slot => if lead then d.freeKv slot else d.freeEntry slot
  | .grant slot k => d.openSlot slot k
  | .release k => d.setStg k Staging.free
  | .pages slot =>
    if lead then d else d.reservePages slot (ceilDiv (d.req slot).promptLen.toNat (d.job p).params.pagePositions)
  | .admitted slot gen cls maxLen promptLen graft =>
    if lead then d
    else d.setReq slot { ReqEntry.free gen with
      state := .queued, partition := p, cls := cls, maxLen := maxLen, promptLen := promptLen, admitTime := d.us,
      graftValid := graft.isSome, graftId := (graft.map Prod.fst).getD 0, graftVer := (graft.map Prod.snd).getD 0 }
  | .installGraft id ver load => if lead then d else (d.updGraft id.toNat fun g => g.install ver load).count DC.graftLoaded
  | .retireGraft id => if lead then d else d.updGraft id.toNat fun g => { g with retired := true }
  | .dropGraft id ver => if lead then d else d.reclaimVersion id.toNat ver
  | .dropLoad id load => if lead then d else d.dropLoad id.toNat load
  | .watch i o w start => if lead then d else d.takeWatch p i o w start
  | .drainEnd v => d.beginCommit p v

/-- Full slots are flushed to their home pages, and take a new home: the page reserved beyond the prompt, else a fresh one
(R162). -/
def Dev.flushFull (d : Dev) (p : Nat) : Dev :=
  let tp := (d.job p).params.pagePositions
  let j := d.job p
  let upTo := match j.replay, j.descs with
    | some y, _ => y.1.no.toNat
    | none, x :: _ => if x.replay then x.no.toNat else j.begun
    | none, [] => j.begun
  let own := (d.memberIndex p).getD 0
  let d := d.updJob p fun j => { j.keptOn own j.begun upTo with flushed := upTo }
  d.forAll d.serve.staging fun d e =>
    let x := d.stg e.1
    match x.owner with
    | none => d
    | some slot =>
      if (d.req slot).partition = p ∧ x.fill ≥ tp then
        let v := d.kv slot
        let d := d.flushSlot slot x (tp * v.pages.findIdx (· == x.home))
        let open_ := fun (d : Dev) (home : Nat) =>
          (d.enterPage slot home).setStg e.1 { Staging.free with owner := some slot, home := home, scale := 0x3F80 }
        match v.spare with
        | some home => open_ (d.setKv slot { v with spare := none }) home
        | none => match d.nextPage slot with
          | some home => open_ (d.takeFor slot home) home
          | none => d
      else d

/-! ### Steps 6 to 8 of the boundary -/

/-- The physical tiles of a partition. -/
def Dev.partTiles (d : Dev) (p : Nat) : List Nat := (d.partClusters p).flatMap tilesOf

/-- Step 6: staged row remaps, age classes, the ladder in ascending tile order, rows mapped out (R57, R66, R72, R226, R339,
R340, R344). -/
def Dev.boundaryTiles (d : Dev) (p : Nat) : Dev :=
  let d := d.forAll (d.partTiles p) fun d k =>
    let t := d.tile k
    let d := if t.rowMapStaged.isEmpty then d
      else d.setTile k { t with rowMap := t.rowMapStaged.foldl (fun m e => mapRow m e.1 e.2) t.rowMap, rowMapStaged := [] }
    let d := if t.agedStaged then (d.updTile k fun t => { t with aged := true, agedStaged := false }).count DC.agedSet else d
    d.ladderTile k
  d.forAll (d.partClusters p) fun d c => d.forAll (d.cluster c).mapOut fun d r => d.mapOutRow c r

/-- The pre-split flags after a step (R50, case 3). -/
def Tile.nextSplit (t : Tile) : Tile :=
  let kept := t.preSplit.filter fun l => !(t.splitRun.contains l && !t.splitWide.contains l)
  { t with preSplit := kept ++ t.splitSeen.filter (fun l => !kept.contains l), splitSeen := [], splitRun := [], splitWide := [] }

/-- The class of a column from its peak: the finest whose range holds HEADROOM / 8 of it, else x1 (R100). -/
def nextClass (headroom peak : Nat) : Nat :=
  let fits := fun (range : Nat) => decide (8 * range ≥ headroom * peak)
  if fits 4032 then 3 else if fits 8064 then 2 else if fits 16128 then 1 else 0

/-- The gain classes of every pair that was observed; a pre-split pair, observed or not, is at x1 (R100). -/
def Tile.nextClasses (t : Tile) (headroom : Nat) : Tile :=
  let seen := t.peaks.foldl (fun (m : SMap (List Nat)) e => SMap.put [] m e.1 (e.2.map (nextClass headroom))) t.classes
  { t with classes := SMap.keep (fun l => !t.preSplit.contains l) seen, peaks := [] }

/-- Step 7: trims, pre-split flags, gain classes (R50, R100, R136). -/
def Dev.boundaryTrims (d : Dev) (p : Nat) : Dev :=
  d.forAll (d.partTiles p) fun d k =>
    (d.applyTrims k).updTile k fun t => t.nextSplit.nextClasses d.headroom

/-- A migrating pseudo-channel with no block in use is retired and powered down (R234, step 4). -/
def Dev.retirePcs (d : Dev) : Dev :=
  d.forAll (d.stack.pcs.filter fun e => decide (e.2.state = 1)) fun d e =>
    let pool := d.kindAt 4
    let kvLeft := d.stack.pagesUsed.any fun pg => pcOf (d.mapBlock (pool.1 + pg)) == e.1
    let outLeft := (List.range 128).any fun i =>
      let w := d.region i
      rgValid w && rgKind w != 4 && (List.range (rgSize w)).any fun b => pcOf (d.mapBlock (rgBase w + b)) == e.1
    if kvLeft || outLeft then d else d.setPcs e.1 { e.2 with state := 2 }

/-- A pending re-step of device time (R293). -/
def Dev.stepTime (d : Dev) : Dev :=
  match d.sys.reStep with
  | none => d
  | some offset =>
    ({ d with glob := { d.glob with timeNs := d.glob.timeNs + offset }, sys := { d.sys with reStep := none } }).count DC.timeStep

/-- Identifiers are accepted again once every placed tile is READY or in stand-in (R259, R388). Once the digests have been compared too, the bank is
verified and the job may serve; the copy of the replica starts again (R330, R332, R333). -/
def Dev.restoreSymbols (d : Dev) (p : Nat) : Dev :=
  match (d.commit p).bank with
  | some b =>
    if (d.job p).rebuilding && d.tilesServe p b && !(d.bank p b).copyBad then
      let d := d.updJob p fun j => { j with symbols := (d.bank p b).symbols }
      if (d.job p).digestOk then
        let d := d.updJob p fun j => { j with rebuilding := false, digestOk := false }
        if (d.replica p).ownValid then d else d.startReplica p
      else d
    else d
  | none => d

/-- The output ports from a cluster's router to port `q` of the edge ports of engine `e` of its tier, rows first or columns first, and those of
the way back (R213, R219). -/
def engineWay (c e q : Nat) (rowsFirst : Bool) : List Nat × List Nat :=
  let row := 4 * (e % 4) + q
  let v := if row < meshRow c then List.replicate (meshRow c - row) 0 else List.replicate (row - meshRow c) 2
  let h := if e < 4 then List.replicate (meshCol c) 3 else List.replicate (15 - meshCol c) 1
  let back := fun (o : Nat) => (o + 2) % 4
  ((if rowsFirst then v ++ h else h ++ v) ++ [if e < 4 then 3 else 1],
   (if rowsFirst then h.map back ++ v.map back else v.map back ++ h.map back) ++ [4])

/-- The routers of a way, each with the connection that its entry makes and the service slot in which it makes it (R214, R216). -/
def circuitEntries (start src slot : Nat) (outs : List Nat) : List (Nat × Nat × Nat × Nat) :=
  (hopsOf (.router start) src outs).zipIdx.filterMap fun x => match x.1.1 with
    | .router c => some (c, x.1.2.1, x.1.2.2, (slot + 4 * x.2) % 4096)
    | .segment _ => none

/-- No circuit has an entry's output port in its slot, nor, at the first router, its input port; and the router is one of the partition's. -/
def Dev.circuitFree (d : Dev) (p : Nat) (es : List (Nat × Nat × Nat × Nat)) : Bool :=
  es.zipIdx.all fun x =>
    let w := SMap.get (0 : U32) (d.cluster x.1.1).shadow x.1.2.2.2 ||| d.fillWord (.router x.1.1) (x.1.2.2.2 / 4)
    d.clusterOwner x.1.1 == some p && !w.getLsbD (4 * x.1.2.2.1 + 3) && (decide (x.2 ≠ 0) || (outputsOf w x.1.2.1).isEmpty)

/-- Writes a circuit's entries into the shadow tables. -/
def Dev.writeShadow (d : Dev) (es : List (Nat × Nat × Nat × Nat)) : Dev :=
  d.forAll es fun d e => d.updCluster e.1 fun c =>
    { c with shadow := SMap.put 0 c.shadow e.2.2.2 (SMap.get 0 c.shadow e.2.2.2 ||| connect e.2.1 e.2.2.1) }

/-- The planner writes the step circuits of the coming step's stand-ins into the shadow tables: one that carries aligned inputs from the tile's
router to an edge port of a Dahlia engine of its tier, and one that brings the partials back, in service slots and on ports that no other
circuit has. Which engine, way and slots it tries is free, and so is whether it places a circuit that fits; where it places none, the stand-in
runs on the correction-unit path (R149, R150, R216; log 19). -/
def Dev.planCircuits (d : Dev) (p : Nat) : Dev :=
  let mine := (d.placed p).map fun x => 64 * x.cluster + x.ltile
  let d := { d with engine := { d.engine with noCircuit := d.engine.noCircuit.filter fun t => !mine.contains t } }
  d.forAll ((d.placed p).filter fun x => d.onStandIn x.cluster x.ltile) fun d x =>
    let pick := (Config.freeBits d.fresh 7).toNat
    let slot := fun (i : Nat) => 4 * (Config.freeBits (d.fresh + i) 10).toNat + 3
    let e := pick % 8
    let q := pick / 8 % 4
    let way := engineWay x.cluster e q (pick / 32 % 2 == 0)
    let edge := 256 * tierOf x.cluster + 16 * (4 * (e % 4) + q) + (if e < 4 then 0 else 15)
    let there := circuitEntries x.cluster 4 (slot 1) way.1
    let back := circuitEntries edge (if e < 4 then 3 else 1) (slot 2) way.2
    let d := d.draw.draw.draw
    if pick / 64 = 0 && d.circuitFree p there && (d.writeShadow there).circuitFree p back then (d.writeShadow there).writeShadow back
    else { d with engine := { d.engine with noCircuit := (64 * x.cluster + x.ltile) :: d.engine.noCircuit } }.count DC.svcNoCircuit

/-! ### The next step -/

/-- The lead sends the token IDs whose embedding rows it does not hold to the device that holds them; a replay has its inputs (R107, R171). -/
def Dev.askEmbedding (d : Dev) (p : Nat) (x : StepDesc) : Dev :=
  let ps := (d.job p).params
  match ps.embedOther with
  | some pos =>
    let rows := x.rows.filter fun r => !inRange ps.embedFirst ps.embedCount r.token.toNat
    if d.isLead p && !x.replay && !rows.isEmpty then
      d.send (.stepCtl pos p { no := x.no, rows := rows, changes := [], replay := false, held := false, lookup := true })
    else d
  | none => d

/-- The member's boundary tag: what the lead learns of it (R183, R354). -/
def Dev.sendTag (d : Dev) (p : Nat) : Dev :=
  if d.isLead p then d
  else
    let j := d.job p
    (d.send (.tag p { member := (d.memberIndex p).getD 0, freePages := d.freePages, positions := j.params.pagePositions, begun := j.begun,
                      flushed := j.flushed, lost := j.lostOut, preempted := j.preemptOut, marked := j.markOut })).updJob p fun j => { j with lostOut := [], preemptOut := [], markOut := [] }

/-- The member takes its next descriptor: its changes take effect, full slots are flushed, and the step begins unless the descriptor carries
no row and no operator (R165, R183, R184). Steps already in flight complete while the job holds for an activation (R305); no later step begins
before the replay of a marked one (R107). -/
def Dev.beginNext (d : Dev) (p : Nat) : Dev :=
  match (d.job p).descs with
  | [] => d.flushFull p
  | x :: rest =>
    if (d.job p).replay.isSome then d.flushFull p
    else
      let d := d.updJob p fun j => { j with descs := rest, carry := j.carry ++ x.changes }
      let d := (d.forAll x.changes fun d c => d.applyChange p c).flushFull p
      if x.rows.isEmpty && x.op.isNone then d.passOn p x
      else
        let d := d.askEmbedding p x
        let d := if x.replay then d.count DC.stepReplay else d
        let d := if x.held then d.count DC.stepHeld else d
        (d.planCircuits p).updJob p fun j =>
          { j with begun := x.no.toNat + 1, step := some { desc := x, marked := false, started := false, due := false, startedAt := 0 } }

/-- A step has begun on the member and its schedule has not. -/
def Dev.stepWaits (d : Dev) (p : Nat) : Bool := match (d.job p).step with | some s => !s.started | none => false

/-- MEMBER_BOUNDARY: between the device's stages of two steps (R184, R189). -/
def execMemberBoundary (partition : Nat) (s : State) : Out := s.on fun d =>
  let p := partition
  if d.isMember p && !d.stepWaits p then
    let d := d.endStage p
    let d := (d.boundaryTiles p).retirePcs
    let d := ((((d.passParts p).passRegion).stepTime).passRegs p).boundaryTrims p
    let d := (((d.passBudget p).restoreSymbols p).sendTag p)
    d.beginNext p
  else d

end Sys2Proof.Machine
end

