-- ==== Sys2Proof/Machine/Lead.lean ====
section
/-! DEFINITION. The lead of a job: predictions and class-0 bounds, admissions, the commands it applies, deadlines, completions,
endings, grafts, drains and the step composer (R171 to R208, R263, R270, R326, R329, R330, R354 to R356). -/

namespace Sys2Proof.Machine

/-! ### Predictions (R168, R186) -/

/-- What a step asks of a stage: rows, positions read by decode rows, query-key pairs of prefill rows, rows that are sampled. -/
structure StepLoad where
  rows : Nat
  ctx : Nat
  pairs : Nat
  sampled : Nat
  deriving DecidableEq, Repr

/-- The load of a list of rows. -/
def loadOf (rows : List StepRow) : StepLoad :=
  { rows := rows.length
    ctx := ((rows.filter fun x => x.decode).map fun x => x.position.toNat).sum
    pairs := ((rows.filter fun x => !x.decode).map fun x => x.position.toNat + 1).sum
    sampled := (rows.filter fun x => x.decode || x.last).length }

/-- N_r of R186: the share of aged tiles at the upper limit of the rated range. -/
def restoreTiles (tiles : Nat) : Rat := ((if Config.isE then 461 else 329 : Nat) : Rat) * tiles / 31744

/-- T_step of a stage in ns, under a tile share B_t of the device, a Dahlia reservation of the job, and a stack bandwidth of `bl` bytes per ns; none
where no tile share or no half is there (R168). A half computes 4,608 FP8 or 2,304 BF16 MACs per ns. -/
def stageTime (sp : StagePlan) (bl tileShare reserve : Nat) (l : StepLoad) : Option Rat :=
  let halves := reserve / 385
  let share : Rat := (tileShare : Rat) - restoreTiles sp.tiles
  let needsHalf := (decide (l.pairs > 0) && decide (sp.pairMacs > 0)) || (decide (l.sampled > 0) && decide (sp.headBytes > 0))
  if (decide (sp.tiles > 0) && decide (l.rows > 0) && decide (share ≤ 0)) || (needsHalf && halves == 0) then none
  else
    let arr : Rat := if sp.tiles = 0 ∨ l.rows = 0 then 0
      else (sp.tiles * l.rows * 96 : Nat) * (1 + (sp.guardPct : Rat) / 100) / share
    let att : Rat := ((sp.kvBytes * l.ctx : Nat) : Rat) / bl
    let pre : Rat := if halves = 0 then 0 else ((l.pairs * sp.pairMacs * 3 : Nat) : Rat) / (halves * 4608 : Nat)
    let head : Rat := if halves = 0 ∨ l.sampled = 0 then 0
      else max (((sp.headBytes : Nat) : Rat) / bl) (((l.sampled * sp.headBytes : Nat) : Rat) / (halves * 4608 : Nat))
    some ((sp.tFix : Rat) + arr + att + pre + head + ((l.sampled * sp.sampledPs : Nat) : Rat) / 1000)

/-- The budget that a package's notices have carried, the default before its first: the lead reads nothing else of the power manager (R23,
R377). -/
def Dev.noticedBudget (d : Dev) (p : Nat) (node : BitVec 7) : Nat := SMap.get 27648 (d.job p).notices node.toNat

/-- Tile share and reservation that the lead plans stage `i` with, from the budget that the notices carry: on its own device what is left
beside the reservations of all jobs (R75, R186, R377); of another member the lead knows the demand of this job alone (log 138). -/
def Dev.stageBudget (d : Dev) (p i : Nat) (sp : StagePlan) : Nat × Nat :=
  let n := (d.members p).length
  if i ≥ n ∨ d.memberIndex p = some i then (d.noticedBudget p d.glob.node - d.engine.reserve, (d.job p).reserve)
  else
    let b := d.noticedBudget p (d.nodeAt ((d.members p).getD i 0))
    let r := reservation sp.demand 12320 (b - 512)
    (b - r, r)

/-- B_L of stage `i` in bytes per ns: on its own device the lead knows the pseudo-channels retired, each of which takes 64; of another member it
does not (R234; log 138). -/
def Dev.stackRate (d : Dev) (p i : Nat) : Nat :=
  if i ≥ (d.members p).length ∨ d.memberIndex p = some i then 2048 - 64 * (d.stack.pcs.filter fun e => e.2.state == 2).length else 2048

/-- No member is predicted above STEP_TGT; no cap where STEP_TGT is 0 (R186). -/
def Dev.stepFits (d : Dev) (p : Nat) (rows : List StepRow) : Bool :=
  let tgt := d.stepTgt p
  tgt == 0 || (d.job p).params.plan.zipIdx.all fun x =>
    let b := d.stageBudget p x.2 x.1
    match stageTime x.1 (d.stackRate p x.2) b.1 b.2 (loadOf rows) with | some t => decide (t ≤ (1000 * tgt : Nat)) | none => false

/-! ### Class-0 bounds (R190, R191) -/

/-- STEP_JOB_BOUND.VALID: the set-up check at the default budget (R190). -/
def Dev.boundValid (d : Dev) (p : Nat) : Bool :=
  let tgt := d.stepTgt p
  let req := d.q0Req p
  let prompt := d.q0Prompt p
  let l : StepLoad := { rows := req + prompt, ctx := req * d.q0Ctx p, pairs := prompt * (prompt + 1) / 2, sampled := req + 1 }
  let plan := (d.job p).params.plan
  decide (tgt ≠ 0) && decide (req + prompt ≤ d.q0Rows p) && decide (req ≤ d.q0Rows p * d.stepsMax p) && !plan.isEmpty
    && plan.zipIdx.all fun x =>
      let r := reservation x.1.demand 12320 (27648 - 512)
      match stageTime x.1 (d.stackRate p x.2) (27648 - r) r l with
      | some t => decide (t + (x.1.tBnd : Rat) < (1000 * tgt : Nat))
      | none => false

/-- Hops between two positions of the torus. -/
def Dev.torusHops (d : Dev) (a b : Nat) : Nat :=
  let axis := fun (x y n : Nat) => let k := max x y - min x y; min k (n - k)
  axis (a % 4) (b % 4) (d.xm1 + 1) + axis (a / 4 % 4) (b / 4 % 4) (d.ym1 + 1) + axis (a / 16) (b / 16) (d.zm1 + 1)

/-- H: hops from the gateway to this lead (log 55). -/
def Dev.gwHops (d : Dev) : Nat :=
  if d.sys.primary then 0
  else match d.sys.posMap.find? (fun e => e.2.getLsbD 7 && e.2.truncate 7 == d.sys.gwNode) with
    | some e => d.torusHops e.1 d.sys.position
    | none => 0

/-- t_db in ns: 4.0 µs, and with a standby in sync the round trip to it (R255, R296), at t_hop a hop (R282). -/
def Dev.tDb (d : Dev) : Nat := 4000 + match d.sys.standbyKnown with | some x => 1200 * x.2 | none => 0

/-- B_adm, B_ttft and B_itt in ns (R191): t_db, t_hop 0.6 µs, T_bnd 3.05 µs. -/
def Dev.jobBounds (d : Dev) (p : Nat) : Nat × Nat × Nat :=
  let tgt := 1000 * d.stepTgt p
  let rt := ((d.members p).length + 1 + d.stepsMax p - 1) * tgt + 600 * (d.job p).params.hops
  let adm := d.tDb + 600 * d.gwHops + tgt + 3050
  (adm, adm + (ceilDiv (d.q0Req p) (d.stepsMax p) + 1) * rt, rt + 3050)

/-- A time as a bound field gives it; between two units the choice is free (log 9). -/
def boundField (ns unit : Nat) : U16 :=
  let v := ns / unit
  BitVec.ofNat 16 (min 65535 (if ns % unit = 0 then v else if Config.roundUp v then v + 1 else v))

/-- STEP_JOB_BOUND, which the lead computes; it reads 0 elsewhere and while STEP_TGT gives no bound (R191, R208; log 71). -/
def Dev.boundWord (d : Dev) (p : Nat) : U64 :=
  let b := d.jobBounds p
  if !d.isLead p ∨ d.stepTgt p = 0 then 0 else
  (0 : BitVec 15) ++ BitVec.ofBool (d.boundValid p) ++ boundField b.2.2 10000 ++ boundField b.2.1 10000 ++ boundField b.1 1000

/-- What suspends the bounds of a job since the last boundary or now: a drain, a budget below the default or a brown-out hold that a notice
tells of (R25, R191, R377). -/
def Dev.boundsOff (d : Dev) (p : Nat) : Bool :=
  let j := d.job p
  j.drain.isSome || j.notices.any (fun e => decide (e.2 < 27648)) || j.noticed.any fun n => decide (n.budget.toNat < 27648) || n.cause == 5

/-- The notices that have arrived enter the predictions, and what they tell of suspends the bounds (R191, R377). -/
def Dev.readNotices (d : Dev) (p : Nat) : Dev :=
  let d := if d.boundsOff p then d.suspendBounds p else d
  d.updJob p fun j => { j with noticed := [], notices := j.noticed.foldl (fun m n => SMap.put 27648 m n.node.toNat n.budget.toNat) j.notices }

/-- The bounds apply to a class-0 request at a context: they have not been suspended since the moment that they count from (R191). -/
def Dev.boundsOn (d : Dev) (p : Nat) (r : ReqEntry) (ctx : Nat) : Bool :=
  r.cls == 0 && d.boundValid p && decide (ctx ≤ d.q0Ctx p) && !r.suspended && !d.boundsOff p

/-- Elapsed device microseconds. -/
def Dev.usSince (d : Dev) (t : U48) : Nat := (d.us - t).toNat

/-- A bound is missed: each marked step that carried the row adds 2 × STEP_TGT (R191). -/
def Dev.missed (d : Dev) (p : Nat) (r : ReqEntry) (bound : Nat) : Bool :=
  decide (1000 * d.usSince r.lastRecordAt > bound + 2000 * r.marks * d.stepTgt p)

/-- The miss counters at an output record: first token or next token (R191; log 56). -/
def Dev.recordBounds (d : Dev) (p : Nat) (r : ReqEntry) : Dev :=
  let b := d.jobBounds p
  let first := r.delivered = 0
  let on := d.boundsOn p r r.len.toNat && (!first || decide (r.promptLen.toNat ≤ d.q0Prompt p))
  let wait := if first then b.2.1 - d.tDb - 600 * d.gwHops else b.2.2
  if on && d.missed p r wait then d.count (if first then DC.class0MissTtft else DC.class0MissItt) else d

/-! ### The request table (R173, R176, R178, R180, R181) -/

/-- The slots of a partition's requests that are not FREE. -/
def Dev.jobSlots (d : Dev) (p : Nat) : List Nat := d.usedSlots p

/-- What is wrong with a handle that a command of partition `p` names (R173). -/
def Dev.handleError (d : Dev) (p : Nat) (h : U32) : Option Byte :=
  let slot := slotOf h
  let r := d.req slot
  if slot ≥ Config.requestSlots ∨ !inRange (d.reqBase p) (d.reqCount p) slot then some St.invalidHandle
  else if r.gen ≠ genOf h ∨ r.state = .free then some St.staleHandle
  else none

/-- The version that a submission's graft binds (R181). -/
def Dev.resolveGraft (d : Dev) (id : BitVec 12) (ver : U16) : Option U16 :=
  let g := d.graft id.toNat
  let v := if ver = 0 then g.current else ver
  if !g.retired && g.live.any (fun x => x.ver == v && !x.unusable) then some v else none

/-- Live class-0 requests of a job. -/
def Dev.class0Live (d : Dev) (p : Nat) : Nat :=
  ((d.jobSlots p).filter fun s => (d.req s).cls == 0 && (d.req s).state.live).length

/-- The lowest FREE slot of a partition (log 57). -/
def Dev.freeSlot (d : Dev) (p : Nat) : Option Nat :=
  ((List.range (d.reqCount p)).map (d.reqBase p + ·)).find? fun s => decide ((d.req s).state = .free)

/-- The status that refuses a submission; none admits it (R180, R190). -/
def Dev.admitError (d : Dev) (p : Nat) (f : SubmitFields) : Option Byte :=
  if (d.freeSlot p).isNone then some St.tableFull
  else if f.cls = 0 ∧ (d.q0Rows p = 0 ∨ d.class0Live p ≥ d.q0Req p) then some St.class0Quota
  else if f.promptLen = 0 ∨ f.promptLen.toNat ≥ f.maxLen.toNat ∨ f.maxLen.toNat > (d.job p).params.ctxLimit then some St.lenInvalid
  else if f.graftValid && (d.resolveGraft f.graftId f.graftVer).isNone then some St.graftInvalid
  else none

/-- An admitted request's entry (R174, R180, R181, R261). -/
def Dev.newEntry (d : Dev) (o : Origin) (f : SubmitFields) (gen : BitVec 14) (arrived : U48) (off : Bool) : ReqEntry :=
  { ReqEntry.free gen with
    state := .queued, cls := f.cls, partition := o.partition, profile := f.profile, stopSet := f.stopSet, maxLen := f.maxLen,
    graftValid := f.graftValid, graftId := if f.graftValid then f.graftId else 0,
    graftVer := if f.graftValid then (d.resolveGraft f.graftId f.graftVer).getD 0 else 0,
    deadline := f.deadline, dlValid := f.dlValid, seed := f.seed, outRing := f.outRing, cq := o.queue, tag := o.tag,
    admitTime := d.us, promptLen := f.promptLen, sqHead := o.sqHead, promptAddr := f.promptAddr, lastRecordAt := arrived,
    suspended := off }

/-- Step 10: one submission is admitted or refused (R180, R270). `off`: the bounds have been suspended since the last boundary (R191). -/
def Dev.takeSubmission (d : Dev) (o : Origin) (f : SubmitFields) (arrived : U48) (off : Bool) : Dev :=
  let p := o.partition
  match d.admitError p f, d.freeSlot p with
  | some st, _ => (d.complete o 0x01 st 0).count DC.reqRefuse
  | none, none => d
  | none, some slot =>
    let r := d.newEntry o f (d.req slot).gen arrived off
    let d := d.setReq slot r
    let d := if r.graftValid then d.bindGraft r.graftId r.graftVer else d
    let d := d.updJob p fun j => { j with changes := j.changes ++
      [.admitted slot r.gen r.cls r.maxLen r.promptLen (if r.graftValid then some (r.graftId, r.graftVer) else none)] }
    let d := d.hostWrite (.admission o.queue o.sqHead o.tag f.admitAddr (admissionWord (handleOf slot r.gen)))
    let late := d.boundsOn p r 0 && decide (1000 * d.usSince arrived > 1000 * d.stepTgt p + 3050)
    (if late then d.count DC.class0MissAdm else d).count DC.reqAdmit

/-! ### Grafts (R203 to R205, R356) -/

/-- Bytes of a member's part of a graft. -/
def graftBytes (bs : List GraftBlock) : Nat := (bs.map fun b => 16 + 8 * b.entries.length).sum

/-- Keys rise strictly. -/
def strictly (ks : List Nat) : Bool := (ks.zip (ks.drop 1)).all fun k => decide (k.1 < k.2)

/-- Rows × columns of a layer that this device holds, by the shard in its active bank; none: the layer is not resident (R203, R315). -/
def Dev.layerCells (d : Dev) (p layer : Nat) : Option Nat :=
  match (d.commit p).bank with
  | none => none
  | some b =>
    let i := d.bank p b
    if i.placement.any fun x => x.layer == layer then (i.layers.find? fun e => e.1 == layer).map Prod.snd else none

/-- The ingress check of a part: order, density, layer residency, finite scale (R203). -/
def Dev.graftPartOk (d : Dev) (p : Nat) (bs : List GraftBlock) : Bool :=
  strictly (bs.map fun b => b.layer.toNat) && bs.all fun b =>
    bf16Finite b.scale && strictly (b.entries.map fun e => 65536 * e.row.toNat + e.col.toNat)
      && (match d.layerCells p b.layer.toNat with | some n => decide (100 * b.entries.length ≤ n) | none => false)

/-- Bytes of graft area that a partition's versions take here, live and pending. -/
def Dev.graftUsed (d : Dev) (p : Nat) : Nat :=
  ((d.serve.grafts.filter fun e => inRange (d.graftBase p) (d.graftCount p) e.1).map fun e =>
    (e.2.live.map (·.bytes)).sum + (e.2.pending.map (·.bytes)).sum).sum

/-- The status of a member's part: 0 where it fits (R203, R356). -/
def Dev.partStatusOf (d : Dev) (p : Nat) (x : GraftPart) : Byte :=
  if !x.readable then St.hostReadError
  else if !d.graftPartOk p x.blocks then St.graftMalformed
  else if d.graftUsed p + graftBytes x.blocks > d.graftArea p then St.graftVersionBusy
  else 0

/-- The version after `v` modulo 2^16, skipping 0 (R204). -/
def nextVersion (v : U16) : U16 := if v + 1 = 0 then 1 else v + 1

/-- A GRAFT_LOAD is refused; RESULT tells a full area (R204, R356). -/
def Dev.refuseGraft (d : Dev) (o : Origin) (status : Byte) (area : Bool) : Dev :=
  let d := d.complete o 0x10 status (if area then 0xFFFFFFFF else 0)
  let d := if status = St.graftVersionBusy then d.count DC.graftBusy else d
  if area then d.count DC.graftAreaFull else d

/-- The version that the next load creates: the one after the version created or being created last (R204). -/
def Graft.next (g : Graft) : U16 := nextVersion (match g.pending.getLast? with | some x => laterVersion g.created x.ver | none => g.created)

/-- GRAFT_LOAD at the lead: the parts are checked here and at the other members; the version waits until every member holds its
part (R203, R204). The parts table names every member of the job once (log 58). -/
def Dev.graftLoad (d : Dev) (o : Origin) (id : BitVec 12) (parts : List GraftPart) : Dev :=
  let p := o.partition
  let g := d.graft id.toNat
  let ver := g.next
  let ms := d.members p
  if !(ms.all fun m => (parts.filter fun x => x.position == m).length == 1) then d.refuseGraft o St.fieldInvalid false
  else if g.live.any (fun v => v.ver == ver) || g.pending.any (fun x => x.ver == ver) then d.refuseGraft o St.graftVersionBusy false
  else match parts.find? (fun x => x.position == d.sys.position) with
    | none => d
    | some mine =>
      let st := d.partStatusOf p mine
      if st ≠ 0 then d.refuseGraft o st (decide (st = St.graftVersionBusy))
      else
        let x : GraftPending := { origin := o, ver := ver, load := g.loads, waiting := ms.filter (· != d.sys.position),
                                  bytes := graftBytes mine.blocks, blocks := mine.blocks }
        let d := d.updGraft id.toNat fun g => { g with pending := g.pending ++ [x], loads := g.loads + 1 }
        d.forAll (parts.filter fun x => x.position != d.sys.position && ms.contains x.position) fun d x =>
          d.send (.bulk (.graftPart id ver g.loads x))

/-- A member other than the lead takes its part and reports (R203, R204). -/
def Dev.takeGraftPart (d : Dev) (p : Nat) (id : BitVec 12) (ver : U16) (load : Nat) (x : GraftPart) : Dev :=
  let st := d.partStatusOf p x
  let o : Origin := { queue := 0, sqHead := 0, tag := 0, partition := p }
  let d := if st = 0 then
      d.updGraft id.toNat fun g => { g with pending := g.pending ++
        [{ origin := o, ver := ver, load := load, waiting := [], bytes := graftBytes x.blocks, blocks := x.blocks }] }
    else d
  d.send (.bulk (.graftReport id load d.sys.position st))

/-- The lead takes a member's report of a load: a failure ends the load and nothing has changed. The next load creates the same version, and its
number tells it from the one that failed (R203, R204, R356; log 167). -/
def Dev.takeGraftReport (d : Dev) (id : BitVec 12) (load pos : Nat) (status : Byte) : Dev :=
  match (d.graft id.toNat).pending.find? fun x => x.load == load with
  | none => d
  | some x =>
    if status = 0 then d.updGraft id.toNat fun g =>
      { g with pending := g.pending.map fun y => if y.load = load then { y with waiting := y.waiting.erase pos } else y }
    else
      let d := (d.dropLoad id.toNat load).updJob x.origin.partition fun j => { j with changes := j.changes ++ [.dropLoad id load] }
      d.refuseGraft x.origin status (decide (status = St.graftVersionBusy))

/-- Graft IDs of a partition that are known here. -/
def Dev.graftIds (d : Dev) (p : Nat) : List Nat :=
  (d.serve.grafts.filter fun e => inRange (d.graftBase p) (d.graftCount p) e.1).map Prod.fst

/-- Step 9: versions that every member holds become current, and their commands complete (R204). -/
def Dev.installGrafts (d : Dev) (p : Nat) : Dev :=
  d.forAll (d.graftIds p) fun d id =>
    d.forAll ((d.graft id).pending.filter fun x => x.waiting.isEmpty) fun d x =>
      let d := (d.updGraft id fun g => g.install x.ver x.load).count DC.graftLoaded
      let d := d.updJob p fun j => { j with changes := j.changes ++ [.installGraft (BitVec.ofNat 12 id) x.ver x.load] }
      d.complete x.origin 0x10 St.success (x.ver.setWidth 32)

/-! ### Step 2: commands (R193, R194, R205, R207, R438) -/

/-- SET_DEADLINE (R193). -/
def Dev.leadDeadline (d : Dev) (o : Origin) (h : U32) (deadline : U48) (dlValid now : Bool) : Dev :=
  match d.handleError o.partition h with
  | some st => d.complete o 0x02 st 0
  | none =>
    let r := d.req (slotOf h)
    if r.state = .draining ∨ r.state.terminal then d.complete o 0x02 St.reqEnded 0
    else
      let d := d.setReq (slotOf h) (if now then { r with deadline := d.us, dlValid := true } else { r with deadline := deadline, dlValid := dlValid })
      d.completeNamed o 0x02 h 0

/-- CANCEL (R194). -/
def Dev.leadCancel (d : Dev) (o : Origin) (h : U32) : Dev :=
  match d.handleError o.partition h with
  | some st => d.complete o 0x03 st 0
  | none =>
    let r := d.req (slotOf h)
    if r.state = .draining ∨ r.state.terminal then d.complete o 0x03 St.reqEnded 0
    else (d.setReq (slotOf h) { r with cancel := true }).completeNamed o 0x03 h 0

/-- GRAFT_RETIRE (R205). -/
def Dev.leadRetire (d : Dev) (o : Origin) (id : BitVec 12) : Dev :=
  let d := d.updGraft id.toNat fun g => { g with retired := true }
  let d := d.updJob o.partition fun j => { j with changes := j.changes ++ [.retireGraft id] }
  d.complete o 0x11 St.success 0

/-- Every member's inactive bank is valid with version `v`, or its active bank holds it (R326). -/
def Dev.commitReady (d : Dev) (p : Nat) (v : U32) : Bool :=
  decide (v ≠ 0) && (d.memberList p).all fun m => d.memberReady p m == v || d.memberVersion p m == v

/-- COMMIT_SHARD starts the drain. The spec does not say which version it commits where the lead's two banks are valid, or where a reissued command
finds the lead's already active: the model takes the version of the lead's valid inactive bank, else that of its active one (R207, R326;
DESIGN CHOICE, log 170). -/
def Dev.leadCommit (d : Dev) (o : Origin) (dr : U48) (drValid : Bool) : Dev :=
  let p := o.partition
  let j := d.job p
  let c := d.commit p
  let target := if c.ready ≠ 0 then c.ready else c.version
  if j.drain.isSome ∨ j.loading.isSome then d.complete o 0x41 St.replacementBusy 0
  else if !d.commitReady p target then d.complete o 0x41 St.bankInvalid 0
  else d.updJob p fun j => { j with drain := some { origin := o, dr := dr, drValid := drValid, target := target, ended := false } }

/-- WATCH_TENSOR by symbol is armed here and, with the next descriptor, on every member (R438). -/
def Dev.leadWatch (d : Dev) (o : Origin) (w : WatchSpec) : Dev :=
  let p := o.partition
  match d.freeWatch p with
  | none => d.armWatch o w
  | some i =>
    let d := d.armWatch o w
    match d.watch p i with
    | some x => d.updJob p fun j => { j with changes := j.changes ++ [.watch i o w x.fromStep] }
    | none => d

/-- A tuning step's rows, sequence length, graft and workspace are as R165 says. -/
def Dev.operatorError (d : Dev) (p : Nat) (sp : OperatorSpec) : Option Byte :=
  match sp with
  | .library .. => none
  | .tuning rows seqLens id ver block n _ =>
    if rows = 0 ∨ rows > 256 ∨ seqLens.isEmpty ∨ seqLens.any (fun k => decide (k > 8192)) ∨ n = 0 then some St.fieldInvalid
    else if !(d.graft id.toNat).live.any (fun v => v.ver == ver) then some St.graftInvalid
    else if (List.range 128).any fun i =>
        let w := d.region i
        rgValid w && !rgShared w && rgPart w == p && decide (rgBase w ≤ block) && decide (block + n ≤ rgBase w + rgSize w)
    then none else some St.fieldInvalid

/-- RUN_OPERATOR joins the operators that wait for a step of their own (R165, R260). -/
def Dev.leadOperator (d : Dev) (o : Origin) (sp : OperatorSpec) : Dev :=
  match d.operatorError o.partition sp with
  | some st => d.complete o 0x30 st 0
  | none => d.updJob o.partition fun j => { j with operators := j.operators ++ [{ origin := o, spec := sp, started := false, step := 0, grads := [], xfer := none }] }

/-- The commands of step 2, in fetch order. -/
def Dev.leadCommand (d : Dev) (c : FwdCmd) : Dev :=
  match c.body with
  | .setDeadline h t v now => d.leadDeadline c.origin h t v now
  | .cancel h => d.leadCancel c.origin h
  | .graftRetire id => d.leadRetire c.origin id
  | .commitShard dr v => d.leadCommit c.origin dr v
  | .watch w => d.leadWatch c.origin w
  | .runOperator sp => d.leadOperator c.origin sp
  | _ => d

/-! ### Step 3: deadlines (R192, R207, R355) -/

/-- A deadline counts as passed at the boundary (R192, R355). -/
def Dev.passed (d : Dev) (t : U48) : Bool := !before48 d.us t

/-- The end of a running request is decided: a cancelled one ends CANCELLED whatever ends it (R194). -/
def ReqEntry.draining (r : ReqEntry) (reason : BitVec 4) : ReqEntry :=
  { r with state := .draining, reason := if r.cancel then 6 else reason }

/-- The end of a request for want of pages is decided (R354, R358). -/
def Dev.preemptNow (d : Dev) (slot : Nat) : Dev :=
  let r := (d.req slot).draining 7
  let d := d.setReq slot r
  if r.reason = 7 then d.count DC.kvPreempt else d

/-- Step 3 for one request. A QUEUED one whose CANCEL is applied at the boundary at which its deadline has passed ends CANCELLED: R192 and R194 each
name an end, and the spec puts neither first (DESIGN CHOICE, log 171). -/
def Dev.expire (d : Dev) (p slot : Nat) : Dev :=
  let r := d.req slot
  let late := r.dlValid && d.passed r.deadline
  let preempted := match (d.job p).drain with | some x => x.drValid && d.passed x.dr | none => false
  if r.state = .queued then
    if late then (if r.cancel then d.endRequest slot .cancelled 6 true else d.endRequest slot .expired 5 true) else d
  else if r.state = .prefill ∨ r.state = .decode then
    if late then d.setReq slot (r.draining 5)
    else if preempted then d.setReq slot (r.draining 7)
    else if (d.job p).preempts.contains slot then d.preemptNow slot
    else d
  else d

/-! ### Step 4: completions (R162, R189, R199 to R202) -/

/-- The Foxglove result of a row. -/
def Job.result (j : Job) (h : U32) (pos : BitVec 20) : Option FoxResult := j.fox.find? fun f => f.handle == h && f.pos == pos

/-- A drawn token at step 4: discarded for a request whose end is decided; else checked, and recorded unless cancelled (R192,
R194, R200, R201). -/
def Dev.takeToken (d : Dev) (p slot : Nat) (f : FoxResult) : Dev :=
  let r := d.req slot
  if r.state = .draining then (if f.poison then d else d.count DC.foxDiscard)
  else if f.poison then
    let d := if r.cancel then d
      else (d.hostWrite (.record r.outRing true (recordWord false 9 false true (r.delivered.setWidth 16) 0 0))).count DC.foxRecords
    d.setReq slot (r.draining 9)
  else
    let x := d.stopCheck r f.pos.toNat f.token
    let r := { r with matchLens := x.2, recent := r.withToken f.token, lastToken := f.token, sampledAt := f.drawnAt, state := .decode }
    if r.cancel then (d.setReq slot (if x.1 = 0 then r else r.draining x.1)).count DC.foxDiscard
    else
      let d := d.hostWrite (.record r.outRing (decide (x.1 ≠ 0))
        (recordWord false x.1 true (decide (x.1 ≠ 0)) (r.delivered.setWidth 16) f.logp f.token))
      let d := (d.count DC.foxRecords).recordBounds p r
      let r := { r with delivered := r.delivered + 1, lastRecordAt := d.us, marks := 0, suspended := false }
      d.setReq slot (if x.1 = 0 then r else r.draining x.1)

/-- A row of the ending step completes: LEN passes its position, and its token, if it has one, is taken (R189, step 4). -/
def Dev.completeRow (d : Dev) (p : Nat) (x : StepRow) : Dev :=
  match d.rowSlot x with
  | none => d
  | some slot =>
    let r := d.req slot
    if r.state.live then
      let d := d.setReq slot { r with len := x.position + 1, inflight := r.inflight - 1 }
      match (d.job p).result x.handle (x.position + 1) with
      | some f => d.takeToken p slot f
      | none => d
    else d

/-- Results of a step's rows leave Foxglove, and what its row buffers hold of them. -/
def Dev.dropResults (d : Dev) (p : Nat) (rows : List StepRow) : Dev :=
  (d.updJob p fun j => { j with fox := j.fox.filter fun f => !rows.any (needsToken f.handle f.pos) }).dropLogits
    fun x => x.partition == p && rows.any (needsToken x.handle x.pos)

/-- Step 4 of a complete step. -/
def Dev.completeStep (d : Dev) (p : Nat) (x : StepDesc) : Dev :=
  let d := (d.forAll x.rows fun d r => d.completeRow p r).dropResults p x.rows
  d.updJob p fun j => { j with inFlight := j.inFlight.filter fun s => s.no != x.no }

/-- A marked step carried rows of these requests: one mark for each request (R191). -/
def Dev.markRows (d : Dev) (rows : List StepRow) : Dev :=
  d.forAll (rows.filterMap d.rowSlot).eraseDups fun d slot => d.updReq slot fun e => { e with marks := e.marks + 1 }

/-- Step 4 of a marked step: no row completes; those whose requests' end is decided leave it (R107, R189). -/
def Dev.markedStep (d : Dev) (p : Nat) (x : StepDesc) : Dev :=
  let d := d.dropResults p x.rows
  let d := d.forAll x.rows fun d r => match d.rowSlot r with
    | none => d
    | some slot => d.updReq slot fun e => { e with inflight := if e.state = .draining then e.inflight - 1 else e.inflight }
  d.markRows x.rows

/-! ### Step 5: endings (R178, R179) -/

/-- The terminal state of an end reason (R178, R201). -/
def stateOfReason (reason : BitVec 4) : ReqState :=
  if reason = 5 ∨ reason = 7 then .expired else if reason = 6 then .cancelled else if reason = 8 then .lost else .done

/-- Step 5 for one request: terminal once no row is in flight, and FREE once REQ_HOLD has passed. -/
def Dev.ending (d : Dev) (slot : Nat) : Dev :=
  let r := d.req slot
  if r.state = .draining ∧ r.inflight = 0 then
    d.endRequest slot (stateOfReason r.reason) r.reason (decide (r.reason = 5 ∨ r.reason = 6 ∨ r.reason = 7))
  else if r.state = .queued ∧ r.cancel then d.endRequest slot .cancelled 6 true
  else if r.state.terminal ∧ (r.holdOver ∨ d.usSince r.endedAt ≥ d.reqHold) then d.freeEntry slot
  else d

/-! ### Step 9: the end of a drain (R207, R329, R330) -/

/-- With no request running and no step in flight the drain ends; it completes when every member holds the version. -/
def Dev.advanceDrain (d : Dev) (p : Nat) : Dev :=
  let j := d.job p
  match j.drain with
  | none => d
  | some x =>
    if !x.ended then
      let running := (d.jobSlots p).any fun s => let st := (d.req s).state
        decide (st = .prefill) || decide (st = .decode) || decide (st = .draining)
      if running || !j.inFlight.isEmpty then d
      else d.updJob p fun j => { j with drain := some { x with ended := true }, changes := j.changes ++ [.drainEnd x.target] }
    else if d.jobServes p && (d.commit p).version == x.target then
      (d.updJob p fun j => { j with drain := none }).complete x.origin 0x41 St.success 0
    else d

/-- Members that hold the job's version valid and not active are ordered to commit it (R330). -/
def Dev.orderLagging (d : Dev) (p : Nat) : Dev :=
  if (d.job p).drain.isSome then d
  else d.forAll (d.memberList p) fun d m =>
    let v := d.memberReady p m
    let current := (d.memberList p).any fun k => k != m && d.memberVersion p k == v
    if v ≠ 0 ∧ d.memberVersion p m ≠ v ∧ current then
      if d.memberIndex p = some m then d.beginCommit p v
      else d.send (.stepCtl ((d.members p).getD m 0) p
        { no := (d.job p).nextStep, rows := [], changes := [.drainEnd v], replay := false, held := false })
    else d

/-! ### Step 11: composition (R182 to R188, R354) -/

/-- Insertion by an order, stable. -/
def insertBy {α : Type} (lt : α → α → Bool) (x : α) : List α → List α
  | [] => [x]
  | y :: ys => if lt x y then x :: y :: ys else y :: insertBy lt x ys

/-- Slots in an order; slots that it does not tell apart stay in ascending order. -/
def sortBy {α : Type} (lt : α → α → Bool) (xs : List α) : List α := xs.foldl (fun ys x => insertBy lt x ys) []

/-- The request in slot `a` was admitted before the one in slot `b`, modulo 2^48 (R12, R185, R188). -/
def Dev.admittedBefore (d : Dev) (a b : Nat) : Bool := before48 (d.req a).admitTime (d.req b).admitTime

/-- A step being filled: its rows, its class-0 rows and others, the graft versions it uses, and the staging slots that may be granted in it. -/
structure Filling where
  dev : Dev
  rows : List StepRow
  zero : Nat
  low : Nat
  grafts : List (BitVec 12 × U16)
  grants : List (Nat × Nat)
  deriving DecidableEq, Repr

/-- What the boundary brings from outside: prompt words by slot, and the other members' tags. -/
structure Outside where
  prompts : List (Nat × List (Option U32))
  tags : List MemberTag
  deriving DecidableEq, Repr

/-- Staging slots that may be granted now, in class order and then by ADMIT_TIME: class 0 takes any free slot, others only
while the free slots exceed what is still open to class 0 (R188). -/
def Dev.slotGrants (d : Dev) (p : Nat) : List (Nat × Nat) :=
  let slots := d.jobSlots p
  let holders := slots.filter fun s => (d.req s).slotValid
  let used := holders.map fun s => (d.req s).slot
  let free := ((List.range (d.stgCount p)).map (d.stgBase p + ·)).filter fun k => !used.contains k
  let zeroHeld := (holders.filter fun s => (d.req s).cls == 0).length
  let wants := slots.filter fun s => decide ((d.req s).state = .decode) && !(d.req s).slotValid
  let first := fun (a b : Nat) => decide ((d.req a).cls < (d.req b).cls) || ((d.req a).cls == (d.req b).cls && d.admittedBefore a b)
  let order := sortBy first wants
  (order.foldl (fun (g : List (Nat × Nat) × List Nat × Nat) s =>
    match g.2.1 with
    | [] => g
    | k :: rest =>
      if (d.req s).cls = 0 then (g.1 ++ [(s, k)], rest, g.2.2 + 1)
      else if g.2.1.length > d.q0Req p - g.2.2 then (g.1 ++ [(s, k)], rest, g.2.2)
      else g) ([], free, zeroHeld)).1

/-- Pages that the next decode row of a request takes on a member with `tp` positions a page: none unless it fills a page, then
the next home page, which may be the one reserved beyond the prompt, and a list page where the list is full (R162, R354). -/
def rowPages (tp : Nat) (r : ReqEntry) : Nat :=
  let n := r.len.toNat + 1
  if tp = 0 ∨ n % tp ≠ 0 then 0
  else
    let spare := decide (r.promptLen.toNat % tp ≠ 0) && n == tp * ceilDiv r.promptLen.toNat tp
    (if spare then 0 else 1) + (if n / tp % 4095 = 0 then 1 else 0)

/-- Rows that a class may still take (R182, R190). -/
def Filling.room (f : Filling) (p : Nat) (cls : BitVec 2) : Nat :=
  let all := 256 - f.rows.length
  if cls = 0 then all else min all (256 - f.dev.q0Rows p - f.low)

/-- The request's graft fits among the step's versions (R186). -/
def Filling.graftFits (f : Filling) (p : Nat) (r : ReqEntry) : Bool :=
  !r.graftValid || f.grafts.contains (r.graftId, r.graftVer) || decide (f.grafts.length < f.dev.graftsMax p)

/-- Adds rows of a request to the step. -/
def Filling.add (f : Filling) (r : ReqEntry) (rows : List StepRow) : Filling :=
  { f with rows := f.rows ++ rows
           zero := if r.cls = 0 then f.zero + rows.length else f.zero
           low := if r.cls = 0 then f.low else f.low + rows.length
           grafts := if r.graftValid && !f.grafts.contains (r.graftId, r.graftVer) then f.grafts ++ [(r.graftId, r.graftVer)] else f.grafts }

/-- Rows deferred by STEP_TGT or GRAFTS_MAX are counted (R209). -/
def Filling.defer (f : Filling) (n : Nat) : Filling := if n = 0 then f else { f with dev := f.dev.count DC.stepCapDefer n }

/-- A request waits for pages: its bounds do not hold until its next record (R191). -/
def Dev.wantsPages (d : Dev) (slot : Nat) : Dev := d.updReq slot fun r => { r with suspended := true }

/-- A change that travels with the step. -/
def Dev.addChange (d : Dev) (p : Nat) (c : ReqChange) : Dev := d.updJob p fun j => { j with changes := j.changes ++ [c] }

/-- A decode row of request slot `s`, where it may be composed (R182, R185, R186, R188, R354). -/
def Filling.decodeRow (f : Filling) (p s : Nat) : Filling :=
  let r := f.dev.req s
  let grant := f.grants.find? fun g => g.1 == s
  if f.room p r.cls = 0 ∨ (!r.slotValid ∧ grant.isNone) then f
  else
    let row : StepRow := { handle := handleOf s r.gen, decode := true, position := r.len, token := r.lastToken, last := false, poison := false }
    let pages := fun tp => rowPages tp r
    if !f.dev.pagesFor p pages then { f with dev := (f.dev.wantsPages s).count DC.kvPause }
    else if !f.graftFits p r || !f.dev.stepFits p (f.rows ++ [row]) then f.defer 1
    else
      let d := f.dev.updReq s fun r => { r with inflight := r.inflight + 1 }
      let d := match r.slotValid, grant with
        | false, some g => (d.updReq s fun r => { r with slot := g.2, slotValid := true }).addChange p (.grant s g.2)
        | _, _ => d
      { f with dev := (d.promise p false pages).count DC.stepRowsDecode }.add r [row]

/-- The prompt row at a position (R263). -/
def Dev.promptRow (d : Dev) (p : Nat) (out : Outside) (s pos : Nat) : StepRow :=
  let r := d.req s
  let words := ((out.prompts.find? fun x => x.1 == s).map Prod.snd).getD []
  let tok : Option (BitVec 18) := (words.getD pos none).map fun w => w.extractLsb' 0 18
  let bad : Bool := match tok with
    | some t => decide (t.toNat ≥ (d.job p).params.vocab)
    | none => true
  { handle := handleOf s r.gen, decode := false, position := BitVec.ofNat 20 pos, token := if bad then 0 else tok.getD 0,
    last := pos + 1 == r.promptLen.toNat, poison := bad }

/-- The most rows up to `n` that no prediction refuses (R186). -/
def Filling.most (f : Filling) (p : Nat) (rows : List StepRow) : Nat → Nat
  | 0 => 0
  | n + 1 => if f.dev.stepFits p (f.rows ++ rows.take (n + 1)) then n + 1 else f.most p rows n

/-- A chunk of a prompt: the whole prompt in the reserved rows, or what fits of a chunk; its token words are read through the gateway, with the
requester ID of the request's queue (R185 to R187, R244, R263). -/
def Filling.prefill (f : Filling) (p : Nat) (out : Outside) (whole : Bool) (s : Nat) : Filling :=
  let r := f.dev.req s
  let left := r.promptLen.toNat - r.prefillPos.toNat
  let room := if whole then min (f.room p 0) (f.dev.q0Rows p - f.zero) else f.room p r.cls
  let want := if whole then left else min (min left (f.dev.chunk p)) room
  if want = 0 ∨ want > room then f
  else
    let fresh := decide (r.state = .queued)
    let pages := fun tp => promptPages tp r.promptLen.toNat
    if fresh && !f.dev.pagesFor p pages then { f with dev := (f.dev.wantsPages s).count DC.stepPageDefer }
    else if !f.graftFits p r then f.defer want
    else
      let rows := (List.range want).map fun i => f.dev.promptRow p out s (r.prefillPos.toNat + i)
      let n := f.most p rows want
      if n = 0 ∨ (whole ∧ n < want) then f.defer want
      else
        let d := f.dev.setReq s { r with state := .prefill, prefillPos := r.prefillPos + BitVec.ofNat 20 n, inflight := r.inflight + n }
        let d := if fresh then
            ((d.promise p true pages).reservePages s (ceilDiv r.promptLen.toNat (d.job p).params.pagePositions)).addChange p (.pages s)
          else d
        let d := d.send (.promptRead r.cq (r.promptAddr + BitVec.ofNat 64 (4 * r.prefillPos.toNat)) (4 * n))
        let f := { f with dev := d.count DC.stepRowsPrefill n }
        (f.add r (rows.take n)).defer (want - n)

/-- The slots with a decode row to compose in a class, by the time of their previous token. -/
def Dev.decoders (d : Dev) (p : Nat) (cls : BitVec 2) : List Nat :=
  sortBy (fun a b => decide ((d.req a).sampledAt < (d.req b).sampledAt)) ((d.jobSlots p).filter fun s =>
    let r := d.req s
    r.cls == cls && decide (r.state = .decode) && decide (r.inflight = 0))

/-- The slots with prompt rows left in a class, by ADMIT_TIME. None starts during a drain (R207), and none whose deadline has passed
already (R180). -/
def Dev.prompts (d : Dev) (p : Nat) (cls : BitVec 2) : List Nat :=
  sortBy d.admittedBefore ((d.jobSlots p).filter fun s =>
    let r := d.req s
    let starts := decide (r.state = .queued) && (d.job p).drain.isNone && !(r.dlValid && d.passed r.deadline)
    r.cls == cls && (decide (r.state = .prefill) || starts)
      && decide (r.prefillPos.toNat < r.promptLen.toNat))

/-- The order of R185. -/
def Dev.fillStep (d : Dev) (p : Nat) (out : Outside) : Filling :=
  let f : Filling := { dev := d, rows := [], zero := 0, low := 0, grafts := [], grants := d.slotGrants p }
  let dec := fun (f : Filling) (c : BitVec 2) => (f.dev.decoders p c).foldl (fun f s => f.decodeRow p s) f
  let pre := fun (f : Filling) (c : BitVec 2) (sel : Nat → Bool) (whole : Bool) =>
    ((f.dev.prompts p c).filter sel).foldl (fun f s => f.prefill p out whole s) f
  let short := fun (s : Nat) => decide ((d.req s).promptLen.toNat ≤ d.q0Prompt p)
  let f := pre (pre (dec f 0) 0 short true) 0 (fun s => !short s) false
  let f := pre (dec f 1) 1 (fun _ => true) false
  let f := pre (dec f 2) 2 (fun _ => true) false
  pre (dec f 3) 3 (fun _ => true) false

/-- Every slot-holding request is paused for pages and no prefill is in flight: the end of the newest is decided (R354). -/
def Dev.preemptPaused (d : Dev) (p : Nat) : Dev :=
  let slots := d.jobSlots p
  let holders := slots.filter fun s => (d.req s).slotValid && (d.req s).state.live
  let paused := fun (s : Nat) => let r := d.req s
    decide (r.state = .decode) && decide (r.inflight = 0) && !d.pagesFor p fun tp => rowPages tp r
  let prefilling := slots.any fun s => decide ((d.req s).state = .prefill) && decide ((d.req s).inflight > 0)
  if holders.isEmpty ∨ prefilling ∨ !holders.all paused then d
  else match (sortBy d.admittedBefore holders).getLast? with
    | some s => d.preemptNow s
    | none => d

/-- The descriptor goes to this member's own queue; it reaches the others stage by stage (R183). -/
def Dev.queueDesc (d : Dev) (p : Nat) (x : StepDesc) : Dev :=
  d.updJob p fun j => { j with descs := j.descs ++ [{ x with changes := x.changes ++ j.changes }], changes := [] }

/-- The lead may put one more step in flight (R184, R305, R309). -/
def Dev.mayStep (d : Dev) (p : Nat) : Bool :=
  let j := d.job p
  d.jobActive p && !(d.jobSetup p).stopped && j.replay.isNone && decide (j.inFlight.length < d.stepsMax p)
    && !d.sys.holding.contains p && !j.operators.any (·.started)

/-- The lead may compose a step of rows now (R184, R207, R305, R309, R330). -/
def Dev.mayCompose (d : Dev) (p : Nat) : Bool := d.mayStep p && d.jobServes p

/-- Composes the next step; without rows, what the members are owed travels in a descriptor of its own. -/
def Dev.compose (d : Dev) (p : Nat) (out : Outside) : Dev :=
  let f := if d.mayCompose p then
      let d := d.preemptPaused p
      d.fillStep p out
    else { dev := d, rows := [], zero := 0, low := 0, grafts := [], grants := [] }
  let d := f.dev
  let no := (d.job p).nextStep
  let x : StepDesc := { no := no, rows := f.rows, changes := [], replay := false, held := false }
  if f.rows.isEmpty then (if (d.job p).changes.isEmpty then d else d.queueDesc p x)
  else
    let d := d.updJob p fun j => { j with nextStep := no + 1, inFlight := j.inFlight ++ [x] }
    (d.queueDesc p x).count DC.stepComposed

/-- The replay of a marked step, without the rows whose requests ended; an operator's step is carried again whole (R107, R165). -/
def Dev.replayStep (d : Dev) (p : Nat) (x : StepDesc) : Dev :=
  let rows := x.rows.filter fun r => match d.rowSlot r with
    | some s => (d.req s).state.live && decide ((d.req s).state ≠ .draining)
    | none => false
  let d := d.updJob p fun j => { j with replay := none }
  if rows.isEmpty && x.op.isNone then
    d.updJob p fun j => { j with inFlight := j.inFlight.filter fun s => s.no != x.no }
  else
    let y : StepDesc := { x with rows := rows, changes := (d.job p).changes }
    d.updJob p fun j =>
      { j with descs := y :: j.descs, changes := [],
               inFlight := j.inFlight.map fun s => if s.no = x.no then { s with rows := rows } else s }

/-! ### Operators (R165, R166, R260) -/

/-- The gradients of a tuning step as the host gets them: the graft's layers in ascending order (R166, R203). -/
def Operator.gradients (o : Operator) : List Byte := (sortBy (fun (x y : Nat × List Byte) => decide (x.1 ≤ y.1)) o.grads).flatMap Prod.snd

/-- The operator that ran in the ending step completes with its status word: that of its first transfer with another status than SUCCESS, else a
free value (R260, R302; log 13). -/
def Dev.endOperator (d : Dev) (p : Nat) : Dev :=
  match (d.job p).operators with
  | [] => d
  | x :: rest =>
    if x.started then
      let d := d.updJob p fun j => { j with operators := rest }
      let d := match x.spec with
        | .library .. => d
        | .tuning _ _ _ _ _ _ buf => (d.hostWrite (.buffer x.origin.queue buf x.gradients)).count DC.tuneSteps
      d.draw.complete x.origin 0x30 St.success (match x.xfer with | some st => st.setWidth 32 | none => Config.freeBits d.fresh 32)
    else d

/-- An operator may begin: one that an address names also while the job does not serve, for in start-up, test and recovery only addresses exist
(R259, R330; log 61). -/
def Dev.mayRun (d : Dev) (p : Nat) (sp : OperatorSpec) : Bool :=
  match sp with
  | .library _ (some _) => d.mayStep p
  | _ => d.mayCompose p

/-- The oldest operator begins when no step is in flight: its step is composed, and carries no serving row (R165, R260). -/
def Dev.startOperator (d : Dev) (p : Nat) : Dev :=
  let j := d.job p
  match j.operators with
  | x :: rest =>
    if j.inFlight.isEmpty && d.mayRun p x.spec then
      let y : StepDesc := { no := j.nextStep, rows := [], changes := [], replay := false, held := false, op := some x.spec }
      let d := d.setJob p { j with operators := { x with started := true, step := j.nextStep } :: rest, nextStep := j.nextStep + 1, inFlight := [y] }
      (d.queueDesc p y).count DC.stepComposed
    else d
  | [] => d

/-! ### QUERY of kind 1 and the mirror (R176, R260) -/

/-- QUERY of a request entry, at the end of the boundary (R260). -/
def Dev.queryEntry (d : Dev) (o : Origin) (h : U32) (buf : U64) (len : Nat) : Dev :=
  match d.handleError o.partition h with
  | some st => d.complete o 0x70 st 0
  | none =>
    if len < 64 then d.complete o 0x70 St.fieldInvalid 0
    else
      let d := d.hostWrite (.buffer o.queue buf (bytesOf (d.req (slotOf h)).word 64))
      d.completeNamed o 0x70 h 64

/-- The mirrors of the entries that the boundary changed (R176). -/
def Dev.mirrorChanges (d old : Dev) (p : Nat) : Dev :=
  let slots := d.jobSlots p ++ (old.jobSlots p).filter fun s => decide ((d.req s).state = .free)
  d.forAll slots fun d s =>
    if (d.req s).mirror 0 = (old.req s).mirror 0 then d
    else d.mirrorOut p s

/-- REQ_HOLD_EXPIRY: REQ_HOLD has passed since the completion of a terminal entry was written; the next lead boundary frees it, with GEN
incremented (R175, R178, R179). -/
def execReqHoldExpiry (slot : Nat) (s : State) : Out := s.on fun d =>
  let r := d.req slot
  if r.state.terminal ∧ d.isLead r.partition ∧ d.usSince r.endedAt ≥ d.reqHold then d.setReq slot { r with holdOver := true } else d

end Sys2Proof.Machine
end

