-- ==== Sys2Proof/Machine/Serve.lean ====
section
/-! DEFINITION. The host commands as they reach the unit that applies them, QUERY, the windows, and the lead's boundary (R171, R178, R184, R189,
R258 to R265, R299 to R301). -/

namespace Sys2Proof.Machine

/-! ### The capability list (R452 to R456) -/

/-- ID and body words of an entry: ZM9 at stepping B0. -/
def capEntries : List (Nat × List Nat) :=
  let ser := Config.serial.toNat
  [(0x1, [9, 0xB0, if Config.isE then 2 else 1, ser % 2 ^ 32, ser / 2 ^ 32 % 2 ^ 32, ser / 2 ^ 64 % 2 ^ 32, ser / 2 ^ 96]),
   (0x2, [520, 512, 8, 520, 512, 4, 4, 17, 8, 4, 2000, 250, 192]),
   (0x3, [2, 512, 64, 62, 31744, 27648, 36000, 5120, 4096]),
   (0x4, [1, 160]), (0x5, [256, 8192]), (0x6, [4096, 16, 4096, 100, 16]),
   (0x7, [16, 2, 96, 96, 4608, 2304, 385, 4096, 2048, 128]),
   (0x8, [32, 64, 16, 512, 4096]),
   (0x9, [262144, 256, 1024, 8, 4, 16, 256, 256]),
   (0xA, [512, 512, 8, 8, 256, 64, 65536]),
   (0xC, [16, 16, 4096, 64, 4, 1600, 64]),
   (0xD, [16, 4096, 1, 1, 1, 1, 2, 3, 4]),
   (0xE, [96, 32, 3, 16, 128, 2, 2048]),
   (0xF, [200000, 3072, 16, 23, 256, 64, 14, 256]),
   (0x10, [262144, 262144, 16384, 4096, 2048, 64, 16, 18, 20]),
   (0x11, [64, 16, 4096, 65536, 16, 16]),
   (0x12, [6, 8, 112, 4, 64, 8, 7]),
   (0x13, [64, 1024, 20, 12])]

/-- Bytes of an entry: header and body, an odd body padded (R453). -/
def capLength (words : List Nat) : Nat := 8 + 8 * ((words.length + 1) / 2)

/-- The entry header (R452). -/
def capHeader (next length id : Nat) : U64 :=
  BitVec.ofNat 16 next ++ BitVec.ofNat 16 length ++ (0 : BitVec 8) ++ (1 : BitVec 8) ++ BitVec.ofNat 16 id

/-- The bytes of the list from an entry at offset `off` on. -/
def capBytesFrom (off : Nat) : List (Nat × List Nat) → List Byte
  | [] => []
  | (id, ws) :: rest =>
    let len := capLength ws
    let next := if rest.isEmpty then 0 else off + len
    bytesOf (capHeader next len id) 8 ++ padTo (len - 8) (ws.flatMap fun w => bytesOf (BitVec.ofNat 32 w) 4)
      ++ capBytesFrom (off + len) rest

/-- The capability list from offset 0 to the end of its last entry. -/
def capBytes : List Byte := capBytesFrom 0 capEntries

/-! ### QUERY (R260) -/

/-- Writes a query's answer into the host buffer, where it fits. -/
def Dev.answerQuery (d : Dev) (o : Origin) (buf : U64) (len : Nat) (bs : List Byte) : Dev :=
  if len < bs.length then d.complete o 0x70 St.fieldInvalid 0
  else (d.hostWrite (.buffer o.queue buf bs)).complete o 0x70 St.success (BitVec.ofNat 32 bs.length)

/-- Kind 0x02: the live versions of a graft ID. -/
def Dev.graftVersions (d : Dev) (id : BitVec 12) : List Byte :=
  (d.graft id.toNat).live.flatMap fun v => bytesOf ((0 : BitVec 16) ++ BitVec.ofNat 32 v.refs ++ v.ver) 8

/-- Kind 0x03: the members of the job. -/
def Dev.jobMembers (d : Dev) (p : Nat) : List Byte :=
  (d.members p).flatMap fun m =>
    bytesOf (BitVec.ofBool (d.present m) ++ (0 : BitVec 1) ++ BitVec.ofNat 6 m ++ (0 : BitVec 1) ++ d.nodeAt m) 2

/-- QUERY of another kind than 0x01 at the package that holds the data. -/
def Dev.query (d : Dev) (c : FwdCmd) (kind : Byte) (id : BitVec 12) (buf : U64) (len : Nat) : Dev :=
  let p := c.origin.partition
  if kind = 0x02 then (if d.isLead p then d.answerQuery c.origin buf len (d.graftVersions id) else d)
  else if kind = 0x03 then d.answerQuery c.origin buf len (d.jobMembers p)
  else if kind = 0x04 then d.answerQuery c.origin buf len capBytes
  else d.complete c.origin 0x70 St.fieldInvalid 0

/-! ### Windows at the target (R299, R301) -/

/-- The blocks lie in one workspace region of the partition (R229, R299). -/
def Dev.workspaceHolds (d : Dev) (p base n : Nat) : Bool :=
  (List.range 128).any fun i =>
    let w := d.region i
    rgValid w && !rgShared w && rgKind w == 9 && rgPart w == p
      && decide (rgBase w ≤ base) && decide (base + n ≤ rgBase w + rgSize w)

/-- WINDOW_OPEN: the window opens with its present epoch, which is the RESULT (R299, R301). Blocks that no workspace of the
partition holds complete it with FIELD_INVALID (log 60). -/
def Dev.openWindow (d : Dev) (o : Origin) (id : BitVec 12) (base : BitVec 23) (blocks : Nat) : Dev :=
  let p := o.partition
  let w := d.window id.toNat
  if blocks = 0 ∨ blocks > 65536 ∨ !d.workspaceHolds p base.toNat blocks then
    d.complete o 0x20 St.fieldInvalid 0
  else if w.isOpen then d.complete o 0x20 St.windowBusy 0
  else
    (d.setWindow id.toNat { isOpen := true, partition := p, base := base, blocks := blocks, epoch := w.epoch }).complete
      o 0x20 St.success (w.epoch.setWidth 32)

/-- WINDOW_CLOSE: the window is closed and its epoch rises by 1 (R301). A closed window or one of another partition answers
WINDOW_CLOSED or NOT_PERMITTED (log 60). -/
def Dev.shutWindow (d : Dev) (o : Origin) (id : BitVec 12) : Dev :=
  let w := d.window id.toNat
  if !w.isOpen then d.complete o 0x21 St.windowClosed 0
  else if w.partition ≠ o.partition then d.complete o 0x21 St.notPermitted 0
  else (d.closeWindow id.toNat).complete o 0x21 St.success ((w.epoch + 1).setWidth 32)

/-! ### Watches and operators by address (R259, R438) -/

/-- WATCH_TENSOR by address at the position it names: armed, and fired at once when no step is in progress. -/
def Dev.watchAddress (d : Dev) (o : Origin) (w : WatchSpec) : Dev :=
  match d.freeWatch o.partition with
  | none => d.armWatch o w
  | some i => if d.busy then d.armWatch o w else (d.armWatch o w).fireAddress o.partition i

/-- CALIBRATE on one member: the READY tiles of the clusters of the partition (R134, R260). -/
def Dev.calibrateHere (d : Dev) (o : Origin) : Dev :=
  let p := o.partition
  let ks := (d.partTiles p).filter fun k => decide ((d.tile k).state = .ready)
  let d := (d.calibrateTiles ks 5).count DC.calTrigHost
  let c : CalCmd := { origin := o, tiles := ks.filter fun k => (d.tile k).calibrating, count := ks.length,
                      waiting := if d.isLead p then (d.members p).filter (· != d.sys.position) else [] }
  (d.updJob p fun j => { j with calibrates := j.calibrates ++ [c] }).finishCalibrates p

/-! ### Delivery (R264) -/

/-- The commands that wait for the lead's next boundary: step 2, step 10, or its end (R180, R189, R193, R194, R205, R207, R260, R438). -/
def FwdBody.waits : FwdBody → Bool
  | .submit _ | .setDeadline .. | .cancel _ | .graftRetire _ | .commitShard .. | .runOperator _ => true
  | .watch w => !w.byAddress
  | .query kind .. => kind == 0x01
  | _ => false

/-- A command that takes effect where it arrives: at the lead, a member or the target; the gateway's report that a request is lost takes effect at
once (R178, R204, R260, R264). -/
def Dev.atOnce (d : Dev) (c : FwdCmd) : Dev :=
  let o := c.origin
  match c.body with
  | .graftLoad id parts => if d.isLead o.partition then d.graftLoad o id parts else d
  | .windowOpen id base n => d.openWindow o id base n
  | .windowClose id => d.shutWindow o id
  | .loadShard table => if d.isMember o.partition then d.loadShard o table else d
  | .watch w => if w.addr.position = d.sys.position then d.watchAddress o w else d
  | .calibrate => if d.isMember o.partition then d.calibrateHere o else d
  | .query kind _ id buf len => d.query c kind id buf len
  | .lost h =>
    let r := d.req (slotOf h)
    if r.gen = genOf h ∧ d.isLead r.partition then d.loseRequest (slotOf h) else d
  | _ => d

/-- Another command of the queue waits here for the lead's boundary: the later one waits behind it, so that the commands of a queue are applied in
fetch order (R264). -/
def Dev.behindWaiting (d : Dev) (c : FwdCmd) : Bool :=
  match c.body with
  | .lost _ => false
  | _ => (d.job c.origin.partition).cmds.any fun x => x.1.origin.queue == c.origin.queue

/-- A command reaches this package. A package that is not in service discards it (R264, R311). -/
def Dev.deliver (d : Dev) (c : FwdCmd) : Dev :=
  let p := c.origin.partition
  if !d.serving then d
  else if FwdBody.waits c.body || (d.isLead p && d.behindWaiting c) then
    (if d.isLead p then d.updJob p fun j => { j with cmds := j.cmds ++ [(c, d.us)] } else d)
  else d.atOnce c

/-! ### The host commands, each as it reaches the package that applies it (R260) -/

/-- SUBMIT_REQUEST waits for step 10 of the lead's next boundary (R180). -/
def execSubmitRequest (o : Origin) (f : SubmitFields) (s : State) : Out := s.on fun d => d.deliver ⟨o, .submit f⟩

/-- SET_DEADLINE waits for step 2 of the lead's next boundary (R193). -/
def execSetDeadline (o : Origin) (handle : U32) (deadline : U48) (dlValid now : Bool) (s : State) : Out :=
  s.on fun d => d.deliver ⟨o, .setDeadline handle deadline dlValid now⟩

/-- CANCEL waits for step 2 of the lead's next boundary (R194). -/
def execCancel (o : Origin) (handle : U32) (s : State) : Out := s.on fun d => d.deliver ⟨o, .cancel handle⟩

/-- GRAFT_LOAD: the lead checks the parts and sends them on (R203, R204). -/
def execGraftLoad (o : Origin) (id : BitVec 12) (parts : List GraftPart) (s : State) : Out :=
  s.on fun d => d.deliver ⟨o, .graftLoad id parts⟩

/-- GRAFT_RETIRE waits for step 2 of the lead's next boundary (R205). -/
def execGraftRetire (o : Origin) (id : BitVec 12) (s : State) : Out := s.on fun d => d.deliver ⟨o, .graftRetire id⟩

/-- WINDOW_OPEN at the target (R299). -/
def execWindowOpen (o : Origin) (id : BitVec 12) (base : BitVec 23) (blocks : Nat) (s : State) : Out :=
  s.on fun d => d.deliver ⟨o, .windowOpen id base blocks⟩

/-- WINDOW_CLOSE at the target (R301). -/
def execWindowClose (o : Origin) (id : BitVec 12) (s : State) : Out := s.on fun d => d.deliver ⟨o, .windowClose id⟩

/-- RUN_OPERATOR waits for a step of its own (R165, R260). -/
def execRunOperator (o : Origin) (spec : OperatorSpec) (s : State) : Out := s.on fun d => d.deliver ⟨o, .runOperator spec⟩

/-- LOAD_SHARD at a member (R325). -/
def execLoadShard (o : Origin) (table : List ShardEntry) (s : State) : Out := s.on fun d => d.deliver ⟨o, .loadShard table⟩

/-- COMMIT_SHARD waits for step 2 of the lead's next boundary (R207). -/
def execCommitShard (o : Origin) (dr : U48) (drValid : Bool) (s : State) : Out :=
  s.on fun d => d.deliver ⟨o, .commitShard dr drValid⟩

/-- WATCH_TENSOR: by symbol at the lead's next boundary, by address at the position named (R438). -/
def execWatchTensor (o : Origin) (w : WatchSpec) (s : State) : Out := s.on fun d => d.deliver ⟨o, .watch w⟩

/-- CALIBRATE at a member (R134). -/
def execCalibrate (o : Origin) (s : State) : Out := s.on fun d => d.deliver ⟨o, .calibrate⟩

/-- QUERY at the package that holds the data (R260). -/
def execQuery (o : Origin) (kind : Byte) (handle : U32) (graftId : BitVec 12) (bufAddr : U64) (bufLen : Nat) (s : State) : Out :=
  s.on fun d => d.deliver ⟨o, .query kind handle graftId bufAddr bufLen⟩

/-! ### LEAD_BOUNDARY -/

/-- The rows of a step have come back from the last member, in the I/O ring (R171, R218); a job of one member keeps them. -/
def Dev.returned (d : Dev) (p : Nat) (x : StepDesc) : Bool :=
  decide ((d.members p).length ≤ 1) || d.link.ingress.any fun e => e.partition == p && e.step == x.no

/-- The step whose head stage ends now: the oldest in flight, when its stage here is over, its rows have come back and those that are
sampled have their tokens; or when it is marked here (R184, R189). -/
def Dev.endingStep (d : Dev) (p : Nat) : Option StepDesc :=
  let j := d.job p
  match j.inFlight with
  | [] => none
  | x :: _ =>
    let marked := match j.step with | some st => st.marked && st.desc.no == x.no | none => false
    let running := match j.step with | some st => st.desc.no == x.no && !st.started | none => false
    let waiting := j.descs.any fun y => y.no == x.no && (!y.rows.isEmpty || y.op.isSome)
    let replayed := match j.replay with | some y => y.1.no == x.no | none => false
    let sampled := x.rows.all fun r => !(r.decode || r.last) || (j.result r.handle (r.position + 1)).isSome
      || (match d.rowSlot r with | some s => !(d.req s).state.live | none => true)
    if running || waiting then none
    else if replayed || marked || (sampled && d.returned p x) then some x else none

/-- What the boundary tags of another member tell: requests lost there, requests that it could not move a page of, its pages, and the rows
of the steps that it marked (R178, R187, R191, R234, R354). -/
def Dev.readTag (d : Dev) (p : Nat) (t : MemberTag) : Dev :=
  let mine := fun (h : U32) => inRange (d.reqBase p) (d.reqCount p) (slotOf h) && (d.req (slotOf h)).gen == genOf h
  let d := d.forAll (t.lost.filter mine) fun d h => d.loseRequest (slotOf h)
  let d := d.forAll (t.preempted.filter mine) fun d h => d.preempt (slotOf h)
  let pages : TagPages := { free := t.freePages, positions := t.positions, begun := t.begun, flushed := t.flushed }
  let d := d.updJob p fun j => { j.keptOn t.member t.begun t.flushed with pagesOf := SMap.put none j.pagesOf t.member (some pages) }
  d.forAll ((d.job p).inFlight.filter fun x => t.marked.contains x.no) fun d x => d.markRows x.rows

/-- Step 4: the ending step is complete unless it is the one that is replayed; the marked step completes no row (R107, R189). -/
def Dev.stepOutcome (d : Dev) (p : Nat) (ending : Option StepDesc) : Dev :=
  let replayed := ((d.job p).replay).map Prod.fst
  let d := match ending with
    | some x =>
      if (match replayed with | some y => y.no == x.no | none => false) then d
      else
        let d := d.completeStep p x
        let d := if x.op.isSome then d.endOperator p else d
        { d with link := { d.link with ingress := d.link.ingress.filter fun e => !(e.partition == p && e.step == x.no) } }
    | none => d
  match replayed with | some y => d.markedStep p y | none => d

/-- The commands that came since the last boundary, each with whether a submission of the same queue came before it. -/
def behindSubmit : List (FwdCmd × U48) → List Nat → List (FwdCmd × Bool)
  | [], _ => []
  | c :: cs, qs =>
    let q := c.1.origin.queue
    (c.1, qs.contains q) :: behindSubmit cs (match c.1.body with | .submit _ => q :: qs | _ => qs)

/-- Step 2 for one command: a command of step 2, or one that waited behind such a command (R189, R264). -/
def Dev.stepTwo (d : Dev) (c : FwdCmd) : Dev := if FwdBody.waits c.body then d.leadCommand c else d.atOnce c

/-- Steps 1 to 5 and 9 to 11 of the boundary order, for the job (R189). -/
def Dev.leadBoundary (d : Dev) (p : Nat) (out : Outside) (ending : Option StepDesc) : Dev :=
  let old := d
  let d := d.applyRegs fun o => match regAtLead o with | some q => q.isNone || q == some p | none => false
  let cmds := (d.job p).cmds
  let order := behindSubmit cmds []
  let no := match ending with | some x => x.no | none => (d.job p).boundaryNo
  let d := d.updJob p fun j => { j with cmds := [], boundaryNo := no }
  let off := d.boundsOff p
  let d := d.forAll out.tags fun d t => d.readTag p t
  let d := d.readNotices p
  -- step 1
  let d := match ending, (d.job p).step with
    | some x, some st => if st.desc.no = x.no then d.endStage p else d
    | _, _ => d
  -- steps 2 to 5
  let d := d.forAll (order.filter fun c => FwdBody.waits c.1.body || !c.2) fun d c => d.stepTwo c.1
  let d := (d.forAll (d.jobSlots p) fun d s => d.expire p s).updJob p fun j => { j with preempts := [] }
  let d := d.stepOutcome p ending
  let d := d.forAll (d.jobSlots p) Dev.ending
  let d := d.reclaimGrafts p (d.graftIds p)
  -- steps 9 and 10
  let d := ((d.installGrafts p).advanceDrain p).orderLagging p
  let d := d.reclaimGrafts p (d.graftIds p)
  let d := d.forAll cmds fun d c => match c.1.body with | .submit f => d.takeSubmission c.1.origin f c.2 off | _ => d
  let d := d.forAll (order.filter fun c => !FwdBody.waits c.1.body && c.2) fun d c => d.atOnce c.1
  -- step 11
  let d := match (d.job p).replay with
    | some y => d.replayStep p y.1
    | none => d.startOperator p
  let replaying := (d.job p).descs.any (·.replay)
  let d := if replaying then d else d.compose p out
  let d := d.mirrorChanges old p
  d.forAll cmds fun d c => match c.1.body with
    | .query 1 h _ buf len => d.queryEntry c.1.origin h buf len
    | _ => d

/-- LEAD_BOUNDARY: a step's head stage has ended at the lead; or the lead has no step in progress and a command or a result has
arrived (R184, R189). -/
def execLeadBoundary (partition : Nat) (prompts : List (Nat × List (Option U32))) (tags : List MemberTag) (s : State) : Out :=
  s.on fun d =>
  if d.serving && d.isLead partition then
    let ending := d.endingStep partition
    if ending.isSome || (d.job partition).step.isNone then
      d.leadBoundary partition { prompts := prompts, tags := tags } ending
    else d
  else d

/-- COMMAND_RECEIVE: a COMMAND message forwarded by the gateway; one on a channel other than VC2 is discarded and counted (R264,
R284). -/
def execCommandReceive (vc : BitVec 2) (c : FwdCmd) (s : State) : Out := s.on fun d =>
  if vc = 2 then d.deliver c else d.count DC.msgDiscard

end Sys2Proof.Machine
end

