-- ==== Sys2Proof/Machine/Host.lean ====
section
/-! DEFINITION. The host attachment: contexts, doorbells, submission entries, the status window, the mailbox and the CXL link
(R240 to R273). -/

namespace Sys2Proof.Machine

/-- A function's BAR0 answers: the package is ready and the function is enabled (R241, R386, R448). -/
def Dev.bar (d : Dev) (fn : Nat) : Bool := decide (d.rst.phase = .ready) && (decide (fn = 0) || decide (fn ≤ d.glob.numVfs))

/-! ### Contexts (R252) -/

/-- A queue-pair context as a create takes it: RO fields at their Reset values. -/
def QCtx.create (w : BitVec 256) : QCtx :=
  { sqBase := w.extractLsb' 0 64, cqBase := w.extractLsb' 64 64, sqLog2 := fieldNat w 132 128, cqLog2 := fieldNat w 137 133,
    vector := w.extractLsb' 138 11, irqEn := w.getLsbD 149, pin := w.getLsbD 150, coalCount := w.extractLsb' 152 8,
    coalTime := w.extractLsb' 160 8, halted := false, sqHead := 0, cqTail := 0, cqPhase := true, sqTail := 0, cqHead := 0,
    owed := 0, unsignalled := 0, firstUnsignalled := 0 }

/-- An output-ring context as a create takes it. -/
def RCtx.create (w : BitVec 256) : RCtx :=
  { base := w.extractLsb' 0 64, log2 := fieldNat w 68 64, vector := w.extractLsb' 69 11, irqMode := w.extractLsb' 80 2, w := 0 }

/-- A bus address is 4 KiB aligned. -/
def pageAligned (a : U64) : Bool := fieldNat a 11 0 == 0

/-- Every field of the context lies in its stated range. -/
def QCtx.ok (x : QCtx) : Bool :=
  pageAligned x.sqBase && pageAligned x.cqBase && decide (4 ≤ x.sqLog2 ∧ x.sqLog2 ≤ 16) && decide (4 ≤ x.cqLog2 ∧ x.cqLog2 ≤ 18)

def RCtx.ok (x : RCtx) : Bool := pageAligned x.base && decide (4 ≤ x.log2 ∧ x.log2 ≤ 20)

/-- What QUEUE_CTX_SEL of a function selects. -/
def FnRegs.ring (f : FnRegs) : Bool := f.ctxSel.getLsbD 31
def FnRegs.id (f : FnRegs) : Nat := fieldNat f.ctxSel 17 0

/-- The function may name the ID: the PF any, a VF only its partition's (R252). -/
def Dev.mayName (d : Dev) (fn id : Nat) : Bool := decide (fn = 0) || d.idOwner id == some (fn - 1)

/-- Sets the RESULT of a function's context operation. -/
def Dev.ctxResult (d : Dev) (fn : Nat) (code : BitVec 4) : Dev := d.setFn fn { d.fn fn with ctxResult := code }

/-- The context selected exists. -/
def Dev.ctxLive (d : Dev) (fn : Nat) : Bool :=
  let f := d.fn fn
  if f.ring then (d.ring f.id).isSome else (d.queue f.id).isSome

/-- Pinned contexts. -/
def Dev.pins (d : Dev) : Nat := (d.host.queues.filter fun e => match e.2 with | some x => x.pin | none => false).length

/-- A change of a context is sent to a standby in sync (R296). -/
def Dev.ctxChanged (d : Dev) (key : Nat) : Dev :=
  if d.sys.primary && d.sys.standbySync then d.toStandby .context (.hostWrite (.context key (d.ctxWord key))) else d

/-- A queue pair's record counts as not yet seen (R255; log 16). -/
def Dev.forgetBell (d : Dev) (q : Nat) : Dev := { d with host := { d.host with doorbells := SMap.put 0 d.host.doorbells q 0 } }

/-- QUEUE_CTX_CMD create; the checks in the order of their RESULT codes (R252; log 65). -/
def Dev.createCtx (d : Dev) (fn : Nat) : Dev :=
  let f := d.fn fn
  let q := QCtx.create f.ctxData
  let r := RCtx.create f.ctxData
  if !d.mayName fn f.id then d.ctxResult fn 1
  else if d.ctxLive fn then d.ctxResult fn 2
  else if f.ring then
    (if r.ok then ((((d.setRing f.id (some r)).storeCtx (ctxKey true f.id)).cacheCtx (ctxKey true f.id)).ctxResult fn 0).ctxChanged
        (ctxKey true f.id) else d.ctxResult fn 4)
  else if !q.ok then d.ctxResult fn 4
  else if q.pin ∧ d.pins ≥ 4096 then d.ctxResult fn 5
  else (((((d.setQueue f.id (some q)).forgetBell f.id).storeCtx (ctxKey false f.id)).cacheCtx (ctxKey false f.id)).ctxResult fn 0).ctxChanged
    (ctxKey false f.id)

/-- Commands are outstanding on the queue pair, or a request that is not terminal names the ring (R252). -/
def Dev.ctxInUse (d : Dev) (ring : Bool) (id : Nat) : Bool :=
  d.host.outstanding.any fun o => if ring then o.opcode == 0x01 && o.ring == id else o.queue == id

/-- QUEUE_CTX_CMD delete. -/
def Dev.deleteCtx (d : Dev) (fn : Nat) : Dev :=
  let f := d.fn fn
  if !d.mayName fn f.id then d.ctxResult fn 1
  else if !d.ctxLive fn then d.ctxResult fn 6
  else if d.ctxInUse f.ring f.id then d.ctxResult fn 3
  else
    let key := ctxKey f.ring f.id
    let d := if f.ring then d.setRing f.id none else (d.setQueue f.id none).forgetBell f.id
    let d := { d with host := { d.host with cached := d.host.cached.erase key } }
    ((d.storeCtx key).ctxResult fn 0).ctxChanged key

/-- QUEUE_CTX_CMD read. -/
def Dev.readCtx (d : Dev) (fn : Nat) : Dev :=
  let f := d.fn fn
  let data := if f.ring then (d.ring f.id).map RCtx.word else (d.queue f.id).map QCtx.word
  if !d.mayName fn f.id then d.ctxResult fn 1
  else match data with
    | none => d.ctxResult fn 6
    | some w => (d.touchCtx (ctxKey f.ring f.id)).setFn fn { f with ctxData := w, ctxResult := 0 }

/-- QUEUE_CTX_CREATE (R252). -/
def execQueueCtxCreate (fn : Nat) (s : State) : Out := s.on fun d => if d.bar fn then d.createCtx fn else d

/-- QUEUE_CTX_DELETE (R252). -/
def execQueueCtxDelete (fn : Nat) (s : State) : Out := s.on fun d => if d.bar fn then d.deleteCtx fn else d

/-- QUEUE_CTX_READ (R252). -/
def execQueueCtxRead (fn : Nat) (s : State) : Out := s.on fun d => if d.bar fn then d.readCtx fn else d

/-! ### Doorbells (R254 to R256) -/

/-- The gateway fetches and serves the host: the link carries all three protocols, the doorbell array is in use, and IDE is
active where the owner requires it (R241, R251, R311, R423). -/
def Dev.ideOk (d : Dev) : Bool := !d.sec.ideRequired || (d.glob.ideIo && d.glob.ideCm)
def Dev.hostOn (d : Dev) : Bool := d.serving && d.glob.cxlActive && !d.glob.modeErr

/-- A queue pair with a changed doorbell record: it is halted, or takes SQ_TAIL and CQ_HEAD (R255, R256). -/
def QCtx.bell (x : QCtx) (tail : U16) (head : BitVec 18) : QCtx :=
  let size := 2 ^ x.cqLog2
  let past := (head.toNat + size - x.cqHead.toNat) % size > (x.cqTail.toNat + size - x.cqHead.toNat) % size
  if x.halted then x
  else if tail.toNat ≥ 2 ^ x.sqLog2 ∨ head.toNat ≥ size ∨ past then { x with halted := true }
  else { x with sqTail := tail, cqHead := head }

/-- A record as re-read: one that changed is taken (R255). -/
def Dev.takeBell (d : Dev) (q : Nat) (w : U64) : Dev :=
  if SMap.get 0 d.host.doorbells q = w then d
  else
    let d := { d with host := { d.host with doorbells := SMap.put 0 d.host.doorbells q w } }
    match d.queue q with
    | none => d.count DC.dbIgnored
    | some x =>
      let y := x.bell (w.extractLsb' 0 16) (w.extractLsb' 16 18)
      let d := (d.touchCtx q).setQueue q (some y)
      let d := if y.halted && !x.halted then d.count DC.queueHalt else d
      if y = x then d else d.ctxChanged q

/-- DOORBELL_SNOOP: a doorbell line is invalidated and re-read; its records are compared in ascending queue order (R255). -/
def execDoorbellSnoop (line : Nat) (records : List U64) (s : State) : Out := s.on fun d =>
  if d.hostOn && d.host.linesHeld && decide (line < 32768) then
    let d := d.count DC.dbSnoop
    d.forAll ((List.range 8).zip records) fun d e => d.takeBell (8 * line + e.1) e.2
  else d

/-! ### Submission entries (R257 to R265) -/

/-- Free entries of the CQ less the completions owed (R257). -/
def QCtx.credit (x : QCtx) : Nat :=
  let size := 2 ^ x.cqLog2
  size - 1 - (x.cqTail.toNat + size - x.cqHead.toNat) % size - x.owed

/-- The opcode of an entry (R258, R260). -/
def sqOp (e : BitVec 512) : Byte := e.extractLsb' 0 8

def sqKnown (op : Byte) : Bool :=
  [0x01, 0x02, 0x03, 0x10, 0x11, 0x20, 0x21, 0x30, 0x40, 0x41, 0x50, 0x60, 0x70].contains op

/-- ADDR_MODE, which only RUN_OPERATOR and WATCH_TENSOR read (R258). -/
def sqByAddr (e : BitVec 512) : Bool := (sqOp e == 0x30 || sqOp e == 0x50) && e.getLsbD 8

/-- The address operand (R259). -/
def sqAddr (e : BitVec 512) : AddrOp :=
  { position := fieldNat e 255 250, space := e.extractLsb' 248 2, cluster := fieldNat e 247 239, offset := fieldNat e 228 192 }

/-- Bytes of the addressed range: what a watch dumps, or an operator's first byte. -/
def sqAddrLen (e : BitVec 512) : Nat := if sqOp e = 0x50 then max 1 (fieldNat e 415 384 - 64) else 1

/-- WATCH_TENSOR's fields (R260, R438). -/
def sqWatch (e : BitVec 512) (hasRows : Bool) : WatchSpec :=
  { byAddress := sqByAddr e, symbol := e.extractLsb' 128 32, addr := sqAddr e, mode := e.extractLsb' 190 2,
    n := e.extractLsb' 160 30, filter := e.getLsbD 256, handle := e.extractLsb' 32 32, hasRows := hasRows,
    bufAddr := e.extractLsb' 320 64, bufLen := fieldNat e 415 384 }

/-- SUBMIT_REQUEST's fields (R261). -/
def sqSubmit (e : BitVec 512) : SubmitFields :=
  { cls := e.extractLsb' 128 2, profile := e.extractLsb' 136 8, stopSet := e.extractLsb' 144 8, maxLen := e.extractLsb' 152 20,
    promptLen := e.extractLsb' 172 20, graftValid := e.getLsbD 192, dlValid := e.getLsbD 193, graftId := e.extractLsb' 196 12,
    graftVer := e.extractLsb' 208 16, deadline := e.extractLsb' 224 48, seed := e.extractLsb' 288 64,
    outRing := fieldNat e 369 352, promptAddr := e.extractLsb' 384 64, admitAddr := e.extractLsb' 448 64 }

/-- The command that an entry spells; `mem` gives what its argument or part table holds in host memory (R260). None: that table
could not be read. -/
def sqBody (e : BitVec 512) (mem : Option FwdBody) : Option FwdBody :=
  let h : U32 := e.extractLsb' 32 32
  let id : BitVec 12 := e.extractLsb' 128 12
  match (sqOp e).toNat with
  | 0x01 => some (.submit (sqSubmit e))
  | 0x02 => some (.setDeadline h (e.extractLsb' 128 48) (e.getLsbD 176) (e.getLsbD 177))
  | 0x03 => some (.cancel h)
  | 0x10 => match mem with
    | some (.graftLoad _ parts) => some (.graftLoad id (parts.take (fieldNat e 263 256)))
    | _ => none
  | 0x11 => some (.graftRetire id)
  | 0x20 => some (.windowOpen id (e.extractLsb' 160 23) (fieldNat e 214 192))
  | 0x21 => some (.windowClose id)
  | 0x30 => match mem with
    | some (.runOperator (.tuning a b g v w n buf)) => some (.runOperator (.tuning a b g v w n buf))
    | some (.runOperator (.library ..)) =>
      some (.runOperator (if sqByAddr e then .library 0 (some (sqAddr e)) else .library (e.extractLsb' 128 16) none))
    | _ => none
  | 0x40 => match mem with
    | some (.loadShard t) => some (.loadShard t)
    | _ => none
  | 0x41 => some (.commitShard (e.extractLsb' 128 48) (e.getLsbD 176))
  | 0x50 => some (.watch (sqWatch e (match mem with | some (.watch w) => w.hasRows | _ => true)))
  | 0x60 => some .calibrate
  | 0x70 => some (.query (e.extractLsb' 128 8) h (e.extractLsb' 140 12) (e.extractLsb' 256 64) (fieldNat e 351 320))
  | _ => none

/-- The addressed range falls inside a region or a cluster that the partition owns (R259). -/
def Dev.addrInside (d : Dev) (p : Nat) (a : AddrOp) (n : Nat) : Bool :=
  if a.space = 0 then
    (List.range 128).any fun i =>
      let w := d.region i
      rgValid w && !rgShared w && rgPart w == p && decide (16384 * rgBase w ≤ a.offset)
        && decide (a.offset + n ≤ 16384 * (rgBase w + rgSize w))
  else
    -- a scratchpad has 512 rows of 512 bytes, a program 65,536 words of 4
    let first := if a.space = 1 then 512 * (a.offset % 512) else 4 * (a.offset % 65536)
    decide (a.space ≠ 3) && (d.partClusters p).contains a.cluster && decide (first + n ≤ 262144)

/-- The addressed range touches a secure partition's region or cluster (R399). -/
def Dev.addrSecure (d : Dev) (a : AddrOp) (n : Nat) : Bool :=
  if a.space = 0 then
    (List.range 128).any fun i =>
      let w := d.region i
      rgValid w && !rgShared w && (rgSecure w || d.partSecure (rgPart w)) && overlap (16384 * rgBase w) (16384 * rgSize w) a.offset n
  else match d.clusterOwner a.cluster with
    | some p => d.partSecure p
    | none => false

/-- A graft or window ID that the entry names lies outside the partition's quota (R404). -/
def Dev.sqOutsideQuota (d : Dev) (p : Nat) (e : BitVec 512) : Bool :=
  let op := sqOp e
  let graft := fun (id : Nat) => !inRange (d.graftBase p) (d.graftCount p) id
  ((op == 0x10 || op == 0x11) && graft (fieldNat e 139 128))
    || (op == 0x01 && e.getLsbD 192 && graft (fieldNat e 207 196))
    || (op == 0x70 && fieldNat e 135 128 == 2 && graft (fieldNat e 151 140))
    || ((op == 0x20 || op == 0x21) && !inRange (d.winBase p) (d.winCount p) (fieldNat e 139 128))

/-- Check 2: not permitted (R259, R262, R399, R404). `vf`: the queue belongs to a partition. -/
def Dev.sqDenied (d : Dev) (vf : Bool) (p : Nat) (e : BitVec 512) : Bool :=
  let op := sqOp e
  if vf then op == 0x40 || op == 0x41 || (sqByAddr e && !d.addrInside p (sqAddr e) (sqAddrLen e)) || d.sqOutsideQuota p e
  else (sqByAddr e && (d.partSecure p || d.addrSecure (sqAddr e) (sqAddrLen e))) || (op == 0x50 && d.partSecure p)

/-- A length field of the entry is 0 (R262, check 4). -/
def sqNoLength (e : BitVec 512) : Bool :=
  let op := sqOp e
  ((op == 0x30 || op == 0x40 || op == 0x70) && fieldNat e 351 320 == 0) || (op == 0x50 && fieldNat e 415 384 == 0)
    || (op == 0x10 && fieldNat e 263 256 == 0) || (op == 0x20 && fieldNat e 214 192 == 0)

/-- Check 4: a field is invalid. An address operand of the reserved space is too (log 63). -/
def Dev.sqBadField (d : Dev) (vf : Bool) (p : Nat) (e : BitVec 512) : Bool :=
  let op := sqOp e
  let ring := fieldNat e 369 352
  (!vf && !d.partValid p)
    || (op == 0x01 && !((d.ring ring).isSome && d.idOwner ring == some p))
    || ((op == 0x20 || op == 0x21) && !((d.jobSetup p).valid && (d.members p).contains (fieldNat e 149 144)))
    || sqNoLength e || (sqByAddr e && (sqAddr e).space == 3)

/-- Check 5: the command needs the job, and its SYS_JOB is not both VALID and ACTIVE. -/
def Dev.sqNoJob (d : Dev) (vf : Bool) (p : Nat) (e : BitVec 512) : Bool :=
  let op := sqOp e
  let kind := fieldNat e 135 128
  let needs := if op = 0x70 then decide (1 ≤ kind ∧ kind ≤ 3) else if op = 0x20 ∨ op = 0x21 then false else !(sqByAddr e && !vf)
  needs && !d.jobActive p

/-- The first check of R262 that the entry fails. -/
def Dev.sqCheck (d : Dev) (vf : Bool) (p : Nat) (e : BitVec 512) : Option Byte :=
  if !sqKnown (sqOp e) then some St.opcodeInvalid
  else if d.sqDenied vf p e then some St.notPermitted
  else if (sqOp e == 0x30 || sqOp e == 0x50) && !sqByAddr e && !(d.job p).symbols then some St.identUnavailable
  else if d.sqBadField vf p e then some St.fieldInvalid
  else if d.sqNoJob vf p e then some St.jobAbsent
  else none

/-- The lowest member index whose position holds no package. -/
def Dev.absentMember (d : Dev) (p : Nat) : Option Nat := (d.members p).findIdx? fun pos => !d.present pos

/-- RESULT of a command that a stopped job turns away with JOB_STOPPED (R265). -/
def Dev.stoppedResult (d : Dev) (p : Nat) (e : BitVec 512) : Option U32 :=
  let op := sqOp e
  let kind := fieldNat e 135 128
  if !(d.jobSetup p).stopped then none
  else if op = 0x20 ∨ op = 0x21 then (if d.present (fieldNat e 149 144) then none else some 0)
  else if op = 0x40 ∨ op = 0x41 then (d.absentMember p).map (BitVec.ofNat 32)
  else if op = 0x70 ∧ kind ≠ 1 ∧ kind ≠ 2 then none
  else some 0

/-- Where the gateway sends a command (R264). -/
def Dev.sqTargets (d : Dev) (p : Nat) (e : BitVec 512) (c : FwdBody) : List Nat :=
  let lead := (d.members p).take 1
  match c with
  | .windowOpen .. | .windowClose _ => [fieldNat e 149 144]
  | .loadShard _ | .commitShard .. | .calibrate => d.members p
  | .watch w => if w.byAddress then [w.addr.position] else lead
  | .query kind .. => if kind = 1 ∨ kind = 2 then lead else [d.sys.position]
  | _ => lead

/-- A command leaves for a position, or is applied here. -/
def Dev.passTo (d : Dev) (pos : Nat) (c : FwdCmd) : Dev :=
  if pos = d.sys.position then d.deliver c else d.send (.command pos c)

/-- The gateway forwards a command; a standby in sync acknowledges first (R296). -/
def Dev.forwardTo (d : Dev) (pos : Nat) (c : FwdCmd) : Dev :=
  if d.sys.standbySync then
    let x := d.host.outstanding.find? fun x => x.queue == c.origin.queue && x.tag == c.origin.tag && x.sqHead == c.origin.sqHead
    d.toStandby (.command pos c) (.hostWrite (.forwarded c.origin ((x.map (·.opcode)).getD 0) ((x.map (·.ring)).getD 0)
      ((x.map (·.admitAddr)).getD 0)))
  else d.passTo pos c

/-- A read of host memory with the requester ID of a function (R244). -/
def Dev.readHost (d : Dev) (fn : Nat) (addr : U64) (length : Nat) : Dev :=
  { d with host := { d.host with reads := d.host.reads ++ [{ fn := fn, addr := addr, length := length }] } }

/-- The argument table, part table or shard-set table that an entry names is read (R203, R244, R260, R321): the shard-set table with the PF's
requester ID. -/
def Dev.readTables (d : Dev) (q : Nat) (e : BitVec 512) : Dev :=
  match (sqOp e).toNat with
  | 0x10 => d.readHost (d.idFn q) (e.extractLsb' 192 64) (16 * fieldNat e 263 256)
  | 0x30 => d.readHost (d.idFn q) (e.extractLsb' 256 64) (fieldNat e 351 320)
  | 0x40 => d.readHost 0 (e.extractLsb' 256 64) (fieldNat e 351 320)
  | _ => d

/-- An entry that was read: the checks in order, the stopped job, then the command goes on its way; LOAD_SHARD and COMMIT_SHARD are turned away while
one of either is outstanding for the job (R262, R264, R265, R321). -/
def Dev.takeEntry (d : Dev) (q : Nat) (head : U16) (e : BitVec 512) (mem : Option FwdBody) : Dev :=
  let vf := (d.idOwner q).isSome
  let p := (d.idOwner q).getD (fieldNat e 21 16)
  let op := sqOp e
  let o : Origin := { queue := q, sqHead := head, tag := e.extractLsb' 64 64, partition := p }
  let x : Outstanding := { queue := q, tag := o.tag, opcode := op, partition := p, handle := none,
                           ring := if op = 0x01 then fieldNat e 369 352 else 0,
                           admitAddr := if op = 0x01 then e.extractLsb' 448 64 else 0, sqHead := head }
  let busy := d.host.outstanding.any fun y => y.partition == p && (y.opcode == 0x40 || y.opcode == 0x41)
  let d := { d with host := { d.host with outstanding := d.host.outstanding ++ [x] } }
  match d.sqCheck vf p e, d.stoppedResult p e, sqBody e mem with
  | some st, _, _ => (d.complete o op st 0).count DC.sqRefused
  | none, some r, _ => d.complete o op St.jobStopped r
  | none, none, none => (d.readTables q e).complete o op St.hostReadError 0
  | none, none, some c =>
    let d := d.readTables q e
    if (op == 0x40 || op == 0x41) && busy then d.complete o op St.replacementBusy 0
    else d.forAll (d.sqTargets p e c) fun d pos => d.forwardTo pos ⟨o, c⟩

/-- An entry that host memory could not be read for (R262). -/
def Dev.unreadEntry (d : Dev) (q : Nat) (head : U16) : Dev :=
  let p := (d.idOwner q).getD 0
  let o : Origin := { queue := q, sqHead := head, tag := 0, partition := p }
  let x : Outstanding := { queue := q, tag := 0, opcode := 0, partition := p, handle := none, ring := 0, admitAddr := 0, sqHead := head }
  ({ d with host := { d.host with outstanding := d.host.outstanding ++ [x] } }.complete o 0 St.hostReadError 0).count DC.sqRefused

/-- The queue pair has an entry to fetch and a credit (R256, R257). -/
def QCtx.mayFetch (x : QCtx) : Bool := !x.halted && x.sqHead != x.sqTail && decide (x.credit ≥ 1)

/-- A pinned queue pair has an entry to fetch: the others wait for it (R255). -/
def Dev.pinnedFirst (d : Dev) : Bool := d.host.queues.any fun e => match e.2 with | some x => x.pin && x.mayFetch | none => false

/-- SQ_FETCH: `entry` is what host memory answers and `cmd` what the entry's argument or part table holds (R244, R257, R262). A queue pair that is
not pinned waits while a pinned one has an entry to fetch (R255). -/
def execSqFetch (queue : Nat) (entry : Option (BitVec 512)) (cmd : Option FwdBody) (s : State) : Out := s.on fun d =>
  match d.queue queue with
  | none => d
  | some x =>
    if d.hostOn && d.ideOk && d.sys.primary && x.mayFetch && (x.pin || !d.pinnedFirst) then
      let head := BitVec.ofNat 16 ((x.sqHead.toNat + 1) % 2 ^ x.sqLog2)
      let at_ := x.sqBase + BitVec.ofNat 64 (64 * x.sqHead.toNat)
      let d := ((d.touchCtx queue).setQueue queue (some { x with sqHead := head, owed := x.owed + 1 })).count DC.sqFetched
      let d := (d.readHost (d.idFn queue) at_ 64).ctxChanged queue
      match entry with
      | none => d.unreadEntry queue head
      | some e => d.takeEntry queue head e cmd
    else d

/-- COALESCE_TIMER_EXPIRY: COAL_TIME after the first completion not signalled (R271). -/
def execCoalesceTimerExpiry (queue : Nat) (s : State) : Out := s.on fun d =>
  match d.queue queue with
  | none => d
  | some x =>
    if x.irqEn ∧ x.coalTime ≠ 0 ∧ x.unsignalled ≠ 0 ∧ d.since x.firstUnsignalled ≥ 1000 * x.coalTime.toNat then d.signalQueue queue
    else d

/-! ### The status window (R242, R247 to R249) -/

/-- The position status entry. -/
def Dev.positionEntry (d : Dev) (p : Nat) : BitVec 128 :=
  (0 : BitVec 72) ++ SMap.get 0 d.host.ctrTime p ++ BitVec.ofBool (d.present p) ++ d.nodeAt p

/-- The window header's second word. -/
def Dev.windowHeader (d : Dev) : U64 :=
  (0 : BitVec 32) ++ BitVec.ofNat 16 d.leaseLeft ++ (0 : BitVec 5) ++ BitVec.ofBool d.sys.leaseValid ++ BitVec.ofNat 4 d.sys.spares
    ++ BitVec.ofNat 2 d.zm1 ++ BitVec.ofNat 2 d.ym1 ++ BitVec.ofNat 2 d.xm1

/-- The 8 bytes of the window at the 8-byte-aligned offset `o`. -/
def Dev.windowWord (d : Dev) (o : Nat) : U64 :=
  if o = 0 then d.us.setWidth 64
  else if o = 8 then d.windowHeader
  else if 0x400 ≤ o ∧ o < 0x800 then (d.positionEntry ((o - 0x400) / 16)).extractLsb' (8 * (o % 16)) 64
  else if 0x100000 ≤ o ∧ o < 0x40D400 then
    (SMap.get (0 : BitVec 128) d.host.mirror ((o - 0x100000) / 16)).extractLsb' (8 * (o % 16)) 64
  else if 0x800000 ≤ o ∧ o < 0x880000 then SMap.get 0 d.host.ctrMirror ((o - 0x800000) / 8)
  else 0

/-- A byte of the window. -/
def Dev.windowByte (d : Dev) (o : Nat) : Byte := (d.windowWord (o / 8 * 8)).extractLsb' (8 * (o % 8)) 8

/-- The window answers: the decoder is committed and the CXL link is active; before Memory_Active and without the IDE that the
owner requires it reads zeros (R241, R242, R423). -/
def Dev.windowOpenToHost (d : Dev) : Bool := d.glob.memoryActive && d.ideOk

/-- STATUS_WINDOW_READ of up to one 64-byte line (R248). -/
def execStatusWindowRead (offset size : Nat) (s : State) : Out := s.on fun d =>
  if d.glob.cxlActive && !d.glob.modeErr && d.glob.hdmCommitted then
    let n := min size 64
    (d.answer (.bytes ((List.range n).map fun i => if d.windowOpenToHost then d.windowByte (offset + i) else 0))).count DC.winRead
  else d

/-- STATUS_WINDOW_WRITE: completed, discarded and counted (R248). -/
def execStatusWindowWrite (_offset : Nat) (_value : U64) (s : State) : Out := s.on fun d =>
  if d.glob.cxlActive && !d.glob.modeErr && d.glob.hdmCommitted then d.count DC.winWriteDiscard else d

/-! ### The CXL link, its decoder and its functions (R240, R241, R448) -/

/-- What the configuration space says of the features that R240 lists, with TotalVFs and the DOE protocols in the order of the list. None of it
can be written: a write that enables back-invalidate is ignored. -/
structure Capabilities where
  totalVfs : Nat
  backInvalidate : Bool
  portBasedRouting : Bool
  skidMode : Bool
  ats : Bool
  pri : Bool
  pasid : Bool
  ldId : Nat
  doe : List String
  deriving DecidableEq, Repr

/-- The ZM9's capabilities (R240). -/
def caps : Capabilities :=
  { totalVfs := 64, backInvalidate := false, portBasedRouting := false, skidMode := false, ats := false, pri := false, pasid := false,
    ldId := 0, doe := ["CMA/SPDM", "IDE_KM", "CDAT"] }

/-- CXL_LINK_TRAINED (R241, R272). -/
def execCxlLinkTrained (width rate : Nat) (flit256 allProtocols : Bool) (s : State) : Out := s.on fun d =>
  let ok := flit256 && allProtocols && (width == 16 || width == 8) && (rate == 64 || rate == 32)
  let g := { d.glob with width := BitVec.ofNat 5 width, rate := BitVec.ofNat 8 rate }
  if ok && !g.modeErr then { d with glob := { g with cxlActive := true } }
  else { d with glob := { g with cxlActive := false, modeErr := true, numVfs := 0 } }

/-- PBR_FLIT_RECEIVE: dropped, logged as an uncorrectable internal error (R240). -/
def execPbrFlitReceive (s : State) : Out := s.on fun d => { d with glob := { d.glob with uncorrInternal := d.glob.uncorrInternal + 1 } }

/-- HDM_DECODER_COMMIT with a number of interleave ways and a size in bytes (R240). -/
def execHdmDecoderCommit (ways size : Nat) (s : State) : Out := s.on fun d =>
  if d.glob.modeErr then d
  else if ways = 1 ∧ size = 0x10000000 then { d with glob := { d.glob with hdmCommitted := true, hdmError := false } }
  else { d with glob := { d.glob with hdmCommitted := false, hdmError := true } }

/-- SET_NUMVFS: ignored while the QUEUE lock is clear or where it cannot be set (R240, R241, R448). -/
def execSetNumVfs (n : Nat) (s : State) : Out := s.on fun d =>
  if d.glob.locks.getLsbD 1 && decide (n ≤ caps.totalVfs) && !d.glob.modeErr then { d with glob := { d.glob with numVfs := n } } else d

/-- CDAT_TABLE_ACCESS: CDAT reports 80 ns (R242). -/
def execCdatTableAccess (s : State) : Out := s.on fun d => d.answer (.cdat 80)

/-! ### The PF mailbox (R240, R246) -/

/-- GET_EVENT_RECORDS. -/
def execGetEventRecords (s : State) : Out := s.on fun d => d.answer (.events d.host.events)

/-- CLEAR_EVENT_RECORDS: the oldest `count` records. -/
def execClearEventRecords (count : Nat) (s : State) : Out := s.on fun d =>
  { d with host := { d.host with events := d.host.events.drop count } }

/-- GET_EVENT_INTERRUPT_POLICY. -/
def execGetEventInterruptPolicy (s : State) : Out := s.on fun d => d.answer (.word (d.glob.eventPolicy.setWidth 64))

/-- SET_EVENT_INTERRUPT_POLICY. -/
def execSetEventInterruptPolicy (policy : U32) (s : State) : Out := s.on fun d => { d with glob := { d.glob with eventPolicy := policy } }

/-- GET_TIMESTAMP: the timestamp as set, advanced by the device time since; 0 before it is set (log 64). -/
def execGetTimestamp (s : State) : Out := s.on fun d =>
  let g := d.glob
  d.answer (.word (if g.timestamp = 0 then 0 else g.timestamp + BitVec.ofNat 64 (d.since g.timestampAt)))

/-- SET_TIMESTAMP. -/
def execSetTimestamp (t : U64) (s : State) : Out := s.on fun d => { d with glob := { d.glob with timestamp := t, timestampAt := d.now } }

/-- Any other mailbox, fabric-manager or dynamic-capacity command returns Unsupported (R240). -/
def execMailboxUnsupportedCommand (_opcode : U16) (s : State) : Out := s.on fun d => d.answer .unsupported

end Sys2Proof.Machine
end

