-- ==== Sys2Proof/Machine/Links.lean ====
section
/-! DEFINITION. One Fesin port: lanes, training, keys, flits, HELLO frames; step data, windows and transfers (R274 to R290, R299 to
R304, R421, R422). -/

namespace Sys2Proof.Machine

/-! ### Lanes and width (R303, R304) -/

/-- Lanes excluded by set-up, DROP_MODE, ENABLE and SER_MAX of a port (R313). -/
def Dev.laneOff (d : Dev) (n : Nat) : Byte := (d.reg (Off.flCtl n)).extractLsb' 8 8
def Dev.dropMode (d : Dev) (n : Nat) : Bool := (d.reg (Off.flCtl n)).getLsbD 1
def Dev.portOn (d : Dev) (n : Nat) : Bool := (d.reg (Off.flCtl n)).getLsbD 0
def Dev.serMax (d : Dev) (n : Nat) : Nat := d.fld (Off.flCtl n) 31 16

/-- Lanes that the ledger has ruled permanently faulty (R337). -/
def Dev.deadLanes (d : Dev) (n : Nat) : Byte :=
  (List.range 8).foldl (fun (m : Byte) k => if (d.lane (8 * n + k)).permanent then m ||| (1 <<< k) else m) 0

/-- The width that a set of healthy lanes allows: 8, a half, a pair, or none. -/
def laneWidth (ok : Byte) : Nat :=
  if ok = 0xFF then 8
  else if ok &&& 0x0F = 0x0F ∨ ok &&& 0xF0 = 0xF0 then 4
  else if ok &&& 0x03 = 0x03 ∨ ok &&& 0x0C = 0x0C ∨ ok &&& 0x30 = 0x30 ∨ ok &&& 0xC0 = 0xC0 then 2
  else 0

/-- The lanes a port sees as healthy. -/
def Dev.healthy (d : Dev) (n : Nat) : Byte := ~~~((d.port n).faulty ||| d.laneOff n)

/-- A port goes down: incomplete messages are discarded, messages not acknowledged are injected again, and the loss is reported to
the primary (R287, R306), where a miswired port has been reported already (R288). `tamper`: into tamper-down, which discards both keys and is
reported to the Serbel controller; only a retrain by the host ends it (R279, R422). -/
def Dev.portDown (d : Dev) (n : Nat) (tamper : Bool) : Dev :=
  let p := d.port n
  let up := p.state == 3 || (p.state == 1 && p.keyed)
  let d := (d.reinject n).setPort n { p.empty with state := if tamper || p.state == 5 then 5 else 0 }
  let d := if tamper then { d with sec := { d.sec with tamper := d.sec.tamper ||| ((1 : BitVec 6) <<< n) } } else d
  let d := if up ∨ p.state = 4 ∨ tamper then d.count (DC.flDown + n) else d
  if up ∨ tamper then d.send (.linkDown n) else d

/-! ### Flits of the port's own (R277, R278, R290) -/

/-- The role that a HELLO carries. -/
def Dev.role (d : Dev) : BitVec 2 :=
  if d.sys.primary then 1 else if d.sys.standby then 2 else if d.sys.coordValid && !d.glob.spareStrap then 0 else 3

/-- The HELLO of a port (R290). -/
def Dev.hello (d : Dev) (n : Nat) : Hello :=
  { node := d.glob.node, spare := d.glob.spareStrap, port := n, coordValid := d.sys.coordValid, position := d.sys.position,
    role := d.role, fenced := d.sys.fenced, gwCapable := d.glob.cxlActive, lanes := ~~~(d.port n).faulty,
    leaseEpoch := d.sys.highEpoch, sysId := if d.sys.formed then d.sysId else 0, seq := (d.port n).helloSeq, txTime := d.now }

/-- A flit leaves a port: it takes the next sequence number, acknowledges the highest one received in order, is encrypted under the salt of its
direction and that number, and stays in the replay buffer (R277, R278). -/
def Port.emit (p : Port) (vc : BitVec 2) (type : BitVec 3) (message : Nat) (dl first : Bool) : Port :=
  { p with txSeq := p.txSeq + 1
           replay := p.replay ++ [{ seq := p.txSeq, message := message, first := first, replayed := 0, iv := p.saltTx ++ p.txSeq
                                    header := flitHeader vc type (p.txSeq.extractLsb' 0 12) (p.rxSeq.extractLsb' 0 12 - 1) dl }] }

/-- What a flit of the port's own says as it leaves. -/
def Dev.ctlMsg (d : Dev) (n : Nat) (c : LinkCtl) : OutMsg :=
  match c with
  | .hello => .hello n (d.hello n)
  | .nak => .nak n ((d.port n).rxSeq.extractLsb' 0 12 - 1)
  | .degrade ack => .degrade n ack (d.healthy n)
  | .keyExchange => .keyExchange n
  | .keySwitch => .keySwitch n (d.port n).txSeq

/-- A NAK or a link-control flit leaves, on channel 0 (DESIGN CHOICE, log 175): the message it is stands last among those sent. -/
def Dev.leaveCtl (d : Dev) (n : Nat) (c : LinkCtl) : Dev :=
  let d := (d.send (d.ctlMsg n c)).count (DC.flFlitTx + n)
  d.updPort n fun p =>
    let p := p.emit 0 (if c = .nak then 3 else 4) d.host.sent.length false false
    if c = .hello then { p with helloSeq := p.helloSeq + 1, helloSentAt := d.now } else p

/-- A NAK or a link-control flit is to be sent: it leaves at once, or as soon as fewer than 1,024 flits wait for their acknowledgement
(R278). -/
def Dev.control (d : Dev) (n : Nat) (c : LinkCtl) : Dev :=
  if (d.port n).replay.length < 1024 then d.leaveCtl n c else d.updPort n fun p => { p with ctl := p.ctl ++ [c] }

/-! ### The agreed width (R303, R304) -/

/-- Both ends have agreed on the lanes that are healthy at both: the port runs at the width they allow, or is down (R304). -/
def Dev.agreeWidth (d : Dev) (n : Nat) (peer : Byte) : Dev :=
  let w := laneWidth (d.healthy n &&& peer)
  let old := (d.port n).width.toNat
  let d := d.updPort n fun p => { p with peerBad := ~~~peer }
  if w = 0 then d.portDown n false
  else if w < old then (d.updPort n fun p => { p with width := BitVec.ofNat 4 w }).count (DC.flDegrade + n)
  else d

/-- A lane is found faulty: it is counted and reported, and the port degrades or is down (R303, R304). -/
def Dev.faultLane (d : Dev) (n lane : Nat) : Dev :=
  let bit : Byte := 1 <<< lane
  if lane ≥ 8 ∨ (d.port n).faulty &&& bit ≠ 0 ∨ d.laneOff n &&& bit ≠ 0 then d
  else
    let d := (d.updPort n fun p => { p with faulty := p.faulty ||| bit }).count (DC.flLaneFault + n)
    let d := d.laneFault n lane false
    if d.dropMode n then d.portDown n false
    else d.control n (.degrade false)

/-- LANE_SIGNAL_LOSS on a lane of a port in use (R303). -/
def execLaneSignalLoss (port lane : Nat) (s : State) : Out := s.on fun d =>
  if (d.port port).state = 3 then d.faultLane port lane else d

/-- LANE_SER_CHECK: corrected FEC symbols of the last second, by lane (R303). -/
def execLaneSerCheck (port : Nat) (counts : List Nat) (s : State) : Out := s.on fun d =>
  if (d.port port).state = 3 then
    d.forAll ((List.range 8).zip counts) fun d c => if c.2 > d.serMax port ∧ (d.port port).state = 3 then d.faultLane port c.1 else d
  else d

/-- DEGRADE_REQUEST_RECEIVE: the request is acknowledged with this end's lanes; either message settles the width (R304). -/
def execDegradeRequestReceive (port : Nat) (acknowledge : Bool) (peerHealthy : Byte) (s : State) : Out := s.on fun d =>
  if (d.port port).state = 3 then
    let d := if acknowledge then d else d.control port (.degrade true)
    d.agreeWidth port peerHealthy
  else d

/-- LOSS_OF_SIGNAL on every active lane (R290). -/
def execLossOfSignal (port : Nat) (s : State) : Out := s.on fun d =>
  if (d.port port).state = 0 ∨ (d.port port).state = 5 then d else d.portDown port false

/-! ### Training and keys (R275, R278, R304, R421, R422) -/

/-- The PHYs are powered and the package is out of reset. -/
def Dev.phyOn (d : Dev) : Bool :=
  d.rst.serUp && (decide (d.rst.phase = .ready) || decide (d.rst.phase = .booting) || decide (d.rst.phase = .bootFailed))

/-- LINK_SIGNAL_DETECT: signal returns on a port that is down, and training begins, unless the link is held down (R275, R289). -/
def execLinkSignalDetect (port : Nat) (s : State) : Out := s.on fun d =>
  if d.phyOn ∧ d.portOn port ∧ (d.port port).state = 0 ∧ !(d.port port).heldDown then d.updPort port fun p => { p with state := 1 } else d

/-- FL_CTL.RETRAIN: the port retrains, from tamper-down too (R304, R313). -/
def Dev.retrain (d : Dev) (n : Nat) : Dev :=
  if d.phyOn ∧ d.portOn n ∧ n < 6 ∧ !(d.port n).heldDown then
    d.updPort n fun p => { p with state := 1, hostRetrain := true, retrainAt := if p.keyed then some d.now else none }
  else d

/-- FL_RETRAIN (R304). -/
def execFlRetrain (port : Nat) (s : State) : Out := s.on fun d => if d.rst.phase = .ready then d.retrain port else d

/-- RETRAIN_TIMEOUT: a retrain has not returned the port to service within 8 ms (R278). -/
def execRetrainTimeout (port : Nat) (s : State) : Out := s.on fun d =>
  match (d.port port).retrainAt with
  | some t => if (d.port port).state = 1 ∧ d.since t ≥ 8000000 then d.portDown port false else d
  | none => d

/-- The lanes that a training may use: without a retrain ordered through FL_CTL, a faulty lane stays out (R304). -/
def Dev.keptOut (d : Dev) (n : Nat) : Byte := if (d.port n).hostRetrain then 0 else (d.port n).faulty

/-- Lanes that failed training are reported; a lane that was faulty and trained in a retrain ordered by the host is returned to service
(R303, R304, R337). -/
def Dev.trainLanes (d : Dev) (n : Nat) (failed : Byte) : Dev :=
  d.forAll (List.range 8) fun d k =>
    let bit : Byte := 1 <<< k
    let r := d.lane (8 * n + k)
    if (d.laneOff n ||| d.keptOut n) &&& bit ≠ 0 ∨ r.permanent then d
    else if failed &&& bit ≠ 0 then (d.count (DC.flLaneFault + n)).laneFault n k true
    else if (d.port n).faulty &&& bit ≠ 0 then d.setLane (8 * n + k) { r with returnedAt := some d.ltime }
    else d

/-- PORT_TRAINING_DONE: `failed` are the lanes that failed. A keyed port returns to service; another begins the key exchange. A width below the
one before, or below what the set-up allows where there was none, is a width reduction (R275, R277, R304, R314; DEDUCED, log 175). -/
def execPortTrainingDone (port : Nat) (failed : Byte) (s : State) : Out := s.on fun d =>
  let st := (d.port port).state
  if d.phyOn ∧ d.portOn port ∧ port < 6 ∧ !(d.port port).heldDown ∧ (st = 0 ∨ st = 1) then
    let out := d.keptOut port
    let peer : Byte := if (d.port port).hostRetrain then 0 else (d.port port).peerBad
    let d := d.trainLanes port failed
    let bad := (failed ||| d.deadLanes port ||| out) &&& ~~~(d.laneOff port)
    let d := d.updPort port fun p => { p with faulty := bad, peerBad := peer }
    let w := if d.dropMode port ∧ bad ≠ 0 then 0 else laneWidth (d.healthy port &&& ~~~peer)
    if w = 0 then d.portDown port false
    else
      let keyed := (d.port port).keyed
      let old := if (d.port port).width = 0 then laneWidth (~~~(d.laneOff port)) else (d.port port).width.toNat
      let d := if w < old then d.count (DC.flDegrade + port) else d
      let d := d.updPort port fun p => { p with state := if keyed then 3 else 2, width := BitVec.ofNat 4 w, retrainAt := none,
                                                hostRetrain := false, replays := 0, helloAt := d.now }
      if keyed then d else d.control port .keyExchange
  else d

/-- The exchange succeeds: the peer's chain leads to the Borkovar root, both ends belong to one owner, and the transcript is
signed (R421). -/
def Dev.keysAgree (d : Dev) (x : PeerIdentity) : Bool :=
  x.chainOk && x.transcriptOk && x.provisioned && (d.sec.lifecycle == 1 || d.sec.lifecycle == 2)
    && d.owner 0 == some x.ownerDigest

/-- The two salts that an exchange derives: the spec names the derivation and no value (R421; free values, log 7). -/
def Dev.newSalts (d : Dev) (n : Nat) : Dev :=
  (d.updPort n fun p => { p with saltTx := Config.freeBits d.fresh 32, saltRx := Config.freeBits (d.fresh + 1) 32 }).draw.draw

/-- LINK_KEY_EXCHANGE: the port is keyed and up, or stays in keying (R421). -/
def execLinkKeyExchange (port : Nat) (peer : PeerIdentity) (s : State) : Out := s.on fun d =>
  if (d.port port).state = 2 then
    if d.keysAgree peer then
      let d := { d with sec := { d.sec with tamper := d.sec.tamper &&& ~~~((1 : BitVec 6) <<< port) } }
      (d.newSalts port).updPort port fun p =>
        { p with state := 3, keyed := true, keySet := 1, rxSeq := 0, txSeq := 0, replay := [], ctl := [], helloAt := d.now,
                 credits := fullCredits, owed := noCredits, idleGap := 0, txWait := 0 }
    else d.count DC.flKeyFail
  else d

/-- LINK_REKEY: at every 2^40 flits new keys are agreed while the old ones stay in use, and one SEQ switches both directions
(R422). -/
def execLinkRekey (port : Nat) (peer : PeerIdentity) (s : State) : Out := s.on fun d =>
  let p := d.port port
  if p.state = 3 ∧ p.keyed ∧ p.txSeq.toNat ≥ 2 ^ 40 * p.keySet then
    if d.keysAgree peer then
      (((d.setPort port { p with keySet := p.keySet + 1 }).control port .keySwitch).newSalts port).count DC.flRekey
    else d.count DC.flKeyFail
  else d

/-! ### Flits (R277 to R279, R287) -/

/-- The full sequence number that a 12-bit ACK names: the last one sent at or before it. -/
def Port.ackSeq (p : Port) (ack : BitVec 12) : Nat :=
  let last := p.txSeq.toNat + 2 ^ 64 - 1
  last - (last + 4096 - ack.toNat) % 4096

/-- Flits up to the one acknowledged leave the replay buffer (R278). -/
def Port.acked (p : Port) (ack : BitVec 12) : Port :=
  if p.replay.isEmpty then p
  else { p with replay := p.replay.filter fun e => decide (e.seq.toNat + 2 ^ 64 > p.ackSeq ack) }

/-- A hop that needs its second replay misses its bound: one on VC2 counts among the missed admission bounds, one on VC0 among the missed
inter-token bounds (R282; which of the three counters takes it is a DESIGN CHOICE, log 175). The hop time runs to a message's first flit. -/
def Dev.missedHop (d : Dev) (f : SentFlit) : Dev :=
  if f.first ∧ f.replayed = 2 then
    (if f.vc = 2 then d.count DC.class0MissAdm else if f.vc = 0 then d.count DC.class0MissItt else d)
  else d

/-- A NAK: the sender replays from the flit after the one it names; eight consecutive replays of one flit start a retrain (R278). A flit replayed
counts in FL_REPLAY alone, not in FL_FLIT_TX again (DESIGN CHOICE, log 175). -/
def Dev.replayPort (d : Dev) (n : Nat) (good : BitVec 12) : Dev :=
  let p := (d.port n).acked good
  let k := if p.replayOf = good then p.replays + 1 else 1
  let p := { p with replays := k, replayOf := good, replay := p.replay.map fun f => { f with replayed := f.replayed + 1 } }
  let from_ : U64 := match p.replay with | e :: _ => e.seq | [] => p.txSeq
  let d := ((d.setPort n p).count (DC.flReplay + n) p.replay.length).send (.replayFrom n from_)
  let d := d.forAll p.replay Dev.missedHop
  if k ≥ 8 then d.updPort n fun p => { p with state := 1, retrainAt := some d.now, replays := 0 } else d

/-- A flit that cannot be accepted: it and every later one is discarded, and a NAK names the last good SEQ. -/
def Dev.nakPort (d : Dev) (n : Nat) : Dev := d.control n .nak

/-- A tag failure on a correct codeword; 16 within 1 ms put the port into tamper-down (R279). -/
def Dev.tagFailed (d : Dev) (n : Nat) : Dev :=
  let d := d.count (DC.flTagFail + n)
  let recent := (d.now :: (d.port n).tagFails.filter fun t => decide (d.since t < 1000000)).take 16
  let d := d.updPort n fun p => { p with tagFails := recent }
  if recent.length ≥ 16 then d.portDown n true else d.nakPort n

/-- The place of a virtual channel and a dateline class among the credits. -/
def creditIndex (vc : BitVec 2) (dl : Bool) : Nat := 2 * vc.toNat + (if dl then 1 else 0)

/-- A flit of a message leaves its receive buffer for the I/O ring, and its credit is owed to the sender (R280, R281; log 140). -/
def Port.takeIn (p : Port) (f : Flit) : Port := { p with owed := p.owed.modify (creditIndex f.vc f.dl) (· + 1) }

/-- A destination is this package (R283, R285). -/
def Dev.isMine (d : Dev) (dst : Byte) : Bool :=
  if dst.getLsbD 7 then dst.extractLsb' 0 7 == d.glob.node else d.sys.coordValid && fieldNat dst 5 0 == d.sys.position

/-- The last flit of a message has passed. One for this package is delivered as the command of its kind, which checks the channel; one for
another is passed on through the I/O ring once it is whole (DESIGN CHOICE, log 175), unless its kind is reserved or came on another channel
(R282, R284, R285, R287). -/
def Dev.endMessage (d : Dev) (n : Nat) (f : Flit) : Dev :=
  if d.isMine (headDst f.head) then d
  else if !kindOnVc (headKind f.head) f.vc then d.count DC.msgDiscard
  else d.send (.transit n f.dl f.vc f.head)

/-- A flit accepted in order. -/
def Dev.acceptFlit (d : Dev) (n : Nat) (f : Flit) : Dev :=
  let d := (d.updPort n fun p => { p.acked f.ack with rxSeq := p.rxSeq + 1 }).count (DC.flFlitRx + n)
  let d := if f.type = 1 ∨ f.type = 2 then d.updPort n fun p => p.takeIn f else d
  match f.type.toNat with
  | 0 => d.updPort n fun p => { p with credits := p.credits.zipWith (· + ·) f.credits }
  | 1 => d.updPort n fun p => { p with partials := if p.partials.contains f.message then p.partials else p.partials ++ [f.message] }
  | 2 => (d.updPort n fun p => { p with partials := p.partials.filter (· != f.message) }).endMessage n f
  | 3 => d.replayPort n f.nakSeq
  | _ => d

/-- FLIT_RECEIVE (R278, R279). A miswired port carries no message (R288). -/
def execFlitReceive (port : Nat) (f : Flit) (s : State) : Out := s.on fun d =>
  let p := d.port port
  if p.keyed ∧ (p.state = 3 ∨ (p.state = 4 ∧ f.type ≠ 1 ∧ f.type ≠ 2)) then
    if !f.fecOk then (d.count (DC.flFecUncorr + port)).nakPort port
    else if !f.tagOk then d.tagFailed port
    else if f.seq ≠ p.rxSeq.extractLsb' 0 12 then d
    else d.acceptFlit port f
  else d

/-! ### HELLO (R274, R288, R290, R293) -/

/-- HELLO_SEND: a keyed port sends one every 1 ms (R290). -/
def execHelloSend (port : Nat) (s : State) : Out := s.on fun d =>
  let p := d.port port
  if p.keyed ∧ (p.state = 3 ∨ p.state = 4) then d.control port .hello else d

/-- The port toward the primary gateway on the route table (R293). -/
def Dev.parentPort (d : Dev) : Option Nat :=
  let r := fieldNat (SMap.get (7 : Byte) d.sys.route d.sys.gwNode.toNat) 2 0
  if d.sys.primary ∨ r ≥ 6 then none else some r

/-- A HELLO from the parent is compared with this package's time: above 100 ns an error is counted, above 1 µs the time is stepped
at the next step boundary (R293). -/
def Dev.checkTime (d : Dev) (n : Nat) (tx : U64) : Dev :=
  if d.parentPort = some n ∧ d.sys.aligned then
    let off : U64 := tx + BitVec.ofNat 64 (d.port n).delay - d.now
    let err := off.toInt.natAbs
    let d := if err > 100 then d.count DC.timeErr else d
    if err > 1000 then { d with sys := { d.sys with reStep := some off } } else d
  else d

/-- A miswired port carries no traffic: what it held is injected again on another route (R287, R288). -/
def Dev.miswire (d : Dev) (n : Nat) : Dev :=
  ((d.reinject n).updPort n fun p => { p with state := 4, tx := [], partials := [], replay := p.replay.filter fun f => !f.carries }).send (.linkDown n)

/-- HELLO_RECEIVE: the heartbeat, the cabling rule, the highest lease epoch, the measure of the link and the time of the parent (R274, R288, R290,
R293). -/
def execHelloReceive (port : Nat) (h : Hello) (s : State) : Out := s.on fun d =>
  let p := d.port port
  if p.keyed ∧ (p.state = 3 ∨ p.state = 4) then
    let good := h.port = (if port % 2 = 0 then port + 1 else port - 1)
    let d := d.setPort port { p with helloAt := d.now, away := d.now - h.txTime, peerNode := h.node, peerPort := BitVec.ofNat 3 h.port
                                     state := if good then 3 else p.state }
    let d := { d with sys := { d.sys with highEpoch := if h.leaseEpoch.toNat > d.sys.highEpoch.toNat then h.leaseEpoch else d.sys.highEpoch } }
    let d := if good ∨ p.state = 4 then d else d.miswire port
    d.checkTime port h.txTime
  else d

/-- HELLO_TIMEOUT: 8 HELLO periods without a HELLO (R290). -/
def execHelloTimeout (port : Nat) (s : State) : Out := s.on fun d =>
  let p := d.port port
  if (p.state = 3 ∨ p.state = 4) ∧ d.since p.helloAt ≥ 8000000 then d.portDown port false else d

/-! ### Step data (R284) -/

/-- STEP_DATA_RECEIVE: the rows of a step wait in an ingress buffer; a reserved or other kind, or another channel, is discarded. -/
def execStepDataReceive (vc : BitVec 2) (kind : BitVec 4) (partition : Nat) (step : U48) (rows : List (BitVec 4096)) (s : State) : Out :=
  s.on fun d =>
  if kind = 0 ∧ (vc = 0 ∨ vc = 1) then { d with link := { d.link with ingress := d.link.ingress ++ [{ partition := partition, step := step, vc := vc, rows := rows }] } }
  else d.count DC.msgDiscard

/-! ### One-sided writes (R299 to R302) -/

/-- The first check of R300 that a window write fails. -/
def Window.check (w : Window) (m : WinWrite) : Byte :=
  if !w.isOpen ∨ m.epoch ≠ w.epoch then St.windowClosed
  else if m.partition ≠ w.partition then St.notPermitted
  else if 64 * m.offset.toNat + m.body.length > 16384 * w.blocks then St.fieldInvalid
  else St.success

/-- WINDOW_WRITE_RECEIVE at the target: written whole, or discarded; the acknowledgement carries the status (R284, R300). -/
def execWindowWriteReceive (x : OnChannel WinWrite) (s : State) : Out := s.onChannel 1 x.vc fun d =>
  let m := x.msg
  let w := d.window m.windowId.toNat
  let st := w.check m
  let d := if st = St.success then
      (d.unitWrite w.partition (16384 * w.base.toNat + 64 * m.offset.toNat) m.body).count DC.winWriteRx |>.count DC.stackBytesB (ceilDiv m.body.length 64)
    else if st = St.windowClosed then d.count DC.winClosedRx
    else d
  d.send (.windowAck m.src m.windowId m.xfer w.epoch st)

/-- A transfer of this package completes with a status; where it belongs to an operator, the lead learns of one other than SUCCESS (R302). -/
def Dev.endTransfer (d : Dev) (sel : Transfer → Bool) (status : Byte) : Dev :=
  let d := d.forAll (d.link.transfers.filter sel) fun d t => match t.step with
    | some no => if status = St.success then d else d.reportOp t.partition no [] (some status)
    | none => d
  { d with link := { d.link with transfers := d.link.transfers.map fun t => if sel t then { t with done := some status } else t } }

/-- WINDOW_ACK_RECEIVE (R284, R302). -/
def execWindowAckReceive (windowId : OnChannel (BitVec 12)) (xfer : BitVec 12) (_epoch : U16) (status : Byte) (s : State) : Out :=
  s.onChannel 2 windowId.vc fun d =>
  let sel := fun (t : Transfer) => t.xfer == xfer && t.windowId == windowId.msg && t.done.isNone
  if d.link.transfers.any sel then
    let d := d.endTransfer sel status
    if status = St.windowClosed then d.count DC.winClosedTx else d
  else d

/-- WINDOW_WRITE_TIMEOUT: no acknowledgement within 10 ms (R302). -/
def execWindowWriteTimeout (xfer : BitVec 12) (s : State) : Out := s.on fun d =>
  let sel := fun (t : Transfer) => t.xfer == xfer && t.done.isNone && decide (d.since t.sentAt ≥ 10000000)
  if d.link.transfers.any sel then (d.endTransfer sel St.windowClosed).count DC.winTimeout else d

end Sys2Proof.Machine
end

