-- ==== Sys2Proof/Machine/Routes.lean ====
section
/-! DEFINITION. Where packages lie and how a message reaches them: positions, the cabling as collected, route tables and their check, pushes,
and the walk of formation (R285 to R292, R305). -/

namespace Sys2Proof.Machine

/-! ### Positions (R274, R286, R291) -/

/-- The logical size is one of the four of R291. -/
def Dev.sizeOk (d : Dev) : Bool :=
  let s := (d.xm1, d.ym1, d.zm1)
  s == (0, 0, 0) || s == (3, 3, 0) || s == (3, 3, 1) || s == (3, 3, 3)

/-- The logical size along an axis, and the coordinate of a position on it. -/
def Dev.axisSize (d : Dev) (axis : Nat) : Nat := (if axis = 0 then d.xm1 else if axis = 1 then d.ym1 else d.zm1) + 1
def coordOf (pos axis : Nat) : Nat := if axis = 0 then pos % 4 else if axis = 1 then pos / 4 % 4 else pos / 16 % 4
def withCoord (pos axis c : Nat) : Nat := pos + c * 4 ^ axis - coordOf pos axis * 4 ^ axis

/-- The position one step through port `k`; none where that leaves the logical size. -/
def Dev.stepPos (d : Dev) (pos k : Nat) : Option Nat :=
  let axis := k / 2
  let n := d.axisSize axis
  if n = 1 then none
  else some (withCoord pos axis ((coordOf pos axis + (if k % 2 = 0 then 1 else n - 1)) % n))

/-- The port toward a position in dimension order, X then Y then Z, by the minimal direction, a tie toward + (R286). -/
def Dev.orderPort (d : Dev) (src dst : Nat) : Nat :=
  let go := fun (axis : Nat) =>
    let n := d.axisSize axis
    let f := (coordOf dst axis + n - coordOf src axis) % n
    if f = 0 then none else some (2 * axis + if 2 * f ≤ n then 0 else 1)
  match go 0, go 1, go 2 with
  | some k, _, _ => k
  | none, some k, _ => k
  | none, none, some k => k
  | none, none, none => 6

/-- Every position on the dimension-order way is held. -/
def Dev.wayOk (d : Dev) (held : List Nat) (dst : Nat) : Nat → Nat → Bool
  | 0, _ => false
  | fuel + 1, src =>
    if src = dst then true
    else match d.stepPos src (d.orderPort src dst) with
      | some n => held.contains n && d.wayOk held dst fuel n
      | none => false

/-- The positions of the logical size. -/
def Dev.positions (d : Dev) : List Nat :=
  (List.range 64).filter fun pos => (List.range 3).all fun axis => decide (coordOf pos axis < d.axisSize axis)

/-- The jobs that have a position among their members. -/
def Dev.jobsAt (d : Dev) (pos : Nat) : List Nat :=
  (d.sys.jobs.map Prod.fst).filter fun p => (d.jobSetup p).valid && (d.members p).contains pos

/-! ### The cabling and its state (R292, R305, R306) -/

/-- The package at the far end of a port, and its port. -/
def farNode (rs : List TopoReport) (n : BitVec 7) (k : Nat) : Option (BitVec 7 × Nat) :=
  (rs.find? (fun r => r.node == n)).bind fun r => (r.far.find? (fun e => e.1 == k)).map (·.2)

/-- The link from port `k` of `n` to port `j` of `m` carries routes: neither end is reported down or lost (R305, R306). -/
def Dev.linkOk (d : Dev) (n : BitVec 7) (k : Nat) (m : BitVec 7) (j : Nat) : Bool :=
  !d.sys.broken.contains (n, k) && !d.sys.broken.contains (m, j) && !d.sys.gone.contains n && !d.sys.gone.contains m

/-- The packages one hop from `n`, by port. -/
def Dev.nextTo (d : Dev) (n : BitVec 7) : List (Nat × BitVec 7) :=
  (List.range 6).filterMap fun k => (farNode d.sys.topo n k).bind fun e => if d.linkOk n k e.1 e.2 then some (k, e.1) else none

/-- Hops to a package from the packages in front; none: it is out of reach. -/
def Dev.hops (d : Dev) (dst : BitVec 7) : Nat → List (BitVec 7) → List (BitVec 7) → Option Nat
  | 0, _, _ => none
  | fuel + 1, seen, front =>
    if front.contains dst then some 0
    else
      let new := (front.flatMap fun n => (d.nextTo n).map Prod.snd).eraseDups.filter fun n => !seen.contains n
      if new.isEmpty then none else (d.hops dst fuel (seen ++ new) new).map (· + 1)

/-- Present positions other than the own one that no link still up leads to (R306). -/
def Dev.outOfReach (d : Dev) : List Nat :=
  (List.range 64).filter fun pos => d.present pos && d.nodeAt pos != d.glob.node && (d.hops (d.nodeAt pos) 128 [d.glob.node] [d.glob.node]).isNone

/-- Since when each position has been out of reach is kept up to date (R306). -/
def Dev.noteReach (d : Dev) : Dev :=
  { d with sys := { d.sys with unreached := d.outOfReach.map fun pos => (pos, match d.sys.unreached.find? fun e => e.1 == pos with
      | some e => e.2
      | none => d.now) } }

/-- A port is reported down, and what that puts out of reach is noted (R306). -/
def Dev.breakLink (d : Dev) (node : BitVec 7) (port : Nat) : Dev :=
  { d with sys := { d.sys with broken := if d.sys.broken.contains (node, port) then d.sys.broken else d.sys.broken ++ [(node, port)] } }.noteReach

/-- The links of a package that has come back count again (R312). -/
def Dev.mendLinks (d : Dev) (node : BitVec 7) : Dev :=
  let near := fun (e : BitVec 7 × Nat) => e.1 == node || (match farNode d.sys.topo e.1 e.2 with | some f => f.1 == node | none => false)
  { d with sys := { d.sys with broken := d.sys.broken.filter fun e => !near e, gone := d.sys.gone.filter (· != node) } }.noteReach

/-! ### Route tables (R285, R286, R305) -/

/-- A channel of a way: the package it leaves, the port, and the dateline class (R286). -/
abbrev Channel := BitVec 7 × Nat × Bool

/-- The port that the tables of the system, the latest first, give a package for a destination; 7: unreachable. -/
def tablePort (tables : List (BitVec 7 × List (Nat × BitVec 8))) (n dst : BitVec 7) : Nat :=
  match (tables.filter fun t => t.1 == n).findSome? fun t => t.2.find? fun e => e.1 == dst.toNat with
  | some e => fieldNat e.2 2 0
  | none => 7

/-- Port `k` of a package leaves on the wrap link of its axis, between coordinates 3 and 0 (R286). -/
def Dev.wraps (d : Dev) (n : BitVec 7) (k : Nat) : Bool :=
  match d.posOf n with
  | some pos => d.axisSize (k / 2) == 4 && coordOf pos (k / 2) == (if k % 2 = 0 then 3 else 0)
  | none => false

/-- The channels from a package to a destination by route tables; none: the way does not arrive over links that are up. The class is 1
after the wrap link of an axis, until the message turns into another (R286). -/
def Dev.wayOf (d : Dev) (tables : List (BitVec 7 × List (Nat × BitVec 8))) (dst : BitVec 7) :
    Nat → BitVec 7 → Nat → Bool → Option (List Channel)
  | 0, _, _, _ => none
  | fuel + 1, n, axis, cls =>
    if n = dst then some []
    else
      let k := tablePort tables n dst
      match farNode d.sys.topo n k with
      | none => none
      | some e =>
        if d.linkOk n k e.1 e.2 then
          let cls := cls && axis == k / 2
          (d.wayOf tables dst fuel e.1 (k / 2) (cls || d.wraps e.1 e.2)).map ((n, k, cls) :: ·)
        else none

/-- No chain of dependencies closes: what leads nowhere is taken away until nothing is left. -/
def acyclic : Nat → List (Channel × Channel) → Bool
  | 0, es => es.isEmpty
  | fuel + 1, es => es.isEmpty || acyclic fuel (es.filter fun e => es.any fun f => f.1 == e.2)

/-- Every package and every other, the primary's own among them. -/
def Dev.pairs (d : Dev) : List (BitVec 7 × BitVec 7) :=
  let ns := d.glob.node :: d.packages
  ns.flatMap fun a => (ns.filter (· != a)).map fun b => (a, b)

/-- What the gateway verifies before it pushes a route set: every way arrives over links that are up or is marked unreachable, and
the channel dependencies are acyclic (R286, R305). -/
def Dev.routeSetOk (d : Dev) (tables : List (BitVec 7 × List (Nat × BitVec 8))) : Bool :=
  let ways := d.pairs.map fun x => (x, d.wayOf tables x.2 128 x.1 3 false)
  let deps := (ways.flatMap fun w => match w.2 with | some cs => cs.zip (cs.drop 1) | none => []).eraseDups
  (ways.all fun w => w.2.isSome || tablePort tables w.1.1 w.1.2 == 7) && acyclic deps.length deps

/-- The jobs that have a route between two of their members changed (R305). -/
def Dev.jobsRerouted (d : Dev) (old new : List (BitVec 7 × List (Nat × BitVec 8))) : List Nat :=
  (d.sys.jobs.map Prod.fst).filter fun p => (d.jobSetup p).valid &&
    let ns := ((d.members p).filter d.present).map d.nodeAt
    ns.any fun a => ns.any fun b => d.wayOf old b 128 a 3 false != d.wayOf new b 128 a 3 false

/-- A route entry with DETOUR where it leaves the dimension order (R286). -/
def Dev.markEntry (d : Dev) (n : BitVec 7) (e : Nat × BitVec 8) : Nat × BitVec 8 :=
  let k := fieldNat e.2 2 0
  match d.posOf n, d.posOf (BitVec.ofNat 7 e.1) with
  | some src, some dst => (e.1, if k < 6 && k != d.orderPort src dst then BitVec.ofNat 8 (8 + k) else BitVec.ofNat 8 k)
  | _, _ => (e.1, BitVec.ofNat 8 k)

/-- The tables of a route set as they are pushed. -/
def Dev.marked (d : Dev) (x : RouteSet) : List (BitVec 7 × List (Nat × BitVec 8)) := x.tables.map fun t => (t.1, t.2.map (d.markEntry t.1))

/-- The route table of the package at `src`: by node, the output port (R285, R286). A way over an absent position is left
unreachable, and a spare is reached through a package it is cabled to (log 70). -/
def Dev.routesOf (d : Dev) (rs : List TopoReport) (seen : List (BitVec 7 × Nat)) (src : Nat) : List (Nat × BitVec 8) :=
  let held := seen.map Prod.snd
  let to_ := fun (dst : Nat) => if d.wayOk held dst 8 src then d.orderPort src dst else 7
  let own := seen.map fun x => (x.1.toNat, BitVec.ofNat 8 (to_ x.2))
  let spare := (rs.filter (·.spare)).filterMap fun sp =>
    (seen.findSome? fun x => match rs.find? (fun r => r.node == x.1) with
      | none => none
      | some r => (r.far.find? fun e => e.2.1 == sp.node).map fun e => (x.2, e.1)).map fun hk =>
        (sp.node.toNat, BitVec.ofNat 8 (if hk.1 = src then hk.2 else to_ hk.1))
  own ++ spare

/-- The route table of a spare: by node, the port that begins a shortest way (log 70). -/
def Dev.spareRoutes (d : Dev) (sp : BitVec 7) : List (Nat × BitVec 8) :=
  d.sys.topo.map fun r =>
    if r.node == sp then (r.node.toNat, 6)
    else
      let ways := (d.nextTo sp).filterMap fun e => (d.hops r.node 128 [sp, e.2] [e.2]).map fun h => (e.1, h)
      let best := ways.foldl (fun b e => match b with
        | none => some e
        | some c => if e.2 < c.2 then some e else some c) (none : Option (Nat × Nat))
      (r.node.toNat, match best with | some e => BitVec.ofNat 8 e.1 | none => 7)

/-- Writes a position map and a route table (R285). -/
def Dev.applyMaps (d : Dev) (posMap routes : List (Nat × BitVec 8)) : Dev :=
  { d with sys := { d.sys with
      posMap := posMap.foldl (fun m e => SMap.put (0 : Byte) m (e.1 % 64) e.2) d.sys.posMap
      route := routes.foldl (fun m e => SMap.put (7 : Byte) m (e.1 % 128) (e.2 &&& 0x0F)) d.sys.route } }

/-- The table with every entry unreachable that `out` names. -/
def without (out : BitVec 7 → Bool) (tables : List (BitVec 7 × List (Nat × BitVec 8))) : List (BitVec 7 × List (Nat × BitVec 8)) :=
  tables.map fun t => (t.1, t.2.map fun e => if out (BitVec.ofNat 7 e.1) && fieldNat e.2 2 0 < 6 then (e.1, 7) else e)

/-- The first route set that passes the check: the whole one, the one that leaves the spares unreachable, or the one that leaves every package so
(R286; DEDUCED, log 70). -/
def Dev.passing (d : Dev) (tables : List (BitVec 7 × List (Nat × BitVec 8))) : List (BitVec 7 × List (Nat × BitVec 8)) :=
  let spare := fun (n : BitVec 7) => d.sys.topo.any fun r => r.node == n && r.spare
  if d.routeSetOk tables then tables
  else if d.routeSetOk (without spare tables) then without spare tables
  else without (fun _ => true) tables

/-! ### Pushes (R285, R289, R305) -/

/-- The links to packages whose node IDs collide are held down; any other link held so far is let go (R289). -/
def Dev.holdLinks (d : Dev) (collide : List (BitVec 7)) : Dev :=
  d.forAll (List.range 6) fun d k =>
    let p := d.port k
    if collide.contains p.peerNode && (p.state != 0 || p.heldDown) then (d.portDown k false).updPort k fun p => { p with heldDown := true }
    else if p.heldDown then d.setPort k { p with heldDown := false } else d

/-- A push waits for its activation; the jobs it names hold where this package leads them (R305). -/
def Dev.takePush (d : Dev) (p : RoutePush) : Dev :=
  { d with sys := { d.sys with push := d.sys.push ++ [p], holding := d.sys.holding ++ p.jobs.filter d.isLead } }

/-- ROUTE_PUSH_RECEIVE, a RECOVERY message (R284, R305). -/
def execRoutePushReceive (p : OnChannel RoutePush) (s : State) : Out := s.onChannel 2 p.vc fun d => d.takePush p.msg

/-- A push takes effect (R285, R289, R305); it also tells which package is the standby in sync (R296; log 176). -/
def Dev.applyPush (d : Dev) (p : RoutePush) : Dev :=
  let d := d.applyMaps p.posMap p.routes
  let d := { d with sys := { d.sys with standbyKnown := p.standby } }
  if p.topo.isEmpty then d else { d with sys := { d.sys with topo := p.topo } }.holdLinks p.collide

/-- The activation of a push: at least 2 ms ahead (R305). -/
def Dev.activationOf (d : Dev) (t : U64) : U64 :=
  let least : U64 := d.now + 2000000
  if t.toNat < least.toNat then least else t

/-- The standby's node and whether the host has named one (R313). -/
def Dev.standbyNode (d : Dev) : Option (BitVec 7) :=
  if d.fld Off.sysGwCtl 7 7 = 1 then some ((d.reg Off.sysGwCtl).extractLsb' 0 7) else none

/-- The standby in sync that a push names. -/
def Dev.standbyNamed (d : Dev) : Option (BitVec 7 × Nat) :=
  if d.sys.standbySync then d.standbyNode.map fun n => (n, (d.hops n 128 [d.glob.node] [d.glob.node]).getD 0) else none

/-- The primary pushes to each package what `p` gives it, and takes its own itself (R305). -/
def Dev.pushRoutes (d : Dev) (p : BitVec 7 → RoutePush) : Dev :=
  (d.forAll d.packages fun d n => d.send (.routePush n { p n with standby := d.standbyNamed })).takePush
    { p d.glob.node with standby := d.standbyNamed }

/-- A push of nothing but which package is the standby (R296; log 176). -/
def Dev.pushStandby (d : Dev) : Dev :=
  d.pushRoutes fun _ => { activation := d.activationOf 0, jobs := [], posMap := [], routes := [], topo := [], collide := [], standby := none }

/-! ### The walk of formation (R289, R291, R292) -/

/-- The far end of port `k` of a package, spares passed through along the same axis. A package that has not answered, or whose ID collides, is not
met (R289, R292). -/
def farEnd (rs : List TopoReport) : Nat → BitVec 7 → Nat → Option (BitVec 7)
  | 0, _, _ => none
  | fuel + 1, node, k =>
    match farNode rs node k with
    | none => none
    | some e => match rs.find? fun r => r.node == e.1 with
      | none => none
      | some r => if r.spare then farEnd rs fuel e.1 k else some e.1

/-- One round of the walk: the packages next to those seen, and the packages found outside the logical size. -/
def Dev.walkRound (d : Dev) (rs : List TopoReport) (seen : List (BitVec 7 × Nat)) : List (BitVec 7 × Nat) × List (BitVec 7) :=
  let steps := seen.flatMap fun x => (List.range 6).filterMap fun k => (farEnd rs 9 x.1 k).map fun n => (n, x.1, d.stepPos x.2 k)
  ((seen ++ steps.filterMap fun e => e.2.2.map fun pos => (e.1, pos)).eraseDups,
   (steps.filter fun e => e.2.2.isNone && e.1 != e.2.1).map Prod.fst)

/-- The walk from the primary at position 0. -/
def Dev.walk (d : Dev) (rs : List TopoReport) : Nat → List (BitVec 7 × Nat) → List (BitVec 7 × Nat) × List (BitVec 7)
  | 0, seen => (seen, [])
  | fuel + 1, seen =>
    let r := d.walkRound rs seen
    if r.1.length = seen.length then (seen, r.2) else d.walk rs fuel r.1

/-- What formation finds wrong: FORM_ERR, 0 for nothing (R291, R292, R313). -/
def Dev.formError (d : Dev) (rs : List TopoReport) (seen : List (BitVec 7 × Nat)) (outside : List (BitVec 7)) : BitVec 3 :=
  let twice := seen.any fun x => seen.any fun y => x != y && (x.2 == y.2 || x.1 == y.1)
  if !d.sizeOk then 1
  else if (rs.filter fun r => r.node == d.glob.node).length ≠ 1 then 2
  else if twice then 3
  else if !outside.isEmpty || rs.any (fun r => !r.spare && !seen.any (fun x => x.1 == r.node)) then 4
  else 0

end Sys2Proof.Machine
end

