-- ==== Sys2Proof/Machine/Standby.lean ====
section
/-! DEFINITION. The standby gateway: what the primary tells it and waits for, and what it keeps (R296, R297). -/

namespace Sys2Proof.Machine

/-! ### The primary's side (R296) -/

/-- The origin under which an outstanding command completes. -/
def Outstanding.origin (o : Outstanding) : Origin := { queue := o.queue, sqHead := o.sqHead, tag := o.tag, partition := o.partition }

/-- What was held for the standby goes on its way; a command that has been completed meanwhile goes nowhere (R265). -/
def Dev.releaseItem (d : Dev) (i : StandbyItem) : Dev :=
  match i with
  | .context => d
  | .command pos c =>
    let o := c.origin
    if d.host.outstanding.any fun x => x.queue == o.queue && x.tag == o.tag && x.sqHead == o.sqHead then d.passTo pos c else d
  | .write m => d.applyHostWrite m

/-- The primary continues without its standby: what was held goes on its way, and the flag is cleared here, at the standby as far as it can be
reached, and among the packages that push to it (R296; log 176). -/
def Dev.dropStandby (d : Dev) : Dev :=
  if d.sys.standbySync then
    let held := d.sys.standbyHeld
    let d := d.send (.hostWrite (.standbySync false))
    ({ d with sys := { d.sys with standbySync := false, standbyHeld := [] } }.forAll held Dev.releaseItem).pushStandby
  else d

/-- STANDBY_ACK_RECEIVE: the oldest change held is acknowledged. -/
def execStandbyAckReceive (s : State) : Out := s.on fun d =>
  match d.sys.standbyHeld with
  | [] => d
  | i :: rest => { d with sys := { d.sys with standbyHeld := rest } }.releaseItem i

/-- A package can be the standby: a member of the system whose CXL link was active when it answered the topology request, and reachable (R296;
log 176). -/
def Dev.mayStandBy (d : Dev) (n : BitVec 7) : Bool :=
  n != d.glob.node && !d.sys.gone.contains n && d.sys.topo.any (fun r => r.node == n && r.gwCapable)
    && decide (fieldNat (SMap.get (7 : Byte) d.sys.route n.toNat) 2 0 < 6)

/-- The keys of every context. -/
def Dev.contextKeys (d : Dev) : List Nat :=
  (d.host.queues.filter fun e => e.2.isSome).map Prod.fst ++ (d.host.rings.filter fun e => e.2.isSome).map fun e => ctxKey true e.1

/-- STANDBY_RESYNC: every context is copied in class C to the standby, which is reachable again; then STANDBY_SYNC is set (R296). -/
def execStandbyResync (s : State) : Out := s.on fun d =>
  match d.standbyNode with
  | some n =>
    if d.sys.primary ∧ !d.sys.standbySync ∧ d.mayStandBy n then
      let ks := d.contextKeys
      let d := (d.forAll ks fun d k => d.send (.hostWrite (.context k (d.ctxWord k)))).count DC.stackBytesC (ceilDiv (32 * ks.length) 64)
      ({ d with sys := { d.sys with standbySync := true } }.send (.hostWrite (.standbySync true))).pushStandby
    else d
  | none => d

/-! ### The standby's side (R296, R297) -/

/-- A queue-pair context read back from its 256 bits. What the gateway keeps beside it stays as it was; where there was none, nothing has been
rung. -/
def QCtx.ofWord (w : BitVec 256) (old : Option QCtx) : QCtx :=
  let head : U16 := w.extractLsb' 192 16
  let tail : BitVec 18 := w.extractLsb' 208 18
  { sqBase := w.extractLsb' 0 64, cqBase := w.extractLsb' 64 64, sqLog2 := fieldNat w 132 128, cqLog2 := fieldNat w 137 133
    vector := w.extractLsb' 138 11, irqEn := w.getLsbD 149, pin := w.getLsbD 150, coalCount := w.extractLsb' 152 8
    coalTime := w.extractLsb' 160 8, halted := w.getLsbD 168, sqHead := head, cqTail := tail, cqPhase := w.getLsbD 226
    sqTail := (old.map (·.sqTail)).getD head, cqHead := (old.map (·.cqHead)).getD tail, owed := (old.map (·.owed)).getD 0
    unsignalled := (old.map (·.unsignalled)).getD 0, firstUnsignalled := (old.map (·.firstUnsignalled)).getD 0 }

/-- An output-ring context read back. -/
def RCtx.ofWord (w : BitVec 256) : RCtx :=
  { base := w.extractLsb' 0 64, log2 := fieldNat w 68 64, vector := w.extractLsb' 69 11, irqMode := w.extractLsb' 80 2, w := w.extractLsb' 128 32 }

/-- The standby keeps a context, whose doorbell record it has not read (log 16). -/
def Dev.keepContext (d : Dev) (key : Nat) (w : Option (BitVec 256)) : Dev :=
  let d := if key < 262144 then
      { d.setQueue key (w.map fun w => QCtx.ofWord w (d.queue key)) with
        host := { (d.setQueue key (w.map fun w => QCtx.ofWord w (d.queue key))).host with doorbells := SMap.put 0 d.host.doorbells key (BitVec.allOnes 64) } }
    else d.setRing (key - 262144) (w.map RCtx.ofWord)
  d.storeCtx key

/-- What the primary sends its standby changes the standby's contexts, mirror and outstanding commands as it changes the primary's, and nothing in
host memory (R296, R297). -/
def Dev.shadow (d : Dev) (m : HostWriteMsg) : Dev :=
  match m with
  | .context key w => { d with sys := { d.sys with standby := true } }.keepContext key w
  | .standbySync on => { d with sys := { d.sys with standby := on, standbySync := on } }
  | .mirror slot w => { d with host := { d.host with mirror := SMap.put 0 d.host.mirror slot w } }
  | .forwarded o op ring a =>
    let x : Outstanding := { queue := o.queue, tag := o.tag, opcode := op, partition := o.partition, handle := none, ring := ring,
                             admitAddr := a, sqHead := o.sqHead }
    if d.host.outstanding.contains x then d else { d with host := { d.host with outstanding := d.host.outstanding ++ [x] } }
  | .admission q sq tag _ w => d.noteAdmitted q sq tag (w.extractLsb' 0 32)
  | .completion q w =>
    let d := match d.host.outstanding.find? (·.answeredBy q w) with
      | some o => { d with host := { d.host with outstanding := d.host.outstanding.erase o } }
      | none => d
    match d.queue q with
    | some x => (d.setQueue q (some (x.written d.now))).storeCtx q
    | none => d
  | .record r _ _ => match d.ring r with
    | some x => (d.setRing r (some { x with w := x.w + 1 })).storeCtx (ctxKey true r)
    | none => d
  | .buffer .. | .partResetDone .. | .rejoin .. | .packTaken .. => d

end Sys2Proof.Machine
end

