-- ==== Sys2Proof/Machine/System.lean ====
section
/-! DEFINITION. The system of packages: formation, device time, lease and takeover, jobs, loss of a position, spares, fencing and
rejoining, and BULK messages (R284 to R312). -/

namespace Sys2Proof.Machine

/-! ### Work that ends at once (R309, R311) -/

/-- What a tile was computing for a step is dropped; its restore, its programming and its test go on. -/
def Tile.abandon (t : Tile) : Tile := { t with edge := none, evals := [], owed := [], settling := [], samples := [] }

/-- An operation of job `p` that runs on a half stays there until it completes, and its result is discarded (R148, R309). -/
def DahliaOp.orphan (p : Nat) (o : DahliaOp) : DahliaOp := if o.partition = p then { o with kind := .operator 0 } else o

/-- The work in progress of job `p` on this package is abandoned: its steps, sequencers and evaluations; what its lead had
received and not applied is discarded, and nothing waits for its boundary any longer (R24, R26, R309, R311, R401; log 68). -/
def Dev.abandonJob (d : Dev) (p : Nat) : Dev :=
  let d := d.forAll (d.partClusters p) fun d c => d.updCluster c fun x => { x with sequencer := Seq.idle, arrivals := [] }
  let d := d.forAll (d.partTiles p) fun d k => ((d.updTile k Tile.abandon).rehold k).unwait k 1
  let d := { d with engine := { d.engine with
      halves := SMap.mapVals none (fun _ o => o.map (DahliaOp.orphan p)) d.engine.halves
      waiting := d.engine.waiting.filter fun o => o.partition != p
      standInputs := d.engine.standInputs.filter fun x => d.clusterOwner (x.1 / 64) != some p
      attention := d.engine.attention.filter fun a => (d.req (slotOf a.handle)).partition != p
      logits := d.engine.logits.filter fun x => x.partition != p
      logitsWait := d.engine.logitsWait.filter fun x => x.partition != p }
                    link := { d.link with ingress := d.link.ingress.filter fun e => e.partition != p } }
  let d := (d.stepOver p).updJob p fun j =>
    { j with inFlight := [], descs := [], promised := [], replay := none, fox := [], cmds := [], operators := [], lookups := [],
             queries := [], drain := none, loading := none, calibrates := [] }
  d.jobOut p

/-- A request ends LOST at its lead, where the gateway has written its record and its completion (R178, R312). -/
def Dev.quietLost (d : Dev) (slot : Nat) : Dev :=
  let r := d.req slot
  if r.state.live then
    let d := (d.setReq slot { r with state := .lost, reason := 8, endedAt := d.us, inflight := 0, slotValid := false }).mirrorOut r.partition slot
    let d := if r.graftValid then d.unbindGraft r.graftId r.graftVer else d
    let d := d.updJob r.partition fun j => { j with changes := j.changes ++ [.free slot] ++ (if r.slotValid then [.release r.slot] else []) }
    d.count DC.reqLost
  else d

/-! ### Jobs (R298, R309) -/

/-- SYS_JOB as a word. -/
def JobSetup.word (x : JobSetup) : U32 :=
  BitVec.ofBool x.valid ++ BitVec.ofBool x.active ++ BitVec.ofBool x.stopped ++ (0 : BitVec 17) ++ x.shape

/-- The primary pushes a job to its members. -/
def Dev.pushJob (d : Dev) (p : Nat) : Dev := d.toMembers p fun pos => .jobPush (BitVec.ofNat 8 pos) p (d.jobSetup p).word

/-- Some request of the partition is not FREE: here, or by the mirror of any member (R298). -/
def Dev.jobHasRequests (d : Dev) (p : Nat) : Bool :=
  !(d.usedSlots p).isEmpty || d.host.mirror.any fun e => fieldNat e.2 3 0 != 0 && fieldNat e.2 11 6 == p

/-- A SYS_JOB word with VALID set can be accepted: PART_CFG of its partition is VALID, every extent fits and every member is present (R298,
R401). -/
def Dev.jobFits (d : Dev) (p : Nat) (w : U32) : Bool :=
  let x : JobSetup := { valid := true, active := true, stopped := false, shape := w.extractLsb' 0 12 }
  let d' := d.setJobSetup p x
  (d.partAcc p).cfg.getLsbD 63 && decide (fieldNat w 7 6 ≤ d.xm1) && decide (fieldNat w 9 8 ≤ d.ym1) && decide (fieldNat w 11 10 ≤ d.zm1) && d.sys.formed
    && (d'.members p).all fun pos => d.present pos

/-- A write of SYS_JOB `n` (R298). -/
def Dev.writeJob (d : Dev) (n : Nat) (w : U32) : Dev :=
  if !d.sys.primary ∨ n ≥ 64 then d
  else if d.jobHasRequests n then d.count DC.jobIgnored
  else if w.getLsbD 31 then
    (if d.jobFits n w then
      (((d.setJobSetup n { valid := true, active := true, stopped := false, shape := w.extractLsb' 0 12 }).pushJob n).reportBanks n).askBanks n
    else d)
  else
    let d' := d.setJobSetup n { JobSetup.none with shape := w.extractLsb' 0 12 }
    d.toMembers n (fun pos => .jobPush (BitVec.ofNat 8 pos) n 0) |>.setJobSetup n (d'.jobSetup n)

/-- SYS_JOB_WRITE (R298). -/
def execSysJobWrite (n : Nat) (w : U32) (s : State) : Out := s.on fun d => if d.rst.phase = .ready then d.writeJob n w else d

/-- The copy of this device's replica form starts again once its job resumes, where the −X neighbour holds none (R308). -/
def Dev.resumeReplica (d : Dev) (p : Nat) : Dev :=
  if d.isMember p ∧ (d.commit p).bank.isSome ∧ !(d.replica p).ownValid ∧ !(d.replica p).ownNone then d.startReplica p else d

/-- JOB_PUSH_RECEIVE: the member takes up the job. When the push sets STOPPED, its requests are LOST and its work is abandoned
(R298, R309); MGMT (R284; DEDUCED, log 177). When it clears STOPPED, the copy of its replica form starts where a spare waits for it (R308). The lead learns what the members'
banks hold (R330). -/
def execJobPushReceive (n : OnChannel Nat) (w : U32) (s : State) : Out := s.onChannel 3 n.vc fun d =>
  let n := n.msg
  if n < 64 then
    let old := d.jobSetup n
    let d := d.setJobSetup n { valid := w.getLsbD 31, active := w.getLsbD 30, stopped := w.getLsbD 29, shape := w.extractLsb' 0 12 }
    if w.getLsbD 29 && !old.stopped then
      let d := d.forAll (d.usedSlots n) fun d s => if d.isLead n then d.quietLost s else d
      d.abandonJob n
    else
      let d := if old.stopped && !w.getLsbD 29 then d.resumeReplica n else d
      (d.reportBanks n).askBanks n
  else d

/-- The gateway ends LOST a request of another lead: final record, mirror, completion (R178, R265, R268). -/
def Dev.gatewayLost (d : Dev) (o : Outstanding) (h : U32) : Dev :=
  let m := SMap.get (0 : BitVec 128) d.host.mirror (slotOf h)
  let delivered : BitVec 20 := m.extractLsb' 46 20
  let d := d.hostWrite (.record o.ring true (recordWord false 8 false true (delivered.setWidth 16) 0 0))
  let d := d.hostWrite (.mirror (slotOf h) ((m.extractLsb' 4 124) ++ ReqState.lost.code))
  d.hostWrite (.completion o.queue (completionWord false o.queue 0 8 ReqState.lost.code delivered 0x01 St.success o.sqHead h o.tag))

/-- The primary declares STOPPED: every command of the job that it has forwarded completes (R265, R309). -/
def Dev.stopJob (d : Dev) (p : Nat) : Dev :=
  if (d.jobSetup p).stopped then d
  else
    let lead := d.isLead p
    let d := d.setJobSetup p { d.jobSetup p with stopped := true }
    let d := if lead then d.forAll (d.usedSlots p) Dev.loseRequest else d
    let d := d.forAll (d.host.outstanding.filter fun o => o.partition == p) fun d o =>
      match o.handle with
      | some h => if lead then d else d.gatewayLost o h
      | none => d.complete o.origin o.opcode St.jobStopped 0
    let d := if d.isMember p then d.abandonJob p else d
    d.pushJob p

/-- STOPPED clears when every member is present again and every spare among them has reported its commit (R308, R309). -/
def Dev.clearStops (d : Dev) : Dev :=
  if d.sys.primary then
    d.forAll (d.sys.jobs.map Prod.fst) fun d p =>
      if (d.jobSetup p).stopped && (d.members p).all d.present && !d.sys.awaiting.any (fun a => a.1 == p) then
        ((d.setJobSetup p { d.jobSetup p with stopped := false }).pushJob p).resumeReplica p
      else d
  else d

/-- A member's commit report reaches the primary gateway, which keeps the job's version: its spare, or its package that came back with another
version, serves (R308, R312). -/
def Dev.spareCommitted (d : Dev) (p m : Nat) (version : U32) (status : Byte) : Dev :=
  if status = 0 then
    { d with sys := { d.sys with versions := if d.sys.primary then SMap.put 0 d.sys.versions p version else d.sys.versions
                                 awaiting := d.sys.awaiting.filter fun a => !(a.1 == p && (d.members p)[m]? == some a.2) } }.clearStops
  else d

/-! ### Formation (R286, R289, R292) -/

/-- What a package answers to the topology request: its node, its strap and the far ends of its ports (R292). -/
def Dev.topoReport (d : Dev) : TopoReport :=
  { node := d.glob.node, spare := d.glob.spareStrap, gwCapable := d.glob.cxlActive,
    far := (List.range 6).filterMap fun k =>
      let p := d.port k
      if p.state = 3 then some (k, p.peerNode, p.peerPort.toNat) else none }

/-- TOPOLOGY_REQUEST_RECEIVE: the package answers, and passes the request on once; one that comes again within the 5 ms of the collection is the
same request (R292; DESIGN CHOICE, log 178). -/
def execTopologyRequestReceive (s : State) : Out := s.on fun d =>
  if (match d.sys.topoAt with | some t => decide (d.since t < 5000000) | none => false) then d
  else ({ d with sys := { d.sys with topoAt := some d.now } }.send (.topologyReport d.topoReport)).send .topologyRequest

/-- By port, the local receive time of the far end's last HELLO minus its TX_TIME (R293). -/
def Dev.awayTimes (d : Dev) : List (Nat × U64) :=
  (List.range 6).filterMap fun k => if (d.port k).state = 3 then some (k, (d.port k).away) else none

/-- The maps of a system that formed: the primary's own at once, those of every other package by a push, as a set that passes its check
(R286, R292). `collide`: the node IDs of packages that take no position (R289). -/
def Dev.form (d : Dev) (rs : List TopoReport) (collide : List (BitVec 7)) (seen : List (BitVec 7 × Nat)) : Dev :=
  let maps := seen.map fun x => (x.2, (1 : BitVec 1) ++ x.1)
  let d := { d with sys := { d.sys with topo := rs, broken := [], gone := [], unreached := [] } }.applyMaps maps []
  let tables := d.passing (rs.map fun r => (r.node, match seen.find? fun x => x.1 == r.node with
    | some x => d.routesOf rs seen x.2
    | none => d.spareRoutes r.node))
  let d := d.applyMaps [] (((tables.find? fun x => x.1 == d.glob.node).map Prod.snd).getD [])
  let d := d.forAll (tables.filter fun x => x.1 != d.glob.node) fun d x =>
    d.send (.routePush x.1 { activation := d.now, jobs := [], posMap := maps, routes := x.2, topo := rs, collide := collide, standby := none })
  let d := { d.holdLinks collide with sys := { (d.holdLinks collide).sys with
    collecting := none, formed := true, formErr := 0, aligned := true, gwNode := d.glob.node, tables := tables
    spares := min 8 (rs.filter fun (r : TopoReport) => r.spare).length } }
  d.send (.timeStep d.now d.awayTimes)

/-! ### Spares (R307, R308) -/

/-- The largest number of hops by which a way between a spare and a neighbour of the position is longer than the direct link; none: the
spare does not qualify, for one way is more than 3 hops longer or missing (R307). -/
def Dev.detour (d : Dev) (pos : Nat) (sp : BitVec 7) : Option Nat :=
  let ns := (((List.range 6).filterMap (d.stepPos pos)).eraseDups.filter fun q => q != pos && d.present q).map d.nodeAt
  let hs := ns.map fun n => d.hops sp 128 [n] [n]
  if hs.all fun h => match h with | some x => decide (x ≤ 4) | none => false then some (hs.foldl (fun m h => max m (h.getD 1 - 1)) 0) else none

/-- The map, or a push that waits, gives this package a position. -/
def Dev.mapped (d : Dev) (n : BitVec 7) : Bool :=
  let e : Byte := (1 : BitVec 1) ++ n
  d.sys.posMap.any (fun x => x.2 == e) || d.sys.push.any fun p => p.posMap.any fun x => x.2 == e

/-- No package holds the position, lost or absent since formation, and no spare has been given for it (R292, R307). -/
def Dev.unfilled (d : Dev) (pos : Nat) : Bool :=
  !d.present pos && !d.sys.push.any fun p => p.posMap.any fun x => x.1 == pos && x.2.getLsbD 7

/-- Spares that hold no position. -/
def Dev.freeSpares (d : Dev) : List (BitVec 7) :=
  ((d.sys.topo.filter (·.spare)).map (·.node)).filter fun n => !d.sys.gone.contains n && !d.mapped n

/-- The qualifying spare with the smallest largest detour, then the lowest node ID (R307). -/
def Dev.bestSpare (d : Dev) (free : List (BitVec 7)) (pos : Nat) : Option (BitVec 7) :=
  ((free.filterMap fun n => (d.detour pos n).map fun x => (x, n)).foldl (fun b e => match b with
    | none => some e
    | some c => if e.1 < c.1 ∨ (e.1 = c.1 ∧ e.2.toNat < c.2.toNat) then some e else some c) none).map Prod.snd

/-- A spare for each of the positions; none where one of them gets none. -/
def Dev.assign (d : Dev) : List Nat → List (BitVec 7) → Option (List (Nat × BitVec 7))
  | [], _ => some []
  | pos :: rest, free => match d.bestSpare free pos with
    | none => none
    | some n => (d.assign rest (free.filter (· != n))).map ((pos, n) :: ·)

/-- A spare takes a position: the map, the routes and the set-ups of the position's jobs go to it (R307, R308). The set-ups go to its node, for
the map is not yet in force. -/
def Dev.substitute (d : Dev) (new : List (BitVec 7 × List (Nat × BitVec 8))) (pos : Nat) (node : BitVec 7) : Dev :=
  let jobs := (d.jobsAt pos ++ (if new.isEmpty then [] else d.jobsRerouted d.sys.tables (new ++ d.sys.tables))).eraseDups
  let d := { d with sys := { d.sys with spares := d.sys.spares - 1, tables := new ++ d.sys.tables
                                        awaiting := d.sys.awaiting ++ (d.jobsAt pos).map fun p => (p, pos) } }.count DC.spareSubst
  let d := d.forAll (d.jobsAt pos) fun d p =>
    let e := d.partAcc p
    (d.send (.partSetup { partition := p, cfg := e.cfg, quota := e.quota, clusters := e.clusters })).send
      (.jobPush ((1 : BitVec 1) ++ node) p (d.jobSetup p).word)
  d.pushRoutes fun n => { activation := d.activationOf 0, jobs := jobs, posMap := [(pos, (1 : BitVec 1) ++ node)], topo := [], collide := []
                          standby := none, routes := ((new.find? fun t => t.1 == n).map Prod.snd).getD [] }

/-- Spares go to the jobs in ascending partition number, and only where every lost position of the job gets one; then to positions of no job, in
ascending order (R292, R307; log 107). `x`: the route set that the primary has found for the substitution; where it fails its check no spare is
given (R286). -/
def Dev.giveSpares (d : Dev) (x : Option RouteSet) : Dev :=
  let new := match x with | some x => d.marked x | none => []
  if d.spareEn && d.routeSetOk (new ++ d.sys.tables) then
    let d := d.forAll ((d.sys.jobs.map Prod.fst).filter fun p => (d.jobSetup p).valid) fun d p =>
      match d.assign ((d.members p).filter d.unfilled) d.freeSpares with
      | some xs => d.forAll xs fun d e => d.substitute new e.1 e.2
      | none => d
    d.forAll (d.positions.filter fun pos => d.unfilled pos && (d.jobsAt pos).isEmpty) fun d pos =>
      match d.bestSpare d.freeSpares pos with
      | some n => d.substitute new pos n
      | none => d
  else d

/-- TOPOLOGY_COLLECT_END: after 5 ms the primary walks the topology from itself, checks it, and forms the system or fails with
FORM_ERR (R292). Packages other than the primary whose IDs collide take no position and
their links are held down (R289). A position left absent gets a spare where one qualifies (R307). -/
def execTopologyCollectEnd (reports : List TopoReport) (s : State) : Out := s.on fun d =>
  match d.sys.collecting with
  | none => d
  | some t =>
    if d.sys.primary ∧ d.since t ≥ 5000000 then
      let once := reports.filter fun r => r.node == d.glob.node || (reports.filter fun q => q.node == r.node).length == 1
      let collide := ((reports.filter fun r => r.node != d.glob.node && (reports.filter fun q => q.node == r.node).length != 1).map (·.node)).eraseDups
      let w := d.walk once 128 [(d.glob.node, 0)]
      let e := d.formError once w.1 w.2
      if e = 0 then (d.form once collide w.1).giveSpares none else { d with sys := { d.sys with collecting := none, formErr := e } }
    else d

/-! ### Routes in force (R305, R308) -/

/-- The position that the map gives this package: a spare takes the position it is given, and a package whose position another
holds keeps none (R308, R309). -/
def Dev.takePosition (d : Dev) : Dev :=
  let mine := (1 : BitVec 1) ++ d.glob.node
  match (List.range 64).find? (fun pos => SMap.get (0 : Byte) d.sys.posMap pos == mine) with
  | some pos => { d with sys := { d.sys with coordValid := true, position := pos } }
  | none => { d with sys := { d.sys with coordValid := false } }

/-- Position `pos` has gone to another package by the maps now in force: `before` are the maps until now. -/
def Dev.replaced (d : Dev) (before : SMap Byte) (pos : Nat) : Bool :=
  let old := SMap.get (0 : Byte) before pos
  let new := SMap.get (0 : Byte) d.sys.posMap pos
  new.getLsbD 7 && new != old && (old.getLsbD 7 || d.sys.lost.contains pos)

/-- A neighbour's position has gone to a spare: the −X neighbour sends the spare the replica it holds of the position's shards, and
the +X neighbour copies its own shards to it, those of a stopped job once it resumes (R308, R328). -/
def Dev.helpSpares (d : Dev) (before : SMap Byte) : Dev :=
  if !d.sys.coordValid then d
  else
    let d := match d.stepPos d.sys.position 0 with
      | some pos => if d.replaced before pos then
          d.forAll (d.jobsAt pos) fun d p =>
            d.giveReplica p
        else d
      | none => d
    match d.stepPos d.sys.position 1 with
    | some pos => if d.replaced before pos then
        d.forAll (d.myJobs.filter fun p => (d.commit p).bank.isSome) fun d p =>
          if (d.jobSetup p).stopped then d.setReplica p { d.replica p with ownValid := false, ownNone := false, peer := none }
          else d.startReplica p
      else d
    | none => d

/-- ROUTE_ACTIVATE: the maps of every push that is due take effect at the activation time and the hold ends (R305). A standby that can no longer be reached
is dropped (R296), and STOPPED clears where every member is present (R309). -/
def execRouteActivate (s : State) : Out := s.on fun d =>
  let due := d.sys.push.filter fun p => decide (p.activation.toNat ≤ d.now.toNat)
  if due.isEmpty then d
  else
    let rest := d.sys.push.filter fun p => !decide (p.activation.toNat ≤ d.now.toNat)
    let before := d.sys.posMap
    let d := (((d.forAll due Dev.applyPush).takePosition).helpSpares before)
    let d := { d with sys := { d.sys with push := rest, holding := d.sys.holding.filter fun j => rest.any fun p => p.jobs.contains j
                                          lost := d.sys.lost.filter fun pos => !d.present pos } }
    let gone := match d.standbyNode with
      | some n => d.sys.standbySync && fieldNat (SMap.get (7 : Byte) d.sys.route n.toNat) 2 0 == 7
      | none => false
    (if gone then d.dropStandby else d).clearStops

/-! ### Loss of a position (R286, R305, R306, R309) -/

/-- A package that is lost answers no pack any more (R348). -/
def Dev.dropAsked (d : Dev) (node : BitVec 7) : Dev :=
  let left := d.ledger.crocusAsked.filter (· != node)
  if left.length = d.ledger.crocusAsked.length then d
  else { d with ledger := { d.ledger with crocusAsked := left, crocusState := if left.isEmpty then 2 else d.ledger.crocusState } }

/-- The declaration of a lost position: its jobs stop, and a standby there is dropped (R296, R306, R309). -/
def Dev.declareLost (d : Dev) (pos : Nat) : Dev :=
  let jobs := d.jobsAt pos
  let gone := d.sys.standbySync && decide (d.standbyNode = some (d.nodeAt pos))
  let d := d.dropAsked (d.nodeAt pos)
  let d := ({ d with sys := { d.sys with posMap := SMap.put (0 : Byte) d.sys.posMap pos 0, lost := d.sys.lost ++ [pos]
                                         gone := d.sys.gone ++ [d.nodeAt pos]
                                         unreached := d.sys.unreached.filter fun e => e.1 != pos
                                         awaiting := d.sys.awaiting.filter fun a => a.2 != pos } }).count DC.posLost
  let d := d.forAll jobs Dev.stopJob
  if gone then d.dropStandby else d

/-- POSITION_LOST: the primary declares a position lost that has been out of reach for 10 ms, or whose package has reported that it has ended
service, and gives a spare to it and to every lost position for which one has qualified since (R306 to R309). -/
def execPositionLost (x : Loss) (s : State) : Out := s.on fun d =>
  let due := x.ended || d.sys.unreached.any fun e => e.1 == x.pos && decide (d.since e.2 ≥ 10000000)
  if d.sys.primary ∧ d.present x.pos ∧ x.pos ≠ d.sys.position ∧ due then (d.declareLost x.pos).giveSpares x.routes else d

/-- Present positions that the tables in force no longer reach over links that are up. -/
def Dev.cutOff (d : Dev) : List Nat :=
  (List.range 64).filter fun pos => d.present pos && d.nodeAt pos != d.glob.node
    && (d.wayOf d.sys.tables (d.nodeAt pos) 128 d.glob.node 3 false).isNone

/-- LINK_DOWN_REPORT_RECEIVE: the primary pushes routes that avoid the link. `x` is the set it has found, for the spec leaves the
detours to it. A set that fails its check, or none, is not pushed, and the positions cut off are lost without a spare, as R286 has it (R305;
DEDUCED, log 107). -/
def execLinkDownReportReceive (node : OnChannel (BitVec 7)) (port : Nat) (x : Option RouteSet) (s : State) : Out := s.onChannel 3 node.vc fun d =>
  if d.sys.primary then
    let d1 := d.breakLink node.msg port
    match x with
    | some x =>
      let new := d.marked x
      if d1.routeSetOk (new ++ d.sys.tables) then
        let jobs := d.jobsRerouted d.sys.tables (new ++ d.sys.tables)
        let d := { d1 with sys := { d1.sys with tables := new ++ d1.sys.tables } }
        d.pushRoutes fun n => { activation := d.activationOf x.activation, jobs := jobs, posMap := [], topo := [], collide := [], standby := none
                                routes := ((new.find? fun t => t.1 == n).map Prod.snd).getD [] }
      else d1.forAll d1.cutOff Dev.declareLost
    | none => d1.forAll d1.cutOff Dev.declareLost
  else d

/-! ### A package that comes back (R309, R312) -/

/-- A package that comes back without a position is a spare again (R309, R312). -/
def Dev.spareAgain (d : Dev) (node : BitVec 7) : Dev :=
  { d with sys := { d.sys with topo := d.sys.topo.map (fun (r : TopoReport) => if r.node == node then { r with spare := true } else r)
                               spares := min 8 (d.sys.spares + 1) } }.giveSpares none

/-- SHARD_VERSION of a job as the primary knows it: its own commit record where it is a member, else the last commit reported (R312; log 177). -/
def Dev.jobVersion (d : Dev) (p : Nat) : U32 := if d.isMember p then (d.commit p).version else SMap.get 0 d.sys.versions p

/-- The primary hears that a package rejoins. At its position it is present again by a push; a job whose version its commit record does not hold
stays STOPPED until the package reports the commit of what the host loads. Requests that the package led end LOST. Where a spare holds the
position, the package is a spare (R309, R312). -/
def Dev.takeRejoin (d : Dev) (node : BitVec 7) (position : Option Nat) (records : List (Nat × U32)) : Dev :=
  let d := d.mendLinks node
  match position with
  | none => d.spareAgain node
  | some pos =>
    if d.present pos && d.nodeAt pos != node then d.spareAgain node
    else
      let bad := (records.filter fun r => r.2 != d.jobVersion r.1).map Prod.fst
      let d := { d with sys := { d.sys with awaiting := (d.sys.awaiting ++ bad.map fun p => (p, pos)).eraseDups } }
      let d := d.forAll (d.host.outstanding.filter fun o => (d.members o.partition).head? == some pos) fun d o => match o.handle with
        | some h => d.gatewayLost o h
        | none => d
      let d := d.forAll bad Dev.stopJob
      if d.present pos then d.clearStops
      else d.pushRoutes fun _ => { activation := d.activationOf 0, jobs := d.jobsAt pos, posMap := [(pos, (1 : BitVec 1) ++ node)], routes := []
                                   topo := [], collide := [], standby := none }

/-- HOST_WRITE_RECEIVE: the primary posts what a lead or a member sends; its standby keeps what it is told (R249, R268, R284, R296, R312;
log 69). -/
def execHostWriteReceive (vc : BitVec 2) (m : HostWriteMsg) (s : State) : Out := s.onChannel 2 vc fun d =>
  if d.sys.primary then
    match m with
    | .rejoin node pos records => d.takeRejoin node pos records
    | .context .. | .forwarded .. | .standbySync _ => d
    | _ => d.hostWrite m
  else d.shadow m

/-! ### Device time (R293) -/

/-- TIME_STEP_RECEIVE, a RECOVERY message: device time becomes the parent's plus the link delay, at the next step boundary where a step is in
progress on an aligned package, else at once; the children follow. The delay is half the round trip of one HELLO in each direction: what this end
measured of the parent's HELLO and the parent of this end's, in which the difference of the clocks cancels (log 106). A member is formed once it
holds a map and is aligned (log 66). -/
def execTimeStepReceive (parentTime : OnChannel U64) (parentAway : U64) (s : State) : Out := s.onChannel 2 parentTime.vc fun d =>
  let delay := match d.parentPort with | some n => ((d.port n).away + parentAway).toNat / 2 | none => 0
  let new : U64 := parentTime.msg + BitVec.ofNat 64 delay
  let d := match d.parentPort with
    | some n => d.updPort n fun p => { p with delay := delay }
    | none => d
  let again := d.sys.aligned
  let d := if again ∧ d.busy then { d with sys := { d.sys with reStep := some (new - d.now) } }
    else
      let d := { d with glob := { d.glob with timeNs := new } }
      if again then d.count DC.timeStep else d
  let d := { d with sys := { d.sys with aligned := true, formed := d.sys.formed || !d.sys.posMap.isEmpty } }
  d.send (.timeStep new d.awayTimes)

/-! ### The lease and the takeover (R294, R295, R297) -/

/-- A queue pair is halted (R256). -/
def Dev.haltQueue (d : Dev) (q : Nat) : Dev :=
  match d.queue q with
  | some x => if x.halted then d else (d.setQueue q (some { x with halted := true })).count DC.queueHalt
  | none => d

/-- A gateway takes over. With STANDBY_SYNC at 1 it reads every doorbell line and takes hold of it, and owes its queues the commands that it was
told of; with 0 every queue pair is halted and every request of the system ends LOST (R255, R297). -/
def Dev.takeOver (d : Dev) : Dev :=
  let sync := d.sys.standbySync
  let d := { d with sys := { d.sys with primary := true, standby := false, standbySync := false, gwNode := d.glob.node } }
  if sync then
    let d := d.forAll (d.host.queues.map Prod.fst) fun d q => match d.queue q with
      | some x => d.setQueue q (some { x with owed := (d.host.outstanding.filter fun o => o.queue == q).length })
      | none => d
    let d := if (d.reg Off.dbBase).getLsbD 0 then d.readHost 0 (d.reg64 Off.dbBase &&& ~~~0x1FFFFF) (64 * 32768) else d
    { d with host := { d.host with linesHeld := (d.reg Off.dbBase).getLsbD 0 } }
  else
    let d := d.forAll (d.host.queues.map Prod.fst) Dev.haltQueue
    let d := d.forAll (d.serve.table.map Prod.fst) Dev.loseRequest
    d.forAll (d.host.mirror.filter fun e => decide (1 ≤ fieldNat e.2 3 0 ∧ fieldNat e.2 3 0 ≤ 4)) fun d e =>
      let p := fieldNat e.2 11 6
      let o : Origin := { queue := 0, sqHead := 0, tag := 0, partition := p }
      match (d.members p).head? with
      | some lead => if d.isLead p then d else d.send (.command lead ⟨o, .lost (handleOf e.1 (e.2.extractLsb' 12 14))⟩)
      | none => d

/-- Formation starts: the package is the primary gateway at position 0; it floods the request and answers it itself (R292). -/
def Dev.startForming (d : Dev) : Dev :=
  ({ d with sys := { d.sys with primary := true, coordValid := true, position := 0, gwNode := d.glob.node, collecting := some d.now,
                                topoAt := some d.now, formErr := 0 } }.send .topologyRequest).send (.topologyReport d.topoReport)

/-- A write of SYS_LEASE.EPOCH (R294). -/
def Dev.writeLease (d : Dev) (epoch : U32) : Dev :=
  if epoch = 0 then { d with sys := { d.sys with leaseEpoch := 0, leaseValid := false } }
  else if epoch.toNat < d.sys.highEpoch.toNat then d.count DC.leaseStale
  else if !d.glob.cxlActive then d
  else
    let d := { d with sys := { d.sys with leaseEpoch := epoch, highEpoch := epoch, leaseValid := true, leaseAt := d.now, beaconAt := d.now } }
    if d.sys.formed then (if d.sys.primary then d else d.takeOver)
    else if d.sys.collecting.isNone then d.startForming else d

/-- SYS_LEASE_WRITE (R294). -/
def execSysLeaseWrite (epoch : U32) (s : State) : Out := s.on fun d => if d.rst.phase = .ready then d.writeLease epoch else d

/-- LEASE_EXPIRY: 300 ms after the last renewal (R294). -/
def execLeaseExpiry (s : State) : Out := s.on fun d =>
  if d.sys.leaseValid ∧ d.since d.sys.leaseAt ≥ 300000000 then { d with sys := { d.sys with leaseValid := false } } else d

/-- The first beacon a fenced package hears: it loses a position that another holds or a system that is not its own, reports its
commit records, and runs the verification test on every READY tile (R312). -/
def Dev.beginRejoin (d : Dev) (sysId : U32) : Dev :=
  let held := SMap.get (0 : Byte) d.sys.posMap d.sys.position == (1 : BitVec 1) ++ d.glob.node
  let keep := d.sys.coordValid && held && sysId == d.sysId
  let d := { d with sys := { d.sys with rejoining := true, aligned := d.sys.primary, coordValid := keep, reStep := none } }
  let d := d.hostWrite (.rejoin d.glob.node (if keep then some d.sys.position else none) (d.myJobs.map fun p => (p, (d.commit p).version)))
  let d' := d.startSweep
  { d' with power := { d'.power with sweep := d.power.sweep } }

/-- The sweep is done and the time aligned: the requests held are LOST, and FENCED clears (R312). The primary gateway writes the
records and completions of its own. -/
def Dev.endRejoin (d : Dev) : Dev :=
  let d := d.forAll (d.serve.table.map Prod.fst) fun d k => if d.sys.primary then d.loseRequest k else d.quietLost k
  { d with sys := { d.sys with fenced := false, rejoining := false } }

/-- A fenced package hears a valid beacon, its own gateway's too (R310, R312). -/
def Dev.hearBeacon (d : Dev) (sysId : U32) : Dev :=
  if d.sys.fenced then
    if !d.sys.rejoining then d.beginRejoin sysId
    else if d.sys.aligned && d.power.sweepLeft.isEmpty then d.endRejoin
    else d
  else d

/-- LEASE_BEACON_SEND: the holder of a valid lease floods a beacon every 1 ms (R295); where it is fenced itself, it rejoins by
its own beacons (DEDUCED, log 81). -/
def execLeaseBeaconSend (s : State) : Out := s.on fun d =>
  if d.sys.leaseValid ∧ d.since d.sys.leaseAt < 300000000 then
    ({ d with sys := { d.sys with beaconAt := d.now, beaconTime := d.now } }.send (.beacon d.glob.node d.sys.leaseEpoch d.now)).hearBeacon d.sysId
  else d

/-- A lead or a member resends to a new primary the host writes whose flits the far end of its port has not acknowledged (R297; DEDUCED,
log 176). -/
def Dev.resendWrites (d : Dev) : Dev :=
  let isWrite := fun (k : Nat) => match d.host.sent[k - 1]? with | some (.hostWrite _) => true | _ => false
  let ks := ((List.range 6).flatMap fun n => (d.port n).undelivered) ++ d.link.again
  let ms := (ks.filter isWrite).eraseDups.filterMap fun k => d.host.sent[k - 1]?
  let d := d.forAll (List.range 6) fun d n => d.updPort n fun p => { p with tx := p.tx.filter fun x => x.begun || !isWrite x.message }
  { d with link := { d.link with again := d.link.again.filter fun k => !isWrite k } }.forAll ms Dev.send

/-- LEASE_BEACON_RECEIVE, a MGMT message: a beacon with a higher epoch than a gateway's own ends its lease. One of an epoch lower than the highest seen
is not valid; a valid one keeps the package from fencing and lets a fenced one rejoin, and a new one is flooded on (R295, R310, R312;
which is new is a DESIGN CHOICE, log 178). -/
def execLeaseBeaconReceive (b : OnChannel Beacon) (epoch : U32) (sysId : U32) (s : State) : Out := s.onChannel 3 b.vc fun d =>
  let node := b.msg.node
  let yield := d.sys.leaseValid && decide (epoch.toNat > d.sys.leaseEpoch.toNat)
  let d := { d with sys := { d.sys with leaseValid := d.sys.leaseValid && !yield, primary := d.sys.primary && (!yield || node == d.glob.node) } }
  if epoch.toNat < d.sys.highEpoch.toNat then d
  else
    let new := decide (epoch.toNat > d.sys.highEpoch.toNat) || node != d.sys.gwNode || decide (b.msg.time.toNat > d.sys.beaconTime.toNat)
    let moved := node != d.sys.gwNode
    let d := { d with sys := { d.sys with beaconAt := d.now, gwNode := node, highEpoch := epoch
                                          primary := d.sys.primary && (node == d.glob.node) } }
    let d := if new then { d with sys := { d.sys with beaconTime := b.msg.time } }.send (.beacon node epoch b.msg.time) else d
    (if moved then d.resendWrites else d).hearBeacon sysId

/-! ### Fencing (R310, R311) -/

/-- FENCE: 10 ms without a beacon. Nothing is admitted, composed or fetched any more; steps, operators and commands not yet applied
are dropped, loads of grafts among them; pages and slots are free, but for pages that hold relocated blocks (R234); windows close; entries and tiles stay (R311); a recovery in progress on it is overridden
(R309). A package that is not part of a formed
system has nothing to fence from (log 67). -/
def execFence (s : State) : Out := s.on fun d =>
  if d.sys.formed ∧ !d.sys.fenced ∧ !d.sys.leaseValid ∧ d.since d.sys.beaconAt ≥ 10000000 then
    let d := { d with sys := { d.sys with fenced := true, rejoining := false } }.count DC.fence
    let d := d.forAll (d.serve.jobs.map Prod.fst) Dev.abandonJob
    let d := { d with serve := { d.serve with kv := [], staging := []
                                              grafts := SMap.mapVals Graft.empty (fun _ g => { g with pending := [] }) d.serve.grafts }
                      stack := { d.stack with pagesUsed := d.relocated } }
    let d := d.forAll (d.stack.loads.map Prod.fst) fun d p => match d.load p with
      | some l => if l.recovery then (d.setCommit p ((d.commit p).setState (d.commit p).inactive 3)).setLoad p none else d
      | none => d
    d.closeWindows fun _ _ => true
  else d

/-! ### Messages to members (R183, R284, R377) -/

/-- STEP_CTL_RECEIVE: a descriptor waits for the member's boundary (R183, R184); token rows that the lead asks the embedding of are no step
of this member (R171). -/
def execStepCtlReceive (vc : BitVec 2) (partition : Nat) (x : StepDesc) (s : State) : Out := s.on fun d =>
  if vc ≠ 2 then d.count DC.msgDiscard
  else if d.serving ∧ d.isMember partition then
    d.updJob partition fun j => if x.lookup then { j with lookups := j.lookups ++ [x] } else { j with descs := j.descs ++ [x] }
  else d

/-- THROTTLE_NOTICE_RECEIVE, a MGMT message (R284, R377). -/
def execThrottleNoticeReceive (n : OnChannel Notice) (s : State) : Out := s.onChannel 3 n.vc fun d => d.takeNotice n.msg

/-- The partition that owns a graft ID (R401). -/
def Dev.graftOwner (d : Dev) (id : Nat) : Option Nat :=
  (List.range 64).find? fun p => d.partValid p && inRange (d.graftBase p) (d.graftCount p) id

/-- Parts of a dump reach the package that writes it (R439). -/
def Dev.takeDump (d : Dev) (p w : Nat) (x : DumpPart) : Dev :=
  match d.watch p w with
  | some y => d.setWatch p w (some { y with parts := y.parts ++ [x], fired := true, step := d.stepNow p })
  | none => d

/-- BULK_RECEIVE (R284): on VC1 only. -/
def execBulkReceive (vc : BitVec 2) (b : BulkBody) (s : State) : Out := s.on fun d =>
  if vc ≠ 1 then d.count DC.msgDiscard
  else match b with
  | .shardChunk p x => d.takeChunk p x true
  | .replicaRead p n => d.giveChunk p n
  | .replicaRoom p fits => d.sendReplica p fits
  | .replicaPart p x => d.takeReplicaPart p x
  | .bankReport p m active ready => d.takeBankReport p m active ready
  | .bankQuery _ p => d.reportBanks p
  | .loadReport p m v st => d.takeLoadReport p m v st
  | .commitReport p m v st => (d.takeCommitReport p m v st).spareCommitted p m v st
  | .calReport p pos n =>
    (d.updJob p fun j => { j with calibrates := match j.calibrates.findIdx? (fun c => c.waiting.contains pos) with
      | some i => j.calibrates.modify i fun c => { c with waiting := c.waiting.erase pos, count := c.count + n }
      | none => j.calibrates }).finishCalibrates p
  | .replica p _ _ total => d.replicaArrives p total
  | .replicaWanted p => d.startReplica p
  | .replicaHeld p v g => d.replicaReported p v g
  | .recovery p v g n => d.takeRecovery p v g n
  | .graftPart id v n x => match d.graftOwner id.toNat with
    | some p => d.takeGraftPart p id v n x
    | none => d
  | .graftReport id n pos st => d.takeGraftReport id n pos st
  | .logits p h pos first values => d.bufferLogits { partition := p, handle := h, pos := pos, first := first, values := values }
  | .dump p w x => d.takeDump p w x
  | .tracePage p bytes => d.tracePageIn p bytes
  | .opReport p step grads xfer => d.takeOpReport p step grads xfer

end Sys2Proof.Machine
end

