-- ==== Sys2Proof/Machine/Regs.lean ====
section
/-! DEFINITION. Register access: what each word of PF BAR0 reads as, what a write of it does, wide registers, the set-up locks,
the CLUSTER block's indirect access and the remote target (R441 to R451). -/

namespace Sys2Proof.Machine

/-! ### Words that report state -/

/-- A flag at bit `i` of a word. -/
def flag (i : Nat) (b : Bool) : U32 := if b then BitVec.ofNat 32 (2 ^ i) else 0

/-- A number at bit `i` of a word. -/
def put (i n : Nat) : U32 := BitVec.ofNat 32 (n * 2 ^ i)

/-- HOST_LINK_STATUS (R272). -/
def Dev.hostLinkWord (d : Dev) : U32 :=
  flag 31 d.glob.cxlActive ||| flag 30 d.glob.modeErr ||| flag 29 d.glob.ideIo ||| flag 28 d.glob.ideCm
    ||| put 16 d.glob.width.toNat ||| put 0 d.glob.rate.toNat

/-- GLOBAL_SEC_STATUS (R425). -/
def Dev.secStatusWord (d : Dev) : U32 :=
  flag 9 d.sec.ideRequired ||| flag 8 (d.sec.images.any fun x => x.2.2.1) ||| put 5 d.sec.debugSeen ||| put 2 d.sec.debug
    ||| put 0 d.sec.lifecycle.toNat

/-- SYS_STATUS (R313). -/
def Dev.sysStatusWord (d : Dev) : U32 :=
  flag 31 d.sys.formed ||| flag 30 d.sys.primary ||| flag 29 d.sys.standby ||| flag 28 d.sys.standbySync ||| flag 27 d.sys.fenced
    ||| put 24 d.sys.formErr.toNat ||| put 17 d.glob.node.toNat ||| flag 16 d.glob.spareStrap ||| flag 15 d.sys.coordValid
    ||| put 8 d.sys.position

/-- RESET_CAUSE (R394). -/
def Dev.resetCauseWord (d : Dev) : U32 :=
  put 16 d.rst.warmCount.toNat ||| flag 8 d.rst.stackKept ||| put 4 d.rst.lastTrip.toNat ||| put 0 d.rst.cause.toNat

/-- CLOCK_STATUS (R238). -/
def Dev.clockWord (d : Dev) : U32 := flag 31 d.rst.rootLock ||| put 0 d.rst.lockLoss.toNat

/-- The low word of POWER_STATUS (R394). -/
def Dev.powerWord (d : Dev) : U32 :=
  put 21 d.power.stage ||| flag 20 d.power.crit ||| flag 19 d.power.boHold ||| flag 18 d.power.disagree ||| flag 17 d.power.sweep

/-- THERM_STATUS (R394). -/
def Dev.thermLow (d : Dev) : U32 :=
  flag 7 d.power.reqAbs ||| flag 6 d.power.reqRate ||| flag 5 d.power.disagree ||| flag 4 d.power.crit
def Dev.thermHigh (d : Dev) : U32 := BitVec.ofInt 16 d.power.tMax ++ BitVec.ofInt 16 d.power.tNow

/-- STEP_CAL_STATUS (R140). -/
def Dev.calWord (d : Dev) : U32 :=
  flag 31 (d.array.tiles.any fun e => e.2.calibrating) ||| put 28 d.array.lastTrig.toNat ||| (BitVec.ofInt 16 d.array.tLast).setWidth 32

/-- FL_STATUS (R313). -/
def Port.statusWord (p : Port) : U32 :=
  put 29 p.state.toNat ||| put 24 p.width.toNat ||| put 16 p.faulty.toNat ||| put 9 p.peerNode.toNat ||| put 6 p.peerPort.toNat

/-- STACK_REPLICA (R328). -/
def Replica.word (x : Replica) : U64 :=
  BitVec.ofBool x.heldValid ++ BitVec.ofBool x.ownValid ++ BitVec.ofBool x.ownNone ++ (0 : BitVec 29) ++ x.heldVersion

/-- FREE entries of the request table (R208). -/
def Dev.freeEntries (d : Dev) : Nat :=
  Config.requestSlots - (d.serve.table.filter fun e => decide (e.2.state ≠ .free)).length

/-- Requests that wait for a staging slot (R169, R188). -/
def Dev.slotWaiters (d : Dev) : Nat :=
  (d.serve.table.filter fun e => decide (e.2.state = .decode) && !e.2.slotValid).length

/-- LUPIN_SLOT_STATUS (R169). -/
def Dev.slotStatusWord (d : Dev) : U32 :=
  put 16 (min 4095 d.slotWaiters) ||| put 0 (d.serve.staging.filter fun e => e.2.owner.isSome).length

/-- Word `k` of a wide value. -/
def wordAt {n : Nat} (w : BitVec n) (k : Nat) : U32 := w.extractLsb' (32 * k) 32

/-- Four bytes, or two halves, as one word. -/
def fromBytes (f : Nat → Byte) : U32 := f 3 ++ f 2 ++ f 1 ++ f 0
def fromHalves (f : Nat → U16) : U32 := f 1 ++ f 0

/-- A pseudo-channel's STACK_PC_STATUS (R235), and a word of MON_HK (R366). -/
def PcState.half (x : PcState) : U16 := x.state ++ (0 : BitVec 2) ++ x.ce

/-! ### What a word of PF BAR0 reads as now (R444, R445) -/

/-- The GLOBAL block. -/
def Dev.globalWord (d : Dev) (o : Nat) : U32 :=
  if o = 0x10000 then wordAt d.now 0
  else if o = 0x10004 then wordAt d.now 1
  else if o = 0x10008 then d.hostLinkWord
  else if o = 0x1000C then d.secStatusWord
  else if o = 0x10010 then d.glob.locks.setWidth 32
  else if o = Off.globalTarget then flag 31 d.glob.targetErr ||| d.reg o
  else if o = 0x10020 then flag 31 d.sys.leaseValid ||| put 0 d.leaseLeft
  else if o = 0x10024 then d.sys.leaseEpoch
  else if o = 0x1002C then d.sysStatusWord
  else if within o 0x10100 64 4 4 then (d.jobSetup ((o - 0x10100) / 4)).word
  else if within o 0x10200 16 4 4 then fromBytes fun i => SMap.get 0 d.sys.posMap (o - 0x10200 + i)
  else if within o 0x10240 32 4 4 then fromBytes fun i => SMap.get 7 d.sys.route (o - 0x10240 + i)
  else d.reg o

/-- CLOCK, RESET, POWER, MON and THERM. -/
def Dev.powerBlockWord (d : Dev) (o : Nat) : U32 :=
  if o = 0x20000 then d.clockWord
  else if o = 0x30004 then d.resetCauseWord
  else if o = 0x40008 then d.powerWord
  else if o = 0x4000C then put 0 d.budget
  else if o = 0x50010 then d.power.monA
  else if o = 0x50014 then d.power.monB
  else if within o 0x50020 16 4 4 then fromHalves fun i => SMap.get 0 d.power.hk ((o - 0x50020) / 2 + i)
  else if o = 0x60008 then d.thermLow
  else if o = 0x6000C then d.thermHigh
  else d.reg o

/-- PART. -/
def Dev.partWord (d : Dev) (o : Nat) : U32 :=
  if within o 0x200000 64 8 8 then wordAt (d.partAcc ((o - 0x200000) / 8)).cfg (o / 4 % 2)
  else if within o 0x200200 64 4 4 then (d.partAcc ((o - 0x200200) / 4)).quota
  else if o = 0x200300 then d.partStatus
  else if within o 0x201000 64 64 64 then wordAt (d.partAcc ((o - 0x201000) / 64)).clusters (o / 4 % 16)
  else 0

/-- QUEUE and CLUSTER: the access registers of function `fn` at their PF offsets. -/
def Dev.fnWord (d : Dev) (fn o : Nat) : U32 :=
  let f := d.fn fn
  if o = 0x300108 then f.ctxSel
  else if o = 0x30010C then put 4 f.ctxResult.toNat
  else if within o 0x300110 1 32 32 then wordAt f.ctxData ((o - 0x300110) / 4)
  else if o = 0x800000 ∨ o = 0x800004 then wordAt f.indSel (o / 4 % 2)
  else if o = 0x800008 then put 15 f.indCluster.toNat ||| put 4 f.indResult.toNat
  else if within o 0x800040 1 64 64 then wordAt (f.indData.getD ((o - 0x800040) / 8) 0) (o / 4 % 2)
  else d.reg o

/-- REQ and STEP. -/
def Dev.stepWord (d : Dev) (o : Nat) : U32 :=
  if o = 0x400004 then put 0 d.freeEntries
  else if o = 0x500010 then d.array.qualSum
  else if o = 0x500014 then d.calWord
  else if within o 0x500080 32 4 4 then d.array.qualWorst.getD ((o - 0x500080) / 4) 0
  else if within o 0x501400 64 8 8 then wordAt (d.boundWord ((o - 0x501400) / 8)) (o / 4 % 2)
  else d.reg o

/-- STACK. -/
def Dev.stackWord (d : Dev) (o : Nat) : U32 :=
  if within o 0x700000 128 8 8 then wordAt (d.region ((o - 0x700000) / 8)) (o / 4 % 2)
  else if o = Off.share then flag 31 d.stack.descErr ||| d.reg o
  else if o = Off.regionReq + 12 then flag 30 d.stack.request.isSome
  else if within o 0x700500 16 4 4 then fromHalves fun i => (d.pcs ((o - 0x700500) / 2 + i)).half
  else if within o 0x700600 64 8 8 then wordAt (d.replica ((o - 0x700600) / 8)).word (o / 4 % 2)
  else if within o 0x701000 64 64 64 then wordAt (d.commit ((o - 0x701000) / 64)).word (o / 4 % 16)
  else d.reg o

/-- DAHLIA and LUPIN. FREE_PAGES counts once the package is ready (R169; log 141). -/
def Dev.engineWord (d : Dev) (o : Nat) : U32 :=
  if o = 0x900004 then put 16 (385 * d.runningHalves) ||| put 0 d.engine.reserve
  else if o = 0xA00004 then (if d.rst.phase = .ready then put 0 d.freePages else 0)
  else if o = 0xA00008 then d.slotStatusWord
  else d.reg o

/-- TRACE_STATUS.LOST: on the gateway the sum over members, of which the others' come with their counters (R250, R437; log 146). -/
def Dev.traceLostSum (d : Dev) (p : Nat) : U32 :=
  let others := (d.host.traceLost.filter fun e => e.1 % 64 == p && e.1 / 64 != d.sys.position).map fun e => e.2.toNat
  BitVec.ofNat 32 (min 0xFFFFFFFF ((d.traceRing p).lost.toNat + (if d.sys.primary then others.sum else 0)))

/-- TRACE. -/
def Dev.traceWord (d : Dev) (o : Nat) : U32 :=
  if within o 0x2000020 64 0x100 4 then (d.traceRing ((o - 0x2000000) / 0x100)).wptr
  else if within o 0x2000028 64 0x100 4 then d.traceLostSum ((o - 0x2000000) / 0x100)
  else d.reg o

/-- LEDGER. -/
def Dev.ledgerWord (d : Dev) (o : Nat) : U32 :=
  if o = 0x2100000 then flag 19 d.ledger.wrapped ||| put 0 d.ledger.head
  else if o = 0x2100004 then d.ledger.ltime
  else if o = Off.crocus + 12 then
    put 10 d.ledger.crocusRefused ||| put 3 d.ledger.crocusAccepted ||| put 0 d.ledger.crocusState.toNat
  else if within o 0x2100020 1 32 32 then
    let i := d.fld Off.logIdx 18 0
    if i < Config.ledgerEntries then wordAt (SMap.get (0 : BitVec 256) d.ledger.log i) ((o - 0x2100020) / 4) else 0
  else d.reg o

/-- The 4-byte word at offset `o` of PF BAR0, as function `fn` sees it; an offset with no register reads 0 (R442, R445). -/
def Dev.word (d : Dev) (fn o : Nat) : U32 :=
  if o < 0x10000 then fromBytes fun i => capBytes.getD (o + i) 0
  else if o < 0x20000 then d.globalWord o
  else if o < 0x70000 then d.powerBlockWord o
  else if o < 0x200000 then 0
  else if o < 0x300000 then d.partWord o
  else if o < 0x400000 then d.fnWord fn o
  else if o < 0x600000 then d.stepWord o
  else if within o 0x600004 6 0x10000 4 then (d.port ((o - 0x600000) / 0x10000)).statusWord
  else if o < 0x700000 then d.reg o
  else if o < 0x800000 then d.stackWord o
  else if o < 0x900000 then d.fnWord fn o
  else if o < 0x1000000 then d.engineWord o
  else if o < 0x2000000 then d.reg o
  else if o < 0x2100000 then d.traceWord o
  else if o < 0x2200000 then d.ledgerWord o
  else 0

/-! ### Reads (R441, R442, R364, R398) -/

/-- The wide register that holds offset `o`: the offset of its first word, and its 32-bit words (R441, R445). -/
def wideReg (o : Nat) : Option (Nat × Nat) :=
  if within o 0x10000 1 8 8 then some (0x10000, 2)
  else if within o 0x201000 64 64 64 then some (o / 64 * 64, 16)
  else if within o Off.regionReq 1 16 16 then some (Off.regionReq, 4)
  else if within o 0x701000 64 64 64 then some (o / 64 * 64, 16)
  else if within o 0x1100000 16384 512 320 then some (o / 512 * 512, 80)
  else if within o Off.crocus 1 16 16 then some (Off.crocus, 4)
  else if within o 0x2100020 1 32 32 then some (0x2100020, 8)
  else none

/-- An offset in the SEC block (R444). -/
def secOffset (o : Nat) : Bool := decide (0x100000 ≤ o) && decide (o < 0x200000)

/-- Reads one 4-byte word through function `fn`, and does what the read does: the first word of a wide register latches the
others, which read as latched; a read of MON_x_DATA clears VALID and OVR; the SEC block counts the refusal. -/
def Dev.readWord (d : Dev) (fn o : Nat) : U32 × Dev :=
  if secOffset o then (0, d.count DC.secRegRefused)
  else match wideReg o with
    | some (base, n) =>
      if o = base then
        let latched := (List.range (n - 1)).foldl (fun m k =>
          SMap.put (0 : U32) m (base / 4 + 1 + k) (d.word fn (base + 4 + 4 * k))) d.glob.latched
        (d.word fn o, { d with glob := { d.glob with latched := latched } })
      else (SMap.get 0 d.glob.latched (o / 4), d)
    | none =>
      if o = 0x50010 then (d.word fn o, d.readMon false)
      else if o = 0x50014 then (d.word fn o, d.readMon true)
      else (d.word fn o, d)

/-- A read of `size` bytes at `o`: an aligned access of 4 or 8 bytes, or of one unit of the five narrow registers; any other
reads 0 (R441). -/
def narrowWidth (o : Nat) : Nat :=
  if within o 0x10200 64 1 1 ∨ within o 0x10240 128 1 1 then 1
  else if within o 0x50020 32 2 2 ∨ within o 0x700500 32 2 2 ∨ within o 0x2000040 64 0x100 32 then 2
  else 4

def accessOk (o size : Nat) : Bool := (size == 4 || size == 8 || (size == narrowWidth o && decide (size < 4))) && o % size == 0

def Dev.readReg (d : Dev) (fn o size : Nat) : U64 × Dev :=
  if !accessOk o size then (0, d)
  else if size = 8 then
    let a := d.readWord fn o
    let b := a.2.readWord fn (o + 4)
    (b.1 ++ a.1, b.2)
  else
    let a := d.readWord fn (o / 4 * 4)
    (BitVec.ofNat 64 (a.1.toNat / 2 ^ (8 * (o % 4)) % 2 ^ (8 * size)), a.2)

/-- Where the first word of the function's MSI-X capability, in configuration space, is reached behind BAR2: the table has no row for
configuration space (log 80). -/
def msixCap : Nat := 0x20000

/-- A word of BAR2: the MSI-X table's entries of four words, then the pending bits (R245; log 80). -/
def Dev.bar2Word (d : Dev) (fn o : Nat) : U32 :=
  let f := d.fn fn
  if o < 0x8000 then f.table (o / 4)
  else if o < 0x8100 then
    (List.range 32).foldl (fun w k => if SMap.get false f.msixPending (8 * (o - 0x8000) + k) then w ||| flag k true else w) 0
  else if o = msixCap then (f.msixCtl &&& 0xC000 ||| 0x07FF) ++ (0x0011 : U16)
  else 0

/-- Of some vectors, those that are pending and no longer masked are sent (R271). -/
def Dev.sendPending (d : Dev) (fn : Nat) (ks : List Nat) : Dev :=
  d.forAll ks fun d k =>
    let f := d.fn fn
    if !f.masked k && SMap.get false f.msixPending k then
      (d.setFn fn { f with msixPending := SMap.put false f.msixPending k false }).msix fn (BitVec.ofNat 11 k)
    else d

/-- A write of a word of BAR2 or of Message Control. Clearing a mask, or enabling MSI-X, sends the messages that are pending; the pending bits are
read-only (R245, R271; log 80). -/
def Dev.writeBar2 (d : Dev) (fn o : Nat) (v : U32) : Dev :=
  if o < 0x8000 then
    let f := d.fn fn
    let k := o / 16
    let kept : U32 := if o % 16 = 12 then 1 else if o % 16 = 0 then 0xFFFFFFFC else 0xFFFFFFFF
    let f := { f with msixTable := SMap.put (tableReset (o / 4)) f.msixTable (o / 4) (v &&& kept) }
    (d.setFn fn f).sendPending fn [k]
  else if o = msixCap then
    let f := d.fn fn
    (d.setFn fn { f with msixCtl := v.extractLsb' 16 16 &&& 0xC000 }).sendPending fn (f.msixPending.map Prod.fst)
  else d

/-- BAR2 of a function follows its BAR0 in the offsets of the register commands (log 80). -/
def bar2Base (fn : Nat) : Nat := if fn = 0 then 0x4000000 else 0x100000

/-- A 4-byte or 8-byte aligned write of BAR2. -/
def Dev.writeTable (d : Dev) (fn o size : Nat) (v : U64) : Dev :=
  if o % size ≠ 0 then d
  else if size = 4 then d.writeBar2 fn o (v.extractLsb' 0 32)
  else if size = 8 then (d.writeBar2 fn o (v.extractLsb' 0 32)).writeBar2 fn (o + 4) (v.extractLsb' 32 32)
  else d

/-- The PF offset of a writable register that VF BAR0 of partition `n` holds at `o` (R446). -/
def vfOffset (n o : Nat) : Option Nat :=
  if within o 0x10108 1 0x28 0x28 then some (o + 0x2F0000)
  else if within o 0x20000 1 0x100 0x100 then some (0x2000000 + 0x100 * n + (o - 0x20000))
  else if within o 0x40000 256 8 8 then some (Off.foxProfile n 0 + (o - 0x40000))
  else if within o 0x60000 256 512 512 then some (Off.foxStop n 0 + (o - 0x60000))
  else if within o 0x80000 1 0x80 0x80 then some (o + 0x780000)
  else none

/-- The PF offset of what VF BAR0 of partition `n` shows at `o`: the capability list, the partition's read-only instances, and the
writable registers. Every other register is absent (R446). -/
def vfShown (n o : Nat) : Option Nat :=
  if o < 0x10000 then some o
  else if within o 0x10100 1 4 4 then some (Off.queueRange n)
  else if within o 0x10200 1 8 8 then some (0x200000 + 8 * n + (o - 0x10200))
  else if within o 0x10208 1 4 4 then some (0x200200 + 4 * n)
  else if within o 0x30000 1 8 8 then some (0x501400 + 8 * n + (o - 0x30000))
  else vfOffset n o

/-- A read of `size` bytes at `o` of VF BAR0 of partition `n` (R441, R446). -/
def Dev.readVf (d : Dev) (n o size : Nat) : U64 × Dev :=
  let word := fun (d : Dev) (o : Nat) => match vfShown n o with | some x => d.readWord (n + 1) x | none => (0, d)
  if size = 8 ∧ o % 8 = 0 then
    let a := word d o
    let b := word a.2 (o + 4)
    (b.1 ++ a.1, b.2)
  else if size = 4 ∧ o % 4 = 0 then
    let a := word d o
    (a.1.setWidth 64, a.2)
  else if size = 2 ∧ o % 2 = 0 ∧ within o 0x20040 1 32 32 then
    let a := word d (o / 4 * 4)
    ((a.1.extractLsb' (8 * (o % 4)) 16).setWidth 64, a.2)
  else (0, d)

/-- What VF BAR0 shows at `o` is read at the job's lead: profiles, stop sets and STEP_JOB_BOUND (R446). -/
def vfAtLead (o : Nat) : Bool := within o 0x30000 1 8 8 || within o 0x40000 256 8 8 || within o 0x60000 256 512 512

/-- A read of BAR2 of function `fn`, in aligned words. -/
def Dev.readTable (d : Dev) (fn o size : Nat) : U64 :=
  if size = 4 ∧ o % 4 = 0 then (d.bar2Word fn o).setWidth 64
  else if size = 8 ∧ o % 8 = 0 then d.bar2Word fn (o + 4) ++ d.bar2Word fn o
  else 0

/-- WIDE_REGISTER_READ: a read of BAR0 of a function at an offset; on a wide register's first word it latches the others (R238, R441).
A VF's read of what the lead holds is carried there, and `reply` is what the lead answers; with none it reads 0 (R446, R447). Before ready
BAR0 reads return zeros (R386). -/
def execWideRegisterRead (read : RegRead) (s : State) : Out := s.on fun d =>
  let fn := read.fn
  let offset := read.offset
  let size := read.size
  if !d.bar fn then d.answer (.word 0)
  else if bar2Base fn ≤ offset then d.answer (.word (if d.glob.modeErr then 0 else d.readTable fn (offset - bar2Base fn) size))
  else if fn = 0 then
    let r := d.readReg 0 offset size
    r.2.answer (.word r.1)
  else if vfAtLead offset ∧ !d.isLead (fn - 1) then
    (d.send (.registerAccess (BitVec.ofNat 8 ((d.members (fn - 1)).headD 0)) ((vfShown (fn - 1) offset).getD 0) none)).answer (.word (read.reply.getD 0))
  else
    let r := d.readVf (fn - 1) offset size
    r.2.answer (.word r.1)

/-! ### The CLUSTER block's indirect access (R449, R450) -/

/-- Instances of a register code; 0 for a reserved one. -/
def indCount (reg : Nat) : Nat :=
  match reg with
  | 1 => 64 | 2 => 512 | 3 => 64 | 4 => 64 | 5 => 33280 | 6 => 33280 | 7 => 64 | 8 => 64 | 9 => 1 | 10 => 8 | 11 => 4096
  | 12 => 64 | 13 => 1 | 14 => 65536 | _ => 0

/-- TILE_STATUS (R65). -/
def Tile.statusHalf (t : Tile) : U64 :=
  BitVec.ofNat 64 (256 * t.rowMap.length + (if t.aged then 128 else 0) + (if t.preSplit.isEmpty then 0 else 64)
    + 16 * t.repair.toNat + t.state.code.toNat)

/-- TILE_RETENTION: the credit in whole percent (R141; log 73). -/
def Tile.retention (t : Tile) : U64 :=
  BitVec.ofNat 64 (256 * min 255 ((t.credit * 100).num / (t.credit * 100).den).toNat + min 255 t.sinceAudit)

/-- A remap entry: VALID and LROW (R37, R226). -/
def mapHalf (m : SMap Nat) (k : Nat) : U64 :=
  let l := SMap.get 512 m k
  BitVec.ofNat 64 (if l < 512 then 32768 + l else 0)

/-- A slot-table entry with its SERVICE bit (R219). -/
def slotWord (w : U32) (i : Nat) : U64 := ((w &&& 0x0FFFFFFF) ||| flag 31 (i % 4 == 3)).setWidth 64

/-- Instance `i` of register code `reg` of cluster `c`. -/
def Dev.indRead (d : Dev) (reg c i : Nat) : U64 :=
  let x := d.cluster c
  let tile := fun (n : Nat) => d.tile (64 * c + i / n)
  match reg with
  | 1 => (tile 1).statusHalf
  | 2 => mapHalf (tile 8).rowMap (i % 8)
  | 3 => BitVec.ofNat 64 (qCode (tile 1).qSq)
  | 4 => (tile 1).retention
  | 5 =>
    let t := SMap.get (0, 0) (tile 520).colTrim (i % 520)
    ((BitVec.ofInt 6 t.1 ++ BitVec.ofInt 5 t.2 : BitVec 11)).setWidth 64
  | 6 => BitVec.ofNat 64 (SMap.get 8 (tile 520).rowTrim (i % 520))
  | 7 => (x.entry i).setWidth 64
  | 8 => (SMap.get (0 : U32) x.handles i).setWidth 64
  | 9 => BitVec.ofNat 64 (256 * x.misses.length + x.cache32.toNat)
  | 10 => mapHalf x.spadMap i
  | 11 => slotWord (d.slotEntry (.router c) i) i
  | 12 => d.counterC c i
  | 13 => BitVec.ofNat 64 (65536 * d.held c + d.allow c)
  | 14 => slotWord (d.slotEntry (.segment (i / 4096)) (i % 4096)) i
  | _ => 0

/-- The function reaches the cluster: a VF those of its partition, the PF those of no secure partition (R397, R399, R449). -/
def Dev.indReach (d : Dev) (fn c : Nat) : Bool :=
  match d.clusterOwner c with
  | some p => if fn = 0 then !d.partSecure p else p == fn - 1
  | none => decide (fn = 0)

/-- CL_IND_READ: a write of CLUSTER with GO. The checks in their order, then COUNT instances into CL_IND_DATA (R449). -/
def Dev.clInd (d : Dev) (fn : Nat) (cluster : BitVec 9) : Dev :=
  let f := { d.fn fn with indCluster := cluster }
  let reg := fieldNat f.indSel 13 8
  let first := fieldNat f.indSel 31 16
  let count := fieldNat f.indSel 34 32 + 1
  let stop := fun (d : Dev) (code : BitVec 4) => d.setFn fn { f with indResult := code, indData := [] }
  if indCount reg = 0 then stop d 3
  else if reg ≠ 14 ∧ !d.indReach fn cluster.toNat then stop (if fn = 0 then d.count DC.worldRefused else d) 1
  else if first + count > indCount reg then stop d 2
  else d.setFn fn { f with indResult := 0, indData := (List.range count).map fun i => d.indRead reg cluster.toNat (first + i) }

def execClIndRead (fn : Nat) (cluster : BitVec 9) (s : State) : Out := s.on fun d => if d.bar fn then d.clInd fn cluster else d

/-! ### The set-up locks (R448) -/

/-- A host write of GLOBAL_LOCK.SET; the STACK bit is ignored. -/
def Dev.setLocks (d : Dev) (mask : BitVec 9) : Dev := { d with glob := { d.glob with locks := d.glob.locks ||| (mask &&& ~~~(4 : BitVec 9)) } }

/-- SET_LOCK. -/
def execSetLock (mask : BitVec 9) (s : State) : Out := s.on fun d => if d.bar 0 then d.setLocks mask else d

/-! ### Writes (R13 to R15, R441 to R443) -/

/-- What is written is in force at once: no boundary applies the word, or no step is in progress of the jobs whose member boundary does (R443;
log 74). A word that a lead boundary applies always waits for the next one (R208). -/
def Dev.freeFor (d : Dev) (o : Nat) : Bool :=
  match regAtLead o with
  | some _ => false
  | none => match regAtMember o with
    | some (some p) => (d.job p).step.isNone
    | some none => !d.busy
    | none => true

/-- Stores a word: its RW bits, and its RWL bits while their lock is clear; reserved bits stay 0 (R13 to R15). A device-wide word that waits
for a member boundary waits for one of every job with a step in progress (R24, R476; log 136). -/
def Dev.storeWord (d : Dev) (o : Nat) (v : U32) : Dev :=
  let lockedBits : U32 := match regLock o with
    | some (k, bs) => if d.glob.locks.getLsbD k then bs else 0
    | none => 0
  let m := regMask o &&& ~~~lockedBits
  let w := (d.reg o &&& ~~~m) ||| (v &&& m)
  let d' := d.setReg o w
  if d.freeFor o then d'.setRegIn o w
  else if regAtMember o = some none then
    { d' with glob := { d'.glob with regsOwed := d'.glob.regsOwed ++ d.busyJobs.filter fun p => !d'.glob.regsOwed.contains p } }
  else d'

/-- Two partitions' queue ranges overlap (R251). -/
def Dev.rangesClash (d : Dev) : Bool :=
  (List.range 64).any fun p => (List.range p).any fun q =>
    let a := d.reg (Off.queueRange p)
    let b := d.reg (Off.queueRange q)
    overlap (fieldNat a 8 0) (fieldNat a 25 16) (fieldNat b 8 0) (fieldNat b 25 16)

/-- A raise of DAHLIA_CAP while an operation waits for the reservation is in force at once (R24, R147, R169). -/
def Dev.writeCap (d : Dev) (v : U32) : Dev :=
  let old := d.dahliaCap
  let d := d.storeWord Off.dahlia v
  let raised := d.setRegIn Off.dahlia (d.reg Off.dahlia)
  if !d.engine.waiting.isEmpty ∧ raised.dahliaCap > old then raised.raiseReserve.startHalves 32 else d

/-- A TRACE word of partition `p`: the gateway pushes it to the job's members; RING and HOST keep their value while EN is 1; EN set
anew starts LOST from 0; RPTR returns space (R436, R437). -/
def Dev.writeTrace (d : Dev) (o : Nat) (v : U32) : Dev :=
  let p := (o - 0x2000000) / 0x100
  let k := o % 0x100
  let en := (d.reg (Off.traceCtl p + 4)).getLsbD 31
  if en ∧ 0x10 ≤ k ∧ k < 0x20 then d
  else
    let d := if k = 4 ∧ !en ∧ v.getLsbD 31 then d.setTraceRing p { d.traceRing p with lost := 0, dropped := 0 } else d
    let d := d.storeWord o v
    let d := if d.sys.primary ∧ (d.jobSetup p).valid then d.toMembers p (fun pos => .registerAccess (BitVec.ofNat 8 pos) o (some (v.setWidth 64))) else d
    if k = 0x24 then d.traceRelease p else d

/-- FL_CTL: RETRAIN acts, and a port taken out of use goes down (R304, R313; log 75). -/
def Dev.writeFl (d : Dev) (o : Nat) (v : U32) : Dev :=
  let n := (o - 0x600000) / 0x10000
  let d := d.storeWord o v
  let d := if !d.portOn n ∧ (d.port n).state ≠ 0 then d.portDown n false else d
  if v.getLsbD 2 then d.retrain n else d

/-- A change of SYS_GW_CTL names another standby, which holds no context yet (R296, R313). -/
def Dev.writeGwCtl (d : Dev) (v : U32) : Dev :=
  let old := d.reg Off.sysGwCtl
  let d := d.storeWord Off.sysGwCtl v
  if d.reg Off.sysGwCtl = old then d else d.dropStandby

/-- QUEUE_DB_BASE: while ENABLE is set the gateway holds every doorbell line (R251, R255). -/
def Dev.writeDb (d : Dev) (o : Nat) (v : U32) : Dev :=
  let d := d.storeWord o v
  { d with host := { d.host with linesHeld := (d.reg Off.dbBase).getLsbD 0 } }

/-- The access registers of a function (R252, R449). -/
def Dev.writeFn (d : Dev) (fn o : Nat) (v : U32) : Dev :=
  let f := d.fn fn
  let patch := fun {n : Nat} (w : BitVec n) (k : Nat) =>
    (w &&& ~~~((0xFFFFFFFF#32).setWidth n <<< (32 * k))) ||| (v.setWidth n <<< (32 * k))
  if o = 0x300108 then d.setFn fn { f with ctxSel := v &&& 0x8003FFFF }
  else if o = 0x30010C then
    (match fieldNat v 1 0 with | 1 => d.createCtx fn | 2 => d.deleteCtx fn | 3 => d.readCtx fn | _ => d)
  else if within o 0x300110 1 32 32 then d.setFn fn { f with ctxData := patch f.ctxData ((o - 0x300110) / 4) }
  else if o = 0x800000 ∨ o = 0x800004 then d.setFn fn { f with indSel := patch f.indSel (o / 4 % 2) &&& 0x7FFFF3F00 }
  else if o = 0x800008 then
    (if v.getLsbD 0 then d.clInd fn (v.extractLsb' 15 9) else d.setFn fn { f with indCluster := v.extractLsb' 15 9 })
  else d

/-- One 4-byte word of a register that is not wide. -/
def Dev.writePlain (d : Dev) (fn o : Nat) (v : U32) : Dev :=
  if o = 0x10010 then d.setLocks (v.extractLsb' 16 9)
  else if o = Off.globalTarget then
    (if v.getLsbD 31 then { d with glob := { d.glob with targetErr := false } } else d).storeWord o v
  else if o = 0x10024 then d.writeLease v
  else if o = Off.sysGwCtl then d.writeGwCtl v
  else if within o 0x10100 64 4 4 then d.writeJob ((o - 0x10100) / 4) v
  else if o = 0x30000 then (if v.getLsbD 31 ∧ v.extractLsb' 0 16 = 0x5A7E then d.enterReset 3 true else d)
  else if o = Off.budget then (d.storeWord o v).stageLimits
  else if within o 0x200200 64 4 4 then d.writePart ((o - 0x200200) / 4) fun e => { e with quota := v }
  else if o = 0x200300 then (if v.getLsbD 31 then { d with part := { d.part with err := false } } else d)
  else if within o 0x300000 64 4 4 then (let d' := d.storeWord o v; if d'.rangesClash then d else d')
  else if o = Off.dbBase ∨ o = Off.dbBase + 4 then d.writeDb o v
  else if within o 0x300108 1 0x28 0x28 ∨ within o 0x800000 1 0x80 0x80 then d.writeFn fn o v
  else if within o 0x600000 6 0x10000 4 then d.writeFl o v
  else if o = Off.share then
    (if v.getLsbD 31 then { d with stack := { d.stack with descErr := false } } else d).storeWord o v
  else if o = Off.dahlia then d.writeCap v
  else if within o 0x2000000 64 0x100 0x60 then d.writeTrace o v
  else d.storeWord o v

/-- A wide register takes effect as a whole once its last word is written: the words held, the others as they stand (R441). -/
def Dev.commitWide (d : Dev) (base n : Nat) : Dev :=
  let held : Nat → Option U32 := fun k => SMap.get none d.glob.heldWords (base / 4 + k)
  let word : Nat → U32 := fun k => match held k with | some v => v | none => d.word 0 (base + 4 * k)
  let d' := { d with glob := { d.glob with heldWords := SMap.keep (fun k => decide (k < base / 4) || decide (base / 4 + n ≤ k)) d.glob.heldWords } }
  if within base 0x201000 64 64 64 then
    d'.writePart ((base - 0x201000) / 64) fun e =>
      { e with clusters := (List.range 16).foldl (fun (w : BitVec 512) k => w ||| ((word k).setWidth 512 <<< (32 * k))) 0 }
  else
    let d' := d'.forAll (List.range n) fun d' k => match held k with | some v => d'.storeWord (base + 4 * k) v | none => d'
    if base = Off.regionReq ∧ (word 3).getLsbD 31 then
      d'.submitRegion (fieldNat (d'.reg (base + 8)) 6 0) (d'.reg64 base)
    else d'

/-- A 4-byte word: held where its register is wide. -/
def Dev.writeWord (d : Dev) (fn o : Nat) (v : U32) : Dev :=
  match wideReg o with
  | some (base, n) =>
    let d := { d with glob := { d.glob with heldWords := SMap.put none d.glob.heldWords (o / 4) (some v) } }
    if o = base + 4 * (n - 1) then d.commitWide base n else d
  | none => d.writePlain fn o v

/-- A write of the 64-bit registers whose words act together: SYS_CTL, whose geometry and SYS_ID stand once the system is formed
(R448); PART_CFG (R402, R403); STACK_REGION, which the management plane has locked before ready (R229, R448). -/
def Dev.writePair (d : Dev) (fn o : Nat) (lo hi : Option U32) : Dev :=
  let w : U64 := hi.getD (d.word fn (o + 4)) ++ lo.getD (d.word fn o)
  if o = Off.sysCtl then
    let t := (d.storeWord o (w.extractLsb' 0 32)).storeWord (o + 4) (w.extractLsb' 32 32)
    if d.sys.formed ∧ (fieldNat (t.reg o) 5 0 ≠ fieldNat (d.reg o) 5 0 ∨ t.sysId ≠ d.sysId) then d else t
  else if within o 0x200000 64 8 8 then
    let n := (o - 0x200000) / 8
    if !d.partWritable n then d
    else if w.getLsbD 63 then d.setValid n w
    else if (d.partAcc n).cfg.getLsbD 63 then d.clearValid n
    else d.writePart n fun e => { e with cfg := cfgOf e.cfg w }
  else if within o 0x700000 128 8 8 then
    (if d.glob.locks.getLsbD 2 then d else d.writeRegion ((o - 0x700000) / 8) w)
  else
    let d := match lo with | some v => d.writeWord fn o v | none => d
    match hi with | some v => d.writeWord fn (o + 4) v | none => d

/-- A write at an offset of PF BAR0 through function `fn`; the SEC block ignores it and counts it, and an access of another size or
alignment writes nothing (R398, R441). One half of TRACE_DEV_SEL is the one narrow write. -/
def Dev.writeReg (d : Dev) (fn o size : Nat) (v : U64) : Dev :=
  if !accessOk o size then d
  else if secOffset o then d.count DC.secRegRefused
  else if size = 8 then d.writePair fn o (some (v.extractLsb' 0 32)) (some (v.extractLsb' 32 32))
  else if size = 4 then
    (if o % 8 = 0 then d.writePair fn o (some (v.extractLsb' 0 32)) none else d.writePair fn (o - 4) none (some (v.extractLsb' 0 32)))
  else if size = 2 ∧ within o 0x2000040 64 0x100 32 then
    let old := d.reg (o / 4 * 4)
    let half : U16 := v.extractLsb' 0 16
    d.writeTrace (o / 4 * 4) (if o % 4 = 0 then old.extractLsb' 16 16 ++ half else half ++ old.extractLsb' 0 16)
  else d

/-- The write sets GO of LEDGER_CROCUS, bit 127 (R348, R441). -/
def setsGo (o size : Nat) (v : U64) : Bool :=
  (o == Off.crocus + 12 && size == 4 && v.getLsbD 31) || (o == Off.crocus + 8 && size == 8 && v.getLsbD 63)

/-- A write at an offset of PF BAR0 with what it triggers: GO has the device read the pack (R348). -/
def Dev.writePf (d : Dev) (o size : Nat) (x : RegData) : Dev :=
  let d := d.writeReg 0 o size x.value
  if setsGo o size x.value then d.goCrocus x.pack else d

/-- REGISTER_WRITE at the package that holds the register: through the PF, through a VF, or as a remote access that has arrived
(R443; log 76). A VF's write to a profile or a stop set is carried to the job's lead (R446). -/
def execRegisterWrite (fn offset size : Nat) (value : RegData) (s : State) : Out := s.on fun d =>
  if !d.bar fn then d
  else if bar2Base fn ≤ offset then (if d.glob.modeErr then d else d.writeTable fn (offset - bar2Base fn) size value.value)
  else if fn = 0 then d.writePf offset size value
  else match vfOffset (fn - 1) offset with
    | none => d
    | some o =>
      if 0x1000000 ≤ o ∧ o < 0x2000000 ∧ !d.isLead (fn - 1) then
        d.send (.registerAccess (BitVec.ofNat 8 ((d.members (fn - 1)).headD 0)) o (some value.value))
      else d.writeReg fn o size value.value

/-! ### The remote target (R444, R447) -/

/-- The block that holds offset `o` answers for the package that GLOBAL_TARGET names. -/
def targetBlock (o : Nat) : Bool :=
  decide (o < 0x10000) || (decide (0x20000 ≤ o) && decide (o < 0x200000)) || (decide (0x400000 ≤ o) && decide (o < 0x2000000))
    || (decide (0x2100000 ≤ o) && decide (o < 0x2200000))

/-- GLOBAL_TARGET names this package. -/
def Dev.targetSelf (d : Dev) : Bool :=
  let w := d.reg Off.globalTarget
  w.getLsbD 15 || (if w.getLsbD 7 then w.extractLsb' 0 7 == d.glob.node else d.sys.coordValid && fieldNat w 5 0 == d.sys.position)

/-- REMOTE_REGISTER_ACCESS by the PF: answered here for a Local block or where GLOBAL_TARGET names this package; otherwise it
travels on VC3. `reply` is what the target answers; with none within 100 µs a read returns 0, a write is dropped, and ERR is
set. -/
def execRemoteRegisterAccess (offset size : Nat) (write : Option RegData) (reply : Option U64) (s : State) : Out := s.on fun d =>
  if !d.bar 0 then (match write with | none => d.answer (.word 0) | some _ => d)
  else if !targetBlock offset ∨ d.targetSelf then
    match write with
    | some v => d.writePf offset size v
    | none => let r := d.readReg 0 offset size; r.2.answer (.word r.1)
  else
    let d := d.send (.registerAccess ((d.reg Off.globalTarget).extractLsb' 0 8) offset (write.map RegData.value))
    let d := if reply.isNone then { d with glob := { d.glob with targetErr := true } } else d
    match write with
    | none => d.answer (.word (reply.getD 0))
    | some _ => d

end Sys2Proof.Machine
end

