-- ==== Sys2Proof/Machine/Debug.lean ====
section
/-! DEFINITION. JTAG and the debug scopes (R21, R396, R399, R415, R417, R418). -/

namespace Sys2Proof.Machine

/-- Both resets are asserted at the TAP: the pins, or a package held by TEST_EN (R415, R463). -/
def Dev.tapHeld (d : Dev) : Bool := (d.rst.perst && d.rst.resetN) || decide (d.rst.phase = .testHeld)

/-- A valid region that a debugger of scope 2 reaches holds the whole range: non-secure, and shared or of a partition that is not secure
(R399, R417). -/
def Dev.debugRegion (d : Dev) (addr len : Nat) : Bool :=
  (List.range 128).any fun i =>
    let w := d.region i
    rgValid w && !rgSecure w && (rgShared w || !d.partSecure (rgPart w))
      && decide (16384 * rgBase w ≤ addr) && decide (addr + len ≤ 16384 * (rgBase w + rgSize w))

/-- A debugger of scope 2 reaches the cluster (R399, R417). -/
def Dev.debugCluster (d : Dev) (c : Nat) : Bool := match d.clusterOwner c with | some p => !d.partSecure p | none => true

/-- The scope now open grants the access (R417): scope 1 reads non-secure registers, counters and the trace rings of non-secure partitions;
scope 2 also reads and writes non-secure stack regions and scratchpads; scope 3 reaches everything. -/
def Dev.debugMay (d : Dev) (op : DebugOp) : Bool :=
  let s := d.sec.debug
  match op with
  | .register o => s == 3 || (decide (1 ≤ s) && !secOffset o)
  | .counter _ => decide (1 ≤ s)
  | .trace p => s == 3 || (decide (1 ≤ s) && !d.partSecure p)
  | .stackRead a n => s == 3 || (s == 2 && d.debugRegion a n)
  | .stackWrite a bs => s == 3 || (s == 2 && d.debugRegion a bs.length)
  | .spadRead c _ => s == 3 || (s == 2 && d.debugCluster c)
  | .spadWrite c _ _ => s == 3 || (s == 2 && d.debugCluster c)

/-- What a granted access reads or changes. The SEC block's content is not given: its words are free (log 145). -/
def Dev.debugAccess (d : Dev) (op : DebugOp) : Dev :=
  match op with
  | .register o => if secOffset o then d.draw.answer (.tdo (some (Config.freeBits d.fresh 32))) else d.answer (.tdo (some (d.word 0 o)))
  | .counter n => d.answer (.word (d.counter n))
  | .trace p => let r := d.traceRing p; d.answer (.bytes ((r.pages.map TracePage.records ++ [r.page]).flatMap fun pg => pg.flatMap TraceRec.bytes))
  | .stackRead a n => d.answer (.bytes (d.stackRead a n))
  | .stackWrite a bs => (d.stackWrite a bs).answer (.tdo (some 0))
  | .spadRead c r => d.answer (.bytes (d.spadBytes c r))
  | .spadWrite c r w => (d.setSpad c r w).answer (.tdo (some 0))

/-- A JTAG instruction (R415): IDCODE and BYPASS always, SAMPLE/PRELOAD and EXTEST while both resets are asserted, the others only while
debug is unlocked, within its scope. The pins' levels are the board's, and what the other instructions do is not given: what is shifted out
then is a free value (log 29). -/
def execJtagInstruction (ir : JtagIr) (s : State) : Out := s.on fun d =>
  let ok := match ir with
    | .idcode | .bypass => true
    | .samplePreload | .extest => d.tapHeld
    | .debug op => d.debugMay op
    | .other _ => decide (d.sec.debug ≠ 0)
  if ok then
    let d := { d with sec := { d.sec with tap := ir } }
    match ir with
    | .idcode => d.answer (.tdo (some Config.idcode))
    | .bypass => d.answer (.tdo (some 0))
    | .debug op => d.debugAccess op
    | .samplePreload | .extest | .other _ => d.draw.answer (.tdo (some (Config.freeBits d.fresh 32)))
  else d.answer (.tdo none)

end Sys2Proof.Machine
end

