-- ==== Sys2Proof/Machine/Dispatch.lean ====
section
/-! DEFINITION. The dispatch: one arm per command, each one direct call of its meaning. -/

namespace Sys2Proof.Machine

def exec (i : Instr) (s : State) : Host.Outcome State Fault Refusal :=
  match i with
  | .submitRequest o f => Sys2Proof.Machine.execSubmitRequest o f s
  | .setDeadline o handle deadline dlValid now => Sys2Proof.Machine.execSetDeadline o handle deadline dlValid now s
  | .cancel o handle => Sys2Proof.Machine.execCancel o handle s
  | .graftLoad o id parts => Sys2Proof.Machine.execGraftLoad o id parts s
  | .graftRetire o id => Sys2Proof.Machine.execGraftRetire o id s
  | .windowOpen o id base blocks => Sys2Proof.Machine.execWindowOpen o id base blocks s
  | .windowClose o id => Sys2Proof.Machine.execWindowClose o id s
  | .runOperator o spec => Sys2Proof.Machine.execRunOperator o spec s
  | .loadShard o table => Sys2Proof.Machine.execLoadShard o table s
  | .commitShard o dr drValid => Sys2Proof.Machine.execCommitShard o dr drValid s
  | .watchTensor o w => Sys2Proof.Machine.execWatchTensor o w s
  | .calibrate o => Sys2Proof.Machine.execCalibrate o s
  | .query o kind handle graftId bufAddr bufLen => Sys2Proof.Machine.execQuery o kind handle graftId bufAddr bufLen s
  | .getNonce => Sys2Proof.Machine.execGetNonce s
  | .provisionOwner keys => Sys2Proof.Machine.execProvisionOwner keys s
  | .setOwnerSlot a slot keys => Sys2Proof.Machine.execSetOwnerSlot a slot keys s
  | .genUnwrapKey a slot => Sys2Proof.Machine.execGenUnwrapKey a slot s
  | .setPolicy a ideRequired => Sys2Proof.Machine.execSetPolicy a ideRequired s
  | .setPartitionWorld a partition secure => Sys2Proof.Machine.execSetPartitionWorld a partition secure s
  | .advanceSvn a image svn => Sys2Proof.Machine.execAdvanceSvn a image svn s
  | .setLifecycle a target => Sys2Proof.Machine.execSetLifecycle a target s
  | .debugUnlock tok => Sys2Proof.Machine.execDebugUnlock tok s
  | .debugLock => Sys2Proof.Machine.execDebugLock s
  | .queueCtxCreate fn => Sys2Proof.Machine.execQueueCtxCreate fn s
  | .queueCtxDelete fn => Sys2Proof.Machine.execQueueCtxDelete fn s
  | .queueCtxRead fn => Sys2Proof.Machine.execQueueCtxRead fn s
  | .clIndRead fn cluster => Sys2Proof.Machine.execClIndRead fn cluster s
  | .stackRegionReqSubmit index desc => Sys2Proof.Machine.execStackRegionReqSubmit index desc s
  | .deviceSoftReset flr confirm => Sys2Proof.Machine.execDeviceSoftReset flr confirm s
  | .setLock mask => Sys2Proof.Machine.execSetLock mask s
  | .crocusGo addr len pack => Sys2Proof.Machine.execCrocusGo addr len pack s
  | .sysLeaseWrite epoch => Sys2Proof.Machine.execSysLeaseWrite epoch s
  | .sysJobWrite n w => Sys2Proof.Machine.execSysJobWrite n w s
  | .partSetValid n w => Sys2Proof.Machine.execPartSetValid n w s
  | .partClearValid n => Sys2Proof.Machine.execPartClearValid n s
  | .flRetrain port => Sys2Proof.Machine.execFlRetrain port s
  | .monDataRead monB => Sys2Proof.Machine.execMonDataRead monB s
  | .wideRegisterRead read => Sys2Proof.Machine.execWideRegisterRead read s
  | .remoteRegisterAccess offset size write reply => Sys2Proof.Machine.execRemoteRegisterAccess offset size write reply s
  | .registerWrite fn offset size value => Sys2Proof.Machine.execRegisterWrite fn offset size value s
  | .setNumVfs n => Sys2Proof.Machine.execSetNumVfs n s
  | .hdmDecoderCommit ways size => Sys2Proof.Machine.execHdmDecoderCommit ways size s
  | .doorbellSnoop line records => Sys2Proof.Machine.execDoorbellSnoop line records s
  | .sqFetch queue entry cmd => Sys2Proof.Machine.execSqFetch queue entry cmd s
  | .statusWindowRead offset size => Sys2Proof.Machine.execStatusWindowRead offset size s
  | .statusWindowWrite offset value => Sys2Proof.Machine.execStatusWindowWrite offset value s
  | .coalesceTimerExpiry queue => Sys2Proof.Machine.execCoalesceTimerExpiry queue s
  | .cxlLinkTrained width rate flit256 allProtocols => Sys2Proof.Machine.execCxlLinkTrained width rate flit256 allProtocols s
  | .pbrFlitReceive => Sys2Proof.Machine.execPbrFlitReceive s
  | .getEventRecords => Sys2Proof.Machine.execGetEventRecords s
  | .clearEventRecords count => Sys2Proof.Machine.execClearEventRecords count s
  | .getEventInterruptPolicy => Sys2Proof.Machine.execGetEventInterruptPolicy s
  | .setEventInterruptPolicy policy => Sys2Proof.Machine.execSetEventInterruptPolicy policy s
  | .getTimestamp => Sys2Proof.Machine.execGetTimestamp s
  | .setTimestamp t => Sys2Proof.Machine.execSetTimestamp t s
  | .mailboxUnsupportedCommand opcode => Sys2Proof.Machine.execMailboxUnsupportedCommand opcode s
  | .attestationRequest nonce => Sys2Proof.Machine.execAttestationRequest nonce s
  | .ideKmKeySet cachemem inSession => Sys2Proof.Machine.execIdeKmKeySet cachemem inSession s
  | .cdatTableAccess => Sys2Proof.Machine.execCdatTableAccess s
  | .portTrainingDone port failed => Sys2Proof.Machine.execPortTrainingDone port failed s
  | .linkKeyExchange port peer => Sys2Proof.Machine.execLinkKeyExchange port peer s
  | .linkRekey port peer => Sys2Proof.Machine.execLinkRekey port peer s
  | .flitReceive port f => Sys2Proof.Machine.execFlitReceive port f s
  | .retrainTimeout port => Sys2Proof.Machine.execRetrainTimeout port s
  | .lossOfSignal port => Sys2Proof.Machine.execLossOfSignal port s
  | .helloSend port => Sys2Proof.Machine.execHelloSend port s
  | .helloReceive port h => Sys2Proof.Machine.execHelloReceive port h s
  | .helloTimeout port => Sys2Proof.Machine.execHelloTimeout port s
  | .laneSerCheck port counts => Sys2Proof.Machine.execLaneSerCheck port counts s
  | .degradeRequestReceive port acknowledge peerHealthy => Sys2Proof.Machine.execDegradeRequestReceive port acknowledge peerHealthy s
  | .stepDataReceive vc kind partition step rows => Sys2Proof.Machine.execStepDataReceive vc kind partition step rows s
  | .windowWriteReceive m => Sys2Proof.Machine.execWindowWriteReceive m s
  | .windowAckReceive windowId xfer epoch status => Sys2Proof.Machine.execWindowAckReceive windowId xfer epoch status s
  | .windowWriteTimeout xfer => Sys2Proof.Machine.execWindowWriteTimeout xfer s
  | .commandReceive vc c => Sys2Proof.Machine.execCommandReceive vc c s
  | .stepCtlReceive vc partition d => Sys2Proof.Machine.execStepCtlReceive vc partition d s
  | .hostWriteReceive vc m => Sys2Proof.Machine.execHostWriteReceive vc m s
  | .routePushReceive p => Sys2Proof.Machine.execRoutePushReceive p s
  | .routeActivate => Sys2Proof.Machine.execRouteActivate s
  | .timeStepReceive parentTime parentAway => Sys2Proof.Machine.execTimeStepReceive parentTime parentAway s
  | .partitionReset n => Sys2Proof.Machine.execPartitionReset n s
  | .partitionResetReceive n => Sys2Proof.Machine.execPartitionResetReceive n s
  | .bulkReceive vc b => Sys2Proof.Machine.execBulkReceive vc b s
  | .topologyRequestReceive => Sys2Proof.Machine.execTopologyRequestReceive s
  | .topologyCollectEnd reports => Sys2Proof.Machine.execTopologyCollectEnd reports s
  | .leaseBeaconSend => Sys2Proof.Machine.execLeaseBeaconSend s
  | .leaseBeaconReceive b epoch sysId => Sys2Proof.Machine.execLeaseBeaconReceive b epoch sysId s
  | .leaseExpiry => Sys2Proof.Machine.execLeaseExpiry s
  | .fence => Sys2Proof.Machine.execFence s
  | .positionLost x => Sys2Proof.Machine.execPositionLost x s
  | .standbyResync => Sys2Proof.Machine.execStandbyResync s
  | .standbyAckReceive => Sys2Proof.Machine.execStandbyAckReceive s
  | .counterPush => Sys2Proof.Machine.execCounterPush s
  | .counterPushReceive pos report => Sys2Proof.Machine.execCounterPushReceive pos report s
  | .throttleNoticeReceive n => Sys2Proof.Machine.execThrottleNoticeReceive n s
  | .partSetupReceive p => Sys2Proof.Machine.execPartSetupReceive p s
  | .crocusPackReceive p => Sys2Proof.Machine.execCrocusPackReceive p s
  | .crocusEntryRun idx codesH codesL => Sys2Proof.Machine.execCrocusEntryRun idx codesH codesL s
  | .crocusRerun => Sys2Proof.Machine.execCrocusRerun s
  | .traceSample partition => Sys2Proof.Machine.execTraceSample partition s
  | .pcSample cluster => Sys2Proof.Machine.execPcSample cluster s
  | .tracePageSend partition => Sys2Proof.Machine.execTracePageSend partition s
  | .qualSummaryRefresh => Sys2Proof.Machine.execQualSummaryRefresh s
  | .restoreCreditTick => Sys2Proof.Machine.execRestoreCreditTick s
  | .diodeConversion a b => Sys2Proof.Machine.execDiodeConversion a b s
  | .housekeepingConversion monB channel code => Sys2Proof.Machine.execHousekeepingConversion monB channel code s
  | .monHostTrigger monB inDiode abortsHk => Sys2Proof.Machine.execMonHostTrigger monB inDiode abortsHk s
  | .monHostResult monB code => Sys2Proof.Machine.execMonHostResult monB code s
  | .throttleEval => Sys2Proof.Machine.execThrottleEval s
  | .ledgerTimeTick => Sys2Proof.Machine.execLedgerTimeTick s
  | .ledgerTimeSave => Sys2Proof.Machine.execLedgerTimeSave s
  | .calIntervalTrigger tile => Sys2Proof.Machine.execCalIntervalTrigger tile s
  | .calibrationComplete cluster tile => Sys2Proof.Machine.execCalibrationComplete cluster tile s
  | .idleTrimApply => Sys2Proof.Machine.execIdleTrimApply s
  | .debugExpiry => Sys2Proof.Machine.execDebugExpiry s
  | .watchdogService => Sys2Proof.Machine.execWatchdogService s
  | .watchdogExpiry => Sys2Proof.Machine.execWatchdogExpiry s
  | .coldPowerUp => Sys2Proof.Machine.execColdPowerUp s
  | .warmResetAssert perst => Sys2Proof.Machine.execWarmResetAssert perst s
  | .resetRelease nodeId spareSel testEn => Sys2Proof.Machine.execResetRelease nodeId spareSel testEn s
  | .bootImageVerify img => Sys2Proof.Machine.execBootImageVerify img s
  | .deviceReady => Sys2Proof.Machine.execDeviceReady s
  | .pllLockLoss => Sys2Proof.Machine.execPllLockLoss s
  | .brownoutWarn => Sys2Proof.Machine.execBrownoutWarn s
  | .brownoutReturn => Sys2Proof.Machine.execBrownoutReturn s
  | .brownoutReset => Sys2Proof.Machine.execBrownoutReset s
  | .criticalAssert => Sys2Proof.Machine.execCriticalAssert s
  | .criticalDeassert => Sys2Proof.Machine.execCriticalDeassert s
  | .thermalTrip cause => Sys2Proof.Machine.execThermalTrip cause s
  | .tripLatchClear => Sys2Proof.Machine.execTripLatchClear s
  | .serRailLoss => Sys2Proof.Machine.execSerRailLoss s
  | .serRailRestore => Sys2Proof.Machine.execSerRailRestore s
  | .auxRailLoss => Sys2Proof.Machine.execAuxRailLoss s
  | .jtagInstruction ir => Sys2Proof.Machine.execJtagInstruction ir s
  | .tapReset => Sys2Proof.Machine.execTapReset s
  | .i3cTransaction op => Sys2Proof.Machine.execI3cTransaction op s
  | .leadBoundary partition prompts tags => Sys2Proof.Machine.execLeadBoundary partition prompts tags s
  | .memberBoundary partition => Sys2Proof.Machine.execMemberBoundary partition s
  | .stepScheduleStart partition => Sys2Proof.Machine.execStepScheduleStart partition s
  | .sequencerAction cluster a => Sys2Proof.Machine.execSequencerAction cluster a s
  | .edgeConversion tile layer dataRow expRow r transposed accBase rowHandle => Sys2Proof.Machine.execEdgeConversion tile layer dataRow expRow r transposed accBase rowHandle s
  | .meshTransfer cluster planned slots service load => Sys2Proof.Machine.execMeshTransfer cluster planned slots service load s
  | .tileEvalStart tile => Sys2Proof.Machine.execTileEvalStart tile s
  | .tileEvalComplete tile codesH codesL codesH2 codesL2 => Sys2Proof.Machine.execTileEvalComplete tile codesH codesL codesH2 codesL2 s
  | .splitEvalStart tile => Sys2Proof.Machine.execSplitEvalStart tile s
  | .tileReplayStart tile => Sys2Proof.Machine.execTileReplayStart tile s
  | .checksumReevalStart tile => Sys2Proof.Machine.execChecksumReevalStart tile s
  | .columnPatchComplete tile col => Sys2Proof.Machine.execColumnPatchComplete tile col s
  | .shadowSample tile => Sys2Proof.Machine.execShadowSample tile s
  | .cacheMissFill cluster line => Sys2Proof.Machine.execCacheMissFill cluster line s
  | .restoreRow tile due row => Sys2Proof.Machine.execRestoreRow tile due row s
  | .programmingStart tile => Sys2Proof.Machine.execProgrammingStart tile s
  | .programRow tile verify => Sys2Proof.Machine.execProgramRow tile verify s
  | .verificationTest tile codes => Sys2Proof.Machine.execVerificationTest tile codes s
  | .dahliaOpStart op => Sys2Proof.Machine.execDahliaOpStart op s
  | .dahliaOpComplete half => Sys2Proof.Machine.execDahliaOpComplete half s
  | .lupinChunkJob partition job lane buffer chunk => Sys2Proof.Machine.execLupinChunkJob partition job lane buffer chunk s
  | .attentionBarrierRelease partition => Sys2Proof.Machine.execAttentionBarrierRelease partition s
  | .foxgloveRow partition handle pos => Sys2Proof.Machine.execFoxgloveRow partition handle pos s
  | .stackAccess r addr op => Sys2Proof.Machine.execStackAccess r addr op s
  | .pcMigrationBlock pc block readable => Sys2Proof.Machine.execPcMigrationBlock pc block readable s
  | .ledgerEventReport e => Sys2Proof.Machine.execLedgerEventReport e s
  | .chunkReadComplete partition chunk arrival => Sys2Proof.Machine.execChunkReadComplete partition chunk arrival s
  | .chunkReadTimeout partition chunk => Sys2Proof.Machine.execChunkReadTimeout partition chunk s
  | .memberCommit partition digestFailures => Sys2Proof.Machine.execMemberCommit partition digestFailures s
  | .replicaCopyComplete partition version digest => Sys2Proof.Machine.execReplicaCopyComplete partition version digest s
  | .watchDumpWrite partition watch => Sys2Proof.Machine.execWatchDumpWrite partition watch s
  | .reqHoldExpiry slot => Sys2Proof.Machine.execReqHoldExpiry slot s
  | .linkDownReportReceive node port x => Sys2Proof.Machine.execLinkDownReportReceive node port x s
  | .laneSignalLoss port lane => Sys2Proof.Machine.execLaneSignalLoss port lane s
  | .linkSignalDetect port => Sys2Proof.Machine.execLinkSignalDetect port s
  | .regulatorSoftStart => Sys2Proof.Machine.execRegulatorSoftStart s
  | .jobPushReceive n w => Sys2Proof.Machine.execJobPushReceive n w s
  | .stackSupplyWindowLoss => Sys2Proof.Machine.execStackSupplyWindowLoss s

end Sys2Proof.Machine
end

