-- ==== Sys2Proof/Machine/Ring.lean ====
section
/-! DEFINITION. The sending side of the links: the header of a message, which port it takes, and which flit leaves a port next (R276, R277, R280
to R288). -/

namespace Sys2Proof.Machine

/-! ### Where a message goes (R264, R284, R285) -/

/-- Whom a message is for: nobody but the far end of a port, a position, a package, the primary gateway, its standby, both, the lead of a job
alone or with the gateway, the next member of a job's pipeline, every neighbour, or every package. -/
inductive Dest where
  | link
  | position (pos : Nat)
  | node (n : BitVec 7)
  | gateway
  | standby
  | gateways
  | lead (p : Nat)
  | leadAndGateway (p : Nat)
  | next (p : Nat)
  | neighbours
  | everyone
  deriving DecidableEq, Repr

/-- The position one step along X. -/
def Dev.besideX (d : Dev) (port : Nat) : Dest := match d.stepPos d.sys.position port with | some pos => .position pos | none => .link

/-- The destination of a BULK message. -/
def Dev.bulkDest (d : Dev) (b : BulkBody) : Dest :=
  match b with
  | .graftPart _ _ _ x => .position x.position
  | .graftReport id _ _ _ => match d.graftOwner id.toNat with | some p => .lead p | none => .gateway
  | .loadReport p .. | .calReport p .. | .logits p .. | .opReport p .. => .lead p
  | .commitReport p .. => .leadAndGateway p
  | .replica .. | .replicaPart .. | .replicaRead .. => d.besideX 1
  | .replicaWanted _ | .replicaHeld .. | .replicaRoom .. | .recovery .. | .shardChunk .. => d.besideX 0
  | .bankReport p .. => .lead p
  | .bankQuery pos _ => .position pos
  | .dump .. | .tracePage .. => .gateway

/-- A destination as a header names it. -/
def Dest.ofByte (x : Byte) : Dest := if x.getLsbD 7 then .node (x.extractLsb' 0 7) else .position (fieldNat x 5 0)

/-- The destination of a message and the virtual channel of its kind (R280, R284, R296, R306, R377, R388, R447). -/
def Dev.destOf (d : Dev) (m : OutMsg) : Dest × BitVec 2 :=
  match m with
  | .hello .. | .nak .. | .replayFrom .. | .degrade .. | .keyExchange _ | .keySwitch .. | .credits .. => (.link, 0)
  | .windowAck n .. => (.node n, 2)
  | .windowWrite pos _ => (.position pos, 1)
  | .command pos _ => (.position pos, 2)
  | .stepCtl pos _ _ => (.position pos, 2)
  | .tag p _ => (.lead p, 2)
  | .stepData p _ zero _ => (.next p, if zero then 0 else 1)
  | .hostWrite (.mirror ..) => (if d.sys.primary then .standby else .gateways, 2)
  | .hostWrite _ => (if d.sys.primary then .standby else .gateway, 2)
  | .routePush n _ => (.node n, 2)
  | .timeStep .. => (.neighbours, 2)
  | .partReset _ => (.everyone, 2)
  | .promptRead .. => (.gateway, 2)
  | .linkDown _ => (.gateway, 3)
  | .topologyReport _ => (if d.sys.route.isEmpty then .neighbours else .gateway, 3)
  | .counters .. => (if d.sys.primary then .standby else .gateways, 3)
  | .topologyRequest | .beacon .. => (.neighbours, 3)
  | .notice _ | .partSetup _ | .crocus _ => (.everyone, 3)
  | .jobPush dst _ _ | .registerAccess dst _ _ => (Dest.ofByte dst, 3)
  | .logits x => (.lead x.partition, 1)
  | .embedded p _ _ => (.lead p, 1)
  | .bulk b => (d.bulkDest b, 1)
  | .hostRead .. => (.gateway, 2)
  | .refetch _ _ replica => (if replica then d.besideX 1 else .gateway, 1)
  | .transit _ _ vc head => (Dest.ofByte (headDst head), vc)

/-- The kind of a message (R284; of messages that the table does not list DEDUCED, log 177). -/
def OutMsg.kind : OutMsg → BitVec 4
  | .windowWrite .. => 1
  | .windowAck .. => 2
  | .command .. => 3
  | .stepCtl .. | .tag .. => 4
  | .hostWrite _ | .hostRead .. | .promptRead .. => 5
  | .routePush .. | .timeStep .. | .partReset _ => 6
  | .bulk _ | .logits _ | .embedded .. | .refetch .. => 7
  | .linkDown _ | .topologyRequest | .topologyReport _ | .beacon .. | .counters .. | .notice _ | .partSetup _ | .jobPush .. | .crocus _
  | .registerAccess .. => 8
  | _ => 0

/-- PARTITION of a message: of the job that it belongs to, 0 where it belongs to none (R283; log 177). -/
def OutMsg.partition : OutMsg → Nat
  | .windowWrite _ m => m.partition
  | .command _ c => c.origin.partition
  | .stepCtl _ p _ | .stepData p .. | .tag p _ | .embedded p .. | .hostRead p .. | .refetch p .. => p
  | .logits x => x.partition
  | .partReset n | .jobPush _ n _ => n
  | _ => 0

/-- The header of message number `k` for a destination (R283): LEN and SPECIFIC as given for window writes and acknowledgements, else free (R299;
log 140). A message in transit keeps its own. -/
def Dev.headOf (d : Dev) (k : Nat) (m : OutMsg) (dst : Byte) : BitVec 128 :=
  let head := fun (specific : U64) (len : BitVec 24) => messageHeader specific len m.partition m.kind d.glob.node dst
  match m with
  | .transit _ _ _ h => h
  | .windowWrite _ x => head x.specific (BitVec.ofNat 24 x.body.length)
  | .windowAck _ w x e st => head (ackSpecific w x e st) 0
  | _ => head (Config.specific k) (Config.bodyBytes k)

/-- The output port toward a package: 6 for this one, 7 where it is unreachable (R285). -/
def Dev.portTo (d : Dev) (n : BitVec 7) : Nat := if n = d.glob.node then 6 else fieldNat (SMap.get (7 : Byte) d.sys.route n.toNat) 2 0

/-- NODE_ADDR and DST of a package, and of a position (R283). -/
def nodeByte (n : BitVec 7) : Byte := (1 : BitVec 1) ++ n
def posByte (pos : Nat) : Byte := BitVec.ofNat 8 pos

/-- A package as a target: the port toward it and its DST. -/
def Dev.nodeTarget (d : Dev) (n : BitVec 7) : Nat × Byte := (d.portTo n, nodeByte n)

/-- A position as a target. -/
def Dev.posTarget (d : Dev) (pos : Nat) : Nat × Byte :=
  (if d.sys.coordValid && pos == d.sys.position then 6 else if d.present pos then d.portTo (d.nodeAt pos) else 7, posByte pos)

/-- The ports that a destination is reached through, each with the DST of its copy. A message for every package goes to each one that the route table
reaches (DESIGN CHOICE, log 178). -/
def Dev.targets (d : Dev) (x : Dest) : List (Nat × Byte) :=
  let gateway := if d.sys.primary then (6, nodeByte d.glob.node) else d.nodeTarget d.sys.gwNode
  let lead := fun (p : Nat) => d.posTarget ((d.members p).headD 64)
  match x with
  | .link => []
  | .position p => [d.posTarget p]
  | .node n => [d.nodeTarget n]
  | .gateway => [gateway]
  | .standby => match d.standbyNode with | some n => [d.nodeTarget n] | none => []
  | .gateways => gateway :: match d.sys.standbyKnown with
    | some s => if s.1 = d.sys.gwNode ∨ s.1 = d.glob.node then [] else [d.nodeTarget s.1]
    | none => []
  | .lead p => [lead p]
  | .leadAndGateway p => if (lead p).1 = gateway.1 ∧ d.nodeAt ((d.members p).headD 64) = d.sys.gwNode then [lead p] else [lead p, gateway]
  | .next p => match d.memberIndex p with
    | some i => [d.posTarget (((d.members p)[i + 1]?).getD ((d.members p).headD 64))]
    | none => [(7, 0)]
  | .neighbours => ((List.range 6).filter fun k => (d.port k).state == 3).map fun k => (k, nodeByte (d.port k).peerNode)
  | .everyone => ((List.range 128).filter fun n => decide (d.portTo (BitVec.ofNat 7 n) < 6)).map fun n => d.nodeTarget (BitVec.ofNat 7 n)

/-- A port carries messages: in service, or keyed and retraining. -/
def Port.inService (p : Port) : Bool := p.state == 3 || (p.state == 1 && p.keyed)

/-- The package that a DST names. -/
def Dev.nodeOfByte (d : Dev) (dst : Byte) : BitVec 7 := if dst.getLsbD 7 then dst.extractLsb' 0 7 else d.nodeAt (fieldNat dst 5 0)

/-- The second path of a two-port transfer: −Z in an axis of two, else another port in service whose neighbour is the nearest to the destination
(R288, R308; the choice is the model's, log 178). -/
def Dev.secondPort (d : Dev) (dst : BitVec 7) (k : Nat) : Nat :=
  if k = 4 ∧ d.zm1 = 1 ∧ (d.port 5).inService then 5
  else
    let ways := ((d.nextTo d.glob.node).filter fun e => e.1 != k && (d.port e.1).inService).filterMap fun e =>
      (d.hops dst 128 [d.glob.node, e.2] [e.2]).map fun h => (e.1, h)
    match ways.foldl (fun b e => match b with
        | none => some e
        | some c => if e.2 < c.2 then some e else some c) (none : Option (Nat × Nat)) with
    | some e => e.1
    | none => k

/-- The port that message number `k` takes in place of its route's: −Z stands by for +Z in an axis of two, and the chunks of a shard for a spare
go by two ports in turn (R288, R308). -/
def Dev.portFor (d : Dev) (k : Nat) (m : OutMsg) (dst : Byte) (n : Nat) : Nat :=
  if n = 4 ∧ d.zm1 = 1 ∧ !(d.port 4).inService ∧ (d.port 5).inService then 5
  else match m with
    | .bulk (.shardChunk ..) => if k % 2 = 1 then d.secondPort (d.nodeOfByte dst) n else n
    | _ => n

/-- The dateline class in which a message leaves by port `n`: its own begin in class 0; one in transit is in class 1 once it has crossed the wrap
link of its axis, until it turns into another (R286). -/
def Dev.classOf (d : Dev) (m : OutMsg) (n : Nat) : Bool :=
  match m with
  | .transit q dl _ _ => (dl || d.wraps d.glob.node q) && q / 2 == n / 2
  | _ => false

/-- Message number `k` goes to its ports: a package out of reach has it discarded and counted (R285); while the port of its route is not in
service it waits for another route (R287). -/
def Dev.toPorts (d : Dev) (k : Nat) (m : OutMsg) : Dev :=
  let x := d.destOf m
  d.forAll (d.targets x.1) fun d t =>
    if t.1 = 6 then d
    else if t.1 ≥ 7 then d.count DC.msgDiscard
    else
      let n := d.portFor k m t.2 t.1
      let head := d.headOf k m t.2
      if (d.port n).inService then
        d.updPort n fun p => { p with tx := p.tx ++ [{ message := k, vc := x.2, dl := d.classOf m n, head := head, flits := flitsOf head
                                                       begun := false }] }
      else { d with link := { d.link with again := d.link.again ++ [k] } }

/-- Every message that waits is given to its port: those to be injected again, then those sent since. -/
def Dev.handOver (d : Dev) : Dev :=
  let new := (List.range (d.host.sent.length - d.link.handed)).map fun i => d.link.handed + i + 1
  let ks := d.link.again ++ new
  let d := { d with link := { d.link with handed := d.host.sent.length, again := [] } }
  d.forAll ks fun d k => match d.host.sent[k - 1]? with | some m => d.toPorts k m | none => d

/-! ### The next flit of a port (R276, R280, R281) -/

/-- FL_VC1_FLOOR in percent (R313). -/
def Dev.vc1Floor (d : Dev) : Nat := min 50 (fieldNat (d.reg Off.sysCtl) 31 16)

/-- Flit time of a port in 0.01 ns (R276). -/
def Port.flitTime (p : Port) : Nat := if p.width = 0 then 0 else 242 * 8 / p.width.toNat

/-- The oldest message of a virtual channel that waits for the port and has a credit of its dateline class. -/
def Port.head (p : Port) (vc : BitVec 2) : Option TxMsg :=
  p.tx.find? fun x => x.vc == vc && decide (p.credits.getD (creditIndex vc x.dl) 0 ≠ 0)

/-- VC1 has had less than its floor of the 1 µs window that runs (R280; log 140). -/
def Port.floorDue (p : Port) (floor elapsed : Nat) : Bool := decide (p.floorSent * p.flitTime < floor * elapsed)

/-- The message whose flit leaves next: VC1 below its floor, else by strict priority VC2, VC0, VC3, VC1 (R280, R281). -/
def Port.choose (p : Port) (floor elapsed : Nat) : Option TxMsg :=
  match p.head 1 with
  | some x => if p.floorDue floor elapsed then some x else ([2, 0, 3, 1] : List (BitVec 2)).findSome? p.head
  | none => ([2, 0, 3] : List (BitVec 2)).findSome? p.head

/-- A flit of message `x` leaves, TYPE 2 where it is the last one: it takes a credit of its class (R277, R281). -/
def Port.sendFlit (p : Port) (x : TxMsg) : Port :=
  { p.emit x.vc (if x.flits ≤ 1 then 2 else 1) x.message x.dl !x.begun with
      tx := if x.flits ≤ 1 then p.tx.erase x else p.tx.map fun y => if y = x then { x with flits := x.flits - 1, begun := true } else y
      credits := p.credits.modify (creditIndex x.vc x.dl) (· - 1)
      idleGap := p.idleGap + 1, floorSent := if x.vc = 1 then p.floorSent + 1 else p.floorSent }

/-- An idle flit leaves, which is message number `k`, and returns every credit owed (R281). -/
def Port.sendIdle (p : Port) (k : Nat) : Port := { p.emit 0 0 k false false with owed := noCredits, idleGap := 0 }

/-- Credits are owed to the far end. -/
def Port.owes (p : Port) : Bool := p.owed.any (· != 0)

/-- One nanosecond of a port: when the flit time is over the next flit leaves, NAK and link-control flits that wait before any other; a miswired port
sends no other (R288). Owed credits go out once every 32 flit times at the least, and
where no message is ready (R281). No flit leaves while 1,024 wait for their acknowledgement (R278). -/
def Dev.tickPort (d : Dev) (n : Nat) : Dev :=
  let p := d.port n
  if !p.keyed ∨ (p.state ≠ 3 ∧ p.state ≠ 4) then d
  else if p.txWait ≥ 100 then d.setPort n { p with txWait := p.txWait - 100 }
  else
    let fresh := decide (d.since p.floorAt ≥ 1000)
    let p := if fresh then { p with floorAt := d.now, floorSent := 0 } else p
    let next := p.choose d.vc1Floor (d.since p.floorAt)
    let timed := { p with txWait := p.txWait + p.flitTime - 100 }
    if p.replay.length ≥ 1024 then d.setPort n { p with txWait := 0 }
    else if p.state = 4 ∨ !p.ctl.isEmpty then match p.ctl with
      | c :: rest => (d.setPort n { timed with ctl := rest }).leaveCtl n c
      | [] => d.setPort n { p with txWait := 0 }
    else if p.owes && (decide (p.idleGap ≥ 31) || next.isNone) then
      ((d.setPort n (timed.sendIdle (d.host.sent.length + 1))).count (DC.flFlitTx + n)).send (.credits n p.owed)
    else match next with
      | some x => (d.setPort n (timed.sendFlit x)).count (DC.flFlitTx + n)
      | none => d.setPort n { p with txWait := 0 }

/-- One nanosecond of the I/O ring and of every port. -/
def Dev.tickLinks (d : Dev) : Dev := d.handOver.forAll (List.range 6) Dev.tickPort

end Sys2Proof.Machine
end

