-- ==== Sys2Proof/Machine/Tick.lean ====
section
/-! DEFINITION. What passes with time alone: one CORE_CLK cycle, which is what a step does when no command waits (log 1). -/

namespace Sys2Proof.Machine

/-- The clocks run: from reset release on, while the package is powered (R236, R238, R380, R386). -/
def Dev.clocked (d : Dev) : Bool :=
  match d.rst.phase with
  | .booting | .ready | .bootFailed => true
  | _ => false

/-- Evaluations of a cluster that wait for a restore: inputs at the row drivers and evaluations owed, of tiles whose restore comes first or has a
row in progress, and the operation that the sequencer cannot issue for one (R62, R77, R118). -/
def Dev.restoreWaits (d : Dev) (c : Nat) : Nat :=
  let waits := fun (k : Nat) => let t := d.tile k
    (t.edge.isSome || !t.owed.isEmpty) && t.evals.isEmpty && (d.restoreFirst k || d.rowRuns k)
  ((tilesOf c).filter waits).length + (if (d.cluster c).sequencer.stall = 8 then 1 else 0)

/-- A wait that counts against no pair, or against another, grows by a nanosecond (R105, R212). -/
def Seq.wait (q : Seq) : Seq := if q.stall ≠ 0 ∧ q.waitsFor.isSome ∧ q.excusing then { q with excused := q.excused + 1 } else q

/-- Adds to a cluster's counter, where there is something to add. -/
def Dev.addC (d : Dev) (c k n : Nat) : Dev := if n = 0 then d else d.countC c k n

/-- One cycle of a cluster: what its waits add to its counters, TILE_CLK counting two in a CORE_CLK cycle, and its guard window (R77, R105,
R106, R236, R239). -/
def Dev.tickCluster (d : Dev) (c : Nat) : Dev :=
  let x := d.cluster c
  let one := fun (b : Bool) => if b then 1 else 0
  let d := d.addC c CC.tileBudgetWait (2 * (x.waiting.filter fun w => w.rank == 1).length)
  let d := d.addC c CC.tileRestoreWait (2 * d.restoreWaits c)
  let d := d.addC c CC.seqRecvWait (one x.sequencer.receiving)
  let d := d.addC c CC.seqHold (one x.sequencer.holding)
  let d := if x.sequencer.atBarrier then d.count DC.attBarrierWait else d
  let d := d.addC c CC.cacheMissWait (one !x.missWait.isEmpty)
  (d.updSeq c Seq.wait).checkGuard c

/-- A limit imposed at once holds an operation back (R25, R367, R395). -/
def Dev.protWaits (d : Dev) : Bool :=
  (d.power.crit || d.power.monLimit || d.power.boHold)
    && (!d.engine.waiting.isEmpty || d.array.clusters.any fun e => !e.2.waiting.isEmpty)

/-- A queue pair has pending entries and no credit (R257, R273). -/
def QCtx.starved (x : QCtx) : Bool := !x.halted && x.sqHead != x.sqTail && decide (x.credit = 0)

/-- Cycles that waits outside the clusters add to the device counters (R170, R209, R273, R314, R395). -/
def Dev.tickWaits (d : Dev) : Dev :=
  let d := d.count DC.dahliaHalfCycles d.runningHalves
  let d := if !d.engine.waiting.isEmpty ∧ d.runningHalves < 32 ∧ !d.halfFits then d.count DC.dahliaBudgetWait else d
  let d := d.count DC.slotWaitCycles d.slotWaiters
  let d := if d.host.queues.any fun e => (match e.2 with | some x => x.starved | none => false) then d.count DC.cqCreditWait else d
  let d := if d.sys.standbyHeld.isEmpty then d else d.count DC.standbyWait
  if d.protWaits then d.count DC.protWaitCycles else d

/-- One CORE_CLK cycle: device time advances by 1 ns and the root clock by 8 periods, waits are counted, schedules that wait for a frame begin,
Dahlia operations start as soon as they can, and the links carry what waits (R146, R212, R236, R238, R281). The root PLL has locked 0.1 ms
after release (R386; log 139). Device time holds at 0 from the entry of a reset to its release; the time that VIN_IVR
has been above 1.74 V is counted there (R372). -/
def Dev.tick (d : Dev) : Dev :=
  if d.clocked then
    let n := d.rst.rootCount + 8
    let d := { d with glob := { d.glob with timeNs := d.glob.timeNs + 1 }
                      rst := { d.rst with rootCount := n, rootLock := d.rst.rootLock || decide (n.toNat ≥ 800000) } }
    ((((d.forAll (d.array.clusters.map Prod.fst) Dev.tickCluster).tickWaits).startDue).startHalves 32).tickLinks
  else if d.rst.vinUp then { d with rst := { d.rst with vinFor := min 1000000 (d.rst.vinFor + 1) } }
  else d

end Sys2Proof.Machine
end

