-- ==== Sys2Proof/Safety.lean ====
section
/-! DEFINITION. What a run must keep, in the terms the claims use. -/

namespace Sys2Proof.Machine

/-- The fuses and the key store: LIFECYCLE, the minimum SVNs, the owner slots, the unwrap keys (R410, R411, R413). -/
def SecBlk.vault (x : SecBlk) : BitVec 2 × SMap Nat × SMap (Option (BitVec 384)) × SMap Nat :=
  (x.lifecycle, x.minSvn, x.owners, x.unwrap)
def Dev.vault (d : Dev) : BitVec 2 × SMap Nat × SMap (Option (BitVec 384)) × SMap Nat := d.sec.vault

/-- The stack's content is in its canonical form. -/
def Dev.memOk (d : Dev) : Bool := Memory.wf d.stack.mem

/-- The command completes: it answers a next state with the queue as it was, and what it leaves of the package meets `post`. -/
def Runs (i : Instr) (s : State) (post : Dev → Prop) : Prop := ∃ d', exec i s = .next { s with dev := d' } ∧ post d'

/-- The blocks of the package. -/
inductive Blk where
  | rst | glob | sys | link | host | serve | array | engine | stack | power | part | ledger | sec | obs | fresh
  deriving DecidableEq, Repr

/-- The blocks are equal. -/
def Dev.same (d d' : Dev) : Blk → Prop
  | .rst => d'.rst = d.rst | .glob => d'.glob = d.glob | .sys => d'.sys = d.sys | .link => d'.link = d.link
  | .host => d'.host = d.host | .serve => d'.serve = d.serve | .array => d'.array = d.array
  | .engine => d'.engine = d.engine | .stack => d'.stack = d.stack | .power => d'.power = d.power
  | .part => d'.part = d.part | .ledger => d'.ledger = d.ledger | .sec => d'.sec = d.sec | .obs => d'.obs = d.obs
  | .fresh => d'.fresh = d.fresh

/-- The frame of a command: every block not listed is as it was. -/
def Dev.only (d d' : Dev) (bs : List Blk) : Prop := ∀ b, b ∉ bs → d.same d' b

/-- A run of the package is unchanged but for its device counters, which only count. -/
def Dev.silent (d d' : Dev) : Prop := d.only d' [.obs]

end Sys2Proof.Machine
end

