-- ==== Sys2Proof/WellFormed.lean ====
section
/-! DEFINITION. Well-formed commands: every number an operand carries names something the ZM9 has, and every list is as long as
what it lists. -/

namespace Sys2Proof

/-- Partitions 0 to 63 (R400), logical positions 0 to 63 (R281), ports FL0 to FL5 (R274), lanes 0 to 7 (R275). -/
def partOk (p : Nat) : Bool := decide (p < 64)
def posOk (p : Nat) : Bool := decide (p < 64)
def portOk (p : Nat) : Bool := decide (p < 6)
def laneOk (l : Nat) : Bool := decide (l < 8)

/-- Clusters 0 to 511 and tiles 0 to 32,767 (R32, R210); the PF is function 0, virtual function n is function n (R244). -/
def clusterOk (c : Nat) : Bool := decide (c < 512)
def tileOk (t : Nat) : Bool := decide (t < 32768)
def fnOk (f : Nat) : Bool := decide (f ≤ 64)

/-- Queue and ring IDs of 18 bits (R251); request slots 0 to 199,999 (R174). -/
def queueOk (q : Nat) : Bool := decide (q < 262144)
def slotOk (s : Nat) : Bool := decide (s < 200000)

/-- One code, or none, for every column of a tile (R39). -/
def codesOk (cs : List Byte) : Bool := cs.length == 520 || cs.isEmpty

/-- A list of n-element lists. -/
def rowsOk (n : Nat) (xs : List (List Byte)) : Bool := xs.all fun x => x.length == n

/-- A command's origin. -/
def Origin.wf (o : Origin) : Bool := queueOk o.queue && partOk o.partition

/-- SUBMIT_REQUEST names a ring (R261). -/
def SubmitFields.wf (f : SubmitFields) : Bool := queueOk f.outRing

/-- An address operand names a position and a cluster (R259). -/
def AddrOp.wf (a : AddrOp) : Bool := posOk a.position && clusterOk a.cluster

def OperatorSpec.wf (x : OperatorSpec) : Bool :=
  match x with
  | .library _ (some a) => a.wf
  | .library _ none => true
  | .tuning rows lens _ _ _ _ _ => decide (rows < 65536) && lens.all fun n => decide (n < 65536)

def WatchSpec.wf (w : WatchSpec) : Bool := w.addr.wf

/-- Shard-set entries name members 0 to 63 (R321). -/
def tableOk (t : List ShardEntry) : Bool := t.all fun e => decide (e.member < 64)

/-- An owner slot is 0 to 15 (R411). -/
def OwnerAuth.wf (a : OwnerAuth) : Bool := decide (a.slot < 16)

/-- A Crocus pack has as many entries as its header says, each of which names a logical tile 0 to 61 (R347). -/
def CrocusPack.wf (p : CrocusPack) : Bool :=
  decide (fieldNat p.header 159 128 = p.entries.length) && p.entries.all fun e => decide (fieldNat e 20 15 < 62)

def RegData.wf (x : RegData) : Bool := match x.pack with | some p => p.wf | none => true

def Hello.wf (h : Hello) : Bool := portOk h.port && posOk h.position

/-- A one-sided write carries 1 to 65,536 bytes (R299). -/
def WinWrite.wf (m : WinWrite) : Bool := decide (1 ≤ m.body.length) && decide (m.body.length ≤ 65536) && partOk m.partition

/-- A step has at most 256 rows (R182). -/
def StepDesc.wf (d : StepDesc) : Bool := decide (d.rows.length ≤ 256)

def FwdBody.wf (b : FwdBody) : Bool :=
  match b with
  | .submit f => f.wf
  | .runOperator x => x.wf
  | .loadShard t => tableOk t
  | .watch w => w.wf
  | _ => true
def FwdCmd.wf (c : FwdCmd) : Bool := c.origin.wf && c.body.wf

def HostWriteMsg.wf (m : HostWriteMsg) : Bool :=
  match m with
  | .record r _ _ => queueOk r
  | .completion q _ => queueOk q
  | .admission q _ _ _ _ => queueOk q
  | .mirror s _ => slotOk s
  | .buffer q _ _ => queueOk q
  | .partResetDone p pos => partOk p && posOk pos
  | .rejoin _ pos rs => (match pos with | some p => posOk p | none => true) && rs.all fun r => partOk r.1
  | .forwarded o _ ring _ => o.wf && queueOk ring
  | .context .. | .packTaken .. | .standbySync _ => true

/-- A push maps positions 0 to 63 and node IDs 0 to 127 (R285). -/
def TopoReport.wf (r : TopoReport) : Bool := r.far.all fun e => portOk e.1 && portOk e.2.2

def RoutePush.wf (p : RoutePush) : Bool :=
  (p.posMap.all fun e => posOk e.1) && (p.routes.all fun e => decide (e.1 < 128)) && p.jobs.all partOk && p.topo.all TopoReport.wf

def RouteSet.wf (x : RouteSet) : Bool := x.tables.all fun t => t.2.all fun e => decide (e.1 < 128)
def Loss.wf (x : Loss) : Bool := posOk x.pos && (match x.routes with | some r => r.wf | none => true)

def BulkBody.wf (b : BulkBody) : Bool :=
  match b with
  | .shardChunk p _ => partOk p
  | .replicaRead p _ => partOk p
  | .bankReport p m _ _ => partOk p && decide (m < 64)
  | .bankQuery pos p => posOk pos && partOk p
  | .loadReport p m _ _ => partOk p && decide (m < 64)
  | .commitReport p m _ _ => partOk p && decide (m < 64)
  | .calReport p pos _ => partOk p && posOk pos
  | .replica p _ _ _ => partOk p
  | .replicaRoom p _ => partOk p
  | .replicaPart p _ => partOk p
  | .replicaWanted p => partOk p
  | .replicaHeld p _ _ => partOk p
  | .recovery p _ _ _ => partOk p
  | .graftPart _ _ _ part => posOk part.position
  | .graftReport _ _ pos _ => posOk pos
  | .logits p _ _ _ _ => partOk p
  | .dump p w _ => partOk p && decide (w < 16)
  | .tracePage p bs => partOk p && bs.length == 4096
  | .opReport p _ _ _ => partOk p

def PartSetup.wf (p : PartSetup) : Bool := partOk p.partition
/-- A KV page of the pool, its positions and its streams (R158, R163). -/
def KvPage.wf (k : KvPage) : Bool := decide (k.page < 2 ^ 23) && decide (k.count ≤ 255)

/-- An operand of Dahlia: a byte of a scratchpad, or of the 2 GiB of a bank's Dahlia weights (R143, R323). -/
def DahliaSrc.wf (x : DahliaSrc) : Bool :=
  match x.cluster with
  | some c => clusterOk c && decide (x.addr < 262144)
  | none => decide (x.addr < 2147483648)
def DahliaTerm.wf (t : DahliaTerm) : Bool := t.a.wf && t.b.wf
def DahliaOut.wf (o : DahliaOut) : Bool :=
  match o with
  | .z8 r b => decide (r < 512) && decide (b < 512)
  | _ => true

/-- The output of a head lies in a scratchpad row and its exponents in another (R155). -/
def AttOut.wf (o : AttOut) : Bool :=
  clusterOk o.cluster && decide (o.row < 512) && decide (o.at_ < 512) && decide (o.expRow < 512) && decide (o.expByte < 512)

def AttQuery.wf (q : AttQuery) : Bool :=
  clusterOk q.cluster && decide (q.addr < 262144) && (match q.out with | some o => o.wf | none => true)

/-- At most 16 heads share a stream (R151). -/
def AttJob.wf (j : AttJob) : Bool := decide (j.queries.length ≤ 16) && j.queries.all AttQuery.wf

def EmbedDest.wf (x : EmbedDest) : Bool :=
  match x with
  | .row c d e r => clusterOk c && decide (d < 512) && decide (e < 512) && decide (r < 32)
  | .lead _ => true

def DahliaOp.wf (o : DahliaOp) : Bool :=
  partOk o.partition && (match o.kind with
    | .standIn t => tileOk t
    | .compiled c rows => clusterOk c && rows.all fun r => decide (r < 512)
    | .logits _ _ first rs => decide (first + rs.length ≤ 262144) && rs.all fun ts => ts.all DahliaTerm.wf
    | .sums c row at_ out rs => clusterOk c && decide (row < 512) && decide (at_ < 512) && decide (rs.length ≤ 32) && out.wf
        && rs.all fun ts => ts.all DahliaTerm.wf
    | .embed _ _ len dest row => decide (len ≤ 512) && dest.wf && decide (row < 256)
    | .prefill _ ps => ps.all KvPage.wf
    | .attention j _ scales => j.wf && scales.length == j.queries.length
    | .lossGradient _ _ rs => decide (rs.length ≤ 262144) && rs.all fun ts => ts.all DahliaTerm.wf
    | .attentionBack j _ scales c rows => j.wf && scales.length == j.queries.length && clusterOk c && rows.all fun r => decide (r < 512)
    | .operator _ => true)

/-- Circuits use slots 0 to 4,095 (R214). -/
def slotsOk (ss : List Nat) : Bool := ss.all fun s => decide (s < 4096)

def RecvSrc.wf (x : RecvSrc) : Bool :=
  match x with
  | .mesh rows _ => rows.all fun r => decide (r < 512)
  | .base kind rows => decide (kind < 3) && rows.all fun r => decide (r < 512)

def SeqAction.wf (a : SeqAction) : Bool :=
  match a with
  | .tileOp t => decide (t < 64)
  | .edgeRead t => decide (t < 64)
  | .correction (.residualAdd dst a b n) => decide (dst < 262144) && decide (dst % 512 + 2 * n ≤ 512) && decide (a + 2 * n ≤ 262144)
      && decide (b + 2 * n ≤ 262144)
  | .correction (.other rows) => rows.all fun r => decide (r < 512)
  | .outputBlock _ row _ tag => decide (row < 512) && (match tag with | some t => slotsOk t.slots | none => true)
  | .readLanes _ row half => decide (row < 512) && decide (half < 2)
  | .inject ss _ => slotsOk ss
  | .receive src => src.wf
  | .windowWrite pos _ _ _ body => posOk pos && decide (1 ≤ body.length) && decide (body.length ≤ 65536)
  | .spadRead row _ _ => decide (row < 512)
  | _ => true

/-- A flit carries at most 64 bytes, within a row (R214). -/
def MeshPiece.wf (p : MeshPiece) : Bool :=
  decide (p.row < 512) && decide (p.at_ + p.len ≤ 512) && decide (p.len ≤ 64) && decide (p.dstRow < 512) && decide (p.dstAt + p.len ≤ 512)

/-- Clusters send rows and lanes of their own, the 16 segments of the base switch what their ingress buffers hold (R214, R217, R457). -/
def MeshLoad.wf (l : MeshLoad) (src : Nat) : Bool :=
  match l with
  | .rows ps => clusterOk src && ps.all MeshPiece.wf
  | .lanes _ _ _ => clusterOk src
  | .buffer kind _ ps => decide (512 ≤ src) && decide (src < 528) && decide (kind < 3) && ps.all MeshPiece.wf

def LineKind.wf (l : LineKind) : Bool :=
  match l with
  | .imageRow t _ => tileOk t
  | .imageCol t _ => tileOk t
  | .outlier t _ => tileOk t
  | .graft id _ _ _ => decide (id < 4096)

/-- An access lies in the 96 GiB stack (R227). -/
def StackOp.wf (addr : Nat) (op : StackOp) : Bool :=
  let len := match op with | .read n => n | .write bs => bs.length | .readCorrected n => n | .readUncorrectable n _ => n
  decide (addr + len ≤ 0x1800000000)

def LedgerEvent.wf (e : LedgerEvent) : Bool :=
  match e with
  | .spadCorrected c r => clusterOk c && decide (r < 512)
  | .spadUncorrectable c r => clusterOk c && decide (r < 512)
  | .stackCorrected pc => decide (pc < 32)
  | .stackUncorrectable pc b => decide (pc < 32) && decide (b < 6291456)
  | .laneFaulty p l _ => portOk p && laneOk l
  | .tileDegraded t => tileOk t
  | .tileOverdue t => tileOk t
  | .brownOutReturn => true

/-- The command's operands name what the ZM9 has. -/
def Instr.wf (i : Instr) : Bool :=
  match i with
  | .submitRequest o f => o.wf && f.wf
  | .setDeadline o _ _ _ _ => o.wf
  | .cancel o _ => o.wf
  | .graftLoad o _ parts => o.wf && (parts.all fun x => posOk x.position)
  | .graftRetire o _ => o.wf
  | .windowOpen o _ _ _ => o.wf
  | .windowClose o _ => o.wf
  | .runOperator o spec => o.wf && spec.wf
  | .loadShard o table => o.wf && tableOk table
  | .commitShard o _ _ => o.wf
  | .watchTensor o w => o.wf && w.wf
  | .calibrate o => o.wf
  | .query o _ _ _ _ _ => o.wf
  | .getNonce => true
  | .provisionOwner _ => true
  | .setOwnerSlot a slot _ => a.wf && decide (slot < 16)
  | .genUnwrapKey a slot => a.wf && decide (slot < 16)
  | .setPolicy a _ => a.wf
  | .setPartitionWorld a partition _ => a.wf && partOk partition
  | .advanceSvn a _ _ => a.wf
  | .setLifecycle a _ => a.wf
  | .debugUnlock _ => true
  | .debugLock => true
  | .queueCtxCreate fn => fnOk fn
  | .queueCtxDelete fn => fnOk fn
  | .queueCtxRead fn => fnOk fn
  | .clIndRead fn _ => fnOk fn
  | .stackRegionReqSubmit _ _ => true
  | .deviceSoftReset _ _ => true
  | .setLock _ => true
  | .crocusGo _ _ pack => (match pack with | some x => x.wf | none => true)
  | .sysLeaseWrite _ => true
  | .sysJobWrite n _ => partOk n
  | .partSetValid n _ => partOk n
  | .partClearValid n => partOk n
  | .flRetrain port => portOk port
  | .monDataRead _ => true
  | .wideRegisterRead _ => true
  | .remoteRegisterAccess _ _ write _ => (match write with | some x => x.wf | none => true)
  | .registerWrite fn _ _ value => fnOk fn && value.wf
  | .setNumVfs n => decide (n ≤ 64)
  | .hdmDecoderCommit _ _ => true
  | .doorbellSnoop line records => decide (line < 32768) && records.length == 8
  | .sqFetch queue _ cmd => queueOk queue && (match cmd with | some x => x.wf | none => true)
  | .statusWindowRead _ _ => true
  | .statusWindowWrite _ _ => true
  | .coalesceTimerExpiry queue => queueOk queue
  | .cxlLinkTrained _ _ _ _ => true
  | .pbrFlitReceive => true
  | .getEventRecords => true
  | .clearEventRecords _ => true
  | .getEventInterruptPolicy => true
  | .setEventInterruptPolicy _ => true
  | .getTimestamp => true
  | .setTimestamp _ => true
  | .mailboxUnsupportedCommand _ => true
  | .attestationRequest _ => true
  | .ideKmKeySet _ _ => true
  | .cdatTableAccess => true
  | .portTrainingDone port _ => portOk port
  | .linkKeyExchange port _ => portOk port
  | .linkRekey port _ => portOk port
  | .flitReceive port _ => portOk port
  | .retrainTimeout port => portOk port
  | .lossOfSignal port => portOk port
  | .helloSend port => portOk port
  | .helloReceive port h => portOk port && h.wf
  | .helloTimeout port => portOk port
  | .laneSerCheck port counts => portOk port && counts.length == 8
  | .degradeRequestReceive port _ _ => portOk port
  | .stepDataReceive _ _ partition _ _ => partOk partition
  | .windowWriteReceive m => m.msg.wf
  | .windowAckReceive _ _ _ _ => true
  | .windowWriteTimeout _ => true
  | .commandReceive _ c => c.wf
  | .stepCtlReceive _ partition d => partOk partition && d.wf
  | .hostWriteReceive _ m => m.wf
  | .routePushReceive p => p.msg.wf
  | .routeActivate => true
  | .timeStepReceive _ _ => true
  | .partitionReset n => partOk n
  | .partitionResetReceive n => partOk n.msg
  | .bulkReceive _ b => b.wf
  | .topologyRequestReceive => true
  | .topologyCollectEnd reports => reports.all TopoReport.wf
  | .leaseBeaconSend => true
  | .leaseBeaconReceive _ _ _ => true
  | .leaseExpiry => true
  | .fence => true
  | .positionLost x => x.wf
  | .standbyResync => true
  | .standbyAckReceive => true
  | .counterPush => true
  | .counterPushReceive pos r => posOk pos.msg && r.counters.length == 1024 && r.lost.length == 64
  | .throttleNoticeReceive _ => true
  | .partSetupReceive p => p.msg.wf
  | .crocusPackReceive p => p.msg.wf
  | .crocusEntryRun _ codesH codesL => codesOk codesH && codesOk codesL
  | .crocusRerun => true
  | .traceSample partition => partOk partition
  | .pcSample cluster => clusterOk cluster
  | .tracePageSend partition => partOk partition
  | .qualSummaryRefresh => true
  | .restoreCreditTick => true
  | .diodeConversion _ _ => true
  | .housekeepingConversion _ channel _ => decide (channel < 16)
  | .monHostTrigger _ _ _ => true
  | .monHostResult _ _ => true
  | .throttleEval => true
  | .ledgerTimeTick => true
  | .ledgerTimeSave => true
  | .calIntervalTrigger tile => tileOk tile
  | .calibrationComplete cluster tile => clusterOk cluster && decide (tile < 64)
  | .idleTrimApply => true
  | .debugExpiry => true
  | .watchdogService => true
  | .watchdogExpiry => true
  | .coldPowerUp => true
  | .warmResetAssert _ => true
  | .resetRelease _ _ _ => true
  | .bootImageVerify _ => true
  | .deviceReady => true
  | .pllLockLoss => true
  | .brownoutWarn => true
  | .brownoutReturn => true
  | .brownoutReset => true
  | .criticalAssert => true
  | .criticalDeassert => true
  | .thermalTrip _ => true
  | .tripLatchClear => true
  | .serRailLoss => true
  | .serRailRestore => true
  | .auxRailLoss => true
  | .jtagInstruction (.debug (.stackRead a n)) => decide (a + n ≤ 0x1800000000)
  | .jtagInstruction (.debug (.stackWrite a bs)) => decide (a + bs.length ≤ 0x1800000000)
  | .jtagInstruction (.debug (.spadRead c r)) => clusterOk c && decide (r < 512)
  | .jtagInstruction (.debug (.spadWrite c r _)) => clusterOk c && decide (r < 512)
  | .jtagInstruction _ => true
  | .tapReset => true
  | .i3cTransaction _ => true
  | .leadBoundary partition _ _ => partOk partition
  | .memberBoundary partition => partOk partition
  | .stepScheduleStart partition => partOk partition
  | .sequencerAction cluster a => clusterOk cluster && a.action.wf
  | .edgeConversion tile _ dataRow expRow _ _ _ _ => tileOk tile && decide (dataRow < 512) && decide (expRow < 512)
  | .meshTransfer cluster _ slots _ load => slotsOk slots && load.wf cluster
  | .tileEvalStart tile => tileOk tile
  | .tileEvalComplete tile codesH codesL codesH2 codesL2 => tileOk tile && codesOk codesH && codesOk codesL && codesOk codesH2 && codesOk codesL2
  | .splitEvalStart tile => tileOk tile
  | .tileReplayStart tile => tileOk tile
  | .checksumReevalStart tile => tileOk tile
  | .columnPatchComplete tile col => tileOk tile && decide (col < 520)
  | .shadowSample tile => tileOk tile
  | .cacheMissFill cluster line => clusterOk cluster && line.wf
  | .restoreRow tile _ row => tileOk tile && codesOk row.codes && rowsOk 520 row.verify
  | .programmingStart tile => tileOk tile
  | .programRow tile verify => tileOk tile && rowsOk 520 verify
  | .verificationTest tile codes => tileOk tile && codes.length == 32 && codes.all fun x => codesOk x.1 && codesOk x.2
  | .dahliaOpStart op => op.wf
  | .dahliaOpComplete half => decide (half < 32)
  | .lupinChunkJob partition job lane buffer _ => partOk partition && job.wf && decide (lane < 32) && decide (buffer < 2)
  | .attentionBarrierRelease partition => partOk partition
  | .foxgloveRow partition _ _ => partOk partition
  | .stackAccess r addr op => partOk r.partition && decide (r.cls < 4) && op.wf addr
  | .pcMigrationBlock pc block _ => decide (pc < 32) && decide (block < 6291456)
  | .ledgerEventReport e => e.wf
  | .chunkReadComplete partition _ _ => partOk partition
  | .chunkReadTimeout partition _ => partOk partition
  | .memberCommit partition _ => partOk partition
  | .replicaCopyComplete partition _ _ => partOk partition
  | .watchDumpWrite partition watch => partOk partition && decide (watch < 16)
  | .reqHoldExpiry slot => slotOk slot
  | .linkDownReportReceive _ port x => portOk port && (match x with | some x => x.wf | none => true)
  | .laneSignalLoss port lane => portOk port && laneOk lane
  | .linkSignalDetect port => portOk port
  | .regulatorSoftStart => true
  | .jobPushReceive n _ => partOk n.msg
  | .stackSupplyWindowLoss => true

end Sys2Proof
end

