-- ==== Sys2Proof/Certificates/Slice0/Obligations.lean ====
section
/-! DEFINITION. The statements for the provers. `Runs c s post` says that the command completes; `Dev.only` names the blocks it
may change. -/

open Sys2Proof Sys2Proof.Machine

/-- For every command and every state, a step with that command at the front of the queue is the command's effect on the
machine whose queue is the rest. With nothing waiting one CORE_CLK cycle passes, which is the model's choice (log 1):
while the clocks run, device time rises by 1 ns and the root counter by 8, and the stack's content, the sensors and rails,
the security block, the partitions, the system view and the ledger stay as they were; while they do not run, only the time
that VIN_IVR has been above 1.74 V is counted, in ns up to 1 ms (R372). That a queue of commands exists is the model's
choice too. (R236, R238, R239) -/
def Obligations.StepRunsTheCommandAtTheFront : Prop :=
  ∀ (c : Instr) (s : State),
    step { s with pending := c :: s.pending } = exec c s
    ∧ (s.dev.clocked = true → ∃ d', step { s with pending := [] } = .next { dev := d', pending := [] }
        ∧ d'.now = s.dev.now + 1 ∧ d'.rst = { s.dev.rst with rootCount := s.dev.rst.rootCount + 8, rootLock := s.dev.rst.rootLock || decide ((s.dev.rst.rootCount + 8).toNat ≥ 800000) }
        ∧ d'.glob = { s.dev.glob with timeNs := s.dev.glob.timeNs + 1 } ∧ d'.stack.mem = s.dev.stack.mem
        ∧ s.dev.only d' [.rst, .glob, .obs, .array, .serve, .engine, .link, .host, .stack])
    ∧ (s.dev.clocked = false → step { s with pending := [] } = .next { dev := { s.dev with rst := { s.dev.rst with
        vinFor := if s.dev.rst.vinUp then min 1000000 (s.dev.rst.vinFor + 1) else s.dev.rst.vinFor } }, pending := [] })

/-- At reset the queue is empty, device time is 0, the stack's content is in its canonical form, every tile is OFF, every
request-table entry is FREE, no context exists, every port is down, no system is formed, no lease is valid, the set-up
locks are clear, the throttle stage is 0, the nine fixed stack regions are as R228 lays them out, and the set-up registers
hold their Reset values. The tables and memories that this statement does not name are the model's choice where the spec
gives no value (log 3, 4, 5). (R65, R110, R140, R147, R174, R208, R228, R231, R313, R394, R448) -/
def Obligations.ResetHoldsTheStatedValues : Prop :=
  let d := State.reset.dev
  State.reset.pending = [] ∧ d.now = 0 ∧ d.memOk = true ∧ (∀ k, (d.tile k).state = .off) ∧ (∀ k, (d.req k).state = .free)
    ∧ (∀ q, d.queue q = none ∧ d.ring q = none) ∧ (∀ n, (d.port n).state = 0) ∧ d.sys.formed = false
    ∧ d.sys.leaseValid = false ∧ d.glob.locks = 0 ∧ d.glob.cxlActive = false ∧ d.power.stage = 0
    ∧ (List.range 9).map (fun i => (rgKind (d.region i), rgBase (d.region i), rgSize (d.region i)))
        = [(0, 0, 262144), (1, 262144, 262144), (2, 524288, 262144), (3, 786432, 262144), (4, 1048576, 4718592),
           (5, 5767168, 131072), (6, 5898240, 65536), (7, 5963776, 65536), (8, 6029312, 262144)]
    ∧ [Off.budget, Off.reqCtl, Off.arith, Off.restore, Off.cal, Off.qual, Off.share, Off.dahlia, Off.lupinKv, Off.therm].map d.reg
        = [27648, 1000, 0x148024, 0x625DA, 0x25836C08, 0x20001000, 0x00190201, 12320, 1, 0x14305F]
    ∧ ∀ p < 64, d.reg (Off.jobCtl p) = 0x40000000 ∧ d.reg (Off.jobQ0 p) = 0x2020

/-- What a warm reset with a cause leaves: every block in scope at its reset values, the stack content and MRAM kept (R383, R385,
R394, R427). -/
def Sys2Proof.Machine.WarmEntered (d : Dev) (cause : BitVec 4) (d' : Dev) : Prop :=
  d'.rst.phase = .inReset ∧ d'.rst.cause = cause ∧ d'.rst.soft = false ∧ d'.rst.selfRefresh = true
    ∧ d'.rst.warmCount = (if d.rst.warmCount = 0xFFFF then 0xFFFF else d.rst.warmCount + 1)
    ∧ d'.sys = SysBlk.reset ∧ d'.serve = ServeBlk.reset ∧ d'.engine = EngineBlk.reset ∧ d'.part = PartBlk.reset
    ∧ d'.obs = ObsBlk.reset ∧ d'.power = PowerBlk.reset ∧ d'.glob.regs = [] ∧ d'.glob.locks = 0
    ∧ (∀ k, (d'.tile k).state = .off ∨ (d'.tile k).state = .retired)
    ∧ (∀ a, d'.byte a = d.byte a) ∧ d'.stack.remap = d.stack.remap ∧ d'.stack.banks = d.stack.banks
    ∧ d'.ledger.log = d.ledger.log ∧ d'.ledger.tally = d.ledger.tally ∧ d'.vault = d.vault ∧ d'.sec.debug = 0
    ∧ d'.host.writes = d.host.writes

/-- While no trip is latched and the package is powered, PERST_N, RESET_N, loss of PLL lock, watchdog expiry and a brown-out
each enter a warm reset with their own CAUSE. Every block in scope is at its reset values, every tile is OFF or RETIRED,
every byte of the stack and the ledger log, the fuses and the keys are kept, and the warm-reset count rises by 1,
saturating. LOCK_LOSS counts a PLL loss. WARM_RESET_ASSERT, PLL_LOCK_LOSS, BROWNOUT_RESET and WATCHDOG_EXPIRY complete.
(R237, R372, R380, R383, R385, R390, R391, R394, R427) -/
def Obligations.WarmResetsHoldEveryBlockAtReset : Prop :=
  ∀ s : State, s.dev.resettable = true →
    (∀ perst, Runs (.warmResetAssert perst) s fun d' => WarmEntered s.dev (if perst then 1 else 2) d')
    ∧ Runs .pllLockLoss s (fun d' => WarmEntered s.dev 5 d'
        ∧ d'.rst.lockLoss = (if s.dev.rst.lockLoss = 0xFFFF then 0xFFFF else s.dev.rst.lockLoss + 1))
    ∧ Runs .brownoutReset s (fun d' => WarmEntered s.dev 6 d' ∧ d'.rst.brownHeld = true)
    ∧ (s.dev.rst.phase = .ready → s.dev.since s.dev.rst.watchdogAt ≥ 100000000 →
        Runs .watchdogExpiry s fun d' => WarmEntered s.dev 4 d')

/-- While the trip latch is set, PERST_N and RESET_N, loss of PLL lock, a brown-out, RESET_CTL.SOFT and an FLR of the PF,
reset release, the regulators' soft start and a further trip leave every block but the reset block as it was, and its
phase, cause and counts too. (R380, R391) -/
def Obligations.LatchedTripOverridesEveryReset : Prop :=
  ∀ s : State, s.dev.rst.tripLatched = true → ∀ c : Instr,
    (c ∈ [.warmResetAssert true, .warmResetAssert false, .pllLockLoss, .brownoutReset, .regulatorSoftStart]
      ∨ (∃ n a b, c = .resetRelease n a b) ∨ (∃ f x, c = .deviceSoftReset f x) ∨ (∃ x, c = .thermalTrip x)) →
    Runs c s fun d' => s.dev.only d' [.rst] ∧ d'.rst.phase = s.dev.rst.phase ∧ d'.rst.cause = s.dev.rst.cause
      ∧ d'.rst.tripLatched = true ∧ d'.rst.warmCount = s.dev.rst.warmCount ∧ d'.rst.lockLoss = s.dev.rst.lockLoss
      ∧ d'.rst.regulators = s.dev.rst.regulators

/-- On a ready package, RESET_CTL.SOFT with CONFIRM 0x5A7E, or an FLR of the PF with any CONFIRM, enters a soft reset: CAUSE
is 3, the SEC block, HOST_LINK_STATUS and every byte of the stack are kept, a brown-out hold continues, the warm-reset
count stays, and the serving, system, partition and observation blocks and the set-up registers are at their reset values.
RESET_CTL.SOFT with another CONFIRM changes nothing. DEVICE_SOFT_RESET completes. (R383, R385, R387, R391, R394, R427) -/
def Obligations.SoftResetKeepsTheHostLinkAndStack : Prop :=
  ∀ (s : State) (confirm : U16), s.dev.rst.phase = .ready → s.dev.rst.tripLatched = false →
    (∀ flr, flr = true ∨ confirm = 0x5A7E →
      Runs (.deviceSoftReset flr confirm) s fun d' =>
        d'.rst.phase = .inReset ∧ d'.rst.cause = 3 ∧ d'.rst.soft = true ∧ d'.rst.warmCount = s.dev.rst.warmCount
          ∧ d'.sec = s.dev.sec ∧ d'.glob.cxlActive = s.dev.glob.cxlActive ∧ d'.glob.width = s.dev.glob.width
          ∧ d'.glob.rate = s.dev.glob.rate ∧ d'.glob.numVfs = s.dev.glob.numVfs ∧ d'.glob.memoryActive = false
          ∧ (∀ a, d'.byte a = s.dev.byte a) ∧ d'.power.boHold = s.dev.power.boHold ∧ d'.power.stage = 0
          ∧ d'.serve = ServeBlk.reset ∧ d'.sys = SysBlk.reset ∧ d'.part = PartBlk.reset ∧ d'.obs = ObsBlk.reset
          ∧ d'.glob.regs = [])
    ∧ (confirm ≠ 0x5A7E → exec (.deviceSoftReset false confirm) s = .next s)

/-- A cold power-up, the loss of VDD_AUX and the clearing of the trip latch leave no stack byte but 0, every ACTIVE none and
both banks of every partition empty, every register at reset, the ledger log and the fuses kept, and ledger time at the
value last saved. A latched shutdown on a trip, rate trip or sensor fault records its cause, turns the regulators off and
loses the stack likewise. Removal of VDD_AUX clears the trip latch. COLD_POWER_UP, AUX_RAIL_LOSS, TRIP_LATCH_CLEAR and
THERMAL_TRIP complete. (R327, R336, R380, R383, R384, R467) -/
def Obligations.PowerLossLosesTheStackAndKeepsMram : Prop :=
  ∀ s : State,
    let lost := fun (d' : Dev) => (∀ a, d'.byte a = 0) ∧ (∀ p, (d'.commit p).active = 0) ∧ (∀ p, (d'.commit p).bankA = 0)
      ∧ (∀ p, (d'.commit p).bankB = 0) ∧ d'.stack.banks = [] ∧ d'.sys = SysBlk.reset ∧ d'.serve = ServeBlk.reset
      ∧ d'.obs = ObsBlk.reset ∧ d'.glob.regs = [] ∧ d'.ledger.log = s.dev.ledger.log ∧ d'.vault = s.dev.vault
      ∧ (∀ k, (d'.tile k).state = .off ∨ (d'.tile k).state = .retired)
    Runs .coldPowerUp s (fun d' => lost d' ∧ d'.rst.phase = .inReset ∧ d'.rst.cause = 0 ∧ d'.rst.cold = true
        ∧ d'.ledger.ltime = s.dev.ledger.saved)
    ∧ Runs .auxRailLoss s (fun d' => lost d' ∧ d'.rst.phase = .off ∧ d'.ledger.ltime = s.dev.ledger.saved)
    ∧ Runs .tripLatchClear s (fun d' => lost d' ∧ d'.rst.phase = .off ∧ d'.rst.tripLatched = false)
    ∧ (∀ cause : BitVec 4, cause = 7 ∨ cause = 8 ∨ cause = 9 →
        s.dev.rst.auxUp = true → s.dev.rst.tripLatched = false → s.dev.rst.phase ≠ .off →
        Runs (.thermalTrip cause) s fun d' => lost d' ∧ d'.rst.phase = .tripped ∧ d'.rst.tripLatched = true
          ∧ d'.rst.lastTrip = cause ∧ d'.rst.cause = cause ∧ d'.rst.regulators = false)

/-- A release with the rails up, no latched trip and, after a brown-out, 1 ms of VIN_IVR above 1.74 V leaves the reset: device
time is 0, the retention latch decides whether the start is cold, STACK_KEPT says which, a cold start leaves no stack byte
but 0 and a warm one keeps every byte, but for the commit record's stack copy, which is rewritten from MRAM; after a cold
or warm reset the node and spare straps are sampled and TEST_EN holds the package, after a soft reset neither. In RETURNED
with the sequence of R414 incomplete the release runs it again: no key is left and the start is cold. A release before
that changes nothing. The loss of a stack supply window during a warm reset sets the retention latch. VIN_IVR above its
threshold starts the regulators once VDD_AUX and the SerDes rails are up, and not before. A booting package whose five
images run becomes ready with Memory_Active and the STACK lock set and the watchdog started; after a boot failure, or with
an image missing, it stays as it was. Watchdog service records the present device time only. RESET_RELEASE,
STACK_SUPPLY_WINDOW_LOSS, REGULATOR_SOFT_START, DEVICE_READY and WATCHDOG_SERVICE complete. (R242, R327, R332, R372, R384,
R386, R390, R392, R409, R410, R414, R463) -/
def Obligations.ReleaseDecidesColdOrWarmAndReadyFollows : Prop :=
  ∀ s : State,
    (∀ nodeId spareSel testEn, s.dev.rst.phase = .inReset → s.dev.rst.tripLatched = false → s.dev.rst.auxUp = true →
      s.dev.rst.serUp = true → s.dev.rst.regulators = true → s.dev.rst.vinUp = true →
      (s.dev.rst.brownHeld = true → 1000000 ≤ s.dev.rst.vinFor) →
      let cold := !s.dev.rst.soft && (s.dev.rst.cold || s.dev.rst.retentionLost || s.dev.sec.returning)
      let copied := fun (a : Nat) => ∃ p ∈ s.dev.stack.mram.map Prod.fst ++ s.dev.stack.commits.map Prod.fst, ∃ i < 64,
        a = s.dev.mapAddr (s.dev.commitCopy p + i)
      Runs (.resetRelease nodeId spareSel testEn) s fun d' =>
        d'.rst.phase = (if testEn && !s.dev.rst.soft then .testHeld else .booting) ∧ d'.rst.cold = cold
          ∧ d'.rst.stackKept = !cold ∧ d'.rst.retentionLost = false ∧ d'.now = 0
          ∧ (s.dev.sec.returning = false → ∀ a, ¬ copied a → d'.byte a = if cold then 0 else s.dev.byte a)
          ∧ d'.glob.node = (if s.dev.rst.soft then s.dev.glob.node else nodeId)
          ∧ d'.glob.spareStrap = (if s.dev.rst.soft then s.dev.glob.spareStrap else spareSel)
          ∧ (s.dev.sec.returning = true → ∀ n, d'.owner n = none ∧ SMap.get 0 d'.sec.unwrap n = 0)
          ∧ (s.dev.sec.returning = false → s.dev.only d' [.rst, .glob, .stack, .sec, .ledger] ∧ d'.vault = s.dev.vault
              ∧ d'.ledger.log = s.dev.ledger.log))
    ∧ (s.dev.rst.phase = .inReset → s.dev.rst.soft = false →
        Runs .stackSupplyWindowLoss s fun d' => d' = { s.dev with rst := { s.dev.rst with retentionLost := true } })
    ∧ (∀ n a b, s.dev.mayRelease = false → exec (.resetRelease n a b) s = .next s)
    ∧ (s.dev.rst.auxUp = true → s.dev.rst.serUp = true → s.dev.rst.tripLatched = false →
        Runs .regulatorSoftStart s fun d' => d' = { s.dev with rst := { s.dev.rst with regulators := true, vinUp := true } })
    ∧ (s.dev.rst.serUp = false → exec .regulatorSoftStart s = .next s)
    ∧ (s.dev.rst.phase = .booting → s.dev.sec.bootFail = none → s.dev.imagesRun = true →
      Runs .deviceReady s fun d' => d'.rst.phase = .ready ∧ d'.glob.memoryActive = true ∧ d'.glob.locks.getLsbD 2 = true
        ∧ d'.rst.watchdogAt = s.dev.now ∧ d'.ledger = s.dev.ledger ∧ d'.stack = s.dev.stack ∧ d'.glob.regs = s.dev.glob.regs
        ∧ d'.power = s.dev.power)
    ∧ (s.dev.sec.bootFail ≠ none ∨ s.dev.imagesRun = false → exec .deviceReady s = .next s)
    ∧ Runs .watchdogService s (fun d' => d' = { s.dev with rst := { s.dev.rst with watchdogAt := s.dev.now } })

/-- The receipt of a partition reset on VC2 abandons the partition's steps, clears its watches, closes its windows, and sets
CAUSE 0xA; the stack's bytes, the commit records and the golden banks are unchanged, so is the ledger where no brown-out
sweep runs whose last tiles the reset takes, and a package that is not the primary reports to the primary gateway that it
is done. On the primary gateway an FLR of the function sends the reset to every member and stays pending until each other
member of the partition's job has reported. PARTITION_RESET and PARTITION_RESET_RECEIVE complete. (R253, R301, R388, R438) -/
def Obligations.PartitionResetKeepsBanksAndOtherPartitions : Prop :=
  ∀ (s : State) (n : Nat), n < 64 →
    Runs (.partitionResetReceive ⟨2, n⟩) s (fun d' =>
      d'.rst.cause = 0xA ∧ (d'.job n).inFlight = [] ∧ (d'.job n).step = none ∧ (d'.job n).descs = []
        ∧ (∀ w < 16, d'.watch n w = none) ∧ d'.stack.mem = s.dev.stack.mem ∧ d'.stack.banks = s.dev.stack.banks
        ∧ d'.stack.commits = s.dev.stack.commits ∧ (s.dev.power.sweep = false → d'.ledger = s.dev.ledger) ∧ d'.vault = s.dev.vault
        ∧ (s.dev.sys.primary = false → .hostWrite (.partResetDone n s.dev.sys.position) ∈ d'.host.sent))
    ∧ (s.dev.sys.primary = true → Runs (.partitionReset n) s fun d' =>
        .partReset n ∈ d'.host.sent ∧ d'.stack.mem = s.dev.stack.mem ∧ d'.stack.commits = s.dev.stack.commits
          ∧ (s.dev.power.sweep = false → d'.ledger = s.dev.ledger)
          ∧ ((s.dev.jobSetup n).valid = true → ∀ pos ∈ s.dev.members n, pos ≠ s.dev.sys.position →
              ∃ waits, (n, waits) ∈ d'.host.flrs ∧ pos ∈ waits))
    ∧ (∀ (pos : Nat) (waits : List Nat), s.dev.sys.primary = true → s.dev.host.flrs = [(n, waits)] →
        Runs (.hostWriteReceive 2 (.partResetDone n pos)) s fun d' => s.dev.only d' [.host]
          ∧ d'.host.flrs = if (waits.filter (· != pos)).isEmpty then [] else [(n, waits.filter (· != pos))])

/-- With Serbel running, PROVISIONED or DEPLOYED, and both signatures, the serial, a live nonce and the signing slot good:
SET_OWNER_SLOT sets slots 1 to 15, clearing none that a VALID partition names; GEN_UNWRAP_KEY makes the next generation of
its slot's keys and returns them; SET_POLICY sets IDE_REQUIRED; ADVANCE_SVN raises a minimum at most to the running SVN;
SET_PARTITION_WORLD sets or clears SECURE of a partition that is not VALID; SET_LIFECYCLE moves PROVISIONED to DEPLOYED.
Each is counted, its nonce is used up, and blocks other than SEC, the replies, the counters (and the set-ups, for the
partition world) are as they were. SET_OWNER_SLOT, GEN_UNWRAP_KEY, SET_POLICY, ADVANCE_SVN, SET_PARTITION_WORLD and
SET_LIFECYCLE complete. (R399, R410, R411, R412, R413, R423) -/
def Obligations.SignedOwnerCommandsTakeEffect : Prop :=
  ∀ (s : State) (a : OwnerAuth), s.dev.serbelUp = true → s.dev.inService = true →
    let done := fun (d' : Dev) => d'.counter DC.ownerCmd = s.dev.counter DC.ownerCmd + 1
      ∧ (∀ x ∈ d'.sec.nonces, x.1 ≠ a.nonce) ∧ .ownerOk ∈ d'.host.replies
    (∀ (slot : Nat) (keys : Option (BitVec 384)), s.dev.authOk a 0 = true → 1 ≤ slot → slot ≤ 15 →
      (keys = none → (∀ e ∈ s.dev.part.inForce, e.2.cfg.getLsbD 63 = true → fieldNat e.2.cfg 47 44 ≠ slot)
        ∧ ∀ e ∈ s.dev.part.accepted, e.2.cfg.getLsbD 63 = true → fieldNat e.2.cfg 47 44 ≠ slot) →
      Runs (.setOwnerSlot a slot keys) s fun d' => done d' ∧ s.dev.only d' [.sec, .host, .obs]
        ∧ d'.owner slot = keys ∧ (∀ x, x ≠ slot → d'.owner x = s.dev.owner x)
        ∧ d'.sec.lifecycle = s.dev.sec.lifecycle ∧ d'.sec.minSvn = s.dev.sec.minSvn ∧ d'.sec.unwrap = s.dev.sec.unwrap)
    ∧ (∀ slot ≤ 15, s.dev.authOk a slot = true →
      Runs (.genUnwrapKey a slot) s fun d' => done d' ∧ s.dev.only d' [.sec, .host, .obs]
        ∧ SMap.get 0 d'.sec.unwrap slot = SMap.get 0 s.dev.sec.unwrap slot + 1
        ∧ .publicKeys slot (SMap.get 0 s.dev.sec.unwrap slot + 1) ∈ d'.host.replies ∧ d'.sec.owners = s.dev.sec.owners)
    ∧ (∀ r, s.dev.authOk a 0 = true →
      Runs (.setPolicy a r) s fun d' => done d' ∧ s.dev.only d' [.sec, .host, .obs] ∧ d'.sec.ideRequired = r ∧ d'.vault = s.dev.vault)
    ∧ (∀ (image : Byte) (svn v : Nat), s.dev.authOk a 0 = true → s.dev.runningSvn image = some v →
      SMap.get 0 s.dev.sec.minSvn image.toNat ≤ svn → svn ≤ v →
      Runs (.advanceSvn a image svn) s fun d' => done d' ∧ s.dev.only d' [.sec, .host, .obs]
        ∧ SMap.get 0 d'.sec.minSvn image.toNat = svn ∧ d'.sec.owners = s.dev.sec.owners
        ∧ ∀ k, k ≠ image.toNat → SMap.get 0 d'.sec.minSvn k = SMap.get 0 s.dev.sec.minSvn k)
    ∧ (∀ p < 64, ∀ secure, s.dev.authOk a (fieldNat (s.dev.partAcc p).cfg 47 44) = true →
      (s.dev.partAcc p).cfg.getLsbD 63 = false → s.dev.partValid p = false →
      Runs (.setPartitionWorld a p secure) s fun d' => done d' ∧ s.dev.only d' [.sec, .host, .obs, .part]
        ∧ d'.partSecure p = secure ∧ (d'.partAcc p).cfg.getLsbD 62 = secure ∧ d'.partValid p = false
        ∧ ∀ q, q ≠ p → d'.partIn q = s.dev.partIn q ∧ d'.partAcc q = s.dev.partAcc q)
    ∧ (s.dev.authOk a 0 = true → s.dev.sec.lifecycle = 1 →
      Runs (.setLifecycle a 2) s fun d' => done d' ∧ s.dev.only d' [.sec, .host, .obs] ∧ d'.sec.lifecycle = 2
        ∧ d'.sec.owners = s.dev.sec.owners)

/-- With Serbel running, a signed owner command whose signatures, serial or nonce fail is answered with an error and counted;
no other block, no fuse, no key and no nonce changes. PROVISION_OWNER outside BLANK and SET_LIFECYCLE backwards are
refused the same way. (R412) -/
def Obligations.OwnerCommandFailingACheckChangesNothing : Prop :=
  ∀ (s : State) (a : OwnerAuth) (c : Instr), s.dev.serbelUp = true →
    (((a.sigsOk = false ∨ a.serial ≠ Config.serial ∨ s.dev.nonceOk a.nonce = false) ∧
        ((∃ n k, c = .setOwnerSlot a n k) ∨ (∃ n, c = .genUnwrapKey a n) ∨ (∃ r, c = .setPolicy a r)
          ∨ (∃ p r, c = .setPartitionWorld a p r) ∨ (∃ i v, c = .advanceSvn a i v) ∨ ∃ t, c = .setLifecycle a t))
      ∨ ((∃ k, c = .provisionOwner k) ∧ s.dev.sec.lifecycle ≠ 0)
      ∨ ((∃ t : BitVec 2, c = .setLifecycle a t ∧ (t = 0 ∨ t = 1)))) →
    Runs c s fun d' => d' = (s.dev.answer .ownerError).count DC.ownerRefused

/-- In BLANK, PROVISION_OWNER installs slot 0 and the lifecycle is PROVISIONED. SET_LIFECYCLE to RETURNED by the owner, or a
good scope-4 token, leaves RETURNED with every owner slot and unwrap key gone and a warm reset entered with the retention
latch set. GET_NONCE answers a nonce that is then live. PROVISION_OWNER, SET_LIFECYCLE to RETURNED, DEBUG_UNLOCK of scope
4 and GET_NONCE complete. (R411, R412, R413, R414) -/
def Obligations.ProvisionAndReturnMoveTheLifecycle : Prop :=
  ∀ (s : State) (a : OwnerAuth), s.dev.serbelUp = true →
    let returned := fun (d' : Dev) => d'.sec.lifecycle = 3 ∧ (∀ n, d'.owner n = none) ∧ (∀ n, SMap.get 0 d'.sec.unwrap n = 0)
      ∧ d'.sec.minSvn = s.dev.sec.minSvn ∧ d'.rst.phase = .inReset ∧ d'.rst.retentionLost = true ∧ ∀ p, (d'.commit p).active = 0
    (∀ keys, s.dev.sec.lifecycle = 0 → Runs (.provisionOwner keys) s fun d' =>
      d'.sec.lifecycle = 1 ∧ d'.owner 0 = some keys ∧ (∀ n, n ≠ 0 → d'.owner n = s.dev.owner n)
        ∧ d'.host.replies = s.dev.host.replies ++ [.ownerOk] ∧ s.dev.only d' [.sec, .host, .obs])
    ∧ (s.dev.resettable = true → s.dev.inService = true → s.dev.authOk a 0 = true → Runs (.setLifecycle a 3) s returned)
    ∧ (∀ t : DebugToken, s.dev.resettable = true → t.scope = 4 → s.dev.tokenOk t = true → Runs (.debugUnlock t) s returned)
    ∧ Runs .getNonce s (fun d' => ∃ n, d'.host.replies = s.dev.host.replies ++ [.nonce n] ∧ d'.nonceOk n = true
        ∧ d'.vault = s.dev.vault ∧ s.dev.only d' [.sec, .host, .obs, .fresh])

/-- A token with good signatures, magic, serial, nonce and expiry, and a scope that the lifecycle and the consent allow, opens
its scope, is counted and uses its nonce up; any other token is refused and changes nothing else. DEBUG_LOCK ends debug,
and so does ledger time reaching EXPIRY. Fuses and keys are unchanged. DEBUG_UNLOCK, DEBUG_LOCK and DEBUG_EXPIRY complete.
(R416, R417, R418) -/
def Obligations.DebugOpensByTokenAndEnds : Prop :=
  ∀ s : State,
    (∀ t : DebugToken, s.dev.serbelUp = true → s.dev.tokenOk t = true → t.scope ≠ 4 →
      Runs (.debugUnlock t) s fun d' => d'.sec.debug = t.scope.toNat ∧ d'.sec.debugSeen = max s.dev.sec.debugSeen t.scope.toNat
        ∧ d'.sec.debugExpiry = t.expiry ∧ (∀ x ∈ d'.sec.nonces, x.1 ≠ t.nonce)
        ∧ d'.counter DC.debugUnlock = s.dev.counter DC.debugUnlock + 1 ∧ d'.vault = s.dev.vault
        ∧ s.dev.only d' [.sec, .host, .obs])
    ∧ (∀ t : DebugToken, s.dev.serbelUp = true →
        (t.tokenSigsOk = false ∨ t.magicFormatOk = false ∨ t.serial ≠ Config.serial ∨ s.dev.nonceOk t.nonce = false
          ∨ t.expiry.toNat ≤ s.dev.ledger.ltime.toNat ∨ s.dev.ledger.ltime.toNat + 86400 < t.expiry.toNat) →
        Runs (.debugUnlock t) s fun d' => d' = (s.dev.answer .ownerError).count DC.ownerRefused)
    ∧ (s.dev.serbelUp = true → Runs .debugLock s fun d' => d'.sec.debug = 0 ∧ d'.sec.debugSeen = s.dev.sec.debugSeen
        ∧ d'.vault = s.dev.vault ∧ s.dev.only d' [.sec, .host, .obs])
    ∧ (s.dev.sec.debug ≠ 0 → s.dev.sec.debugExpiry.toNat ≤ s.dev.ledger.ltime.toNat →
        Runs .debugExpiry s fun d' => d'.sec.debug = 0 ∧ s.dev.only d' [.sec] ∧ d'.vault = s.dev.vault)

/-- While booting, an image good in copy A, or else in copy B, with its SVN at least the fused minimum joins the running
images; an image bad in both copies is a boot failure that names it. An attestation request with Serbel running is
answered with a report that carries the nonce, the lifecycle, the minimum SVNs and the running images. IDE_KM inside a
session makes its stream active outside RETURNED. BOOT_IMAGE_VERIFY, ATTESTATION_REQUEST and IDE_KM_KEY_SET complete.
(R243, R408, R409, R410, R419, R423) -/
def Obligations.BootTakesOnlyGoodImages : Prop :=
  ∀ s : State,
    (∀ img : BootImage, s.dev.rst.phase = .booting → s.dev.sec.bootFail = none →
      let m := SMap.get 0 s.dev.sec.minSvn img.id.toNat
      Runs (.bootImageVerify img) s fun d' => s.dev.only d' [.rst, .sec] ∧ d'.vault = s.dev.vault ∧
        if (img.okA = true ∧ m ≤ img.svnA) ∨ (img.okB = true ∧ m ≤ img.svnB) then
          d'.rst = s.dev.rst ∧ d'.sec.bootFail = none ∧ ∃ e, d'.sec.images = s.dev.sec.images ++ [e] ∧ e.1 = img.id ∧ m ≤ e.2.1
            ∧ (e.2.2.1 = true → img.okB = true) ∧ (e.2.2.1 = false → img.okA = true)
        else d'.rst.phase = .bootFailed ∧ d'.sec.bootFail = some img.id ∧ d'.sec.images = s.dev.sec.images)
    ∧ (∀ n, s.dev.serbelUp = true → Runs (.attestationRequest n) s fun d' =>
        ∃ r : AttestReport, d'.host.replies = s.dev.host.replies ++ [.attestation r] ∧ r.nonce = n
          ∧ r.lifecycle = s.dev.sec.lifecycle ∧ r.minSvn = s.dev.sec.minSvn ∧ r.images = s.dev.sec.images
          ∧ r.debugSeen = s.dev.sec.debugSeen ∧ r.ltime = s.dev.ledger.ltime ∧ r.partitions.length = 64
          ∧ d'.counter DC.attestReport = s.dev.counter DC.attestReport + 1 ∧ s.dev.only d' [.host, .obs])
    ∧ (∀ cm, s.dev.serbelUp = true → s.dev.sec.lifecycle ≠ 3 → Runs (.ideKmKeySet cm true) s fun d' =>
        d'.glob = { s.dev.glob with ideIo := s.dev.glob.ideIo || !cm, ideCm := s.dev.glob.ideCm || cm } ∧ s.dev.only d' [.glob])

/-- IDCODE and BYPASS always shift out, boundary scan only while both resets hold the TAP, a debugger's access only within the
scope that is open, and any other instruction only while debug is unlocked; a refused one shifts out nothing and leaves
the TAP as it was. A debugger's write changes the stack bytes it names, or a row of the scratchpad it names, and a read
changes neither. TRST_N returns the TAP to IDCODE. With VDD_AUX up, ENTDAA, or SETDASA from 0x3A, assigns the address
once; MCTP answers the alert cause only after that; HDR is not acknowledged. No other block changes, and no fuse or key.
JTAG_INSTRUCTION, TAP_RESET and I3C_TRANSACTION complete. (R377, R399, R415, R417, R418, R463, R471) -/
def Obligations.SidebandAnswersByItsRules : Prop :=
  ∀ s : State,
    (∀ ir, Runs (.jtagInstruction ir) s fun d' => d'.vault = s.dev.vault
      ∧ (match ir with
        | .debug (.stackWrite a bs) => s.dev.only d' [.host, .sec, .stack]
            ∧ ∀ x, (∀ i < bs.length, x ≠ s.dev.mapAddr (a + i)) → d'.byte x = s.dev.byte x
        | .debug (.spadWrite c _ _) => s.dev.only d' [.host, .sec, .array, .obs] ∧ ∀ c', c' ≠ c → d'.cluster c' = s.dev.cluster c'
        | _ => s.dev.only d' [.host, .sec, .fresh])
      ∧ let ok : Prop := match ir with
          | .idcode | .bypass => True
          | .samplePreload | .extest => (s.dev.rst.perst = true ∧ s.dev.rst.resetN = true) ∨ s.dev.rst.phase = .testHeld
          | .debug op => s.dev.debugMay op = true
          | .other _ => s.dev.sec.debug ≠ 0
        (ok → d'.sec.tap = ir ∧ ∃ r, r ≠ .tdo none ∧ d'.host.replies = s.dev.host.replies ++ [r])
          ∧ (¬ ok → d'.sec.tap = s.dev.sec.tap ∧ d'.host.replies = s.dev.host.replies ++ [.tdo none]))
    ∧ Runs .tapReset s (fun d' => d' = { s.dev with sec := { s.dev.sec with tap := .idcode } })
    ∧ (∀ op, s.dev.rst.auxUp = true → Runs (.i3cTransaction op) s fun d' => s.dev.only d' [.host, .sec] ∧ d'.vault = s.dev.vault ∧
      match op with
      | .entdaa x => d'.sec.i3cAddr = some (s.dev.sec.i3cAddr.getD x)
      | .setdasa st x => d'.sec.i3cAddr = (if st = 0x3A ∧ s.dev.sec.i3cAddr = none then some x else s.dev.sec.i3cAddr)
      | .mctpCause => d'.sec.i3cAddr = s.dev.sec.i3cAddr
          ∧ (s.dev.sec.i3cAddr ≠ none → ∃ v, d'.host.replies = s.dev.host.replies ++ [.i3c v] ∧ (v = 0 ↔ s.dev.alert = false))
      | .mctpBootStatus => d'.sec.i3cAddr = s.dev.sec.i3cAddr
      | .hdr => d'.sec.i3cAddr = s.dev.sec.i3cAddr ∧ d'.host.replies = s.dev.host.replies ++ [.i3cNack])

/-- For every state and every bound, if the lifecycle is at least the bound and a step answers a next state, then the
lifecycle is at least the bound in that state, whichever command waits at the front of the queue and also on an empty
queue. (R413) -/
def Obligations.LifecycleOnlyMovesForward : Prop :=
  ∀ (s t : State) (bound : Nat), bound ≤ s.dev.sec.lifecycle.toNat → step s = .next t → bound ≤ t.dev.sec.lifecycle.toNat

/-- If a step answers a next state whose lifecycle, minimum SVNs, owner slots or unwrap keys differ from those before, then
the command at the front of the queue is PROVISION_OWNER, SET_OWNER_SLOT, GEN_UNWRAP_KEY, ADVANCE_SVN, SET_LIFECYCLE or
DEBUG_UNLOCK, or it is the release of a reset in RETURNED with the sequence of R414 incomplete. No other reset, no bus
message, no register write and no tick of the clock changes them. (R410, R411, R412, R413, R414, R416) -/
def Obligations.OnlyOwnerCommandsChangeTheVault : Prop :=
  ∀ (s t : State), step s = .next t → t.dev.vault ≠ s.dev.vault →
    ∃ c rest, s.pending = c :: rest ∧ ((∃ k, c = .provisionOwner k) ∨ (∃ a n k, c = .setOwnerSlot a n k) ∨ (∃ a n, c = .genUnwrapKey a n)
      ∨ (∃ a i v, c = .advanceSvn a i v) ∨ (∃ a x, c = .setLifecycle a x) ∨ (∃ x, c = .debugUnlock x)
      ∨ ((∃ n a b, c = .resetRelease n a b) ∧ s.dev.sec.returning = true))

/-- Every diode conversion publishes both codes. A plausible pair that agrees, with no disagreement, sets T_NOW to
round_half_even((A + B) / 2) − 1,024 and T_MAX to the highest so far. An implausible code, or the third disagreeing pair
in a row, raises MON_DISAGREE at once with its 50 % limit, ALERT_N, a count and a notice. While raised, the 20,000th good
pair in a row clears it, and a lesser run only counts. DIODE_CONVERSION completes. (R134, R362, R365, R366, R367, R377,
R394) -/
def Obligations.DiodePairsSetTemperatureOrDisagree : Prop :=
  ∀ (s : State) (a b : BitVec 12),
    let good := plausible a = true ∧ plausible b = true ∧ agree a b = true
    let hk := fun (d' : Dev) => SMap.get 0 d'.power.hk 15 = (8 : BitVec 4) ++ a ∧ SMap.get 0 d'.power.hk 31 = (8 : BitVec 4) ++ b
    (good → s.dev.power.disagree = false → Runs (.diodeConversion a b) s fun d' => hk d' ∧ d'.power.tNow = tdiode a b
      ∧ d'.power.tKnown = true ∧ d'.power.badPairs = 0 ∧ d'.power.disagree = false
      ∧ d'.power.tMax = (if s.dev.power.tKnown then max s.dev.power.tMax (tdiode a b) else tdiode a b)
      ∧ s.dev.only d' [.power, .array, .obs])
    ∧ (s.dev.power.disagree = false →
        (plausible a = false ∨ plausible b = false ∨ (agree a b = false ∧ s.dev.power.badPairs ≥ 2)) →
        Runs (.diodeConversion a b) s fun d' => hk d' ∧ d'.power.disagree = true ∧ d'.power.monLimit = true
          ∧ d'.budget ≤ max 897 (d'.power.hostLimit * 50 / 100) ∧ d'.alert = true ∧ d'.power.tNow = s.dev.power.tNow
          ∧ d'.counter DC.monDisagreeEvt = s.dev.counter DC.monDisagreeEvt + 1 ∧ d'.stack = s.dev.stack ∧ d'.ledger = s.dev.ledger)
    ∧ (good → s.dev.power.disagree = true →
        Runs (.diodeConversion a b) s fun d' => hk d' ∧
          if s.dev.power.goodPairs + 1 ≥ 20000 then d'.power.disagree = false ∧ d'.power.tNow = tdiode a b
          else d'.power.disagree = true ∧ d'.power.goodPairs = s.dev.power.goodPairs + 1 ∧ d'.power.tNow = s.dev.power.tNow)

/-- With T at or above THR_REQ, or a rise of 4 °C in 10 ms, the request stands; with T at least HYST below and no fast rise,
the device is calm. Critical makes the stage 4. From stage 0 a request makes it 1. From stages 1 to 3, requests for the
grace time in a row raise it by 1. From stage 1 on, calm for the grace time lowers it by 1. Otherwise it stays, and the
runs of requests and of calm are counted. An unknown temperature is neither. The stack, the ledger and the links' state
are untouched. THROTTLE_EVAL completes. (R367, R375, R377, R394) -/
def Obligations.ThrottleStageFollowsTheProcedure : Prop :=
  ∀ s : State,
    let p := s.dev.power
    let known := p.tKnown = true ∧ p.disagree = false
    let req := known ∧ (p.tNow ≥ s.dev.thrReq ∨ s.dev.rise ≥ 64)
    let calm := ¬ req ∧ known ∧ p.tNow ≤ s.dev.thrReq - s.dev.hyst ∧ s.dev.rise < 64
    Runs .throttleEval s fun d' => d'.stack = s.dev.stack ∧ d'.ledger = s.dev.ledger ∧ d'.link = s.dev.link
      ∧ (p.crit = true → d'.power.stage = 4)
      ∧ (p.crit = false → p.stage = 0 → req → d'.power.stage = 1)
      ∧ (p.crit = false → 1 ≤ p.stage → p.stage ≤ 3 → req → p.hot + 1 ≥ s.dev.grace → d'.power.stage = p.stage + 1)
      ∧ (p.crit = false → 1 ≤ p.stage → calm → p.cool + 1 ≥ s.dev.grace → d'.power.stage = p.stage - 1)
      ∧ (p.crit = false → 1 ≤ p.stage → p.stage ≤ 3 → req → p.hot + 1 < s.dev.grace →
          d'.power.stage = p.stage ∧ d'.power.hot = p.hot + 1 ∧ d'.power.cool = 0)
      ∧ (p.crit = false → 1 ≤ p.stage → calm → p.cool + 1 < s.dev.grace →
          d'.power.stage = p.stage ∧ d'.power.hot = 0 ∧ d'.power.cool = p.cool + 1)
      ∧ (p.crit = false → ¬ req → ¬ calm → d'.power.stage = p.stage ∧ d'.power.hot = 0 ∧ d'.power.cool = 0)
      ∧ (p.crit = false → p.stage = 4 → req → d'.power.stage = 4)

/-- A critical assertion on a powered package sets stage 4, enforces at most 10 % of the host's budget in force at once,
asserts ALERT_N, is counted and sends a notice. Its end clears critical, leaves the stage at its value and sends a notice.
CRITICAL_ASSERT and CRITICAL_DEASSERT complete. (R25, R367, R373, R377, R378) -/
def Obligations.CriticalForcesStageFourAtOnce : Prop :=
  ∀ s : State,
    (s.dev.power.crit = false → s.dev.rst.phase ≠ .off → s.dev.rst.phase ≠ .tripped →
      Runs .criticalAssert s fun d' => d'.power.crit = true ∧ d'.power.stage = 4
        ∧ d'.budget ≤ max 897 (d'.power.hostLimit * 10 / 100) ∧ d'.alert = true
        ∧ d'.counter DC.thermCrit = s.dev.counter DC.thermCrit + 1 ∧ (∃ n, .notice n ∈ d'.host.sent)
        ∧ d'.stack = s.dev.stack ∧ d'.ledger = s.dev.ledger ∧ d'.sec = s.dev.sec ∧ d'.part = s.dev.part)
    ∧ (s.dev.power.crit = true → Runs .criticalDeassert s fun d' => d'.power = { s.dev.power with crit := false }
        ∧ (∃ n, .notice n ∈ d'.host.sent) ∧ s.dev.only d' [.power, .host, .serve, .obs])

/-- WARN outside a hold and outside a reset begins the hold: every step in progress is marked, ALERT_N is asserted, and it is
counted. RETURN ends the hold and, on a ready package, every READY tile is to run the verification test, and so is every
tile that an earlier sweep left VERIFYING; with no such tile the sweep is over at once. Without a hold RETURN changes the
reset block only. In a reset held by a brown-out WARN says that VIN_IVR is below 1.74 V again: its time above that starts
anew. BROWNOUT_WARN and BROWNOUT_RETURN complete. (R66, R340, R370, R371, R372, R377) -/
def Obligations.BrownoutHoldsAndSweeps : Prop :=
  ∀ s : State,
    (s.dev.power.boHold = false → s.dev.rst.phase = .ready →
      Runs .brownoutWarn s fun d' => d'.power.boHold = true ∧ d'.power.sweep = false ∧ d'.alert = true
        ∧ (∀ p st, (s.dev.job p).step = some st → ∃ st', (d'.job p).step = some st' ∧ st'.marked = true)
        ∧ d'.counter DC.boWarn = s.dev.counter DC.boWarn + 1 ∧ d'.stack = s.dev.stack ∧ d'.ledger = s.dev.ledger)
    ∧ (s.dev.power.boHold = true → s.dev.rst.phase = .ready →
        let due := (s.dev.power.sweepLeft.filter fun k => decide ((s.dev.tile k).state = .verifying)) ++ s.dev.readyTiles
        Runs .brownoutReturn s fun d' => d'.power.boHold = false ∧ d'.power.sweep = !due.isEmpty ∧ d'.power.sweepLeft = due
          ∧ (∀ k ∈ due, (d'.tile k).state = .verifying) ∧ d'.stack = s.dev.stack)
    ∧ (s.dev.rst.phase = .inReset → s.dev.rst.brownHeld = true → Runs .brownoutWarn s fun d' =>
        d' = { s.dev with rst := { s.dev.rst with vinUp := false, vinFor := 0 } })
    ∧ (s.dev.power.boHold = false → Runs .brownoutReturn s fun d' =>
        d' = { s.dev with rst := { s.dev.rst with vinUp := s.dev.rst.vinUp || s.dev.rst.brownHeld } })

/-- When VDD_SER or VDDH_SER is lost, every port is down or disabled and unkeyed and the CXL link is down with no IDE stream,
while the array, the stack, the serving state, the ledger and the set-ups keep their state. When both rails are back every
enabled port trains and the others stay as they were. SER_RAIL_LOSS and SER_RAIL_RESTORE complete. (R272, R277, R467) -/
def Obligations.SerdesRailLossStopsTheLinksOnly : Prop :=
  ∀ s : State,
    Runs .serRailLoss s (fun d' => (∀ n, ((d'.port n).state = 0 ∨ (d'.port n).state = 5) ∧ (d'.port n).keyed = false)
      ∧ d'.glob.cxlActive = false ∧ d'.glob.ideIo = false ∧ d'.glob.ideCm = false ∧ d'.rst = { s.dev.rst with serUp := false }
      ∧ s.dev.only d' [.rst, .glob, .link, .obs])
    ∧ Runs .serRailRestore s (fun d' => d'.rst = { s.dev.rst with serUp := true } ∧ s.dev.only d' [.rst, .link]
      ∧ (∀ n < 6, d'.port n = if s.dev.fld (Off.flCtl n) 0 0 = 1 ∧ (s.dev.port n).state ≠ 5
          then { s.dev.port n with state := 1 } else s.dev.port n))

/-- With EN a trigger that is due takes the control register as it stands and starts a conversion of CH, counted late where it
meets the diode conversion; a housekeeping conversion of another channel that it meets is to be repeated. A trigger that
is not due changes nothing: one by timer is due PERIOD after it last fired, PERIOD 0 acting as 1 µs. A result is written
with VALID, the channel and the code, OVR where an unread result is replaced, and LATE. A read of a ready package answers
the word and clears VALID and OVR; before ready it answers 0. A housekeeping conversion of channels 0 to 9 and 11 to 14 is
published and is to be repeated no longer. MON_HOST_TRIGGER, MON_HOST_RESULT, MON_DATA_READ and HOUSEKEEPING_CONVERSION
complete. (R362, R363, R364, R366, R386) -/
def Obligations.MarigoldHostConversions : Prop :=
  ∀ (s : State) (b : Bool) (code : BitVec 12),
    let ctl := s.dev.reg64 (if b then Off.monB else Off.monA)
    let word := fun (d : Dev) => if b then d.power.monB else d.power.monA
    let fired := if b then s.dev.power.firedB else s.dev.power.firedA
    (∀ inDiode x, ctl.getLsbD 0 = true → s.dev.monDue ctl fired = true → Runs (.monHostTrigger b inDiode x) s fun d' =>
      d'.conv b = some (fieldNat ctl 9 6, inDiode) ∧ (if b then d'.power.firedB else d'.power.firedA) = some s.dev.now
        ∧ (∀ c < 15, c ≠ 10 → c ≠ fieldNat ctl 9 6 → x = some c → (b, c) ∈ d'.power.hkRepeat)
        ∧ (if b then d'.power.ctlB else d'.power.ctlA) = ctl
        ∧ d'.counter DC.monLate = s.dev.counter DC.monLate + (if inDiode then 1 else 0) ∧ s.dev.only d' [.power, .obs])
    ∧ (∀ inDiode x, ctl.getLsbD 0 = true → s.dev.monDue ctl fired = false → exec (.monHostTrigger b inDiode x) s = .next s)
    ∧ (∀ t, fired = some t → ctl.getLsbD 1 = false →
        s.dev.monDue ctl fired = decide (1000 * max 1 (fieldNat ctl 25 10) ≤ s.dev.since t))
    ∧ (∀ ch late, s.dev.conv b = some (ch, late) → ch < 16 → Runs (.monHostResult b code) s fun d' =>
        d'.conv b = none ∧ (word d').getLsbD 31 = true ∧ (word d').getLsbD 30 = (word s.dev).getLsbD 31
          ∧ (word d').getLsbD 29 = late ∧ fieldNat (word d') 19 16 = ch ∧ fieldNat (word d') 11 0 = code.toNat
          ∧ s.dev.only d' [.power, .obs])
    ∧ (s.dev.rst.phase = .ready → Runs (.monDataRead b) s fun d' =>
        d'.host.replies = s.dev.host.replies ++ [.word ((word s.dev).setWidth 64)]
          ∧ (word d').getLsbD 31 = false ∧ (word d').getLsbD 30 = false ∧ fieldNat (word d') 29 0 = fieldNat (word s.dev) 29 0
          ∧ s.dev.only d' [.host, .power])
    ∧ (s.dev.rst.phase ≠ .ready → Runs (.monDataRead b) s fun d' => d' = s.dev.answer (.word 0))
    ∧ (∀ ch < 15, ch ≠ 10 → Runs (.housekeepingConversion b ch code) s fun d' =>
        SMap.get 0 d'.power.hk ((if b then 16 else 0) + ch) = (8 : BitVec 4) ++ code ∧ s.dev.only d' [.power]
          ∧ (b, ch) ∉ d'.power.hkRepeat
          ∧ ∀ k, k ≠ (if b then 16 else 0) + ch → SMap.get 0 d'.power.hk k = SMap.get 0 s.dev.power.hk k)

/-- Each event report writes one log entry at the head of the ring, which advances and wraps, and is counted. The 16th
corrected word of a scratchpad row within 24 h, any uncorrectable word and the 4,096th corrected error of a pseudo-channel
within an hour are ruled permanent, fewer transient; a lane that fails training is permanent; a second overdue restore of
a tile within 24 h ages it at once or at the next boundary. An uncorrectable row of an owned cluster is to be mapped out.
Ledger time advances by one second at a tick and is saved in MRAM by a save. LEDGER_EVENT_REPORT, LEDGER_TIME_TICK and
LEDGER_TIME_SAVE complete. (R226, R335, R336, R337, R338, R344) -/
def Obligations.LedgerLogsEveryReportedEvent : Prop :=
  ∀ s : State,
    let l := s.dev.ledger
    (∀ e, Runs (.ledgerEventReport e) s fun d' => d'.ledger.head = (l.head + 1) % Config.ledgerEntries
      ∧ (∃ w, SMap.get 0 d'.ledger.log l.head = w ∧ w.extractLsb' 0 32 = l.ltime) ∧ d'.ledger.ltime = l.ltime
      ∧ d'.counter DC.ledgerEvent = s.dev.counter DC.ledgerEvent + 1 ∧ d'.stack.mem = s.dev.stack.mem ∧ d'.vault = s.dev.vault)
    ∧ (∀ c r, Runs (.ledgerEventReport (.spadUncorrectable c r)) s fun d' =>
        ((SMap.get 0 d'.ledger.log l.head).extractLsb' 40 2 : BitVec 2) = 2
        ∧ ((s.dev.clusterOwner c).isSome = true →
            r ∈ (d'.cluster c).mapOut ∨ (s.dev.cluster c).spadMap.any (fun e => e.2 == r) = true))
    ∧ (∀ p n f, Runs (.ledgerEventReport (.laneFaulty p n f)) s fun d' =>
        (f = true → (d'.lane (8 * p + n)).permanent = true) ∧ ∀ k, k ≠ 8 * p + n → d'.lane k = s.dev.lane k)
    ∧ (∀ c r, Runs (.ledgerEventReport (.spadCorrected c r)) s fun d' =>
        ((SMap.get 0 d'.ledger.log l.head).extractLsb' 40 2 : BitVec 2) =
          if (s.dev.inWindow 86400 (((l.tally.find? fun e => e.1 == 512 * c + r).map (·.2.times)).getD [])).length ≥ 15 then 2 else 1)
    ∧ (∀ pc, Runs (.ledgerEventReport (.stackCorrected pc)) s fun d' =>
        let n := (s.dev.inWindow 3600 (SMap.get ([], []) l.pcErrors pc).1).length
        ((SMap.get 0 d'.ledger.log l.head).extractLsb' 40 2 : BitVec 2) = (if n ≥ 4095 then 2 else 1)
          ∧ (n < 4095 → d'.pcs pc = s.dev.pcs pc))
    ∧ (∀ k, Runs (.ledgerEventReport (.tileOverdue k)) s fun d' => (d'.tile k).overdues.head? = some s.dev.ltime
        ∧ (d'.tile k).state = (s.dev.tile k).state
        ∧ (s.dev.inWindow 86400 (s.dev.tile k).overdues ≠ [] → (d'.tile k).aged = true ∨ (d'.tile k).agedStaged = true))
    ∧ (s.dev.rst.auxUp = true → Runs .ledgerTimeTick s (fun d' => d' = { s.dev with ledger := { l with ltime := l.ltime + 1 } }))
    ∧ (s.dev.rst.auxUp = true → Runs .ledgerTimeSave s (fun d' => d' = { s.dev with ledger := { l with saved := l.ltime } }))

/-- At a sample instant of a traced partition with an empty ring in a region that it may use, with device records only, the
page holds one record of type 2 with the time, the step, the position and the selected device counters; with cluster
records only and one cluster, one of type 1 with the selected counters of that cluster; with no block remapped the first 4
KiB of the ring in the stack then hold the page, pad records behind its record (log 103). A ring that the partition may
not use keeps its records as they were. Off an instant nothing happens. A PC sample before the eighth joins its cluster's
batch and is counted. The oldest full page of a member that is not the primary is sent, and on the primary with room and
nothing held back it is written to the host ring. TRACE_SAMPLE, PC_SAMPLE and TRACE_PAGE_SEND complete. (R230, R431, R432,
R433, R434, R435, R436, R437) -/
def Obligations.TraceSampleWritesLatchedCounters : Prop :=
  ∀ (s : State) (p : Nat),
    let at_ := s.dev.traceOn p = true ∧ s.dev.now.toNat % (1000 * s.dev.traceInterval p) = 0
    (at_ → s.dev.ringAllowed p = true → s.dev.traceCl p = false → s.dev.traceDev p = true → s.dev.traceRing p = Ring.empty → 1 ≤ s.dev.ringPages p →
      Runs (.traceSample p) s fun d' => s.dev.only d' [.obs, .stack] ∧ ∃ x, (d'.traceRing p).page = [x] ∧ (d'.traceRing p).pages = []
        ∧ (s.dev.stack.remap = [] → ∀ i < 4096, d'.byte (16384 * fieldNat (s.dev.regIn64 (Off.traceRing p)) 22 0 + i) = (pageBytes [x]).getD i 0)
        ∧ x.type = 2 ∧ x.time = s.dev.now ∧ x.step = s.dev.stepNow p ∧ x.position = s.dev.sys.position ∧ x.partition = p
        ∧ x.body = ((((List.range 16).map fun i => fieldNat (s.dev.regIn (Off.traceDev p + 4 * (i / 2))) (16 * (i % 2) + 15)
            (16 * (i % 2))).filter fun e => decide (e ≥ 0x8000)).map (· % 1024)).map s.dev.counter)
    ∧ (at_ → s.dev.ringAllowed p = false → Runs (.traceSample p) s fun d' => d'.traceRing p = s.dev.traceRing p ∧ d'.stack.mem = s.dev.stack.mem)
    ∧ (∀ c, at_ → s.dev.ringAllowed p = true → s.dev.traceCl p = true → s.dev.traceDev p = false → s.dev.partClusters p = [c] → s.dev.traceRing p = Ring.empty →
        1 ≤ s.dev.ringPages p →
        Runs (.traceSample p) s fun d' => s.dev.only d' [.obs, .fresh, .stack] ∧ ∃ x, (d'.traceRing p).page = [x] ∧ x.type = 1
          ∧ x.time = s.dev.now ∧ x.cluster = c
          ∧ x.body = ((List.range 64).filter fun k => (s.dev.regIn64 (Off.traceSel p)).getLsbD k).map (s.dev.counterC c))
    ∧ (¬ at_ → exec (.traceSample p) s = .next s)
    ∧ (∀ c, s.dev.clusterOwner c = some p → s.dev.traceOn p = true → s.dev.tracePc p = true →
        s.dev.now.toNat % 2 ^ s.dev.pcLog2 p = 0 →
        let words := fun (d : Dev) => ((SMap.get none (d.traceRing p).batches c).map (·.words)).getD []
        (words s.dev).length < 7 → Runs (.pcSample c) s fun d' =>
          ∃ b w, SMap.get none (d'.traceRing p).batches c = some b ∧ b.words = words s.dev ++ [w]
            ∧ w.extractLsb' 0 20 = (s.dev.cluster c).sequencer.pc
            ∧ (SMap.get none (s.dev.traceRing p).batches c = none → b.time = s.dev.now ∧ b.step = s.dev.stepNow p)
            ∧ (d'.traceRing p).page = (s.dev.traceRing p).page
            ∧ d'.counterC c CC.pcSamples = s.dev.counterC c CC.pcSamples + 1 ∧ s.dev.only d' [.obs, .fresh])
    ∧ (∀ n pg rest, s.dev.traceLog2 p = some n → (s.dev.traceRing p).pages = pg :: rest →
        (s.dev.sys.primary = false → Runs (.tracePageSend p) s fun d' => (d'.traceRing p).pages = rest
          ∧ d'.host.sent = s.dev.host.sent ++ [.bulk (.tracePage p (pageBytes pg.records))]
          ∧ d'.counter DC.tracePages = s.dev.counter DC.tracePages + 1)
        ∧ (s.dev.sys.primary = true → (s.dev.traceRing p).heldBack = [] → s.dev.hostRingFull p = false →
            Runs (.tracePageSend p) s fun d' => (d'.traceRing p).pages = rest ∧ (d'.traceRing p).wptr = (s.dev.traceRing p).wptr + 1
              ∧ ∃ a, d'.host.writes = s.dev.host.writes ++ [.tracePage p a (pageBytes pg.records)]))

/-- On the primary its own push, and the receipt of another position's, set all 1,024 mirrored counters of that position and
its CTR_TIME, and leave every other position's; a member that is not the primary sends its counters. The dump of a fired
watch frees its index. From a member that is not the primary an address watch's bytes, then the 64-byte header, then the
success completion with the watch's index are sent in that order. A watch that has not fired is left as it was.
COUNTER_PUSH, COUNTER_PUSH_RECEIVE and WATCH_DUMP_WRITE complete. (R250, R438, R439, R440) -/
def Obligations.CounterPushesAndWatchDumpsReachTheGateway : Prop :=
  (∀ (s : State) (pos : Nat) (report : CounterReport),
    let slice := fun (d' : Dev) (q : Nat) (v : Nat → U64) => (∀ n < 1024, SMap.get 0 d'.host.ctrMirror (1024 * q + n) = v n)
      ∧ SMap.get 0 d'.host.ctrTime q = s.dev.us
      ∧ (∀ k, k / 1024 ≠ q → SMap.get 0 d'.host.ctrMirror k = SMap.get 0 s.dev.host.ctrMirror k)
      ∧ (∀ k, k ≠ q → SMap.get 0 d'.host.ctrTime k = SMap.get 0 s.dev.host.ctrTime k) ∧ s.dev.only d' [.host]
    (s.dev.sys.primary = true → Runs .counterPush s fun d' => slice d' s.dev.sys.position s.dev.counter)
    ∧ (s.dev.sys.primary = false → Runs .counterPush s fun d' => s.dev.only d' [.host]
        ∧ d'.host.sent = s.dev.host.sent ++ [.counters s.dev.sys.position s.dev.obs.dev ((List.range 64).map fun p => (s.dev.traceRing p).lost)])
    ∧ (s.dev.sys.primary = true ∨ s.dev.sys.standby = true →
        Runs (.counterPushReceive ⟨3, pos⟩ report) s fun d' => slice d' pos fun n => report.counters.getD n 0))
  ∧ (∀ (s : State) (p w : Nat) (x : Watch), s.dev.watch p w = some x →
    (x.fired = true → Runs (.watchDumpWrite p w) s fun d' => d'.watch p w = none
      ∧ (∀ q v, 16 * q + v ≠ 16 * p + w → d'.watch q v = s.dev.watch q v) ∧ d'.stack = s.dev.stack ∧ d'.array = s.dev.array
      ∧ (s.dev.sys.primary = false → ∃ h rest, h.length = 64 ∧ d'.host.sent = s.dev.host.sent ++ rest
          ++ [.hostWrite (.buffer x.origin.queue x.spec.bufAddr h),
              .hostWrite (.completion x.origin.queue (completionWord false x.origin.queue (BitVec.ofNat 32 w) 0 0 0 0x50
                St.success x.origin.sqHead 0 x.origin.tag))]
          ∧ ∀ m ∈ rest, ∃ bs, m = .hostWrite (.buffer x.origin.queue (x.spec.bufAddr + 64) bs)))
    ∧ (x.fired = false → exec (.watchDumpWrite p w) s = .next s))

/-- A tile that is free, with an input at its row drivers and nothing owed, starts it when the cluster's allowance admits 1:
the input leaves the drivers and joins the evaluations that the tile has begun, it is split exactly where the pair was
marked or the reference columns exceed ×1, and it is counted once, or twice when split. When it is not admitted it waits
and the input stays, and so it does while a brown-out hold or a sweep alone keeps it back. A discarded evaluation, an
observed split, a replay or a re-evaluation that the tile owes first starts by its own command in the same way. Other
tiles, the stack and the ledger are unchanged. TILE_EVAL_START, SPLIT_EVAL_START, TILE_REPLAY_START and
CHECKSUM_REEVAL_START complete. (R44, R45, R48, R50, R68, R69, R74, R76, R77, R102, R124) -/
def Obligations.EvaluationStartsHoldOneTileEquivalent : Prop :=
  ∀ (s : State) (k : Nat),
    let t := s.dev.tile k
    let started := fun (d' : Dev) (ev : Eval) => (d'.tile k).evals = t.evals ++ [{ ev with startedAt := s.dev.now }]
      ∧ d'.tileHeld k = (if t.prog.isSome then 2 else 1) ∧ (∀ j, j ≠ k → d'.tile j = s.dev.tile j)
      ∧ s.dev.only d' [.array, .obs, .engine, .serve] ∧ (s.dev.admits k 1 1 = true → s.dev.only d' [.array, .obs])
      ∧ d'.counterC (k / 64) CC.tileEval = s.dev.counterC (k / 64) CC.tileEval + BitVec.ofNat 64 ev.parts.length
    let owes := fun (d' : Dev) (ev : Eval) (rest : List Eval) => started d' ev ∧ (d'.tile k).owed = rest
    let waits := fun (d' : Dev) => (∀ j, d'.tile j = s.dev.tile j)
      ∧ (∃ w ∈ (d'.cluster (k / 64)).waiting, w.tile = k ∧ w.rank = 1) ∧ s.dev.only d' [.array, .engine, .serve]
    (∀ v, s.dev.tileFree k = true → t.owed = [] → t.edge = some v → (s.dev.ask k 1 1).2 = true →
      Runs (.tileEvalStart k) s fun d' => (d'.tile k).edge = none ∧ ∃ ev, started d' ev ∧ ev.vec = v ∧ ev.kind = .normal
        ∧ ev.replayed = false ∧ ev.split = (!v.transposed && (t.preSplit.contains v.layer || refSplit v.a)))
    ∧ (∀ v, t.owed = [] → t.edge = some v →
        (s.dev.tileFree k = true ∧ (s.dev.ask k 1 1).2 = false) ∨ (s.dev.tileFree k = false ∧ s.dev.budgetWaits k = true) →
        Runs (.tileEvalStart k) s waits)
    ∧ (∀ ev rest, s.dev.tileFree k = true → t.owed = ev :: rest → (s.dev.ask k 1 1).2 = true →
        (ev.kind = .normal → ev.observed = false → Runs (.tileEvalStart k) s fun d' => owes d' ev rest)
        ∧ (ev.kind = .normal → ev.observed = true → Runs (.splitEvalStart k) s fun d' => owes d' ev rest)
        ∧ (ev.kind = .replay → Runs (.tileReplayStart k) s fun d' => owes d' ev rest)
        ∧ (ev.kind = .reeval → Runs (.checksumReevalStart k) s fun d' => owes d' ev rest))

/-- When the codes of the oldest evaluation of a tile are there, an unsplit forward one, no converter clips, the band check is
off and every checksum group is within its tolerance, each of the 512 outputs adds 16 times its high-nibble value plus its
low-nibble value, at its column scale, to its accumulator lane; the tile owes nothing further for it, the evaluation is
over, and nothing but the array, the counters and the free-value counter changes. TILE_EVAL_COMPLETE completes. (R39, R74,
R87, R89, R101, R123) -/
def Obligations.CleanEvaluationAddsSixteenHighPlusLow : Prop :=
  ∀ (s : State) (k : Nat) (cH cL : List Byte) (ev : Eval) (rest : List Eval),
    (s.dev.tile k).evals = ev :: rest → ev.split = false → ev.vec.transposed = false → s.dev.bandU = 0 →
    let d0 := (s.dev.updTile k fun t => { t with evals := rest }).rehold k
    let x := d0.correctPart k ev none cH cL
    let H := x.2.pu true ev.classes
    let L := x.2.pu false ev.classes
    let lt := 64 * (k / 64) + (s.dev.logicalOf k).getD 0
    let r := fun (i g : Nat) => SMap.get 0 (s.dev.table lt).residues (4 * i + g)
    x.2.clips 520 = [] →
    ((if x.2.skip then [] else failedGroups true none ev.vec.a r s.dev.tolSigma (checkQ2 (s.dev.tile k).qSq) ev.classes H)
      ++ failedGroups false none ev.vec.a r s.dev.tolSigma (checkQ2 (s.dev.tile k).qSq) ev.classes L) = [] →
    Runs (.tileEvalComplete k cH cL [] []) s fun d' => (d'.tile k).evals = rest ∧ (d'.tile k).owed = (s.dev.tile k).owed
      ∧ (d'.cluster (k / 64)).lanes = ((s.dev.addPartials (k / 64) lt ev.vec
          ((List.range 512).map fun j => 16 * H.getD j 0 + L.getD j 0)).cluster (k / 64)).lanes
      ∧ s.dev.only d' [.array, .obs, .fresh]

/-- When a data or checksum column of an unsplit forward evaluation clips at class 0 and no reference column clips, the
observed split of the same input is ordered, the pair is remembered as seen to need it, and no accumulator lane changes.
When a reference column clips on the first evaluation of an input, a re-evaluation is ordered and counted as a failed
check, and no lane changes. TILE_EVAL_COMPLETE completes. (R41, R49, R50, R101, R111, R124) -/
def Obligations.ClippedEvaluationIsNotAccumulated : Prop :=
  ∀ (s : State) (k : Nat) (cH cL : List Byte) (ev : Eval) (rest : List Eval),
    (s.dev.tile k).evals = ev :: rest → ev.split = false → ev.vec.transposed = false →
    let d0 := (s.dev.updTile k fun t => { t with evals := rest }).rehold k
    let x := d0.correctPart k ev none cH cL
    let ordered := fun (d' : Dev) (e : Eval) => (d'.tile k).evals = rest ∧ (d'.tile k).owed = (s.dev.tile k).owed ++ [e]
      ∧ e.vec = ev.vec ∧ (d'.cluster (k / 64)).lanes = (s.dev.cluster (k / 64)).lanes ∧ s.dev.only d' [.array, .obs, .fresh]
    (x.2.refClip = false → ((x.2.clips 520).any fun j => ev.classes.getD j 0 == 0) = true →
      Runs (.tileEvalComplete k cH cL [] []) s fun d' =>
        (∃ e, ordered d' e ∧ e.split = true ∧ e.observed = true ∧ e.kind = .normal) ∧ ev.vec.layer ∈ (d'.tile k).splitSeen)
    ∧ (x.2.refClip = true → ev.reevals = 0 →
        Runs (.tileEvalComplete k cH cL [] []) s fun d' => (∃ e, ordered d' e ∧ e.kind = .reeval ∧ e.reevals = 1)
          ∧ d'.counterC (k / 64) CC.chkFail = s.dev.counterC (k / 64) CC.chkFail + 1)

/-- Of the oldest evaluation that waits for a patched column, while more patches are open, the exact pulse sums of the column
over the golden image, or over zeros where the partition may not read it, are kept and the column is taken off the list;
with the last patch the evaluation waits no longer. A shadow sample ends, is counted, and moves Q² by 1/64 of the way to
the square of each nibble's residual; with sampling disabled it is dropped. A filled cache line takes the row that is free
or whose line gives way, with its bytes in that scratchpad row, and is no longer missing; where no line may give way it is
not kept. An input's side-path work waits for the line no longer. COLUMN_PATCH_COMPLETE, SHADOW_SAMPLE and CACHE_MISS_FILL
complete. (R104, R131, R132, R140, R224, R225, R230) -/
def Obligations.PatchesAndSamplesUseTheGoldenImage : Prop :=
  ∀ (s : State) (k col c : Nat) (line : LineKind),
    let may := s.dev.imageOpen (k / 64) ((s.dev.logicalOf k).getD 0)
    let exact := fun (a : List Int) (j : Nat) (high : Bool) => pulseSum high none a (fun i => if may then s.dev.golden k i j else 0)
    (∀ st, (s.dev.tile k).settling.find? (fun x => x.patches.contains col) = some st →
      (st.patches.erase col ≠ [] → Runs (.columnPatchComplete k col) s fun d' => s.dev.only d' [.array] ∧ (∀ j, j ≠ k → d'.tile j = s.dev.tile j)
        ∧ (d'.tile k).settling = (s.dev.tile k).settling.map fun y => if y = st then
            { st with patches := st.patches.erase col
                      patched := (col, exact st.ev.vec.a col true, exact st.ev.vec.a col false) :: st.patched } else y)
      ∧ (st.patches.erase col = [] → Runs (.columnPatchComplete k col) s fun d' =>
          (d'.tile k).settling = (s.dev.tile k).settling.erase st ∨ (d'.tile k).settling = []))
    ∧ (∀ x rest, (s.dev.tile k).samples = x :: rest →
        ((s.dev.tile k).shadowLog ≠ 0 → Runs (.shadowSample k) s fun d' => (d'.tile k).samples = rest
          ∧ (d'.tile k).state = (s.dev.tile k).state
          ∧ d'.counterC (k / 64) CC.shadowSample = s.dev.counterC (k / 64) CC.shadowSample + 1
          ∧ let r := fun (v : Rat) (high : Bool) => (v - exact x.a x.col high) / (x.weight : Rat)
            let q1 := (s.dev.tile k).qSq + (r x.vHigh true * r x.vHigh true - (s.dev.tile k).qSq) / 64
            (d'.tile k).qSq = q1 + (r x.vLow false * r x.vLow false - q1) / 64)
        ∧ ((s.dev.tile k).shadowLog = 0 → Runs (.shadowSample k) s fun d' => (d'.tile k).samples = rest
          ∧ (d'.tile k).qSq = (s.dev.tile k).qSq ∧ s.dev.only d' [.array]))
    ∧ ((s.dev.cluster c).misses.contains line = true →
        let open_ := match line with | .imageRow lt _ | .imageCol lt _ => s.dev.imageOpen (lt / 64) (lt % 64) | _ => true
        Runs (.cacheMissFill c line) s fun d' => s.dev.only d' [.array, .obs, .stack, .host] ∧ (∀ j, j ≠ c → d'.cluster j = s.dev.cluster j)
          ∧ (d'.cluster c).misses = (s.dev.cluster c).misses.erase line ++ (s.dev.cluster c).missWait.take 1
          ∧ (d'.cluster c).missWait = (s.dev.cluster c).missWait.drop 1 ∧ (∀ a, d'.byte a = s.dev.byte a)
          ∧ (d'.cluster c).sideWaits = ((s.dev.cluster c).sideWaits.map fun w => { w with lines := w.lines.erase line }).filter
              (fun w => !w.lines.isEmpty)
          ∧ match (s.dev.cluster c).lineRow with
            | none => (d'.cluster c).lines = (s.dev.cluster c).lines
            | some r => (∃ x, (d'.cluster c).lines = x :: (s.dev.cluster c).lines.filter (fun e => e.row != r) ∧ x.kind = line ∧ x.row = r)
                ∧ (open_ = true → SMap.get 0 (d'.cluster c).spad r = rowOfBytes (s.dev.lineBytes c line)))

/-- For a tile in service that holds no input, with an input whose pulses are not all zero, forward, or transposed and scaled
by the column scales, the aligned mantissas and exponent of the conversion are put at the drivers with its layer, lanes
and request, and a poison element poisons its 512 lanes. An input of zeros only is counted as skipped and no input is put
there. A tile that still holds an input takes no other. EDGE_CONVERSION completes. (R46, R63, R80, R83, R84, R86, R97,
R166) -/
def Obligations.EdgeConversionAlignsTheInput : Prop :=
  ∀ (s : State) (lt layer dataRow expRow r acc k : Nat) (tr : Bool) (h : U32), s.dev.physOf (lt / 64) (lt % 64) = some k →
    let ms := s.dev.spadBytes (lt / 64) dataRow
    let es := ((s.dev.spadBytes (lt / 64) expRow).drop (16 * r)).take 16
    let input := if tr then s.dev.scaledInput (lt / 64) (lt % 64) ms es else (ms, es)
    let o := edgeConvert input.1 input.2 (if tr then [] else SMap.get [] (s.dev.table lt).statics layer) (if tr then 0 else s.dev.dynD)
    ((s.dev.tile k).edge = none → s.dev.onStandIn (lt / 64) (lt % 64) = false → o.zero = false →
      Runs (.edgeConversion lt layer dataRow expRow r tr acc h) s fun d' => s.dev.only d' [.array, .obs, .serve] ∧
        (∃ v, (d'.tile k).edge = some v ∧ v.a = o.a ∧ v.et = o.et ∧ v.layer = layer ∧ v.accBase = acc ∧ v.handle = h
          ∧ v.transposed = tr ∧ v.poison = o.poison)
        ∧ (o.poison = true → ∀ n < 512, (SMap.get Lane.fresh (d'.cluster (lt / 64)).lanes (acc + n)).poison = true)
        ∧ (d'.tile k).state = (s.dev.tile k).state ∧ ∀ j, j ≠ k → d'.tile j = s.dev.tile j)
    ∧ ((s.dev.tile k).edge = none → o.zero = true →
        Runs (.edgeConversion lt layer dataRow expRow r tr acc h) s fun d' => (∀ j, d'.tile j = s.dev.tile j)
          ∧ d'.counterC (lt / 64) CC.tileZeroSkip = s.dev.counterC (lt / 64) CC.tileZeroSkip + 1)
    ∧ ((s.dev.tile k).edge ≠ none → exec (.edgeConversion lt layer dataRow expRow r tr acc h) s = .next s)

/-- A READY tile with enough credit that is urgent or in a gap begins its restore at the first row slot once it is admitted:
RESTORING, credit 0, one tile-equivalent held, and a row whose cells lie within 3 codes of their levels is passed without
a rewrite. The last row of an unaudited restore returns the tile to READY with its restore counted. A credit tick adds the
inverse of the interval to every tile listed READY or RESTORING and changes no other tile's credit. RESTORE_ROW and
RESTORE_CREDIT_TICK complete. (R60, R62, R68, R74, R112, R113, R115, R116, R117, R120) -/
def Obligations.RestoreRunsRowByRow : Prop :=
  ∀ (s : State) (k : Nat) (due : Bool) (codes : List Byte),
    let t := s.dev.tile k
    let near := ∀ j < 520, (levelDev (codes.getD j 128).toNat (nearestLevel (codes.getD j 128).toNat)).natAbs < 4
    let may := t.evals = [] ∧ (s.dev.restoreFirst k = true ∨ s.dev.gap k due = true)
    (t.state = .ready → may → t.restore = none → t.credit * 100 ≥ s.dev.earlyUrgent.1 →
      s.dev.admits k 1 (if s.dev.restoreFirst k then 0 else 3) = true → s.dev.auditLog2 = none → t.mappedOut 0 = false → near →
      Runs (.restoreRow k due ⟨codes, []⟩) s fun d' => (d'.tile k).state = .restoring ∧ (d'.tile k).credit = 0
        ∧ (∃ x, (d'.tile k).restore = some x ∧ x.row = 1 ∧ x.rewritten = 0) ∧ d'.tileHeld k = (if t.prog.isSome then 2 else 1)
        ∧ (d'.tile k).cells = t.cells ∧ (∀ j, j ≠ k → d'.tile j = s.dev.tile j) ∧ s.dev.only d' [.array, .obs])
    ∧ (∀ x, t.restore = some x → x.row = 519 → x.audit = false → may → near →
        Runs (.restoreRow k due ⟨codes, []⟩) s fun d' => (d'.tile k).state = .ready ∧ (d'.tile k).restore = none
          ∧ (d'.tile k).restores = t.restores + 1 ∧ (d'.tile k).cells = t.cells
          ∧ d'.counterC (k / 64) CC.tileRestore = s.dev.counterC (k / 64) CC.tileRestore + 1 ∧ s.dev.only d' [.array, .obs])
    ∧ Runs .restoreCreditTick s (fun d' => d'.power.tickMax = none ∧ (∀ j, (d'.tile j).state = (s.dev.tile j).state)
        ∧ ∀ j, (d'.tile j).credit =
          if (s.dev.tile j).state = .ready ∨ (s.dev.tile j).state = .restoring
          then (s.dev.tile j).credit + 1 / restoreInterval s.dev.tTick (s.dev.tile j).aged else (s.dev.tile j).credit)

/-- Whatever the codes and the verify reads are, the row slot that begins a restore of a READY tile leaves its credit 0. When
the codes of the verification test pass its checks after programming, outside a sweep, the credit is 0.25 × (p mod 64) /
64, for a tile that then is READY and for a repaired tile that becomes READY at its boundary. RESTORE_ROW and
VERIFICATION_TEST complete. (R115) -/
def Obligations.RestoreClearsTheCreditAndProgrammingSpreadsIt : Prop :=
  ∀ (s : State) (k : Nat),
    (∀ due row, (s.dev.tile k).state = .ready → (s.dev.tile k).evals = [] → (s.dev.tile k).restore = none →
      (s.dev.tile k).credit * 100 ≥ s.dev.earlyUrgent.1 → (s.dev.restoreFirst k = true ∨ s.dev.gap k due = true) →
      s.dev.admits k 1 (if s.dev.restoreFirst k then 0 else 3) = true →
      Runs (.restoreRow k due row) s fun d' => (d'.tile k).credit = 0)
    ∧ (s.dev.power.boHold = false → s.dev.power.sweepLeft.contains k = false →
        ((s.dev.tile k).state = .verifying ∨ ((s.dev.tile k).state = .standin ∧ (s.dev.tile k).repair = 2)) →
        ((s.dev.beginTest k).tile k).testing = true →
        ∀ codes, ((s.dev.beginTest k).verifyTile k codes).2 = none → Runs (.verificationTest k codes) s fun d' =>
          (d'.tile k).credit = (1 / 4 : Rat) * ((k % 64 : Nat) : Rat) / 64
          ∧ ((s.dev.tile k).state = .verifying → (d'.tile k).state = .ready))

/-- A waiting tile with nothing running is granted below 4,096 programming tiles, outside a brown-out hold, when 2 tile-
equivalents are admitted: it is PROGRAMMING, or stays in stand-in under repair, from row 0 with its classes and peaks
forgotten. A row whose first verify read lies in the pass window writes its 520 levels and moves to the next row, with
nothing else touched where the golden image may be read; the last row leaves the tile VERIFYING. No row is written in a
hold. A verification that has begun and whose 32 halves pass every check makes the tile READY with fresh estimates; one
with a failing check does not. The reference-column check passes exactly when no reference code clips, the fitted gain
lies within 0.75 to 1.25, and every reference column lies within TOL_SIGMA × q × W of the fit. PROGRAMMING_START,
PROGRAM_ROW and VERIFICATION_TEST complete. (R55, R56, R57, R58, R59, R66, R74, R76, R115, R128, R331, R474) -/
def Obligations.ProgrammingWritesVerifiesAndTests : Prop :=
  ∀ (s : State) (k : Nat),
    let t := s.dev.tile k
    (t.progWait = true → t.prog = none → t.evals = [] → s.dev.power.boHold = false →
      s.dev.programming < 4096 → t.state ∈ [TileState.blank, .programming, .standin] → s.dev.admits k 2 2 = true →
      Runs (.programmingStart k) s fun d' =>
        (d'.tile k).state = (if t.state = .standin then .standin else .programming) ∧ (d'.tile k).progWait = false
        ∧ (∃ x, (d'.tile k).prog = some x ∧ x.row = 0) ∧ (d'.tile k).classes = [] ∧ (d'.tile k).peaks = []
        ∧ d'.tileHeld k = 2 ∧ (∀ j, j ≠ k → d'.tile j = s.dev.tile j) ∧ s.dev.only d' [.array])
    ∧ (∀ p reads rest, t.prog = some p → s.dev.power.boHold = false → t.mappedOut p.row = false →
        rowPasses (s.dev.targetRow k p.row) reads = true →
        Runs (.programRow k (reads :: rest)) s fun d' =>
          (∀ j < 520, SMap.get none (d'.tile k).cells (520 * p.row + j) = some ((s.dev.targetRow k p.row).getD j 0))
          ∧ d'.counterC (k / 64) CC.tileProgIter = s.dev.counterC (k / 64) CC.tileProgIter + 1
          ∧ (p.row + 1 < 520 → (∃ y, (d'.tile k).prog = some y ∧ y.row = p.row + 1)
              ∧ (s.dev.goldenOpen k = true → s.dev.only d' [.array, .obs]))
          ∧ (p.row = 519 → (d'.tile k).prog = none ∧ (d'.tile k).state = (if t.state = .standin then .standin else .verifying))
          ∧ s.dev.only d' [.array, .obs, .engine, .serve, .stack, .host])
    ∧ (s.dev.power.boHold = true → ∀ v, exec (.programRow k v) s = .next s)
    ∧ (∀ codes, t.state = .verifying → s.dev.power.boHold = false → s.dev.power.sweepLeft.contains k = false →
        ((s.dev.beginTest k).tile k).testing = true →
        Runs (.verificationTest k codes) s fun d' =>
          (((s.dev.beginTest k).verifyTile k codes).2 = none → (d'.tile k).state = .ready ∧ (d'.tile k).est = Estimate.start
            ∧ (d'.tile k).qSq = 1 / 4 ∧ (d'.tile k).everReady = true ∧ (d'.tile k).obs = 0
            ∧ (∀ j, j ≠ k → (d'.tile j).state = (s.dev.tile j).state) ∧ s.dev.only d' [.array, .obs, .fresh, .engine, .serve])
          ∧ (((s.dev.beginTest k).verifyTile k codes).2 ≠ none → (d'.tile k).state ≠ .ready))
    ∧ (∀ est sigma q2 es codes, refCheck est sigma q2 es codes = none ↔
        let M := fun c => ((codes.getD (516 + c) 128 : Int) - 128) * 256
        let fit := refFit est es ((List.range 4).map M)
        (∀ c < 4, codes.getD (516 + c) 128 ≠ 0 ∧ codes.getD (516 + c) 128 ≠ 255) ∧ 3 / 4 ≤ fit.g ∧ fit.g ≤ 5 / 4
          ∧ ∀ c < 4, let off := (M c : Rat) - (fit.o + fit.g * (es.getD c 0 : Int) + fit.k * (es.getD c 0 : Int) * (es.getD c 0 : Int) / 32768)
              off * off ≤ (sigma ^ 2 : Nat) * q2 * 65536)

/-- The interval trigger starts the calibration of a READY or RESTORING tile whose last one is old enough and counts it. The
cluster's engine completes the tile it has in hand and stages the new trims, or with FREEZE drops the statistics and
stages nothing; the trims in force do not change then. With no step in progress for 50 µs every tile's staged set takes
effect at once and its estimates' weights restart; with a step in progress none does. The quality summary names at most 32
tiles and changes nothing else. CAL_INTERVAL_TRIGGER, CALIBRATION_COMPLETE, IDLE_TRIM_APPLY and QUAL_SUMMARY_REFRESH
complete. (R26, R134, R135, R136, R137, R140) -/
def Obligations.CalibrationStagesTrimsAndAppliesThemIdle : Prop :=
  ∀ (s : State) (k : Nat),
    let t := s.dev.tile k
    ((t.state = .ready ∨ t.state = .restoring) → t.calibrating = false → t.staged = none →
      s.dev.since t.calAt ≥ s.dev.calMaxIvl * 1000000000 →
      Runs (.calIntervalTrigger k) s fun d' => (d'.tile k).calibrating = true ∧ (d'.tile k).colTrim = t.colTrim
        ∧ d'.array.lastTrig = 3 ∧ d'.counter DC.calTrigIvl = s.dev.counter DC.calTrigIvl + 1
        ∧ (∀ j, j ≠ k → d'.tile j = s.dev.tile j) ∧ s.dev.only d' [.array, .obs])
    ∧ (s.dev.calTile (k / 64) = some k → s.dev.array.calPending = false →
        Runs (.calibrationComplete (k / 64) (k % 64)) s fun d' => (d'.tile k).calibrating = false ∧ (d'.tile k).calEst = t.est
          ∧ (d'.tile k).colTrim = t.colTrim ∧ (d'.tile k).rowTrim = t.rowTrim
          ∧ (d'.tile k).staged = (if s.dev.freeze then t.staged else some (t.newColTrims.1, t.newRowTrims.1))
          ∧ d'.counterC (k / 64) CC.calTile = s.dev.counterC (k / 64) CC.calTile + 1 ∧ (∀ j, j ≠ k → d'.tile j = s.dev.tile j))
    ∧ (s.dev.busy = false → s.dev.since s.dev.array.idleSince ≥ 50000 →
        Runs .idleTrimApply s fun d' => s.dev.only d' [.array, .obs] ∧ ∀ j x, (s.dev.tile j).staged = some x →
          (d'.tile j).colTrim = x.1 ∧ (d'.tile j).rowTrim = x.2 ∧ (d'.tile j).staged = none ∧ (d'.tile j).obs = 0)
    ∧ (s.dev.busy = true → exec .idleTrimApply s = .next s)
    ∧ Runs .qualSummaryRefresh s (fun d' => d'.array.qualWorst.length ≤ 32 ∧ d'.array.tiles = s.dev.array.tiles
        ∧ (s.dev.readyTiles = [] → d'.array.qualSum = 0 ∧ d'.array.qualWorst = []) ∧ s.dev.only d' [.array])

/-- A permitted read answers the bytes at the remapped addresses and is counted in its class in units of 64 bytes; one whose
ECC corrected an error answers the same bytes and the correction is counted. A read of an uncorrectable block that is
fetched again completes with bytes of its length, and the loss is counted. A permitted write changes no byte outside the
remapped addresses of its range, and with no block remapped every byte of the range reads back as written. An access
outside the requester's regions or world is counted as a violation: a read of any kind answers zeros, and no byte of the
stack changes. STACK_ACCESS completes. (R227, R230, R231, R233, R234, R396, R397) -/
def Obligations.StackAccessStaysInItsRegion : Prop :=
  ∀ (s : State) (r : Requester) (addr : Nat),
    (∀ n, s.dev.mayUse r addr n = true →
      let bytes := (List.range n).map fun i => s.dev.byte (s.dev.mapAddr (addr + i))
      Runs (.stackAccess r addr (.read n)) s (fun d' => s.dev.only d' [.host, .obs] ∧ d'.host.replies = s.dev.host.replies ++ [.bytes bytes]
        ∧ d'.counter (bytesCounter r.cls) = s.dev.counter (bytesCounter r.cls) + BitVec.ofNat 64 (ceilDiv n 64))
      ∧ Runs (.stackAccess r addr (.readCorrected n)) s (fun d' => (∀ x, d'.byte x = s.dev.byte x) ∧ .bytes bytes ∈ d'.host.replies
        ∧ d'.counter DC.stackCe = s.dev.counter DC.stackCe + 1)
      ∧ ∀ wait, s.dev.comesAgain addr = true → Runs (.stackAccess r addr (.readUncorrectable n wait)) s fun d' =>
          (∃ bs : List Byte, .bytes bs ∈ d'.host.replies ∧ bs.length = n) ∧ d'.counter DC.stackUe = s.dev.counter DC.stackUe + 1)
    ∧ (∀ bs, s.dev.mayUse r addr bs.length = true → Runs (.stackAccess r addr (.write bs)) s fun d' => s.dev.only d' [.stack, .obs]
        ∧ (∀ x, (∀ i < bs.length, s.dev.mapAddr (addr + i) ≠ x) → d'.byte x = s.dev.byte x)
        ∧ (s.dev.stack.remap = [] → ∀ i (h : i < bs.length), d'.byte (addr + i) = bs[i]))
    ∧ (∀ n op, s.dev.mayUse r addr n = false → (op = .read n ∨ op = .readCorrected n ∨ ∃ w, op = .readUncorrectable n w) →
        Runs (.stackAccess r addr op) s fun d' => (∀ x, d'.byte x = s.dev.byte x)
        ∧ d'.counter DC.stackViolation = s.dev.counter DC.stackViolation + 1
        ∧ .bytes (List.replicate n 0) ∈ d'.host.replies ∧ s.dev.only d' [.host, .stack, .obs])
    ∧ (∀ bs, s.dev.mayUse r addr bs.length = false → Runs (.stackAccess r addr (.write bs)) s fun d' => (∀ x, d'.byte x = s.dev.byte x)
        ∧ d'.counter DC.stackViolation = s.dev.counter DC.stackViolation + 1 ∧ s.dev.only d' [.host, .stack, .obs])

/-- While a pseudo-channel migrates, a block of it that lies in a valid region outside the KV pool and is readable is copied
to the next free page and mapped there: the page is taken, the migration is counted, every byte of the block reads at its
new place as it did, and no byte outside the new place changes. A block that the pseudo-channel does not hold, and any
block while it does not migrate, stays where it is. PC_MIGRATION_BLOCK completes. (R232, R234, R235) -/
def Obligations.MigrationMovesABlockWithItsContent : Prop :=
  ∀ (s : State) (pc block new : Nat),
    ((s.dev.pcs pc).state = 1 → pcOf (s.dev.mapBlock block) = pc →
      (block < (s.dev.kindAt 4).1 ∨ (s.dev.kindAt 4).1 + (s.dev.kindAt 4).2 ≤ block) → (s.dev.kindOf block).isSome = true →
      s.dev.pageFrom s.dev.stack.turn = some new →
      Runs (.pcMigrationBlock pc block true) s fun d' =>
        let dst := s.dev.mapBlock ((s.dev.kindAt 4).1 + new)
        d'.mapBlock block = dst ∧ new ∈ d'.stack.pagesUsed
          ∧ (∀ i < 16384, d'.byte (16384 * dst + i) = s.dev.byte (16384 * s.dev.mapBlock block + i))
          ∧ (∀ x, x / 16384 ≠ dst → d'.byte x = s.dev.byte x)
          ∧ d'.counter DC.stackMigrated = s.dev.counter DC.stackMigrated + 1 ∧ s.dev.only d' [.stack, .obs])
    ∧ (∀ readable, (s.dev.pcs pc).state ≠ 1 ∨ pcOf (s.dev.mapBlock block) ≠ pc → exec (.pcMigrationBlock pc block readable) s = .next s)

/-- With nothing waiting, an operation that fits outside a brown-out hold and its verification sweep takes the lowest free
half that it can use, which is the model's choice (log 120): for a stand-in a half of its tile's tier, whose operand SRAM
then holds the tile's columns of the bank in force; other work's operand SRAM holds that work. One that does not fit, or
finds no half, or any in a hold or sweep, waits and no half changes. With nothing waiting, the end of a half's operation
frees the half and counts it, and at the lead an operation on logits that has a row buffer puts its sums into it. A sum of
products is never an infinity or a NaN, and a poison operand makes it poison. DAHLIA_OP_START and DAHLIA_OP_COMPLETE
complete. (R144, R145, R146, R147, R148, R149, R152, R195, R370, R371) -/
def Obligations.DahliaStartsAndEndsOperations : Prop :=
  ∀ (s : State) (op : DahliaOp), s.dev.engine.waiting = [] →
    (∀ h, s.dev.halfFits = true → s.dev.power.boHold = false → s.dev.power.sweep = false → s.dev.freeHalf op = some h →
      Runs (.dahliaOpStart op) s fun d' => SMap.get none d'.engine.halves h = some op ∧ d'.engine.waiting = []
        ∧ (∀ j, j ≠ h → SMap.get none d'.engine.halves j = SMap.get none s.dev.engine.halves j)
        ∧ ((∀ lt, op.kind ≠ .standIn lt) → s.dev.only d' [.engine] ∧ SMap.get none d'.engine.operand h = some (.work op.kind))
        ∧ (∀ lt, op.kind = .standIn lt → halfTier h = lt / 16384
            ∧ SMap.get none d'.engine.operand h = some (.tile (s.dev.bankOf (lt / 64)) lt)
            ∧ ∀ x ∈ d'.engine.standInputs, x.1 ≠ lt))
    ∧ (s.dev.halfFits = false ∨ s.dev.power.boHold = true ∨ s.dev.power.sweep = true ∨ s.dev.freeHalf op = none →
        Runs (.dahliaOpStart op) s fun d' => d'.engine = { s.dev.engine with waiting := [op] } ∧ s.dev.only d' [.engine])
    ∧ (∀ h, SMap.get none s.dev.engine.halves h = some op →
        Runs (.dahliaOpComplete h) s fun d' => SMap.get none d'.engine.halves h = none
          ∧ (∀ j, j ≠ h → SMap.get none d'.engine.halves j = SMap.get none s.dev.engine.halves j)
          ∧ d'.counter DC.dahliaOps = s.dev.counter DC.dahliaOps + 1)
    ∧ (∀ h H pos first rs, SMap.get none s.dev.engine.halves h = some { op with kind := .logits H pos first rs } → s.dev.isLead op.partition = true →
        let b := ((s.dev.commit op.partition).bank).getD 0
        let x : LogitPart := { partition := op.partition, handle := H, pos := pos, first := first,
                               values := rs.map (s.dev.dahliaSum b (s.dev.readOperands op.partition b rs).2) }
        first + rs.length ≤ 262144 → s.dev.hasBuffer x = true →
        Runs (.dahliaOpComplete h) s fun d' => x ∈ d'.engine.logits)
    ∧ (∀ b may ts w, s.dev.dahliaSum b may ts = some w → fieldNat w 30 23 ≠ 255)
    ∧ (∀ b may ts t, t ∈ ts → s.dev.dahliaValue b may t.a = none → s.dev.dahliaSum b may ts = none)

/-- When every page of the chunk, as a unit that works for the request reads it, bears the handle, the job leaves, for each of
its query heads, a chunk result that is the attention of one of its queries of that head over the chunk's positions, is
counted, and changes no byte of the stack. When a page bears another handle, no result is left, the error is counted, and
a live request is lost at its lead or reported by another member. The release of the barrier lets every waiting sequencer
of the partition go on and discards the partition's results. LUPIN_CHUNK_JOB and ATTENTION_BARRIER_RELEASE complete.
(R151, R153, R154, R155, R156, R164, R170, R230, R405) -/
def Obligations.AttentionReadsOnlyItsOwnPages : Prop :=
  ∀ (s : State) (p lane buffer chunk : Nat) (job : AttJob),
    let slot := slotOf job.handle
    let ok := ((s.dev.chunkPages slot chunk).all fun g => (s.dev.readHeader slot g).extractLsb' 16 32 == job.handle) = true
    (ok → Runs (.lupinChunkJob p job lane buffer chunk) s fun d' =>
      (∀ q ∈ job.queries, ∃ q' ∈ job.queries, q'.head = q.head ∧
        (s.dev.attendChunk false job q'.head chunk (s.dev.queryOf q' job.elems) 1 (s.dev.chunkPositions slot chunk).2).1 ∈ d'.engine.attention)
      ∧ d'.counter DC.lupinJobs = s.dev.counter DC.lupinJobs + 1 ∧ (∀ x, d'.byte x = s.dev.byte x)
      ∧ s.dev.only d' [.engine, .obs, .array, .host, .stack, .serve, .fresh])
    ∧ (¬ ok → Runs (.lupinChunkJob p job lane buffer chunk) s fun d' => d'.engine = s.dev.engine
        ∧ d'.counter DC.kvHandleErr = s.dev.counter DC.kvHandleErr + 1
        ∧ ((s.dev.req slot).state.live = true → s.dev.isLead (s.dev.req slot).partition = false →
            (d'.job (s.dev.req slot).partition).lostOut
              = (s.dev.job (s.dev.req slot).partition).lostOut ++ [handleOf slot (s.dev.req slot).gen]))
    ∧ Runs (.attentionBarrierRelease p) s (fun d' => s.dev.only d' [.array, .engine]
        ∧ (∀ a ∈ d'.engine.attention, (s.dev.req (slotOf a.handle)).partition ≠ p)
        ∧ (∀ c, c ∉ s.dev.partClusters p → d'.cluster c = s.dev.cluster c)
        ∧ ∀ c ∈ s.dev.partClusters p, (d'.cluster c).sequencer.atBarrier = false
          ∧ ((s.dev.cluster c).sequencer.atBarrier = true → (d'.cluster c).sequencer.pc = (s.dev.cluster c).sequencer.pc + 1
            ∧ (d'.cluster c).sequencer.base = s.dev.now))

/-- A piece of a row is written to every cluster that the slot tables forward its flit to, in the circuit's first slot at or
after readiness that earlier transfers and service traffic leave, with its arrival noted, and no other row changes. An
output block that one other cluster receives leaves its 32 lanes empty and is merged there from its state words. A piece
from a buffer of the base switch that holds its data is written likewise; where the buffer holds none the slot goes empty
and is counted, and no row changes. A circuit gives out each slot once. Service traffic moves nothing. A transfer of a
cluster whose first slot is missed has its flits counted, and one without a circuit does nothing. The stack and the
serving state are unchanged. MESH_TRANSFER completes. (R92, R111, R213, R214, R215, R216, R217, R239) -/
def Obligations.MeshTransferMovesRowsAndLanes : Prop :=
  ∀ (s : State) (c planned : Nat) (slots : List Nat),
    let i := s.dev.slotIndex c planned slots
    let missed := fun (d' : Dev) (n : Nat) => d'.counterC c CC.meshSlotMiss =
      s.dev.counterC c CC.meshSlotMiss + BitVec.ofNat 64 (if c < 512 ∧ s.dev.missesSlot c planned slots = true then n else 0)
    (∀ n load, slots = [] → exec (.meshTransfer c planned slots n load) s = .next s)
    ∧ (∀ n, slots ≠ [] → Runs (.meshTransfer c planned slots n (.rows [])) s fun d' => s.dev.only d' [.array, .obs] ∧ missed d' n
        ∧ (n ≠ 0 → d'.circuitNext c slots = slotCycle slots (i + n - 1) + 1)
        ∧ ∀ x, (d'.cluster x) = s.dev.cluster x)
    ∧ (∀ n, ∀ p : MeshPiece, slots ≠ [] → p.dstAt + min 64 p.len ≤ 512 → p.at_ + min 64 p.len ≤ 512 →
        Runs (.meshTransfer c planned slots n (.rows [p])) s fun d' => s.dev.only d' [.array, .obs] ∧ missed d' (n + 1)
          ∧ d'.circuitNext c slots = slotCycle slots (i + n) + 1
          ∧ (∀ x t, (x, t) ∈ s.dev.reaches c (slotCycle slots (i + n)) →
              ((d'.spadBytes x p.dstRow).drop p.dstAt).take (min 64 p.len) = ((s.dev.spadBytes c p.row).drop p.at_).take (min 64 p.len)
              ∧ ∃ u, t ≤ u ∧ (p.dstRow, u) ∈ (d'.cluster x).arrivals)
          ∧ (∀ x r, ((∀ t, (x, t) ∉ s.dev.reaches c (slotCycle slots (i + n))) ∨ r ≠ p.dstRow) →
              SMap.get (0 : BitVec 4096) (d'.cluster x).spad r = SMap.get 0 (s.dev.cluster x).spad r))
    ∧ (∀ n first x base t, slots ≠ [] → x ≠ c →
        let ws := s.dev.blockWords c first
        s.dev.reaches c (slotCycle slots (i + n + blockFlits ws - 1)) = [(x, t)] →
        Runs (.meshTransfer c planned slots n (.lanes first 1 base)) s fun d' => s.dev.only d' [.array, .obs] ∧
          ∀ k < 32, d'.accLane c (32 * first + k) = Lane.fresh
            ∧ d'.accLane x (32 * base + k) = (s.dev.accLane x (32 * base + k)).merge
                (Lane.ofWords (s.dev.accLane c (32 * first + k)).word (s.dev.accLane c (32 * first + k)).extWord))
    ∧ (∀ n kind vc, ∀ p : MeshPiece, slots ≠ [] →
        let ends := s.dev.reachesFrom (.segment (c - 512)) (4 + kind) (slotCycle slots (i + n))
        let held := fun (x : Nat) => s.dev.bufferBytes (c - 512) kind x vc p
        ((∀ e ∈ ends, held e.1 = []) → Runs (.meshTransfer c planned slots n (.buffer kind vc [p])) s fun d' => s.dev.only d' [.array, .obs]
          ∧ d'.counter DC.meshEmptySlot = s.dev.counter DC.meshEmptySlot + 1 ∧ d'.array.baseIn = s.dev.array.baseIn
          ∧ ∀ x, (d'.cluster x) = s.dev.cluster x)
        ∧ (∀ x t at_ bs, ends = [(x, t)] → held x = [(at_, bs)] → at_ + bs.length ≤ 512 →
          Runs (.meshTransfer c planned slots n (.buffer kind vc [p])) s fun d' => s.dev.only d' [.array, .obs]
            ∧ ((d'.spadBytes x p.dstRow).drop at_).take bs.length = bs
            ∧ (∃ u, t ≤ u ∧ (p.dstRow, u) ∈ (d'.cluster x).arrivals)
            ∧ (∀ y r, y ≠ x ∨ r ≠ p.dstRow → SMap.get (0 : BitVec 4096) (d'.cluster y).spad r = SMap.get 0 (s.dev.cluster y).spad r)
            ∧ d'.counter DC.meshEmptySlot = s.dev.counter DC.meshEmptySlot
            ∧ (kind ≠ 2 → { kind := kind, cluster := x, row := p.dstRow, at_ := at_, bytes := bs } ∉ d'.array.baseIn)))

/-- An action that comes before its planned time, moved by what the plan is late, is not issued. Else an operation of a
logical tile in service is issued when its tile owes nothing, is free and is admitted, and otherwise the sequencer stalls
with the code of what it waits for; so with a read of results and the end of a pair. A reception of what has been
delivered takes it and is issued; one not there stalls with code 1, or 0xA where a Dahlia operation of the job waits, and
from the base switch with code 5 for the I/O ring's data and 4 for others. An injection waits with code 7 in held mode
until its sublayer is complete, and with code 1 for a later slot of a circuit whose slot it missed; so does an output
block that a watch copies. A spilled block is merged back, an output block leaves its 32 lanes empty and every other lane
as it was, and a window write sends the message under the next transfer tag. Corrections, KV writes and row reads are
issued. A barrier waits, and at a barrier nothing is issued. SEQUENCER_ACTION completes. (R92, R93, R105, R108, R153,
R161, R212, R217, R222, R299, R302, R435) -/
def Obligations.SequencerIssuesOrStalls : Prop :=
  ∀ (s : State) (c l pl : Nat),
    let q := (s.dev.cluster c).sequencer
    let does := fun (a : SeqAction) (post : Dev → Prop) => Runs (.sequencerAction c ⟨l, pl, a⟩) s post
    let issued := fun (d' : Dev) => (d'.cluster c).sequencer.pc = q.pc + 1 ∧ (d'.cluster c).sequencer.stall = 0
    let waits := fun (d' : Dev) (code : BitVec 4) => (d'.cluster c).sequencer.pc = q.pc ∧ (d'.cluster c).sequencer.stall = code
    let leaves := fun (slots : List Nat) => slots = [] ∨ (q.slotAt = none ∧ s.dev.missesSlot c pl slots = false)
      ∨ 5 * q.slotAt.getD (slotCycle slots (s.dev.slotIndex c pl slots)) < s.dev.rst.rootCount.toNat + 8
    (q.atBarrier = true → ∀ a, exec (.sequencerAction c ⟨l, pl, a⟩) s = .next s)
    ∧ (q.atBarrier = false → s.dev.early c pl = true → ∀ a, does a fun d' => waits d' 0 ∧ (d'.cluster c).sequencer.waitsFor = some pl
        ∧ s.dev.only d' [.array, .serve, .obs])
    ∧ (q.atBarrier = false → s.dev.early c pl = false →
      (∀ t k, s.dev.physOf c t = some k → s.dev.onStandIn c t = false → does (.tileOp t) fun d' =>
        (if s.dev.tileStall k = 0 then issued d' else waits d' (s.dev.tileStall k)) ∧ ∀ j, d'.tile j = s.dev.tile j)
      ∧ (∀ t, s.dev.physOf c t = none ∨ s.dev.onStandIn c t = true → does (.tileOp t) fun d' => issued d' ∧ s.dev.only d' [.array, .serve, .obs])
      ∧ (∀ t, does (.edgeRead t) fun d' => s.dev.only d' [.array, .serve, .obs] ∧
          let st := s.dev.resultStall (64 * c + t) fun _ => true
          if st = 0 then issued d' else waits d' st)
      ∧ does .endPair (fun d' => s.dev.only d' [.array, .serve, .obs] ∧
          let st := s.dev.pairStall c l
          if st = 0 then issued d' ∧ l ∈ (d'.cluster c).sequencer.ended ∧ (q.enter l).late ≤ (d'.cluster c).sequencer.late else waits d' st)
      ∧ (∀ dst a b n, does (.correction (.residualAdd dst a b n)) fun d' => issued d' ∧ s.dev.only d' [.array, .serve, .obs]
          ∧ ∀ r, r ≠ dst / 512 → SMap.get (0 : BitVec 4096) (d'.cluster c).spad r = SMap.get 0 (s.dev.cluster c).spad r)
      ∧ (∀ rows, does (.correction (.other rows)) fun d' => issued d' ∧ s.dev.only d' [.array, .serve, .obs, .fresh]
          ∧ ∀ r, r ∉ rows → SMap.get (0 : BitVec 4096) (d'.cluster c).spad r = SMap.get 0 (s.dev.cluster c).spad r)
      ∧ (∀ src : RecvSrc,
          let keys := match src with | .mesh rows blocks => rows ++ blocks.map (512 + ·) | .base _ rows => rows
          does (.receive src) fun d' => s.dev.only d' [.array, .serve, .obs] ∧
            if (keys.all fun k => (s.dev.cluster c).arrivals.any fun e => e.1 == k && decide (5 * e.2 ≤ s.dev.rst.rootCount.toNat))
            then issued d' ∧ ∀ e ∈ (d'.cluster c).arrivals, e.1 ∉ keys
            else match src with
              | .mesh .. => waits d' (if (s.dev.clusterOwner c).any fun p => s.dev.dahliaWaits p then 0xA else 1)
              | .base kind _ => waits d' (if kind = 2 then 5 else 4))
      ∧ does .barrier (fun d' => (d'.cluster c).sequencer.atBarrier = true ∧ (d'.cluster c).sequencer.pc = q.pc ∧ s.dev.only d' [.array])
      ∧ (∀ slots out, does (.inject slots out) fun d' => s.dev.only d' [.array, .serve, .obs] ∧
          if s.dev.heldAt c && out.any (fun x => !s.dev.layerDone c x) then
            waits d' 7 ∧ (d'.cluster c).sequencer.holding = true
          else if leaves slots then issued d' else waits d' 1)
      ∧ (∀ b row fmt, does (.outputBlock b row fmt none) fun d' => issued d' ∧ s.dev.only d' [.array, .serve, .obs]
          ∧ ∀ n, d'.accLane c n = if 32 * b ≤ n ∧ n < 32 * b + 32 then Lane.fresh else s.dev.accLane c n)
      ∧ (∀ b row fmt (t : BlockTag) p, s.dev.clusterOwner c = some p → does (.outputBlock b row fmt (some t)) fun d' =>
          s.dev.only d' [.array, .serve, .obs] ∧
          if s.dev.watched p t = true → leaves t.slots then issued d' ∧ ∀ n, 32 * b ≤ n → n < 32 * b + 32 → d'.accLane c n = Lane.fresh
          else waits d' 1)
      ∧ (∀ b row half, does (.readLanes b row half) fun d' => issued d' ∧ s.dev.only d' [.array, .serve, .obs]
          ∧ ∀ n, (n < 32 * b ∨ 32 * b + 32 ≤ n) → d'.accLane c n = s.dev.accLane c n)
      ∧ (∀ pos w e o body, 1 ≤ body.length → body.length ≤ 65536 → does (.windowWrite pos w e o body) fun d' =>
          s.dev.only d' [.array, .serve, .obs, .link, .host] ∧ issued d' ∧ d'.link.nextXfer = s.dev.link.nextXfer + 1
            ∧ ∃ m, d'.host.sent = s.dev.host.sent ++ [.windowWrite pos m] ∧ m.windowId = w ∧ m.epoch = e ∧ m.offset = o ∧ m.body = body
              ∧ m.xfer = s.dev.link.nextXfer)
      ∧ (∀ h stream vs, does (.kvWrite h stream vs) fun d' => issued d' ∧ s.dev.only d' [.array, .serve, .obs])
      ∧ (∀ row ce ue, does (.spadRead row ce ue) fun d' => issued d'))

/-- When the step in progress has not started and the slot counter is at slot 0 of a frame, it is started at the present time,
every sequencer of the partition is idle from program counter 0 and measures from now, the planner's shadow entries are in
the slot tables in place of the old step circuits and gone from the shadows, no arrival and no circuit's turn of an
earlier schedule remains, and clusters of other partitions keep their tables and sequencers. Elsewhere in a frame it waits
for the next one. A started step, or none, is left as it was. STEP_SCHEDULE_START completes. (R105, R212, R214, R216) -/
def Obligations.StepScheduleStartsOnce : Prop :=
  ∀ (s : State) (p : Nat),
    (∀ st, (s.dev.job p).step = some st → st.started = false →
      (s.dev.rst.rootCount.toNat % 20480 = 0 → (s.dev.partClusters p).Nodup → Runs (.stepScheduleStart p) s fun d' =>
        (∃ y, (d'.job p).step = some y ∧ y.started = true ∧ y.startedAt = s.dev.now ∧ y.desc = st.desc ∧ y.marked = st.marked)
        ∧ (∀ c ∈ s.dev.partClusters p, (d'.cluster c).sequencer = { Seq.idle with base := s.dev.now } ∧ (d'.cluster c).shadow = [] ∧ (d'.cluster c).arrivals = []
          ∧ (d'.cluster c).slots = (s.dev.cluster c).shadow.foldl (fun m e => SMap.put 0 m e.1 e.2)
              (SMap.keep (fun x => !serviceSlot x) (s.dev.cluster c).slots))
        ∧ (∀ e ∈ d'.array.circuits, e.1 ∉ s.dev.partClusters p)
        ∧ (∀ c, c ∉ s.dev.partClusters p → (d'.cluster c).slots = (s.dev.cluster c).slots ∧ (d'.cluster c).shadow = (s.dev.cluster c).shadow
          ∧ (d'.cluster c).sequencer = (s.dev.cluster c).sequencer) ∧ (∀ x, d'.byte x = s.dev.byte x))
      ∧ (s.dev.rst.rootCount.toNat % 20480 ≠ 0 → Runs (.stepScheduleStart p) s fun d' => s.dev.only d' [.serve]
          ∧ ∃ y, (d'.job p).step = some y ∧ y = { st with due := true }))
    ∧ (((s.dev.job p).step = none ∨ ∃ st, (s.dev.job p).step = some st ∧ st.started = true) →
        exec (.stepScheduleStart p) s = .next s)

/-- While a load reads a chunk from the host: a missing read, one 500 ms old, one under another IV or a damaged one below
three tries is counted, and the chunk is asked of the host again; a younger read does not time out. After three, a chunk
with a matching peer replica is asked of the -X neighbour; without one the inactive bank is invalid and the load ends. A
good chunk whose contents are acceptable is counted, kept in its place and no longer wanted. With the last one, a bank
consistent as a whole whose handle tables fit holds what was loaded and is valid under the load's version, the active bank
unchanged; a spare that recovers its position's shard begins to program it. A content that R324 refuses, and a bank that
is not consistent, make the bank invalid and are counted. That the bank is laid at the end is the model's choice (log
172). CHUNK_READ_COMPLETE and CHUNK_READ_TIMEOUT complete. (R308, R315, R318, R319, R322, R323, R324, R325, R328) -/
def Obligations.ShardChunksFillOrSpoilTheBank : Prop :=
  ∀ (s : State) (p n : Nat) (l : ShardLoad) (c : ChunkLeft), s.dev.load p = some l → l.only = none →
    l.chunks.find? (fun c => c.n == n && c.reading && !c.peer) = some c → l.bank = (s.dev.commit p).inactive →
    let b := l.bank
    let spoilt := fun (d' : Dev) => d'.load p = none ∧ (d'.commit p).state b = 3 ∧ (d'.commit p).active = (s.dev.commit p).active
    let left := fun (peer : Bool) (bad : Bool) => l.chunks.map fun x =>
      if x.n = n then { x with tries := x.tries + 1, bad := bad, issuedAt := s.dev.now, peer := peer } else x
    let again := fun (d' : Dev) => s.dev.only d' [.stack, .obs, .host] ∧ d'.counter DC.shardRefetch = s.dev.counter DC.shardRefetch + 1
      ∧ d'.host.sent = s.dev.host.sent ++ [.hostRead p c.addr c.length] ∧ ∃ bad, d'.load p = some { l with chunks := left false bad }
    let asked := fun (d' : Dev) => s.dev.only d' [.stack, .host] ∧ d'.host.sent = s.dev.host.sent ++ [.bulk (.replicaRead p n)]
      ∧ ∃ bad, d'.load p = some { l with chunks := left true bad }
    let bad := fun (a : ChunkArrival) => a = .missing ∨ a = .badTag ∨ a = .badDigest
      ∨ ∃ iv xs, a = .good iv xs ∧ iv ≠ chunkIv l.version l.member n
    let fails := fun (post : Dev → Prop) => (500000000 ≤ s.dev.since c.issuedAt → Runs (.chunkReadTimeout p n) s post)
      ∧ ∀ a, bad a → Runs (.chunkReadComplete p n a) s post
    (c.tries < 3 → fails again)
    ∧ (3 ≤ c.tries → s.dev.replicaMatches p l = true → fails asked)
    ∧ (3 ≤ c.tries → s.dev.replicaMatches p l = false → fails spoilt)
    ∧ ((∀ x ∈ l.chunks, x.n = n → s.dev.since x.issuedAt < 500000000) → exec (.chunkReadTimeout p n) s = .next s)
    ∧ (∀ contents : List ChunkContent,
      let good := Instr.chunkReadComplete p n (.good (chunkIv l.version l.member n) contents)
      let mine := contents.filter fun x => partOf x == c.part
      let rest := l.chunks.filter fun c => c.n != n
      let got := insertChunk { n := n, part := c.part, length := if c.part = 0 then 0 else c.length, contents := mine } l.got
      let whole : ShardLoad := { l with chunks := [], got := got }
      let fits := s.dev.bankConsistent p whole.info (tilePart (got.flatMap FormChunk.contents))
      ((∀ x ∈ mine, contentStatus x = 0) →
        (rest ≠ [] → Runs good s fun d' => (∃ y, d'.load p = some y ∧ y.chunks.map ChunkLeft.n = rest.map ChunkLeft.n ∧ y.got = got)
          ∧ d'.counter DC.shardChunkOk = s.dev.counter DC.shardChunkOk + 1 ∧ d'.commit p = s.dev.commit p)
        ∧ (rest = [] → fits = true → whole.info.handlesFit = true →
            Runs good s fun d' => d'.load p = none ∧ (d'.commit p).state b = 2 ∧ d'.bank p b = whole.info
            ∧ (d'.commit p).ver b = l.version ∧ (d'.commit p).dig b = l.digest ∧ (d'.commit p).active = (s.dev.commit p).active
            ∧ (l.recovery = true → s.dev.committing p = none → (s.dev.commit p).bank = none →
                d'.committing p = some (BitVec.ofNat 2 (b + 1))))
        ∧ (rest = [] → fits = false → Runs good s fun d' => spoilt d' ∧ d'.counter DC.shardMalformed = s.dev.counter DC.shardMalformed + 1))
      ∧ (∀ x xs, mine = x :: xs → contentStatus x = St.shardCorrupt → Runs good s fun d' =>
          spoilt d' ∧ d'.counter DC.shardMalformed = s.dev.counter DC.shardMalformed + 1))

/-- With every tile of the new bank served, its copies whole and every digest good, the commit makes that bank active, raises
SEQ by 1, records its digest, ends the commit and is counted; while a tile is not served nothing changes. With a digest
bad, that bank is invalid, the active bank and its digest are unchanged, and the failures are counted. In all, no byte of
the stack outside the entry's own copy and the contexts' places and no other partition's commit record changes. After a
reset good digests are noted; with one bad, its clusters are asked of a matching peer replica, and without one the bank is
invalid, none is active, no load is left and the host hears of it. A received replica copy is valid under its version, is
reported to its owner and is counted. MEMBER_COMMIT and REPLICA_COPY_COMPLETE complete. (R308, R327, R328, R329, R330,
R332, R440) -/
def Obligations.CommitSwitchesTheBankWhole : Prop :=
  ∀ (s : State) (p : Nat) (bb : BitVec 2), (bb = 1 ∨ bb = 2) →
    let b := bb.toNat - 1
    let outside := fun (d' : Dev) => (∀ x, (∀ i < 64, s.dev.mapAddr (s.dev.commitCopy p + i) ≠ x) →
        (∀ key, ∀ i < 32, s.dev.mapAddr (s.dev.ctxAt key + i) ≠ x) → d'.byte x = s.dev.byte x)
      ∧ ∀ q, q ≠ p → d'.commit q = s.dev.commit q
    let c := s.dev.commit p
    let a := (c.bank).getD 0
    (s.dev.committing p = some bb → s.dev.tilesServe p b = true → (s.dev.bank p b).copyBad = false → Runs (.memberCommit p []) s fun d' =>
      (d'.commit p).active = bb ∧ (d'.commit p).seq = c.seq + 1 ∧ (d'.commit p).digest = c.dig b
        ∧ d'.committing p = none ∧ outside d' ∧ d'.counter DC.shardCommit = s.dev.counter DC.shardCommit + 1)
    ∧ (s.dev.committing p = some bb → s.dev.tilesServe p b = false → (s.dev.bank p b).copyBad = false → exec (.memberCommit p []) s = .next s)
    ∧ (∀ f fs, s.dev.committing p = some bb → Runs (.memberCommit p (f :: fs)) s fun d' =>
        (d'.commit p).state b = 3 ∧ (d'.commit p).active = c.active
          ∧ (d'.commit p).digest = c.digest ∧ d'.committing p = none ∧ outside d'
          ∧ d'.counter DC.shardDigestFail = s.dev.counter DC.shardDigestFail + BitVec.ofNat 64 (fs.length + 1))
    ∧ (s.dev.committing p = none → (s.dev.job p).rebuilding = true → s.dev.load p = none →
        ((s.dev.bank p a).copyBad = false → Runs (.memberCommit p []) s fun d' => s.dev.only d' [.serve] ∧ (d'.job p).digestOk = true)
        ∧ (∀ f fs, (s.dev.replica p).peer = some (c.version, c.digest) → Runs (.memberCommit p (f :: fs)) s fun d' =>
            (∃ l, d'.load p = some l ∧ l.only = some (f :: fs) ∧ l.bank = a ∧ l.chunks.map ChunkLeft.n = (s.dev.bank p a).form.map FormChunk.n)
            ∧ d'.commit p = c ∧ s.dev.only d' [.stack, .host, .obs])
        ∧ (∀ f fs, (s.dev.replica p).peer ≠ some (c.version, c.digest) → c.bank = some a → Runs (.memberCommit p (f :: fs)) s fun d' =>
            (d'.commit p).active = 0 ∧ (d'.commit p).state a = 3 ∧ (d'.job p).rebuilding = false
            ∧ .shardUnrecoverable p ∈ d'.host.events ∧ ∀ q, q ≠ p → d'.commit q = s.dev.commit q))
    ∧ (∀ v dig, Runs (.replicaCopyComplete p v dig) s fun d' =>
        d'.replica p = { s.dev.replica p with heldValid := true, heldVersion := v, heldDigest := dig }
          ∧ (∀ q, q ≠ p → d'.replica q = s.dev.replica q) ∧ d'.host.sent = s.dev.host.sent ++ [.bulk (.replicaHeld p v dig)]
          ∧ d'.counter DC.replicaCopy = s.dev.counter DC.replicaCopy + 1 ∧ s.dev.only d' [.stack, .host, .obs])

/-- In PROVISIONED or DEPLOYED with owner slot 0 holding keys, a pack of at most 64 MiB with good signatures, format 1 and a
pack ID above the stored one is stored, its ID kept, and its run begins; any other is not. Away from the primary the
package answers either way; how is the model's choice (log 51). GO on the primary, while STATE is not 1, ends in state 3
for an unreadable pack; else the pack is flooded, this package is counted, and STATE is 1 until every other package has
answered, the last answer making it 2; elsewhere it changes nothing. A due rerun begins a run. An entry that is owed and
has an admitted idle window on its tile runs, is counted, and changes no lane and no byte of the stack.
CROCUS_PACK_RECEIVE, CROCUS_GO, CROCUS_RERUN and CROCUS_ENTRY_RUN complete. (R284, R347, R348, R349, R350, R351, R411,
R413) -/
def Obligations.CrocusPacksAreTakenInOrder : Prop :=
  ∀ s : State,
    (∀ x : CrocusPack,
      let good := x.sigsOk = true ∧ s.dev.takesShards 0 = true ∧ x.format = 0x0001 ∧ s.dev.ledger.packId.toNat < x.packId.toNat ∧ x.size ≤ 67108864
      (good → Runs (.crocusPackReceive ⟨3, x⟩) s fun d' => d'.ledger.pack = some x ∧ d'.ledger.packId = x.packId
        ∧ d'.ledger.packRunAt = s.dev.ltime ∧ (∀ i ∈ d'.ledger.crocusTodo, i < x.entries.length) ∧ s.dev.only d' [.ledger, .obs, .stack, .host]
        ∧ (s.dev.sys.primary = false → d'.host.sent = s.dev.host.sent ++ [.hostWrite (.packTaken s.dev.glob.node true)]))
      ∧ (¬ good → Runs (.crocusPackReceive ⟨3, x⟩) s fun d' => d'.ledger.pack = s.dev.ledger.pack ∧ d'.ledger.packId = s.dev.ledger.packId
        ∧ d'.ledger.crocusTodo = s.dev.ledger.crocusTodo ∧ s.dev.only d' [.ledger, .host]
        ∧ (s.dev.sys.primary = false → d'.ledger = s.dev.ledger
            ∧ d'.host.sent = s.dev.host.sent ++ [.hostWrite (.packTaken s.dev.glob.node false)])))
    ∧ (∀ a len, s.dev.sys.primary = true → s.dev.ledger.crocusState ≠ 1 →
        Runs (.crocusGo a len none) s (fun d' => d'.ledger.crocusState = 3 ∧ d'.ledger.pack = s.dev.ledger.pack)
        ∧ ∀ x, Runs (.crocusGo a len (some x)) s fun d' => .crocus x ∈ d'.host.sent ∧ d'.ledger.crocusAsked = s.dev.packages
            ∧ d'.ledger.crocusState = (if s.dev.packages = [] then 2 else 1) ∧ d'.ledger.crocusAccepted + d'.ledger.crocusRefused = 1)
    ∧ (∀ a len x, s.dev.sys.primary = false ∨ s.dev.ledger.crocusState = 1 → exec (.crocusGo a len x) s = .next s)
    ∧ (∀ node ok, s.dev.sys.primary = true → s.dev.ledger.crocusState = 1 → s.dev.ledger.crocusAsked = [node] →
        Runs (.hostWriteReceive 2 (.packTaken node ok)) s fun d' => d'.ledger.crocusState = 2 ∧ d'.ledger.crocusAsked = []
          ∧ d'.ledger.crocusAccepted = s.dev.ledger.crocusAccepted + (if ok then 1 else 0)
          ∧ d'.ledger.crocusRefused = s.dev.ledger.crocusRefused + (if ok then 0 else 1) ∧ s.dev.only d' [.ledger])
    ∧ (∀ x : CrocusPack, s.dev.ledger.pack = some x → x.rerun ≠ 0 → s.dev.ltime - s.dev.ledger.packRunAt ≥ 60 * x.rerun.toNat →
        Runs .crocusRerun s fun d' => d'.ledger.packRunAt = s.dev.ltime ∧ d'.ledger.crocusFails = [] ∧ d'.ledger.pack = some x
          ∧ s.dev.only d' [.ledger, .obs])
    ∧ (∀ (x : CrocusPack) idx e k cH cL, s.dev.ledger.pack = some x → x.entries[idx]? = some e →
        s.dev.physOf (crocusCluster e) (crocusLtile e) = some k → s.dev.ledger.crocusTodo.contains idx = true →
        s.dev.crocusWindow k = true → s.dev.admits k 1 2 = true →
        Runs (.crocusEntryRun idx cH cL) s fun d' => d'.counter DC.crocusRun = s.dev.counter DC.crocusRun + 1
          ∧ (∀ c, (d'.cluster c).lanes = (s.dev.cluster c).lanes) ∧ (∀ x, d'.byte x = s.dev.byte x) ∧ d'.sec = s.dev.sec)

/-- On a ready primary, VALID of a partition that is not VALID is set when every check passes: the set-up reads back, is
pushed, and with no step in progress is in force at once. A failing check changes no set-up and gives its partition and
code in PART_STATUS, counted. VALID is not cleared while the partition's job is VALID, with code 7; otherwise clearing it
takes the set-up out of force. A received set-up that is VALID waits while a step is in progress and is in force at once
otherwise; one that is not takes the partition out of force. PART_SET_VALID, PART_CLEAR_VALID and PART_SETUP_RECEIVE
complete. (R66, R284, R399, R400, R401, R402, R403, R426) -/
def Obligations.PartitionSetUpsAreCheckedAndPushed : Prop :=
  ∀ (s : State) (n : Nat) (w : U64), n < 64 → s.dev.sys.primary = true → s.dev.rst.phase = .ready →
    let e := s.dev.partAcc n
    let cfg := cfgOf e.cfg w ||| 0x8000000000000000
    (e.cfg.getLsbD 63 = false → s.dev.partError n { e with cfg := cfg } = 0 → Runs (.partSetValid n w) s fun d' =>
      d'.partAcc n = { e with cfg := cfg } ∧ (∀ q, q ≠ n → d'.partAcc q = s.dev.partAcc q)
        ∧ .partSetup { partition := n, cfg := cfg, quota := e.quota, clusters := e.clusters } ∈ d'.host.sent
        ∧ (s.dev.busy = false → d'.partIn n = { e with cfg := cfg })
        ∧ (s.dev.busy = true → d'.partIn n = s.dev.partIn n) ∧ d'.stack = s.dev.stack)
    ∧ (e.cfg.getLsbD 63 = false → s.dev.partError n { e with cfg := cfg } ≠ 0 → Runs (.partSetValid n w) s fun d' =>
        d'.part = { s.dev.part with err := true, errPart := n, errCode := s.dev.partError n { e with cfg := cfg } }
          ∧ d'.counter DC.partRefused = s.dev.counter DC.partRefused + 1 ∧ s.dev.only d' [.part, .obs])
    ∧ ((s.dev.jobSetup n).valid = true → Runs (.partClearValid n) s fun d' =>
        d'.part = { s.dev.part with err := true, errPart := n, errCode := 7 } ∧ s.dev.only d' [.part, .obs])
    ∧ ((s.dev.jobSetup n).valid = false → e.cfg.getLsbD 63 = true → Runs (.partClearValid n) s fun d' =>
        (d'.partAcc n).cfg.getLsbD 63 = false ∧ d'.partValid n = false
          ∧ (s.dev.part.staged = [] → ∀ q, q ≠ n → d'.partIn q = s.dev.partIn q))
    ∧ (∀ x : PartSetup, x.cfg.getLsbD 63 = true → Runs (.partSetupReceive ⟨3, x⟩) s fun d' => d'.stack = s.dev.stack ∧
        if s.dev.busy then d'.part.staged = s.dev.part.staged ++ [x] ∧ d'.partIn x.partition = s.dev.partIn x.partition
        else d'.partIn x.partition = { cfg := x.cfg, quota := x.quota, clusters := x.clusters })
    ∧ (∀ x : PartSetup, x.cfg.getLsbD 63 = false → Runs (.partSetupReceive ⟨3, x⟩) s fun d' => d'.partValid x.partition = false)

/-- On a ready package a request that keeps R229 and whose old and new descriptors may change sets the descriptor, with SECURE
as it was, when no step is in progress and none is pending; with a step in progress it is pending and no descriptor
changes. A request while one is pending, or one that breaks R229, changes no descriptor and sets the error bit.
STACK_REGION_REQ_SUBMIT completes. (R229, R399, R406, R451) -/
def Obligations.RegionRequestsWaitForTheBoundary : Prop :=
  ∀ (s : State) (i : BitVec 7) (desc : U64), s.dev.rst.phase = .ready →
    let new := (desc &&& 0xBFF83FFFFFFFFFFF) ||| (s.dev.region i.toNat &&& 0x4000000000000000)
    let ok := (s.dev.regionOk i.toNat new && s.dev.regionFree (s.dev.region i.toNat) && s.dev.regionFree new) = true
    (s.dev.stack.request = none → s.dev.busy = false → ok → Runs (.stackRegionReqSubmit i desc) s fun d' =>
      d'.region i.toNat = new ∧ rgSecure (d'.region i.toNat) = rgSecure (s.dev.region i.toNat)
        ∧ (∀ j, j ≠ i.toNat → d'.region j = s.dev.region j) ∧ d'.stack.descErr = s.dev.stack.descErr
        ∧ (rgKind new ≠ 9 → (∀ x, d'.byte x = s.dev.byte x) ∧ s.dev.only d' [.stack, .glob]) ∧ s.dev.only d' [.stack, .glob, .obs])
    ∧ (s.dev.stack.request = none → s.dev.busy = false → ¬ ok → Runs (.stackRegionReqSubmit i desc) s fun d' =>
        (∀ j, d'.region j = s.dev.region j) ∧ d'.stack.descErr = true ∧ (∀ x, d'.byte x = s.dev.byte x) ∧ s.dev.only d' [.stack, .glob])
    ∧ (s.dev.stack.request = none → s.dev.busy = true → Runs (.stackRegionReqSubmit i desc) s fun d' =>
        d'.stack = { s.dev.stack with request := some (i.toNat, desc) } ∧ s.dev.only d' [.stack, .glob])
    ∧ (s.dev.stack.request ≠ none → Runs (.stackRegionReqSubmit i desc) s fun d' =>
        d'.stack = { s.dev.stack with descErr := true } ∧ s.dev.only d' [.stack, .glob])

/-- At the lead, the first row of its steps in flight that needs a token and has none, whose logits are all in the row buffer,
leaves one result, counted: with a poison logit no token, and else the token and log-probability that the profile in
force, the seed and the position give. Its row buffer is free, and nothing but the job, the row buffers and the counters
changes. Any other row leaves nothing. FOXGLOVE_ROW completes. (R27, R195, R197, R198, R201, R202) -/
def Obligations.FoxgloveDrawsOnceForEachSampledRow : Prop :=
  ∀ (s : State) (p : Nat) (h : U32) (pos : BitVec 20),
    let r := s.dev.req (slotOf h)
    let lo := s.dev.regIn (Off.foxProfile p r.profile.toNat)
    let hi := s.dev.regIn (Off.foxProfile p r.profile.toNat + 4)
    let next := (s.dev.job p).undrawn.head? = some (h, pos)
    (∀ logits, s.dev.logitsOf p h pos = some logits → s.dev.isLead p = true → next →
      Runs (.foxgloveRow p h pos) s fun d' => s.dev.only d' [.serve, .obs, .engine] ∧ d'.logitsOf p h pos = none ∧ d'.serve.table = s.dev.serve.table ∧
        ∃ f : FoxResult, d'.job p = { s.dev.job p with fox := (s.dev.job p).fox ++ [f] } ∧ f.handle = h ∧ f.pos = pos ∧ f.drawnAt = s.dev.now
          ∧ (f.poison = true ↔ none ∈ logits)
          ∧ (none ∉ logits →
              let x := foxPick (foxTemp (lo.extractLsb' 0 16)) (foxTopP (lo.extractLsb' 16 16)) (foxTopK (fieldNat hi 10 0)) r.seed pos.toNat
                (logits.map fun w => f32Value (w.getD 0))
              f.token = BitVec.ofNat 18 x.1 ∧ f.logp = logpCode x.2)
          ∧ d'.counter DC.foxRows = s.dev.counter DC.foxRows + (if none ∈ logits then 0 else 1)
          ∧ d'.counter DC.foxPoison = s.dev.counter DC.foxPoison + (if none ∈ logits then 1 else 0))
    ∧ ((s.dev.isLead p = false ∨ ¬ next ∨ s.dev.logitsOf p h pos = none) → exec (.foxgloveRow p h pos) s = .next s)

/-- The command of the host that a command row carries to the unit that applies it. -/
def Sys2Proof.Machine.hostCmd : Instr → Option FwdCmd
  | .submitRequest o f => some ⟨o, .submit f⟩
  | .setDeadline o h t v now => some ⟨o, .setDeadline h t v now⟩
  | .cancel o h => some ⟨o, .cancel h⟩
  | .graftLoad o id ps => some ⟨o, .graftLoad id ps⟩
  | .graftRetire o id => some ⟨o, .graftRetire id⟩
  | .windowOpen o id b n => some ⟨o, .windowOpen id b n⟩
  | .windowClose o id => some ⟨o, .windowClose id⟩
  | .runOperator o x => some ⟨o, .runOperator x⟩
  | .loadShard o t => some ⟨o, .loadShard t⟩
  | .commitShard o t v => some ⟨o, .commitShard t v⟩
  | .watchTensor o w => some ⟨o, .watch w⟩
  | .calibrate o => some ⟨o, .calibrate⟩
  | .query o k h id b n => some ⟨o, .query k h id b n⟩
  | .commandReceive vc c => if vc = 2 then some c else none
  | _ => none

/-- The completion of a host command, as a member that is not the primary sends it. -/
def Sys2Proof.Machine.completionSent (o : Origin) (opcode status : Byte) (result : U32) : OutMsg :=
  .hostWrite (.completion o.queue (completionWord false o.queue result 0 0 0 opcode status o.sqHead 0 o.tag))

/-- At a serving lead, SUBMIT_REQUEST, SET_DEADLINE, CANCEL, GRAFT_RETIRE, COMMIT_SHARD, RUN_OPERATOR, WATCH_TENSOR by symbol
and QUERY of kind 1, each direct or forwarded in a COMMAND on VC2, join the end of the commands that wait for the boundary
with the time of arrival, and nothing else changes; so does every other command of a queue of which one waits. Elsewhere
they are discarded. A package that is fenced or not ready discards every host command. A QUERY of kind 2 at the lead, 3 or
4, none of its queue waiting there, writes its bytes and completes, or completes with FIELD_INVALID where the buffer is
short. A COMMAND on another channel is counted and discarded. SUBMIT_REQUEST, SET_DEADLINE, CANCEL, GRAFT_RETIRE,
COMMIT_SHARD, RUN_OPERATOR, WATCH_TENSOR, QUERY and COMMAND_RECEIVE complete. (R165, R180, R189, R192, R193, R194, R205,
R207, R260, R264, R284, R311) -/
def Obligations.HostCommandsWaitForTheLeadsBoundary : Prop :=
  (∀ (s : State) (o : Origin), s.dev.serving = true → s.dev.isLead o.partition = true →
    let p := o.partition
    let joined := fun (body : FwdBody) (d' : Dev) => d'.job p = { s.dev.job p with cmds := (s.dev.job p).cmds ++ [(⟨o, body⟩, s.dev.us)] }
      ∧ (∀ q, q ≠ p → d'.job q = s.dev.job q) ∧ d'.serve.table = s.dev.serve.table ∧ s.dev.only d' [.serve]
    let both := fun (i : Instr) (body : FwdBody) => Runs i s (joined body) ∧ Runs (.commandReceive 2 ⟨o, body⟩) s (joined body)
    (∀ f, both (.submitRequest o f) (.submit f))
    ∧ (∀ h t v now, both (.setDeadline o h t v now) (.setDeadline h t v now))
    ∧ (∀ h, both (.cancel o h) (.cancel h))
    ∧ (∀ id, both (.graftRetire o id) (.graftRetire id))
    ∧ (∀ t v, both (.commitShard o t v) (.commitShard t v))
    ∧ (∀ sp, both (.runOperator o sp) (.runOperator sp))
    ∧ (∀ w : WatchSpec, w.byAddress = false → both (.watchTensor o w) (.watch w))
    ∧ (∀ h id b n, both (.query o 1 h id b n) (.query 1 h id b n))
    ∧ (∀ body, (∀ h, body ≠ .lost h) → (∃ x ∈ (s.dev.job p).cmds, x.1.origin.queue = o.queue) →
        Runs (.commandReceive 2 ⟨o, body⟩) s (joined body) ∧ ∀ i, hostCmd i = some ⟨o, body⟩ → Runs i s (joined body)))
  ∧ (∀ (s : State) (i : Instr) (c : FwdCmd), hostCmd i = some c → FwdBody.waits c.body = true → s.dev.isLead c.origin.partition = false →
      exec i s = .next s)
  ∧ (∀ (s : State) (o : Origin) kind h id buf len, s.dev.serving = true → s.dev.sys.primary = false →
      ((kind = 2 ∧ s.dev.isLead o.partition = true) ∨ kind = 3 ∨ kind = 4) → (∀ x ∈ (s.dev.job o.partition).cmds, x.1.origin.queue ≠ o.queue) →
      let bs := if kind = 2 then s.dev.graftVersions id else if kind = 3 then s.dev.jobMembers o.partition else capBytes
      Runs (.query o kind h id buf len) s fun d' => s.dev.only d' [.host] ∧ d'.host.writes = s.dev.host.writes
        ∧ d'.host.sent = s.dev.host.sent ++ (if len < bs.length then [completionSent o 0x70 St.fieldInvalid 0]
          else [.hostWrite (.buffer o.queue buf bs), completionSent o 0x70 St.success (BitVec.ofNat 32 bs.length)]))
  ∧ (∀ (s : State) (i : Instr) (c : FwdCmd), hostCmd i = some c → s.dev.serving = false → exec i s = .next s)
  ∧ ∀ (s : State) (vc : BitVec 2) (c : FwdCmd), vc ≠ 2 →
      Runs (.commandReceive vc c) s fun d' => d' = s.dev.count DC.msgDiscard

/-- On a serving package other than the primary, no command of the same queue waiting there for a boundary: WINDOW_OPEN of a
closed window inside a workspace opens it with its present epoch as RESULT, and of an open one completes WINDOW_BUSY;
WINDOW_CLOSE closes it with the epoch raised by 1. GRAFT_LOAD at the lead keeps the next version pending and changes
neither the current nor the live versions, and is refused with GRAFT_VERSION_BUSY while that version is live or pending.
LOAD_SHARD of a manifest that fits the member puts its inactive bank in the loading state with every chunk wanted; one
whose manifest could not be read in four tries makes it invalid. CALIBRATE sets every READY tile of the partition that has
no calibration or staged set calibrating and no other tile. An address watch is armed in the lowest free index, and fires
at once when no step is in progress. WINDOW_OPEN, WINDOW_CLOSE, GRAFT_LOAD, LOAD_SHARD, CALIBRATE and WATCH_TENSOR
complete. (R134, R203, R204, R259, R260, R264, R299, R301, R316, R318, R325, R438) -/
def Obligations.StagedHostCommandsActAtTheirUnit : Prop :=
  ∀ (s : State) (o : Origin), s.dev.serving = true → s.dev.sys.primary = false →
    (∀ x ∈ (s.dev.job o.partition).cmds, x.1.origin.queue ≠ o.queue) →
    let p := o.partition
    (∀ (id : BitVec 12) (base : BitVec 23) (n : Nat), 1 ≤ n → n ≤ 65536 → s.dev.workspaceHolds p base.toNat n = true →
      let w := s.dev.window id.toNat
      (w.isOpen = false → Runs (.windowOpen o id base n) s fun d' => s.dev.only d' [.link, .host]
        ∧ d'.window id.toNat = { isOpen := true, partition := p, base := base, blocks := n, epoch := w.epoch }
        ∧ (∀ j, j ≠ id.toNat → d'.window j = s.dev.window j)
        ∧ d'.host.sent = s.dev.host.sent ++ [completionSent o 0x20 St.success (w.epoch.setWidth 32)])
      ∧ (w.isOpen = true → Runs (.windowOpen o id base n) s fun d' => s.dev.only d' [.host]
          ∧ d'.host.sent = s.dev.host.sent ++ [completionSent o 0x20 St.windowBusy 0]))
    ∧ (∀ id : BitVec 12, (s.dev.window id.toNat).isOpen = true → (s.dev.window id.toNat).partition = p →
        let w := s.dev.window id.toNat
        Runs (.windowClose o id) s fun d' => s.dev.only d' [.link, .host]
          ∧ d'.window id.toNat = { w with isOpen := false, epoch := w.epoch + 1 }
          ∧ (∀ j, j ≠ id.toNat → d'.window j = s.dev.window j)
          ∧ d'.host.sent = s.dev.host.sent ++ [completionSent o 0x21 St.success ((w.epoch + 1).setWidth 32)])
    ∧ (∀ (id : BitVec 12) (parts : List GraftPart), s.dev.isLead p = true →
        (∀ m ∈ s.dev.members p, (parts.filter fun x => x.position == m).length = 1) →
        let g := s.dev.graft id.toNat
        ((g.live.any (fun v => v.ver == g.next) || g.pending.any (fun x => x.ver == g.next)) = true →
          Runs (.graftLoad o id parts) s fun d' => s.dev.only d' [.host, .obs]
          ∧ d'.host.sent = s.dev.host.sent ++ [completionSent o 0x10 St.graftVersionBusy 0]
          ∧ d'.counter DC.graftBusy = s.dev.counter DC.graftBusy + 1)
        ∧ (∀ mine, (∀ v ∈ g.live, v.ver ≠ g.next) → (∀ x ∈ g.pending, x.ver ≠ g.next) →
            parts.find? (fun x => x.position == s.dev.sys.position) = some mine → s.dev.partStatusOf p mine = 0 →
            Runs (.graftLoad o id parts) s fun d' => s.dev.only d' [.serve, .host]
              ∧ (d'.graft id.toNat).current = g.current ∧ (d'.graft id.toNat).live = g.live
              ∧ (∀ j, j ≠ id.toNat → d'.graft j = s.dev.graft j) ∧ ∃ x, (d'.graft id.toNat).pending = g.pending ++ [x]
              ∧ x.ver = g.next ∧ x.blocks = mine.blocks ∧ x.waiting = (s.dev.members p).filter (· != s.dev.sys.position)))
    ∧ (∀ table m e, s.dev.isMember p = true → s.dev.tableComplete p table = true → s.dev.memberIndex p = some m →
        table.find? (fun e => e.member == m) = some e → (s.dev.job p).loading = none → (s.dev.job p).drain = none →
        s.dev.load p = none → s.dev.committing p = none →
        let b := (s.dev.commit p).inactive
        (∀ x : Manifest, e.manifest = some x → s.dev.manifestOk p e.member x = true → x.shaped e.manLen.toNat = true →
          bytesOfPart x.chunks 3 ≤ 520093696 → ((s.dev.commit p).bank = none ∨ (s.dev.commit p).version ≠ x.version) →
          Runs (.loadShard o table) s fun d' => s.dev.only d' [.serve, .stack, .host, .obs] ∧ (d'.commit p).state b = 1
            ∧ (d'.commit p).active = (s.dev.commit p).active ∧ (∀ q, q ≠ p → d'.commit q = s.dev.commit q)
            ∧ ∃ l, d'.load p = some l ∧ l.version = x.version ∧ l.digest = x.digest ∧ l.recovery = false
              ∧ l.bank = b ∧ l.chunks.map ChunkLeft.n = List.range x.chunks.length ∧ ∀ c ∈ l.chunks, c.tries = 0)
        ∧ (e.manifest = none → Runs (.loadShard o table) s fun d' => (d'.commit p).state b = 3
            ∧ (d'.host.sent.filter fun m => decide (m = .hostRead p e.manAddr e.manLen.toNat)).length
              ≥ (s.dev.host.sent.filter fun m => decide (m = .hostRead p e.manAddr e.manLen.toNat)).length + 4
            ∧ (d'.commit p).active = (s.dev.commit p).active ∧ d'.load p = none))
    ∧ (s.dev.isMember p = true → Runs (.calibrate o) s fun d' => s.dev.only d' [.array, .serve, .host, .obs]
        ∧ (∀ k ∈ s.dev.partTiles p, (s.dev.tile k).state = .ready → s.dev.calReady k = true → (d'.tile k).calibrating = true)
        ∧ (∀ k, k ∉ s.dev.partTiles p → d'.tile k = s.dev.tile k)
        ∧ d'.counter DC.calTrigHost = s.dev.counter DC.calTrigHost + 1)
    ∧ (∀ w : WatchSpec, w.byAddress = true → w.addr.position = s.dev.sys.position → 64 ≤ w.bufLen →
        (w.filter = false ∨ w.hasRows = true) →
        (∀ i, s.dev.freeWatch p = some i → Runs (.watchTensor o w) s fun d' => s.dev.only d' [.obs]
          ∧ ∃ x, d'.watch p i = some x ∧ x.origin = o ∧ x.spec = w ∧ x.fired = !s.dev.busy)
        ∧ (s.dev.freeWatch p = none → Runs (.watchTensor o w) s fun d' => s.dev.only d' [.host]
            ∧ d'.host.sent = s.dev.host.sent ++ [completionSent o 0x50 St.watchFull 0]))

/-- At a serving lead with no step in progress the boundary leaves no command waiting and does not touch the reset, power,
partition, ledger and security blocks. With no step in flight, no replay and no tags, a CANCEL that waits alone for a
QUEUED request ends it CANCELLED, and with no command a terminal entry whose hold is over is FREE with GEN raised by 1. A
boundary that is not the lead's, or of a package not in service, changes nothing. REQ_HOLD after its end a terminal entry
is noted as one that the next boundary frees. A member's boundary with no stage in progress and no tile in repair applies
every staged trim; a marked stage of a member that is not the lead begins again with the same rows, and is held when it
was a replay already. LEAD_BOUNDARY, REQ_HOLD_EXPIRY and MEMBER_BOUNDARY complete. (R107, R108, R135, R136, R175, R178,
R179, R184, R189, R194, R311, R339) -/
def Obligations.BoundariesTakeWhatWaits : Prop :=
  (∀ (s : State) (p : Nat) prompts tags,
    (s.dev.serving = true → s.dev.isLead p = true → (s.dev.job p).step = none → Runs (.leadBoundary p prompts tags) s fun d' =>
      (d'.job p).cmds = [] ∧ d'.rst = s.dev.rst ∧ d'.power = s.dev.power ∧ d'.part = s.dev.part ∧ d'.ledger = s.dev.ledger
        ∧ d'.sec = s.dev.sec
        ∧ ((s.dev.job p).inFlight = [] → (s.dev.job p).replay = none → tags = [] → (s.dev.jobSlots p).Nodup →
          (∀ o h t, o.partition = p → (s.dev.job p).cmds = [(⟨o, .cancel h⟩, t)] → s.dev.handleError p h = none →
            slotOf h ∈ s.dev.jobSlots p → (s.dev.req (slotOf h)).state = .queued →
            (d'.req (slotOf h)).state = .cancelled ∧ (d'.req (slotOf h)).reason = 6)
          ∧ ((s.dev.job p).cmds = [] → ∀ slot ∈ s.dev.jobSlots p, (s.dev.req slot).state.terminal = true → (s.dev.req slot).holdOver = true →
              d'.req slot = ReqEntry.free ((s.dev.req slot).gen + 1))))
    ∧ (s.dev.serving = false ∨ s.dev.isLead p = false → exec (.leadBoundary p prompts tags) s = .next s))
  ∧ (∀ (s : State) (slot : Nat),
      let r := s.dev.req slot
      (r.state.terminal = true → s.dev.isLead r.partition = true → s.dev.reqHold ≤ s.dev.usSince r.endedAt →
        Runs (.reqHoldExpiry slot) s fun d' => d'.req slot = { r with holdOver := true }
          ∧ (∀ k, k ≠ slot → d'.req k = s.dev.req k) ∧ s.dev.only d' [.serve])
      ∧ (r.state.terminal = false → exec (.reqHoldExpiry slot) s = .next s))
  ∧ ∀ (s : State) (p : Nat), s.dev.isMember p = true →
      ((s.dev.job p).step = none → (s.dev.job p).descs = [] → s.dev.part.staged = [] →
        (∀ k ∈ s.dev.partTiles p, (s.dev.tile k).ruling = false ∧ (s.dev.tile k).spareFor = none
          ∧ (s.dev.tile k).state ≠ .suspect ∧ (s.dev.tile k).state ≠ .standin) →
        Runs (.memberBoundary p) s fun d' => (d'.job p).step = none ∧ d'.rst = s.dev.rst ∧ d'.sec = s.dev.sec ∧ d'.link = s.dev.link
          ∧ ∀ k ∈ s.dev.partTiles p, (d'.tile k).staged = none
            ∧ ∀ x, (s.dev.tile k).staged = some x → (d'.tile k).colTrim = x.1 ∧ (d'.tile k).rowTrim = x.2)
      ∧ (∀ st, s.dev.isLead p = false → (s.dev.job p).step = some st → st.started = true → st.marked = true → st.desc.rows ≠ [] →
          s.dev.sys.holding.contains p = false → (s.dev.job p).replay = none →
          Runs (.memberBoundary p) s fun d' => d'.rst = s.dev.rst ∧ d'.sec = s.dev.sec
            ∧ ∃ y, (d'.job p).step = some y ∧ y.started = false ∧ y.marked = false ∧ y.desc.no = st.desc.no
              ∧ y.desc.rows = st.desc.rows ∧ y.desc.replay = true ∧ y.desc.held = st.desc.replay)

/-- With the function in service, a create of a context that may be named, does not exist, lies in its ranges and finds room
for its pin makes it live with its read-only fields at reset and, with no block remapped, stores it at its place in the
stack (log 174); a delete of one with no command outstanding removes it; a read returns its word; each with RESULT 0 and
every other context as it was. RESULT is 1 for an ID the function may not name, 2 for a live one, 4 for a field out of
range, 5 with no pin left, 3 for a delete in use, 6 for one that does not exist, and the context data stay. An indirect
read of COUNT instances in range of a reachable cluster returns them; a reserved code gives RESULT 3, an unreachable
cluster 1, a range past the last one 2. QUEUE_CTX_CREATE, QUEUE_CTX_DELETE, QUEUE_CTX_READ and CL_IND_READ complete.
(R251, R252, R244, R449, R450) -/
def Obligations.QueueContextsAreCheckedInOrder : Prop :=
  ∀ (s : State) (fn : Nat), s.dev.bar fn = true →
    let f := s.dev.fn fn
    let q := QCtx.create f.ctxData
    let refused := fun (code : BitVec 4) (d' : Dev) => d' = s.dev.setFn fn { f with ctxResult := code }
    let others := fun (d' : Dev) => (∀ k, k ≠ f.id → d'.queue k = s.dev.queue k ∧ d'.ring k = s.dev.ring k)
      ∧ (d'.fn fn).ctxResult = 0 ∧ (∀ g, g ≠ fn → d'.fn g = s.dev.fn g) ∧ s.dev.only d' [.host, .sys, .obs, .fresh, .stack]
    (s.dev.mayName fn f.id = false → Runs (.queueCtxCreate fn) s (refused 1) ∧ Runs (.queueCtxDelete fn) s (refused 1)
      ∧ Runs (.queueCtxRead fn) s (refused 1))
    ∧ (s.dev.mayName fn f.id = true →
      (f.ring = false → s.dev.queue f.id = none →
        (q.ok = false → Runs (.queueCtxCreate fn) s (refused 4))
        ∧ (q.ok = true → q.pin = true → 4096 ≤ s.dev.pins → Runs (.queueCtxCreate fn) s (refused 5))
        ∧ (q.ok = true → (q.pin = false ∨ s.dev.pins < 4096) → Runs (.queueCtxCreate fn) s fun d' =>
            others d' ∧ d'.queue f.id = some q ∧ d'.ring f.id = s.dev.ring f.id
              ∧ (s.dev.stack.remap = [] → s.dev.host.cached.length < 16384 → ∀ i < 32, d'.byte (s.dev.ctxAt f.id + i) = q.word.extractLsb' (8 * i) 8)))
      ∧ (f.ring = true → s.dev.ring f.id = none → (RCtx.create f.ctxData).ok = true → Runs (.queueCtxCreate fn) s fun d' =>
          others d' ∧ d'.ring f.id = some (RCtx.create f.ctxData) ∧ d'.queue f.id = s.dev.queue f.id)
      ∧ (s.dev.ctxLive fn = true →
          Runs (.queueCtxCreate fn) s (refused 2)
          ∧ (s.dev.ctxInUse f.ring f.id = true → Runs (.queueCtxDelete fn) s (refused 3))
          ∧ (s.dev.ctxInUse f.ring f.id = false → Runs (.queueCtxDelete fn) s fun d' => others d' ∧ d'.ctxLive fn = false
              ∧ (f.ring = true → d'.queue f.id = s.dev.queue f.id) ∧ (f.ring = false → d'.ring f.id = s.dev.ring f.id))
          ∧ (∀ x, f.ring = false → s.dev.queue f.id = some x → Runs (.queueCtxRead fn) s fun d' =>
              others d' ∧ (d'.fn fn).ctxData = x.word ∧ d'.queue f.id = some x)
          ∧ (∀ x, f.ring = true → s.dev.ring f.id = some x → Runs (.queueCtxRead fn) s fun d' =>
              others d' ∧ (d'.fn fn).ctxData = x.word ∧ d'.ring f.id = some x))
      ∧ (s.dev.ctxLive fn = false → Runs (.queueCtxDelete fn) s (refused 6) ∧ Runs (.queueCtxRead fn) s (refused 6)))
    ∧ (∀ c : BitVec 9,
        let reg := fieldNat f.indSel 13 8
        let first := fieldNat f.indSel 31 16
        let n := fieldNat f.indSel 34 32 + 1
        Runs (.clIndRead fn c) s fun d' => s.dev.only d' [.host, .obs] ∧ (∀ g, g ≠ fn → d'.fn g = s.dev.fn g)
          ∧ (indCount reg = 0 → (d'.fn fn).indResult = 3 ∧ (d'.fn fn).indData = [])
          ∧ (indCount reg ≠ 0 → reg ≠ 14 → s.dev.indReach fn c.toNat = false →
              (d'.fn fn).indResult = 1 ∧ (d'.fn fn).indData = []
                ∧ (fn = 0 → d'.counter DC.worldRefused = s.dev.counter DC.worldRefused + 1))
          ∧ (indCount reg ≠ 0 → (reg = 14 ∨ s.dev.indReach fn c.toNat = true) →
              if first + n > indCount reg then (d'.fn fn).indResult = 2 ∧ (d'.fn fn).indData = []
              else (d'.fn fn).indResult = 0
                ∧ (d'.fn fn).indData = (List.range n).map fun i => s.dev.indRead reg c.toNat (first + i)))

/-- A snoop of a held line takes each changed record into its own queue pair and leaves every other; a tail or head at or
above its size halts the pair. With no standby in sync an entry that fails a check completes at once with that check's
status and its TAG, with the credit returned; one that host memory could not be read for completes with HOST_READ_ERROR;
one that passes goes to every target and stays outstanding. In each the SQ head moves on by one. The entry is read with
its function's requester ID. A pair that may not fetch, or is not pinned while a pinned one has an entry, stays as it was.
COAL_TIME after its first unsignalled completion a pair is signalled once, with the Address and Data of its vector's table
entry or, where it is masked, a pending bit (log 80). A posted host write is carried out by the primary, and kept by the
standby, which takes in what it is told of its flag; another channel is counted and discarded. DOORBELL_SNOOP, SQ_FETCH,
COALESCE_TIMER_EXPIRY and HOST_WRITE_RECEIVE complete. (R244, R255, R256, R257, R262, R264, R265, R268, R271, R296) -/
def Obligations.EntriesAreFetchedCheckedAndForwarded : Prop :=
  (∀ (s : State) (line : Nat) (rs : List U64), rs.length = 8 →
    (s.dev.hostOn = true → s.dev.host.linesHeld = true → line < 32768 → Runs (.doorbellSnoop line rs) s fun d' =>
      s.dev.only d' [.host, .sys, .obs, .fresh, .stack] ∧ d'.counter DC.dbSnoop = s.dev.counter DC.dbSnoop + 1
        ∧ (∀ q, q / 8 ≠ line → d'.queue q = s.dev.queue q)
        ∧ ∀ i < 8, SMap.get 0 d'.host.doorbells (8 * line + i) = rs.getD i 0
          ∧ d'.queue (8 * line + i) = if SMap.get 0 s.dev.host.doorbells (8 * line + i) = rs.getD i 0 then s.dev.queue (8 * line + i)
            else (s.dev.queue (8 * line + i)).map fun x => x.bell ((rs.getD i 0).extractLsb' 0 16) ((rs.getD i 0).extractLsb' 16 18))
    ∧ (s.dev.host.linesHeld = false → exec (.doorbellSnoop line rs) s = .next s))
  ∧ (∀ (x : QCtx) (tail : U16) (head : BitVec 18), x.halted = false →
      (tail.toNat ≥ 2 ^ x.sqLog2 ∨ head.toNat ≥ 2 ^ x.cqLog2) → x.bell tail head = { x with halted := true })
  ∧ (∀ (s : State) (q : Nat) (x : QCtx) (cmd : Option FwdBody), s.dev.queue q = some x →
      let p := fun (e : BitVec 512) => (s.dev.idOwner q).getD (fieldNat e 21 16)
      let head := BitVec.ofNat 16 ((x.sqHead.toNat + 1) % 2 ^ x.sqLog2)
      let ended := fun (d' : Dev) (st : Byte) (tag : U64) => s.dev.only d' [.host, .obs, .fresh, .stack]
        ∧ (∃ y, d'.queue q = some y ∧ y.sqHead = head ∧ y.owed = x.owed)
        ∧ d'.host.outstanding.length = s.dev.host.outstanding.length
        ∧ (∃ a w rest, d'.host.writes = s.dev.host.writes ++ .completion q a w :: rest ∧ w.extractLsb' 112 8 = st ∧ w.extractLsb' 0 64 = tag)
        ∧ d'.counter DC.sqFetched = s.dev.counter DC.sqFetched + 1 ∧ d'.counter DC.sqRefused = s.dev.counter DC.sqRefused + 1
      (s.dev.hostOn = true → s.dev.ideOk = true → s.dev.sys.primary = true → s.dev.sys.standbySync = false → x.mayFetch = true →
        (x.pin = true ∨ s.dev.pinnedFirst = false) →
        Runs (.sqFetch q none cmd) s (fun d' => ended d' St.hostReadError 0)
        ∧ (∀ e st, s.dev.sqCheck (s.dev.idOwner q).isSome (p e) e = some st →
            Runs (.sqFetch q (some e) cmd) s fun d' => ended d' st (e.extractLsb' 64 64))
        ∧ (∀ e c, s.dev.sqCheck (s.dev.idOwner q).isSome (p e) e = none → s.dev.stoppedResult (p e) e = none → sqBody e cmd = some c →
            s.dev.sys.position ∉ s.dev.sqTargets (p e) e c →
            ((sqOp e = 0x40 ∨ sqOp e = 0x41) → ∀ y ∈ s.dev.host.outstanding, y.partition = p e → y.opcode ≠ 0x40 ∧ y.opcode ≠ 0x41) →
            let o : Origin := { queue := q, sqHead := head, tag := e.extractLsb' 64 64, partition := p e }
            Runs (.sqFetch q (some e) cmd) s fun d' => s.dev.only d' [.host, .obs, .fresh, .stack]
              ∧ { fn := s.dev.idFn q, addr := x.sqBase + BitVec.ofNat 64 (64 * x.sqHead.toNat), length := 64 } ∈ d'.host.reads
              ∧ (∃ y, d'.queue q = some y ∧ y.sqHead = head ∧ y.owed = x.owed + 1)
              ∧ (∃ z, d'.host.outstanding = s.dev.host.outstanding ++ [z] ∧ z.queue = q ∧ z.tag = o.tag ∧ z.opcode = sqOp e)
              ∧ d'.host.sent = s.dev.host.sent ++ (s.dev.sqTargets (p e) e c).map fun pos => .command pos ⟨o, c⟩))
      ∧ (∀ entry, x.mayFetch = false ∨ (x.pin = false ∧ s.dev.pinnedFirst = true) → exec (.sqFetch q entry cmd) s = .next s)
      ∧ (x.irqEn = true → x.coalTime ≠ 0 → x.unsignalled ≠ 0 → 1000 * x.coalTime.toNat ≤ s.dev.since x.firstUnsignalled →
          Runs (.coalesceTimerExpiry q) s fun d' => d'.queue q = some { x with unsignalled := 0 } ∧ s.dev.only d' [.host, .obs]
            ∧ let k := 4 * x.vector.toNat
              let t := (s.dev.fn (s.dev.idFn q)).table
              ((s.dev.fn (s.dev.idFn q)).masked x.vector.toNat = false →
                d'.host.writes = s.dev.host.writes ++ [.msix (s.dev.idFn q) x.vector (t (k + 1) ++ t k) (t (k + 2))]
                  ∧ d'.counter DC.msixSent = s.dev.counter DC.msixSent + 1)
            ∧ ((s.dev.fn (s.dev.idFn q)).masked x.vector.toNat = true → d'.host.writes = s.dev.host.writes
                ∧ SMap.get false (d'.fn (s.dev.idFn q)).msixPending x.vector.toNat = true)))
  ∧ ∀ s : State,
      (∀ vc m, vc ≠ 2 → Runs (.hostWriteReceive vc m) s fun d' => d' = s.dev.count DC.msgDiscard)
      ∧ (∀ q a bs, s.dev.sys.primary = true → s.dev.sys.standbySync = false → Runs (.hostWriteReceive 2 (.buffer q a bs)) s fun d' =>
          d' = s.dev.post (.buffer (s.dev.idFn q) a bs))
      ∧ (∀ on, s.dev.sys.primary = false → Runs (.hostWriteReceive 2 (.standbySync on)) s fun d' =>
          d' = { s.dev with sys := { s.dev.sys with standby := on, standbySync := on } })
      ∧ (∀ slot w, s.dev.sys.primary = false → Runs (.hostWriteReceive 2 (.mirror slot w)) s fun d' =>
          SMap.get 0 d'.host.mirror slot = w
            ∧ (∀ k, k ≠ slot → SMap.get 0 d'.host.mirror k = SMap.get 0 s.dev.host.mirror k) ∧ s.dev.only d' [.host])

/-- A link of 16 or 8 lanes at 64 or 32 GT/s in 256-byte flit mode with all three protocols makes HOST_LINK_STATUS active; any
other training, or one after MODE_ERR, leaves it in error with no VF. While the link and the decoder are up, a window read
returns up to 64 bytes, zeros before Memory_Active, and is counted, and a write is discarded and counted; otherwise
nothing happens. The decoder commits 1 way of 256 MiB only. NUMVFS is taken up to 64 while the QUEUE lock is set. Event
records, the interrupt policy and the timestamp read back as set, CDAT reports 80 ns, every other mailbox command is
Unsupported, and a PBR flit is an uncorrectable internal error. CXL_LINK_TRAINED, STATUS_WINDOW_READ, STATUS_WINDOW_WRITE,
HDM_DECODER_COMMIT, SET_NUMVFS, PBR_FLIT_RECEIVE, GET_EVENT_RECORDS, CLEAR_EVENT_RECORDS, SET_EVENT_INTERRUPT_POLICY,
GET_EVENT_INTERRUPT_POLICY, SET_TIMESTAMP, GET_TIMESTAMP, CDAT_TABLE_ACCESS and MAILBOX_UNSUPPORTED_COMMAND complete.
(R240, R241, R242, R246, R247, R248, R272) -/
def Obligations.CxlLinkWindowAndMailboxAnswer : Prop :=
  ∀ s : State,
    (∀ width rate flit256 all, let ok := flit256 = true ∧ all = true ∧ (width = 16 ∨ width = 8) ∧ (rate = 64 ∨ rate = 32) ∧ s.dev.glob.modeErr = false
      Runs (.cxlLinkTrained width rate flit256 all) s fun d' => s.dev.only d' [.glob]
        ∧ d'.glob.width = BitVec.ofNat 5 width ∧ d'.glob.rate = BitVec.ofNat 8 rate
        ∧ (ok → d'.glob.cxlActive = true ∧ d'.glob.modeErr = false ∧ d'.glob.numVfs = s.dev.glob.numVfs)
        ∧ (¬ ok → d'.glob.cxlActive = false ∧ d'.glob.modeErr = true ∧ d'.glob.numVfs = 0))
    ∧ (s.dev.glob.cxlActive = true → s.dev.glob.modeErr = false → s.dev.glob.hdmCommitted = true →
        (∀ o n, Runs (.statusWindowRead o n) s fun d' => s.dev.only d' [.host, .obs]
          ∧ d'.counter DC.winRead = s.dev.counter DC.winRead + 1
          ∧ ∃ bs, d'.host.replies = s.dev.host.replies ++ [.bytes bs] ∧ bs.length = min n 64
            ∧ (s.dev.windowOpenToHost = true → ∀ i < min n 64, bs.getD i 0 = s.dev.windowByte (o + i))
            ∧ (s.dev.windowOpenToHost = false → ∀ b ∈ bs, b = 0))
        ∧ (∀ o v, Runs (.statusWindowWrite o v) s fun d' => d' = s.dev.count DC.winWriteDiscard))
    ∧ (s.dev.glob.hdmCommitted = false → ∀ o n v, exec (.statusWindowRead o n) s = .next s ∧ exec (.statusWindowWrite o v) s = .next s)
    ∧ (∀ ways size, s.dev.glob.modeErr = false → Runs (.hdmDecoderCommit ways size) s fun d' => s.dev.only d' [.glob]
        ∧ (d'.glob.hdmCommitted = true ↔ ways = 1 ∧ size = 268435456) ∧ d'.glob.hdmError = !d'.glob.hdmCommitted)
    ∧ (∀ n, (s.dev.glob.locks.getLsbD 1 = true → n ≤ 64 → s.dev.glob.modeErr = false →
          Runs (.setNumVfs n) s fun d' => d' = { s.dev with glob := { s.dev.glob with numVfs := n } })
        ∧ (s.dev.glob.locks.getLsbD 1 = false → exec (.setNumVfs n) s = .next s))
    ∧ Runs .pbrFlitReceive s (fun d' => d' = { s.dev with glob := { s.dev.glob with uncorrInternal := s.dev.glob.uncorrInternal + 1 } })
    ∧ Runs .getEventRecords s (fun d' => d' = s.dev.answer (.events s.dev.host.events))
    ∧ (∀ n, Runs (.clearEventRecords n) s fun d' => d'.host.events = s.dev.host.events.drop n ∧ d'.host.replies = s.dev.host.replies
        ∧ s.dev.only d' [.host])
    ∧ (∀ w, Runs (.setEventInterruptPolicy w) s fun d' => d' = { s.dev with glob := { s.dev.glob with eventPolicy := w } })
    ∧ Runs .getEventInterruptPolicy s (fun d' => d' = s.dev.answer (.word (s.dev.glob.eventPolicy.setWidth 64)))
    ∧ (∀ t, Runs (.setTimestamp t) s fun d' => d'.glob.timestamp = t ∧ d'.glob.timestampAt = s.dev.now ∧ s.dev.only d' [.glob])
    ∧ Runs .getTimestamp s (fun d' => s.dev.only d' [.host] ∧ ∃ t, d'.host.replies = s.dev.host.replies ++ [.word t]
        ∧ (s.dev.glob.timestamp ≠ 0 → t = s.dev.glob.timestamp + BitVec.ofNat 64 (s.dev.since s.dev.glob.timestampAt)))
    ∧ Runs .cdatTableAccess s (fun d' => d' = s.dev.answer (.cdat 80))
    ∧ (∀ op, Runs (.mailboxUnsupportedCommand op) s fun d' => d' = s.dev.answer .unsupported)

/-- Signal on an enabled, powered port that is down and not held down begins training; a host retrain does from any state.
Training with no lane lost, excluded or ruled faulty gives 8 lanes, those found faulty at either end counting as good
again only after a host retrain: a keyed port is up, another begins the key exchange, which brings it up with new keys and
no tamper mark when the ends agree and is counted otherwise. A rekey that is due takes the next key set and tells the far
end, or is counted. Signal loss, a retrain of 8 ms and 8 ms without HELLO take the port down without keys; a port that was
up reports it. A lane in use that loses signal or exceeds SER_MAX is marked faulty and reported, or takes the port down
where DROP_MODE says so. A degrade message settles the width that the lanes healthy at both ends allow. No command changes
another port. LINK_SIGNAL_DETECT, FL_RETRAIN, PORT_TRAINING_DONE, LINK_KEY_EXCHANGE, LINK_REKEY, LOSS_OF_SIGNAL,
RETRAIN_TIMEOUT, HELLO_TIMEOUT, LANE_SIGNAL_LOSS, LANE_SER_CHECK and DEGRADE_REQUEST_RECEIVE complete. (R275, R277, R278,
R288, R290, R303, R304, R313, R337, R421, R422) -/
def Obligations.PortsTrainKeyAndFail : Prop :=
  ∀ (s : State) (n : Nat), n < 6 →
    let p := s.dev.port n
    let room := p.replay.length < 1024
    let others := fun (d' : Dev) => ∀ k, k ≠ n → d'.port k = s.dev.port k
    let down := fun (d' : Dev) => (d'.port n).state = 0 ∧ (d'.port n).width = 0 ∧ (d'.port n).keyed = false ∧ (d'.port n).replay = []
      ∧ others d' ∧ s.dev.only d' [.link, .host, .obs]
    (s.dev.phyOn = true → s.dev.portOn n = true → p.state = 0 → p.heldDown = false →
      Runs (.linkSignalDetect n) s fun d' => d'.port n = { p with state := 1 } ∧ others d' ∧ s.dev.only d' [.link])
    ∧ (s.dev.rst.phase = .ready → s.dev.rst.serUp = true → s.dev.portOn n = true → p.heldDown = false →
        Runs (.flRetrain n) s fun d' => (d'.port n).state = 1 ∧ (d'.port n).hostRetrain = true ∧ (d'.port n).keyed = p.keyed
          ∧ (d'.port n).retrainAt = (if p.keyed then some s.dev.now else none) ∧ others d' ∧ s.dev.only d' [.link])
    ∧ (p.heldDown = true → exec (.linkSignalDetect n) s = .next s ∧ exec (.flRetrain n) s = .next s ∧ ∀ x, exec (.portTrainingDone n x) s = .next s)
    ∧ (s.dev.phyOn = true → s.dev.portOn n = true → p.heldDown = false → (p.state = 0 ∨ p.state = 1) → s.dev.laneOff n = 0 →
        s.dev.deadLanes n = 0 → (p.hostRetrain = true ∨ (p.faulty = 0 ∧ p.peerBad = 0)) → room →
        Runs (.portTrainingDone n 0) s fun d' => others d' ∧ s.dev.only d' [.link, .host, .ledger, .obs]
          ∧ (d'.port n).state = (if p.keyed then 3 else 2) ∧ (d'.port n).width = 8 ∧ (d'.port n).faulty = 0 ∧ (d'.port n).peerBad = 0
          ∧ (d'.port n).keyed = p.keyed ∧ d'.host.sent = s.dev.host.sent ++ (if p.keyed then [] else [.keyExchange n]))
    ∧ (∀ x, p.state = 2 → (s.dev.keysAgree x = true → Runs (.linkKeyExchange n x) s fun d' => (d'.port n).state = 3
          ∧ (d'.port n).keyed = true ∧ (d'.port n).rxSeq = 0 ∧ (d'.port n).txSeq = 0 ∧ d'.sec.tamper.getLsbD n = false
          ∧ d'.vault = s.dev.vault ∧ others d' ∧ s.dev.only d' [.link, .sec, .fresh])
        ∧ (s.dev.keysAgree x = false → Runs (.linkKeyExchange n x) s fun d' => d' = s.dev.count DC.flKeyFail))
    ∧ (∀ x, p.state = 3 → p.keyed = true → 2 ^ 40 * p.keySet ≤ p.txSeq.toNat →
        (s.dev.keysAgree x = true → Runs (.linkRekey n x) s fun d' => (d'.port n).keySet = p.keySet + 1 ∧ (d'.port n).state = 3
          ∧ (room → (d'.port n).txSeq = p.txSeq + 1 ∧ d'.host.sent = s.dev.host.sent ++ [.keySwitch n p.txSeq])
          ∧ others d' ∧ d'.counter DC.flRekey = s.dev.counter DC.flRekey + 1 ∧ s.dev.only d' [.link, .host, .obs, .fresh])
        ∧ (s.dev.keysAgree x = false → Runs (.linkRekey n x) s fun d' => d' = s.dev.count DC.flKeyFail))
    ∧ (p.state ≠ 0 → p.state ≠ 5 → Runs (.lossOfSignal n) s fun d' => down d'
        ∧ (p.state = 3 → d'.host.sent = s.dev.host.sent ++ [.linkDown n]
            ∧ d'.counter (DC.flDown + n) = s.dev.counter (DC.flDown + n) + 1))
    ∧ (p.state = 0 ∨ p.state = 5 → exec (.lossOfSignal n) s = .next s)
    ∧ (∀ t, p.retrainAt = some t → p.state = 1 → 8000000 ≤ s.dev.since t → Runs (.retrainTimeout n) s down)
    ∧ (p.retrainAt = none → exec (.retrainTimeout n) s = .next s)
    ∧ ((p.state = 3 ∨ p.state = 4) → (8000000 ≤ s.dev.since p.helloAt → Runs (.helloTimeout n) s down)
        ∧ (s.dev.since p.helloAt < 8000000 → exec (.helloTimeout n) s = .next s))
    ∧ (∀ k < 8, p.state = 3 → p.faulty.getLsbD k = false → (s.dev.laneOff n).getLsbD k = false → Runs (.laneSignalLoss n k) s fun d' =>
        others d' ∧ s.dev.only d' [.link, .host, .ledger, .obs]
          ∧ if s.dev.dropMode n then (d'.port n).state = 0
            else (d'.port n).faulty = p.faulty ||| (1 <<< k) ∧ (d'.port n).state = 3 ∧ (d'.port n).width = p.width
              ∧ if p.replay.length < 1024 then d'.host.sent = s.dev.host.sent ++ [.degrade n false (d'.healthy n)]
                else d'.host.sent = s.dev.host.sent ∧ (d'.port n).ctl = p.ctl ++ [.degrade false])
    ∧ (∀ counts : List Nat, counts.length = 8 → p.state = 3 → s.dev.dropMode n = false → Runs (.laneSerCheck n counts) s fun d' =>
        others d' ∧ (d'.port n).state = 3 ∧ s.dev.only d' [.link, .host, .ledger, .obs]
          ∧ ∀ k < 8, (s.dev.laneOff n).getLsbD k = false →
            (d'.port n).faulty.getLsbD k = (p.faulty.getLsbD k || decide (s.dev.serMax n < counts.getD k 0)))
    ∧ (∀ ack peer, p.state = 3 → room →
        let w := laneWidth (s.dev.healthy n &&& peer)
        Runs (.degradeRequestReceive n ack peer) s fun d' => others d' ∧ s.dev.only d' [.link, .host, .obs]
          ∧ (w = 0 → (d'.port n).state = 0)
          ∧ (w ≠ 0 → (d'.port n).state = 3 ∧ (d'.port n).width = (if w < p.width.toNat then BitVec.ofNat 4 w else p.width)
              ∧ (d'.port n).faulty = p.faulty ∧ (d'.port n).peerBad = ~~~peer
              ∧ d'.counter (DC.flDegrade + n) = s.dev.counter (DC.flDegrade + n) + (if w < p.width.toNat then 1 else 0)
              ∧ d'.host.sent = s.dev.host.sent ++ if ack then [] else [.degrade n true (s.dev.healthy n)]))

/-- On a keyed port that is up, a flit in order that is not a NAK raises the receive sequence by one and is counted; a first
or last flit of a message opens or closes it and a flit of a message owes its sender a credit, which an idle flit returns.
A whole message for another package is passed on, one of a kind on another channel than its own discarded and counted. A
NAK has the port replay; a flit out of order changes nothing. A damaged flit is counted and answered with a NAK of the
last good SEQ. A tag failure is counted and answered so too, and the 16th within 1 ms takes the port into tamper-down
without keys, with its tamper mark. HELLO_SEND sends the package's HELLO in the next flit, with its header and under the
salt and the sequence number, and waits while 1,024 flits are unacknowledged. HELLO_RECEIVE notes the peer and measures
the link, keeps the highest lease epoch, holds a port whose peer breaks the cabling rule, and orders a time step above 1
µs of error from the parent. A miswired port takes no flit of a message. FLIT_RECEIVE, HELLO_SEND and HELLO_RECEIVE
complete. (R274, R277, R278, R279, R281, R282, R284, R285, R287, R288, R290, R293) -/
def Obligations.FlitsAreTakenInOrderAndHellosBeat : Prop :=
  ∀ (s : State) (n : Nat), n < 6 →
    let p := s.dev.port n
    let room := p.replay.length < 1024
    let others := fun (d' : Dev) => ∀ k, k ≠ n → d'.port k = s.dev.port k
    let nak : OutMsg := .nak n (p.rxSeq.extractLsb' 0 12 - 1)
    let naked := fun (d' : Dev) => (d'.port n).state = 3 ∧ (d'.port n).keyed = true ∧ (d'.port n).rxSeq = p.rxSeq
      ∧ (d'.port n).txSeq = p.txSeq + 1 ∧ d'.host.sent = s.dev.host.sent ++ [nak]
    (∀ f : Flit, p.state = 3 → p.keyed = true →
      (f.fecOk = false → room → Runs (.flitReceive n f) s fun d' => naked d' ∧ others d' ∧ s.dev.only d' [.link, .host, .obs]
          ∧ d'.counter (DC.flFecUncorr + n) = s.dev.counter (DC.flFecUncorr + n) + 1)
      ∧ (f.fecOk = true → f.tagOk = false →
          let recent := (p.tagFails.filter fun t => decide (s.dev.since t < 1000000)).length
          Runs (.flitReceive n f) s fun d' => others d' ∧ s.dev.only d' [.link, .host, .obs, .sec]
            ∧ d'.counter (DC.flTagFail + n) = s.dev.counter (DC.flTagFail + n) + 1
            ∧ (recent < 15 → room → naked d' ∧ d'.sec = s.dev.sec)
            ∧ (15 ≤ recent → (d'.port n).state = 5 ∧ (d'.port n).keyed = false ∧ d'.sec.tamper.getLsbD n = true ∧ d'.vault = s.dev.vault
                ∧ d'.host.sent = s.dev.host.sent ++ [.linkDown n]))
      ∧ (f.fecOk = true → f.tagOk = true → f.seq ≠ p.rxSeq.extractLsb' 0 12 → exec (.flitReceive n f) s = .next s)
      ∧ (f.fecOk = true → f.tagOk = true → f.seq = p.rxSeq.extractLsb' 0 12 → f.type = 3 → Runs (.flitReceive n f) s fun d' =>
          others d' ∧ s.dev.only d' [.link, .host, .obs] ∧ (d'.port n).rxSeq = p.rxSeq + 1 ∧ (d'.port n).txSeq = p.txSeq
            ∧ ∃ q, d'.host.sent = s.dev.host.sent ++ [.replayFrom n q])
      ∧ (f.fecOk = true → f.tagOk = true → f.seq = p.rxSeq.extractLsb' 0 12 → f.type ≠ 3 → Runs (.flitReceive n f) s fun d' =>
          others d' ∧ s.dev.only d' [.link, .host, .obs] ∧ (d'.port n).rxSeq = p.rxSeq + 1 ∧ (d'.port n).state = 3
            ∧ d'.counter (DC.flFlitRx + n) = s.dev.counter (DC.flFlitRx + n) + 1 ∧ (d'.port n).replay = (p.acked f.ack).replay
            ∧ (f.type = 1 → f.message ∈ (d'.port n).partials) ∧ (f.type = 2 → f.message ∉ (d'.port n).partials)
            ∧ (f.type = 0 → (d'.port n).credits = p.credits.zipWith (· + ·) f.credits ∧ (d'.port n).owed = p.owed)
            ∧ (f.type = 1 ∨ f.type = 2 → (d'.port n).credits = p.credits ∧ (d'.port n).owed = (p.takeIn f).owed)
            ∧ (let passed := f.type = 2 ∧ s.dev.isMine (headDst f.head) = false
               d'.host.sent = s.dev.host.sent ++ (if passed ∧ kindOnVc (headKind f.head) f.vc = true then [.transit n f.dl f.vc f.head] else [])
               ∧ d'.counter DC.msgDiscard = s.dev.counter DC.msgDiscard + (if passed ∧ kindOnVc (headKind f.head) f.vc = false then 1 else 0))
            ∧ ∀ m, m ≠ f.message → (m ∈ (d'.port n).partials ↔ m ∈ p.partials)))
    ∧ (∀ f : Flit, p.state = 4 → f.type = 1 ∨ f.type = 2 → exec (.flitReceive n f) s = .next s)
    ∧ (p.keyed = true → (p.state = 3 ∨ p.state = 4) →
        (room → Runs (.helloSend n) s fun d' => others d' ∧ s.dev.only d' [.link, .host, .obs] ∧ (d'.port n).txSeq = p.txSeq + 1
          ∧ (d'.port n).helloSeq = p.helloSeq + 1 ∧ d'.host.sent = s.dev.host.sent ++ [.hello n (s.dev.hello n)]
          ∧ (∃ x, (d'.port n).replay = p.replay ++ [x] ∧ x.seq = p.txSeq ∧ x.iv = p.saltTx ++ p.txSeq
              ∧ x.header = flitHeader 0 4 (p.txSeq.extractLsb' 0 12) (p.rxSeq.extractLsb' 0 12 - 1) false)
          ∧ d'.counter (DC.flFlitTx + n) = s.dev.counter (DC.flFlitTx + n) + 1)
        ∧ (¬ room → Runs (.helloSend n) s fun d' => d'.port n = { p with ctl := p.ctl ++ [.hello] } ∧ others d' ∧ s.dev.only d' [.link])
        ∧ ∀ h : Hello,
          let good := h.port = (if n % 2 = 0 then n + 1 else n - 1)
          let off : U64 := h.txTime + BitVec.ofNat 64 p.delay - s.dev.now
          Runs (.helloReceive n h) s fun d' => others d' ∧ s.dev.only d' [.link, .sys, .host, .obs]
            ∧ (d'.port n).helloAt = s.dev.now ∧ (d'.port n).peerNode = h.node ∧ (d'.port n).away = s.dev.now - h.txTime
            ∧ (good → (d'.port n).state = 3)
            ∧ (¬ good → (d'.port n).state = 4) ∧ d'.sys.highEpoch.toNat = max s.dev.sys.highEpoch.toNat h.leaseEpoch.toNat
            ∧ (¬ good → p.state = 3 → d'.host.sent = s.dev.host.sent ++ [.linkDown n] ∧ (d'.port n).tx = [])
            ∧ (s.dev.parentPort = some n → s.dev.sys.aligned = true → 1000 < off.toInt.natAbs →
                d'.sys.reStep = some off ∧ d'.counter DC.timeErr = s.dev.counter DC.timeErr + 1)
            ∧ (s.dev.parentPort ≠ some n → d'.sys.reStep = s.dev.sys.reStep))
    ∧ (p.keyed = false → ∀ f h, exec (.flitReceive n f) s = .next s ∧ exec (.helloSend n) s = .next s ∧ exec (.helloReceive n h) s = .next s)

/-- A package answers a topology request and passes it on once in 5 ms (log 178). 5 ms after formation began the primary forms
the system and seats the packages the walk met, the links to colliding packages held down, or gives the FORM_ERR of what
it found. A push waits for its activation, holding the jobs it names where they are led; then its maps take effect and the
hold ends. An unaligned package takes the parent's time plus half the HELLO round trip at once, an aligned one at the next
boundary while a step is in progress. A port reported down is remembered; a route set is pushed to every package where
every way arrives over links that are up or is marked unreachable and its channel dependencies close no cycle, at least 2
ms ahead; where none is, the positions cut off are lost. A position whose package ended service or was out of reach for 10
ms is declared lost: absent, counted, its jobs stopped; the best qualifying spare is given, and the jobs stay stopped
until its commit report arrives and every member is present. A package that comes back with the job's version is present
again by a push. A pushed job is set up as pushed, and loses its work when the push stops it. A job write is refused and
counted while requests exist, and otherwise sets the job up where it fits. A push, a job, a time step or a report on
another channel is discarded and counted. TOPOLOGY_REQUEST_RECEIVE, TOPOLOGY_COLLECT_END, ROUTE_PUSH_RECEIVE,
ROUTE_ACTIVATE, TIME_STEP_RECEIVE, LINK_DOWN_REPORT_RECEIVE, POSITION_LOST, BULK_RECEIVE, JOB_PUSH_RECEIVE and
SYS_JOB_WRITE complete. (R284, R285, R286, R288, R291, R292, R293, R298, R305, R307, R308, R312) -/
def Obligations.FormationRoutesAndTimeFollowThePrimary : Prop :=
  ∀ s : State,
    ((∀ t, s.dev.sys.topoAt = some t → 5000000 ≤ s.dev.since t) → Runs .topologyRequestReceive s fun d' => s.dev.only d' [.sys, .host]
        ∧ d'.sys = { s.dev.sys with topoAt := some s.dev.now }
        ∧ ∃ r, d'.host.sent = s.dev.host.sent ++ [.topologyReport r, .topologyRequest] ∧ r.node = s.dev.glob.node
            ∧ r.spare = s.dev.glob.spareStrap ∧ r.gwCapable = s.dev.glob.cxlActive)
    ∧ (∀ t, s.dev.sys.topoAt = some t → s.dev.since t < 5000000 → exec .topologyRequestReceive s = .next s)
    ∧ (∀ rs t, s.dev.sys.collecting = some t → s.dev.sys.primary = true →
        let once := rs.filter fun r => r.node == s.dev.glob.node || (rs.filter fun q => q.node == r.node).length == 1
        let w := s.dev.walk once 128 [(s.dev.glob.node, 0)]
        let e := s.dev.formError once w.1 w.2
        (5000000 ≤ s.dev.since t → e ≠ 0 → Runs (.topologyCollectEnd rs) s fun d' =>
          d' = { s.dev with sys := { s.dev.sys with collecting := none, formErr := e } })
        ∧ (5000000 ≤ s.dev.since t → e = 0 → Runs (.topologyCollectEnd rs) s fun d' => s.dev.only d' [.sys, .link, .host, .sec, .obs]
            ∧ d'.sys.formed = true ∧ d'.sys.aligned = true ∧ d'.sys.formErr = 0 ∧ d'.sys.collecting = none
            ∧ d'.sys.gwNode = s.dev.glob.node ∧ (∃ away, .timeStep s.dev.now away ∈ d'.host.sent)
            ∧ (∀ x ∈ w.1, x.2 < 64 → SMap.get (0 : Byte) d'.sys.posMap x.2 = (1 : BitVec 1) ++ x.1)
            ∧ ∀ k < 6, ∀ r ∈ rs, r.node = (s.dev.port k).peerNode → r.node ≠ s.dev.glob.node → (rs.filter fun q => q.node == r.node).length ≠ 1 →
                (s.dev.port k).state ≠ 0 → (d'.port k).heldDown = true)
        ∧ (s.dev.sizeOk = false → e = 1) ∧ (s.dev.since t < 5000000 → exec (.topologyCollectEnd rs) s = .next s))
    ∧ (∀ p, Runs (.routePushReceive ⟨2, p⟩) s fun d' =>
        d' = { s.dev with sys := { s.dev.sys with push := s.dev.sys.push ++ [p], holding := s.dev.sys.holding ++ p.jobs.filter s.dev.isLead } })
    ∧ (∀ p, s.dev.sys.push = [p] → (s.dev.now.toNat < p.activation.toNat → exec .routeActivate s = .next s)
        ∧ (p.activation.toNat ≤ s.dev.now.toNat → s.dev.sys.primary = false → s.dev.sys.standbySync = false →
            Runs .routeActivate s fun d' => s.dev.only d' [.sys, .host, .stack, .link, .sec, .obs] ∧ d'.sys.push = [] ∧ d'.sys.holding = []
              ∧ d'.sys.posMap = (s.dev.applyPush p).sys.posMap ∧ d'.sys.route = (s.dev.applyPush p).sys.route
              ∧ d'.sys.standbyKnown = p.standby
              ∧ (p.topo = [] → (∀ pos, (s.dev.applyPush p).replaced s.dev.sys.posMap pos = false) → s.dev.only d' [.sys])
              ∧ (d'.sys.coordValid = true → d'.present d'.sys.position = true ∧ d'.nodeAt d'.sys.position = s.dev.glob.node)))
    ∧ (∀ t away,
        let delay := match s.dev.parentPort with | some n => ((s.dev.port n).away + away).toNat / 2 | none => 0
        let new : U64 := t + BitVec.ofNat 64 delay
        Runs (.timeStepReceive ⟨2, t⟩ away) s fun d' => d'.sys.aligned = true ∧ d'.sys.formed = (s.dev.sys.formed || !s.dev.sys.posMap.isEmpty)
          ∧ .timeStep new s.dev.awayTimes ∈ d'.host.sent ∧ s.dev.only d' [.glob, .sys, .link, .host, .obs]
          ∧ (∀ n, s.dev.parentPort = some n → (d'.port n).delay = delay)
          ∧ (s.dev.sys.aligned = true → s.dev.busy = true → d'.now = s.dev.now ∧ d'.sys.reStep = some (new - s.dev.now))
          ∧ ((s.dev.sys.aligned = false ∨ s.dev.busy = false) → d'.now = new))
    ∧ (∀ node port x, s.dev.sys.primary = true →
        (∀ y, x = some y → (s.dev.breakLink node port).routeSetOk (s.dev.marked y ++ s.dev.sys.tables) = false) →
        Runs (.linkDownReportReceive ⟨3, node⟩ port x) s fun d' => (node, port) ∈ d'.sys.broken
          ∧ ((s.dev.breakLink node port).cutOff = [] → d' = s.dev.breakLink node port)
          ∧ ∀ pos ∈ (s.dev.breakLink node port).cutOff, d'.present pos = false ∧ pos ∈ d'.sys.lost)
    ∧ (∀ node port x, s.dev.sys.primary = true → (s.dev.breakLink node port).routeSetOk (s.dev.marked x ++ s.dev.sys.tables) = true →
        s.dev.now.toNat + 2000000 < 2 ^ 64 → Runs (.linkDownReportReceive ⟨3, node⟩ port (some x)) s fun d' =>
          s.dev.only d' [.sys, .host] ∧ d'.sys.posMap = s.dev.sys.posMap ∧ d'.sys.route = s.dev.sys.route
            ∧ d'.sys.broken = (s.dev.breakLink node port).sys.broken ∧ (node, port) ∈ d'.sys.broken
            ∧ d'.sys.tables = s.dev.marked x ++ s.dev.sys.tables
            ∧ ∃ p, d'.sys.push = s.dev.sys.push ++ [p] ∧ s.dev.now.toNat + 2000000 ≤ p.activation.toNat ∧ p.posMap = []
                ∧ p.jobs = s.dev.jobsRerouted s.dev.sys.tables (s.dev.marked x ++ s.dev.sys.tables)
                ∧ d'.sys.holding = s.dev.sys.holding ++ p.jobs.filter s.dev.isLead
                ∧ ∀ n ∈ s.dev.packages, ∃ q, .routePush n q ∈ d'.host.sent ∧ q.activation = p.activation ∧ q.jobs = p.jobs)
    ∧ (∀ node port x, s.dev.sys.primary = false → exec (.linkDownReportReceive ⟨3, node⟩ port x) s = .next s)
    ∧ (∀ es : List (Channel × Channel), acyclic es.length es = true →
        ¬ ∃ c : List (Channel × Channel), c ≠ [] ∧ (∀ e ∈ c, e ∈ es) ∧ ∀ e ∈ c, ∃ f ∈ c, f.1 = e.2)
    ∧ (∀ x : Loss,
        let due := x.ended = true ∨ ∃ e ∈ s.dev.sys.unreached, e.1 = x.pos ∧ 10000000 ≤ s.dev.since e.2
        (s.dev.sys.primary = true → s.dev.sys.standbySync = false → s.dev.present x.pos = true → x.pos ≠ s.dev.sys.position → due →
          Runs (.positionLost x) s fun d' => d'.present x.pos = false ∧ x.pos ∈ d'.sys.lost ∧ s.dev.nodeAt x.pos ∈ d'.sys.gone
            ∧ (∀ j ∈ s.dev.jobsAt x.pos, (d'.jobSetup j).stopped = true) ∧ d'.rst = s.dev.rst
            ∧ (s.dev.ledger.crocusAsked.contains (s.dev.nodeAt x.pos) = false → d'.ledger = s.dev.ledger)
            ∧ (s.dev.part.staged = [] → d'.part.inForce = s.dev.part.inForce) ∧ (s.dev.spareEn = false → d'.sys.push = s.dev.sys.push))
        ∧ ((s.dev.sys.primary = false ∨ s.dev.present x.pos = false ∨ ¬ due) → exec (.positionLost x) s = .next s))
    ∧ (∀ x : Loss, ∀ j node, s.dev.sys.primary = true → s.dev.present x.pos = true → x.pos ≠ s.dev.sys.position → x.ended = true →
        let lost := s.dev.declareLost x.pos
        let new := match x.routes with | some y => lost.marked y | none => []
        lost.spareEn = true → lost.routeSetOk (new ++ lost.sys.tables) = true →
        (lost.sys.jobs.map Prod.fst).filter (fun p => (lost.jobSetup p).valid) = [j] →
        (lost.members j).filter lost.unfilled = [x.pos] → lost.bestSpare lost.freeSpares x.pos = some node →
        lost.jobsAt x.pos = [j] → Runs (.positionLost x) s fun d' => (j, x.pos) ∈ d'.sys.awaiting
          ∧ .jobPush ((1 : BitVec 1) ++ node) j (lost.jobSetup j).word ∈ d'.host.sent
          ∧ ∃ p rest, d'.sys.push = lost.sys.push ++ p :: rest ∧ p.posMap = [(x.pos, (1 : BitVec 1) ++ node)])
    ∧ (∀ free pos node, s.dev.bestSpare free pos = some node → node ∈ free ∧ ∃ x, s.dev.detour pos node = some x ∧ x ≤ 3
        ∧ ∀ n ∈ free, ∀ y, s.dev.detour pos n = some y → x < y ∨ (x = y ∧ node.toNat ≤ n.toNat))
    ∧ (∀ p m v pos, s.dev.sys.primary = true → s.dev.sys.awaiting = [(p, pos)] → (s.dev.members p)[m]? = some pos →
        (s.dev.jobSetup p).stopped = true → (s.dev.members p).all s.dev.present = true →
        Runs (.bulkReceive 1 (.commitReport p m v 0)) s fun d' => d'.sys.awaiting = [] ∧ (d'.jobSetup p).stopped = false
          ∧ SMap.get 0 d'.sys.versions p = v)
    ∧ (∀ node pos records, s.dev.sys.primary = true → s.dev.present pos = false → (∀ r ∈ records, r.2 = s.dev.jobVersion r.1) →
        Runs (.hostWriteReceive 2 (.rejoin node (some pos) records)) s fun d' => node ∉ d'.sys.gone
          ∧ ∃ x, d'.sys.push = s.dev.sys.push ++ [x] ∧ x.posMap = [(pos, (1 : BitVec 1) ++ node)])
    ∧ (∀ n w, n < 64 → Runs (.jobPushReceive ⟨3, n⟩ w) s fun d' =>
        d'.jobSetup n = { valid := w.getLsbD 31, active := w.getLsbD 30, stopped := w.getLsbD 29, shape := w.extractLsb' 0 12 }
          ∧ (∀ k, k ≠ n → d'.jobSetup k = s.dev.jobSetup k)
          ∧ (w.getLsbD 29 = false → s.dev.only d' [.sys, .host, .stack])
          ∧ (w.getLsbD 29 = false → (s.dev.jobSetup n).stopped = false → s.dev.only d' [.sys, .host] ∧ d'.host.writes = s.dev.host.writes)
          ∧ (w.getLsbD 29 = true → (s.dev.jobSetup n).stopped = false → (d'.job n).step = none ∧ (d'.job n).inFlight = []
              ∧ (d'.job n).descs = [] ∧ ∀ a, d'.byte a = s.dev.byte a))
    ∧ (∀ n w, n < 64 → s.dev.rst.phase = .ready → s.dev.sys.primary = true →
        (s.dev.jobHasRequests n = true → Runs (.sysJobWrite n w) s fun d' => d' = s.dev.count DC.jobIgnored)
        ∧ (s.dev.jobHasRequests n = false → w.getLsbD 31 = true → s.dev.jobFits n w = true → Runs (.sysJobWrite n w) s fun d' =>
            d'.jobSetup n = { valid := true, active := true, stopped := false, shape := w.extractLsb' 0 12 }
              ∧ (∀ k, k ≠ n → d'.jobSetup k = s.dev.jobSetup k) ∧ s.dev.only d' [.sys, .host])
        ∧ (s.dev.jobHasRequests n = false → w.getLsbD 31 = true → s.dev.jobFits n w = false → exec (.sysJobWrite n w) s = .next s)
        ∧ (s.dev.jobHasRequests n = false → w.getLsbD 31 = false → Runs (.sysJobWrite n w) s fun d' =>
            (d'.jobSetup n).valid = false ∧ (d'.jobSetup n).shape = w.extractLsb' 0 12 ∧ s.dev.only d' [.sys, .host]))
    ∧ (∀ vc p n w t away node port x,
        (vc ≠ 2 → ∀ c ∈ [Instr.routePushReceive ⟨vc, p⟩, .timeStepReceive ⟨vc, t⟩ away], Runs c s fun d' => d' = s.dev.count DC.msgDiscard)
        ∧ (vc ≠ 3 → ∀ c ∈ [Instr.jobPushReceive ⟨vc, n⟩ w, .linkDownReportReceive ⟨vc, node⟩ port x], Runs c s fun d' =>
            d' = s.dev.count DC.msgDiscard))

/-- A lease write of 0 ends the lease, one below the highest epoch is counted and ignored, and one at or above it on an active
link renews the primary's lease, or begins formation, or takes over: in sync with the primary before it, reading the
doorbell lines and taking hold of them with every queue as it was told, and halting every queue pair otherwise. A holder
beacons until 300 ms after its renewal, when the lease expires. A beacon of a higher epoch ends a gateway's lease; one
below the highest seen does no more; another keeps the package from fencing, is passed on where it is new (log 178), and
begins or ends the rejoining of a fenced package; a holder's own beacon begins its own (the model's reading, log 81). 10
ms without a beacon fence a formed package: pages but for relocated ones, slots, windows and grafts not yet installed are
dropped, and with no load or set-up under way the stack's bytes, the request table and the tiles' states stay. A standby
that can stand by comes into sync by a resync that copies every context, and each acknowledgement releases the oldest item
held, a command only while it is outstanding. A notice waits for the next boundary of every job led here, and the primary
logs it with its position. SYS_LEASE_WRITE, LEASE_BEACON_SEND, LEASE_EXPIRY, LEASE_BEACON_RECEIVE, FENCE, STANDBY_RESYNC,
STANDBY_ACK_RECEIVE and THROTTLE_NOTICE_RECEIVE complete. (R292, R294, R295, R296, R297, R310, R311, R312, R377) -/
def Obligations.LeaseFenceAndStandbyKeepOneGateway : Prop :=
  ∀ s : State,
    (s.dev.rst.phase = .ready → ∀ epoch : U32,
      let taken := { s.dev.sys with leaseEpoch := epoch, highEpoch := epoch, leaseValid := true, leaseAt := s.dev.now, beaconAt := s.dev.now }
      (epoch = 0 → Runs (.sysLeaseWrite epoch) s fun d' => d' = { s.dev with sys := { s.dev.sys with leaseEpoch := 0, leaseValid := false } })
      ∧ (epoch ≠ 0 → epoch.toNat < s.dev.sys.highEpoch.toNat → Runs (.sysLeaseWrite epoch) s fun d' => d' = s.dev.count DC.leaseStale)
      ∧ (epoch ≠ 0 → s.dev.sys.highEpoch.toNat ≤ epoch.toNat →
          (s.dev.glob.cxlActive = false → exec (.sysLeaseWrite epoch) s = .next s)
          ∧ (s.dev.glob.cxlActive = true → s.dev.sys.formed = true → s.dev.sys.primary = true →
              Runs (.sysLeaseWrite epoch) s fun d' => d' = { s.dev with sys := taken })
          ∧ (s.dev.glob.cxlActive = true → s.dev.sys.formed = false → s.dev.sys.collecting = none →
              Runs (.sysLeaseWrite epoch) s fun d' => s.dev.only d' [.sys, .host] ∧ d'.sys.primary = true ∧ d'.sys.coordValid = true
                ∧ d'.sys.position = 0 ∧ d'.sys.collecting = some s.dev.now ∧ d'.sys.leaseEpoch = epoch
                ∧ d'.sys.topoAt = some s.dev.now ∧ d'.host.sent = s.dev.host.sent ++ [.topologyRequest, .topologyReport s.dev.topoReport])
          ∧ (s.dev.glob.cxlActive = true → s.dev.sys.formed = true → s.dev.sys.primary = false →
              Runs (.sysLeaseWrite epoch) s fun d' => d'.sys.primary = true ∧ d'.sys.leaseValid = true ∧ d'.sys.standbySync = false
                ∧ (s.dev.sys.standbySync = true → s.dev.only d' [.sys, .host] ∧ d'.host.linesHeld = (s.dev.reg Off.dbBase).getLsbD 0
                    ∧ (∀ q x, s.dev.queue q = some x → d'.queue q = some { x with owed := (s.dev.host.outstanding.filter fun o => o.queue == q).length })
                    ∧ ((s.dev.reg Off.dbBase).getLsbD 0 = true → d'.host.reads = s.dev.host.reads ++
                        [{ fn := 0, addr := s.dev.reg64 Off.dbBase &&& ~~~0x1FFFFF, length := 64 * 32768 }]))
                ∧ (s.dev.sys.standbySync = false → ∀ q x, d'.queue q = some x → x.halted = true))))
    ∧ (s.dev.sys.leaseValid = true →
        (s.dev.since s.dev.sys.leaseAt < 300000000 →
          (s.dev.sys.fenced = false → Runs .leaseBeaconSend s fun d' => s.dev.only d' [.sys, .host]
            ∧ d'.sys = { s.dev.sys with beaconAt := s.dev.now, beaconTime := s.dev.now }
            ∧ d'.host.sent = s.dev.host.sent ++ [.beacon s.dev.glob.node s.dev.sys.leaseEpoch s.dev.now])
          ∧ (s.dev.sys.fenced = true → s.dev.sys.rejoining = false → Runs .leaseBeaconSend s fun d' =>
              d'.sys.rejoining = true ∧ d'.sys.fenced = true ∧ d'.sys.aligned = s.dev.sys.primary
                ∧ .beacon s.dev.glob.node s.dev.sys.leaseEpoch s.dev.now ∈ d'.host.sent)
          ∧ exec .leaseExpiry s = .next s)
        ∧ (300000000 ≤ s.dev.since s.dev.sys.leaseAt → exec .leaseBeaconSend s = .next s
            ∧ Runs .leaseExpiry s fun d' => d' = { s.dev with sys := { s.dev.sys with leaseValid := false } }))
    ∧ (∀ node time epoch sid,
        let yields := s.dev.sys.leaseValid && decide (epoch.toNat > s.dev.sys.leaseEpoch.toNat)
        let new := decide (epoch.toNat > s.dev.sys.highEpoch.toNat) || node != s.dev.sys.gwNode || decide (time.toNat > s.dev.sys.beaconTime.toNat)
        (epoch.toNat < s.dev.sys.highEpoch.toNat → Runs (.leaseBeaconReceive ⟨3, ⟨node, time⟩⟩ epoch sid) s fun d' =>
          d' = { s.dev with sys := { s.dev.sys with leaseValid := s.dev.sys.leaseValid && !yields
                                                    primary := s.dev.sys.primary && (!yields || node == s.dev.glob.node) } })
        ∧ (s.dev.sys.highEpoch.toNat ≤ epoch.toNat → Runs (.leaseBeaconReceive ⟨3, ⟨node, time⟩⟩ epoch sid) s fun d' =>
            d'.sys.beaconAt = s.dev.now ∧ d'.sys.gwNode = node ∧ d'.sys.highEpoch = epoch
              ∧ d'.sys.leaseValid = (s.dev.sys.leaseValid && !yields)
              ∧ d'.sys.primary = (s.dev.sys.primary && (node == s.dev.glob.node))
              ∧ (new = true → d'.sys.beaconTime = time ∧ .beacon node epoch time ∈ d'.host.sent)
              ∧ (s.dev.sys.fenced = false → s.dev.only d' [.sys, .host, .link] ∧ d'.sys.fenced = false
                  ∧ (node = s.dev.sys.gwNode → s.dev.only d' [.sys, .host]) ∧ (new = false → s.dev.only d' [.sys]))
              ∧ (s.dev.sys.fenced = true → s.dev.sys.rejoining = false → d'.sys.fenced = true ∧ d'.sys.rejoining = true
                  ∧ d'.sys.aligned = (s.dev.sys.primary && (node == s.dev.glob.node)) ∧ ∀ k ∈ s.dev.readyTiles, (d'.tile k).state = .verifying)
              ∧ (s.dev.sys.fenced = true → s.dev.sys.rejoining = true → s.dev.sys.aligned = true → s.dev.power.sweepLeft = [] →
                  d'.sys.fenced = false ∧ d'.sys.rejoining = false
                    ∧ (s.dev.sys.primary = false → ∀ k, (d'.req k).state.live = false))))
    ∧ ((s.dev.sys.formed = false ∨ s.dev.since s.dev.sys.beaconAt < 10000000) → exec .fence s = .next s)
    ∧ (s.dev.sys.formed = true → s.dev.sys.fenced = false → s.dev.sys.leaseValid = false → 10000000 ≤ s.dev.since s.dev.sys.beaconAt →
        Runs .fence s fun d' => d'.sys.fenced = true ∧ d'.stack.pagesUsed = s.dev.relocated ∧ (∀ id, (d'.graft id).pending = []) ∧ d'.serve.kv = [] ∧ d'.serve.staging = []
          ∧ d'.serve.table = s.dev.serve.table ∧ (s.dev.stack.loads = [] → ∀ a, d'.byte a = s.dev.byte a)
          ∧ (s.dev.part.staged = [] → ∀ k, (d'.tile k).state = (s.dev.tile k).state)
          ∧ (∀ w, (d'.window w).isOpen = false) ∧ d'.counter DC.fence = s.dev.counter DC.fence + 1)
    ∧ (∀ n, s.dev.sys.primary = true → s.dev.sys.standbySync = false → s.dev.standbyNode = some n →
        (s.dev.mayStandBy n = true → Runs .standbyResync s fun d' => d'.sys.standbySync = true ∧ s.dev.only d' [.sys, .host, .obs]
          ∧ .hostWrite (.standbySync true) ∈ d'.host.sent ∧ (∀ k ∈ s.dev.contextKeys, .hostWrite (.context k (s.dev.ctxWord k)) ∈ d'.host.sent)
          ∧ ∃ x, d'.sys.push = s.dev.sys.push ++ [x] ∧ x.posMap = [] ∧ x.routes = [] ∧ x.standby.map Prod.fst = some n)
        ∧ (s.dev.mayStandBy n = false → exec .standbyResync s = .next s))
    ∧ (s.dev.sys.standbyHeld = [] → exec .standbyAckReceive s = .next s)
    ∧ (∀ rest, s.dev.sys.standbyHeld = .context :: rest → Runs .standbyAckReceive s fun d' =>
        d' = { s.dev with sys := { s.dev.sys with standbyHeld := rest } })
    ∧ (∀ q a bs rest, s.dev.sys.standbyHeld = .write (.buffer q a bs) :: rest → Runs .standbyAckReceive s fun d' =>
        d'.sys = { s.dev.sys with standbyHeld := rest } ∧ d'.host.writes = s.dev.host.writes ++ [.buffer (s.dev.idFn q) a bs]
          ∧ s.dev.only d' [.sys, .host])
    ∧ (∀ pos c rest, s.dev.sys.standbyHeld = .command pos c :: rest → pos ≠ s.dev.sys.position → Runs .standbyAckReceive s fun d' =>
        d'.sys = { s.dev.sys with standbyHeld := rest } ∧ s.dev.only d' [.sys, .host]
          ∧ d'.host.sent = s.dev.host.sent ++ (if s.dev.host.outstanding.any (fun x => x.queue == c.origin.queue && x.tag == c.origin.tag
              && x.sqHead == c.origin.sqHead) then [.command pos c] else []))
    ∧ (∀ vc n, (vc ≠ 3 → Runs (.throttleNoticeReceive ⟨vc, n⟩) s fun d' => d' = s.dev.count DC.msgDiscard)
        ∧ (vc = 3 → Runs (.throttleNoticeReceive ⟨vc, n⟩) s fun d' => s.dev.only d' [.serve, .host, .obs]
          ∧ (∀ p ∈ s.dev.myJobs, s.dev.isLead p = true → (d'.job p).noticed = (s.dev.job p).noticed ++ [n])
          ∧ (s.dev.sys.primary = true → d'.host.events = s.dev.host.events ++ [.throttle (s.dev.posOf n.node) n])
          ∧ (s.dev.sys.primary = false → s.dev.only d' [.serve])))

/-- A write to a closed window or of another epoch is answered WINDOW_CLOSED and counted; else one of another partition
NOT_PERMITTED; else one whose 64 × OFFSET + LEN exceeds the window's size FIELD_INVALID; in each, no byte of the stack
changes. A write that passes, to a range that the partition may use, changes no other byte of the stack, every byte of it
then reads as sent, it is counted in class B in units of 64 bytes, and SUCCESS is returned with the data in place; a range
that it may no longer use keeps every byte and the refusal is counted (R230). On another channel than VC1 the write is
discarded and counted. WINDOW_WRITE_RECEIVE completes. (R300) -/
def Obligations.WindowWritesPassTheirChecksInOrder : Prop :=
  ∀ (s : State) (m : WinWrite),
    let w := s.dev.window m.windowId.toNat
    let base := 16384 * w.base.toNat + 64 * m.offset.toNat
    let ack := fun (st : Byte) => OutMsg.windowAck m.src m.windowId m.xfer w.epoch st
    ((w.isOpen = false ∨ m.epoch ≠ w.epoch) → Runs (.windowWriteReceive ⟨1, m⟩) s fun d' =>
      d' = (s.dev.count DC.winClosedRx).send (ack St.windowClosed))
    ∧ (w.isOpen = true → m.epoch = w.epoch → m.partition ≠ w.partition → Runs (.windowWriteReceive ⟨1, m⟩) s fun d' =>
        d' = s.dev.send (ack St.notPermitted))
    ∧ (w.isOpen = true → m.epoch = w.epoch → m.partition = w.partition → 64 * m.offset.toNat + m.body.length > 16384 * w.blocks →
        Runs (.windowWriteReceive ⟨1, m⟩) s fun d' => d' = s.dev.send (ack St.fieldInvalid))
    ∧ (w.isOpen = true → m.epoch = w.epoch → m.partition = w.partition → 64 * m.offset.toNat + m.body.length ≤ 16384 * w.blocks →
        s.dev.unitMay w.partition base m.body.length = true → Runs (.windowWriteReceive ⟨1, m⟩) s fun d' => s.dev.only d' [.stack, .host, .obs]
          ∧ d'.host.sent = s.dev.host.sent ++ [ack St.success]
          ∧ d'.counter DC.stackBytesB = s.dev.counter DC.stackBytesB + BitVec.ofNat 64 (ceilDiv m.body.length 64)
          ∧ (∀ x, (∀ i < m.body.length, s.dev.mapAddr (base + i) ≠ x) → d'.byte x = s.dev.byte x)
          ∧ ∀ i (h : i < m.body.length), (∀ j < m.body.length, s.dev.mapAddr (base + j) = s.dev.mapAddr (base + i) → j = i) →
              d'.byte (s.dev.mapAddr (base + i)) = m.body[i])
    ∧ (w.isOpen = true → m.epoch = w.epoch → m.partition = w.partition → 64 * m.offset.toNat + m.body.length ≤ 16384 * w.blocks →
        s.dev.unitMay w.partition base m.body.length = false → Runs (.windowWriteReceive ⟨1, m⟩) s fun d' =>
          (∀ x, d'.byte x = s.dev.byte x) ∧ d'.counter DC.stackViolation = s.dev.counter DC.stackViolation + 1)
    ∧ ∀ vc, vc ≠ 1 → Runs (.windowWriteReceive ⟨vc, m⟩) s fun d' => d' = s.dev.count DC.msgDiscard

/-- Rows of a step on VC0 or VC1 wait in an ingress buffer; a descriptor on VC2 joins the member's queue (of look-ups where it
is one), and a package not in service or not a member ignores it. An acknowledgement, or 10 ms without one, completes
exactly the matching transfers of this package, and the lead of an operator hears of a status other than SUCCESS. A BULK
message on VC1 completes and leaves the reset, power, partition, ledger and security blocks as they were: logits of a row
with a buffer enter it in place of an earlier copy and others wait for one, a replica that fits makes the copy held
invalid and is let in, a chunk of the replica held is given to its owner, a part of a dump joins its watch, a member's
part of a graft that fits is kept as pending and reported, and a commit report notes the member's version. On another
channel each message is counted and discarded. STEP_DATA_RECEIVE, STEP_CTL_RECEIVE, WINDOW_ACK_RECEIVE,
WINDOW_WRITE_TIMEOUT and BULK_RECEIVE complete. (R165, R183, R203, R204, R284, R302, R322, R325, R330, R436, R439) -/
def Obligations.MessagesReachTheirUnit : Prop :=
  ∀ s : State,
    (∀ vc kind p step rows,
      (kind = 0 → (vc = 0 ∨ vc = 1) → Runs (.stepDataReceive vc kind p step rows) s fun d' =>
        d' = { s.dev with link := { s.dev.link with ingress := s.dev.link.ingress ++ [{ partition := p, step := step, vc := vc, rows := rows }] } })
      ∧ ((kind ≠ 0 ∨ vc = 2 ∨ vc = 3) → Runs (.stepDataReceive vc kind p step rows) s fun d' => d' = s.dev.count DC.msgDiscard))
    ∧ (∀ p x, (s.dev.serving = true → s.dev.isMember p = true → Runs (.stepCtlReceive 2 p x) s fun d' =>
          d'.job p = (if x.lookup then { s.dev.job p with lookups := (s.dev.job p).lookups ++ [x] }
            else { s.dev.job p with descs := (s.dev.job p).descs ++ [x] }) ∧ (∀ q, q ≠ p → d'.job q = s.dev.job q)
            ∧ d'.serve.table = s.dev.serve.table ∧ s.dev.only d' [.serve])
        ∧ ((s.dev.serving = false ∨ s.dev.isMember p = false) → exec (.stepCtlReceive 2 p x) s = .next s)
        ∧ ∀ vc, vc ≠ 2 → Runs (.stepCtlReceive vc p x) s fun d' => d' = s.dev.count DC.msgDiscard)
    ∧ (∀ w x epoch st,
        let mine := fun (t : Transfer) => t.xfer = x ∧ t.windowId = w ∧ t.done = none
        ((∃ t ∈ s.dev.link.transfers, mine t) → Runs (.windowAckReceive ⟨2, w⟩ x epoch st) s fun d' => s.dev.only d' [.link, .serve, .host, .obs]
          ∧ ((st = St.success ∨ ∀ t ∈ s.dev.link.transfers, mine t → t.step = none) → s.dev.only d' [.link, .obs])
          ∧ (∀ t ∈ s.dev.link.transfers, mine t → ∀ no, t.step = some no → st ≠ St.success → s.dev.isLead t.partition = false →
              .bulk (.opReport t.partition no [] (some st)) ∈ d'.host.sent)
          ∧ (∀ t ∈ s.dev.link.transfers, mine t → { t with done := some st } ∈ d'.link.transfers)
          ∧ (∀ t ∈ s.dev.link.transfers, ¬ mine t → t ∈ d'.link.transfers)
          ∧ d'.link.transfers.length = s.dev.link.transfers.length
          ∧ d'.counter DC.winClosedTx = s.dev.counter DC.winClosedTx + if st = St.windowClosed then 1 else 0)
        ∧ ((∀ t ∈ s.dev.link.transfers, ¬ mine t) → exec (.windowAckReceive ⟨2, w⟩ x epoch st) s = .next s)
        ∧ ∀ vc, vc ≠ 2 → Runs (.windowAckReceive ⟨vc, w⟩ x epoch st) s fun d' => d' = s.dev.count DC.msgDiscard)
    ∧ (∀ x,
        let late := fun (t : Transfer) => t.xfer = x ∧ t.done = none ∧ 10000000 ≤ s.dev.since t.sentAt
        ((∃ t ∈ s.dev.link.transfers, late t) → Runs (.windowWriteTimeout x) s fun d' => s.dev.only d' [.link, .serve, .host, .obs]
          ∧ ((∀ t ∈ s.dev.link.transfers, late t → t.step = none) → s.dev.only d' [.link, .obs])
          ∧ (∀ t ∈ s.dev.link.transfers, late t → { t with done := some St.windowClosed } ∈ d'.link.transfers)
          ∧ (∀ t ∈ s.dev.link.transfers, ¬ late t → t ∈ d'.link.transfers)
          ∧ d'.counter DC.winTimeout = s.dev.counter DC.winTimeout + 1)
        ∧ ((∀ t ∈ s.dev.link.transfers, ¬ late t) → exec (.windowWriteTimeout x) s = .next s))
    ∧ (∀ vc b, vc ≠ 1 → Runs (.bulkReceive vc b) s fun d' => d' = s.dev.count DC.msgDiscard)
    ∧ (∀ b, Runs (.bulkReceive 1 b) s fun d' => d'.rst = s.dev.rst ∧ d'.power = s.dev.power ∧ d'.part = s.dev.part
        ∧ d'.ledger = s.dev.ledger ∧ d'.sec = s.dev.sec ∧ match b with
        | .logits p h pos first values =>
            let x : LogitPart := { partition := p, handle := h, pos := pos, first := first, values := values }
            s.dev.only d' [.engine]
              ∧ (first + values.length ≤ 262144 → s.dev.hasBuffer x = true → x ∈ d'.engine.logits)
              ∧ (first + values.length ≤ 262144 → s.dev.hasBuffer x = false → x ∈ d'.engine.logitsWait ∧ d'.engine.logits = s.dev.engine.logits)
              ∧ (262144 < first + values.length → d' = s.dev)
        | .replica p _ _ total => s.dev.only d' [.stack, .host]
              ∧ (total ≤ 16384 * (s.dev.kindAt 2).2 → d'.replica p = { s.dev.replica p with heldValid := false, form := [] }
                  ∧ d'.host.sent = s.dev.host.sent ++ [.bulk (.replicaRoom p true)])
              ∧ (16384 * (s.dev.kindAt 2).2 < total → d' = s.dev.send (.bulk (.replicaRoom p false)))
        | .replicaRead p n => (s.dev.replica p).heldValid = true → ∀ x, ((s.dev.replica p).form.find? fun y => y.n == n) = some x →
            s.dev.only d' [.host, .obs] ∧ d'.host.sent = s.dev.host.sent ++ [.bulk (.shardChunk p x)]
        | .bankReport p m active ready => s.dev.only d' [.serve] ∧ (s.dev.memberIndex p ≠ some m →
            SMap.get 0 (d'.job p).versions m = active ∧ SMap.get 0 (d'.job p).loaded m = ready)
        | .opReport .. => s.dev.only d' [.serve]
        | .dump p w x => s.dev.only d' [.obs] ∧ ∀ y, s.dev.watch p w = some y →
            d'.watch p w = some { y with parts := y.parts ++ [x], fired := true, step := s.dev.stepNow p }
        | .graftPart id v n x => s.dev.only d' [.serve, .host] ∧ ∀ p, s.dev.graftOwner id.toNat = some p →
            d'.host.sent = s.dev.host.sent ++ [.bulk (.graftReport id n s.dev.sys.position (s.dev.partStatusOf p x))]
              ∧ (s.dev.partStatusOf p x = 0 → ∃ y ∈ (d'.graft id.toNat).pending, y.ver = v ∧ y.load = n ∧ y.blocks = x.blocks)
        | .commitReport p m v st => st = 0 → s.dev.memberIndex p ≠ some m → s.dev.sys.awaiting = [] → s.dev.sys.primary = false →
            SMap.get 0 (d'.job p).versions m = v ∧ s.dev.only d' [.serve]
        | .replicaHeld p v g => s.dev.only d' [.stack] ∧ ((s.dev.commit p).version = v → (s.dev.commit p).digest = g → (d'.replica p).ownValid = true)
        | _ => True)

/-- Through a function in service, a 4-byte write of a plain set-up register changes its RW bits and no other register; a
member's word is in force at once when no step is in progress and is owed by the jobs in a step otherwise, a lead's word
waits for a lead boundary (log 74). A wrong size or alignment and a function out of service change nothing; the SEC block
counts the refusal; an offset with no register and a QUEUE_RANGE under its lock keep every register. A virtual function's
profile write or read goes to the lead, and a VF offset with no writable register does nothing. A write of a vector's mask
in BAR2 masks that vector and no other (the model's place for BAR2, log 80), and in MODE_ERR BAR2 keeps what it holds
(R241). A 4-byte read of the device time's low word latches its high word. A remote access travels where GLOBAL_TARGET
names another package; with no reply a read gives 0 and ERR is set. A host write of GLOBAL_LOCK sets the bits named and
never the STACK bit. A write that sets GO of LEDGER_CROCUS submits the pack. REGISTER_WRITE, WIDE_REGISTER_READ,
REMOTE_REGISTER_ACCESS and SET_LOCK complete. (R13, R14, R238, R271, R386, R398, R441, R442, R443, R444, R446, R447) -/
def Obligations.RegistersKeepTheirRules : Prop :=
  ∀ s : State,
    (∀ (o : Nat) (v : U64), s.dev.bar 0 = true →
        o ∈ [Off.arith, Off.restore, Off.cal, Off.qual, Off.reqCtl, Off.lupinKv, Off.therm, Off.logIdx] → ∀ pack,
        let new := (s.dev.reg o &&& ~~~(regMask o)) ||| (v.extractLsb' 0 32 &&& regMask o)
        Runs (.registerWrite 0 o 4 ⟨v, pack⟩) s fun d' => s.dev.only d' [.glob] ∧ d'.reg o = new
          ∧ (∀ x, x / 4 ≠ o / 4 → d'.reg x = s.dev.reg x ∧ d'.regIn x = s.dev.regIn x)
          ∧ (s.dev.busy = false → o ≠ Off.reqCtl → d'.regIn o = new) ∧ (s.dev.freeFor o = false → d'.regIn o = s.dev.regIn o)
          ∧ (s.dev.busy = true → regAtMember o = some none → ∀ p ∈ s.dev.busyJobs, p ∈ d'.glob.regsOwed))
    ∧ (∀ fn o n v, s.dev.bar fn = false → exec (.registerWrite fn o n v) s = .next s)
    ∧ (∀ o < bar2Base 0, ∀ n v, s.dev.bar 0 = true → accessOk o n = false → exec (.registerWrite 0 o n v) s = .next s)
    ∧ (∀ o n v, s.dev.bar 0 = true → accessOk o n = true → secOffset o = true →
        Runs (.registerWrite 0 o n v) s fun d' => d' = s.dev.count DC.secRegRefused)
    ∧ (∀ o v pack reply, s.dev.bar 0 = true → 0x2200000 ≤ o → o < 0x4000000 → o % 4 = 0 →
        (Runs (.registerWrite 0 o 4 ⟨v, pack⟩) s fun d' => s.dev.only d' [.glob] ∧ ∀ x, d'.reg x = s.dev.reg x)
        ∧ Runs (.wideRegisterRead ⟨0, o, 4, reply⟩) s fun d' => d' = s.dev.answer (.word 0))
    ∧ (∀ p < 64, ∀ v, s.dev.bar 0 = true → s.dev.glob.locks.getLsbD 1 = true → Runs (.registerWrite 0 (Off.queueRange p) 4 v) s fun d' =>
        s.dev.only d' [.glob] ∧ ∀ x, d'.reg x = s.dev.reg x)
    ∧ (∀ n < 64, ∀ i < 256, ∀ v pack reply, s.dev.bar (n + 1) = true → s.dev.isLead n = false →
        let lead := BitVec.ofNat 8 ((s.dev.members n).headD 0)
        (Runs (.registerWrite (n + 1) (0x40000 + 8 * i) 8 ⟨v, pack⟩) s fun d' => d' = s.dev.send (.registerAccess lead (Off.foxProfile n i) (some v)))
        ∧ Runs (.wideRegisterRead ⟨n + 1, 0x40000 + 8 * i, 8, reply⟩) s fun d' =>
            d' = (s.dev.send (.registerAccess lead (Off.foxProfile n i) none)).answer (.word (reply.getD 0)))
    ∧ (∀ n < 64, ∀ o < 0x100000, ∀ k v, vfOffset n o = none → exec (.registerWrite (n + 1) o k v) s = .next s)
    ∧ (∀ k < 2048, s.dev.bar 0 = true → s.dev.glob.modeErr = false → Runs (.registerWrite 0 (bar2Base 0 + 16 * k + 12) 4 ⟨1, none⟩) s fun d' => s.dev.only d' [.host]
        ∧ (d'.fn 0).masked k = true ∧ (∀ j < 2048, j ≠ k → (d'.fn 0).masked j = (s.dev.fn 0).masked j) ∧ d'.host.writes = s.dev.host.writes)
    ∧ (∀ fn o n v, s.dev.glob.modeErr = true → bar2Base fn ≤ o → exec (.registerWrite fn o n v) s = .next s)
    ∧ (∀ reply, s.dev.bar 0 = true → Runs (.wideRegisterRead ⟨0, 0x10000, 4, reply⟩) s fun d' => s.dev.only d' [.glob, .host]
        ∧ d'.host.replies = s.dev.host.replies ++ [.word ((wordAt s.dev.now 0).setWidth 64)]
        ∧ (d'.readWord 0 0x10004).1 = wordAt s.dev.now 1 ∧ d'.glob.regs = s.dev.glob.regs)
    ∧ (∀ fn o k reply, s.dev.bar fn = false → Runs (.wideRegisterRead ⟨fn, o, k, reply⟩) s fun d' => d' = s.dev.answer (.word 0))
    ∧ (∀ o n w reply, s.dev.bar 0 = true → targetBlock o = true → s.dev.targetSelf = false →
        Runs (.remoteRegisterAccess o n w reply) s fun d' => s.dev.only d' [.glob, .host]
          ∧ d'.host.sent = s.dev.host.sent ++ [.registerAccess ((s.dev.reg Off.globalTarget).extractLsb' 0 8) o (w.map RegData.value)]
          ∧ d'.glob = { s.dev.glob with targetErr := s.dev.glob.targetErr || reply.isNone }
          ∧ d'.host.replies = s.dev.host.replies ++ (match w with | none => [.word (reply.getD 0)] | some _ => []))
    ∧ (∀ o n reply, s.dev.bar 0 = false → Runs (.remoteRegisterAccess o n none reply) s fun d' => d' = s.dev.answer (.word 0))
    ∧ (∀ v : U64, s.dev.bar 0 = true → s.dev.sys.primary = true → s.dev.ledger.crocusState ≠ 1 → v.getLsbD 31 = true →
        Runs (.registerWrite 0 (Off.crocus + 12) 4 ⟨v, none⟩) s fun d' => s.dev.only d' [.glob, .ledger] ∧ d'.ledger.crocusState = 3)
    ∧ (∀ mask : BitVec 9, s.dev.bar 0 = true → Runs (.setLock mask) s fun d' => s.dev.only d' [.glob]
        ∧ d'.glob.locks.getLsbD 2 = s.dev.glob.locks.getLsbD 2
        ∧ ∀ k < 9, k ≠ 2 → d'.glob.locks.getLsbD k = (s.dev.glob.locks.getLsbD k || mask.getLsbD k))
end

