-- ==== Sys2Proof/Laws/Maps.lean ====
section
/-! SUPPORT. Sparse data and stack memory: a read after a write, and every write keeps the canonical form. -/

namespace Sys2Proof.Machine

variable {α : Type}

theorem SMap.get_insert (z : α) (m : SMap α) (k j : Nat) (v : α) (h : ∀ e ∈ m, e.1 ≠ k) :
    SMap.get z (SMap.insert m k v) j = if j = k then v else SMap.get z m j := by
  induction m with
  | nil => simp only [SMap.insert, SMap.get]; grind
  | cons e m ih =>
    obtain ⟨i, w⟩ := e
    have hi : i ≠ k := h (i, w) (by simp)
    have ih := ih fun e he => h e (by simp [he])
    unfold SMap.insert
    split
    · simp only [SMap.get]; grind
    · by_cases hj : i = j
      · subst hj; simp [SMap.get, hi]
      · simp [SMap.get, hj, ih]

theorem SMap.get_filter (z : α) (m : SMap α) (p : Nat → Bool) (k : Nat) :
    SMap.get z (m.filter fun e => p e.1) k = if p k then SMap.get z m k else z := by
  induction m with
  | nil => simp [SMap.get]
  | cons e m ih =>
    obtain ⟨j, w⟩ := e
    by_cases hp : p j <;> by_cases hj : j = k
    · subst hj; simp [List.filter, hp, SMap.get]
    · simp [List.filter, hp, SMap.get, hj, ih]
    · subst hj; simp [List.filter, hp, ih]
    · simp [List.filter, hp, ih, SMap.get, hj]

/-- A read after a write. -/
theorem SMap.get_put [DecidableEq α] (z : α) (m : SMap α) (k j : Nat) (v : α) :
    SMap.get z (SMap.put z m k v) j = if j = k then v else SMap.get z m j := by
  unfold SMap.put
  have f : SMap.get z (m.filter fun e => e.1 != k) j = if j = k then z else SMap.get z m j := by
    rw [SMap.get_filter z m (fun i => i != k) j]
    by_cases hj : j = k <;> simp [hj]
  split
  · next hv => rw [f]; split <;> simp [hv]
  · rw [SMap.get_insert]
    · split
      · rfl
      · rw [f]; simp [*]
    · intro e he
      simpa using (List.mem_filter.mp he).2

@[simp] theorem SMap.get_put_same [DecidableEq α] (z : α) (m : SMap α) (k : Nat) (v : α) :
    SMap.get z (SMap.put z m k v) k = v := by simp [SMap.get_put]

theorem SMap.get_put_ne [DecidableEq α] (z : α) (m : SMap α) {k j : Nat} (v : α) (h : j ≠ k) :
    SMap.get z (SMap.put z m k v) j = SMap.get z m j := by simp [SMap.get_put, h]

theorem SMap.wfFrom_le [DecidableEq α] (z : α) {lo lo' : Nat} (m : SMap α) (h : SMap.wfFrom z lo m = true) (l : lo' ≤ lo) :
    SMap.wfFrom z lo' m = true := by
  cases m with
  | nil => rfl
  | cons e m =>
    obtain ⟨j, w⟩ := e
    simp only [SMap.wfFrom, Bool.and_eq_true, decide_eq_true_eq] at h ⊢
    exact ⟨⟨by omega, h.1.2⟩, h.2⟩

theorem SMap.wfFrom_filter [DecidableEq α] (z : α) (lo : Nat) (m : SMap α) (p : Nat × α → Bool)
    (h : SMap.wfFrom z lo m = true) : SMap.wfFrom z lo (m.filter p) = true := by
  induction m generalizing lo with
  | nil => rfl
  | cons e m ih =>
    obtain ⟨j, w⟩ := e
    simp only [SMap.wfFrom, Bool.and_eq_true, decide_eq_true_eq] at h
    by_cases hp : p (j, w)
    · simp only [List.filter, hp, SMap.wfFrom, Bool.and_eq_true, decide_eq_true_eq]
      exact ⟨h.1, ih _ h.2⟩
    · simp only [List.filter, hp]
      exact SMap.wfFrom_le z _ (ih _ h.2) (by omega)

theorem SMap.wfFrom_insert [DecidableEq α] (z : α) (lo : Nat) (m : SMap α) (k : Nat) (v : α) (hv : v ≠ z) (hk : lo ≤ k)
    (hm : ∀ e ∈ m, e.1 ≠ k) (h : SMap.wfFrom z lo m = true) : SMap.wfFrom z lo (SMap.insert m k v) = true := by
  induction m generalizing lo with
  | nil => simp [SMap.insert, SMap.wfFrom, hv, hk]
  | cons e m ih =>
    obtain ⟨j, w⟩ := e
    have hj : j ≠ k := hm (j, w) (by simp)
    simp only [SMap.wfFrom, Bool.and_eq_true, decide_eq_true_eq] at h
    unfold SMap.insert
    split
    · simp only [SMap.wfFrom, Bool.and_eq_true, decide_eq_true_eq]
      exact ⟨⟨hk, hv⟩, ⟨by omega, h.1.2⟩, h.2⟩
    · simp only [SMap.wfFrom, Bool.and_eq_true, decide_eq_true_eq]
      exact ⟨h.1, ih _ (by omega) (fun e he => hm e (by simp [he])) h.2⟩

/-- A write keeps the canonical form. -/
theorem SMap.wf_put [DecidableEq α] (z : α) (m : SMap α) (k : Nat) (v : α) (h : SMap.wf z m = true) :
    SMap.wf z (SMap.put z m k v) = true := by
  unfold SMap.put
  split
  · exact SMap.wfFrom_filter z 0 m _ h
  · next hv =>
    refine SMap.wfFrom_insert z 0 _ k v hv (by omega) ?_ (SMap.wfFrom_filter z 0 m _ h)
    intro e he
    simpa using (List.mem_filter.mp he).2

theorem SMap.wf_keep [DecidableEq α] (z : α) (m : SMap α) (p : Nat → Bool) (h : SMap.wf z m = true) :
    SMap.wf z (SMap.keep p m) = true := SMap.wfFrom_filter z 0 m _ h

theorem SMap.get_keep (z : α) (m : SMap α) (p : Nat → Bool) (k : Nat) :
    SMap.get z (SMap.keep p m) k = if p k then SMap.get z m k else z := SMap.get_filter z m p k

/-! ### Stack memory -/

theorem Memory.write_wf (m : List Host.Cell) (a : Nat) (b : Byte) (h : Memory.wf m = true) : Memory.wf (Memory.write m a b) = true :=
  SMap.wf_put 0 m a b h

theorem Memory.writes_wf (m : List Host.Cell) (a : Nat) (bs : List Byte) (h : Memory.wf m = true) :
    Memory.wf (Memory.writes m a bs) = true := by
  induction bs generalizing m a with
  | nil => exact h
  | cons b bs ih => exact ih _ _ (Memory.write_wf m a b h)

theorem Memory.zero_wf (m : List Host.Cell) (a n : Nat) (h : Memory.wf m = true) : Memory.wf (Memory.zero m a n) = true :=
  SMap.wf_keep 0 m _ h

/-- One byte read after one byte written. -/
theorem Memory.read_write (m : List Host.Cell) (a x : Nat) (b : Byte) :
    Memory.read (Memory.write m a b) x = if x = a then b else Memory.read m x := SMap.get_put 0 m a x b

/-- A byte outside the bytes written reads as before. -/
theorem Memory.read_writes_outside (m : List Host.Cell) (a x : Nat) (bs : List Byte) (h : x < a ∨ a + bs.length ≤ x) :
    Memory.read (Memory.writes m a bs) x = Memory.read m x := by
  induction bs generalizing m a with
  | nil => rfl
  | cons b bs ih =>
    simp only [List.length_cons] at h
    rw [Memory.writes, ih _ _ (by omega), Memory.read_write, if_neg (by omega)]

/-- A byte written reads back. -/
theorem Memory.read_writes_inside (m : List Host.Cell) (a i : Nat) (bs : List Byte) (h : i < bs.length) :
    Memory.read (Memory.writes m a bs) (a + i) = bs[i] := by
  induction bs generalizing m a i with
  | nil => simp at h
  | cons b bs ih =>
    rw [Memory.writes]
    cases i with
    | zero => rw [Memory.read_writes_outside _ _ _ _ (by omega), Memory.read_write]; simp
    | succ i =>
      have := ih (Memory.write m a b) (a + 1) i (by simpa using h)
      rw [show a + (i + 1) = a + 1 + i by omega, this]; simp

/-- Bytes zeroed read 0, and the others read as before. -/
theorem Memory.read_zero (m : List Host.Cell) (a n x : Nat) :
    Memory.read (Memory.zero m a n) x = if a ≤ x ∧ x < a + n then 0 else Memory.read m x := by
  unfold Memory.read Memory.zero
  rw [SMap.get_keep]
  by_cases h1 : a ≤ x <;> by_cases h2 : x < a + n <;> simp [h1, h2]

end Sys2Proof.Machine
end

