-- ==== Sys2Proof/Laws/State.lean ====
section
/-! SUPPORT. What each update of the package leaves as it was, block by block, and what a table reads after its entry is set. -/

namespace Sys2Proof.Machine

@[simp] theorem Dev.count_rst (d : Dev) (n : Nat) (k : Nat) : (d.count n k).rst = d.rst := rfl
@[simp] theorem Dev.count_glob (d : Dev) (n : Nat) (k : Nat) : (d.count n k).glob = d.glob := rfl
@[simp] theorem Dev.count_sys (d : Dev) (n : Nat) (k : Nat) : (d.count n k).sys = d.sys := rfl
@[simp] theorem Dev.count_link (d : Dev) (n : Nat) (k : Nat) : (d.count n k).link = d.link := rfl
@[simp] theorem Dev.count_host (d : Dev) (n : Nat) (k : Nat) : (d.count n k).host = d.host := rfl
@[simp] theorem Dev.count_serve (d : Dev) (n : Nat) (k : Nat) : (d.count n k).serve = d.serve := rfl
@[simp] theorem Dev.count_array (d : Dev) (n : Nat) (k : Nat) : (d.count n k).array = d.array := rfl
@[simp] theorem Dev.count_engine (d : Dev) (n : Nat) (k : Nat) : (d.count n k).engine = d.engine := rfl
@[simp] theorem Dev.count_stack (d : Dev) (n : Nat) (k : Nat) : (d.count n k).stack = d.stack := rfl
@[simp] theorem Dev.count_power (d : Dev) (n : Nat) (k : Nat) : (d.count n k).power = d.power := rfl
@[simp] theorem Dev.count_part (d : Dev) (n : Nat) (k : Nat) : (d.count n k).part = d.part := rfl
@[simp] theorem Dev.count_ledger (d : Dev) (n : Nat) (k : Nat) : (d.count n k).ledger = d.ledger := rfl
@[simp] theorem Dev.count_sec (d : Dev) (n : Nat) (k : Nat) : (d.count n k).sec = d.sec := rfl
@[simp] theorem Dev.count_fresh (d : Dev) (n : Nat) (k : Nat) : (d.count n k).fresh = d.fresh := rfl

@[simp] theorem Dev.countC_rst (d : Dev) (c n : Nat) (k : Nat) : (d.countC c n k).rst = d.rst := rfl
@[simp] theorem Dev.countC_glob (d : Dev) (c n : Nat) (k : Nat) : (d.countC c n k).glob = d.glob := rfl
@[simp] theorem Dev.countC_sys (d : Dev) (c n : Nat) (k : Nat) : (d.countC c n k).sys = d.sys := rfl
@[simp] theorem Dev.countC_link (d : Dev) (c n : Nat) (k : Nat) : (d.countC c n k).link = d.link := rfl
@[simp] theorem Dev.countC_host (d : Dev) (c n : Nat) (k : Nat) : (d.countC c n k).host = d.host := rfl
@[simp] theorem Dev.countC_serve (d : Dev) (c n : Nat) (k : Nat) : (d.countC c n k).serve = d.serve := rfl
@[simp] theorem Dev.countC_array (d : Dev) (c n : Nat) (k : Nat) : (d.countC c n k).array = d.array := rfl
@[simp] theorem Dev.countC_engine (d : Dev) (c n : Nat) (k : Nat) : (d.countC c n k).engine = d.engine := rfl
@[simp] theorem Dev.countC_stack (d : Dev) (c n : Nat) (k : Nat) : (d.countC c n k).stack = d.stack := rfl
@[simp] theorem Dev.countC_power (d : Dev) (c n : Nat) (k : Nat) : (d.countC c n k).power = d.power := rfl
@[simp] theorem Dev.countC_part (d : Dev) (c n : Nat) (k : Nat) : (d.countC c n k).part = d.part := rfl
@[simp] theorem Dev.countC_ledger (d : Dev) (c n : Nat) (k : Nat) : (d.countC c n k).ledger = d.ledger := rfl
@[simp] theorem Dev.countC_sec (d : Dev) (c n : Nat) (k : Nat) : (d.countC c n k).sec = d.sec := rfl
@[simp] theorem Dev.countC_fresh (d : Dev) (c n : Nat) (k : Nat) : (d.countC c n k).fresh = d.fresh := rfl

@[simp] theorem Dev.post_rst (d : Dev) (w : HostWrite) : (d.post w).rst = d.rst := rfl
@[simp] theorem Dev.post_glob (d : Dev) (w : HostWrite) : (d.post w).glob = d.glob := rfl
@[simp] theorem Dev.post_sys (d : Dev) (w : HostWrite) : (d.post w).sys = d.sys := rfl
@[simp] theorem Dev.post_link (d : Dev) (w : HostWrite) : (d.post w).link = d.link := rfl
@[simp] theorem Dev.post_serve (d : Dev) (w : HostWrite) : (d.post w).serve = d.serve := rfl
@[simp] theorem Dev.post_array (d : Dev) (w : HostWrite) : (d.post w).array = d.array := rfl
@[simp] theorem Dev.post_engine (d : Dev) (w : HostWrite) : (d.post w).engine = d.engine := rfl
@[simp] theorem Dev.post_stack (d : Dev) (w : HostWrite) : (d.post w).stack = d.stack := rfl
@[simp] theorem Dev.post_power (d : Dev) (w : HostWrite) : (d.post w).power = d.power := rfl
@[simp] theorem Dev.post_part (d : Dev) (w : HostWrite) : (d.post w).part = d.part := rfl
@[simp] theorem Dev.post_ledger (d : Dev) (w : HostWrite) : (d.post w).ledger = d.ledger := rfl
@[simp] theorem Dev.post_sec (d : Dev) (w : HostWrite) : (d.post w).sec = d.sec := rfl
@[simp] theorem Dev.post_obs (d : Dev) (w : HostWrite) : (d.post w).obs = d.obs := rfl
@[simp] theorem Dev.post_fresh (d : Dev) (w : HostWrite) : (d.post w).fresh = d.fresh := rfl

@[simp] theorem Dev.answer_rst (d : Dev) (r : Reply) : (d.answer r).rst = d.rst := rfl
@[simp] theorem Dev.answer_glob (d : Dev) (r : Reply) : (d.answer r).glob = d.glob := rfl
@[simp] theorem Dev.answer_sys (d : Dev) (r : Reply) : (d.answer r).sys = d.sys := rfl
@[simp] theorem Dev.answer_link (d : Dev) (r : Reply) : (d.answer r).link = d.link := rfl
@[simp] theorem Dev.answer_serve (d : Dev) (r : Reply) : (d.answer r).serve = d.serve := rfl
@[simp] theorem Dev.answer_array (d : Dev) (r : Reply) : (d.answer r).array = d.array := rfl
@[simp] theorem Dev.answer_engine (d : Dev) (r : Reply) : (d.answer r).engine = d.engine := rfl
@[simp] theorem Dev.answer_stack (d : Dev) (r : Reply) : (d.answer r).stack = d.stack := rfl
@[simp] theorem Dev.answer_power (d : Dev) (r : Reply) : (d.answer r).power = d.power := rfl
@[simp] theorem Dev.answer_part (d : Dev) (r : Reply) : (d.answer r).part = d.part := rfl
@[simp] theorem Dev.answer_ledger (d : Dev) (r : Reply) : (d.answer r).ledger = d.ledger := rfl
@[simp] theorem Dev.answer_sec (d : Dev) (r : Reply) : (d.answer r).sec = d.sec := rfl
@[simp] theorem Dev.answer_obs (d : Dev) (r : Reply) : (d.answer r).obs = d.obs := rfl
@[simp] theorem Dev.answer_fresh (d : Dev) (r : Reply) : (d.answer r).fresh = d.fresh := rfl

@[simp] theorem Dev.send_rst (d : Dev) (m : OutMsg) : (d.send m).rst = d.rst := rfl
@[simp] theorem Dev.send_glob (d : Dev) (m : OutMsg) : (d.send m).glob = d.glob := rfl
@[simp] theorem Dev.send_sys (d : Dev) (m : OutMsg) : (d.send m).sys = d.sys := rfl
@[simp] theorem Dev.send_link (d : Dev) (m : OutMsg) : (d.send m).link = d.link := rfl
@[simp] theorem Dev.send_serve (d : Dev) (m : OutMsg) : (d.send m).serve = d.serve := rfl
@[simp] theorem Dev.send_array (d : Dev) (m : OutMsg) : (d.send m).array = d.array := rfl
@[simp] theorem Dev.send_engine (d : Dev) (m : OutMsg) : (d.send m).engine = d.engine := rfl
@[simp] theorem Dev.send_stack (d : Dev) (m : OutMsg) : (d.send m).stack = d.stack := rfl
@[simp] theorem Dev.send_power (d : Dev) (m : OutMsg) : (d.send m).power = d.power := rfl
@[simp] theorem Dev.send_part (d : Dev) (m : OutMsg) : (d.send m).part = d.part := rfl
@[simp] theorem Dev.send_ledger (d : Dev) (m : OutMsg) : (d.send m).ledger = d.ledger := rfl
@[simp] theorem Dev.send_sec (d : Dev) (m : OutMsg) : (d.send m).sec = d.sec := rfl
@[simp] theorem Dev.send_obs (d : Dev) (m : OutMsg) : (d.send m).obs = d.obs := rfl
@[simp] theorem Dev.send_fresh (d : Dev) (m : OutMsg) : (d.send m).fresh = d.fresh := rfl

@[simp] theorem Dev.draw_rst (d : Dev) : (d.draw).rst = d.rst := rfl
@[simp] theorem Dev.draw_glob (d : Dev) : (d.draw).glob = d.glob := rfl
@[simp] theorem Dev.draw_sys (d : Dev) : (d.draw).sys = d.sys := rfl
@[simp] theorem Dev.draw_link (d : Dev) : (d.draw).link = d.link := rfl
@[simp] theorem Dev.draw_host (d : Dev) : (d.draw).host = d.host := rfl
@[simp] theorem Dev.draw_serve (d : Dev) : (d.draw).serve = d.serve := rfl
@[simp] theorem Dev.draw_array (d : Dev) : (d.draw).array = d.array := rfl
@[simp] theorem Dev.draw_engine (d : Dev) : (d.draw).engine = d.engine := rfl
@[simp] theorem Dev.draw_stack (d : Dev) : (d.draw).stack = d.stack := rfl
@[simp] theorem Dev.draw_power (d : Dev) : (d.draw).power = d.power := rfl
@[simp] theorem Dev.draw_part (d : Dev) : (d.draw).part = d.part := rfl
@[simp] theorem Dev.draw_ledger (d : Dev) : (d.draw).ledger = d.ledger := rfl
@[simp] theorem Dev.draw_sec (d : Dev) : (d.draw).sec = d.sec := rfl
@[simp] theorem Dev.draw_obs (d : Dev) : (d.draw).obs = d.obs := rfl

@[simp] theorem Dev.setTile_rst (d : Dev) (k : Nat) (t : Tile) : (d.setTile k t).rst = d.rst := rfl
@[simp] theorem Dev.setTile_glob (d : Dev) (k : Nat) (t : Tile) : (d.setTile k t).glob = d.glob := rfl
@[simp] theorem Dev.setTile_sys (d : Dev) (k : Nat) (t : Tile) : (d.setTile k t).sys = d.sys := rfl
@[simp] theorem Dev.setTile_link (d : Dev) (k : Nat) (t : Tile) : (d.setTile k t).link = d.link := rfl
@[simp] theorem Dev.setTile_host (d : Dev) (k : Nat) (t : Tile) : (d.setTile k t).host = d.host := rfl
@[simp] theorem Dev.setTile_serve (d : Dev) (k : Nat) (t : Tile) : (d.setTile k t).serve = d.serve := rfl
@[simp] theorem Dev.setTile_engine (d : Dev) (k : Nat) (t : Tile) : (d.setTile k t).engine = d.engine := rfl
@[simp] theorem Dev.setTile_stack (d : Dev) (k : Nat) (t : Tile) : (d.setTile k t).stack = d.stack := rfl
@[simp] theorem Dev.setTile_power (d : Dev) (k : Nat) (t : Tile) : (d.setTile k t).power = d.power := rfl
@[simp] theorem Dev.setTile_part (d : Dev) (k : Nat) (t : Tile) : (d.setTile k t).part = d.part := rfl
@[simp] theorem Dev.setTile_ledger (d : Dev) (k : Nat) (t : Tile) : (d.setTile k t).ledger = d.ledger := rfl
@[simp] theorem Dev.setTile_sec (d : Dev) (k : Nat) (t : Tile) : (d.setTile k t).sec = d.sec := rfl
@[simp] theorem Dev.setTile_obs (d : Dev) (k : Nat) (t : Tile) : (d.setTile k t).obs = d.obs := rfl
@[simp] theorem Dev.setTile_fresh (d : Dev) (k : Nat) (t : Tile) : (d.setTile k t).fresh = d.fresh := rfl

@[simp] theorem Dev.updTable_rst (d : Dev) (lt : Nat) (f : CorrTab → CorrTab) : (d.updTable lt f).rst = d.rst := rfl
@[simp] theorem Dev.updTable_glob (d : Dev) (lt : Nat) (f : CorrTab → CorrTab) : (d.updTable lt f).glob = d.glob := rfl
@[simp] theorem Dev.updTable_sys (d : Dev) (lt : Nat) (f : CorrTab → CorrTab) : (d.updTable lt f).sys = d.sys := rfl
@[simp] theorem Dev.updTable_link (d : Dev) (lt : Nat) (f : CorrTab → CorrTab) : (d.updTable lt f).link = d.link := rfl
@[simp] theorem Dev.updTable_host (d : Dev) (lt : Nat) (f : CorrTab → CorrTab) : (d.updTable lt f).host = d.host := rfl
@[simp] theorem Dev.updTable_serve (d : Dev) (lt : Nat) (f : CorrTab → CorrTab) : (d.updTable lt f).serve = d.serve := rfl
@[simp] theorem Dev.updTable_engine (d : Dev) (lt : Nat) (f : CorrTab → CorrTab) : (d.updTable lt f).engine = d.engine := rfl
@[simp] theorem Dev.updTable_stack (d : Dev) (lt : Nat) (f : CorrTab → CorrTab) : (d.updTable lt f).stack = d.stack := rfl
@[simp] theorem Dev.updTable_power (d : Dev) (lt : Nat) (f : CorrTab → CorrTab) : (d.updTable lt f).power = d.power := rfl
@[simp] theorem Dev.updTable_part (d : Dev) (lt : Nat) (f : CorrTab → CorrTab) : (d.updTable lt f).part = d.part := rfl
@[simp] theorem Dev.updTable_ledger (d : Dev) (lt : Nat) (f : CorrTab → CorrTab) : (d.updTable lt f).ledger = d.ledger := rfl
@[simp] theorem Dev.updTable_sec (d : Dev) (lt : Nat) (f : CorrTab → CorrTab) : (d.updTable lt f).sec = d.sec := rfl
@[simp] theorem Dev.updTable_obs (d : Dev) (lt : Nat) (f : CorrTab → CorrTab) : (d.updTable lt f).obs = d.obs := rfl
@[simp] theorem Dev.updTable_fresh (d : Dev) (lt : Nat) (f : CorrTab → CorrTab) : (d.updTable lt f).fresh = d.fresh := rfl

@[simp] theorem Dev.setCluster_rst (d : Dev) (c : Nat) (x : Cluster) : (d.setCluster c x).rst = d.rst := rfl
@[simp] theorem Dev.setCluster_glob (d : Dev) (c : Nat) (x : Cluster) : (d.setCluster c x).glob = d.glob := rfl
@[simp] theorem Dev.setCluster_sys (d : Dev) (c : Nat) (x : Cluster) : (d.setCluster c x).sys = d.sys := rfl
@[simp] theorem Dev.setCluster_link (d : Dev) (c : Nat) (x : Cluster) : (d.setCluster c x).link = d.link := rfl
@[simp] theorem Dev.setCluster_host (d : Dev) (c : Nat) (x : Cluster) : (d.setCluster c x).host = d.host := rfl
@[simp] theorem Dev.setCluster_serve (d : Dev) (c : Nat) (x : Cluster) : (d.setCluster c x).serve = d.serve := rfl
@[simp] theorem Dev.setCluster_engine (d : Dev) (c : Nat) (x : Cluster) : (d.setCluster c x).engine = d.engine := rfl
@[simp] theorem Dev.setCluster_stack (d : Dev) (c : Nat) (x : Cluster) : (d.setCluster c x).stack = d.stack := rfl
@[simp] theorem Dev.setCluster_power (d : Dev) (c : Nat) (x : Cluster) : (d.setCluster c x).power = d.power := rfl
@[simp] theorem Dev.setCluster_part (d : Dev) (c : Nat) (x : Cluster) : (d.setCluster c x).part = d.part := rfl
@[simp] theorem Dev.setCluster_ledger (d : Dev) (c : Nat) (x : Cluster) : (d.setCluster c x).ledger = d.ledger := rfl
@[simp] theorem Dev.setCluster_sec (d : Dev) (c : Nat) (x : Cluster) : (d.setCluster c x).sec = d.sec := rfl
@[simp] theorem Dev.setCluster_obs (d : Dev) (c : Nat) (x : Cluster) : (d.setCluster c x).obs = d.obs := rfl
@[simp] theorem Dev.setCluster_fresh (d : Dev) (c : Nat) (x : Cluster) : (d.setCluster c x).fresh = d.fresh := rfl

@[simp] theorem Dev.setJob_rst (d : Dev) (p : Nat) (j : Job) : (d.setJob p j).rst = d.rst := rfl
@[simp] theorem Dev.setJob_glob (d : Dev) (p : Nat) (j : Job) : (d.setJob p j).glob = d.glob := rfl
@[simp] theorem Dev.setJob_sys (d : Dev) (p : Nat) (j : Job) : (d.setJob p j).sys = d.sys := rfl
@[simp] theorem Dev.setJob_link (d : Dev) (p : Nat) (j : Job) : (d.setJob p j).link = d.link := rfl
@[simp] theorem Dev.setJob_host (d : Dev) (p : Nat) (j : Job) : (d.setJob p j).host = d.host := rfl
@[simp] theorem Dev.setJob_array (d : Dev) (p : Nat) (j : Job) : (d.setJob p j).array = d.array := rfl
@[simp] theorem Dev.setJob_engine (d : Dev) (p : Nat) (j : Job) : (d.setJob p j).engine = d.engine := rfl
@[simp] theorem Dev.setJob_stack (d : Dev) (p : Nat) (j : Job) : (d.setJob p j).stack = d.stack := rfl
@[simp] theorem Dev.setJob_power (d : Dev) (p : Nat) (j : Job) : (d.setJob p j).power = d.power := rfl
@[simp] theorem Dev.setJob_part (d : Dev) (p : Nat) (j : Job) : (d.setJob p j).part = d.part := rfl
@[simp] theorem Dev.setJob_ledger (d : Dev) (p : Nat) (j : Job) : (d.setJob p j).ledger = d.ledger := rfl
@[simp] theorem Dev.setJob_sec (d : Dev) (p : Nat) (j : Job) : (d.setJob p j).sec = d.sec := rfl
@[simp] theorem Dev.setJob_obs (d : Dev) (p : Nat) (j : Job) : (d.setJob p j).obs = d.obs := rfl
@[simp] theorem Dev.setJob_fresh (d : Dev) (p : Nat) (j : Job) : (d.setJob p j).fresh = d.fresh := rfl

@[simp] theorem Dev.setReq_rst (d : Dev) (slot : Nat) (r : ReqEntry) : (d.setReq slot r).rst = d.rst := rfl
@[simp] theorem Dev.setReq_glob (d : Dev) (slot : Nat) (r : ReqEntry) : (d.setReq slot r).glob = d.glob := rfl
@[simp] theorem Dev.setReq_sys (d : Dev) (slot : Nat) (r : ReqEntry) : (d.setReq slot r).sys = d.sys := rfl
@[simp] theorem Dev.setReq_link (d : Dev) (slot : Nat) (r : ReqEntry) : (d.setReq slot r).link = d.link := rfl
@[simp] theorem Dev.setReq_host (d : Dev) (slot : Nat) (r : ReqEntry) : (d.setReq slot r).host = d.host := rfl
@[simp] theorem Dev.setReq_array (d : Dev) (slot : Nat) (r : ReqEntry) : (d.setReq slot r).array = d.array := rfl
@[simp] theorem Dev.setReq_engine (d : Dev) (slot : Nat) (r : ReqEntry) : (d.setReq slot r).engine = d.engine := rfl
@[simp] theorem Dev.setReq_stack (d : Dev) (slot : Nat) (r : ReqEntry) : (d.setReq slot r).stack = d.stack := rfl
@[simp] theorem Dev.setReq_power (d : Dev) (slot : Nat) (r : ReqEntry) : (d.setReq slot r).power = d.power := rfl
@[simp] theorem Dev.setReq_part (d : Dev) (slot : Nat) (r : ReqEntry) : (d.setReq slot r).part = d.part := rfl
@[simp] theorem Dev.setReq_ledger (d : Dev) (slot : Nat) (r : ReqEntry) : (d.setReq slot r).ledger = d.ledger := rfl
@[simp] theorem Dev.setReq_sec (d : Dev) (slot : Nat) (r : ReqEntry) : (d.setReq slot r).sec = d.sec := rfl
@[simp] theorem Dev.setReq_obs (d : Dev) (slot : Nat) (r : ReqEntry) : (d.setReq slot r).obs = d.obs := rfl
@[simp] theorem Dev.setReq_fresh (d : Dev) (slot : Nat) (r : ReqEntry) : (d.setReq slot r).fresh = d.fresh := rfl

@[simp] theorem Dev.setKv_rst (d : Dev) (slot : Nat) (v : KvSeq) : (d.setKv slot v).rst = d.rst := rfl
@[simp] theorem Dev.setKv_glob (d : Dev) (slot : Nat) (v : KvSeq) : (d.setKv slot v).glob = d.glob := rfl
@[simp] theorem Dev.setKv_sys (d : Dev) (slot : Nat) (v : KvSeq) : (d.setKv slot v).sys = d.sys := rfl
@[simp] theorem Dev.setKv_link (d : Dev) (slot : Nat) (v : KvSeq) : (d.setKv slot v).link = d.link := rfl
@[simp] theorem Dev.setKv_host (d : Dev) (slot : Nat) (v : KvSeq) : (d.setKv slot v).host = d.host := rfl
@[simp] theorem Dev.setKv_array (d : Dev) (slot : Nat) (v : KvSeq) : (d.setKv slot v).array = d.array := rfl
@[simp] theorem Dev.setKv_engine (d : Dev) (slot : Nat) (v : KvSeq) : (d.setKv slot v).engine = d.engine := rfl
@[simp] theorem Dev.setKv_stack (d : Dev) (slot : Nat) (v : KvSeq) : (d.setKv slot v).stack = d.stack := rfl
@[simp] theorem Dev.setKv_power (d : Dev) (slot : Nat) (v : KvSeq) : (d.setKv slot v).power = d.power := rfl
@[simp] theorem Dev.setKv_part (d : Dev) (slot : Nat) (v : KvSeq) : (d.setKv slot v).part = d.part := rfl
@[simp] theorem Dev.setKv_ledger (d : Dev) (slot : Nat) (v : KvSeq) : (d.setKv slot v).ledger = d.ledger := rfl
@[simp] theorem Dev.setKv_sec (d : Dev) (slot : Nat) (v : KvSeq) : (d.setKv slot v).sec = d.sec := rfl
@[simp] theorem Dev.setKv_obs (d : Dev) (slot : Nat) (v : KvSeq) : (d.setKv slot v).obs = d.obs := rfl
@[simp] theorem Dev.setKv_fresh (d : Dev) (slot : Nat) (v : KvSeq) : (d.setKv slot v).fresh = d.fresh := rfl

@[simp] theorem Dev.setStg_rst (d : Dev) (k : Nat) (v : Staging) : (d.setStg k v).rst = d.rst := rfl
@[simp] theorem Dev.setStg_glob (d : Dev) (k : Nat) (v : Staging) : (d.setStg k v).glob = d.glob := rfl
@[simp] theorem Dev.setStg_sys (d : Dev) (k : Nat) (v : Staging) : (d.setStg k v).sys = d.sys := rfl
@[simp] theorem Dev.setStg_link (d : Dev) (k : Nat) (v : Staging) : (d.setStg k v).link = d.link := rfl
@[simp] theorem Dev.setStg_host (d : Dev) (k : Nat) (v : Staging) : (d.setStg k v).host = d.host := rfl
@[simp] theorem Dev.setStg_array (d : Dev) (k : Nat) (v : Staging) : (d.setStg k v).array = d.array := rfl
@[simp] theorem Dev.setStg_engine (d : Dev) (k : Nat) (v : Staging) : (d.setStg k v).engine = d.engine := rfl
@[simp] theorem Dev.setStg_stack (d : Dev) (k : Nat) (v : Staging) : (d.setStg k v).stack = d.stack := rfl
@[simp] theorem Dev.setStg_power (d : Dev) (k : Nat) (v : Staging) : (d.setStg k v).power = d.power := rfl
@[simp] theorem Dev.setStg_part (d : Dev) (k : Nat) (v : Staging) : (d.setStg k v).part = d.part := rfl
@[simp] theorem Dev.setStg_ledger (d : Dev) (k : Nat) (v : Staging) : (d.setStg k v).ledger = d.ledger := rfl
@[simp] theorem Dev.setStg_sec (d : Dev) (k : Nat) (v : Staging) : (d.setStg k v).sec = d.sec := rfl
@[simp] theorem Dev.setStg_obs (d : Dev) (k : Nat) (v : Staging) : (d.setStg k v).obs = d.obs := rfl
@[simp] theorem Dev.setStg_fresh (d : Dev) (k : Nat) (v : Staging) : (d.setStg k v).fresh = d.fresh := rfl

@[simp] theorem Dev.setGraft_rst (d : Dev) (id : Nat) (g : Graft) : (d.setGraft id g).rst = d.rst := rfl
@[simp] theorem Dev.setGraft_glob (d : Dev) (id : Nat) (g : Graft) : (d.setGraft id g).glob = d.glob := rfl
@[simp] theorem Dev.setGraft_sys (d : Dev) (id : Nat) (g : Graft) : (d.setGraft id g).sys = d.sys := rfl
@[simp] theorem Dev.setGraft_link (d : Dev) (id : Nat) (g : Graft) : (d.setGraft id g).link = d.link := rfl
@[simp] theorem Dev.setGraft_host (d : Dev) (id : Nat) (g : Graft) : (d.setGraft id g).host = d.host := rfl
@[simp] theorem Dev.setGraft_array (d : Dev) (id : Nat) (g : Graft) : (d.setGraft id g).array = d.array := rfl
@[simp] theorem Dev.setGraft_engine (d : Dev) (id : Nat) (g : Graft) : (d.setGraft id g).engine = d.engine := rfl
@[simp] theorem Dev.setGraft_stack (d : Dev) (id : Nat) (g : Graft) : (d.setGraft id g).stack = d.stack := rfl
@[simp] theorem Dev.setGraft_power (d : Dev) (id : Nat) (g : Graft) : (d.setGraft id g).power = d.power := rfl
@[simp] theorem Dev.setGraft_part (d : Dev) (id : Nat) (g : Graft) : (d.setGraft id g).part = d.part := rfl
@[simp] theorem Dev.setGraft_ledger (d : Dev) (id : Nat) (g : Graft) : (d.setGraft id g).ledger = d.ledger := rfl
@[simp] theorem Dev.setGraft_sec (d : Dev) (id : Nat) (g : Graft) : (d.setGraft id g).sec = d.sec := rfl
@[simp] theorem Dev.setGraft_obs (d : Dev) (id : Nat) (g : Graft) : (d.setGraft id g).obs = d.obs := rfl
@[simp] theorem Dev.setGraft_fresh (d : Dev) (id : Nat) (g : Graft) : (d.setGraft id g).fresh = d.fresh := rfl

@[simp] theorem Dev.setPort_rst (d : Dev) (n : Nat) (p : Port) : (d.setPort n p).rst = d.rst := rfl
@[simp] theorem Dev.setPort_glob (d : Dev) (n : Nat) (p : Port) : (d.setPort n p).glob = d.glob := rfl
@[simp] theorem Dev.setPort_sys (d : Dev) (n : Nat) (p : Port) : (d.setPort n p).sys = d.sys := rfl
@[simp] theorem Dev.setPort_host (d : Dev) (n : Nat) (p : Port) : (d.setPort n p).host = d.host := rfl
@[simp] theorem Dev.setPort_serve (d : Dev) (n : Nat) (p : Port) : (d.setPort n p).serve = d.serve := rfl
@[simp] theorem Dev.setPort_array (d : Dev) (n : Nat) (p : Port) : (d.setPort n p).array = d.array := rfl
@[simp] theorem Dev.setPort_engine (d : Dev) (n : Nat) (p : Port) : (d.setPort n p).engine = d.engine := rfl
@[simp] theorem Dev.setPort_stack (d : Dev) (n : Nat) (p : Port) : (d.setPort n p).stack = d.stack := rfl
@[simp] theorem Dev.setPort_power (d : Dev) (n : Nat) (p : Port) : (d.setPort n p).power = d.power := rfl
@[simp] theorem Dev.setPort_part (d : Dev) (n : Nat) (p : Port) : (d.setPort n p).part = d.part := rfl
@[simp] theorem Dev.setPort_ledger (d : Dev) (n : Nat) (p : Port) : (d.setPort n p).ledger = d.ledger := rfl
@[simp] theorem Dev.setPort_sec (d : Dev) (n : Nat) (p : Port) : (d.setPort n p).sec = d.sec := rfl
@[simp] theorem Dev.setPort_obs (d : Dev) (n : Nat) (p : Port) : (d.setPort n p).obs = d.obs := rfl
@[simp] theorem Dev.setPort_fresh (d : Dev) (n : Nat) (p : Port) : (d.setPort n p).fresh = d.fresh := rfl

@[simp] theorem Dev.setWindow_rst (d : Dev) (id : Nat) (w : Window) : (d.setWindow id w).rst = d.rst := rfl
@[simp] theorem Dev.setWindow_glob (d : Dev) (id : Nat) (w : Window) : (d.setWindow id w).glob = d.glob := rfl
@[simp] theorem Dev.setWindow_sys (d : Dev) (id : Nat) (w : Window) : (d.setWindow id w).sys = d.sys := rfl
@[simp] theorem Dev.setWindow_host (d : Dev) (id : Nat) (w : Window) : (d.setWindow id w).host = d.host := rfl
@[simp] theorem Dev.setWindow_serve (d : Dev) (id : Nat) (w : Window) : (d.setWindow id w).serve = d.serve := rfl
@[simp] theorem Dev.setWindow_array (d : Dev) (id : Nat) (w : Window) : (d.setWindow id w).array = d.array := rfl
@[simp] theorem Dev.setWindow_engine (d : Dev) (id : Nat) (w : Window) : (d.setWindow id w).engine = d.engine := rfl
@[simp] theorem Dev.setWindow_stack (d : Dev) (id : Nat) (w : Window) : (d.setWindow id w).stack = d.stack := rfl
@[simp] theorem Dev.setWindow_power (d : Dev) (id : Nat) (w : Window) : (d.setWindow id w).power = d.power := rfl
@[simp] theorem Dev.setWindow_part (d : Dev) (id : Nat) (w : Window) : (d.setWindow id w).part = d.part := rfl
@[simp] theorem Dev.setWindow_ledger (d : Dev) (id : Nat) (w : Window) : (d.setWindow id w).ledger = d.ledger := rfl
@[simp] theorem Dev.setWindow_sec (d : Dev) (id : Nat) (w : Window) : (d.setWindow id w).sec = d.sec := rfl
@[simp] theorem Dev.setWindow_obs (d : Dev) (id : Nat) (w : Window) : (d.setWindow id w).obs = d.obs := rfl
@[simp] theorem Dev.setWindow_fresh (d : Dev) (id : Nat) (w : Window) : (d.setWindow id w).fresh = d.fresh := rfl

@[simp] theorem Dev.setQueue_rst (d : Dev) (q : Nat) (x : Option QCtx) : (d.setQueue q x).rst = d.rst := rfl
@[simp] theorem Dev.setQueue_glob (d : Dev) (q : Nat) (x : Option QCtx) : (d.setQueue q x).glob = d.glob := rfl
@[simp] theorem Dev.setQueue_sys (d : Dev) (q : Nat) (x : Option QCtx) : (d.setQueue q x).sys = d.sys := rfl
@[simp] theorem Dev.setQueue_link (d : Dev) (q : Nat) (x : Option QCtx) : (d.setQueue q x).link = d.link := rfl
@[simp] theorem Dev.setQueue_serve (d : Dev) (q : Nat) (x : Option QCtx) : (d.setQueue q x).serve = d.serve := rfl
@[simp] theorem Dev.setQueue_array (d : Dev) (q : Nat) (x : Option QCtx) : (d.setQueue q x).array = d.array := rfl
@[simp] theorem Dev.setQueue_engine (d : Dev) (q : Nat) (x : Option QCtx) : (d.setQueue q x).engine = d.engine := rfl
@[simp] theorem Dev.setQueue_stack (d : Dev) (q : Nat) (x : Option QCtx) : (d.setQueue q x).stack = d.stack := rfl
@[simp] theorem Dev.setQueue_power (d : Dev) (q : Nat) (x : Option QCtx) : (d.setQueue q x).power = d.power := rfl
@[simp] theorem Dev.setQueue_part (d : Dev) (q : Nat) (x : Option QCtx) : (d.setQueue q x).part = d.part := rfl
@[simp] theorem Dev.setQueue_ledger (d : Dev) (q : Nat) (x : Option QCtx) : (d.setQueue q x).ledger = d.ledger := rfl
@[simp] theorem Dev.setQueue_sec (d : Dev) (q : Nat) (x : Option QCtx) : (d.setQueue q x).sec = d.sec := rfl
@[simp] theorem Dev.setQueue_obs (d : Dev) (q : Nat) (x : Option QCtx) : (d.setQueue q x).obs = d.obs := rfl
@[simp] theorem Dev.setQueue_fresh (d : Dev) (q : Nat) (x : Option QCtx) : (d.setQueue q x).fresh = d.fresh := rfl

@[simp] theorem Dev.setRing_rst (d : Dev) (r : Nat) (x : Option RCtx) : (d.setRing r x).rst = d.rst := rfl
@[simp] theorem Dev.setRing_glob (d : Dev) (r : Nat) (x : Option RCtx) : (d.setRing r x).glob = d.glob := rfl
@[simp] theorem Dev.setRing_sys (d : Dev) (r : Nat) (x : Option RCtx) : (d.setRing r x).sys = d.sys := rfl
@[simp] theorem Dev.setRing_link (d : Dev) (r : Nat) (x : Option RCtx) : (d.setRing r x).link = d.link := rfl
@[simp] theorem Dev.setRing_serve (d : Dev) (r : Nat) (x : Option RCtx) : (d.setRing r x).serve = d.serve := rfl
@[simp] theorem Dev.setRing_array (d : Dev) (r : Nat) (x : Option RCtx) : (d.setRing r x).array = d.array := rfl
@[simp] theorem Dev.setRing_engine (d : Dev) (r : Nat) (x : Option RCtx) : (d.setRing r x).engine = d.engine := rfl
@[simp] theorem Dev.setRing_stack (d : Dev) (r : Nat) (x : Option RCtx) : (d.setRing r x).stack = d.stack := rfl
@[simp] theorem Dev.setRing_power (d : Dev) (r : Nat) (x : Option RCtx) : (d.setRing r x).power = d.power := rfl
@[simp] theorem Dev.setRing_part (d : Dev) (r : Nat) (x : Option RCtx) : (d.setRing r x).part = d.part := rfl
@[simp] theorem Dev.setRing_ledger (d : Dev) (r : Nat) (x : Option RCtx) : (d.setRing r x).ledger = d.ledger := rfl
@[simp] theorem Dev.setRing_sec (d : Dev) (r : Nat) (x : Option RCtx) : (d.setRing r x).sec = d.sec := rfl
@[simp] theorem Dev.setRing_obs (d : Dev) (r : Nat) (x : Option RCtx) : (d.setRing r x).obs = d.obs := rfl
@[simp] theorem Dev.setRing_fresh (d : Dev) (r : Nat) (x : Option RCtx) : (d.setRing r x).fresh = d.fresh := rfl

@[simp] theorem Dev.setFn_rst (d : Dev) (f : Nat) (x : FnRegs) : (d.setFn f x).rst = d.rst := rfl
@[simp] theorem Dev.setFn_glob (d : Dev) (f : Nat) (x : FnRegs) : (d.setFn f x).glob = d.glob := rfl
@[simp] theorem Dev.setFn_sys (d : Dev) (f : Nat) (x : FnRegs) : (d.setFn f x).sys = d.sys := rfl
@[simp] theorem Dev.setFn_link (d : Dev) (f : Nat) (x : FnRegs) : (d.setFn f x).link = d.link := rfl
@[simp] theorem Dev.setFn_serve (d : Dev) (f : Nat) (x : FnRegs) : (d.setFn f x).serve = d.serve := rfl
@[simp] theorem Dev.setFn_array (d : Dev) (f : Nat) (x : FnRegs) : (d.setFn f x).array = d.array := rfl
@[simp] theorem Dev.setFn_engine (d : Dev) (f : Nat) (x : FnRegs) : (d.setFn f x).engine = d.engine := rfl
@[simp] theorem Dev.setFn_stack (d : Dev) (f : Nat) (x : FnRegs) : (d.setFn f x).stack = d.stack := rfl
@[simp] theorem Dev.setFn_power (d : Dev) (f : Nat) (x : FnRegs) : (d.setFn f x).power = d.power := rfl
@[simp] theorem Dev.setFn_part (d : Dev) (f : Nat) (x : FnRegs) : (d.setFn f x).part = d.part := rfl
@[simp] theorem Dev.setFn_ledger (d : Dev) (f : Nat) (x : FnRegs) : (d.setFn f x).ledger = d.ledger := rfl
@[simp] theorem Dev.setFn_sec (d : Dev) (f : Nat) (x : FnRegs) : (d.setFn f x).sec = d.sec := rfl
@[simp] theorem Dev.setFn_obs (d : Dev) (f : Nat) (x : FnRegs) : (d.setFn f x).obs = d.obs := rfl
@[simp] theorem Dev.setFn_fresh (d : Dev) (f : Nat) (x : FnRegs) : (d.setFn f x).fresh = d.fresh := rfl

@[simp] theorem Dev.setPcs_rst (d : Dev) (n : Nat) (x : PcState) : (d.setPcs n x).rst = d.rst := rfl
@[simp] theorem Dev.setPcs_glob (d : Dev) (n : Nat) (x : PcState) : (d.setPcs n x).glob = d.glob := rfl
@[simp] theorem Dev.setPcs_sys (d : Dev) (n : Nat) (x : PcState) : (d.setPcs n x).sys = d.sys := rfl
@[simp] theorem Dev.setPcs_link (d : Dev) (n : Nat) (x : PcState) : (d.setPcs n x).link = d.link := rfl
@[simp] theorem Dev.setPcs_host (d : Dev) (n : Nat) (x : PcState) : (d.setPcs n x).host = d.host := rfl
@[simp] theorem Dev.setPcs_serve (d : Dev) (n : Nat) (x : PcState) : (d.setPcs n x).serve = d.serve := rfl
@[simp] theorem Dev.setPcs_array (d : Dev) (n : Nat) (x : PcState) : (d.setPcs n x).array = d.array := rfl
@[simp] theorem Dev.setPcs_engine (d : Dev) (n : Nat) (x : PcState) : (d.setPcs n x).engine = d.engine := rfl
@[simp] theorem Dev.setPcs_power (d : Dev) (n : Nat) (x : PcState) : (d.setPcs n x).power = d.power := rfl
@[simp] theorem Dev.setPcs_part (d : Dev) (n : Nat) (x : PcState) : (d.setPcs n x).part = d.part := rfl
@[simp] theorem Dev.setPcs_ledger (d : Dev) (n : Nat) (x : PcState) : (d.setPcs n x).ledger = d.ledger := rfl
@[simp] theorem Dev.setPcs_sec (d : Dev) (n : Nat) (x : PcState) : (d.setPcs n x).sec = d.sec := rfl
@[simp] theorem Dev.setPcs_obs (d : Dev) (n : Nat) (x : PcState) : (d.setPcs n x).obs = d.obs := rfl
@[simp] theorem Dev.setPcs_fresh (d : Dev) (n : Nat) (x : PcState) : (d.setPcs n x).fresh = d.fresh := rfl

@[simp] theorem Dev.setReplica_rst (d : Dev) (p : Nat) (x : Replica) : (d.setReplica p x).rst = d.rst := rfl
@[simp] theorem Dev.setReplica_glob (d : Dev) (p : Nat) (x : Replica) : (d.setReplica p x).glob = d.glob := rfl
@[simp] theorem Dev.setReplica_sys (d : Dev) (p : Nat) (x : Replica) : (d.setReplica p x).sys = d.sys := rfl
@[simp] theorem Dev.setReplica_link (d : Dev) (p : Nat) (x : Replica) : (d.setReplica p x).link = d.link := rfl
@[simp] theorem Dev.setReplica_host (d : Dev) (p : Nat) (x : Replica) : (d.setReplica p x).host = d.host := rfl
@[simp] theorem Dev.setReplica_serve (d : Dev) (p : Nat) (x : Replica) : (d.setReplica p x).serve = d.serve := rfl
@[simp] theorem Dev.setReplica_array (d : Dev) (p : Nat) (x : Replica) : (d.setReplica p x).array = d.array := rfl
@[simp] theorem Dev.setReplica_engine (d : Dev) (p : Nat) (x : Replica) : (d.setReplica p x).engine = d.engine := rfl
@[simp] theorem Dev.setReplica_power (d : Dev) (p : Nat) (x : Replica) : (d.setReplica p x).power = d.power := rfl
@[simp] theorem Dev.setReplica_part (d : Dev) (p : Nat) (x : Replica) : (d.setReplica p x).part = d.part := rfl
@[simp] theorem Dev.setReplica_ledger (d : Dev) (p : Nat) (x : Replica) : (d.setReplica p x).ledger = d.ledger := rfl
@[simp] theorem Dev.setReplica_sec (d : Dev) (p : Nat) (x : Replica) : (d.setReplica p x).sec = d.sec := rfl
@[simp] theorem Dev.setReplica_obs (d : Dev) (p : Nat) (x : Replica) : (d.setReplica p x).obs = d.obs := rfl
@[simp] theorem Dev.setReplica_fresh (d : Dev) (p : Nat) (x : Replica) : (d.setReplica p x).fresh = d.fresh := rfl

@[simp] theorem Dev.setBank_rst (d : Dev) (p b : Nat) (x : BankInfo) : (d.setBank p b x).rst = d.rst := rfl
@[simp] theorem Dev.setBank_glob (d : Dev) (p b : Nat) (x : BankInfo) : (d.setBank p b x).glob = d.glob := rfl
@[simp] theorem Dev.setBank_sys (d : Dev) (p b : Nat) (x : BankInfo) : (d.setBank p b x).sys = d.sys := rfl
@[simp] theorem Dev.setBank_link (d : Dev) (p b : Nat) (x : BankInfo) : (d.setBank p b x).link = d.link := rfl
@[simp] theorem Dev.setBank_host (d : Dev) (p b : Nat) (x : BankInfo) : (d.setBank p b x).host = d.host := rfl
@[simp] theorem Dev.setBank_serve (d : Dev) (p b : Nat) (x : BankInfo) : (d.setBank p b x).serve = d.serve := rfl
@[simp] theorem Dev.setBank_array (d : Dev) (p b : Nat) (x : BankInfo) : (d.setBank p b x).array = d.array := rfl
@[simp] theorem Dev.setBank_engine (d : Dev) (p b : Nat) (x : BankInfo) : (d.setBank p b x).engine = d.engine := rfl
@[simp] theorem Dev.setBank_power (d : Dev) (p b : Nat) (x : BankInfo) : (d.setBank p b x).power = d.power := rfl
@[simp] theorem Dev.setBank_part (d : Dev) (p b : Nat) (x : BankInfo) : (d.setBank p b x).part = d.part := rfl
@[simp] theorem Dev.setBank_ledger (d : Dev) (p b : Nat) (x : BankInfo) : (d.setBank p b x).ledger = d.ledger := rfl
@[simp] theorem Dev.setBank_sec (d : Dev) (p b : Nat) (x : BankInfo) : (d.setBank p b x).sec = d.sec := rfl
@[simp] theorem Dev.setBank_obs (d : Dev) (p b : Nat) (x : BankInfo) : (d.setBank p b x).obs = d.obs := rfl
@[simp] theorem Dev.setBank_fresh (d : Dev) (p b : Nat) (x : BankInfo) : (d.setBank p b x).fresh = d.fresh := rfl

@[simp] theorem Dev.setLoad_rst (d : Dev) (p : Nat) (x : Option ShardLoad) : (d.setLoad p x).rst = d.rst := rfl
@[simp] theorem Dev.setLoad_glob (d : Dev) (p : Nat) (x : Option ShardLoad) : (d.setLoad p x).glob = d.glob := rfl
@[simp] theorem Dev.setLoad_sys (d : Dev) (p : Nat) (x : Option ShardLoad) : (d.setLoad p x).sys = d.sys := rfl
@[simp] theorem Dev.setLoad_link (d : Dev) (p : Nat) (x : Option ShardLoad) : (d.setLoad p x).link = d.link := rfl
@[simp] theorem Dev.setLoad_host (d : Dev) (p : Nat) (x : Option ShardLoad) : (d.setLoad p x).host = d.host := rfl
@[simp] theorem Dev.setLoad_serve (d : Dev) (p : Nat) (x : Option ShardLoad) : (d.setLoad p x).serve = d.serve := rfl
@[simp] theorem Dev.setLoad_array (d : Dev) (p : Nat) (x : Option ShardLoad) : (d.setLoad p x).array = d.array := rfl
@[simp] theorem Dev.setLoad_engine (d : Dev) (p : Nat) (x : Option ShardLoad) : (d.setLoad p x).engine = d.engine := rfl
@[simp] theorem Dev.setLoad_power (d : Dev) (p : Nat) (x : Option ShardLoad) : (d.setLoad p x).power = d.power := rfl
@[simp] theorem Dev.setLoad_part (d : Dev) (p : Nat) (x : Option ShardLoad) : (d.setLoad p x).part = d.part := rfl
@[simp] theorem Dev.setLoad_ledger (d : Dev) (p : Nat) (x : Option ShardLoad) : (d.setLoad p x).ledger = d.ledger := rfl
@[simp] theorem Dev.setLoad_sec (d : Dev) (p : Nat) (x : Option ShardLoad) : (d.setLoad p x).sec = d.sec := rfl
@[simp] theorem Dev.setLoad_obs (d : Dev) (p : Nat) (x : Option ShardLoad) : (d.setLoad p x).obs = d.obs := rfl
@[simp] theorem Dev.setLoad_fresh (d : Dev) (p : Nat) (x : Option ShardLoad) : (d.setLoad p x).fresh = d.fresh := rfl

@[simp] theorem Dev.setCommitting_rst (d : Dev) (p : Nat) (x : Option (BitVec 2)) : (d.setCommitting p x).rst = d.rst := rfl
@[simp] theorem Dev.setCommitting_glob (d : Dev) (p : Nat) (x : Option (BitVec 2)) : (d.setCommitting p x).glob = d.glob := rfl
@[simp] theorem Dev.setCommitting_sys (d : Dev) (p : Nat) (x : Option (BitVec 2)) : (d.setCommitting p x).sys = d.sys := rfl
@[simp] theorem Dev.setCommitting_link (d : Dev) (p : Nat) (x : Option (BitVec 2)) : (d.setCommitting p x).link = d.link := rfl
@[simp] theorem Dev.setCommitting_host (d : Dev) (p : Nat) (x : Option (BitVec 2)) : (d.setCommitting p x).host = d.host := rfl
@[simp] theorem Dev.setCommitting_serve (d : Dev) (p : Nat) (x : Option (BitVec 2)) : (d.setCommitting p x).serve = d.serve := rfl
@[simp] theorem Dev.setCommitting_array (d : Dev) (p : Nat) (x : Option (BitVec 2)) : (d.setCommitting p x).array = d.array := rfl
@[simp] theorem Dev.setCommitting_engine (d : Dev) (p : Nat) (x : Option (BitVec 2)) : (d.setCommitting p x).engine = d.engine := rfl
@[simp] theorem Dev.setCommitting_power (d : Dev) (p : Nat) (x : Option (BitVec 2)) : (d.setCommitting p x).power = d.power := rfl
@[simp] theorem Dev.setCommitting_part (d : Dev) (p : Nat) (x : Option (BitVec 2)) : (d.setCommitting p x).part = d.part := rfl
@[simp] theorem Dev.setCommitting_ledger (d : Dev) (p : Nat) (x : Option (BitVec 2)) : (d.setCommitting p x).ledger = d.ledger := rfl
@[simp] theorem Dev.setCommitting_sec (d : Dev) (p : Nat) (x : Option (BitVec 2)) : (d.setCommitting p x).sec = d.sec := rfl
@[simp] theorem Dev.setCommitting_obs (d : Dev) (p : Nat) (x : Option (BitVec 2)) : (d.setCommitting p x).obs = d.obs := rfl
@[simp] theorem Dev.setCommitting_fresh (d : Dev) (p : Nat) (x : Option (BitVec 2)) : (d.setCommitting p x).fresh = d.fresh := rfl

@[simp] theorem Dev.setPartAcc_rst (d : Dev) (p : Nat) (x : PartEntry) : (d.setPartAcc p x).rst = d.rst := rfl
@[simp] theorem Dev.setPartAcc_glob (d : Dev) (p : Nat) (x : PartEntry) : (d.setPartAcc p x).glob = d.glob := rfl
@[simp] theorem Dev.setPartAcc_sys (d : Dev) (p : Nat) (x : PartEntry) : (d.setPartAcc p x).sys = d.sys := rfl
@[simp] theorem Dev.setPartAcc_link (d : Dev) (p : Nat) (x : PartEntry) : (d.setPartAcc p x).link = d.link := rfl
@[simp] theorem Dev.setPartAcc_host (d : Dev) (p : Nat) (x : PartEntry) : (d.setPartAcc p x).host = d.host := rfl
@[simp] theorem Dev.setPartAcc_serve (d : Dev) (p : Nat) (x : PartEntry) : (d.setPartAcc p x).serve = d.serve := rfl
@[simp] theorem Dev.setPartAcc_array (d : Dev) (p : Nat) (x : PartEntry) : (d.setPartAcc p x).array = d.array := rfl
@[simp] theorem Dev.setPartAcc_engine (d : Dev) (p : Nat) (x : PartEntry) : (d.setPartAcc p x).engine = d.engine := rfl
@[simp] theorem Dev.setPartAcc_stack (d : Dev) (p : Nat) (x : PartEntry) : (d.setPartAcc p x).stack = d.stack := rfl
@[simp] theorem Dev.setPartAcc_power (d : Dev) (p : Nat) (x : PartEntry) : (d.setPartAcc p x).power = d.power := rfl
@[simp] theorem Dev.setPartAcc_ledger (d : Dev) (p : Nat) (x : PartEntry) : (d.setPartAcc p x).ledger = d.ledger := rfl
@[simp] theorem Dev.setPartAcc_sec (d : Dev) (p : Nat) (x : PartEntry) : (d.setPartAcc p x).sec = d.sec := rfl
@[simp] theorem Dev.setPartAcc_obs (d : Dev) (p : Nat) (x : PartEntry) : (d.setPartAcc p x).obs = d.obs := rfl
@[simp] theorem Dev.setPartAcc_fresh (d : Dev) (p : Nat) (x : PartEntry) : (d.setPartAcc p x).fresh = d.fresh := rfl

@[simp] theorem Dev.setPart_rst (d : Dev) (p : Nat) (x : PartEntry) : (d.setPart p x).rst = d.rst := rfl
@[simp] theorem Dev.setPart_glob (d : Dev) (p : Nat) (x : PartEntry) : (d.setPart p x).glob = d.glob := rfl
@[simp] theorem Dev.setPart_sys (d : Dev) (p : Nat) (x : PartEntry) : (d.setPart p x).sys = d.sys := rfl
@[simp] theorem Dev.setPart_link (d : Dev) (p : Nat) (x : PartEntry) : (d.setPart p x).link = d.link := rfl
@[simp] theorem Dev.setPart_host (d : Dev) (p : Nat) (x : PartEntry) : (d.setPart p x).host = d.host := rfl
@[simp] theorem Dev.setPart_serve (d : Dev) (p : Nat) (x : PartEntry) : (d.setPart p x).serve = d.serve := rfl
@[simp] theorem Dev.setPart_array (d : Dev) (p : Nat) (x : PartEntry) : (d.setPart p x).array = d.array := rfl
@[simp] theorem Dev.setPart_engine (d : Dev) (p : Nat) (x : PartEntry) : (d.setPart p x).engine = d.engine := rfl
@[simp] theorem Dev.setPart_stack (d : Dev) (p : Nat) (x : PartEntry) : (d.setPart p x).stack = d.stack := rfl
@[simp] theorem Dev.setPart_power (d : Dev) (p : Nat) (x : PartEntry) : (d.setPart p x).power = d.power := rfl
@[simp] theorem Dev.setPart_ledger (d : Dev) (p : Nat) (x : PartEntry) : (d.setPart p x).ledger = d.ledger := rfl
@[simp] theorem Dev.setPart_sec (d : Dev) (p : Nat) (x : PartEntry) : (d.setPart p x).sec = d.sec := rfl
@[simp] theorem Dev.setPart_obs (d : Dev) (p : Nat) (x : PartEntry) : (d.setPart p x).obs = d.obs := rfl
@[simp] theorem Dev.setPart_fresh (d : Dev) (p : Nat) (x : PartEntry) : (d.setPart p x).fresh = d.fresh := rfl

@[simp] theorem Dev.setJobSetup_rst (d : Dev) (p : Nat) (x : JobSetup) : (d.setJobSetup p x).rst = d.rst := rfl
@[simp] theorem Dev.setJobSetup_glob (d : Dev) (p : Nat) (x : JobSetup) : (d.setJobSetup p x).glob = d.glob := rfl
@[simp] theorem Dev.setJobSetup_link (d : Dev) (p : Nat) (x : JobSetup) : (d.setJobSetup p x).link = d.link := rfl
@[simp] theorem Dev.setJobSetup_host (d : Dev) (p : Nat) (x : JobSetup) : (d.setJobSetup p x).host = d.host := rfl
@[simp] theorem Dev.setJobSetup_serve (d : Dev) (p : Nat) (x : JobSetup) : (d.setJobSetup p x).serve = d.serve := rfl
@[simp] theorem Dev.setJobSetup_array (d : Dev) (p : Nat) (x : JobSetup) : (d.setJobSetup p x).array = d.array := rfl
@[simp] theorem Dev.setJobSetup_engine (d : Dev) (p : Nat) (x : JobSetup) : (d.setJobSetup p x).engine = d.engine := rfl
@[simp] theorem Dev.setJobSetup_stack (d : Dev) (p : Nat) (x : JobSetup) : (d.setJobSetup p x).stack = d.stack := rfl
@[simp] theorem Dev.setJobSetup_power (d : Dev) (p : Nat) (x : JobSetup) : (d.setJobSetup p x).power = d.power := rfl
@[simp] theorem Dev.setJobSetup_part (d : Dev) (p : Nat) (x : JobSetup) : (d.setJobSetup p x).part = d.part := rfl
@[simp] theorem Dev.setJobSetup_ledger (d : Dev) (p : Nat) (x : JobSetup) : (d.setJobSetup p x).ledger = d.ledger := rfl
@[simp] theorem Dev.setJobSetup_sec (d : Dev) (p : Nat) (x : JobSetup) : (d.setJobSetup p x).sec = d.sec := rfl
@[simp] theorem Dev.setJobSetup_obs (d : Dev) (p : Nat) (x : JobSetup) : (d.setJobSetup p x).obs = d.obs := rfl
@[simp] theorem Dev.setJobSetup_fresh (d : Dev) (p : Nat) (x : JobSetup) : (d.setJobSetup p x).fresh = d.fresh := rfl

@[simp] theorem Dev.setLane_rst (d : Dev) (k : Nat) (x : LaneRec) : (d.setLane k x).rst = d.rst := rfl
@[simp] theorem Dev.setLane_glob (d : Dev) (k : Nat) (x : LaneRec) : (d.setLane k x).glob = d.glob := rfl
@[simp] theorem Dev.setLane_sys (d : Dev) (k : Nat) (x : LaneRec) : (d.setLane k x).sys = d.sys := rfl
@[simp] theorem Dev.setLane_link (d : Dev) (k : Nat) (x : LaneRec) : (d.setLane k x).link = d.link := rfl
@[simp] theorem Dev.setLane_host (d : Dev) (k : Nat) (x : LaneRec) : (d.setLane k x).host = d.host := rfl
@[simp] theorem Dev.setLane_serve (d : Dev) (k : Nat) (x : LaneRec) : (d.setLane k x).serve = d.serve := rfl
@[simp] theorem Dev.setLane_array (d : Dev) (k : Nat) (x : LaneRec) : (d.setLane k x).array = d.array := rfl
@[simp] theorem Dev.setLane_engine (d : Dev) (k : Nat) (x : LaneRec) : (d.setLane k x).engine = d.engine := rfl
@[simp] theorem Dev.setLane_stack (d : Dev) (k : Nat) (x : LaneRec) : (d.setLane k x).stack = d.stack := rfl
@[simp] theorem Dev.setLane_power (d : Dev) (k : Nat) (x : LaneRec) : (d.setLane k x).power = d.power := rfl
@[simp] theorem Dev.setLane_part (d : Dev) (k : Nat) (x : LaneRec) : (d.setLane k x).part = d.part := rfl
@[simp] theorem Dev.setLane_sec (d : Dev) (k : Nat) (x : LaneRec) : (d.setLane k x).sec = d.sec := rfl
@[simp] theorem Dev.setLane_obs (d : Dev) (k : Nat) (x : LaneRec) : (d.setLane k x).obs = d.obs := rfl
@[simp] theorem Dev.setLane_fresh (d : Dev) (k : Nat) (x : LaneRec) : (d.setLane k x).fresh = d.fresh := rfl

@[simp] theorem Dev.setTraceRing_rst (d : Dev) (p : Nat) (x : Ring) : (d.setTraceRing p x).rst = d.rst := rfl
@[simp] theorem Dev.setTraceRing_glob (d : Dev) (p : Nat) (x : Ring) : (d.setTraceRing p x).glob = d.glob := rfl
@[simp] theorem Dev.setTraceRing_sys (d : Dev) (p : Nat) (x : Ring) : (d.setTraceRing p x).sys = d.sys := rfl
@[simp] theorem Dev.setTraceRing_link (d : Dev) (p : Nat) (x : Ring) : (d.setTraceRing p x).link = d.link := rfl
@[simp] theorem Dev.setTraceRing_host (d : Dev) (p : Nat) (x : Ring) : (d.setTraceRing p x).host = d.host := rfl
@[simp] theorem Dev.setTraceRing_serve (d : Dev) (p : Nat) (x : Ring) : (d.setTraceRing p x).serve = d.serve := rfl
@[simp] theorem Dev.setTraceRing_array (d : Dev) (p : Nat) (x : Ring) : (d.setTraceRing p x).array = d.array := rfl
@[simp] theorem Dev.setTraceRing_engine (d : Dev) (p : Nat) (x : Ring) : (d.setTraceRing p x).engine = d.engine := rfl
@[simp] theorem Dev.setTraceRing_stack (d : Dev) (p : Nat) (x : Ring) : (d.setTraceRing p x).stack = d.stack := rfl
@[simp] theorem Dev.setTraceRing_power (d : Dev) (p : Nat) (x : Ring) : (d.setTraceRing p x).power = d.power := rfl
@[simp] theorem Dev.setTraceRing_part (d : Dev) (p : Nat) (x : Ring) : (d.setTraceRing p x).part = d.part := rfl
@[simp] theorem Dev.setTraceRing_ledger (d : Dev) (p : Nat) (x : Ring) : (d.setTraceRing p x).ledger = d.ledger := rfl
@[simp] theorem Dev.setTraceRing_sec (d : Dev) (p : Nat) (x : Ring) : (d.setTraceRing p x).sec = d.sec := rfl
@[simp] theorem Dev.setTraceRing_fresh (d : Dev) (p : Nat) (x : Ring) : (d.setTraceRing p x).fresh = d.fresh := rfl

@[simp] theorem Dev.setWatch_rst (d : Dev) (p w : Nat) (x : Option Watch) : (d.setWatch p w x).rst = d.rst := rfl
@[simp] theorem Dev.setWatch_glob (d : Dev) (p w : Nat) (x : Option Watch) : (d.setWatch p w x).glob = d.glob := rfl
@[simp] theorem Dev.setWatch_sys (d : Dev) (p w : Nat) (x : Option Watch) : (d.setWatch p w x).sys = d.sys := rfl
@[simp] theorem Dev.setWatch_link (d : Dev) (p w : Nat) (x : Option Watch) : (d.setWatch p w x).link = d.link := rfl
@[simp] theorem Dev.setWatch_host (d : Dev) (p w : Nat) (x : Option Watch) : (d.setWatch p w x).host = d.host := rfl
@[simp] theorem Dev.setWatch_serve (d : Dev) (p w : Nat) (x : Option Watch) : (d.setWatch p w x).serve = d.serve := rfl
@[simp] theorem Dev.setWatch_array (d : Dev) (p w : Nat) (x : Option Watch) : (d.setWatch p w x).array = d.array := rfl
@[simp] theorem Dev.setWatch_engine (d : Dev) (p w : Nat) (x : Option Watch) : (d.setWatch p w x).engine = d.engine := rfl
@[simp] theorem Dev.setWatch_stack (d : Dev) (p w : Nat) (x : Option Watch) : (d.setWatch p w x).stack = d.stack := rfl
@[simp] theorem Dev.setWatch_power (d : Dev) (p w : Nat) (x : Option Watch) : (d.setWatch p w x).power = d.power := rfl
@[simp] theorem Dev.setWatch_part (d : Dev) (p w : Nat) (x : Option Watch) : (d.setWatch p w x).part = d.part := rfl
@[simp] theorem Dev.setWatch_ledger (d : Dev) (p w : Nat) (x : Option Watch) : (d.setWatch p w x).ledger = d.ledger := rfl
@[simp] theorem Dev.setWatch_sec (d : Dev) (p w : Nat) (x : Option Watch) : (d.setWatch p w x).sec = d.sec := rfl
@[simp] theorem Dev.setWatch_fresh (d : Dev) (p w : Nat) (x : Option Watch) : (d.setWatch p w x).fresh = d.fresh := rfl

@[simp] theorem Dev.setMem_rst (d : Dev) (m : List Host.Cell) : (d.setMem m).rst = d.rst := rfl
@[simp] theorem Dev.setMem_glob (d : Dev) (m : List Host.Cell) : (d.setMem m).glob = d.glob := rfl
@[simp] theorem Dev.setMem_sys (d : Dev) (m : List Host.Cell) : (d.setMem m).sys = d.sys := rfl
@[simp] theorem Dev.setMem_link (d : Dev) (m : List Host.Cell) : (d.setMem m).link = d.link := rfl
@[simp] theorem Dev.setMem_host (d : Dev) (m : List Host.Cell) : (d.setMem m).host = d.host := rfl
@[simp] theorem Dev.setMem_serve (d : Dev) (m : List Host.Cell) : (d.setMem m).serve = d.serve := rfl
@[simp] theorem Dev.setMem_array (d : Dev) (m : List Host.Cell) : (d.setMem m).array = d.array := rfl
@[simp] theorem Dev.setMem_engine (d : Dev) (m : List Host.Cell) : (d.setMem m).engine = d.engine := rfl
@[simp] theorem Dev.setMem_power (d : Dev) (m : List Host.Cell) : (d.setMem m).power = d.power := rfl
@[simp] theorem Dev.setMem_part (d : Dev) (m : List Host.Cell) : (d.setMem m).part = d.part := rfl
@[simp] theorem Dev.setMem_ledger (d : Dev) (m : List Host.Cell) : (d.setMem m).ledger = d.ledger := rfl
@[simp] theorem Dev.setMem_sec (d : Dev) (m : List Host.Cell) : (d.setMem m).sec = d.sec := rfl
@[simp] theorem Dev.setMem_obs (d : Dev) (m : List Host.Cell) : (d.setMem m).obs = d.obs := rfl
@[simp] theorem Dev.setMem_fresh (d : Dev) (m : List Host.Cell) : (d.setMem m).fresh = d.fresh := rfl

@[simp] theorem Dev.setReg_rst (d : Dev) (o : Nat) (w : U32) : (d.setReg o w).rst = d.rst := rfl
@[simp] theorem Dev.setReg_sys (d : Dev) (o : Nat) (w : U32) : (d.setReg o w).sys = d.sys := rfl
@[simp] theorem Dev.setReg_link (d : Dev) (o : Nat) (w : U32) : (d.setReg o w).link = d.link := rfl
@[simp] theorem Dev.setReg_host (d : Dev) (o : Nat) (w : U32) : (d.setReg o w).host = d.host := rfl
@[simp] theorem Dev.setReg_serve (d : Dev) (o : Nat) (w : U32) : (d.setReg o w).serve = d.serve := rfl
@[simp] theorem Dev.setReg_array (d : Dev) (o : Nat) (w : U32) : (d.setReg o w).array = d.array := rfl
@[simp] theorem Dev.setReg_engine (d : Dev) (o : Nat) (w : U32) : (d.setReg o w).engine = d.engine := rfl
@[simp] theorem Dev.setReg_stack (d : Dev) (o : Nat) (w : U32) : (d.setReg o w).stack = d.stack := rfl
@[simp] theorem Dev.setReg_power (d : Dev) (o : Nat) (w : U32) : (d.setReg o w).power = d.power := rfl
@[simp] theorem Dev.setReg_part (d : Dev) (o : Nat) (w : U32) : (d.setReg o w).part = d.part := rfl
@[simp] theorem Dev.setReg_ledger (d : Dev) (o : Nat) (w : U32) : (d.setReg o w).ledger = d.ledger := rfl
@[simp] theorem Dev.setReg_sec (d : Dev) (o : Nat) (w : U32) : (d.setReg o w).sec = d.sec := rfl
@[simp] theorem Dev.setReg_obs (d : Dev) (o : Nat) (w : U32) : (d.setReg o w).obs = d.obs := rfl
@[simp] theorem Dev.setReg_fresh (d : Dev) (o : Nat) (w : U32) : (d.setReg o w).fresh = d.fresh := rfl

@[simp] theorem Dev.setRegIn_rst (d : Dev) (o : Nat) (w : U32) : (d.setRegIn o w).rst = d.rst := rfl
@[simp] theorem Dev.setRegIn_sys (d : Dev) (o : Nat) (w : U32) : (d.setRegIn o w).sys = d.sys := rfl
@[simp] theorem Dev.setRegIn_link (d : Dev) (o : Nat) (w : U32) : (d.setRegIn o w).link = d.link := rfl
@[simp] theorem Dev.setRegIn_host (d : Dev) (o : Nat) (w : U32) : (d.setRegIn o w).host = d.host := rfl
@[simp] theorem Dev.setRegIn_serve (d : Dev) (o : Nat) (w : U32) : (d.setRegIn o w).serve = d.serve := rfl
@[simp] theorem Dev.setRegIn_array (d : Dev) (o : Nat) (w : U32) : (d.setRegIn o w).array = d.array := rfl
@[simp] theorem Dev.setRegIn_engine (d : Dev) (o : Nat) (w : U32) : (d.setRegIn o w).engine = d.engine := rfl
@[simp] theorem Dev.setRegIn_stack (d : Dev) (o : Nat) (w : U32) : (d.setRegIn o w).stack = d.stack := rfl
@[simp] theorem Dev.setRegIn_power (d : Dev) (o : Nat) (w : U32) : (d.setRegIn o w).power = d.power := rfl
@[simp] theorem Dev.setRegIn_part (d : Dev) (o : Nat) (w : U32) : (d.setRegIn o w).part = d.part := rfl
@[simp] theorem Dev.setRegIn_ledger (d : Dev) (o : Nat) (w : U32) : (d.setRegIn o w).ledger = d.ledger := rfl
@[simp] theorem Dev.setRegIn_sec (d : Dev) (o : Nat) (w : U32) : (d.setRegIn o w).sec = d.sec := rfl
@[simp] theorem Dev.setRegIn_obs (d : Dev) (o : Nat) (w : U32) : (d.setRegIn o w).obs = d.obs := rfl
@[simp] theorem Dev.setRegIn_fresh (d : Dev) (o : Nat) (w : U32) : (d.setRegIn o w).fresh = d.fresh := rfl

@[simp] theorem Dev.setCommit_rst (d : Dev) (p : Nat) (x : Commit) : (d.setCommit p x).rst = d.rst := rfl
@[simp] theorem Dev.setCommit_glob (d : Dev) (p : Nat) (x : Commit) : (d.setCommit p x).glob = d.glob := rfl
@[simp] theorem Dev.setCommit_sys (d : Dev) (p : Nat) (x : Commit) : (d.setCommit p x).sys = d.sys := rfl
@[simp] theorem Dev.setCommit_link (d : Dev) (p : Nat) (x : Commit) : (d.setCommit p x).link = d.link := rfl
@[simp] theorem Dev.setCommit_host (d : Dev) (p : Nat) (x : Commit) : (d.setCommit p x).host = d.host := rfl
@[simp] theorem Dev.setCommit_serve (d : Dev) (p : Nat) (x : Commit) : (d.setCommit p x).serve = d.serve := rfl
@[simp] theorem Dev.setCommit_array (d : Dev) (p : Nat) (x : Commit) : (d.setCommit p x).array = d.array := rfl
@[simp] theorem Dev.setCommit_engine (d : Dev) (p : Nat) (x : Commit) : (d.setCommit p x).engine = d.engine := rfl
@[simp] theorem Dev.setCommit_power (d : Dev) (p : Nat) (x : Commit) : (d.setCommit p x).power = d.power := rfl
@[simp] theorem Dev.setCommit_part (d : Dev) (p : Nat) (x : Commit) : (d.setCommit p x).part = d.part := rfl
@[simp] theorem Dev.setCommit_ledger (d : Dev) (p : Nat) (x : Commit) : (d.setCommit p x).ledger = d.ledger := rfl
@[simp] theorem Dev.setCommit_sec (d : Dev) (p : Nat) (x : Commit) : (d.setCommit p x).sec = d.sec := rfl
@[simp] theorem Dev.setCommit_obs (d : Dev) (p : Nat) (x : Commit) : (d.setCommit p x).obs = d.obs := rfl
@[simp] theorem Dev.setCommit_fresh (d : Dev) (p : Nat) (x : Commit) : (d.setCommit p x).fresh = d.fresh := rfl

theorem Dev.tile_setTile (d : Dev) (k k' : Nat) (t : Tile) : (d.setTile k t).tile k' = if k' = k then t else d.tile k' :=
  SMap.get_put _ _ _ _ _
theorem Dev.cluster_setCluster (d : Dev) (c c' : Nat) (x : Cluster) : (d.setCluster c x).cluster c' = if c' = c then x else d.cluster c' :=
  SMap.get_put _ _ _ _ _
theorem Dev.job_setJob (d : Dev) (p p' : Nat) (j : Job) : (d.setJob p j).job p' = if p' = p then j else d.job p' :=
  SMap.get_put _ _ _ _ _
theorem Dev.req_setReq (d : Dev) (slot slot' : Nat) (r : ReqEntry) : (d.setReq slot r).req slot' = if slot' = slot then r else d.req slot' :=
  SMap.get_put _ _ _ _ _
theorem Dev.kv_setKv (d : Dev) (slot slot' : Nat) (v : KvSeq) : (d.setKv slot v).kv slot' = if slot' = slot then v else d.kv slot' :=
  SMap.get_put _ _ _ _ _
theorem Dev.stg_setStg (d : Dev) (k k' : Nat) (v : Staging) : (d.setStg k v).stg k' = if k' = k then v else d.stg k' :=
  SMap.get_put _ _ _ _ _
theorem Dev.graft_setGraft (d : Dev) (id id' : Nat) (g : Graft) : (d.setGraft id g).graft id' = if id' = id then g else d.graft id' :=
  SMap.get_put _ _ _ _ _
theorem Dev.port_setPort (d : Dev) (n n' : Nat) (p : Port) : (d.setPort n p).port n' = if n' = n then p else d.port n' :=
  SMap.get_put _ _ _ _ _
theorem Dev.window_setWindow (d : Dev) (id id' : Nat) (w : Window) : (d.setWindow id w).window id' = if id' = id then w else d.window id' :=
  SMap.get_put _ _ _ _ _
theorem Dev.queue_setQueue (d : Dev) (q q' : Nat) (x : Option QCtx) : (d.setQueue q x).queue q' = if q' = q then x else d.queue q' :=
  SMap.get_put _ _ _ _ _
theorem Dev.ring_setRing (d : Dev) (r r' : Nat) (x : Option RCtx) : (d.setRing r x).ring r' = if r' = r then x else d.ring r' :=
  SMap.get_put _ _ _ _ _
theorem Dev.fn_setFn (d : Dev) (f f' : Nat) (x : FnRegs) : (d.setFn f x).fn f' = if f' = f then x else d.fn f' :=
  SMap.get_put _ _ _ _ _
theorem Dev.pcs_setPcs (d : Dev) (n n' : Nat) (x : PcState) : (d.setPcs n x).pcs n' = if n' = n then x else d.pcs n' :=
  SMap.get_put _ _ _ _ _
theorem Dev.replica_setReplica (d : Dev) (p p' : Nat) (x : Replica) : (d.setReplica p x).replica p' = if p' = p then x else d.replica p' :=
  SMap.get_put _ _ _ _ _
theorem Dev.jobSetup_setJobSetup (d : Dev) (p p' : Nat) (x : JobSetup) : (d.setJobSetup p x).jobSetup p' = if p' = p then x else d.jobSetup p' :=
  SMap.get_put _ _ _ _ _
theorem Dev.partIn_setPart (d : Dev) (p p' : Nat) (x : PartEntry) : (d.setPart p x).partIn p' = if p' = p then x else d.partIn p' :=
  SMap.get_put _ _ _ _ _
theorem Dev.partAcc_setPartAcc (d : Dev) (p p' : Nat) (x : PartEntry) : (d.setPartAcc p x).partAcc p' = if p' = p then x else d.partAcc p' :=
  SMap.get_put _ _ _ _ _
theorem Dev.lane_setLane (d : Dev) (k k' : Nat) (x : LaneRec) : (d.setLane k x).lane k' = if k' = k then x else d.lane k' :=
  SMap.get_put _ _ _ _ _
theorem Dev.traceRing_setTraceRing (d : Dev) (p p' : Nat) (x : Ring) : (d.setTraceRing p x).traceRing p' = if p' = p then x else d.traceRing p' :=
  SMap.get_put _ _ _ _ _
theorem Dev.load_setLoad (d : Dev) (p p' : Nat) (x : Option ShardLoad) : (d.setLoad p x).load p' = if p' = p then x else d.load p' :=
  SMap.get_put _ _ _ _ _
theorem Dev.committing_setCommitting (d : Dev) (p p' : Nat) (x : Option (BitVec 2)) : (d.setCommitting p x).committing p' = if p' = p then x else d.committing p' :=
  SMap.get_put _ _ _ _ _

/-- A counter after a count. -/
theorem Dev.counter_count (d : Dev) (n k m : Nat) :
    (d.count n k).counter m = if m = n then d.counter n + BitVec.ofNat 64 k else d.counter m := SMap.get_put _ _ _ _ _

/-- A cluster counter after a count. -/
theorem Dev.counterC_countC (d : Dev) (c n k c' m : Nat) :
    (d.countC c n k).counterC c' m = if 64 * c' + m = 64 * c + n then d.counterC c n + BitVec.ofNat 64 k else d.counterC c' m :=
  SMap.get_put _ _ _ _ _

/-- A commit entry after a write of entry `p`: what was written, with COMMIT_SEQ one higher. -/
theorem Dev.commit_setCommit (d : Dev) (p p' : Nat) (x : Commit) :
    (d.setCommit p x).commit p' = if p' = p then { x with seq := (d.commit p).seq + 1 } else d.commit p' :=
  SMap.get_put _ _ _ _ _

/-- Work along a list keeps what each piece of it keeps. -/
theorem Dev.forAll_keeps {α β : Type} (g : Dev → β) (f : Dev → α → Dev) (h : ∀ d a, g (f d a) = g d) (xs : List α) (d : Dev) :
    g (d.forAll xs f) = g d := by
  unfold Dev.forAll
  induction xs generalizing d with
  | nil => rfl
  | cons x xs ih => rw [List.foldl_cons, ih, h]

/-- Work along a list keeps a property that each piece of it keeps. -/
theorem Dev.forAll_holds {α : Type} (P : Dev → Prop) (f : Dev → α → Dev) (h : ∀ d a, P d → P (f d a)) (xs : List α) (d : Dev)
    (hd : P d) : P (d.forAll xs f) := by
  unfold Dev.forAll
  induction xs generalizing d with
  | nil => exact hd
  | cons x xs ih => exact ih _ (h _ _ hd)

/-- A command's effect is a next state that leaves the queue as it was. -/
theorem State.on_next (s : State) (f : Dev → Dev) : s.on f = .next { s with dev := f s.dev } := rfl

end Sys2Proof.Machine
end

