-- ==== Sys2Proof/Laws/Vault.lean ====
section
/-! SUPPORT. No operation but an owner command touches the fuses and the key store: one lemma per operation. -/

namespace Sys2Proof.Machine

theorem Dev.vault_ite (c : Prop) [Decidable c] (a b : Dev) : (if c then a else b).vault = if c then a.vault else b.vault := by
  split <;> rfl

theorem Dev.forAll_vault {α : Type} (f : Dev → α → Dev) (h : ∀ d a, (f d a).vault = d.vault) (xs : List α) (d : Dev) :
    (d.forAll xs f).vault = d.vault := Dev.forAll_keeps Dev.vault f h xs d

theorem Dev.vault_mk (a b c e f g h i j k l m n o p) : (Dev.mk a b c e f g h i j k l m n o p).vault = n.vault := rfl

theorem SecBlk.vault_sec (d : Dev) : d.sec.vault = d.vault := rfl

theorem Dev.count_vault (d : Dev) (n : Nat) (k : Nat) : (Dev.count d n k).vault = d.vault := rfl

theorem Dev.countC_vault (d : Dev) (c n : Nat) (k : Nat) : (Dev.countC d c n k).vault = d.vault := rfl

theorem Dev.post_vault (d : Dev) (w : HostWrite) : (Dev.post d w).vault = d.vault := rfl

theorem Dev.answer_vault (d : Dev) (r : Reply) : (Dev.answer d r).vault = d.vault := rfl

theorem Dev.send_vault (d : Dev) (m : OutMsg) : (Dev.send d m).vault = d.vault := rfl

theorem Dev.draw_vault (d : Dev) : (Dev.draw d).vault = d.vault := rfl

theorem Dev.setTile_vault (d : Dev) (k : Nat) (t : Tile) : (Dev.setTile d k t).vault = d.vault := rfl

theorem Dev.updTile_vault (d : Dev) (k : Nat) (f : Tile → Tile) : (Dev.updTile d k f).vault = d.vault := by
  unfold Dev.updTile
  repeat' (first | with_reducible rfl | simp only [Dev.setTile_vault])

theorem Dev.updTable_vault (d : Dev) (lt : Nat) (f : CorrTab → CorrTab) : (Dev.updTable d lt f).vault = d.vault := rfl

theorem Dev.setCluster_vault (d : Dev) (c : Nat) (x : Cluster) : (Dev.setCluster d c x).vault = d.vault := rfl

theorem Dev.updCluster_vault (d : Dev) (c : Nat) (f : Cluster → Cluster) : (Dev.updCluster d c f).vault = d.vault := by
  unfold Dev.updCluster
  repeat' (first | with_reducible rfl | simp only [Dev.setCluster_vault])

theorem Dev.setJob_vault (d : Dev) (p : Nat) (j : Job) : (Dev.setJob d p j).vault = d.vault := rfl

theorem Dev.updJob_vault (d : Dev) (p : Nat) (f : Job → Job) : (Dev.updJob d p f).vault = d.vault := by
  unfold Dev.updJob
  repeat' (first | with_reducible rfl | simp only [Dev.setJob_vault])

theorem Dev.setReq_vault (d : Dev) (slot : Nat) (r : ReqEntry) : (Dev.setReq d slot r).vault = d.vault := rfl

theorem Dev.updReq_vault (d : Dev) (slot : Nat) (f : ReqEntry → ReqEntry) : (Dev.updReq d slot f).vault = d.vault := by
  unfold Dev.updReq
  repeat' (first | with_reducible rfl | simp only [Dev.setReq_vault])

theorem Dev.setKv_vault (d : Dev) (slot : Nat) (v : KvSeq) : (Dev.setKv d slot v).vault = d.vault := rfl

theorem Dev.setStg_vault (d : Dev) (k : Nat) (v : Staging) : (Dev.setStg d k v).vault = d.vault := rfl

theorem Dev.setGraft_vault (d : Dev) (id : Nat) (g : Graft) : (Dev.setGraft d id g).vault = d.vault := rfl

theorem Dev.updGraft_vault (d : Dev) (id : Nat) (f : Graft → Graft) : (Dev.updGraft d id f).vault = d.vault := by
  unfold Dev.updGraft
  repeat' (first | with_reducible rfl | simp only [Dev.setGraft_vault])

theorem Dev.setPort_vault (d : Dev) (n : Nat) (p : Port) : (Dev.setPort d n p).vault = d.vault := rfl

theorem Dev.updPort_vault (d : Dev) (n : Nat) (f : Port → Port) : (Dev.updPort d n f).vault = d.vault := by
  unfold Dev.updPort
  repeat' (first | with_reducible rfl | simp only [Dev.setPort_vault])

theorem Dev.setWindow_vault (d : Dev) (id : Nat) (w : Window) : (Dev.setWindow d id w).vault = d.vault := rfl

theorem Dev.setQueue_vault (d : Dev) (q : Nat) (x : Option QCtx) : (Dev.setQueue d q x).vault = d.vault := rfl

theorem Dev.updQueue_vault (d : Dev) (q : Nat) (f : QCtx → QCtx) : (Dev.updQueue d q f).vault = d.vault := by
  unfold Dev.updQueue
  repeat' (first | with_reducible rfl | simp only [Dev.setQueue_vault])

theorem Dev.setRing_vault (d : Dev) (r : Nat) (x : Option RCtx) : (Dev.setRing d r x).vault = d.vault := rfl

theorem Dev.setFn_vault (d : Dev) (f : Nat) (x : FnRegs) : (Dev.setFn d f x).vault = d.vault := rfl

theorem Dev.setPcs_vault (d : Dev) (n : Nat) (x : PcState) : (Dev.setPcs d n x).vault = d.vault := rfl

theorem Dev.setReplica_vault (d : Dev) (p : Nat) (x : Replica) : (Dev.setReplica d p x).vault = d.vault := rfl

theorem Dev.setBank_vault (d : Dev) (p b : Nat) (x : BankInfo) : (Dev.setBank d p b x).vault = d.vault := rfl

theorem Dev.setLoad_vault (d : Dev) (p : Nat) (x : Option ShardLoad) : (Dev.setLoad d p x).vault = d.vault := rfl

theorem Dev.setCommitting_vault (d : Dev) (p : Nat) (x : Option (BitVec 2)) : (Dev.setCommitting d p x).vault = d.vault := rfl

theorem Dev.setPartAcc_vault (d : Dev) (p : Nat) (x : PartEntry) : (Dev.setPartAcc d p x).vault = d.vault := rfl

theorem Dev.setPart_vault (d : Dev) (p : Nat) (x : PartEntry) : (Dev.setPart d p x).vault = d.vault := rfl

theorem Dev.setJobSetup_vault (d : Dev) (p : Nat) (x : JobSetup) : (Dev.setJobSetup d p x).vault = d.vault := rfl

theorem Dev.setLane_vault (d : Dev) (k : Nat) (x : LaneRec) : (Dev.setLane d k x).vault = d.vault := rfl

theorem Dev.setTraceRing_vault (d : Dev) (p : Nat) (x : Ring) : (Dev.setTraceRing d p x).vault = d.vault := rfl

theorem Dev.setWatch_vault (d : Dev) (p w : Nat) (x : Option Watch) : (Dev.setWatch d p w x).vault = d.vault := rfl

theorem Dev.setMem_vault (d : Dev) (m : List Host.Cell) : (Dev.setMem d m).vault = d.vault := rfl

theorem Dev.writeBytes_vault (d : Dev) (a : Nat) (bs : List Byte) : (Dev.writeBytes d a bs).vault = d.vault := by
  unfold Dev.writeBytes
  repeat' (first | with_reducible rfl | simp only [Dev.setMem_vault])

theorem Dev.zeroRange_vault (d : Dev) (a n : Nat) : (Dev.zeroRange d a n).vault = d.vault := by
  unfold Dev.zeroRange
  repeat' (first | with_reducible rfl | simp only [Dev.setMem_vault])

theorem Dev.reinject_vault (d : Dev) (n : Nat) : (Dev.reinject d n).vault = d.vault := by
  unfold Dev.reinject
  repeat' (first | with_reducible rfl | simp only [Dev.vault_mk, SecBlk.vault_sec, Dev.count_vault])

theorem Dev.setReg_vault (d : Dev) (o : Nat) (w : U32) : (Dev.setReg d o w).vault = d.vault := rfl

theorem Dev.setRegIn_vault (d : Dev) (o : Nat) (w : U32) : (Dev.setRegIn d o w).vault = d.vault := rfl

theorem Dev.applyRegs_vault (d : Dev) (sel : Nat → Bool) : (Dev.applyRegs d sel).vault = d.vault := by
  unfold Dev.applyRegs
  repeat' (first | with_reducible rfl | simp only [Dev.vault_ite, ite_self, Dev.setRegIn_vault] | split | (refine (Dev.forAll_vault _ ?_ _ _).trans ?_ <;> intros))

theorem Dev.stackWrite_vault (d : Dev) (a : Nat) (bs : List Byte) : (Dev.stackWrite d a bs).vault = d.vault := by
  unfold Dev.stackWrite
  repeat' (first | with_reducible rfl | simp only [Dev.setMem_vault])

theorem Dev.msix_vault (d : Dev) (fn : Nat) (vector : BitVec 11) : (Dev.msix d fn vector).vault = d.vault := by
  unfold Dev.msix
  repeat' (first | with_reducible rfl | simp only [Dev.vault_ite, ite_self, Dev.count_vault, Dev.post_vault, Dev.setFn_vault])

theorem Dev.signalQueue_vault (d : Dev) (q : Nat) : (Dev.signalQueue d q).vault = d.vault := by
  unfold Dev.signalQueue
  repeat' (first | with_reducible rfl | simp only [Dev.vault_ite, ite_self, Dev.msix_vault, Dev.setQueue_vault] | split)

theorem Dev.storeCtx_vault (d : Dev) (key : Nat) : (Dev.storeCtx d key).vault = d.vault := by
  unfold Dev.storeCtx
  repeat' (first | with_reducible rfl | simp only [Dev.stackWrite_vault])

theorem Dev.cacheCtx_vault (d : Dev) (key : Nat) : (Dev.cacheCtx d key).vault = d.vault := by
  unfold Dev.cacheCtx
  repeat' (first | with_reducible rfl | simp only [Dev.vault_ite, Dev.vault_mk, SecBlk.vault_sec, Dev.storeCtx_vault] | split)

theorem Dev.touchCtx_vault (d : Dev) (key : Nat) : (Dev.touchCtx d key).vault = d.vault := by
  unfold Dev.touchCtx
  repeat' (first | with_reducible rfl | simp only [Dev.vault_ite, ite_self, Dev.cacheCtx_vault, Dev.count_vault])

theorem Dev.writeCompletion_vault (d : Dev) (q : Nat) (w : BitVec 256) : (Dev.writeCompletion d q w).vault = d.vault := by
  unfold Dev.writeCompletion
  repeat' (first | with_reducible rfl | simp only [Dev.vault_ite, ite_self, Dev.count_vault, Dev.post_vault, Dev.setQueue_vault, Dev.signalQueue_vault, Dev.touchCtx_vault] | split)

theorem Dev.writeRecord_vault (d : Dev) (r : Nat) (final : Bool) (w : U64) : (Dev.writeRecord d r final w).vault = d.vault := by
  unfold Dev.writeRecord
  repeat' (first | with_reducible rfl | simp only [Dev.vault_ite, ite_self, Dev.count_vault, Dev.msix_vault, Dev.post_vault, Dev.setRing_vault, Dev.touchCtx_vault] | split)

theorem Dev.noteAdmitted_vault (d : Dev) (q : Nat) (sqHead : U16) (tag : U64) (h : U32) : (Dev.noteAdmitted d q sqHead tag h).vault = d.vault := by
  unfold Dev.noteAdmitted
  repeat' (first | with_reducible rfl | simp only [Dev.vault_mk, SecBlk.vault_sec] | split)

theorem Dev.packAnswer_vault (d : Dev) (node : BitVec 7) (ok : Bool) : (Dev.packAnswer d node ok).vault = d.vault := by
  unfold Dev.packAnswer
  repeat' (first | with_reducible rfl | simp only [Dev.vault_ite, Dev.vault_mk, SecBlk.vault_sec, ite_self])

theorem Dev.applyHostWrite_vault (d : Dev) (m : HostWriteMsg) : (Dev.applyHostWrite d m).vault = d.vault := by
  unfold Dev.applyHostWrite
  repeat' (first | with_reducible rfl | simp only [Dev.vault_ite, Dev.vault_mk, SecBlk.vault_sec, ite_self, Dev.noteAdmitted_vault, Dev.packAnswer_vault, Dev.post_vault, Dev.updJob_vault, Dev.writeCompletion_vault, Dev.writeRecord_vault] | split)

theorem Dev.dropCommands_vault (d : Dev) (p : Nat) : (Dev.dropCommands d p).vault = d.vault := by
  unfold Dev.dropCommands
  repeat' (first | with_reducible rfl | simp only [Dev.vault_mk, SecBlk.vault_sec, Dev.setQueue_vault] | split | (refine (Dev.forAll_vault _ ?_ _ _).trans ?_ <;> intros))

theorem Dev.toStandby_vault (d : Dev) (i : StandbyItem) (m : OutMsg) : (Dev.toStandby d i m).vault = d.vault := by
  unfold Dev.toStandby
  repeat' (first | with_reducible rfl | simp only [Dev.vault_mk, SecBlk.vault_sec, Dev.send_vault])

theorem Dev.hostWrite_vault (d : Dev) (m : HostWriteMsg) : (Dev.hostWrite d m).vault = d.vault := by
  unfold Dev.hostWrite
  repeat' (first | with_reducible rfl | simp only [Dev.vault_ite, ite_self, Dev.applyHostWrite_vault, Dev.send_vault, Dev.toStandby_vault] | split)

theorem Dev.completeNamed_vault (d : Dev) (o : Origin) (opcode : Byte) (h result : U32) : (Dev.completeNamed d o opcode h result).vault = d.vault := by
  unfold Dev.completeNamed
  repeat' (first | with_reducible rfl | simp only [Dev.hostWrite_vault])

theorem Dev.complete_vault (d : Dev) (o : Origin) (opcode status : Byte) (result : U32) : (Dev.complete d o opcode status result).vault = d.vault := by
  unfold Dev.complete
  repeat' (first | with_reducible rfl | simp only [Dev.hostWrite_vault])

theorem Dev.completeRequest_vault (d : Dev) (slot : Nat) (r : ReqEntry) (state : ReqState) : (Dev.completeRequest d slot r state).vault = d.vault := by
  unfold Dev.completeRequest
  repeat' (first | with_reducible rfl | simp only [Dev.hostWrite_vault])

theorem Dev.event_vault (d : Dev) (e : EventRec) : (Dev.event d e).vault = d.vault := by
  unfold Dev.event
  repeat' (first | with_reducible rfl | simp only [Dev.vault_ite, Dev.vault_mk, SecBlk.vault_sec, ite_self, Dev.msix_vault])

theorem Dev.violation_vault (d : Dev) (p : Nat) : (Dev.violation d p).vault = d.vault := by
  unfold Dev.violation
  repeat' (first | with_reducible rfl | simp only [Dev.vault_ite, Dev.vault_mk, SecBlk.vault_sec, ite_self, Dev.event_vault])

theorem Dev.refuseAccess_vault (d : Dev) (p : Nat) : (Dev.refuseAccess d p).vault = d.vault := by
  unfold Dev.refuseAccess
  repeat' (first | with_reducible rfl | simp only [Dev.count_vault, Dev.violation_vault])

theorem Dev.unitRead_vault (d : Dev) (p addr len : Nat) : (Dev.unitRead d p addr len).1.vault = d.vault := by
  unfold Dev.unitRead
  repeat' (first | with_reducible rfl | simp only [Dev.refuseAccess_vault] | split)

theorem Dev.unitWrite_vault (d : Dev) (p addr : Nat) (bs : List Byte) : (Dev.unitWrite d p addr bs).vault = d.vault := by
  unfold Dev.unitWrite
  repeat' (first | with_reducible rfl | simp only [Dev.vault_ite, ite_self, Dev.refuseAccess_vault, Dev.stackWrite_vault])

theorem Dev.suspendBounds_vault (d : Dev) (p : Nat) : (Dev.suspendBounds d p).vault = d.vault := by
  unfold Dev.suspendBounds
  repeat' (first | with_reducible rfl | simp only [Dev.vault_mk, SecBlk.vault_sec])

theorem Dev.takeNotice_vault (d : Dev) (n : Notice) : (Dev.takeNotice d n).vault = d.vault := by
  unfold Dev.takeNotice
  repeat' (first | with_reducible rfl | simp only [Dev.vault_ite, ite_self, Dev.event_vault, Dev.updJob_vault] | split | (refine (Dev.forAll_vault _ ?_ _ _).trans ?_ <;> intros))

theorem Dev.newLimits_vault (d : Dev) : (Dev.newLimits d).vault = d.vault := rfl

theorem Dev.notice_vault (d : Dev) (cause : BitVec 3) : (Dev.notice d cause).vault = d.vault := by
  unfold Dev.notice
  repeat' (first | with_reducible rfl | simp only [Dev.send_vault, Dev.takeNotice_vault])

theorem Dev.log_vault (d : Dev) (kind event : BitVec 4) (ruling : BitVec 2) (origin : BitVec 3) (unit : Nat) (step : U48) (detail : U32) : (Dev.log d kind event ruling origin unit step detail).vault = d.vault := by
  unfold Dev.log
  repeat' (first | with_reducible rfl | simp only [Dev.vault_ite, Dev.vault_mk, SecBlk.vault_sec, ite_self, Dev.count_vault])

theorem Dev.mark_vault (d : Dev) (p : Nat) : (Dev.mark d p).vault = d.vault := by
  unfold Dev.mark
  repeat' (first | with_reducible rfl | simp only [Dev.vault_ite, ite_self, Dev.count_vault, Dev.updJob_vault] | split)

theorem Dev.takeOpReport_vault (d : Dev) (p : Nat) (step : U48) (grads : List (Nat × List Byte)) (xfer : Option Byte) : (Dev.takeOpReport d p step grads xfer).vault = d.vault := by
  unfold Dev.takeOpReport
  repeat' (first | with_reducible rfl | simp only [Dev.updJob_vault])

theorem Dev.reportOp_vault (d : Dev) (p : Nat) (step : U48) (grads : List (Nat × List Byte)) (xfer : Option Byte) : (Dev.reportOp d p step grads xfer).vault = d.vault := by
  unfold Dev.reportOp
  repeat' (first | with_reducible rfl | simp only [Dev.vault_ite, ite_self, Dev.send_vault, Dev.takeOpReport_vault])

theorem Dev.closeWindow_vault (d : Dev) (id : Nat) : (Dev.closeWindow d id).vault = d.vault := by
  unfold Dev.closeWindow
  repeat' (first | with_reducible rfl | simp only [Dev.setWindow_vault])

theorem Dev.closeWindows_vault (d : Dev) (sel : Nat → Window → Bool) : (Dev.closeWindows d sel).vault = d.vault := by
  unfold Dev.closeWindows
  repeat' (first | with_reducible rfl | simp only [Dev.vault_ite, ite_self, Dev.closeWindow_vault] | split | (refine (Dev.forAll_vault _ ?_ _ _).trans ?_ <;> intros))

theorem Dev.toMembers_vault (d : Dev) (p : Nat) (m : Nat → OutMsg) : (Dev.toMembers d p m).vault = d.vault := by
  unfold Dev.toMembers
  repeat' (first | with_reducible rfl | simp only [Dev.send_vault] | split | (refine (Dev.forAll_vault _ ?_ _ _).trans ?_ <;> intros))

theorem Dev.takePage_vault (d : Dev) (p : Nat) : (Dev.takePage d p).vault = d.vault := by
  unfold Dev.takePage
  repeat' (first | with_reducible rfl | simp only [Dev.vault_mk, SecBlk.vault_sec, Dev.count_vault])

theorem Dev.takeFor_vault (d : Dev) (slot p : Nat) : (Dev.takeFor d slot p).vault = d.vault := by
  unfold Dev.takeFor
  repeat' (first | with_reducible rfl | simp only [Dev.vault_ite, Dev.vault_mk, SecBlk.vault_sec, ite_self, Dev.setKv_vault, Dev.takePage_vault])

theorem Dev.givePage_vault (d : Dev) (p : Nat) : (Dev.givePage d p).vault = d.vault := rfl

theorem Dev.writeEntry_vault (d : Dev) (p l i : Nat) (w : U32) : (Dev.writeEntry d p l i w).vault = d.vault := by
  unfold Dev.writeEntry
  repeat' (first | with_reducible rfl | simp only [Dev.count_vault, Dev.unitWrite_vault])

theorem Dev.clearPage_vault (d : Dev) (p page : Nat) : (Dev.clearPage d p page).vault = d.vault := by
  unfold Dev.clearPage
  repeat' (first | with_reducible rfl | simp only [Dev.vault_ite, ite_self, Dev.refuseAccess_vault, Dev.zeroRange_vault])

theorem Dev.enterPage_vault (d : Dev) (slot p : Nat) : (Dev.enterPage d slot p).vault = d.vault := by
  unfold Dev.enterPage
  repeat' (first | with_reducible rfl | simp only [Dev.vault_ite, ite_self, Dev.clearPage_vault, Dev.setKv_vault, Dev.takeFor_vault, Dev.updReq_vault, Dev.writeEntry_vault] | split)

theorem Dev.allocPages_vault (d : Dev) (slot n : Nat) : (d.allocPages slot n).vault = d.vault := by
  induction n generalizing d with
  | zero => rfl
  | succ n ih => unfold Dev.allocPages; split; rfl; rw [ih, Dev.enterPage_vault, Dev.takeFor_vault]

theorem Dev.reservePages_vault (d : Dev) (slot n : Nat) : (d.reservePages slot n).vault = d.vault := by
  unfold Dev.reservePages
  dsimp only
  split <;> simp only [Dev.setKv_vault, Dev.takeFor_vault, Dev.allocPages_vault]

theorem Dev.freeKv_vault (d : Dev) (slot : Nat) : (Dev.freeKv d slot).vault = d.vault := by
  unfold Dev.freeKv
  repeat' (first | with_reducible rfl | simp only [Dev.vault_mk, SecBlk.vault_sec, Dev.setKv_vault])

theorem Dev.freeEntry_vault (d : Dev) (slot : Nat) : (Dev.freeEntry d slot).vault = d.vault := by
  unfold Dev.freeEntry
  repeat' (first | with_reducible rfl | simp only [Dev.freeKv_vault, Dev.updReq_vault])

theorem Dev.promise_vault (d : Dev) (p : Nat) (prompt : Bool) (count : Nat → Nat) : (Dev.promise d p prompt count).vault = d.vault := by
  unfold Dev.promise
  repeat' (first | with_reducible rfl | simp only [Dev.updJob_vault])

theorem Dev.bindGraft_vault (d : Dev) (id : BitVec 12) (ver : U16) : (Dev.bindGraft d id ver).vault = d.vault := by
  unfold Dev.bindGraft
  repeat' (first | with_reducible rfl | simp only [Dev.updGraft_vault])

theorem Dev.unbindGraft_vault (d : Dev) (id : BitVec 12) (ver : U16) : (Dev.unbindGraft d id ver).vault = d.vault := by
  unfold Dev.unbindGraft
  repeat' (first | with_reducible rfl | simp only [Dev.updGraft_vault])

theorem Dev.dropLines_vault (d : Dev) (cs : List Nat) (sel : LineKind → Bool) : (Dev.dropLines d cs sel).vault = d.vault := by
  unfold Dev.dropLines
  repeat' (first | with_reducible rfl | simp only [Dev.updCluster_vault] | split | (refine (Dev.forAll_vault _ ?_ _ _).trans ?_ <;> intros))

theorem Dev.reclaimVersion_vault (d : Dev) (id : Nat) (ver : U16) : (Dev.reclaimVersion d id ver).vault = d.vault := by
  unfold Dev.reclaimVersion
  repeat' (first | with_reducible rfl | simp only [Dev.vault_ite, ite_self, Dev.count_vault, Dev.dropLines_vault, Dev.updGraft_vault])

theorem Dev.dropLoad_vault (d : Dev) (id load : Nat) : (Dev.dropLoad d id load).vault = d.vault := by
  unfold Dev.dropLoad
  repeat' (first | with_reducible rfl | simp only [Dev.updGraft_vault])

theorem Dev.reclaimGrafts_vault (d : Dev) (p : Nat) (ids : List Nat) : (Dev.reclaimGrafts d p ids).vault = d.vault := by
  unfold Dev.reclaimGrafts
  repeat' (first | with_reducible rfl | simp only [Dev.reclaimVersion_vault, Dev.updJob_vault] | split | (refine (Dev.forAll_vault _ ?_ _ _).trans ?_ <;> intros))

theorem Dev.finalRecord_vault (d : Dev) (r : ReqEntry) (reason : BitVec 4) : (Dev.finalRecord d r reason).vault = d.vault := by
  unfold Dev.finalRecord
  repeat' (first | with_reducible rfl | simp only [Dev.count_vault, Dev.hostWrite_vault])

theorem Dev.mirrorOut_vault (d : Dev) (p slot : Nat) : (Dev.mirrorOut d p slot).vault = d.vault := by
  unfold Dev.mirrorOut
  repeat' (first | with_reducible rfl | simp only [Dev.hostWrite_vault])

theorem Dev.endRequest_vault (d : Dev) (slot : Nat) (state : ReqState) (reason : BitVec 4) (final : Bool) : (Dev.endRequest d slot state reason final).vault = d.vault := by
  unfold Dev.endRequest
  repeat' (first | with_reducible rfl | simp only [Dev.vault_ite, ite_self, Dev.completeRequest_vault, Dev.count_vault, Dev.finalRecord_vault, Dev.mirrorOut_vault, Dev.setReq_vault, Dev.unbindGraft_vault, Dev.updJob_vault])

theorem Dev.loseRequest_vault (d : Dev) (slot : Nat) : (Dev.loseRequest d slot).vault = d.vault := by
  unfold Dev.loseRequest
  repeat' (first | with_reducible rfl | simp only [Dev.vault_ite, ite_self, Dev.endRequest_vault, Dev.updJob_vault])

theorem Dev.copyCommit_vault (d : Dev) (p : Nat) : (Dev.copyCommit d p).vault = d.vault := by
  unfold Dev.copyCommit
  repeat' (first | with_reducible rfl | simp only [Dev.stackWrite_vault])

theorem Dev.setCommit_vault (d : Dev) (p : Nat) (x : Commit) : (d.setCommit p x).vault = d.vault := by
  unfold Dev.setCommit
  rw [Dev.copyCommit_vault, Dev.vault_mk]
  rfl

theorem Dev.takeCommit_vault (d : Dev) (p : Nat) : (d.takeCommit p).vault = d.vault := by
  unfold Dev.takeCommit
  rw [Dev.copyCommit_vault, Dev.vault_mk]
  rfl

theorem Dev.reportBanks_vault (d : Dev) (p : Nat) : (Dev.reportBanks d p).vault = d.vault := by
  unfold Dev.reportBanks
  repeat' (first | with_reducible rfl | simp only [Dev.vault_ite, ite_self, Dev.send_vault] | split)

theorem Dev.askBanks_vault (d : Dev) (p : Nat) : (Dev.askBanks d p).vault = d.vault := by
  unfold Dev.askBanks
  repeat' (first | with_reducible rfl | simp only [Dev.vault_ite, ite_self, Dev.toMembers_vault])

theorem Dev.takeBankReport_vault (d : Dev) (p m : Nat) (active ready : U32) : (Dev.takeBankReport d p m active ready).vault = d.vault := by
  unfold Dev.takeBankReport
  repeat' (first | with_reducible rfl | simp only [Dev.vault_ite, ite_self, Dev.updJob_vault])

theorem Dev.powerCluster_vault (d : Dev) (c : Nat) : (Dev.powerCluster d c).vault = d.vault := by
  unfold Dev.powerCluster
  repeat' (first | with_reducible rfl | simp only [Dev.vault_ite, ite_self, Dev.updTile_vault] | split | (refine (Dev.forAll_vault _ ?_ _ _).trans ?_ <;> intros))

theorem Dev.loadSchedule_vault (d : Dev) (p b : Nat) : (Dev.loadSchedule d p b).vault = d.vault := by
  unfold Dev.loadSchedule
  repeat' (first | with_reducible rfl | simp only [Dev.vault_ite, Dev.vault_mk, SecBlk.vault_sec, Dev.updCluster_vault, Dev.updJob_vault, Dev.updTable_vault] | split | (refine (Dev.forAll_vault _ ?_ _ _).trans ?_ <;> intros))

theorem Dev.rehold_vault (d : Dev) (k : Nat) : (Dev.rehold d k).vault = d.vault := by
  unfold Dev.rehold
  repeat' (first | with_reducible rfl | simp only [Dev.updCluster_vault])

theorem Dev.unwait_vault (d : Dev) (k rank : Nat) : (Dev.unwait d k rank).vault = d.vault := by
  unfold Dev.unwait
  repeat' (first | with_reducible rfl | simp only [Dev.updCluster_vault])

theorem Dev.unwaitAll_vault (d : Dev) (k : Nat) : (Dev.unwaitAll d k).vault = d.vault := by
  unfold Dev.unwaitAll
  repeat' (first | with_reducible rfl | simp only [Dev.updCluster_vault])

theorem Dev.orderTile_vault (d : Dev) (k : Nat) : (Dev.orderTile d k).vault = d.vault := by
  unfold Dev.orderTile
  repeat' (first | with_reducible rfl | simp only [Dev.rehold_vault, Dev.unwaitAll_vault, Dev.updTile_vault])

theorem Dev.orderProgramming_vault (d : Dev) (p b : Nat) : (Dev.orderProgramming d p b).vault = d.vault := by
  unfold Dev.orderProgramming
  repeat' (first | with_reducible rfl | simp only [Dev.orderTile_vault] | split | (refine (Dev.forAll_vault _ ?_ _ _).trans ?_ <;> intros))

theorem Dev.reprogramActive_vault (d : Dev) (p : Nat) : (Dev.reprogramActive d p).vault = d.vault := by
  unfold Dev.reprogramActive
  repeat' (first | with_reducible rfl | simp only [Dev.askBanks_vault, Dev.loadSchedule_vault, Dev.orderProgramming_vault, Dev.reportBanks_vault, Dev.updJob_vault] | split)

theorem Dev.loseStack_vault (d : Dev) : (Dev.loseStack d).vault = d.vault := rfl

theorem Dev.clearBlocks_vault (d : Dev) (soft : Bool) : (d.clearBlocks soft).vault = d.vault := by
  cases soft <;> rfl

theorem Dev.enterReset_vault (d : Dev) (cause : BitVec 4) (soft : Bool) : (Dev.enterReset d cause soft).vault = d.vault := by
  unfold Dev.enterReset
  repeat' (first | with_reducible rfl | simp only [Dev.vault_ite, Dev.vault_mk, SecBlk.vault_sec, ite_self, Dev.clearBlocks_vault])

theorem Dev.losePower_vault (d : Dev) : (Dev.losePower d).vault = d.vault := by
  unfold Dev.losePower
  repeat' (first | with_reducible rfl | simp only [Dev.vault_mk, SecBlk.vault_sec, Dev.clearBlocks_vault, Dev.loseStack_vault])

theorem Dev.releaseReset_vault (d : Dev) (nodeId : BitVec 7) (spareSel testEn : Bool) : (Dev.releaseReset d nodeId spareSel testEn).vault = d.vault := by
  unfold Dev.releaseReset
  repeat' (first | with_reducible rfl | simp only [Dev.vault_ite, Dev.vault_mk, SecBlk.vault_sec, Dev.takeCommit_vault] | split | (refine (Dev.forAll_vault _ ?_ _ _).trans ?_ <;> intros))
  all_goals rfl

theorem Dev.stepOver_vault (d : Dev) (p : Nat) : (Dev.stepOver d p).vault = d.vault := by
  unfold Dev.stepOver
  repeat' (first | with_reducible rfl | simp only [Dev.vault_ite, Dev.vault_mk, SecBlk.vault_sec, ite_self, Dev.updJob_vault])

theorem Dev.endSweep_vault (d : Dev) : (Dev.endSweep d).vault = d.vault := by
  unfold Dev.endSweep
  repeat' (first | with_reducible rfl | simp only [Dev.vault_mk, SecBlk.vault_sec, Dev.count_vault, Dev.log_vault])

theorem Dev.leaveSweep_vault (d : Dev) (ks : List Nat) : (Dev.leaveSweep d ks).vault = d.vault := by
  unfold Dev.leaveSweep
  repeat' (first | with_reducible rfl | simp only [Dev.vault_ite, Dev.vault_mk, SecBlk.vault_sec, ite_self, Dev.endSweep_vault])

theorem Dev.portsDown_vault (d : Dev) : (Dev.portsDown d).vault = d.vault := by
  unfold Dev.portsDown
  repeat' (first | with_reducible rfl | simp only [Dev.vault_mk, SecBlk.vault_sec, Dev.reinject_vault] | split | (refine (Dev.forAll_vault _ ?_ _ _).trans ?_ <;> intros))

theorem Dev.divide_vault (d : Dev) (b : Nat) (k : Setting) (js sel : Nat → Bool) : (Dev.divide d b k js sel).vault = d.vault := by
  unfold Dev.divide
  repeat' (first | with_reducible rfl | simp only [Dev.vault_mk, SecBlk.vault_sec, Dev.updJob_vault] | split | (refine (Dev.forAll_vault _ ?_ _ _).trans ?_ <;> intros))

theorem Dev.divideIdle_vault (d : Dev) : (Dev.divideIdle d).vault = d.vault := by
  unfold Dev.divideIdle
  repeat' (first | with_reducible rfl | simp only [Dev.divide_vault])

theorem Dev.stageLimits_vault (d : Dev) : (Dev.stageLimits d).vault = d.vault := by
  unfold Dev.stageLimits
  repeat' (first | with_reducible rfl | simp only [Dev.vault_ite, Dev.vault_mk, SecBlk.vault_sec, ite_self, Dev.divide_vault, Dev.divideIdle_vault, Dev.newLimits_vault])

theorem Dev.divideNow_vault (d : Dev) : (Dev.divideNow d).vault = d.vault := by
  unfold Dev.divideNow
  repeat' (first | with_reducible rfl | simp only [Dev.divide_vault])

theorem Dev.raiseReserve_vault (d : Dev) : (Dev.raiseReserve d).vault = d.vault := by
  unfold Dev.raiseReserve
  repeat' (first | with_reducible rfl | simp only [Dev.divide_vault])

theorem Dev.refloor_vault (d : Dev) (c : Nat) : (Dev.refloor d c).vault = d.vault := by
  unfold Dev.refloor
  repeat' (first | with_reducible rfl | simp only [Dev.vault_ite, ite_self, Dev.divideIdle_vault])

theorem Dev.passBudget_vault (d : Dev) (p : Nat) : (Dev.passBudget d p).vault = d.vault := by
  unfold Dev.passBudget
  repeat' (first | with_reducible rfl | simp only [Dev.vault_ite, Dev.vault_mk, SecBlk.vault_sec, ite_self, Dev.divide_vault, Dev.newLimits_vault])

theorem Dev.passRegs_vault (d : Dev) (p : Nat) : (Dev.passRegs d p).vault = d.vault := by
  unfold Dev.passRegs
  repeat' (first | with_reducible rfl | simp only [Dev.vault_mk, SecBlk.vault_sec, Dev.applyRegs_vault])

theorem Dev.resetPartition_vault (d : Dev) (p : Nat) : (Dev.resetPartition d p).vault = d.vault := by
  unfold Dev.resetPartition
  repeat' (first | with_reducible rfl | simp only [Dev.vault_mk, SecBlk.vault_sec, Dev.closeWindows_vault, Dev.divideIdle_vault, Dev.dropCommands_vault, Dev.freeEntry_vault, Dev.hostWrite_vault, Dev.leaveSweep_vault, Dev.powerCluster_vault, Dev.reprogramActive_vault, Dev.setReg_vault, Dev.setRegIn_vault, Dev.stepOver_vault, Dev.updCluster_vault, Dev.updJob_vault, Dev.updTile_vault] | split | (refine (Dev.forAll_vault _ ?_ _ _).trans ?_ <;> intros))

theorem Dev.await_vault (d : Dev) (k charge rank : Nat) : (Dev.await d k charge rank).vault = d.vault := by
  unfold Dev.await
  repeat' (first | with_reducible rfl | simp only [Dev.vault_ite, ite_self, Dev.divideIdle_vault, Dev.updCluster_vault])

theorem Dev.ask_vault (d : Dev) (k charge rank : Nat) : (Dev.ask d k charge rank).1.vault = d.vault := by
  unfold Dev.ask
  repeat' (first | with_reducible rfl | simp only [Dev.await_vault, Dev.unwait_vault] | split)

theorem Dev.beginTest_vault (d : Dev) (k : Nat) : (Dev.beginTest d k).vault = d.vault := by
  unfold Dev.beginTest
  repeat' (first | with_reducible rfl | simp only [Dev.vault_ite, ite_self, Dev.ask_vault, Dev.rehold_vault, Dev.updTile_vault])

theorem Dev.nextTest_vault (d : Dev) (c : Nat) : (Dev.nextTest d c).vault = d.vault := by
  unfold Dev.nextTest
  repeat' (first | with_reducible rfl | simp only [Dev.beginTest_vault] | split)

theorem Dev.takeCal_vault (d : Dev) (c : Nat) : (Dev.takeCal d c).vault = d.vault := by
  unfold Dev.takeCal
  repeat' (first | with_reducible rfl | simp only [Dev.updCluster_vault])

theorem Dev.calibrateTiles_vault (d : Dev) (ks : List Nat) (trig : BitVec 3) : (Dev.calibrateTiles d ks trig).vault = d.vault := by
  unfold Dev.calibrateTiles
  repeat' (first | with_reducible rfl | simp only [Dev.vault_ite, Dev.vault_mk, SecBlk.vault_sec, Dev.takeCal_vault, Dev.updTile_vault] | split | (refine (Dev.forAll_vault _ ?_ _ _).trans ?_ <;> intros))

theorem Dev.calibrateDevice_vault (d : Dev) : (Dev.calibrateDevice d).vault = d.vault := by
  unfold Dev.calibrateDevice
  repeat' (first | with_reducible rfl | simp only [Dev.vault_mk, SecBlk.vault_sec, Dev.calibrateTiles_vault])

theorem Dev.tempTrigger_vault (d : Dev) : (Dev.tempTrigger d).vault = d.vault := by
  unfold Dev.tempTrigger
  repeat' (first | with_reducible rfl | simp only [Dev.vault_ite, Dev.vault_mk, SecBlk.vault_sec, ite_self, Dev.calibrateDevice_vault, Dev.count_vault])

theorem Dev.noteImage_vault (d : Dev) (c l : Nat) : (Dev.noteImage d c l).vault = d.vault := by
  unfold Dev.noteImage
  repeat' (first | with_reducible rfl | simp only [Dev.vault_ite, ite_self, Dev.refuseAccess_vault])

theorem Dev.useRow_vault (d : Dev) (c r : Nat) : (Dev.useRow d c r).vault = d.vault := by
  unfold Dev.useRow
  repeat' (first | with_reducible rfl | simp only [Dev.vault_ite, ite_self, Dev.countC_vault, Dev.updCluster_vault] | split)

theorem Dev.setSpad_vault (d : Dev) (c r : Nat) (w : BitVec 4096) : (Dev.setSpad d c r w).vault = d.vault := by
  unfold Dev.setSpad
  repeat' (first | with_reducible rfl | simp only [Dev.updCluster_vault, Dev.useRow_vault])

theorem Dev.pokeSpad_vault (d : Dev) (c r at_ : Nat) (bs : List Byte) : (Dev.pokeSpad d c r at_ bs).vault = d.vault := by
  unfold Dev.pokeSpad
  repeat' (first | with_reducible rfl | simp only [Dev.updCluster_vault])

theorem Dev.patchSpad_vault (d : Dev) (c r at_ : Nat) (bs : List Byte) : (Dev.patchSpad d c r at_ bs).vault = d.vault := by
  unfold Dev.patchSpad
  repeat' (first | with_reducible rfl | simp only [Dev.pokeSpad_vault, Dev.useRow_vault])

theorem Dev.tune_vault (d : Dev) (p : Nat) (f : TuningRec → TuningRec) : (Dev.tune d p f).vault = d.vault := by
  unfold Dev.tune
  repeat' (first | with_reducible rfl | simp only [Dev.updJob_vault] | split)

theorem Dev.keepVec_vault (d : Dev) (c l : Nat) (v : EdgeVec) (ms es : List Byte) : (Dev.keepVec d c l v ms es).vault = d.vault := by
  unfold Dev.keepVec
  repeat' (first | with_reducible rfl | simp only [Dev.vault_ite, ite_self, Dev.tune_vault] | split)

theorem Dev.lookup_vault (d : Dev) (c : Nat) (l : LineKind) : (Dev.lookup d c l).vault = d.vault := by
  unfold Dev.lookup
  repeat' (first | with_reducible rfl | simp only [Dev.vault_ite, ite_self, Dev.countC_vault, Dev.setCluster_vault] | split)

theorem Dev.useLine_vault (d : Dev) (c : Nat) (l : LineKind) : (Dev.useLine d c l).vault = d.vault := by
  unfold Dev.useLine
  repeat' (first | with_reducible rfl | simp only [Dev.updCluster_vault])

theorem Dev.setAccLane_vault (d : Dev) (c n : Nat) (l : Lane) : (Dev.setAccLane d c n l).vault = d.vault := by
  unfold Dev.setAccLane
  repeat' (first | with_reducible rfl | simp only [Dev.vault_ite, ite_self, Dev.countC_vault, Dev.updCluster_vault])

theorem Dev.addLane_vault (d : Dev) (c n : Nat) (v u : Int) : (Dev.addLane d c n v u).vault = d.vault := by
  unfold Dev.addLane
  repeat' (first | with_reducible rfl | simp only [Dev.setAccLane_vault])

theorem Dev.poisonLanes_vault (d : Dev) (c n k : Nat) : (Dev.poisonLanes d c n k).vault = d.vault := by
  unfold Dev.poisonLanes
  repeat' (first | with_reducible rfl | simp only [Dev.updCluster_vault])

theorem Dev.addPartials_vault (d : Dev) (c lt : Nat) (v : EdgeVec) (P : List Int) : (Dev.addPartials d c lt v P).vault = d.vault := by
  unfold Dev.addPartials
  repeat' (first | with_reducible rfl | simp only [Dev.addLane_vault] | split | (refine (Dev.forAll_vault _ ?_ _ _).trans ?_ <;> intros))

theorem Dev.sidePath_vault (d : Dev) (c l : Nat) (v : EdgeVec) (ms es : List Byte) (channels : List Nat) : (Dev.sidePath d c l v ms es channels).vault = d.vault := by
  unfold Dev.sidePath
  repeat' (first | with_reducible rfl | simp only [Dev.addLane_vault] | split | (refine (Dev.forAll_vault _ ?_ _ _).trans ?_ <;> intros))

theorem Dev.sideTransposed_vault (d : Dev) (c l : Nat) (v : EdgeVec) (ms es : List Byte) : (Dev.sideTransposed d c l v ms es).vault = d.vault := by
  unfold Dev.sideTransposed
  repeat' (first | with_reducible rfl | simp only [Dev.addLane_vault] | split | (refine (Dev.forAll_vault _ ?_ _ _).trans ?_ <;> intros))

theorem Dev.addSide_vault (d : Dev) (c l : Nat) (v : EdgeVec) (ms es : List Byte) (channels : List Nat) : (Dev.addSide d c l v ms es channels).vault = d.vault := by
  unfold Dev.addSide
  repeat' (first | with_reducible rfl | simp only [Dev.vault_ite, ite_self, Dev.sidePath_vault, Dev.sideTransposed_vault])

theorem Dev.lineArrives_vault (d : Dev) (c : Nat) (line : LineKind) : (Dev.lineArrives d c line).vault = d.vault := by
  unfold Dev.lineArrives
  repeat' (first | with_reducible rfl | simp only [Dev.addSide_vault, Dev.updCluster_vault] | split | (refine (Dev.forAll_vault _ ?_ _ _).trans ?_ <;> intros))

theorem Dev.standInAdd_vault (d : Dev) (lt : Nat) (v : EdgeVec) (onDahlia : Bool) : (Dev.standInAdd d lt v onDahlia).vault = d.vault := by
  unfold Dev.standInAdd
  repeat' (first | with_reducible rfl | simp only [Dev.addPartials_vault, Dev.count_vault, Dev.noteImage_vault])

theorem Dev.loadTile_vault (d : Dev) (h lt : Nat) : (Dev.loadTile d h lt).vault = d.vault := by
  unfold Dev.loadTile
  repeat' (first | with_reducible rfl | simp only [Dev.vault_mk, SecBlk.vault_sec, Dev.count_vault])

theorem Dev.standIn_vault (d : Dev) (c l : Nat) (v : EdgeVec) : (Dev.standIn d c l v).vault = d.vault := by
  unfold Dev.standIn
  repeat' (first | with_reducible rfl | simp only [Dev.vault_ite, Dev.vault_mk, SecBlk.vault_sec, ite_self, Dev.loadTile_vault, Dev.standInAdd_vault] | split)

theorem Dev.logTile_vault (d : Dev) (k : Nat) (event : BitVec 4) (ruling : BitVec 2) (origin : BitVec 3) (detail : U32) : (Dev.logTile d k event ruling origin detail).vault = d.vault := by
  unfold Dev.logTile
  repeat' (first | with_reducible rfl | simp only [Dev.log_vault])

theorem Dev.suspectTile_vault (d : Dev) (k : Nat) (event : BitVec 4) (origin : BitVec 3) (detail : U32) : (Dev.suspectTile d k event origin detail).vault = d.vault := by
  unfold Dev.suspectTile
  repeat' (first | with_reducible rfl | simp only [Dev.count_vault, Dev.countC_vault, Dev.logTile_vault, Dev.mark_vault, Dev.rehold_vault, Dev.setTile_vault, Dev.standIn_vault, Dev.unwaitAll_vault] | split | (refine (Dev.forAll_vault _ ?_ _ _).trans ?_ <;> intros))

theorem Dev.resetTile_vault (d : Dev) (k : Nat) : (Dev.resetTile d k).vault = d.vault := by
  unfold Dev.resetTile
  repeat' (first | with_reducible rfl | simp only [Dev.rehold_vault, Dev.unwaitAll_vault, Dev.updTile_vault])

theorem Dev.seekSpare_vault (d : Dev) (c l lost : Nat) : (Dev.seekSpare d c l lost).vault = d.vault := by
  unfold Dev.seekSpare
  repeat' (first | with_reducible rfl | simp only [Dev.count_vault, Dev.event_vault, Dev.logTile_vault, Dev.resetTile_vault, Dev.updTile_vault] | split)

theorem Dev.failSpare_vault (d : Dev) (k : Nat) (event : BitVec 4) (origin : BitVec 3) (detail : U32) : (Dev.failSpare d k event origin detail).vault = d.vault := by
  unfold Dev.failSpare
  repeat' (first | with_reducible rfl | simp only [Dev.vault_ite, Dev.countC_vault, Dev.logTile_vault, Dev.rehold_vault, Dev.resetTile_vault, Dev.seekSpare_vault, Dev.updCluster_vault, Dev.updTile_vault] | split)

theorem Dev.failTile_vault (d : Dev) (k : Nat) (event : BitVec 4) (origin : BitVec 3) (detail : U32) : (Dev.failTile d k event origin detail).vault = d.vault := by
  unfold Dev.failTile
  repeat' (first | with_reducible rfl | simp only [Dev.vault_ite, Dev.failSpare_vault, Dev.leaveSweep_vault, Dev.logTile_vault, Dev.refloor_vault, Dev.suspectTile_vault] | split)

theorem Dev.repairEnds_vault (d : Dev) (k : Nat) (passed : Bool) : (Dev.repairEnds d k passed).vault = d.vault := by
  unfold Dev.repairEnds
  repeat' (first | with_reducible rfl | simp only [Dev.rehold_vault, Dev.updTile_vault])

theorem Dev.startRepair_vault (d : Dev) (k : Nat) : (Dev.startRepair d k).vault = d.vault := by
  unfold Dev.startRepair
  repeat' (first | with_reducible rfl | simp only [Dev.countC_vault, Dev.updTile_vault])

theorem Dev.rule_vault (d : Dev) (k : Nat) (passed : Bool) : (Dev.rule d k passed).vault = d.vault := by
  unfold Dev.rule
  repeat' (first | with_reducible rfl | simp only [Dev.vault_ite, Dev.count_vault, Dev.countC_vault, Dev.logTile_vault, Dev.refloor_vault, Dev.rehold_vault, Dev.seekSpare_vault, Dev.setTile_vault, Dev.updCluster_vault] | split)

theorem Dev.assignSpare_vault (d : Dev) (k l : Nat) : (Dev.assignSpare d k l).vault = d.vault := by
  unfold Dev.assignSpare
  repeat' (first | with_reducible rfl | simp only [Dev.count_vault, Dev.logTile_vault, Dev.updCluster_vault, Dev.updTile_vault])

theorem Dev.ladderTile_vault (d : Dev) (k : Nat) : (Dev.ladderTile d k).vault = d.vault := by
  unfold Dev.ladderTile
  repeat' (first | with_reducible rfl | simp only [Dev.vault_ite, ite_self, Dev.assignSpare_vault, Dev.rule_vault, Dev.startRepair_vault] | split)

theorem Dev.mapOutRow_vault (d : Dev) (c r : Nat) : (Dev.mapOutRow d c r).vault = d.vault := by
  unfold Dev.mapOutRow
  repeat' (first | with_reducible rfl | simp only [Dev.vault_ite, Dev.event_vault, Dev.updCluster_vault] | split)

theorem Dev.condemnRow_vault (d : Dev) (c r : Nat) : (Dev.condemnRow d c r).vault = d.vault := by
  unfold Dev.condemnRow
  repeat' (first | with_reducible rfl | simp only [Dev.mapOutRow_vault, Dev.updCluster_vault] | split)

theorem Dev.spadCe_vault (d : Dev) (c r : Nat) : (Dev.spadCe d c r).vault = d.vault := by
  unfold Dev.spadCe
  repeat' (first | with_reducible rfl | simp only [Dev.vault_ite, Dev.vault_mk, SecBlk.vault_sec, ite_self, Dev.condemnRow_vault, Dev.log_vault])

theorem Dev.spadUe_vault (d : Dev) (c r : Nat) : (Dev.spadUe d c r).vault = d.vault := by
  unfold Dev.spadUe
  repeat' (first | with_reducible rfl | simp only [Dev.condemnRow_vault, Dev.log_vault])

theorem Dev.condemnPc_vault (d : Dev) (pc : Nat) : (Dev.condemnPc d pc).vault = d.vault := by
  unfold Dev.condemnPc
  repeat' (first | with_reducible rfl | simp only [Dev.vault_ite, ite_self, Dev.event_vault, Dev.setPcs_vault])

theorem Dev.stackCe_vault (d : Dev) (pc : Nat) : (Dev.stackCe d pc).vault = d.vault := by
  unfold Dev.stackCe
  repeat' (first | with_reducible rfl | simp only [Dev.vault_ite, Dev.vault_mk, SecBlk.vault_sec, ite_self, Dev.condemnPc_vault, Dev.log_vault])

theorem Dev.stackUe_vault (d : Dev) (pc block : Nat) : (Dev.stackUe d pc block).vault = d.vault := by
  unfold Dev.stackUe
  repeat' (first | with_reducible rfl | simp only [Dev.vault_ite, Dev.vault_mk, SecBlk.vault_sec, ite_self, Dev.condemnPc_vault, Dev.log_vault])

theorem Dev.laneFault_vault (d : Dev) (port lane : Nat) (failedTraining : Bool) : (Dev.laneFault d port lane failedTraining).vault = d.vault := by
  unfold Dev.laneFault
  repeat' (first | with_reducible rfl | simp only [Dev.log_vault, Dev.setLane_vault])

theorem Dev.tileDegraded_vault (d : Dev) (k : Nat) : (Dev.tileDegraded d k).vault = d.vault := by
  unfold Dev.tileDegraded
  repeat' (first | with_reducible rfl | simp only [Dev.count_vault, Dev.logTile_vault])

theorem Dev.ageTile_vault (d : Dev) (k : Nat) : (Dev.ageTile d k).vault = d.vault := by
  unfold Dev.ageTile
  repeat' (first | with_reducible rfl | simp only [Dev.vault_ite, ite_self, Dev.count_vault, Dev.setTile_vault])

theorem Dev.tileOverdue_vault (d : Dev) (k : Nat) : (Dev.tileOverdue d k).vault = d.vault := by
  unfold Dev.tileOverdue
  repeat' (first | with_reducible rfl | simp only [Dev.vault_ite, ite_self, Dev.ageTile_vault, Dev.logTile_vault, Dev.setTile_vault])

theorem Dev.takeTemp_vault (d : Dev) (t : Int) : (Dev.takeTemp d t).vault = d.vault := by
  unfold Dev.takeTemp
  repeat' (first | with_reducible rfl | simp only [Dev.vault_mk, SecBlk.vault_sec])

theorem Dev.publishHk_vault (d : Dev) (i : Nat) (code : BitVec 12) : (Dev.publishHk d i code).vault = d.vault := rfl

theorem Dev.raiseDisagree_vault (d : Dev) : (Dev.raiseDisagree d).vault = d.vault := by
  unfold Dev.raiseDisagree
  repeat' (first | with_reducible rfl | simp only [Dev.vault_ite, Dev.vault_mk, SecBlk.vault_sec, ite_self, Dev.count_vault, Dev.divideNow_vault, Dev.notice_vault])

theorem Dev.clearDisagree_vault (d : Dev) : (Dev.clearDisagree d).vault = d.vault := by
  unfold Dev.clearDisagree
  repeat' (first | with_reducible rfl | simp only [Dev.vault_mk, SecBlk.vault_sec, Dev.notice_vault, Dev.stageLimits_vault])

theorem Dev.setConv_vault (d : Dev) (monB : Bool) (c : Option (Nat × Bool)) : (Dev.setConv d monB c).vault = d.vault := by
  unfold Dev.setConv
  repeat' (first | with_reducible rfl | simp only [Dev.vault_mk, SecBlk.vault_sec])

theorem Dev.readMon_vault (d : Dev) (monB : Bool) : (Dev.readMon d monB).vault = d.vault := by
  unfold Dev.readMon
  repeat' (first | with_reducible rfl | simp only [Dev.vault_mk, SecBlk.vault_sec])

theorem Dev.changeStage_vault (d : Dev) (stage : Nat) : (Dev.changeStage d stage).vault = d.vault := by
  unfold Dev.changeStage
  repeat' (first | with_reducible rfl | simp only [Dev.vault_ite, Dev.vault_mk, SecBlk.vault_sec, ite_self, Dev.count_vault, Dev.notice_vault, Dev.stageLimits_vault])

theorem Dev.markAll_vault (d : Dev) : (Dev.markAll d).vault = d.vault := by
  unfold Dev.markAll
  repeat' (first | with_reducible rfl | simp only [Dev.mark_vault] | split | (refine (Dev.forAll_vault _ ?_ _ _).trans ?_ <;> intros))

theorem Dev.holdTile_vault (d : Dev) (k : Nat) : (Dev.holdTile d k).vault = d.vault := by
  unfold Dev.holdTile
  repeat' (first | with_reducible rfl | simp only [Dev.vault_ite, ite_self, Dev.rehold_vault, Dev.setTile_vault])

theorem Dev.startSweep_vault (d : Dev) : (Dev.startSweep d).vault = d.vault := by
  unfold Dev.startSweep
  repeat' (first | with_reducible rfl | simp only [Dev.vault_mk, SecBlk.vault_sec, Dev.beginTest_vault, Dev.updTile_vault] | split | (refine (Dev.forAll_vault _ ?_ _ _).trans ?_ <;> intros))

theorem Dev.startEval_vault (d : Dev) (k : Nat) (ev : Eval) : (Dev.startEval d k ev).vault = d.vault := by
  unfold Dev.startEval
  repeat' (first | with_reducible rfl | simp only [Dev.vault_ite, ite_self, Dev.countC_vault, Dev.rehold_vault, Dev.updTile_vault])

theorem Dev.startOwed_vault (d : Dev) (k : Nat) (is : Eval → Bool) : (Dev.startOwed d k is).vault = d.vault := by
  unfold Dev.startOwed
  repeat' (first | with_reducible rfl | simp only [Dev.vault_ite, ite_self, Dev.ask_vault, Dev.await_vault, Dev.startEval_vault, Dev.updTile_vault] | split)

theorem Dev.correctPart_vault (d : Dev) (k : Nat) (ev : Eval) (half : Option Nat) (ch cl : List Byte) : (Dev.correctPart d k ev half ch cl).1.vault = d.vault := by
  unfold Dev.correctPart
  repeat' (first | with_reducible rfl | simp only [Dev.draw_vault, Dev.setTile_vault])

theorem Dev.raisePeaks_vault (d : Dev) (k : Nat) (v : EdgeVec) (n : Nat) (seen : Nat → Nat) : (Dev.raisePeaks d k v n seen).vault = d.vault := by
  unfold Dev.raisePeaks
  repeat' (first | with_reducible rfl | simp only [Dev.vault_ite, ite_self, Dev.updTile_vault])

theorem Dev.recordPeaks_vault (d : Dev) (k : Nat) (v : EdgeVec) (H L : List Int) : (Dev.recordPeaks d k v H L).vault = d.vault := by
  unfold Dev.recordPeaks
  repeat' (first | with_reducible rfl | simp only [Dev.raisePeaks_vault])

theorem Dev.order_vault (d : Dev) (k : Nat) (ev : Eval) : (Dev.order d k ev).vault = d.vault := by
  unfold Dev.order
  repeat' (first | with_reducible rfl | simp only [Dev.updTile_vault])

theorem Dev.persist_vault (d : Dev) (k : Nat) (ev : Eval) (f : Nat × Bool × Bool × Bool) (e : Int) : (Dev.persist d k ev f e).vault = d.vault := by
  unfold Dev.persist
  repeat' (first | with_reducible rfl | simp only [Dev.countC_vault, Dev.failTile_vault, Dev.order_vault])

theorem Dev.checkFailed_vault (d : Dev) (k : Nat) (ev : Eval) (fs : List ((Nat × Bool × Bool × Bool) × Int)) : (Dev.checkFailed d k ev fs).vault = d.vault := by
  unfold Dev.checkFailed
  repeat' (first | with_reducible rfl | simp only [Dev.vault_ite, ite_self, Dev.countC_vault, Dev.order_vault, Dev.persist_vault] | split)

theorem Dev.shadowPass_vault (d : Dev) (k : Nat) (ev : Eval) (p : Part) (patched : List (Nat × Int × Int)) : (Dev.shadowPass d k ev p patched).vault = d.vault := by
  unfold Dev.shadowPass
  repeat' (first | with_reducible rfl | simp only [Dev.vault_ite, ite_self, Dev.draw_vault, Dev.lookup_vault, Dev.updTile_vault])

theorem Dev.driftTrigger_vault (d : Dev) (k : Nat) : (Dev.driftTrigger d k).vault = d.vault := by
  unfold Dev.driftTrigger
  repeat' (first | with_reducible rfl | simp only [Dev.vault_ite, ite_self, Dev.calibrateTiles_vault, Dev.count_vault] | split)

theorem Dev.settle_vault (d : Dev) (k : Nat) (ev : Eval) (parts : List PartValues) (patched : List (Nat × Int × Int)) : (Dev.settle d k ev parts patched).vault = d.vault := by
  unfold Dev.settle
  repeat' (first | with_reducible rfl | simp only [Dev.vault_ite, ite_self, Dev.addPartials_vault, Dev.checkFailed_vault, Dev.countC_vault, Dev.driftTrigger_vault, Dev.shadowPass_vault] | split)

theorem Dev.judgeForward_vault (d : Dev) (k : Nat) (ev : Eval) (p : Part) : (Dev.judgeForward d k ev p).vault = d.vault := by
  unfold Dev.judgeForward
  repeat' (first | with_reducible rfl | simp only [Dev.vault_ite, ite_self, Dev.checkFailed_vault, Dev.countC_vault, Dev.lookup_vault, Dev.order_vault, Dev.recordPeaks_vault, Dev.settle_vault, Dev.updTile_vault] | split | (refine (Dev.forAll_vault _ ?_ _ _).trans ?_ <;> intros))

theorem Dev.judgeTransposed_vault (d : Dev) (k : Nat) (ev : Eval) (p : Part) : (Dev.judgeTransposed d k ev p).vault = d.vault := by
  unfold Dev.judgeTransposed
  repeat' (first | with_reducible rfl | simp only [Dev.vault_ite, ite_self, Dev.checkFailed_vault, Dev.countC_vault, Dev.order_vault, Dev.recordPeaks_vault, Dev.settle_vault])

theorem Dev.judgeSplit_vault (d : Dev) (k : Nat) (ev : Eval) (p q : Part) : (Dev.judgeSplit d k ev p q).vault = d.vault := by
  unfold Dev.judgeSplit
  repeat' (first | with_reducible rfl | simp only [Dev.vault_ite, ite_self, Dev.checkFailed_vault, Dev.countC_vault, Dev.recordPeaks_vault, Dev.settle_vault, Dev.updTile_vault])

theorem Dev.qualityCheck_vault (d : Dev) (k : Nat) : (Dev.qualityCheck d k).vault = d.vault := by
  unfold Dev.qualityCheck
  repeat' (first | with_reducible rfl | simp only [Dev.vault_ite, ite_self, Dev.calibrateTiles_vault, Dev.count_vault, Dev.setTile_vault, Dev.tileDegraded_vault])

theorem Dev.newStatistics_vault (d : Dev) (k : Nat) : (Dev.newStatistics d k).vault = d.vault := by
  unfold Dev.newStatistics
  repeat' (first | with_reducible rfl | simp only [Dev.vault_ite, ite_self, Dev.takeCal_vault, Dev.updTile_vault])

theorem Dev.turnUrgent_vault (d : Dev) (k : Nat) : (Dev.turnUrgent d k).vault = d.vault := by
  unfold Dev.turnUrgent
  repeat' (first | with_reducible rfl | simp only [Dev.vault_ite, ite_self, Dev.countC_vault, Dev.setTile_vault])

theorem Dev.tickTile_vault (d : Dev) (k : Nat) (t : Int) : (Dev.tickTile d k t).vault = d.vault := by
  unfold Dev.tickTile
  repeat' (first | with_reducible rfl | simp only [Dev.vault_ite, ite_self, Dev.countC_vault, Dev.setTile_vault, Dev.tileOverdue_vault, Dev.turnUrgent_vault, Dev.updTile_vault])

theorem Dev.setRow_vault (d : Dev) (k r : Nat) (levels : List Int) : (Dev.setRow d k r levels).vault = d.vault := by
  unfold Dev.setRow
  repeat' (first | with_reducible rfl | simp only [Dev.updTile_vault])

theorem Dev.writeRemap_vault (d : Dev) (k e l : Nat) : (Dev.writeRemap d k e l).vault = d.vault := by
  unfold Dev.writeRemap
  repeat' (first | with_reducible rfl | simp only [Dev.vault_ite, ite_self, Dev.countC_vault, Dev.updTile_vault])

theorem Dev.beginRestore_vault (d : Dev) (k : Nat) (urgent : Bool) : (Dev.beginRestore d k urgent).vault = d.vault := by
  unfold Dev.beginRestore
  repeat' (first | with_reducible rfl | simp only [Dev.vault_ite, ite_self, Dev.countC_vault, Dev.rehold_vault, Dev.updTile_vault])

theorem Dev.endRestore_vault (d : Dev) (k : Nat) (x : Restore) : (Dev.endRestore d k x).vault = d.vault := by
  unfold Dev.endRestore
  repeat' (first | with_reducible rfl | simp only [Dev.vault_ite, ite_self, Dev.ageTile_vault, Dev.countC_vault, Dev.rehold_vault, Dev.updTile_vault])

theorem Dev.readGolden_vault (d : Dev) (k r : Nat) (may : Bool) : (Dev.readGolden d k r may).vault = d.vault := by
  unfold Dev.readGolden
  repeat' (first | with_reducible rfl | simp only [Dev.vault_ite, ite_self, Dev.count_vault, Dev.refuseAccess_vault])

theorem Dev.takeRead_vault (d : Dev) (k r : Nat) (levels : List Int) (codes : List Byte) : (Dev.takeRead d k r levels codes).vault = d.vault := by
  unfold Dev.takeRead
  repeat' (first | with_reducible rfl | simp only [Dev.newStatistics_vault, Dev.updTile_vault])

theorem Dev.takeSlot_vault (d : Dev) (k n : Nat) : (Dev.takeSlot d k n).vault = d.vault := by
  unfold Dev.takeSlot
  repeat' (first | with_reducible rfl | simp only [Dev.updTile_vault])

theorem Dev.remapRow_vault (d : Dev) (k r : Nat) (levels : List Int) (fuel : Nat) (tried : List Nat) (reads : List (List Byte)) :
    (d.remapRow k r levels fuel tried reads).1.vault = d.vault := by
  induction fuel generalizing d r tried reads with
  | zero => rfl
  | succ n ih =>
    unfold Dev.remapRow
    repeat' (first | with_reducible rfl | simp only [ih, Dev.log_vault, Dev.writeRemap_vault, Dev.setRow_vault, Dev.countC_vault] | split)

theorem Dev.restoreSlot_vault (d : Dev) (k : Nat) (x : Restore) (codes : List Byte) (reads : List (List Byte)) : (Dev.restoreSlot d k x codes reads).vault = d.vault := by
  unfold Dev.restoreSlot
  repeat' (first | with_reducible rfl | simp only [Dev.remapRow_vault, Dev.vault_ite, ite_self, Dev.countC_vault, Dev.endRestore_vault, Dev.failTile_vault, Dev.readGolden_vault, Dev.setRow_vault, Dev.takeRead_vault, Dev.takeSlot_vault, Dev.updTile_vault])

theorem Dev.programFails_vault (d : Dev) (k : Nat) : (Dev.programFails d k).vault = d.vault := by
  unfold Dev.programFails
  repeat' (first | with_reducible rfl | simp only [Dev.vault_ite, ite_self, Dev.failTile_vault, Dev.logTile_vault, Dev.rehold_vault, Dev.repairEnds_vault, Dev.suspectTile_vault, Dev.updTile_vault])

theorem Dev.programEnds_vault (d : Dev) (k : Nat) (p : Programming) : (Dev.programEnds d k p).vault = d.vault := by
  unfold Dev.programEnds
  repeat' (first | with_reducible rfl | simp only [Dev.beginTest_vault, Dev.rehold_vault, Dev.updTile_vault])

theorem Dev.freshTile_vault (d : Dev) (k : Nat) : (Dev.freshTile d k).vault = d.vault := by
  unfold Dev.freshTile
  repeat' (first | with_reducible rfl | simp only [Dev.countC_vault, Dev.updTile_vault])

theorem Dev.testEnds_vault (d : Dev) (k : Nat) (sweep : Bool) (failed : Option ((Nat × Bool × Bool × Bool) × Int)) : (Dev.testEnds d k sweep failed).vault = d.vault := by
  unfold Dev.testEnds
  repeat' (first | with_reducible rfl | simp only [Dev.vault_ite, ite_self, Dev.failTile_vault, Dev.freshTile_vault, Dev.logTile_vault, Dev.refloor_vault, Dev.repairEnds_vault, Dev.suspectTile_vault, Dev.updTile_vault] | split)

theorem Dev.finishCalibrates_vault (d : Dev) (p : Nat) : (Dev.finishCalibrates d p).vault = d.vault := by
  unfold Dev.finishCalibrates
  repeat' (first | with_reducible rfl | simp only [Dev.vault_ite, ite_self, Dev.complete_vault, Dev.send_vault, Dev.updJob_vault] | split | (refine (Dev.forAll_vault _ ?_ _ _).trans ?_ <;> intros))

theorem Dev.calDone_vault (d : Dev) (k : Nat) : (Dev.calDone d k).vault = d.vault := by
  unfold Dev.calDone
  repeat' (first | with_reducible rfl | simp only [Dev.finishCalibrates_vault, Dev.updJob_vault] | split | (refine (Dev.forAll_vault _ ?_ _ _).trans ?_ <;> intros))

theorem Dev.applyTrims_vault (d : Dev) (k : Nat) : (Dev.applyTrims d k).vault = d.vault := by
  unfold Dev.applyTrims
  repeat' (first | with_reducible rfl | simp only [Dev.countC_vault, Dev.setTile_vault] | split)

theorem Dev.storePages_vault (d : Dev) (p first : Nat) : (Dev.storePages d p first).vault = d.vault := by
  unfold Dev.storePages
  exact Dev.forAll_vault _ (fun d _ => Dev.stackWrite_vault d _ _) _ _

theorem Dev.traceRecord_vault (d : Dev) (p : Nat) (x : TraceRec) : (Dev.traceRecord d p x).vault = d.vault := by
  unfold Dev.traceRecord
  repeat' (first | with_reducible rfl | simp only [Dev.vault_ite, ite_self, Dev.count_vault, Dev.setTraceRing_vault, Dev.storePages_vault, Dev.violation_vault])

theorem Dev.tracePageArrive_vault (d : Dev) (p : Nat) (bytes : List Byte) : (Dev.tracePageArrive d p bytes).vault = d.vault := by
  unfold Dev.tracePageArrive
  repeat' (first | with_reducible rfl | simp only [Dev.vault_ite, ite_self, Dev.post_vault, Dev.setTraceRing_vault] | split)

theorem Dev.traceRelease_vault (d : Dev) (p : Nat) : (Dev.traceRelease d p).vault = d.vault := by
  unfold Dev.traceRelease
  repeat' (first | with_reducible rfl | simp only [Dev.setTraceRing_vault, Dev.tracePageArrive_vault] | split | (refine (Dev.forAll_vault _ ?_ _ _).trans ?_ <;> intros))

theorem Dev.tracePageIn_vault (d : Dev) (p : Nat) (bytes : List Byte) : (Dev.tracePageIn d p bytes).vault = d.vault := by
  unfold Dev.tracePageIn
  repeat' (first | with_reducible rfl | simp only [Dev.setTraceRing_vault, Dev.traceRelease_vault])

theorem Dev.mirrorCounters_vault (d : Dev) (pos : Nat) (value : Nat → U64) : (d.mirrorCounters pos value).vault = d.vault := by
  unfold Dev.mirrorCounters
  dsimp only
  rw [Dev.vault_mk, SecBlk.vault_sec]

theorem Dev.fireAddress_vault (d : Dev) (p w : Nat) : (Dev.fireAddress d p w).vault = d.vault := by
  unfold Dev.fireAddress
  repeat' (first | with_reducible rfl | simp only [Dev.count_vault, Dev.setWatch_vault] | split)

theorem Dev.captureBlock_vault (d : Dev) (p c : Nat) (t : BlockTag) (format : BitVec 4) (cols : Nat) (data : List Byte) : (Dev.captureBlock d p c t format cols data).vault = d.vault := by
  unfold Dev.captureBlock
  repeat' (first | with_reducible rfl | simp only [Dev.vault_ite, ite_self, Dev.setWatch_vault] | split | (refine (Dev.forAll_vault _ ?_ _ _).trans ?_ <;> intros))

theorem Dev.watchBoundary_vault (d : Dev) (p : Nat) (marked : Bool) : (Dev.watchBoundary d p marked).vault = d.vault := by
  unfold Dev.watchBoundary
  repeat' (first | with_reducible rfl | simp only [Dev.vault_ite, ite_self, Dev.count_vault, Dev.fireAddress_vault, Dev.send_vault, Dev.setWatch_vault] | split | (refine (Dev.forAll_vault _ ?_ _ _).trans ?_ <;> intros))

theorem Dev.armWatch_vault (d : Dev) (o : Origin) (w : WatchSpec) : (Dev.armWatch d o w).vault = d.vault := by
  unfold Dev.armWatch
  repeat' (first | with_reducible rfl | simp only [Dev.vault_ite, Dev.complete_vault, Dev.setWatch_vault] | split)

theorem Dev.dropWatches_vault (d : Dev) (p : Nat) : (Dev.dropWatches d p).vault = d.vault := by
  unfold Dev.dropWatches
  repeat' (first | with_reducible rfl | simp only [Dev.vault_ite, ite_self, Dev.complete_vault, Dev.setWatch_vault] | split | (refine (Dev.forAll_vault _ ?_ _ _).trans ?_ <;> intros))

theorem Dev.spoilBank_vault (d : Dev) (p b : Nat) : (Dev.spoilBank d p b).vault = d.vault := by
  unfold Dev.spoilBank
  repeat' (first | with_reducible rfl | simp only [Dev.reportBanks_vault, Dev.setCommit_vault])

theorem Dev.spoilGraft_vault (d : Dev) (id : Nat) (ver : U16) : (Dev.spoilGraft d id ver).vault = d.vault := by
  unfold Dev.spoilGraft
  repeat' (first | with_reducible rfl | simp only [Dev.loseRequest_vault, Dev.updGraft_vault] | split | (refine (Dev.forAll_vault _ ?_ _ _).trans ?_ <;> intros))

theorem Dev.spoilCopies_vault (d : Dev) (b : Nat) : (Dev.spoilCopies d b).vault = d.vault := by
  unfold Dev.spoilCopies
  repeat' (first | with_reducible rfl | simp only [Dev.vault_mk, SecBlk.vault_sec])

theorem Dev.fetchAgain_vault (d : Dev) (p block : Nat) (golden : Bool) : (Dev.fetchAgain d p block golden).vault = d.vault := by
  unfold Dev.fetchAgain
  repeat' (first | with_reducible rfl | simp only [Dev.vault_ite, ite_self, Dev.count_vault, Dev.send_vault])

theorem Dev.replicasAgain_vault (d : Dev) : (Dev.replicasAgain d).vault = d.vault := by
  unfold Dev.replicasAgain
  repeat' (first | with_reducible rfl | simp only [Dev.send_vault, Dev.setReplica_vault] | split | (refine (Dev.forAll_vault _ ?_ _ _).trans ?_ <;> intros))

theorem Dev.loseSample_vault (d : Dev) (block : Nat) : (Dev.loseSample d block).vault = d.vault := by
  unfold Dev.loseSample
  exact Dev.forAll_vault _ (fun d _ => (Dev.count_vault _ _ _).trans (Dev.setTraceRing_vault d _ _)) _ _

theorem Dev.loseBlock_vault (d : Dev) (p block : Nat) : (Dev.loseBlock d p block).vault = d.vault := by
  unfold Dev.loseBlock
  repeat' (first | with_reducible rfl | simp only [Dev.vault_ite, ite_self, Dev.draw_vault, Dev.fetchAgain_vault, Dev.loseRequest_vault, Dev.loseSample_vault, Dev.replicasAgain_vault, Dev.spoilBank_vault, Dev.spoilCopies_vault, Dev.spoilGraft_vault] | split | (refine (Dev.forAll_vault _ ?_ _ _).trans ?_ <;> intros))

theorem Dev.stackCorrected_vault (d : Dev) (block : Nat) : (Dev.stackCorrected d block).vault = d.vault := by
  unfold Dev.stackCorrected
  repeat' (first | with_reducible rfl | simp only [Dev.count_vault, Dev.setPcs_vault, Dev.stackCe_vault])

theorem Dev.stackUncorrectable_vault (d : Dev) (p pc block at_ : Nat) : (Dev.stackUncorrectable d p pc block at_).vault = d.vault := by
  unfold Dev.stackUncorrectable
  repeat' (first | with_reducible rfl | simp only [Dev.count_vault, Dev.loseBlock_vault, Dev.stackUe_vault])

theorem Dev.accessLate_vault (d : Dev) (cluster : Option Nat) (ns : Nat) : (Dev.accessLate d cluster ns).vault = d.vault := by
  unfold Dev.accessLate
  repeat' (first | with_reducible rfl | simp only [Dev.updCluster_vault] | split)

theorem Dev.copyBlock_vault (d : Dev) (src dst : Nat) : (Dev.copyBlock d src dst).vault = d.vault := by
  unfold Dev.copyBlock
  repeat' (first | with_reducible rfl | simp only [Dev.setMem_vault, Dev.zeroRange_vault])

theorem Dev.preempt_vault (d : Dev) (slot : Nat) : (Dev.preempt d slot).vault = d.vault := by
  unfold Dev.preempt
  repeat' (first | with_reducible rfl | simp only [Dev.vault_ite, ite_self, Dev.updJob_vault])

theorem Dev.moveKvPage_vault (d : Dev) (slot page new : Nat) (readable : Bool) : (Dev.moveKvPage d slot page new readable).vault = d.vault := by
  unfold Dev.moveKvPage
  repeat' (first | with_reducible rfl | simp only [Dev.vault_ite, Dev.vault_mk, SecBlk.vault_sec, ite_self, Dev.copyBlock_vault, Dev.count_vault, Dev.givePage_vault, Dev.setKv_vault, Dev.takeFor_vault, Dev.updReq_vault, Dev.writeEntry_vault])

theorem Dev.kvWrite_vault (d : Dev) (handle : U32) (stream : Nat) (values : List U16) : (Dev.kvWrite d handle stream values).vault = d.vault := by
  unfold Dev.kvWrite
  repeat' (first | with_reducible rfl | simp only [Dev.vault_ite, ite_self, Dev.count_vault, Dev.setStg_vault])

theorem Dev.flushSlot_vault (d : Dev) (slot : Nat) (x : Staging) (firstPos : Nat) : (Dev.flushSlot d slot x firstPos).vault = d.vault := by
  unfold Dev.flushSlot
  repeat' (first | with_reducible rfl | simp only [Dev.vault_ite, ite_self, Dev.count_vault, Dev.refuseAccess_vault, Dev.setMem_vault, Dev.writeBytes_vault, Dev.zeroRange_vault])

theorem Dev.prefillPage_vault (d : Dev) (handle : U32) (pg : KvPage) : (Dev.prefillPage d handle pg).vault = d.vault := by
  unfold Dev.prefillPage
  repeat' (first | with_reducible rfl | simp only [Dev.vault_ite, ite_self, Dev.count_vault, Dev.refuseAccess_vault, Dev.writeBytes_vault, Dev.zeroRange_vault] | split | (refine (Dev.forAll_vault _ ?_ _ _).trans ?_ <;> intros))

theorem Dev.checkPages_vault (d : Dev) (handle : U32) (pages : List Nat) : (Dev.checkPages d handle pages).1.vault = d.vault := by
  unfold Dev.checkPages
  repeat' (first | with_reducible rfl | simp only [Dev.count_vault, Dev.loseRequest_vault, Dev.refuseAccess_vault] | split | (refine (Dev.forAll_vault _ ?_ _ _).trans ?_ <;> intros))

theorem Dev.queueOp_vault (d : Dev) (o : DahliaOp) : (Dev.queueOp d o).vault = d.vault := rfl

theorem Dev.runHalf_vault (d : Dev) (h : Nat) (o : DahliaOp) : (Dev.runHalf d h o).vault = d.vault := by
  unfold Dev.runHalf
  repeat' (first | with_reducible rfl | simp only [Dev.vault_mk, SecBlk.vault_sec, Dev.loadTile_vault, Dev.standInAdd_vault] | split | (refine (Dev.forAll_vault _ ?_ _ _).trans ?_ <;> intros))

theorem Dev.startHalves_vault (d : Dev) (fuel : Nat) : (d.startHalves fuel).vault = d.vault := by
  induction fuel generalizing d with
  | zero => rfl
  | succ n ih =>
    unfold Dev.startHalves
    repeat' (first | with_reducible rfl | simp only [ih, Dev.runHalf_vault, Dev.vault_mk, SecBlk.vault_sec] | split)

theorem Dev.readOperands_vault (d : Dev) (p b : Nat) (rs : List (List DahliaTerm)) : (Dev.readOperands d p b rs).1.vault = d.vault := by
  unfold Dev.readOperands
  repeat' (first | with_reducible rfl | simp only [Dev.vault_ite, ite_self, Dev.count_vault, Dev.refuseAccess_vault, Dev.useRow_vault] | split | (refine (Dev.forAll_vault _ ?_ _ _).trans ?_ <;> intros))

theorem Dev.toBase_vault (d : Dev) (kind c row at_ : Nat) (bs : List Byte) : (Dev.toBase d kind c row at_ bs).vault = d.vault := rfl

theorem Dev.lupinStore_vault (d : Dev) (c row at_ expRow expByte : Nat) (rs : List (Option U32)) : (Dev.lupinStore d c row at_ expRow expByte rs).vault = d.vault := by
  unfold Dev.lupinStore
  repeat' (first | with_reducible rfl | simp only [Dev.vault_ite, ite_self, Dev.countC_vault, Dev.toBase_vault])

theorem Dev.dahliaStore_vault (d : Dev) (c row at_ : Nat) (out : DahliaOut) (rs : List (Option U32)) : (Dev.dahliaStore d c row at_ out rs).vault = d.vault := by
  unfold Dev.dahliaStore
  repeat' (first | with_reducible rfl | simp only [Dev.vault_ite, ite_self, Dev.countC_vault, Dev.patchSpad_vault] | split)

theorem Dev.residualAdd_vault (d : Dev) (c dst a b n : Nat) : (Dev.residualAdd d c dst a b n).vault = d.vault := by
  unfold Dev.residualAdd
  repeat' (first | with_reducible rfl | simp only [Dev.dahliaStore_vault, Dev.useRow_vault] | split | (refine (Dev.forAll_vault _ ?_ _ _).trans ?_ <;> intros))

theorem Dev.freeRows_vault (d : Dev) (c : Nat) (rows : List Nat) : (Dev.freeRows d c rows).vault = d.vault := by
  unfold Dev.freeRows
  repeat' (first | with_reducible rfl | simp only [Dev.draw_vault, Dev.setSpad_vault] | split | (refine (Dev.forAll_vault _ ?_ _ _).trans ?_ <;> intros))

theorem Dev.bufferLogits_vault (d : Dev) (x : LogitPart) : (Dev.bufferLogits d x).vault = d.vault := by
  unfold Dev.bufferLogits
  repeat' (first | with_reducible rfl | simp only [Dev.vault_ite, Dev.vault_mk, SecBlk.vault_sec, ite_self])

theorem Dev.refillBuffers_vault (d : Dev) : (Dev.refillBuffers d).vault = d.vault := by
  unfold Dev.refillBuffers
  repeat' (first | with_reducible rfl | simp only [Dev.bufferLogits_vault] | split | (refine (Dev.forAll_vault _ ?_ _ _).trans ?_ <;> intros))

theorem Dev.dropLogits_vault (d : Dev) (sel : LogitPart → Bool) : (Dev.dropLogits d sel).vault = d.vault := by
  unfold Dev.dropLogits
  repeat' (first | with_reducible rfl | simp only [Dev.vault_mk, SecBlk.vault_sec, Dev.refillBuffers_vault])

theorem Dev.keepStats_vault (d : Dev) (p : Nat) (handle : U32) (layer head : Nat) (m l : Rat) : (Dev.keepStats d p handle layer head m l).vault = d.vault := by
  unfold Dev.keepStats
  repeat' (first | with_reducible rfl | simp only [Dev.tune_vault])

theorem Dev.writeHead_vault (d : Dev) (lupin : Bool) (p : Nat) (job : AttJob) (head : Nat) (out : AttOut) : (Dev.writeHead d lupin p job head out).vault = d.vault := by
  unfold Dev.writeHead
  repeat' (first | with_reducible rfl | simp only [Dev.dahliaStore_vault, Dev.draw_vault, Dev.keepStats_vault, Dev.lupinStore_vault, Dev.tune_vault] | split | (refine (Dev.forAll_vault _ ?_ _ _).trans ?_ <;> intros))

theorem Dev.addPart_vault (d : Dev) (a : AttPart) : (Dev.addPart d a).vault = d.vault := rfl

theorem Dev.useQuery_vault (d : Dev) (q : AttQuery) (elems : Nat) : (Dev.useQuery d q elems).vault = d.vault := by
  unfold Dev.useQuery
  repeat' (first | with_reducible rfl | simp only [Dev.useRow_vault] | split | (refine (Dev.forAll_vault _ ?_ _ _).trans ?_ <;> intros))

theorem Dev.keepScores_vault (d : Dev) (half : Nat) (xs : List Rat) : (Dev.keepScores d half xs).vault = d.vault := rfl

theorem Dev.attendRow_vault (d : Dev) (p half : Nat) (job : AttJob) (position : Nat) (qScales : List U16) : (Dev.attendRow d p half job position qScales).vault = d.vault := by
  unfold Dev.attendRow
  repeat' (first | with_reducible rfl | simp only [Dev.vault_mk, SecBlk.vault_sec, Dev.addPart_vault, Dev.count_vault, Dev.keepScores_vault, Dev.useQuery_vault, Dev.writeHead_vault] | split | (refine (Dev.forAll_vault _ ?_ _ _).trans ?_ <;> intros))

theorem Dev.attentionBack_vault (d : Dev) (p half : Nat) (job : AttJob) (position : Nat) (qScales : List U16) : (Dev.attentionBack d p half job position qScales).vault = d.vault := by
  unfold Dev.attentionBack
  repeat' (first | with_reducible rfl | simp only [Dev.keepScores_vault, Dev.useQuery_vault] | split | (refine (Dev.forAll_vault _ ?_ _ _).trans ?_ <;> intros))

theorem Dev.embedForLead_vault (d : Dev) (p : Nat) (step : U48) (blocks : List (Byte × List Byte)) : (Dev.embedForLead d p step blocks).vault = d.vault := by
  unfold Dev.embedForLead
  repeat' (first | with_reducible rfl | simp only [Dev.send_vault, Dev.updJob_vault] | split)

theorem Dev.opResult_vault (d : Dev) (h : Nat) (o : DahliaOp) : (Dev.opResult d h o).vault = d.vault := by
  unfold Dev.opResult
  repeat' (first | with_reducible rfl | simp only [Dev.vault_ite, ite_self, Dev.attendRow_vault, Dev.attentionBack_vault, Dev.bufferLogits_vault, Dev.checkPages_vault, Dev.count_vault, Dev.dahliaStore_vault, Dev.embedForLead_vault, Dev.freeRows_vault, Dev.patchSpad_vault, Dev.prefillPage_vault, Dev.readOperands_vault, Dev.send_vault, Dev.tune_vault, Dev.unitRead_vault] | split | (refine (Dev.forAll_vault _ ?_ _ _).trans ?_ <;> intros))

theorem Dev.updSeqs_vault (d : Dev) (p : Nat) (f : Seq → Seq) : (Dev.updSeqs d p f).vault = d.vault := by
  unfold Dev.updSeqs
  repeat' (first | with_reducible rfl | simp only [Dev.updCluster_vault] | split | (refine (Dev.forAll_vault _ ?_ _ _).trans ?_ <;> intros))

theorem Dev.takeSlots_vault (d : Dev) (c : Nat) (slots : List Nat) (i : Nat) : (Dev.takeSlots d c slots i).vault = d.vault := rfl

theorem Dev.arrive_vault (d : Dev) (c key t : Nat) : (Dev.arrive d c key t).vault = d.vault := by
  unfold Dev.arrive
  repeat' (first | with_reducible rfl | simp only [Dev.updCluster_vault])

theorem Dev.sendPiece_vault (d : Dev) (c t : Nat) (p : MeshPiece) : (Dev.sendPiece d c t p).vault = d.vault := by
  unfold Dev.sendPiece
  repeat' (first | with_reducible rfl | simp only [Dev.arrive_vault, Dev.pokeSpad_vault] | split | (refine (Dev.forAll_vault _ ?_ _ _).trans ?_ <;> intros))

theorem Dev.mergeLanes_vault (d : Dev) (c base : Nat) (ws : List (U64 × U64)) : (Dev.mergeLanes d c base ws).vault = d.vault := by
  unfold Dev.mergeLanes
  repeat' (first | with_reducible rfl | simp only [Dev.setAccLane_vault] | split | (refine (Dev.forAll_vault _ ?_ _ _).trans ?_ <;> intros))

theorem Dev.sendBlock_vault (d : Dev) (c b base t : Nat) : (Dev.sendBlock d c b base t).vault = d.vault := by
  unfold Dev.sendBlock
  repeat' (first | with_reducible rfl | simp only [Dev.arrive_vault, Dev.mergeLanes_vault, Dev.updCluster_vault] | split | (refine (Dev.forAll_vault _ ?_ _ _).trans ?_ <;> intros))

theorem Dev.sendBuffered_vault (d : Dev) (s kind : Nat) (vc : BitVec 2) (t : Nat) (p : MeshPiece) : (Dev.sendBuffered d s kind vc t p).vault = d.vault := by
  unfold Dev.sendBuffered
  repeat' (first | with_reducible rfl | simp only [Dev.vault_ite, Dev.vault_mk, SecBlk.vault_sec, ite_self, Dev.arrive_vault, Dev.count_vault, Dev.pokeSpad_vault] | split | (refine (Dev.forAll_vault _ ?_ _ _).trans ?_ <;> intros))

theorem Dev.emptyBlock_vault (d : Dev) (c block : Nat) : (Dev.emptyBlock d c block).vault = d.vault := by
  unfold Dev.emptyBlock
  repeat' (first | with_reducible rfl | simp only [Dev.updCluster_vault])

theorem Dev.writeHalf_vault (d : Dev) (c row h : Nat) (bs : List Byte) : (Dev.writeHalf d c row h bs).vault = d.vault := by
  unfold Dev.writeHalf
  repeat' (first | with_reducible rfl | simp only [Dev.patchSpad_vault])

theorem Dev.spillBlock_vault (d : Dev) (c block row half : Nat) : (Dev.spillBlock d c block row half).1.vault = d.vault := by
  unfold Dev.spillBlock
  repeat' (first | with_reducible rfl | simp only [Dev.vault_ite, ite_self, Dev.emptyBlock_vault, Dev.writeHalf_vault])

theorem Dev.writeBlock_vault (d : Dev) (c block row : Nat) (fmt : BitVec 3) : (Dev.writeBlock d c block row fmt).1.vault = d.vault := by
  unfold Dev.writeBlock
  repeat' (first | with_reducible rfl | simp only [Dev.vault_ite, ite_self, Dev.countC_vault, Dev.emptyBlock_vault, Dev.patchSpad_vault] | split)

theorem Dev.outputBlock_vault (d : Dev) (c block row : Nat) (fmt : BitVec 3) : (Dev.outputBlock d c block row fmt).1.vault = d.vault := by
  unfold Dev.outputBlock
  repeat' (first | with_reducible rfl | simp only [Dev.spillBlock_vault, Dev.writeBlock_vault] | split)

theorem Dev.readLanes_vault (d : Dev) (c block row half : Nat) : (Dev.readLanes d c block row half).vault = d.vault := by
  unfold Dev.readLanes
  repeat' (first | with_reducible rfl | simp only [Dev.vault_ite, ite_self, Dev.mergeLanes_vault, Dev.useRow_vault])

theorem Dev.updSeq_vault (d : Dev) (c : Nat) (f : Seq → Seq) : (Dev.updSeq d c f).vault = d.vault := by
  unfold Dev.updSeq
  repeat' (first | with_reducible rfl | simp only [Dev.updCluster_vault])

theorem Dev.checkGuard_vault (d : Dev) (c : Nat) : (Dev.checkGuard d c).vault = d.vault := by
  unfold Dev.checkGuard
  repeat' (first | with_reducible rfl | simp only [Dev.vault_ite, ite_self, Dev.count_vault, Dev.mark_vault] | split)

theorem Dev.issued_vault (d : Dev) (c planned : Nat) : (Dev.issued d c planned).vault = d.vault := by
  unfold Dev.issued
  repeat' (first | with_reducible rfl | simp only [Dev.checkGuard_vault, Dev.updSeq_vault])

theorem Dev.stalled_vault (d : Dev) (c planned : Nat) (code : BitVec 4) (excuse : Bool) : (Dev.stalled d c planned code excuse).vault = d.vault := by
  unfold Dev.stalled
  repeat' (first | with_reducible rfl | simp only [Dev.checkGuard_vault, Dev.updSeq_vault])

theorem Dev.endPair_vault (d : Dev) (c layer planned : Nat) : (Dev.endPair d c layer planned).vault = d.vault := by
  unfold Dev.endPair
  repeat' (first | with_reducible rfl | simp only [Dev.vault_ite, ite_self, Dev.countC_vault, Dev.issued_vault, Dev.stalled_vault, Dev.updSeq_vault])

theorem Dev.atSlot_vault (d : Dev) (c planned : Nat) (slots : List Nat) (f : Dev → Dev) (h : ∀ d, (f d).vault = d.vault) : (Dev.atSlot d c planned slots f).vault = d.vault := by
  unfold Dev.atSlot
  repeat' (first | with_reducible rfl | simp only [h, Dev.vault_ite, ite_self, Dev.stalled_vault, Dev.updSeq_vault])

theorem Dev.inject_vault (d : Dev) (c planned : Nat) (slots : List Nat) (output : Option Nat) : (Dev.inject d c planned slots output).vault = d.vault := by
  unfold Dev.inject
  repeat' (first | with_reducible rfl | simp only [Dev.vault_ite, ite_self, Dev.atSlot_vault, Dev.issued_vault, Dev.stalled_vault, Dev.updSeq_vault, implies_true])

theorem Dev.outputAction_vault (d : Dev) (c planned block row : Nat) (fmt : BitVec 3) (tag : Option BlockTag) : (Dev.outputAction d c planned block row fmt tag).vault = d.vault := by
  unfold Dev.outputAction
  repeat' (first | with_reducible rfl | simp only [Dev.vault_ite, ite_self, Dev.atSlot_vault, Dev.captureBlock_vault, Dev.issued_vault, Dev.outputBlock_vault, implies_true] | split)

theorem Dev.receive_vault (d : Dev) (c planned : Nat) (src : RecvSrc) : (Dev.receive d c planned src).vault = d.vault := by
  unfold Dev.receive
  repeat' (first | with_reducible rfl | simp only [Dev.vault_ite, ite_self, Dev.issued_vault, Dev.stalled_vault, Dev.updCluster_vault, Dev.updSeq_vault] | split)

theorem Dev.spadRead_vault (d : Dev) (c row : Nat) (correctable uncorrectable : List Nat) : (Dev.spadRead d c row correctable uncorrectable).vault = d.vault := by
  unfold Dev.spadRead
  repeat' (first | with_reducible rfl | simp only [Dev.countC_vault, Dev.pokeSpad_vault, Dev.spadCe_vault, Dev.spadUe_vault] | split | (refine (Dev.forAll_vault _ ?_ _ _).trans ?_ <;> intros))

theorem Dev.sendWindow_vault (d : Dev) (c pos : Nat) (window : BitVec 12) (epoch : U16) (offset : BitVec 24) (body : List Byte) : (Dev.sendWindow d c pos window epoch offset body).vault = d.vault := by
  unfold Dev.sendWindow
  repeat' (first | with_reducible rfl | simp only [Dev.vault_ite, Dev.vault_mk, SecBlk.vault_sec, ite_self, Dev.send_vault])

theorem Dev.act_vault (d : Dev) (c layer planned : Nat) (a : SeqAction) : (Dev.act d c layer planned a).vault = d.vault := by
  unfold Dev.act
  repeat' (first | with_reducible rfl | simp only [Dev.vault_ite, ite_self, Dev.await_vault, Dev.endPair_vault, Dev.freeRows_vault, Dev.inject_vault, Dev.issued_vault, Dev.kvWrite_vault, Dev.outputAction_vault, Dev.readLanes_vault, Dev.receive_vault, Dev.residualAdd_vault, Dev.sendWindow_vault, Dev.spadRead_vault, Dev.stalled_vault, Dev.unwait_vault, Dev.updSeq_vault, Dev.useRow_vault] | split)

theorem Dev.queueStandIns_vault (d : Dev) (p : Nat) : (Dev.queueStandIns d p).vault = d.vault := by
  unfold Dev.queueStandIns
  repeat' (first | with_reducible rfl | simp only [Dev.vault_ite, Dev.vault_mk, SecBlk.vault_sec, ite_self, Dev.queueOp_vault] | split | (refine (Dev.forAll_vault _ ?_ _ _).trans ?_ <;> intros))

theorem Dev.startSchedule_vault (d : Dev) (p : Nat) : (Dev.startSchedule d p).vault = d.vault := by
  unfold Dev.startSchedule
  repeat' (first | with_reducible rfl | simp only [Dev.vault_mk, SecBlk.vault_sec, Dev.queueStandIns_vault, Dev.startHalves_vault, Dev.updCluster_vault, Dev.updJob_vault, Dev.updSeqs_vault] | split | (refine (Dev.forAll_vault _ ?_ _ _).trans ?_ <;> intros))

theorem Dev.startDue_vault (d : Dev) : (Dev.startDue d).vault = d.vault := by
  unfold Dev.startDue
  repeat' (first | with_reducible rfl | simp only [Dev.vault_ite, Dev.startSchedule_vault] | split | (refine (Dev.forAll_vault _ ?_ _ _).trans ?_ <;> intros))

theorem Dev.useNonce_vault (d : Dev) (n : BitVec 256) : (Dev.useNonce d n).vault = d.vault := rfl

theorem Dev.refuseOwner_vault (d : Dev) : (Dev.refuseOwner d).vault = d.vault := by
  unfold Dev.refuseOwner
  repeat' (first | with_reducible rfl | simp only [Dev.answer_vault, Dev.count_vault])

theorem Dev.acceptOwner_vault (d : Dev) : (Dev.acceptOwner d).vault = d.vault := by
  unfold Dev.acceptOwner
  repeat' (first | with_reducible rfl | simp only [Dev.answer_vault, Dev.count_vault])

theorem Dev.endDebug_vault (d : Dev) : (Dev.endDebug d).vault = d.vault := rfl

theorem Dev.finishLoad_vault (d : Dev) (p : Nat) : (Dev.finishLoad d p).vault = d.vault := by
  unfold Dev.finishLoad
  repeat' (first | with_reducible rfl | simp only [Dev.vault_ite, Dev.complete_vault, Dev.updJob_vault] | split)

theorem Dev.takeLoadReport_vault (d : Dev) (p m : Nat) (version : U32) (status : Byte) : (Dev.takeLoadReport d p m version status).vault = d.vault := by
  unfold Dev.takeLoadReport
  repeat' (first | with_reducible rfl | simp only [Dev.finishLoad_vault, Dev.updJob_vault])

theorem Dev.reportLoad_vault (d : Dev) (p : Nat) (version : U32) (status : Byte) : (Dev.reportLoad d p version status).vault = d.vault := by
  unfold Dev.reportLoad
  repeat' (first | with_reducible rfl | simp only [Dev.vault_ite, ite_self, Dev.send_vault, Dev.takeLoadReport_vault] | split)

theorem Dev.takeCommitReport_vault (d : Dev) (p m : Nat) (version : U32) (status : Byte) : (Dev.takeCommitReport d p m version status).vault = d.vault := by
  unfold Dev.takeCommitReport
  repeat' (first | with_reducible rfl | simp only [Dev.vault_ite, ite_self, Dev.complete_vault, Dev.updJob_vault] | split)

theorem Dev.reportCommit_vault (d : Dev) (p : Nat) (status : Byte) : (Dev.reportCommit d p status).vault = d.vault := by
  unfold Dev.reportCommit
  repeat' (first | with_reducible rfl | simp only [Dev.vault_ite, ite_self, Dev.send_vault, Dev.takeCommitReport_vault] | split)

theorem Dev.failLoad_vault (d : Dev) (p : Nat) (status : Byte) : (Dev.failLoad d p status).vault = d.vault := by
  unfold Dev.failLoad
  repeat' (first | with_reducible rfl | simp only [Dev.reportLoad_vault, Dev.setCommit_vault, Dev.setLoad_vault])

theorem Dev.issueReads_vault (d : Dev) (p : Nat) : (Dev.issueReads d p).vault = d.vault := by
  unfold Dev.issueReads
  repeat' (first | with_reducible rfl | simp only [Dev.send_vault, Dev.setLoad_vault] | split | (refine (Dev.forAll_vault _ ?_ _ _).trans ?_ <;> intros))

theorem Dev.beginLoad_vault (d : Dev) (p : Nat) (e : ShardEntry) : (Dev.beginLoad d p e).vault = d.vault := by
  unfold Dev.beginLoad
  repeat' (first | with_reducible rfl | simp only [Dev.vault_ite, ite_self, Dev.failLoad_vault, Dev.issueReads_vault, Dev.reportLoad_vault, Dev.send_vault, Dev.setBank_vault, Dev.setCommit_vault, Dev.setLoad_vault, Dev.unitWrite_vault] | split | (refine (Dev.forAll_vault _ ?_ _ _).trans ?_ <;> intros))

theorem Dev.loadShard_vault (d : Dev) (o : Origin) (table : List ShardEntry) : (Dev.loadShard d o table).vault = d.vault := by
  unfold Dev.loadShard
  repeat' (first | with_reducible rfl | simp only [Dev.vault_ite, ite_self, Dev.beginLoad_vault, Dev.complete_vault, Dev.updJob_vault] | split)

theorem Dev.layImages_vault (d : Dev) (p b : Nat) (ps : List Placed) (part : List Byte) (sel : Nat → Bool) : (Dev.layImages d p b ps part sel).vault = d.vault := by
  unfold Dev.layImages
  repeat' (first | with_reducible rfl | simp only [Dev.vault_ite, ite_self, Dev.unitWrite_vault] | split | (refine (Dev.forAll_vault _ ?_ _ _).trans ?_ <;> intros))

theorem Dev.layDigests_vault (d : Dev) (p b : Nat) (cs : List Nat) : (Dev.layDigests d p b cs).vault = d.vault := by
  unfold Dev.layDigests
  repeat' (first | with_reducible rfl | simp only [Dev.draw_vault, Dev.unitWrite_vault] | split | (refine (Dev.forAll_vault _ ?_ _ _).trans ?_ <;> intros))

theorem Dev.layDahlia_vault (d : Dev) (p b : Nat) (all : List ChunkContent) : (Dev.layDahlia d p b all).vault = d.vault := by
  unfold Dev.layDahlia
  repeat' (first | with_reducible rfl | simp only [Dev.unitWrite_vault] | split | (refine (Dev.forAll_vault _ ?_ _ _).trans ?_ <;> intros))

theorem Dev.beginCommit_vault (d : Dev) (p : Nat) (version : U32) : (Dev.beginCommit d p version).vault = d.vault := by
  unfold Dev.beginCommit
  repeat' (first | with_reducible rfl | simp only [Dev.vault_ite, ite_self, Dev.dropLines_vault, Dev.orderProgramming_vault, Dev.setCommitting_vault])

theorem Dev.blankTile_vault (d : Dev) (k : Nat) : (Dev.blankTile d k).vault = d.vault := by
  unfold Dev.blankTile
  repeat' (first | with_reducible rfl | simp only [Dev.vault_ite, ite_self, Dev.resetTile_vault, Dev.updTile_vault])

theorem Dev.loseShard_vault (d : Dev) (p : Nat) : (Dev.loseShard d p).vault = d.vault := by
  unfold Dev.loseShard
  repeat' (first | with_reducible rfl | simp only [Dev.blankTile_vault, Dev.event_vault, Dev.reportBanks_vault, Dev.setCommit_vault, Dev.setLoad_vault, Dev.updJob_vault] | split | (refine (Dev.forAll_vault _ ?_ _ _).trans ?_ <;> intros))

theorem Dev.badLoad_vault (d : Dev) (p : Nat) (l : ShardLoad) (status : Byte) : (Dev.badLoad d p l status).vault = d.vault := by
  unfold Dev.badLoad
  repeat' (first | with_reducible rfl | simp only [Dev.vault_ite, ite_self, Dev.failLoad_vault, Dev.loseShard_vault])

theorem Dev.endRebuild_vault (d : Dev) (p : Nat) (l : ShardLoad) (cs : List Nat) : (Dev.endRebuild d p l cs).vault = d.vault := by
  unfold Dev.endRebuild
  repeat' (first | with_reducible rfl | simp only [Dev.count_vault, Dev.layDigests_vault, Dev.layImages_vault, Dev.loadSchedule_vault, Dev.orderTile_vault, Dev.setBank_vault, Dev.setLoad_vault] | split | (refine (Dev.forAll_vault _ ?_ _ _).trans ?_ <;> intros))

theorem Dev.endLoad_vault (d : Dev) (p : Nat) (l : ShardLoad) : (Dev.endLoad d p l).vault = d.vault := by
  unfold Dev.endLoad
  repeat' (first | with_reducible rfl | simp only [Dev.vault_ite, ite_self, Dev.badLoad_vault, Dev.beginCommit_vault, Dev.count_vault, Dev.endRebuild_vault, Dev.layDahlia_vault, Dev.layDigests_vault, Dev.layImages_vault, Dev.reportLoad_vault, Dev.setBank_vault, Dev.setCommit_vault, Dev.setLoad_vault] | split)

theorem Dev.takeChunk_vault (d : Dev) (p : Nat) (x : FormChunk) (peer : Bool) : (Dev.takeChunk d p x peer).vault = d.vault := by
  unfold Dev.takeChunk
  repeat' (first | with_reducible rfl | simp only [Dev.vault_ite, ite_self, Dev.badLoad_vault, Dev.count_vault, Dev.endLoad_vault, Dev.issueReads_vault, Dev.setLoad_vault] | split)

theorem Dev.takeRecovery_vault (d : Dev) (p : Nat) (version : U32) (digest : BitVec 384) (chunks : Nat) : (Dev.takeRecovery d p version digest chunks).vault = d.vault := by
  unfold Dev.takeRecovery
  repeat' (first | with_reducible rfl | simp only [Dev.vault_ite, ite_self, Dev.setBank_vault, Dev.setCommit_vault, Dev.setLoad_vault] | split)

theorem Dev.chunkFailed_vault (d : Dev) (p n : Nat) (bad : Bool) : (Dev.chunkFailed d p n bad).vault = d.vault := by
  unfold Dev.chunkFailed
  repeat' (first | with_reducible rfl | simp only [Dev.vault_ite, ite_self, Dev.count_vault, Dev.failLoad_vault, Dev.send_vault, Dev.setLoad_vault] | split)

theorem Dev.startReplica_vault (d : Dev) (p : Nat) : (Dev.startReplica d p).vault = d.vault := by
  unfold Dev.startReplica
  repeat' (first | with_reducible rfl | simp only [Dev.send_vault, Dev.setReplica_vault])

theorem Dev.sendReplica_vault (d : Dev) (p : Nat) (fits : Bool) : (Dev.sendReplica d p fits).vault = d.vault := by
  unfold Dev.sendReplica
  repeat' (first | with_reducible rfl | simp only [Dev.vault_ite, Dev.count_vault, Dev.send_vault, Dev.setReplica_vault] | split | (refine (Dev.forAll_vault _ ?_ _ _).trans ?_ <;> intros))

theorem Dev.beginRebuild_vault (d : Dev) (p b : Nat) (cs : List Nat) : (Dev.beginRebuild d p b cs).vault = d.vault := by
  unfold Dev.beginRebuild
  repeat' (first | with_reducible rfl | simp only [Dev.send_vault, Dev.setLoad_vault] | split | (refine (Dev.forAll_vault _ ?_ _ _).trans ?_ <;> intros))

theorem Dev.replicaArrives_vault (d : Dev) (p total : Nat) : (Dev.replicaArrives d p total).vault = d.vault := by
  unfold Dev.replicaArrives
  repeat' (first | with_reducible rfl | simp only [Dev.vault_ite, ite_self, Dev.send_vault, Dev.setReplica_vault])

theorem Dev.takeReplicaPart_vault (d : Dev) (p : Nat) (x : FormChunk) : (Dev.takeReplicaPart d p x).vault = d.vault := by
  unfold Dev.takeReplicaPart
  repeat' (first | with_reducible rfl | simp only [Dev.count_vault, Dev.setReplica_vault])

theorem Dev.giveChunk_vault (d : Dev) (p n : Nat) : (Dev.giveChunk d p n).vault = d.vault := by
  unfold Dev.giveChunk
  repeat' (first | with_reducible rfl | simp only [Dev.vault_ite, Dev.count_vault, Dev.send_vault] | split)

theorem Dev.giveReplica_vault (d : Dev) (p : Nat) : (Dev.giveReplica d p).vault = d.vault := by
  unfold Dev.giveReplica
  repeat' (first | with_reducible rfl | simp only [Dev.vault_ite, Dev.count_vault, Dev.send_vault] | split | (refine (Dev.forAll_vault _ ?_ _ _).trans ?_ <;> intros))

theorem Dev.replicaReported_vault (d : Dev) (p : Nat) (version : U32) (digest : BitVec 384) : (Dev.replicaReported d p version digest).vault = d.vault := by
  unfold Dev.replicaReported
  repeat' (first | with_reducible rfl | simp only [Dev.setReplica_vault])

theorem Dev.startCrocus_vault (d : Dev) (x : CrocusPack) : (Dev.startCrocus d x).vault = d.vault := by
  unfold Dev.startCrocus
  repeat' (first | with_reducible rfl | simp only [Dev.vault_ite, Dev.vault_mk, SecBlk.vault_sec, ite_self, Dev.count_vault])

theorem Dev.takePack_vault (d : Dev) (x : CrocusPack) : (Dev.takePack d x).1.vault = d.vault := by
  unfold Dev.takePack
  repeat' (first | with_reducible rfl | simp only [Dev.vault_mk, SecBlk.vault_sec, Dev.stackWrite_vault, Dev.startCrocus_vault] | split)

theorem Dev.goCrocus_vault (d : Dev) (pack : Option CrocusPack) : (Dev.goCrocus d pack).vault = d.vault := by
  unfold Dev.goCrocus
  repeat' (first | with_reducible rfl | simp only [Dev.vault_ite, Dev.vault_mk, SecBlk.vault_sec, Dev.packAnswer_vault, Dev.send_vault, Dev.takePack_vault] | split)

theorem Dev.judgeCrocus_vault (d : Dev) (idx k : Nat) (fails : List ((Nat × Bool × Bool) × Int)) : (Dev.judgeCrocus d idx k fails).vault = d.vault := by
  unfold Dev.judgeCrocus
  repeat' (first | with_reducible rfl | simp only [Dev.vault_ite, Dev.vault_mk, SecBlk.vault_sec, ite_self, Dev.count_vault, Dev.failTile_vault, Dev.logTile_vault] | split)

theorem Dev.partRefuse_vault (d : Dev) (n : Nat) (code : BitVec 4) : (Dev.partRefuse d n code).vault = d.vault := by
  unfold Dev.partRefuse
  repeat' (first | with_reducible rfl | simp only [Dev.vault_mk, SecBlk.vault_sec, Dev.count_vault])

theorem Dev.zeroWorkspace_vault (d : Dev) (w : U64) : (Dev.zeroWorkspace d w).vault = d.vault := by
  unfold Dev.zeroWorkspace
  repeat' (first | with_reducible rfl | simp only [Dev.count_vault, Dev.zeroRange_vault])

theorem Dev.fillWorkspace_vault (d : Dev) (sel : U64 → Bool) : (Dev.fillWorkspace d sel).vault = d.vault := by
  unfold Dev.fillWorkspace
  repeat' (first | with_reducible rfl | simp only [Dev.vault_ite, ite_self, Dev.zeroWorkspace_vault] | split | (refine (Dev.forAll_vault _ ?_ _ _).trans ?_ <;> intros))

theorem Dev.bringIn_vault (d : Dev) (p : PartSetup) : (Dev.bringIn d p).vault = d.vault := by
  unfold Dev.bringIn
  repeat' (first | with_reducible rfl | simp only [Dev.powerCluster_vault, Dev.setPart_vault, Dev.updCluster_vault] | split | (refine (Dev.forAll_vault _ ?_ _ _).trans ?_ <;> intros))

theorem Dev.passParts_vault (d : Dev) (p : Nat) : (Dev.passParts d p).vault = d.vault := by
  unfold Dev.passParts
  repeat' (first | with_reducible rfl | simp only [Dev.vault_ite, Dev.vault_mk, SecBlk.vault_sec, Dev.bringIn_vault] | split | (refine (Dev.forAll_vault _ ?_ _ _).trans ?_ <;> intros))

theorem Dev.jobOut_vault (d : Dev) (p : Nat) : (Dev.jobOut d p).vault = d.vault := by
  unfold Dev.jobOut
  repeat' (first | with_reducible rfl | simp only [Dev.passBudget_vault, Dev.passParts_vault, Dev.passRegs_vault])

theorem Dev.releasePart_vault (d : Dev) (p : PartSetup) : (Dev.releasePart d p).vault = d.vault := by
  unfold Dev.releasePart
  repeat' (first | with_reducible rfl | simp only [Dev.vault_mk, SecBlk.vault_sec, Dev.fillWorkspace_vault, Dev.jobOut_vault, Dev.resetPartition_vault, Dev.setPart_vault, Dev.updCluster_vault, Dev.updTile_vault] | split | (refine (Dev.forAll_vault _ ?_ _ _).trans ?_ <;> intros))

theorem Dev.takeSetup_vault (d : Dev) (p : PartSetup) : (Dev.takeSetup d p).vault = d.vault := by
  unfold Dev.takeSetup
  repeat' (first | with_reducible rfl | simp only [Dev.vault_ite, Dev.vault_mk, SecBlk.vault_sec, ite_self, Dev.bringIn_vault, Dev.releasePart_vault])

theorem Dev.flr_vault (d : Dev) (p : Nat) : (Dev.flr d p).vault = d.vault := by
  unfold Dev.flr
  repeat' (first | with_reducible rfl | simp only [Dev.vault_ite, Dev.vault_mk, SecBlk.vault_sec, ite_self, Dev.dropCommands_vault, Dev.jobOut_vault, Dev.resetPartition_vault, Dev.send_vault, Dev.setFn_vault, Dev.updJob_vault])

theorem Dev.acceptSetup_vault (d : Dev) (n : Nat) (e : PartEntry) : (Dev.acceptSetup d n e).vault = d.vault := by
  unfold Dev.acceptSetup
  repeat' (first | with_reducible rfl | simp only [Dev.send_vault, Dev.setPartAcc_vault, Dev.takeSetup_vault])

theorem Dev.setValid_vault (d : Dev) (n : Nat) (w : U64) : (Dev.setValid d n w).vault = d.vault := by
  unfold Dev.setValid
  repeat' (first | with_reducible rfl | simp only [Dev.vault_ite, ite_self, Dev.acceptSetup_vault, Dev.partRefuse_vault])

theorem Dev.clearValid_vault (d : Dev) (n : Nat) : (Dev.clearValid d n).vault = d.vault := by
  unfold Dev.clearValid
  repeat' (first | with_reducible rfl | simp only [Dev.vault_ite, ite_self, Dev.acceptSetup_vault, Dev.partRefuse_vault])

theorem Dev.writePart_vault (d : Dev) (n : Nat) (f : PartEntry → PartEntry) : (Dev.writePart d n f).vault = d.vault := by
  unfold Dev.writePart
  repeat' (first | with_reducible rfl | simp only [Dev.vault_ite, ite_self, Dev.partRefuse_vault, Dev.setPartAcc_vault])

theorem Dev.writeRegion_vault (d : Dev) (i : Nat) (desc : U64) : (Dev.writeRegion d i desc).vault = d.vault := by
  unfold Dev.writeRegion
  repeat' (first | with_reducible rfl | simp only [Dev.vault_ite, Dev.vault_mk, SecBlk.vault_sec, ite_self])

theorem Dev.applyRegion_vault (d : Dev) (i : Nat) (desc : U64) : (Dev.applyRegion d i desc).vault = d.vault := by
  unfold Dev.applyRegion
  repeat' (first | with_reducible rfl | simp only [Dev.vault_ite, Dev.vault_mk, SecBlk.vault_sec, ite_self, Dev.zeroWorkspace_vault])

theorem Dev.passRegion_vault (d : Dev) : (Dev.passRegion d).vault = d.vault := by
  unfold Dev.passRegion
  repeat' (first | with_reducible rfl | simp only [Dev.applyRegion_vault] | split)

theorem Dev.submitRegion_vault (d : Dev) (index : Nat) (desc : U64) : (Dev.submitRegion d index desc).vault = d.vault := by
  unfold Dev.submitRegion
  repeat' (first | with_reducible rfl | simp only [Dev.vault_ite, Dev.vault_mk, SecBlk.vault_sec, ite_self, Dev.applyRegion_vault])

theorem Dev.rowHeld_vault (d : Dev) (x : StepRow) : (Dev.rowHeld d x).vault = d.vault := by
  unfold Dev.rowHeld
  repeat' (first | with_reducible rfl | simp only [Dev.vault_ite, ite_self, Dev.setReq_vault, Dev.setStg_vault] | split)

theorem Dev.passOn_vault (d : Dev) (p : Nat) (x : StepDesc) : (Dev.passOn d p x).vault = d.vault := by
  unfold Dev.passOn
  repeat' (first | with_reducible rfl | simp only [Dev.send_vault, Dev.updJob_vault] | split)

theorem Dev.writeWorkspace_vault (d : Dev) (p : Nat) (sp : OperatorSpec) (t : TuningRec) : (Dev.writeWorkspace d p sp t).vault = d.vault := by
  unfold Dev.writeWorkspace
  repeat' (first | with_reducible rfl | simp only [Dev.unitWrite_vault] | split)

theorem Dev.endTuning_vault (d : Dev) (p : Nat) (x : StepDesc) (t : TuningRec) : (Dev.endTuning d p x t).vault = d.vault := by
  unfold Dev.endTuning
  repeat' (first | with_reducible rfl | simp only [Dev.reportOp_vault, Dev.writeWorkspace_vault] | split)

theorem Dev.stageDone_vault (d : Dev) (p : Nat) (x : StepDesc) (t : TuningRec) : (Dev.stageDone d p x t).vault = d.vault := by
  unfold Dev.stageDone
  repeat' (first | with_reducible rfl | simp only [Dev.vault_ite, ite_self, Dev.endTuning_vault, Dev.passOn_vault, Dev.rowHeld_vault, Dev.send_vault] | split | (refine (Dev.forAll_vault _ ?_ _ _).trans ?_ <;> intros))

theorem Dev.stageMarked_vault (d : Dev) (p : Nat) (x : StepDesc) : (Dev.stageMarked d p x).vault = d.vault := by
  unfold Dev.stageMarked
  repeat' (first | with_reducible rfl | simp only [Dev.vault_ite, ite_self, Dev.updJob_vault])

theorem Dev.endStage_vault (d : Dev) (p : Nat) : (Dev.endStage d p).vault = d.vault := by
  unfold Dev.endStage
  repeat' (first | with_reducible rfl | simp only [Dev.vault_ite, Dev.vault_mk, SecBlk.vault_sec, ite_self, Dev.stageDone_vault, Dev.stageMarked_vault, Dev.updJob_vault, Dev.watchBoundary_vault] | split)

theorem Dev.openSlot_vault (d : Dev) (slot k : Nat) : (Dev.openSlot d slot k).vault = d.vault := by
  unfold Dev.openSlot
  repeat' (first | with_reducible rfl | simp only [Dev.vault_ite, Dev.clearPage_vault, Dev.count_vault, Dev.enterPage_vault, Dev.setKv_vault, Dev.setStg_vault, Dev.takeFor_vault, Dev.unitWrite_vault, Dev.updReq_vault] | split)

theorem Dev.takeWatch_vault (d : Dev) (p i : Nat) (o : Origin) (w : WatchSpec) (fromStep : U48) : (Dev.takeWatch d p i o w fromStep).vault = d.vault := by
  unfold Dev.takeWatch
  repeat' (first | with_reducible rfl | simp only [Dev.setWatch_vault])

theorem Dev.applyChange_vault (d : Dev) (p : Nat) (c : ReqChange) : (Dev.applyChange d p c).vault = d.vault := by
  unfold Dev.applyChange
  repeat' (first | with_reducible rfl | simp only [Dev.vault_ite, ite_self, Dev.beginCommit_vault, Dev.count_vault, Dev.dropLoad_vault, Dev.freeEntry_vault, Dev.freeKv_vault, Dev.openSlot_vault, Dev.reclaimVersion_vault, Dev.reservePages_vault, Dev.setReq_vault, Dev.setStg_vault, Dev.takeWatch_vault, Dev.updGraft_vault] | split)

theorem Dev.flushFull_vault (d : Dev) (p : Nat) : (Dev.flushFull d p).vault = d.vault := by
  unfold Dev.flushFull
  repeat' (first | with_reducible rfl | simp only [Dev.vault_ite, Dev.enterPage_vault, Dev.flushSlot_vault, Dev.setKv_vault, Dev.setStg_vault, Dev.takeFor_vault, Dev.updJob_vault] | split | (refine (Dev.forAll_vault _ ?_ _ _).trans ?_ <;> intros))

theorem Dev.boundaryTiles_vault (d : Dev) (p : Nat) : (Dev.boundaryTiles d p).vault = d.vault := by
  unfold Dev.boundaryTiles
  repeat' (first | with_reducible rfl | simp only [Dev.vault_ite, ite_self, Dev.count_vault, Dev.ladderTile_vault, Dev.mapOutRow_vault, Dev.setTile_vault, Dev.updTile_vault] | split | (refine (Dev.forAll_vault _ ?_ _ _).trans ?_ <;> intros))

theorem Dev.boundaryTrims_vault (d : Dev) (p : Nat) : (Dev.boundaryTrims d p).vault = d.vault := by
  unfold Dev.boundaryTrims
  repeat' (first | with_reducible rfl | simp only [Dev.applyTrims_vault, Dev.updTile_vault] | split | (refine (Dev.forAll_vault _ ?_ _ _).trans ?_ <;> intros))

theorem Dev.retirePcs_vault (d : Dev) : (Dev.retirePcs d).vault = d.vault := by
  unfold Dev.retirePcs
  repeat' (first | with_reducible rfl | simp only [Dev.vault_ite, ite_self, Dev.setPcs_vault] | split | (refine (Dev.forAll_vault _ ?_ _ _).trans ?_ <;> intros))

theorem Dev.stepTime_vault (d : Dev) : (Dev.stepTime d).vault = d.vault := by
  unfold Dev.stepTime
  repeat' (first | with_reducible rfl | simp only [Dev.vault_mk, SecBlk.vault_sec, Dev.count_vault] | split)

theorem Dev.restoreSymbols_vault (d : Dev) (p : Nat) : (Dev.restoreSymbols d p).vault = d.vault := by
  unfold Dev.restoreSymbols
  repeat' (first | with_reducible rfl | simp only [Dev.vault_ite, ite_self, Dev.startReplica_vault, Dev.updJob_vault] | split)

theorem Dev.writeShadow_vault (d : Dev) (es : List (Nat × Nat × Nat × Nat)) : (Dev.writeShadow d es).vault = d.vault := by
  unfold Dev.writeShadow
  repeat' (first | with_reducible rfl | simp only [Dev.updCluster_vault] | split | (refine (Dev.forAll_vault _ ?_ _ _).trans ?_ <;> intros))

theorem Dev.planCircuits_vault (d : Dev) (p : Nat) : (Dev.planCircuits d p).vault = d.vault := by
  unfold Dev.planCircuits
  repeat' (first | with_reducible rfl | simp only [Dev.vault_ite, Dev.vault_mk, SecBlk.vault_sec, ite_self, Dev.count_vault, Dev.draw_vault, Dev.writeShadow_vault] | split | (refine (Dev.forAll_vault _ ?_ _ _).trans ?_ <;> intros))

theorem Dev.askEmbedding_vault (d : Dev) (p : Nat) (x : StepDesc) : (Dev.askEmbedding d p x).vault = d.vault := by
  unfold Dev.askEmbedding
  repeat' (first | with_reducible rfl | simp only [Dev.vault_ite, ite_self, Dev.send_vault] | split)

theorem Dev.sendTag_vault (d : Dev) (p : Nat) : (Dev.sendTag d p).vault = d.vault := by
  unfold Dev.sendTag
  repeat' (first | with_reducible rfl | simp only [Dev.vault_ite, ite_self, Dev.send_vault, Dev.updJob_vault])

theorem Dev.beginNext_vault (d : Dev) (p : Nat) : (Dev.beginNext d p).vault = d.vault := by
  unfold Dev.beginNext
  repeat' (first | with_reducible rfl | simp only [Dev.vault_ite, ite_self, Dev.applyChange_vault, Dev.askEmbedding_vault, Dev.count_vault, Dev.flushFull_vault, Dev.passOn_vault, Dev.planCircuits_vault, Dev.updJob_vault] | split | (refine (Dev.forAll_vault _ ?_ _ _).trans ?_ <;> intros))

theorem Dev.readNotices_vault (d : Dev) (p : Nat) : (Dev.readNotices d p).vault = d.vault := by
  unfold Dev.readNotices
  repeat' (first | with_reducible rfl | simp only [Dev.vault_ite, ite_self, Dev.suspendBounds_vault, Dev.updJob_vault])

theorem Dev.recordBounds_vault (d : Dev) (p : Nat) (r : ReqEntry) : (Dev.recordBounds d p r).vault = d.vault := by
  unfold Dev.recordBounds
  repeat' (first | with_reducible rfl | simp only [Dev.vault_ite, ite_self, Dev.count_vault])

theorem Dev.takeSubmission_vault (d : Dev) (o : Origin) (f : SubmitFields) (arrived : U48) (off : Bool) : (Dev.takeSubmission d o f arrived off).vault = d.vault := by
  unfold Dev.takeSubmission
  repeat' (first | with_reducible rfl | simp only [Dev.vault_ite, ite_self, Dev.bindGraft_vault, Dev.complete_vault, Dev.count_vault, Dev.hostWrite_vault, Dev.setReq_vault, Dev.updJob_vault] | split)

theorem Dev.refuseGraft_vault (d : Dev) (o : Origin) (status : Byte) (area : Bool) : (Dev.refuseGraft d o status area).vault = d.vault := by
  unfold Dev.refuseGraft
  repeat' (first | with_reducible rfl | simp only [Dev.vault_ite, ite_self, Dev.complete_vault, Dev.count_vault])

theorem Dev.graftLoad_vault (d : Dev) (o : Origin) (id : BitVec 12) (parts : List GraftPart) : (Dev.graftLoad d o id parts).vault = d.vault := by
  unfold Dev.graftLoad
  repeat' (first | with_reducible rfl | simp only [Dev.vault_ite, Dev.refuseGraft_vault, Dev.send_vault, Dev.updGraft_vault] | split | (refine (Dev.forAll_vault _ ?_ _ _).trans ?_ <;> intros))

theorem Dev.takeGraftPart_vault (d : Dev) (p : Nat) (id : BitVec 12) (ver : U16) (load : Nat) (x : GraftPart) : (Dev.takeGraftPart d p id ver load x).vault = d.vault := by
  unfold Dev.takeGraftPart
  repeat' (first | with_reducible rfl | simp only [Dev.vault_ite, ite_self, Dev.send_vault, Dev.updGraft_vault])

theorem Dev.takeGraftReport_vault (d : Dev) (id : BitVec 12) (load pos : Nat) (status : Byte) : (Dev.takeGraftReport d id load pos status).vault = d.vault := by
  unfold Dev.takeGraftReport
  repeat' (first | with_reducible rfl | simp only [Dev.vault_ite, ite_self, Dev.dropLoad_vault, Dev.refuseGraft_vault, Dev.updGraft_vault, Dev.updJob_vault] | split)

theorem Dev.installGrafts_vault (d : Dev) (p : Nat) : (Dev.installGrafts d p).vault = d.vault := by
  unfold Dev.installGrafts
  repeat' (first | with_reducible rfl | simp only [Dev.complete_vault, Dev.count_vault, Dev.updGraft_vault, Dev.updJob_vault] | split | (refine (Dev.forAll_vault _ ?_ _ _).trans ?_ <;> intros))

theorem Dev.leadDeadline_vault (d : Dev) (o : Origin) (h : U32) (deadline : U48) (dlValid now : Bool) : (Dev.leadDeadline d o h deadline dlValid now).vault = d.vault := by
  unfold Dev.leadDeadline
  repeat' (first | with_reducible rfl | simp only [Dev.vault_ite, ite_self, Dev.complete_vault, Dev.completeNamed_vault, Dev.setReq_vault] | split)

theorem Dev.leadCancel_vault (d : Dev) (o : Origin) (h : U32) : (Dev.leadCancel d o h).vault = d.vault := by
  unfold Dev.leadCancel
  repeat' (first | with_reducible rfl | simp only [Dev.vault_ite, ite_self, Dev.complete_vault, Dev.completeNamed_vault, Dev.setReq_vault] | split)

theorem Dev.leadRetire_vault (d : Dev) (o : Origin) (id : BitVec 12) : (Dev.leadRetire d o id).vault = d.vault := by
  unfold Dev.leadRetire
  repeat' (first | with_reducible rfl | simp only [Dev.complete_vault, Dev.updGraft_vault, Dev.updJob_vault])

theorem Dev.leadCommit_vault (d : Dev) (o : Origin) (dr : U48) (drValid : Bool) : (Dev.leadCommit d o dr drValid).vault = d.vault := by
  unfold Dev.leadCommit
  repeat' (first | with_reducible rfl | simp only [Dev.vault_ite, ite_self, Dev.complete_vault, Dev.updJob_vault])

theorem Dev.leadWatch_vault (d : Dev) (o : Origin) (w : WatchSpec) : (Dev.leadWatch d o w).vault = d.vault := by
  unfold Dev.leadWatch
  repeat' (first | with_reducible rfl | simp only [Dev.armWatch_vault, Dev.updJob_vault] | split)

theorem Dev.leadOperator_vault (d : Dev) (o : Origin) (sp : OperatorSpec) : (Dev.leadOperator d o sp).vault = d.vault := by
  unfold Dev.leadOperator
  repeat' (first | with_reducible rfl | simp only [Dev.complete_vault, Dev.updJob_vault] | split)

theorem Dev.leadCommand_vault (d : Dev) (c : FwdCmd) : (Dev.leadCommand d c).vault = d.vault := by
  unfold Dev.leadCommand
  repeat' (first | with_reducible rfl | simp only [Dev.leadCancel_vault, Dev.leadCommit_vault, Dev.leadDeadline_vault, Dev.leadOperator_vault, Dev.leadRetire_vault, Dev.leadWatch_vault] | split)

theorem Dev.preemptNow_vault (d : Dev) (slot : Nat) : (Dev.preemptNow d slot).vault = d.vault := by
  unfold Dev.preemptNow
  repeat' (first | with_reducible rfl | simp only [Dev.vault_ite, ite_self, Dev.count_vault, Dev.setReq_vault])

theorem Dev.expire_vault (d : Dev) (p slot : Nat) : (Dev.expire d p slot).vault = d.vault := by
  unfold Dev.expire
  repeat' (first | with_reducible rfl | simp only [Dev.vault_ite, ite_self, Dev.endRequest_vault, Dev.preemptNow_vault, Dev.setReq_vault])

theorem Dev.takeToken_vault (d : Dev) (p slot : Nat) (f : FoxResult) : (Dev.takeToken d p slot f).vault = d.vault := by
  unfold Dev.takeToken
  repeat' (first | with_reducible rfl | simp only [Dev.vault_ite, ite_self, Dev.count_vault, Dev.hostWrite_vault, Dev.recordBounds_vault, Dev.setReq_vault])

theorem Dev.completeRow_vault (d : Dev) (p : Nat) (x : StepRow) : (Dev.completeRow d p x).vault = d.vault := by
  unfold Dev.completeRow
  repeat' (first | with_reducible rfl | simp only [Dev.vault_ite, Dev.setReq_vault, Dev.takeToken_vault] | split)

theorem Dev.dropResults_vault (d : Dev) (p : Nat) (rows : List StepRow) : (Dev.dropResults d p rows).vault = d.vault := by
  unfold Dev.dropResults
  repeat' (first | with_reducible rfl | simp only [Dev.dropLogits_vault, Dev.updJob_vault])

theorem Dev.completeStep_vault (d : Dev) (p : Nat) (x : StepDesc) : (Dev.completeStep d p x).vault = d.vault := by
  unfold Dev.completeStep
  repeat' (first | with_reducible rfl | simp only [Dev.completeRow_vault, Dev.dropResults_vault, Dev.updJob_vault] | split | (refine (Dev.forAll_vault _ ?_ _ _).trans ?_ <;> intros))

theorem Dev.markRows_vault (d : Dev) (rows : List StepRow) : (Dev.markRows d rows).vault = d.vault := by
  unfold Dev.markRows
  repeat' (first | with_reducible rfl | simp only [Dev.updReq_vault] | split | (refine (Dev.forAll_vault _ ?_ _ _).trans ?_ <;> intros))

theorem Dev.markedStep_vault (d : Dev) (p : Nat) (x : StepDesc) : (Dev.markedStep d p x).vault = d.vault := by
  unfold Dev.markedStep
  repeat' (first | with_reducible rfl | simp only [Dev.dropResults_vault, Dev.markRows_vault, Dev.updReq_vault] | split | (refine (Dev.forAll_vault _ ?_ _ _).trans ?_ <;> intros))

theorem Dev.ending_vault (d : Dev) (slot : Nat) : (Dev.ending d slot).vault = d.vault := by
  unfold Dev.ending
  repeat' (first | with_reducible rfl | simp only [Dev.vault_ite, ite_self, Dev.endRequest_vault, Dev.freeEntry_vault])

theorem Dev.advanceDrain_vault (d : Dev) (p : Nat) : (Dev.advanceDrain d p).vault = d.vault := by
  unfold Dev.advanceDrain
  repeat' (first | with_reducible rfl | simp only [Dev.vault_ite, ite_self, Dev.complete_vault, Dev.updJob_vault] | split)

theorem Dev.orderLagging_vault (d : Dev) (p : Nat) : (Dev.orderLagging d p).vault = d.vault := by
  unfold Dev.orderLagging
  repeat' (first | with_reducible rfl | simp only [Dev.vault_ite, ite_self, Dev.beginCommit_vault, Dev.send_vault] | split | (refine (Dev.forAll_vault _ ?_ _ _).trans ?_ <;> intros))

theorem Dev.wantsPages_vault (d : Dev) (slot : Nat) : (Dev.wantsPages d slot).vault = d.vault := by
  unfold Dev.wantsPages
  repeat' (first | with_reducible rfl | simp only [Dev.updReq_vault])

theorem Dev.addChange_vault (d : Dev) (p : Nat) (c : ReqChange) : (Dev.addChange d p c).vault = d.vault := by
  unfold Dev.addChange
  repeat' (first | with_reducible rfl | simp only [Dev.updJob_vault])

theorem Dev.preemptPaused_vault (d : Dev) (p : Nat) : (Dev.preemptPaused d p).vault = d.vault := by
  unfold Dev.preemptPaused
  repeat' (first | with_reducible rfl | simp only [Dev.vault_ite, Dev.preemptNow_vault] | split)

theorem Dev.queueDesc_vault (d : Dev) (p : Nat) (x : StepDesc) : (Dev.queueDesc d p x).vault = d.vault := by
  unfold Dev.queueDesc
  repeat' (first | with_reducible rfl | simp only [Dev.updJob_vault])

theorem Filling.add_vault (f : Filling) (r : ReqEntry) (rows : List StepRow) : (f.add r rows).dev.vault = f.dev.vault := rfl

theorem Filling.defer_vault (f : Filling) (n : Nat) : (f.defer n).dev.vault = f.dev.vault := by
  unfold Filling.defer; split <;> rfl

theorem Filling.decodeRow_vault (f : Filling) (p s : Nat) : (f.decodeRow p s).dev.vault = f.dev.vault := by
  unfold Filling.decodeRow
  repeat' (first | with_reducible rfl | simp only [Filling.add_vault, Filling.defer_vault, Dev.addChange_vault, Dev.updReq_vault, Dev.count_vault, Dev.wantsPages_vault, Dev.promise_vault] | split)

theorem Filling.prefill_vault (f : Filling) (p : Nat) (out : Outside) (whole : Bool) (s : Nat) :
    (f.prefill p out whole s).dev.vault = f.dev.vault := by
  unfold Filling.prefill
  dsimp only
  repeat' (first | with_reducible rfl | simp only [Filling.add_vault, Filling.defer_vault, Dev.addChange_vault, Dev.setReq_vault,
    Dev.count_vault, Dev.send_vault, Dev.reservePages_vault, Dev.wantsPages_vault, Dev.promise_vault, Dev.vault_ite, ite_self] | split)

theorem Filling.foldl_vault (g : Filling → Nat → Filling) (h : ∀ f s, (g f s).dev.vault = f.dev.vault) (xs : List Nat) (f : Filling) :
    (xs.foldl g f).dev.vault = f.dev.vault := by
  induction xs generalizing f with
  | nil => rfl
  | cons x xs ih => exact (ih (g f x)).trans (h f x)

theorem Dev.fillStep_vault (d : Dev) (p : Nat) (out : Outside) : (d.fillStep p out).dev.vault = d.vault := by
  have hd : ∀ (xs : List Nat) (f : Filling), (xs.foldl (fun f s => f.decodeRow p s) f).dev.vault = f.dev.vault :=
    fun xs f => Filling.foldl_vault _ (fun f s => Filling.decodeRow_vault f p s) xs f
  have hp : ∀ (w : Bool) (xs : List Nat) (f : Filling), (xs.foldl (fun f s => f.prefill p out w s) f).dev.vault = f.dev.vault :=
    fun w xs f => Filling.foldl_vault _ (fun f s => Filling.prefill_vault f p out w s) xs f
  unfold Dev.fillStep
  dsimp only
  simp only [hp, hd]

theorem Dev.compose_vault (d : Dev) (p : Nat) (out : Outside) : (d.compose p out).vault = d.vault := by
  unfold Dev.compose
  split <;> dsimp only <;> split <;> (try split) <;>
    simp only [Dev.count_vault, Dev.queueDesc_vault, Dev.updJob_vault, Dev.fillStep_vault, Dev.preemptPaused_vault]

theorem Dev.replayStep_vault (d : Dev) (p : Nat) (x : StepDesc) : (Dev.replayStep d p x).vault = d.vault := by
  unfold Dev.replayStep
  repeat' (first | with_reducible rfl | simp only [Dev.vault_ite, ite_self, Dev.updJob_vault])

theorem Dev.endOperator_vault (d : Dev) (p : Nat) : (Dev.endOperator d p).vault = d.vault := by
  unfold Dev.endOperator
  repeat' (first | with_reducible rfl | simp only [Dev.vault_ite, Dev.complete_vault, Dev.count_vault, Dev.draw_vault, Dev.hostWrite_vault, Dev.updJob_vault] | split)

theorem Dev.startOperator_vault (d : Dev) (p : Nat) : (Dev.startOperator d p).vault = d.vault := by
  unfold Dev.startOperator
  repeat' (first | with_reducible rfl | simp only [Dev.vault_ite, ite_self, Dev.count_vault, Dev.queueDesc_vault, Dev.setJob_vault] | split)

theorem Dev.queryEntry_vault (d : Dev) (o : Origin) (h : U32) (buf : U64) (len : Nat) : (Dev.queryEntry d o h buf len).vault = d.vault := by
  unfold Dev.queryEntry
  repeat' (first | with_reducible rfl | simp only [Dev.vault_ite, ite_self, Dev.complete_vault, Dev.completeNamed_vault, Dev.hostWrite_vault] | split)

theorem Dev.mirrorChanges_vault (d old : Dev) (p : Nat) : (Dev.mirrorChanges d old p).vault = d.vault := by
  unfold Dev.mirrorChanges
  repeat' (first | with_reducible rfl | simp only [Dev.vault_ite, ite_self, Dev.mirrorOut_vault] | split | (refine (Dev.forAll_vault _ ?_ _ _).trans ?_ <;> intros))

theorem Dev.answerQuery_vault (d : Dev) (o : Origin) (buf : U64) (len : Nat) (bs : List Byte) : (Dev.answerQuery d o buf len bs).vault = d.vault := by
  unfold Dev.answerQuery
  repeat' (first | with_reducible rfl | simp only [Dev.vault_ite, ite_self, Dev.complete_vault, Dev.hostWrite_vault])

theorem Dev.query_vault (d : Dev) (c : FwdCmd) (kind : Byte) (id : BitVec 12) (buf : U64) (len : Nat) : (Dev.query d c kind id buf len).vault = d.vault := by
  unfold Dev.query
  repeat' (first | with_reducible rfl | simp only [Dev.vault_ite, ite_self, Dev.answerQuery_vault, Dev.complete_vault])

theorem Dev.openWindow_vault (d : Dev) (o : Origin) (id : BitVec 12) (base : BitVec 23) (blocks : Nat) : (Dev.openWindow d o id base blocks).vault = d.vault := by
  unfold Dev.openWindow
  repeat' (first | with_reducible rfl | simp only [Dev.vault_ite, ite_self, Dev.complete_vault, Dev.setWindow_vault])

theorem Dev.shutWindow_vault (d : Dev) (o : Origin) (id : BitVec 12) : (Dev.shutWindow d o id).vault = d.vault := by
  unfold Dev.shutWindow
  repeat' (first | with_reducible rfl | simp only [Dev.vault_ite, ite_self, Dev.closeWindow_vault, Dev.complete_vault])

theorem Dev.watchAddress_vault (d : Dev) (o : Origin) (w : WatchSpec) : (Dev.watchAddress d o w).vault = d.vault := by
  unfold Dev.watchAddress
  repeat' (first | with_reducible rfl | simp only [Dev.vault_ite, ite_self, Dev.armWatch_vault, Dev.fireAddress_vault] | split)

theorem Dev.calibrateHere_vault (d : Dev) (o : Origin) : (Dev.calibrateHere d o).vault = d.vault := by
  unfold Dev.calibrateHere
  repeat' (first | with_reducible rfl | simp only [Dev.calibrateTiles_vault, Dev.count_vault, Dev.finishCalibrates_vault, Dev.updJob_vault])

theorem Dev.atOnce_vault (d : Dev) (c : FwdCmd) : (Dev.atOnce d c).vault = d.vault := by
  unfold Dev.atOnce
  repeat' (first | with_reducible rfl | simp only [Dev.vault_ite, ite_self, Dev.calibrateHere_vault, Dev.graftLoad_vault, Dev.loadShard_vault, Dev.loseRequest_vault, Dev.openWindow_vault, Dev.query_vault, Dev.shutWindow_vault, Dev.watchAddress_vault] | split)

theorem Dev.deliver_vault (d : Dev) (c : FwdCmd) : (Dev.deliver d c).vault = d.vault := by
  unfold Dev.deliver
  repeat' (first | with_reducible rfl | simp only [Dev.vault_ite, ite_self, Dev.atOnce_vault, Dev.updJob_vault])

theorem Dev.readTag_vault (d : Dev) (p : Nat) (t : MemberTag) : (Dev.readTag d p t).vault = d.vault := by
  unfold Dev.readTag
  repeat' (first | with_reducible rfl | simp only [Dev.loseRequest_vault, Dev.markRows_vault, Dev.preempt_vault, Dev.updJob_vault] | split | (refine (Dev.forAll_vault _ ?_ _ _).trans ?_ <;> intros))

theorem Dev.stepOutcome_vault (d : Dev) (p : Nat) (ending : Option StepDesc) : (Dev.stepOutcome d p ending).vault = d.vault := by
  unfold Dev.stepOutcome
  repeat' (first | with_reducible rfl | simp only [Dev.vault_ite, Dev.vault_mk, SecBlk.vault_sec, ite_self, Dev.completeStep_vault, Dev.endOperator_vault, Dev.markedStep_vault] | split)

theorem Dev.stepTwo_vault (d : Dev) (c : FwdCmd) : (Dev.stepTwo d c).vault = d.vault := by
  unfold Dev.stepTwo
  repeat' (first | with_reducible rfl | simp only [Dev.vault_ite, ite_self, Dev.atOnce_vault, Dev.leadCommand_vault])

theorem Dev.leadBoundary_vault (d : Dev) (p : Nat) (out : Outside) (ending : Option StepDesc) : (Dev.leadBoundary d p out ending).vault = d.vault := by
  unfold Dev.leadBoundary
  repeat' (first | with_reducible rfl | simp only [Dev.advanceDrain_vault, Dev.applyRegs_vault, Dev.atOnce_vault, Dev.compose_vault, Dev.endStage_vault, Dev.ending_vault, Dev.expire_vault, Dev.installGrafts_vault, Dev.mirrorChanges_vault, Dev.orderLagging_vault, Dev.queryEntry_vault, Dev.readNotices_vault, Dev.readTag_vault, Dev.reclaimGrafts_vault, Dev.replayStep_vault, Dev.startOperator_vault, Dev.stepOutcome_vault, Dev.stepTwo_vault, Dev.takeSubmission_vault, Dev.updJob_vault] | split | (refine (Dev.forAll_vault _ ?_ _ _).trans ?_ <;> intros))

theorem Dev.ctxResult_vault (d : Dev) (fn : Nat) (code : BitVec 4) : (Dev.ctxResult d fn code).vault = d.vault := by
  unfold Dev.ctxResult
  repeat' (first | with_reducible rfl | simp only [Dev.setFn_vault])

theorem Dev.ctxChanged_vault (d : Dev) (key : Nat) : (Dev.ctxChanged d key).vault = d.vault := by
  unfold Dev.ctxChanged
  repeat' (first | with_reducible rfl | simp only [Dev.vault_ite, ite_self, Dev.toStandby_vault])

theorem Dev.forgetBell_vault (d : Dev) (q : Nat) : (Dev.forgetBell d q).vault = d.vault := rfl

theorem Dev.createCtx_vault (d : Dev) (fn : Nat) : (Dev.createCtx d fn).vault = d.vault := by
  unfold Dev.createCtx
  repeat' (first | with_reducible rfl | simp only [Dev.vault_ite, ite_self, Dev.cacheCtx_vault, Dev.ctxChanged_vault, Dev.ctxResult_vault, Dev.forgetBell_vault, Dev.setQueue_vault, Dev.setRing_vault, Dev.storeCtx_vault])

theorem Dev.deleteCtx_vault (d : Dev) (fn : Nat) : (Dev.deleteCtx d fn).vault = d.vault := by
  unfold Dev.deleteCtx
  repeat' (first | with_reducible rfl | simp only [Dev.vault_ite, Dev.vault_mk, SecBlk.vault_sec, ite_self, Dev.ctxChanged_vault, Dev.ctxResult_vault, Dev.forgetBell_vault, Dev.setQueue_vault, Dev.setRing_vault, Dev.storeCtx_vault])

theorem Dev.readCtx_vault (d : Dev) (fn : Nat) : (Dev.readCtx d fn).vault = d.vault := by
  unfold Dev.readCtx
  repeat' (first | with_reducible rfl | simp only [Dev.vault_ite, Dev.ctxResult_vault, Dev.setFn_vault, Dev.touchCtx_vault] | split)

theorem Dev.takeBell_vault (d : Dev) (q : Nat) (w : U64) : (Dev.takeBell d q w).vault = d.vault := by
  unfold Dev.takeBell
  repeat' (first | with_reducible rfl | simp only [Dev.vault_ite, Dev.vault_mk, SecBlk.vault_sec, ite_self, Dev.count_vault, Dev.ctxChanged_vault, Dev.setQueue_vault, Dev.touchCtx_vault] | split)

theorem Dev.passTo_vault (d : Dev) (pos : Nat) (c : FwdCmd) : (Dev.passTo d pos c).vault = d.vault := by
  unfold Dev.passTo
  repeat' (first | with_reducible rfl | simp only [Dev.vault_ite, ite_self, Dev.deliver_vault, Dev.send_vault])

theorem Dev.forwardTo_vault (d : Dev) (pos : Nat) (c : FwdCmd) : (Dev.forwardTo d pos c).vault = d.vault := by
  unfold Dev.forwardTo
  repeat' (first | with_reducible rfl | simp only [Dev.vault_ite, ite_self, Dev.passTo_vault, Dev.toStandby_vault])

theorem Dev.readHost_vault (d : Dev) (fn : Nat) (addr : U64) (length : Nat) : (Dev.readHost d fn addr length).vault = d.vault := rfl

theorem Dev.readTables_vault (d : Dev) (q : Nat) (e : BitVec 512) : (Dev.readTables d q e).vault = d.vault := by
  unfold Dev.readTables
  repeat' (first | with_reducible rfl | simp only [Dev.readHost_vault] | split)

theorem Dev.takeEntry_vault (d : Dev) (q : Nat) (head : U16) (e : BitVec 512) (mem : Option FwdBody) : (Dev.takeEntry d q head e mem).vault = d.vault := by
  unfold Dev.takeEntry
  repeat' (first | with_reducible rfl | simp only [Dev.vault_ite, Dev.vault_mk, SecBlk.vault_sec, Dev.complete_vault, Dev.count_vault, Dev.forwardTo_vault, Dev.readTables_vault] | split | (refine (Dev.forAll_vault _ ?_ _ _).trans ?_ <;> intros))

theorem Dev.unreadEntry_vault (d : Dev) (q : Nat) (head : U16) : (Dev.unreadEntry d q head).vault = d.vault := by
  unfold Dev.unreadEntry
  repeat' (first | with_reducible rfl | simp only [Dev.vault_mk, SecBlk.vault_sec, Dev.complete_vault, Dev.count_vault])

theorem Dev.portDown_vault (d : Dev) (n : Nat) (tamper : Bool) : (d.portDown n tamper).vault = d.vault := by
  have h : ∀ p, ((d.reinject n).setPort n p).vault = d.vault := fun p => by rw [Dev.setPort_vault, Dev.reinject_vault]
  unfold Dev.portDown
  dsimp only
  repeat' (first | exact h _ | simp only [Dev.count_vault, Dev.send_vault] | split)

theorem Dev.leaveCtl_vault (d : Dev) (n : Nat) (c : LinkCtl) : (Dev.leaveCtl d n c).vault = d.vault := by
  unfold Dev.leaveCtl
  repeat' (first | with_reducible rfl | simp only [Dev.count_vault, Dev.send_vault, Dev.updPort_vault])

theorem Dev.control_vault (d : Dev) (n : Nat) (c : LinkCtl) : (Dev.control d n c).vault = d.vault := by
  unfold Dev.control
  repeat' (first | with_reducible rfl | simp only [Dev.vault_ite, ite_self, Dev.leaveCtl_vault, Dev.updPort_vault])

theorem Dev.agreeWidth_vault (d : Dev) (n : Nat) (peer : Byte) : (Dev.agreeWidth d n peer).vault = d.vault := by
  unfold Dev.agreeWidth
  repeat' (first | with_reducible rfl | simp only [Dev.vault_ite, ite_self, Dev.count_vault, Dev.portDown_vault, Dev.updPort_vault])

theorem Dev.faultLane_vault (d : Dev) (n lane : Nat) : (Dev.faultLane d n lane).vault = d.vault := by
  unfold Dev.faultLane
  repeat' (first | with_reducible rfl | simp only [Dev.vault_ite, ite_self, Dev.control_vault, Dev.count_vault, Dev.laneFault_vault, Dev.portDown_vault, Dev.updPort_vault])

theorem Dev.retrain_vault (d : Dev) (n : Nat) : (Dev.retrain d n).vault = d.vault := by
  unfold Dev.retrain
  repeat' (first | with_reducible rfl | simp only [Dev.vault_ite, ite_self, Dev.updPort_vault])

theorem Dev.trainLanes_vault (d : Dev) (n : Nat) (failed : Byte) : (Dev.trainLanes d n failed).vault = d.vault := by
  unfold Dev.trainLanes
  repeat' (first | with_reducible rfl | simp only [Dev.vault_ite, ite_self, Dev.count_vault, Dev.laneFault_vault, Dev.setLane_vault] | split | (refine (Dev.forAll_vault _ ?_ _ _).trans ?_ <;> intros))

theorem Dev.newSalts_vault (d : Dev) (n : Nat) : (Dev.newSalts d n).vault = d.vault := by
  unfold Dev.newSalts
  repeat' (first | with_reducible rfl | simp only [Dev.draw_vault, Dev.updPort_vault])

theorem Dev.missedHop_vault (d : Dev) (f : SentFlit) : (Dev.missedHop d f).vault = d.vault := by
  unfold Dev.missedHop
  repeat' (first | with_reducible rfl | simp only [Dev.vault_ite, ite_self, Dev.count_vault])

theorem Dev.replayPort_vault (d : Dev) (n : Nat) (good : BitVec 12) : (Dev.replayPort d n good).vault = d.vault := by
  unfold Dev.replayPort
  repeat' (first | with_reducible rfl | simp only [Dev.vault_ite, ite_self, Dev.count_vault, Dev.missedHop_vault, Dev.send_vault, Dev.setPort_vault, Dev.updPort_vault] | split | (refine (Dev.forAll_vault _ ?_ _ _).trans ?_ <;> intros))

theorem Dev.nakPort_vault (d : Dev) (n : Nat) : (Dev.nakPort d n).vault = d.vault := by
  unfold Dev.nakPort
  repeat' (first | with_reducible rfl | simp only [Dev.control_vault])

theorem Dev.tagFailed_vault (d : Dev) (n : Nat) : (Dev.tagFailed d n).vault = d.vault := by
  unfold Dev.tagFailed
  repeat' (first | with_reducible rfl | simp only [Dev.vault_ite, ite_self, Dev.count_vault, Dev.nakPort_vault, Dev.portDown_vault, Dev.updPort_vault])

theorem Dev.endMessage_vault (d : Dev) (n : Nat) (f : Flit) : (Dev.endMessage d n f).vault = d.vault := by
  unfold Dev.endMessage
  repeat' (first | with_reducible rfl | simp only [Dev.vault_ite, ite_self, Dev.count_vault, Dev.send_vault])

theorem Dev.acceptFlit_vault (d : Dev) (n : Nat) (f : Flit) : (Dev.acceptFlit d n f).vault = d.vault := by
  unfold Dev.acceptFlit
  repeat' (first | with_reducible rfl | simp only [Dev.vault_ite, ite_self, Dev.count_vault, Dev.endMessage_vault, Dev.replayPort_vault, Dev.updPort_vault] | split)

theorem Dev.checkTime_vault (d : Dev) (n : Nat) (tx : U64) : (Dev.checkTime d n tx).vault = d.vault := by
  unfold Dev.checkTime
  repeat' (first | with_reducible rfl | simp only [Dev.vault_ite, Dev.vault_mk, SecBlk.vault_sec, ite_self, Dev.count_vault])

theorem Dev.miswire_vault (d : Dev) (n : Nat) : (Dev.miswire d n).vault = d.vault := by
  unfold Dev.miswire
  repeat' (first | with_reducible rfl | simp only [Dev.reinject_vault, Dev.send_vault, Dev.updPort_vault])

theorem Dev.endTransfer_vault (d : Dev) (sel : Transfer → Bool) (status : Byte) : (Dev.endTransfer d sel status).vault = d.vault := by
  unfold Dev.endTransfer
  repeat' (first | with_reducible rfl | simp only [Dev.vault_mk, SecBlk.vault_sec, Dev.reportOp_vault] | split | (refine (Dev.forAll_vault _ ?_ _ _).trans ?_ <;> intros))

theorem Dev.noteReach_vault (d : Dev) : (Dev.noteReach d).vault = d.vault := by
  unfold Dev.noteReach
  repeat' (first | with_reducible rfl | simp only [Dev.vault_mk, SecBlk.vault_sec])

theorem Dev.breakLink_vault (d : Dev) (node : BitVec 7) (port : Nat) : (Dev.breakLink d node port).vault = d.vault := by
  unfold Dev.breakLink
  repeat' (first | with_reducible rfl | simp only [Dev.vault_mk, SecBlk.vault_sec, Dev.noteReach_vault])

theorem Dev.mendLinks_vault (d : Dev) (node : BitVec 7) : (Dev.mendLinks d node).vault = d.vault := by
  unfold Dev.mendLinks
  repeat' (first | with_reducible rfl | simp only [Dev.vault_mk, SecBlk.vault_sec, Dev.noteReach_vault])

theorem Dev.applyMaps_vault (d : Dev) (posMap routes : List (Nat × BitVec 8)) : (Dev.applyMaps d posMap routes).vault = d.vault := rfl

theorem Dev.holdLinks_vault (d : Dev) (collide : List (BitVec 7)) : (Dev.holdLinks d collide).vault = d.vault := by
  unfold Dev.holdLinks
  repeat' (first | with_reducible rfl | simp only [Dev.vault_ite, ite_self, Dev.portDown_vault, Dev.setPort_vault, Dev.updPort_vault] | split | (refine (Dev.forAll_vault _ ?_ _ _).trans ?_ <;> intros))

theorem Dev.takePush_vault (d : Dev) (p : RoutePush) : (Dev.takePush d p).vault = d.vault := rfl

theorem Dev.applyPush_vault (d : Dev) (p : RoutePush) : (Dev.applyPush d p).vault = d.vault := by
  unfold Dev.applyPush
  repeat' (first | with_reducible rfl | simp only [Dev.vault_ite, Dev.vault_mk, SecBlk.vault_sec, ite_self, Dev.applyMaps_vault, Dev.holdLinks_vault])

theorem Dev.pushRoutes_vault (d : Dev) (p : BitVec 7 → RoutePush) : (Dev.pushRoutes d p).vault = d.vault := by
  unfold Dev.pushRoutes
  repeat' (first | with_reducible rfl | simp only [Dev.send_vault, Dev.takePush_vault] | split | (refine (Dev.forAll_vault _ ?_ _ _).trans ?_ <;> intros))

theorem Dev.pushStandby_vault (d : Dev) : (Dev.pushStandby d).vault = d.vault := by
  unfold Dev.pushStandby
  repeat' (first | with_reducible rfl | simp only [Dev.pushRoutes_vault])

theorem Dev.releaseItem_vault (d : Dev) (i : StandbyItem) : (Dev.releaseItem d i).vault = d.vault := by
  unfold Dev.releaseItem
  repeat' (first | with_reducible rfl | simp only [Dev.vault_ite, ite_self, Dev.applyHostWrite_vault, Dev.passTo_vault] | split)

theorem Dev.dropStandby_vault (d : Dev) : (Dev.dropStandby d).vault = d.vault := by
  unfold Dev.dropStandby
  repeat' (first | with_reducible rfl | simp only [Dev.vault_ite, Dev.vault_mk, SecBlk.vault_sec, Dev.pushStandby_vault, Dev.releaseItem_vault, Dev.send_vault] | split | (refine (Dev.forAll_vault _ ?_ _ _).trans ?_ <;> intros))

theorem Dev.keepContext_vault (d : Dev) (key : Nat) (w : Option (BitVec 256)) : (Dev.keepContext d key w).vault = d.vault := by
  unfold Dev.keepContext
  repeat' (first | with_reducible rfl | simp only [Dev.vault_ite, Dev.vault_mk, SecBlk.vault_sec, ite_self, Dev.setQueue_vault, Dev.setRing_vault, Dev.storeCtx_vault])

theorem Dev.shadow_vault (d : Dev) (m : HostWriteMsg) : (Dev.shadow d m).vault = d.vault := by
  unfold Dev.shadow
  repeat' (first | with_reducible rfl | simp only [Dev.vault_ite, Dev.vault_mk, SecBlk.vault_sec, ite_self, Dev.keepContext_vault, Dev.noteAdmitted_vault, Dev.setQueue_vault, Dev.setRing_vault, Dev.storeCtx_vault] | split)

theorem Dev.abandonJob_vault (d : Dev) (p : Nat) : (Dev.abandonJob d p).vault = d.vault := by
  unfold Dev.abandonJob
  repeat' (first | with_reducible rfl | simp only [Dev.vault_mk, SecBlk.vault_sec, Dev.jobOut_vault, Dev.rehold_vault, Dev.stepOver_vault, Dev.unwait_vault, Dev.updCluster_vault, Dev.updJob_vault, Dev.updTile_vault] | split | (refine (Dev.forAll_vault _ ?_ _ _).trans ?_ <;> intros))

theorem Dev.quietLost_vault (d : Dev) (slot : Nat) : (Dev.quietLost d slot).vault = d.vault := by
  unfold Dev.quietLost
  repeat' (first | with_reducible rfl | simp only [Dev.vault_ite, ite_self, Dev.count_vault, Dev.mirrorOut_vault, Dev.setReq_vault, Dev.unbindGraft_vault, Dev.updJob_vault])

theorem Dev.pushJob_vault (d : Dev) (p : Nat) : (Dev.pushJob d p).vault = d.vault := by
  unfold Dev.pushJob
  repeat' (first | with_reducible rfl | simp only [Dev.toMembers_vault])

theorem Dev.writeJob_vault (d : Dev) (n : Nat) (w : U32) : (Dev.writeJob d n w).vault = d.vault := by
  unfold Dev.writeJob
  repeat' (first | with_reducible rfl | simp only [Dev.vault_ite, ite_self, Dev.askBanks_vault, Dev.count_vault, Dev.pushJob_vault, Dev.reportBanks_vault, Dev.setJobSetup_vault, Dev.toMembers_vault])

theorem Dev.resumeReplica_vault (d : Dev) (p : Nat) : (Dev.resumeReplica d p).vault = d.vault := by
  unfold Dev.resumeReplica
  repeat' (first | with_reducible rfl | simp only [Dev.vault_ite, ite_self, Dev.startReplica_vault])

theorem Dev.gatewayLost_vault (d : Dev) (o : Outstanding) (h : U32) : (Dev.gatewayLost d o h).vault = d.vault := by
  unfold Dev.gatewayLost
  repeat' (first | with_reducible rfl | simp only [Dev.hostWrite_vault])

theorem Dev.stopJob_vault (d : Dev) (p : Nat) : (Dev.stopJob d p).vault = d.vault := by
  unfold Dev.stopJob
  repeat' (first | with_reducible rfl | simp only [Dev.vault_ite, ite_self, Dev.abandonJob_vault, Dev.complete_vault, Dev.gatewayLost_vault, Dev.loseRequest_vault, Dev.pushJob_vault, Dev.setJobSetup_vault] | split | (refine (Dev.forAll_vault _ ?_ _ _).trans ?_ <;> intros))

theorem Dev.clearStops_vault (d : Dev) : (Dev.clearStops d).vault = d.vault := by
  unfold Dev.clearStops
  repeat' (first | with_reducible rfl | simp only [Dev.vault_ite, ite_self, Dev.pushJob_vault, Dev.resumeReplica_vault, Dev.setJobSetup_vault] | split | (refine (Dev.forAll_vault _ ?_ _ _).trans ?_ <;> intros))

theorem Dev.spareCommitted_vault (d : Dev) (p m : Nat) (version : U32) (status : Byte) : (Dev.spareCommitted d p m version status).vault = d.vault := by
  unfold Dev.spareCommitted
  repeat' (first | with_reducible rfl | simp only [Dev.vault_ite, Dev.vault_mk, SecBlk.vault_sec, ite_self, Dev.clearStops_vault])

theorem Dev.form_vault (d : Dev) (rs : List TopoReport) (collide : List (BitVec 7)) (seen : List (BitVec 7 × Nat)) : (Dev.form d rs collide seen).vault = d.vault := by
  unfold Dev.form
  repeat' (first | with_reducible rfl | simp only [Dev.vault_mk, SecBlk.vault_sec, Dev.applyMaps_vault, Dev.holdLinks_vault, Dev.send_vault] | split | (refine (Dev.forAll_vault _ ?_ _ _).trans ?_ <;> intros))

theorem Dev.substitute_vault (d : Dev) (new : List (BitVec 7 × List (Nat × BitVec 8))) (pos : Nat) (node : BitVec 7) : (Dev.substitute d new pos node).vault = d.vault := by
  unfold Dev.substitute
  repeat' (first | with_reducible rfl | simp only [Dev.vault_mk, SecBlk.vault_sec, Dev.count_vault, Dev.pushRoutes_vault, Dev.send_vault] | split | (refine (Dev.forAll_vault _ ?_ _ _).trans ?_ <;> intros))

theorem Dev.giveSpares_vault (d : Dev) (x : Option RouteSet) : (Dev.giveSpares d x).vault = d.vault := by
  unfold Dev.giveSpares
  repeat' (first | with_reducible rfl | simp only [Dev.vault_ite, Dev.substitute_vault] | split | (refine (Dev.forAll_vault _ ?_ _ _).trans ?_ <;> intros))

theorem Dev.takePosition_vault (d : Dev) : (Dev.takePosition d).vault = d.vault := by
  unfold Dev.takePosition
  repeat' (first | with_reducible rfl | simp only [Dev.vault_mk, SecBlk.vault_sec] | split)

theorem Dev.helpSpares_vault (d : Dev) (before : SMap Byte) : (Dev.helpSpares d before).vault = d.vault := by
  unfold Dev.helpSpares
  repeat' (first | with_reducible rfl | simp only [Dev.vault_ite, ite_self, Dev.giveReplica_vault, Dev.setReplica_vault, Dev.startReplica_vault] | split | (refine (Dev.forAll_vault _ ?_ _ _).trans ?_ <;> intros))

theorem Dev.dropAsked_vault (d : Dev) (node : BitVec 7) : (Dev.dropAsked d node).vault = d.vault := by
  unfold Dev.dropAsked
  repeat' (first | with_reducible rfl | simp only [Dev.vault_ite, Dev.vault_mk, SecBlk.vault_sec, ite_self])

theorem Dev.declareLost_vault (d : Dev) (pos : Nat) : (Dev.declareLost d pos).vault = d.vault := by
  unfold Dev.declareLost
  repeat' (first | with_reducible rfl | simp only [Dev.vault_ite, Dev.vault_mk, SecBlk.vault_sec, ite_self, Dev.count_vault, Dev.dropAsked_vault, Dev.dropStandby_vault, Dev.stopJob_vault] | split | (refine (Dev.forAll_vault _ ?_ _ _).trans ?_ <;> intros))

theorem Dev.spareAgain_vault (d : Dev) (node : BitVec 7) : (Dev.spareAgain d node).vault = d.vault := by
  unfold Dev.spareAgain
  repeat' (first | with_reducible rfl | simp only [Dev.vault_mk, SecBlk.vault_sec, Dev.giveSpares_vault])

theorem Dev.takeRejoin_vault (d : Dev) (node : BitVec 7) (position : Option Nat) (records : List (Nat × U32)) : (Dev.takeRejoin d node position records).vault = d.vault := by
  unfold Dev.takeRejoin
  repeat' (first | with_reducible rfl | simp only [Dev.vault_ite, Dev.vault_mk, SecBlk.vault_sec, ite_self, Dev.clearStops_vault, Dev.gatewayLost_vault, Dev.mendLinks_vault, Dev.pushRoutes_vault, Dev.spareAgain_vault, Dev.stopJob_vault] | split | (refine (Dev.forAll_vault _ ?_ _ _).trans ?_ <;> intros))

theorem Dev.haltQueue_vault (d : Dev) (q : Nat) : (Dev.haltQueue d q).vault = d.vault := by
  unfold Dev.haltQueue
  repeat' (first | with_reducible rfl | simp only [Dev.vault_ite, ite_self, Dev.count_vault, Dev.setQueue_vault] | split)

theorem Dev.takeOver_vault (d : Dev) : (Dev.takeOver d).vault = d.vault := by
  unfold Dev.takeOver
  repeat' (first | with_reducible rfl | simp only [Dev.vault_ite, Dev.vault_mk, SecBlk.vault_sec, ite_self, Dev.haltQueue_vault, Dev.loseRequest_vault, Dev.readHost_vault, Dev.send_vault, Dev.setQueue_vault] | split | (refine (Dev.forAll_vault _ ?_ _ _).trans ?_ <;> intros))

theorem Dev.startForming_vault (d : Dev) : (Dev.startForming d).vault = d.vault := by
  unfold Dev.startForming
  repeat' (first | with_reducible rfl | simp only [Dev.vault_mk, SecBlk.vault_sec, Dev.send_vault])

theorem Dev.writeLease_vault (d : Dev) (epoch : U32) : (Dev.writeLease d epoch).vault = d.vault := by
  unfold Dev.writeLease
  repeat' (first | with_reducible rfl | simp only [Dev.vault_ite, Dev.vault_mk, SecBlk.vault_sec, ite_self, Dev.count_vault, Dev.startForming_vault, Dev.takeOver_vault])

theorem Dev.beginRejoin_vault (d : Dev) (sysId : U32) : (Dev.beginRejoin d sysId).vault = d.vault := by
  unfold Dev.beginRejoin
  repeat' (first | with_reducible rfl | simp only [Dev.vault_mk, SecBlk.vault_sec, Dev.hostWrite_vault, Dev.startSweep_vault])

theorem Dev.endRejoin_vault (d : Dev) : (Dev.endRejoin d).vault = d.vault := by
  unfold Dev.endRejoin
  repeat' (first | with_reducible rfl | simp only [Dev.vault_ite, Dev.vault_mk, SecBlk.vault_sec, ite_self, Dev.loseRequest_vault, Dev.quietLost_vault] | split | (refine (Dev.forAll_vault _ ?_ _ _).trans ?_ <;> intros))

theorem Dev.hearBeacon_vault (d : Dev) (sysId : U32) : (Dev.hearBeacon d sysId).vault = d.vault := by
  unfold Dev.hearBeacon
  repeat' (first | with_reducible rfl | simp only [Dev.vault_ite, ite_self, Dev.beginRejoin_vault, Dev.endRejoin_vault])

theorem Dev.resendWrites_vault (d : Dev) : (Dev.resendWrites d).vault = d.vault := by
  unfold Dev.resendWrites
  repeat' (first | with_reducible rfl | simp only [Dev.vault_mk, SecBlk.vault_sec, Dev.send_vault, Dev.updPort_vault] | split | (refine (Dev.forAll_vault _ ?_ _ _).trans ?_ <;> intros))

theorem Dev.takeDump_vault (d : Dev) (p w : Nat) (x : DumpPart) : (Dev.takeDump d p w x).vault = d.vault := by
  unfold Dev.takeDump
  repeat' (first | with_reducible rfl | simp only [Dev.setWatch_vault] | split)

theorem Dev.readWord_vault (d : Dev) (fn o : Nat) : (Dev.readWord d fn o).2.vault = d.vault := by
  unfold Dev.readWord
  repeat' (first | with_reducible rfl | simp only [Dev.vault_mk, SecBlk.vault_sec, Dev.count_vault, Dev.readMon_vault] | split)

theorem Dev.readReg_vault (d : Dev) (fn o size : Nat) : (Dev.readReg d fn o size).2.vault = d.vault := by
  unfold Dev.readReg
  repeat' (first | with_reducible rfl | simp only [Dev.readWord_vault] | split)

theorem Dev.sendPending_vault (d : Dev) (fn : Nat) (ks : List Nat) : (Dev.sendPending d fn ks).vault = d.vault := by
  unfold Dev.sendPending
  repeat' (first | with_reducible rfl | simp only [Dev.vault_ite, ite_self, Dev.msix_vault, Dev.setFn_vault] | split | (refine (Dev.forAll_vault _ ?_ _ _).trans ?_ <;> intros))

theorem Dev.writeBar2_vault (d : Dev) (fn o : Nat) (v : U32) : (Dev.writeBar2 d fn o v).vault = d.vault := by
  unfold Dev.writeBar2
  repeat' (first | with_reducible rfl | simp only [Dev.vault_ite, ite_self, Dev.sendPending_vault, Dev.setFn_vault])

theorem Dev.writeTable_vault (d : Dev) (fn o size : Nat) (v : U64) : (Dev.writeTable d fn o size v).vault = d.vault := by
  unfold Dev.writeTable
  repeat' (first | with_reducible rfl | simp only [Dev.vault_ite, ite_self, Dev.writeBar2_vault])

theorem Dev.readVf_vault (d : Dev) (n o size : Nat) : (Dev.readVf d n o size).2.vault = d.vault := by
  unfold Dev.readVf
  repeat' (first | with_reducible rfl | simp only [Dev.readWord_vault] | split)

theorem Dev.clInd_vault (d : Dev) (fn : Nat) (cluster : BitVec 9) : (Dev.clInd d fn cluster).vault = d.vault := by
  unfold Dev.clInd
  repeat' (first | with_reducible rfl | simp only [Dev.vault_ite, ite_self, Dev.count_vault, Dev.setFn_vault])

theorem Dev.setLocks_vault (d : Dev) (mask : BitVec 9) : (Dev.setLocks d mask).vault = d.vault := rfl

theorem Dev.storeWord_vault (d : Dev) (o : Nat) (v : U32) : (Dev.storeWord d o v).vault = d.vault := by
  unfold Dev.storeWord
  repeat' (first | with_reducible rfl | simp only [Dev.vault_ite, Dev.vault_mk, SecBlk.vault_sec, ite_self, Dev.setReg_vault, Dev.setRegIn_vault])

theorem Dev.writeCap_vault (d : Dev) (v : U32) : (Dev.writeCap d v).vault = d.vault := by
  unfold Dev.writeCap
  repeat' (first | with_reducible rfl | simp only [Dev.vault_ite, ite_self, Dev.raiseReserve_vault, Dev.setRegIn_vault, Dev.startHalves_vault, Dev.storeWord_vault])

theorem Dev.writeTrace_vault (d : Dev) (o : Nat) (v : U32) : (Dev.writeTrace d o v).vault = d.vault := by
  unfold Dev.writeTrace
  repeat' (first | with_reducible rfl | simp only [Dev.vault_ite, ite_self, Dev.setTraceRing_vault, Dev.storeWord_vault, Dev.toMembers_vault, Dev.traceRelease_vault])

theorem Dev.writeFl_vault (d : Dev) (o : Nat) (v : U32) : (Dev.writeFl d o v).vault = d.vault := by
  unfold Dev.writeFl
  repeat' (first | with_reducible rfl | simp only [Dev.vault_ite, ite_self, Dev.portDown_vault, Dev.retrain_vault, Dev.storeWord_vault])

theorem Dev.writeGwCtl_vault (d : Dev) (v : U32) : (Dev.writeGwCtl d v).vault = d.vault := by
  unfold Dev.writeGwCtl
  repeat' (first | with_reducible rfl | simp only [Dev.vault_ite, ite_self, Dev.dropStandby_vault, Dev.storeWord_vault])

theorem Dev.writeDb_vault (d : Dev) (o : Nat) (v : U32) : (Dev.writeDb d o v).vault = d.vault := by
  unfold Dev.writeDb
  repeat' (first | with_reducible rfl | simp only [Dev.vault_mk, SecBlk.vault_sec, Dev.storeWord_vault])

theorem Dev.writeFn_vault (d : Dev) (fn o : Nat) (v : U32) : (Dev.writeFn d fn o v).vault = d.vault := by
  unfold Dev.writeFn
  repeat' (first | with_reducible rfl | simp only [Dev.vault_ite, ite_self, Dev.clInd_vault, Dev.createCtx_vault, Dev.deleteCtx_vault, Dev.readCtx_vault, Dev.setFn_vault] | split)

theorem Dev.writePlain_vault (d : Dev) (fn o : Nat) (v : U32) : (Dev.writePlain d fn o v).vault = d.vault := by
  unfold Dev.writePlain
  repeat' (first | with_reducible rfl | simp only [Dev.vault_ite, Dev.vault_mk, SecBlk.vault_sec, ite_self, Dev.enterReset_vault, Dev.setLocks_vault, Dev.stageLimits_vault, Dev.storeWord_vault, Dev.writeCap_vault, Dev.writeDb_vault, Dev.writeFl_vault, Dev.writeFn_vault, Dev.writeGwCtl_vault, Dev.writeJob_vault, Dev.writeLease_vault, Dev.writePart_vault, Dev.writeTrace_vault])

theorem Dev.commitWide_vault (d : Dev) (base n : Nat) : (Dev.commitWide d base n).vault = d.vault := by
  unfold Dev.commitWide
  repeat' (first | with_reducible rfl | simp only [Dev.vault_ite, Dev.vault_mk, SecBlk.vault_sec, ite_self, Dev.storeWord_vault, Dev.submitRegion_vault, Dev.writePart_vault] | split | (refine (Dev.forAll_vault _ ?_ _ _).trans ?_ <;> intros))

theorem Dev.writeWord_vault (d : Dev) (fn o : Nat) (v : U32) : (Dev.writeWord d fn o v).vault = d.vault := by
  unfold Dev.writeWord
  repeat' (first | with_reducible rfl | simp only [Dev.vault_ite, Dev.vault_mk, SecBlk.vault_sec, ite_self, Dev.commitWide_vault, Dev.writePlain_vault] | split)

theorem Dev.writePair_vault (d : Dev) (fn o : Nat) (lo hi : Option U32) : (Dev.writePair d fn o lo hi).vault = d.vault := by
  unfold Dev.writePair
  repeat' (first | with_reducible rfl | simp only [Dev.vault_ite, ite_self, Dev.clearValid_vault, Dev.setValid_vault, Dev.storeWord_vault, Dev.writePart_vault, Dev.writeRegion_vault, Dev.writeWord_vault] | split)

theorem Dev.writeReg_vault (d : Dev) (fn o size : Nat) (v : U64) : (Dev.writeReg d fn o size v).vault = d.vault := by
  unfold Dev.writeReg
  repeat' (first | with_reducible rfl | simp only [Dev.vault_ite, ite_self, Dev.count_vault, Dev.writePair_vault, Dev.writeTrace_vault])

theorem Dev.writePf_vault (d : Dev) (o size : Nat) (x : RegData) : (Dev.writePf d o size x).vault = d.vault := by
  unfold Dev.writePf
  repeat' (first | with_reducible rfl | simp only [Dev.vault_ite, ite_self, Dev.goCrocus_vault, Dev.writeReg_vault])

theorem Dev.debugAccess_vault (d : Dev) (op : DebugOp) : (Dev.debugAccess d op).vault = d.vault := by
  unfold Dev.debugAccess
  repeat' (first | with_reducible rfl | simp only [Dev.vault_ite, ite_self, Dev.answer_vault, Dev.draw_vault, Dev.setSpad_vault, Dev.stackWrite_vault] | split)

theorem Dev.toPorts_vault (d : Dev) (k : Nat) (m : OutMsg) : (Dev.toPorts d k m).vault = d.vault := by
  unfold Dev.toPorts
  repeat' (first | with_reducible rfl | simp only [Dev.vault_ite, Dev.vault_mk, SecBlk.vault_sec, ite_self, Dev.count_vault, Dev.updPort_vault] | split | (refine (Dev.forAll_vault _ ?_ _ _).trans ?_ <;> intros))

theorem Dev.handOver_vault (d : Dev) : (Dev.handOver d).vault = d.vault := by
  unfold Dev.handOver
  repeat' (first | with_reducible rfl | simp only [Dev.vault_mk, SecBlk.vault_sec, Dev.toPorts_vault] | split | (refine (Dev.forAll_vault _ ?_ _ _).trans ?_ <;> intros))

theorem Dev.tickPort_vault (d : Dev) (n : Nat) : (Dev.tickPort d n).vault = d.vault := by
  unfold Dev.tickPort
  repeat' (first | with_reducible rfl | simp only [Dev.vault_ite, Dev.count_vault, Dev.leaveCtl_vault, Dev.send_vault, Dev.setPort_vault] | split)

theorem Dev.tickLinks_vault (d : Dev) : (Dev.tickLinks d).vault = d.vault := by
  unfold Dev.tickLinks
  repeat' (first | with_reducible rfl | simp only [Dev.handOver_vault, Dev.tickPort_vault] | split | (refine (Dev.forAll_vault _ ?_ _ _).trans ?_ <;> intros))

theorem Dev.addC_vault (d : Dev) (c k n : Nat) : (Dev.addC d c k n).vault = d.vault := by
  unfold Dev.addC
  repeat' (first | with_reducible rfl | simp only [Dev.vault_ite, ite_self, Dev.countC_vault])

theorem Dev.tickCluster_vault (d : Dev) (c : Nat) : (Dev.tickCluster d c).vault = d.vault := by
  unfold Dev.tickCluster
  repeat' (first | with_reducible rfl | simp only [Dev.vault_ite, ite_self, Dev.addC_vault, Dev.checkGuard_vault, Dev.count_vault, Dev.updSeq_vault])

theorem Dev.tickWaits_vault (d : Dev) : (Dev.tickWaits d).vault = d.vault := by
  unfold Dev.tickWaits
  repeat' (first | with_reducible rfl | simp only [Dev.vault_ite, ite_self, Dev.count_vault])

theorem Dev.tick_vault (d : Dev) : (Dev.tick d).vault = d.vault := by
  unfold Dev.tick
  repeat' (first | with_reducible rfl | simp only [Dev.vault_ite, Dev.vault_mk, SecBlk.vault_sec, ite_self, Dev.startDue_vault, Dev.startHalves_vault, Dev.tickCluster_vault, Dev.tickLinks_vault, Dev.tickWaits_vault] | split | (refine (Dev.forAll_vault _ ?_ _ _).trans ?_ <;> intros))

end Sys2Proof.Machine
end

