-- ==== Sys2Proof/Tests/Slice0.lean ====
section
/-! SUPPORT. Ill-formed commands, worked examples of the spec, and for each statement states and operands that meet the hypotheses of its
clauses. -/

namespace Sys2Proof.Tests

set_option Elab.async false

open Sys2Proof Sys2Proof.Machine

/-! ### States -/

/-- A machine with nothing waiting. -/
def st (d : Dev) : State := { dev := d, pending := [] }
/-- A ready package. -/
def up : Dev := { Dev.reset with rst := { ResetBlk.reset with phase := .ready } }
/-- A ready package that leads job 0 and is not the primary. -/
def lead : Dev :=
  { up with sys := { SysBlk.reset with coordValid := true, formed := true, jobs := [(0, { valid := true, active := true, stopped := false, shape := 0 })] } }
/-- The primary gateway, with another package at position 1. -/
def prim : Dev :=
  { lead with sys := { lead.sys with primary := true, posMap := [(0, 0x80), (1, 0x81)] }, glob := { up.glob with cxlActive := true, numVfs := 64 } }
/-- A member of job 0 at position 1 that is not the lead. -/
def memb : Dev :=
  { lead with sys := { lead.sys with position := 1, jobs := [(0, { valid := true, active := true, stopped := false, shape := 0x40 })] },
              glob := { up.glob with regs := [(Off.sysCtl / 4, 0x000A0041)] } }
/-- A ready package whose cluster 0 holds one tile, logical number 0, with room for 10 tile-equivalents. -/
def withTile (t : Tile) : Dev :=
  { up with array := { ArrayBlk.reset with tiles := [(0, t)], allows := [10], clusters := [(0, { Cluster.reset with map := [(0, 0x40)] })] } }
/-- A READY tile. -/
def readyT : Tile := { Tile.off with state := .ready }
/-- Job 0 of a package. -/
def withJob (d : Dev) (j : Job) : Dev := { d with serve := { d.serve with jobs := [(0, j)] } }
/-- Device time. -/
def atTime (d : Dev) (ns : Nat) : Dev := { d with glob := { d.glob with timeNs := BitVec.ofNat 64 ns } }

def org : Origin := { queue := 3, sqHead := 1, tag := 7, partition := 0 }
/-- An owner's command, well signed, with nonce 5. -/
def auth (slot : Nat) : OwnerAuth := { slot := slot, sigsOk := true, serial := Config.serial, nonce := 5 }
/-- A provisioned package that waits for nonce 5. -/
def owned : Dev :=
  { up with sec := { SecBlk.reset with lifecycle := 1, owners := [(0, some 1), (15, some 2)], nonces := [(5, 0)], images := [(1, 3, false, 0)] } }
def token : DebugToken :=
  { tokenSigsOk := true, consentOk := true, magicFormatOk := true, scope := 1, serial := Config.serial, nonce := 5, expiry := 86400 }

/-! ### Ill-formed commands are refused -/

theorem test_wf_partition : (Instr.traceSample 64).wf = false ∧ (Instr.traceSample 63).wf = true := by decide
theorem test_wf_position : (Instr.positionLost ⟨64, false, none⟩).wf = false ∧ (Instr.positionLost ⟨63, true, none⟩).wf = true := by decide
theorem test_wf_port : (Instr.lossOfSignal 6).wf = false ∧ (Instr.lossOfSignal 5).wf = true := by decide
theorem test_wf_lane : (Instr.laneSignalLoss 0 8).wf = false ∧ (Instr.laneSignalLoss 5 7).wf = true := by decide
theorem test_wf_cluster : (Instr.pcSample 512).wf = false ∧ (Instr.pcSample 511).wf = true := by decide
theorem test_wf_tile : (Instr.tileEvalStart 32768).wf = false ∧ (Instr.tileEvalStart 32767).wf = true := by decide
theorem test_wf_function : (Instr.queueCtxRead 65).wf = false ∧ (Instr.queueCtxRead 64).wf = true := by decide
theorem test_wf_queue : (Instr.coalesceTimerExpiry 262144).wf = false ∧ (Instr.coalesceTimerExpiry 262143).wf = true := by decide
theorem test_wf_slot : (Instr.reqHoldExpiry 200000).wf = false ∧ (Instr.reqHoldExpiry 199999).wf = true := by decide
theorem test_wf_codes : (Instr.restoreRow 0 false ⟨[1], []⟩).wf = false ∧ (Instr.restoreRow 0 true ⟨[], []⟩).wf = true := by decide
theorem test_wf_verify : (Instr.programRow 0 [[1]]).wf = false ∧ (Instr.programRow 0 []).wf = true := by decide
theorem test_wf_origin : (Instr.calibrate { org with partition := 64 }).wf = false ∧ (Instr.calibrate org).wf = true := by decide
theorem test_wf_owner_slot : (Instr.setOwnerSlot (auth 0) 16 none).wf = false := by simp [Instr.wf]
theorem test_wf_window : (Instr.windowWriteReceive ⟨1, { src := 0, partition := 0, offset := 0, xfer := 0, epoch := 0, windowId := 0, body := [] }⟩).wf = false := by
  decide
theorem test_wf_half : (Instr.dahliaOpComplete 32).wf = false ∧ (Instr.dahliaOpComplete 31).wf = true := by decide
theorem test_wf_channel : (Instr.housekeepingConversion false 16 0).wf = false ∧ (Instr.housekeepingConversion false 15 0).wf = true := by decide
theorem test_wf_doorbell : (Instr.doorbellSnoop 32768 (List.replicate 8 0)).wf = false ∧ (Instr.doorbellSnoop 0 []).wf = false := by decide
theorem test_wf_stack : (Instr.stackAccess { partition := 0, secure := false, cls := 0, cluster := none } 0x17FFFFFFFF (.read 2)).wf = false := by decide
theorem test_wf_vfs : (Instr.setNumVfs 65).wf = false ∧ (Instr.setNumVfs 64).wf = true := by decide
theorem test_wf_step :
    (Instr.stepCtlReceive 2 0 { no := 0, rows := List.replicate 257 ⟨0, false, 0, 0, false, false⟩, changes := [], replay := false, held := false }).wf
      = false := by decide +kernel

/-! ### No word spells a command -/

theorem test_no_word : decodeTableWord 16 0 = none ∧ State.reset.withFetchWord 16 0 = State.reset := by decide +kernel

/-! ### Worked examples of the spec -/

/-- R270: the admission word of handle 41. -/
theorem test_admission_word : admissionWord 0x29 = 0x8000000000000029#64 := by decide
/-- R452 to R455: the first, second and third entry headers of the capability list. -/
theorem test_capability_headers :
    capHeader 0x28 0x28 1 = 0x0028002800010001#64 := by decide
/-- R327: CRC-16/CCITT-FALSE of the nine digits. -/
theorem test_crc16 : crc16 ([0x31, 0x32, 0x33, 0x34, 0x35, 0x36, 0x37, 0x38, 0x39].flatMap fun (b : Byte) => bitsDown b 7 0) = 0x29B1 := by decide +kernel
/-- R367: the limits of the stages at the default BUDGET. -/
theorem test_stage_limits : stageLimitOf 27648 2 = some 13824 ∧ stageLimitOf 27648 3 = some 6912 ∧ stageLimitOf 27648 4 = some 2764
    ∧ stageLimitOf 27648 1 = none := by decide
/-- R187: a prompt of 500 positions at 2 positions a page. -/
theorem test_round_half_even : roundHalfEven 5 2 = 2 ∧ roundHalfEven 7 2 = 4 ∧ roundHalfEven (-5) 2 = -2 ∧ roundHalfEven (-3) 2 = -2 := by decide
/-- The final record of R266's worked example: REASON 4, TOKVALID, FINAL, SEQ 2, LOGP 95, TOKEN 0xA15B. -/
theorem test_record_word : recordWord true 4 true true 2 95 0xA15B = 0x804C0008017CA15B := by decide +kernel
/-- The two set-ups of the worked example of R400 to R404. -/
theorem test_part_cfg :
    cfgReq 0x800013009002DA58 = (600, 182) ∧ cfgStg 0x800013009002DA58 = (0x900, 0x300) ∧ fieldNat (0x800013009002DA58 : U64) 47 44 = 1
    ∧ cfgReq 0x8000090000096000 = (0, 600) ∧ cfgStg 0x8000090000096000 = (0, 2304) := by decide +kernel
/-- R435: a PC sample. -/
theorem test_pc_word : pcWord 1 6 0x3A1C = 0x01603A1C := by decide
/-- R430: the numbers of three counters. -/
theorem test_counter_numbers : DC.stepMarked = 16 ∧ DC.flReplay + 2 = 238 ∧ CC.cacheMiss = 46 := by decide
/-- R89 and R91: an exact tie rounds to even, on both sides of 0. -/
theorem test_scale_round : scaleRound 5 (-1) = 2 ∧ scaleRound 7 (-1) = 4 ∧ scaleRound (-5) (-1) = -2 ∧ scaleRound 3 2 = 12 := by decide
/-- R365: two equal codes, and the mean of two codes that differ by one. -/
theorem test_tdiode : tdiode 1424 1424 = 400 ∧ tdiode 1424 1425 = 400 ∧ tdiode 1425 1426 = 402 := by decide
/-- R113: the table of restore intervals, in units of 0.1 ms. -/
theorem test_intervals :
    [55, 60, 65, 75, 85, 95, 100, 105].map freshInterval = [1280, 905, 640, 320, 160, 80, 56, 40] ∧ restoreInterval 60 true = 452
    ∧ restoreInterval 105 true = 20 := by decide +kernel
/-- R122 and R39: the partial of the worked example of R89. -/
theorem test_partial : (16 * columnPu (-351) 2 + columnPu 798 2 : Int) = 16 * (-351) * 4 + 798 * 4 ∧ (16 * (-351) * 64 + 798 * 64) / 16 = (-19272 : Int) := by
  decide
/-- The walk of R455's worked example: the headers read at 0x0150, 0x0178, 0x0270 and 0x0298, and FLAGS at 0x0290. -/
theorem test_capability_walk :
    (capBytes.drop 0x150).take 8 = bytesOf (0x017800280001000A : U64) 8 ∧ (capBytes.drop 0x178).take 8 = bytesOf (0x01A000280001000C : U64) 8
    ∧ (capBytes.drop 0x270).take 8 = bytesOf (0x0298002800010012 : U64) 8 ∧ (capBytes.drop 0x290).take 4 = bytesOf (7 : U32) 4
    ∧ (capBytes.drop 0x298).take 8 = bytesOf (0x0000001800010013 : U64) 8 := by decide +kernel

/-! ### States and operands that meet the hypotheses of the statements -/

theorem witness_StepRunsTheCommandAtTheFront : (st up).dev.clocked = true ∧ (st { up with rst := { up.rst with phase := .off } }).dev.clocked = false := by decide +kernel

theorem witness_WarmResetsHoldEveryBlockAtReset :
    let d := atTime up 100000000
    d.resettable = true ∧ d.rst.phase = .ready ∧ d.since d.rst.watchdogAt ≥ 100000000 := by decide +kernel

theorem witness_LatchedTripOverridesEveryReset : { up.rst with tripLatched := true }.tripLatched = true := by decide

theorem witness_SoftResetKeepsTheHostLinkAndStack : up.rst.phase = .ready ∧ up.rst.tripLatched = false := by decide

theorem witness_PowerLossLosesTheStackAndKeepsMram :
    up.rst.auxUp = true ∧ up.rst.tripLatched = false ∧ up.rst.phase ≠ .off := by decide

/-- A package held in reset with its rails up. -/
def held (soft : Bool) : Dev := { up with rst := { up.rst with phase := .inReset, soft := soft } }
theorem witness_ReleaseDecidesColdOrWarmAndReadyFollows :
    (∀ b, (held b).rst.phase = .inReset ∧ (held b).rst.tripLatched = false ∧ (held b).rst.auxUp = true
      ∧ (held b).rst.regulators = true ∧ (held b).rst.vinUp = true ∧ (held b).rst.serUp = true ∧ (held b).rst.brownHeld = false)
    ∧ (let r := { (held false).rst with brownHeld := true, vinFor := 1000000 }; r.brownHeld = true ∧ 1000000 ≤ r.vinFor)
    ∧ up.mayRelease = false ∧ { up.rst with serUp := false }.serUp = false
    ∧ (held false).rst.soft = false ∧ { up.rst with phase := .booting }.phase = .booting ∧ up.sec.bootFail = none
    ∧ { up.sec with bootFail := some 3 }.bootFail ≠ none ∧ up.sec.returning = false ∧ { up.sec with returning := true }.returning = true
    ∧ up.imagesRun = false ∧ { up with sec := { up.sec with images := [1, 2, 3, 4, 5].map fun i => (i, 0, false, 0) } }.imagesRun = true := by
  decide +kernel

/-- The primary at position 0 with another member of job 0 at position 1. -/
def prim2 : Dev := { memb with sys := { memb.sys with primary := true, position := 0 } }
theorem witness_PartitionResetKeepsBanksAndOtherPartitions :
    (63 : Nat) < 64 ∧ prim.sys.primary = true ∧ (prim2.jobSetup 0).valid = true ∧ 1 ∈ prim2.members 0 ∧ 1 ≠ prim2.sys.position
    ∧ { prim.host with flrs := [(63, [1])] }.flrs = [(63, [1])] ∧ prim.power.sweep = false ∧ memb.sys.primary = false := by decide +kernel

theorem witness_SignedOwnerCommandsTakeEffect :
    owned.serbelUp = true ∧ owned.inService = true
    ∧ owned.authOk (auth 0) 0 = true ∧ owned.authOk (auth 15) 15 = true ∧ owned.part.inForce = [] ∧ owned.part.accepted = []
    ∧ owned.runningSvn 1 = some 3 ∧ SMap.get 0 owned.sec.minSvn 1 ≤ 3
    ∧ owned.authOk (auth 0) (fieldNat (owned.partAcc 63).cfg 47 44) = true
    ∧ (owned.partAcc 63).cfg.getLsbD 63 = false ∧ owned.partValid 63 = false ∧ owned.sec.lifecycle = 1 := by
  refine ⟨by decide, by decide, ?_, ?_, by decide, by decide, by decide, by decide, ?_, by decide, by decide, by decide⟩ <;>
    simp [Dev.authOk, auth, owned, Dev.nonceOk] <;> decide

theorem witness_OwnerCommandFailingACheckChangesNothing :
    owned.serbelUp = true ∧ { auth 0 with sigsOk := false }.sigsOk = false
    ∧ { auth 0 with serial := ~~~Config.serial }.serial ≠ Config.serial ∧ owned.nonceOk 6 = false ∧ owned.sec.lifecycle ≠ 0 := by
  refine ⟨by decide, rfl, ?_, by decide, by decide⟩
  intro h
  have h0 := congrArg (·.getLsbD 0) h
  simp at h0

/-- A package whose lifecycle is BLANK. -/
def blank : Dev := { up with sec := { SecBlk.reset with lifecycle := 0 } }
def token4 : DebugToken := { token with scope := 4 }
theorem witness_ProvisionAndReturnMoveTheLifecycle :
    blank.serbelUp = true ∧ blank.sec.lifecycle = 0 ∧ owned.serbelUp = true ∧ owned.resettable = true ∧ owned.inService = true
    ∧ owned.authOk (auth 0) 0 = true ∧ token4.scope = 4 ∧ owned.tokenOk token4 = true := by
  refine ⟨by decide, rfl, by decide, by decide, by decide, ?_, rfl, ?_⟩
  · simp [Dev.authOk, auth, owned, Dev.nonceOk]; decide
  · simp [Dev.tokenOk, token4, token, owned, Dev.nonceOk, Dev.inService]; decide

theorem witness_DebugOpensByTokenAndEnds :
    owned.serbelUp = true ∧ owned.tokenOk token = true ∧ token.scope ≠ 4
    ∧ { token with tokenSigsOk := false }.tokenSigsOk = false ∧ owned.nonceOk 6 = false
    ∧ (0 : U48).toNat ≤ owned.ledger.ltime.toNat ∧ owned.ledger.ltime.toNat + 86400 < (86401 : U48).toNat
    ∧ { owned.sec with debug := 1 }.debug ≠ 0 ∧ owned.sec.debugExpiry.toNat ≤ owned.ledger.ltime.toNat := by
  refine ⟨by decide, ?_, by decide, rfl, by decide, by decide, by decide, by decide, by decide⟩
  simp [Dev.tokenOk, token, owned, Dev.nonceOk, Dev.inService]; decide

theorem witness_BootTakesOnlyGoodImages :
    { up.rst with phase := .booting }.phase = .booting ∧ up.sec.bootFail = none ∧ SMap.get 0 up.sec.minSvn 1 ≤ 0
    ∧ up.serbelUp = true ∧ up.sec.lifecycle ≠ 3 := by decide

theorem witness_SidebandAnswersByItsRules :
    up.rst.auxUp = true ∧ { up.sec with i3cAddr := some 9 }.i3cAddr ≠ none ∧ up.sec.i3cAddr = none
    ∧ up.rst.perst = false ∧ { up.rst with phase := .testHeld }.phase = .testHeld ∧ up.sec.debug = 0
    ∧ { up with sec := { up.sec with debug := 3 } }.debugMay (.stackRead 0 64) = true ∧ up.debugMay (.stackRead 0 64) = false := by decide +kernel

theorem witness_LifecycleOnlyMovesForward :
    ∃ t, 0 ≤ blank.sec.lifecycle.toNat ∧ step { st blank with pending := [.provisionOwner 1] } = .next t := ⟨_, by decide, rfl⟩

theorem witness_OnlyOwnerCommandsChangeTheVault :
    ∃ t, step { st blank with pending := [.provisionOwner 1] } = .next t ∧ t.dev.vault ≠ blank.vault :=
  ⟨_, rfl, by decide⟩

theorem witness_DiodePairsSetTemperatureOrDisagree :
    plausible 128 = true ∧ plausible 3967 = true ∧ plausible 127 = false ∧ plausible 3968 = false ∧ agree 1000 1006 = true
    ∧ agree 1000 1007 = false ∧ up.power.disagree = false ∧ { up.power with badPairs := 2 }.badPairs ≥ 2
    ∧ { up.power with disagree := true }.disagree = true := by decide

/-- A package whose diodes have read `t` in sixteenths of a degree. -/
def warm (t : Int) (stage : Nat) (crit : Bool) (hot cool : Nat) : Dev :=
  { up with power := { up.power with tNow := t, tKnown := true, stage := stage, crit := crit, hot := hot, cool := cool } }
theorem witness_ThrottleStageFollowsTheProcedure :
    (let d := warm (up.thrReq) 3 false 199 0
     d.power.tKnown = true ∧ d.power.disagree = false ∧ d.power.tNow ≥ d.thrReq ∧ d.power.hot + 1 ≥ d.grace ∧ d.power.stage ≤ 3)
    ∧ (let d := warm (up.thrReq) 1 false 0 0; d.power.hot + 1 < d.grace ∧ d.power.tNow ≥ d.thrReq)
    ∧ (let d := warm (up.thrReq - up.hyst) 4 false 0 199
       d.power.tNow < d.thrReq ∧ d.power.tNow ≤ d.thrReq - d.hyst ∧ d.rise < 64 ∧ d.power.cool + 1 ≥ d.grace)
    ∧ (let d := warm (up.thrReq - up.hyst) 4 false 0 0; d.power.tNow ≤ d.thrReq - d.hyst ∧ d.power.cool + 1 < d.grace)
    ∧ up.power.tKnown = false ∧ (warm 0 4 true 0 0).power.crit = true ∧ (warm up.thrReq 4 false 0 0).power.stage = 4 := by
  have h : 0 < up.hyst := by decide +kernel
  have e : ∀ t a b c e, (warm t a b c e).thrReq = up.thrReq := fun _ _ _ _ _ => rfl
  have e' : ∀ t a b c e, (warm t a b c e).hyst = up.hyst := fun _ _ _ _ _ => rfl
  refine ⟨⟨rfl, rfl, le_refl _, by decide +kernel, by decide⟩, ⟨by decide +kernel, le_refl _⟩, ⟨?_, le_refl _, by decide +kernel, by decide +kernel⟩,
    ⟨le_refl _, by decide +kernel⟩, rfl, rfl, rfl⟩
  rw [e]
  show up.thrReq - up.hyst < up.thrReq
  omega

theorem witness_CriticalForcesStageFourAtOnce :
    up.power.crit = false ∧ up.rst.phase ≠ .off ∧ up.rst.phase ≠ .tripped ∧ (warm 0 4 true 0 0).power.crit = true := by decide

theorem witness_BrownoutHoldsAndSweeps :
    up.power.boHold = false ∧ up.rst.phase = .ready ∧ { up.power with boHold := true }.boHold = true
    ∧ (withTile readyT).readyTiles = [0] ∧ (held false).rst.phase = .inReset ∧ { (held false).rst with brownHeld := true }.brownHeld = true
    := by decide +kernel

theorem witness_MarigoldHostConversions :
    (let d := { up with glob := { up.glob with regs := [(Off.monA / 4, 1)] } }
     let ctl := d.reg64 Off.monA
     ctl.getLsbD 0 = true ∧ ctl.getLsbD 1 = false ∧ d.monDue ctl none = true ∧ d.monDue ctl (some 0) = false)
    ∧ { up with power := { up.power with convA := some (15, true) } }.conv false = some (15, true)
    ∧ up.rst.phase = .ready ∧ Dev.reset.rst.phase ≠ .ready := by decide +kernel

theorem witness_LedgerLogsEveryReportedEvent :
    up.rst.auxUp = true ∧ (withTile readyT).clusterOwner 0 = none
    ∧ (let d := { up with ledger := { up.ledger with ltime := 86400 }, array := { up.array with tiles := [(0, { readyT with overdues := [1] })] } }
       d.inWindow 86400 (d.tile 0).overdues ≠ []) := by decide +kernel

theorem witness_SerdesRailLossStopsTheLinksOnly :
    { up with glob := { up.glob with regs := [(Off.flCtl 5 / 4, 1)] } }.fld (Off.flCtl 5) 0 0 = 1 ∧ (up.port 5).state ≠ 5 := by decide +kernel

/-- A programmed cell holds its level (R34, R55). -/
theorem test_cell_programmed : ((State.reset.dev.setRow 0 3 [5, -2]).cellLevel 0 3 1) = -2 := by decide

/-! The array. -/

/-- Cluster 0 belongs to partition 0. -/
def owning (d : Dev) : Dev :=
  { d with part := { d.part with inForce := [(0, { PartEntry.none with cfg := 0x8000000000000000, clusters := 1 })] } }

def desc0 : StepDesc := { no := 1, rows := [], changes := [], replay := false, held := false }
def ms0 (started : Bool) : MemberStep := { desc := desc0, marked := false, started := started, due := started, startedAt := 0 }
def vec0 : EdgeVec := { layer := 3, a := List.replicate 512 0, et := 0, poison := false, transposed := false, accBase := 0, handle := 0 }
def ev0 : Eval :=
  { vec := vec0, kind := .normal, split := false, observed := false, classes := List.replicate 520 0, startedAt := 0, replayed := false,
    reevals := 0, fails := [], firstHalfKept := false }
theorem witness_EvaluationStartsHoldOneTileEquivalent :
    (let d := withTile { readyT with edge := some vec0 }
     d.tileFree 0 = true ∧ (d.tile 0).edge = some vec0 ∧ (d.tile 0).owed = [] ∧ (d.ask 0 1 1).2 = true ∧ d.admits 0 1 1 = true)
    ∧ (let d := { withTile { readyT with edge := some vec0 } with array := { (withTile { readyT with edge := some vec0 }).array with allows := [0] } }
       d.tileFree 0 = true ∧ d.admits 0 1 1 = false
         ∧ (let b := owning (withJob d { Job.idle with step := some (ms0 true) })
            b.tileFree 0 = true ∧ (b.ask 0 1 1).2 = false))
    ∧ (let d := withTile { readyT with edge := some vec0 }
       let d := { d with power := { d.power with boHold := true } }
       d.tileFree 0 = false ∧ d.budgetWaits 0 = true ∧ (d.tile 0).owed = [])
    ∧ ∀ ev ∈ [ev0, { ev0 with split := true, observed := true }, { ev0 with kind := .replay }, { ev0 with kind := .reeval }],
        let d := withTile { readyT with owed := [ev] }
        d.tileFree 0 = true ∧ (d.tile 0).owed = [ev] ∧ (d.ask 0 1 1).2 = true
          ∧ ((ev.kind = .normal ∧ (ev.observed = false ∨ ev.observed = true)) ∨ ev.kind = .replay ∨ ev.kind = .reeval) := by decide +kernel

/-- A package with the observation sampling, the band and the drift trigger off. -/
def quiet (t : Tile) : Dev := { withTile t with glob := { up.glob with inForce := [(Off.arith / 4, 0), (Off.cal / 4, 0)] } }
/-- Codes of a column at the zero of the converter. -/
def mid : List Byte := List.replicate 520 128
def partOf (d : Dev) (ev : Eval) (cs : List Byte) : Dev × Part :=
  ((d.updTile 0 fun t => { t with evals := [] }).rehold 0).correctPart 0 ev none cs cs

theorem getD_replicate' {α : Type} (n j : Nat) (x : α) : (List.replicate n x).getD j x = x := by
  simp [List.getD_eq_getElem?_getD, List.getElem?_replicate]; split <;> rfl
theorem mid_getD (j : Nat) : (mid.map BitVec.toNat).getD j 128 = 128 := by
  have e : mid.map BitVec.toNat = List.replicate 520 128 := List.map_replicate.trans (congrArg (List.replicate 520) rfl)
  rw [e]; exact getD_replicate' 520 j 128
theorem vec0_getD (i : Nat) : vec0.a.getD i 0 = 0 := getD_replicate' 512 i 0
theorem ev0_getD (j : Nat) : ev0.classes.getD j 0 = 0 := getD_replicate' 520 j 0
theorem pulseSum_vec0 (high : Bool) (x : Nat → Int) : pulseSum high none vec0.a x = 0 := by
  have e : (fun i => if inHalf none i then pulse high (vec0.a.getD i 0) * x i else 0) = fun _ => 0 := by
    funext i; rw [vec0_getD]; cases high <;> simp [pulse]
  unfold pulseSum; rw [e]
  exact List.sum_eq_zero fun y hy => by obtain ⟨_, _, h⟩ := List.mem_map.1 hy; exact h.symm
theorem refExpected_vec0 : refExpected false none vec0.a = [0, 0, 0, 0] := by simp [refExpected, pulseSum_vec0]
theorem nibbleSkip_vec0 : nibbleSkip none vec0.a = true := by
  unfold nibbleSkip; refine List.all_eq_true.2 fun i _ => ?_; rw [vec0_getD]; exact Bool.or_eq_true_iff.2 (.inr rfl)
theorem fit_start : refFit Estimate.start [0, 0, 0, 0] [0, 0, 0, 0] = Estimate.start := by decide +kernel
theorem enter_start (n : Nat) : Estimate.start.enter Estimate.start n = Estimate.start := by simp [Estimate.enter]
theorem code_start (x : Int) : correctCode Estimate.start x 128 (codeWeight 0) = 0 := by
  simp [correctCode, correctValue, Estimate.start]; decide +kernel

/-- What a tile with fresh estimates corrects a vector of zeros to. -/
theorem part_mid (d : Dev) (h : (d.tile 0).est = Estimate.start) :
    let p := (d.correctPart 0 ev0 none mid mid).2
    (∀ j, p.codesH.getD j 128 = 128) ∧ (∀ j, p.codesL.getD j 128 = 128) ∧ p.skip = true ∧ p.dH = List.replicate 516 0
      ∧ p.dL = List.replicate 516 0 := by
  have ms : (List.range 4).map (fun _ => (((128 : Nat) : Int) - 128) * ((codeWeight 0 : Nat) : Int)) = [0, 0, 0, 0] := by decide
  have zeros : ∀ n, (List.range n).map (fun _ => (0 : Int)) = List.replicate n 0 := by
    intro n; rw [List.map_const', List.length_range]
  refine ⟨mid_getD, mid_getD, ?_, ?_, ?_⟩
  · simp only [Dev.correctPart, show ev0.vec = vec0 from rfl, nibbleSkip_vec0]
  · simp only [Dev.correctPart, show ev0.vec = vec0 from rfl, nibbleSkip_vec0, if_true, show vec0.transposed = false from rfl]
    exact zeros 516
  · simp only [Dev.correctPart, show ev0.vec = vec0 from rfl, nibbleSkip_vec0, show vec0.transposed = false from rfl, mid_getD, ev0_getD, h,
      refExpected_vec0, ms, Bool.not_false, Bool.not_true, Bool.and_false, if_true]
    simp only [Bool.false_eq_true, if_false, fit_start, enter_start, code_start]
    exact zeros 516

theorem witness_CleanEvaluationAddsSixteenHighPlusLow :
    let d := quiet { readyT with evals := [ev0] }
    let p := (partOf d ev0 mid).2
    let r := fun (i g : Nat) => SMap.get 0 (d.table ((d.logicalOf 0).getD 0)).residues (4 * i + g)
    (d.tile 0).evals = [ev0] ∧ ev0.split = false ∧ vec0.transposed = false ∧ d.bandU = 0 ∧ p.clips 520 = []
      ∧ ((if p.skip then [] else failedGroups true none vec0.a r d.tolSigma (checkQ2 (d.tile 0).qSq) ev0.classes (p.pu true ev0.classes))
          ++ failedGroups false none vec0.a r d.tolSigma (checkQ2 (d.tile 0).qSq) ev0.classes (p.pu false ev0.classes)) = [] := by
  intro d p r
  obtain ⟨h1, h2, h3, h4, h5⟩ := part_mid (((quiet { readyT with evals := [ev0] }).updTile 0 fun t => { t with evals := [] }).rehold 0) rfl
  have hp : p.pu false ev0.classes = List.replicate 516 0 := by
    simp only [Part.pu]; rw [if_neg (by simp), show p.dL = List.replicate 516 0 from h5]; decide +kernel
  refine ⟨rfl, rfl, rfl, by decide +kernel, ?_, ?_⟩
  · rw [Part.clips, List.filter_eq_nil_iff]
    intro j _
    rw [Part.clipsAt, show p.codesH.getD j 128 = 128 from h1 j, show p.codesL.getD j 128 = 128 from h2 j]
    cases p.skip <;> decide
  · rw [hp, if_pos (show p.skip = true from h3), List.nil_append, failedGroups]
    have hz : ∀ k, Machine.residual false none vec0.a r (List.replicate 516 0) k = 0 := by
      intro k; rw [Machine.residual, pulseSum_vec0, getD_replicate', List.drop_replicate, List.take_replicate]; simp only [List.sum_replicate]; simp
    simp only [hz]
    decide +kernel

theorem witness_ClippedEvaluationIsNotAccumulated :
    (let d := withTile { readyT with evals := [ev0] }
     (d.tile 0).evals = [ev0] ∧ ev0.split = false ∧ vec0.transposed = false ∧ ev0.reevals = 0
       ∧ (partOf d ev0 (255 :: mid.drop 1)).2.refClip = false
       ∧ (((partOf d ev0 (255 :: mid.drop 1)).2.clips 520).any fun j => ev0.classes.getD j 0 == 0) = true
       ∧ (partOf d ev0 (List.replicate 520 255)).2.refClip = true) := by decide +kernel

def part00 : Part := { half := none, skip := true, codesH := [], codesL := [], dH := [], dL := [], estH := Estimate.start, estL := Estimate.start }
def settling0 : Settling := { ev := ev0, part := part00, patches := [3, 511], patched := [] }
def sample0 : ShadowSample := { col := 511, a := vec0.a, weight := 1, vHigh := 1, vLow := 1 }
theorem witness_PatchesAndSamplesUseTheGoldenImage :
    (let d := withTile { readyT with settling := [settling0], samples := [sample0], shadowLog := 1 }
     (d.tile 0).settling.find? (fun x => x.patches.contains 511) = some settling0 ∧ settling0.patches.erase 511 ≠ []
       ∧ { settling0 with patches := [511] }.patches.erase 511 = [] ∧ (d.tile 0).samples = [sample0] ∧ (d.tile 0).shadowLog ≠ 0)
    ∧ readyT.shadowLog = 0 ∧ { Cluster.reset with misses := [.imageRow 0 0] }.misses.contains (.imageRow 0 0) = true
    ∧ { Cluster.reset with cache32 := 1 }.lineRow = some 480 ∧ Cluster.reset.lineRow = none
    ∧ (withTile readyT).imageOpen 0 0 = false ∧ (owning (withTile readyT)).imageOpen 0 0 = true := by decide +kernel

theorem witness_EdgeConversionAlignsTheInput :
    (withTile readyT).physOf 0 0 = some 0 ∧ ((withTile readyT).tile 0).edge = none ∧ (withTile readyT).onStandIn 0 0 = false
    ∧ (edgeConvert (List.replicate 512 1) (List.replicate 16 128) [] 0).zero = false
    ∧ (edgeConvert (List.replicate 512 0) (List.replicate 16 128) [] 0).zero = true
    ∧ ((withTile { readyT with edge := some vec0 }).tile 0).edge ≠ none := by decide +kernel

theorem witness_RestoreRunsRowByRow :
    (let d := withTile { readyT with credit := 1 }
     (d.tile 0).state = .ready ∧ (d.tile 0).evals = [] ∧ d.gap 0 false = true ∧ (d.tile 0).restore = none ∧ (d.tile 0).credit * 100 ≥ d.earlyUrgent.1
       ∧ d.admits 0 1 (if d.restoreFirst 0 then 0 else 3) = true ∧ (d.tile 0).mappedOut 0 = false)
    ∧ { up with glob := { up.glob with inForce := [(Off.restore / 4, 0xF0000)] } }.auditLog2 = none
    ∧ (let d := withTile { readyT with restore := some { row := 519, audit := false, rewritten := 0, urgent := true } }
       (d.tile 0).restore = some { row := 519, audit := false, rewritten := 0, urgent := true } ∧ d.gap 0 false = true)
    ∧ ((withTile readyT).tile 0).state = .ready := by decide +kernel
theorem witness_RestoreRunsRowByRow_codes :
    ∀ j < 520, (levelDev (mid.getD j 128).toNat (nearestLevel (mid.getD j 128).toNat)).natAbs < 4 := by
  intro j _
  rw [show mid.getD j 128 = 128 from getD_replicate' 520 j 128]
  decide +kernel

theorem witness_RestoreClearsTheCreditAndProgrammingSpreadsIt :
    (let d := withTile { readyT with credit := 1 }
     (d.tile 0).state = .ready ∧ (d.tile 0).evals = [] ∧ (d.tile 0).restore = none ∧ (d.tile 0).credit * 100 ≥ d.earlyUrgent.1
       ∧ (d.tile 0).credit * 100 ≥ d.earlyUrgent.2 ∧ d.restoreFirst 0 = true ∧ d.admits 0 1 (if d.restoreFirst 0 then 0 else 3) = true)
    ∧ up.power.boHold = false ∧ up.power.sweepLeft.contains 0 = false
    ∧ ((withTile { Tile.off with state := .verifying }).tile 0).state = .verifying
    ∧ (((withTile { Tile.off with state := .verifying }).beginTest 0).tile 0).testing = true
    ∧ (((withTile { Tile.off with state := .standin, repair := 2 }).beginTest 0).tile 0).testing = true
    ∧ ((withTile { Tile.off with state := .standin, repair := 2 }).tile 0).repair = 2 := by decide +kernel

def prog0 : Programming := { row := 519, sums := [], spares := [] }
theorem witness_ProgrammingWritesVerifiesAndTests :
    (let d := withTile { Tile.off with state := .blank, progWait := true }
     (d.tile 0).progWait = true ∧ (d.tile 0).prog = none ∧ (d.tile 0).evals = [] ∧ d.power.boHold = false ∧ d.programming < 4096
       ∧ (d.tile 0).state ∈ [TileState.blank, .programming, .standin] ∧ d.admits 0 2 2 = true)
    ∧ (let d := withTile { Tile.off with state := .programming, prog := some prog0 }
       (d.tile 0).prog = some prog0 ∧ d.power.boHold = false ∧ (d.tile 0).mappedOut 519 = false
         ∧ rowPasses (d.targetRow 0 519) ((d.targetRow 0 519).map fun w => BitVec.ofNat 8 (128 + w * 15).toNat) = true)
    ∧ { up.power with boHold := true }.boHold = true
    ∧ (withTile { Tile.off with state := .verifying }).power.sweepLeft.contains 0 = false := by decide +kernel

/-- The first mantissas of R59's pseudo-code for tile 0, from its text. -/
theorem test_lfsr_mantissas : (testVector 4 (2 ^ 30)).1 = [-127, 0, 0, 9] := by decide +kernel
/-- Codes of 128 on four zero references pass R474; a clip of column 518 is its event. -/
theorem test_reference_check :
    refCheck Estimate.start 6 (1 / 4) [0, 0, 0, 0] [] = none
    ∧ refCheck Estimate.start 6 (1 / 4) [0, 0, 0, 0] (List.replicate 518 128 ++ [0]) = some (2, true) := by decide +kernel

theorem witness_CalibrationStagesTrimsAndAppliesThemIdle :
    (let d := atTime (withTile readyT) (up.calMaxIvl * 1000000000)
     (d.tile 0).state = .ready ∧ (d.tile 0).calibrating = false ∧ (d.tile 0).staged = none
       ∧ d.since (d.tile 0).calAt ≥ d.calMaxIvl * 1000000000)
    ∧ (withTile { readyT with calibrating := true }).calTile 0 = some 0 ∧ up.array.calPending = false
    ∧ (atTime up 50000).busy = false ∧ (atTime up 50000).since up.array.idleSince ≥ 50000
    ∧ { readyT with staged := some ([], []) }.staged = some ([], [])
    ∧ (withJob up { Job.idle with step := some (ms0 false) }).busy = true ∧ up.readyTiles = [] := by decide +kernel

/-! The engines and the stack. -/

def req0 : Requester := { partition := 0, secure := false, cls := 1, cluster := none }
theorem witness_StackAccessStaysInItsRegion :
    up.mayUse req0 0 64 = true ∧ up.mayUse req0 (16384 * 6291456 - 1) 2 = false ∧ up.stack.remap = []
    ∧ up.comesAgain (16384 * 6029312) = true ∧ up.mayUse req0 (16384 * 6029312) 64 = true ∧ up.comesAgain 0 = false := by decide +kernel

/-- A package whose pseudo-channel of block 0 migrates. -/
def moving : Dev := { up with stack := { up.stack with pcs := [(pcOf 0, { state := 1, ce := 0 })] } }
theorem witness_MigrationMovesABlockWithItsContent :
    (moving.pcs (pcOf 0)).state = 1 ∧ pcOf (moving.mapBlock 0) = pcOf 0 ∧ 0 < (moving.kindAt 4).1 ∧ (moving.kindOf 0).isSome = true
    ∧ (moving.kindAt 4).1 + (moving.kindAt 4).2 ≤ 6291455 ∧ (moving.kindOf 6291455).isSome = true
    ∧ (moving.pageFrom moving.stack.turn).isSome = true ∧ (up.pcs (pcOf 0)).state ≠ 1 ∧ pcOf (moving.mapBlock 0) ≠ pcOf 0 + 1 := by
  decide +kernel

def row0 : StepRow := { handle := 0, decode := true, position := 4, token := 1, last := true, poison := false }
def op0 : DahliaOp := { partition := 0, kind := .compiled 0 [] }
/-- A stand-in of a tier B tile. -/
def opB : DahliaOp := { partition := 0, kind := .standIn 16384 }
theorem witness_DahliaStartsAndEndsOperations :
    (let d := { up with engine := { up.engine with reserve := 385, halves := (List.range 15).map fun k => (k, some op0) } }
     d.engine.waiting = [] ∧ { up with engine := { up.engine with reserve := 385 } }.halfFits = true ∧ d.power.boHold = false ∧ d.power.sweep = false
       ∧ d.freeHalf op0 = some 15 ∧ d.freeHalf opB = some 16 ∧ halfTier 16 = 16384 / 16384)
    ∧ (let d := { up with engine := { up.engine with halves := (List.range 32).map fun k => (k, some op0) } }
       d.freeHalf op0 = none ∧ SMap.get none d.engine.halves 31 = some op0)
    ∧ up.halfFits = false ∧ lead.isLead 0 = true
    ∧ (let d := { up with engine := { up.engine with halves := [(31, some { op0 with kind := .logits 0 5 0 [[]] })] } }
       SMap.get none d.engine.halves 31 = some { op0 with kind := .logits 0 5 0 [[]] } ∧ 0 + ([[]] : List (List DahliaTerm)).length ≤ 262144)
    ∧ (let a : DahliaSrc := { cluster := some 0, addr := 0, fmt := .e4m3 }
       { up with array := { up.array with clusters := [(0, { Cluster.reset with spad := [(0, 0x7F)] })] } }.dahliaValue 0 true a = none)
    ∧ up.dahliaSum 0 true [] = some 0
    ∧ lead.hasBuffer { partition := 0, handle := 0, pos := 5, first := 0, values := [none] } = false
    ∧ (withJob lead { Job.idle with inFlight := [{ desc0 with rows := [row0] }] }).hasBuffer
        { partition := 0, handle := 0, pos := 5, first := 0, values := [none] } = true := by decide +kernel

def att0 : AttJob := { handle := 0, layer := 0, keyStream := 0, valueStream := 1, elems := 64, scale := 0x3F80, queries := [⟨0, 0, 0, none⟩] }
theorem witness_AttentionReadsOnlyItsOwnPages :
    ((up.chunkPages 0 0).all fun g => (up.readHeader 0 g).extractLsb' 16 32 == (0 : U32)) = true
    ∧ (let d := { up with serve := { up.serve with kv := [(0, { KvSeq.empty with pages := [0, 1] })] } }
       ((d.chunkPages 0 0).all fun g => (d.readHeader 0 g).extractLsb' 16 32 == (1 : U32)) = false)
    ∧ { ReqEntry.free 0 with state := .decode }.state.live = true ∧ memb.isLead 0 = false
    ∧ { Seq.idle with atBarrier := true }.atBarrier = true ∧ (owning up).partClusters 0 = [0] := by decide +kernel

/-- The slot tables of R219's worked example: from A(3,4) east along row 3 to A(3,9), and up to B(3,9). -/
def exampleSlots : List Nat := [100, 101, 102, 104, 105, 106, 108, 109, 110]
def onSlots (first : Nat) (w : U32) : Cluster := { Cluster.reset with slots := exampleSlots.map fun x => (x - 100 + first, w) }
def meshed (cycle : Nat) : Dev :=
  { up with rst := { up.rst with rootCount := BitVec.ofNat 64 (5 * cycle) },
            glob := { up.glob with timeNs := BitVec.ofNat 64 (5 * cycle / 8) },
            array := { up.array with clusters := [(52, onSlots 100 0xC0), (53, onSlots 104 0xB0), (54, onSlots 108 0xB0), (55, onSlots 112 0xB0),
                                                  (56, onSlots 116 0xB0), (57, onSlots 120 0xB00000), (313, onSlots 124 0xE0000)] } }
/-- R219: flit 1 arrives at cycle 124 and flit 9 at 134; held until cycle 103, flit 9 arrives at cycle 4,222. -/
theorem test_mesh_example :
    (meshed 0).reaches 52 100 = [(313, 124)]
    ∧ (let i := (meshed 100).slotIndex 52 62 exampleSlots
       (meshed 100).reaches 52 (slotCycle exampleSlots (i + 8)) = [(313, 134)])
    ∧ (let i := (meshed 103).slotIndex 52 62 exampleSlots
       i = 3 ∧ (meshed 103).reaches 52 (slotCycle exampleSlots (i + 8)) = [(313, 4222)]) := by decide +kernel
/-- Lupin's buffer of segment 0 holds a byte for row 2 of cluster 0, which slot 100 of a circuit feeds. -/
def fed : Dev :=
  { up with array := { up.array with baseSlots := [(100, 0xD)], clusters := [(0, { Cluster.reset with slots := [(104, 0xE0000)] })],
                                     baseIn := [{ kind := 1, cluster := 0, row := 2, at_ := 448, bytes := [7] }] } }
def piece0 : MeshPiece := { row := 1, at_ := 448, len := 64, dstRow := 2, dstAt := 448 }
theorem witness_MeshTransferMovesRowsAndLanes :
    exampleSlots ≠ [] ∧ piece0.dstAt + min 64 piece0.len ≤ 512 ∧ piece0.at_ + min 64 piece0.len ≤ 512 ∧ (313 : Nat) ≠ 52
    ∧ (meshed 0).reaches 52 (slotCycle exampleSlots ((meshed 0).slotIndex 52 0 exampleSlots + blockFlits ((meshed 0).blockWords 52 0) - 1))
        = [(313, 128)]
    ∧ exampleSlots ≠ [] ∧ (up.reachesFrom (.segment 0) 5 100).all (fun e => up.bufferBytes 0 1 e.1 0 piece0 == []) = true
    ∧ (let d := fed
       d.reachesFrom (.segment (512 - 512)) (4 + 1) (slotCycle [100] (d.slotIndex 512 0 [100])) = [(0, 104)]
         ∧ d.bufferBytes (512 - 512) 1 0 0 piece0 = [(448, [7])] ∧ (448 : Nat) + [(7 : Byte)].length ≤ 512) := by decide +kernel

def step0 : MemberStep := ms0 true
def receiving (rows : List (BitVec 4096)) : Dev :=
  let d := owning (withJob up { Job.idle with step := some step0 })
  { d with link := { d.link with ingress := [{ partition := 0, step := 1, vc := 0, rows := rows }] } }
def tag0 : BlockTag := { symbol := 5, layer := 3, handle := 0, tokenRow := 0, col0 := 0, slots := [] }
def wanted : Watch :=
  { origin := org, spec := { byAddress := false, symbol := 5, addr := { position := 0, space := 0, cluster := 0, offset := 0 }, mode := 0, n := 0,
                             filter := false, handle := 0, hasRows := false, bufAddr := 0, bufLen := 64 }
    fromStep := 0, parts := [], fired := false, step := 0 }
theorem witness_SequencerIssuesOrStalls :
    (withTile readyT).tileStall 0 = 0 ∧ (withTile { readyT with owed := [ev0] }).tileStall 0 ≠ 0
    ∧ (withTile readyT).physOf 0 0 = some 0 ∧ (withTile readyT).onStandIn 0 0 = false
    ∧ (withTile { Tile.off with state := .standin }).onStandIn 0 0 = true
    ∧ Seq.idle.atBarrier = false ∧ { Seq.idle with atBarrier := true }.atBarrier = true ∧ up.early 0 1 = true ∧ up.early 0 0 = false
    ∧ (receiving []).watched 0 tag0 = false ∧ { receiving [] with obs := { up.obs with watches := [(15, some wanted)] } }.watched 0 tag0 = true
    ∧ up.heldAt 0 = false ∧ (let d := receiving []
       let d := withJob d { Job.idle with step := some { step0 with desc := { desc0 with replay := true, held := true } } }
       let d := d.setBank 0 (d.bankOf 0) { BankInfo.empty with guards := [{ cluster := 0, layer := 9, start := 0, slot := 8, guard := 4 }] }
       d.heldAt 0 = true ∧ d.layerDone 0 9 = false)
    ∧ (receiving [7]).clusterOwner 0 = some 0 ∧ ((receiving [7]).job 0).step = some step0 ∧ ([7] : List (BitVec 4096))[0]? = some 7
    ∧ step0.desc.no = 1 ∧ up.link.ingress = []
    ∧ (meshed 100).missesSlot 52 62 exampleSlots = false ∧ (meshed 103).missesSlot 52 62 exampleSlots = true
    ∧ 1 ≤ [(0 : Byte)].length ∧ (List.replicate 65536 (0 : Byte)).length ≤ 65536 := by
  refine ⟨by decide +kernel, by decide +kernel, by decide +kernel, by decide +kernel, by decide +kernel, rfl, rfl, by decide +kernel, by decide +kernel,
    by decide +kernel, by decide +kernel, by decide +kernel, by decide +kernel, by decide +kernel, by decide +kernel, rfl, rfl, rfl, by decide +kernel, by decide +kernel, by decide, List.length_replicate.le⟩

theorem witness_StepScheduleStartsOnce :
    ((withJob up { Job.idle with step := some (ms0 false) }).job 0).step = some (ms0 false) ∧ up.rst.rootCount.toNat % 20480 = 0
    ∧ ((owning up).partClusters 0).Nodup ∧ { up.rst with rootCount := 8 }.rootCount.toNat % 20480 ≠ 0
    ∧ ((withJob up { Job.idle with step := some (ms0 true) }).job 0).step = some (ms0 true) ∧ (up.job 0).step = none := by decide +kernel

/-! Shards, partitions and the serving of requests. -/

def chunkLeft (n tries part : Nat) : ChunkLeft := { n := n, part := part, addr := 0x1000, length := 64, tries := tries, bad := false, reading := true,
                                                       issuedAt := 0, peer := false }
def load0 : ShardLoad :=
  { version := 3, digest := 0, member := 0, bank := 0, chunks := [chunkLeft 0 2 3, chunkLeft 1 3 2], got := [], only := none, recovery := false }
/-- A package that loads the bank of partition 0. -/
def loading (l : ShardLoad) : Dev := { lead with stack := { lead.stack with loads := [(0, some l)] } }
def badScale : ChunkContent := .scales [(0, 0, 0x7F80)]
/-- Layer 7 is named, and no tile is placed in it. -/
def badLayer : ChunkContent := .layers [(7, 0)]
/-- What the load holds once its last chunk has passed with these contents. -/
def whole0 (contents : List ChunkContent) : ShardLoad :=
  { load0 with chunks := [], got := insertChunk { n := 0, part := 3, length := 0, contents := contents } [] }
theorem witness_ShardChunksFillOrSpoilTheBank :
    (loading load0).load 0 = some load0 ∧ load0.only = none ∧ load0.bank = ((loading load0).commit 0).inactive
    ∧ load0.chunks.find? (fun c => c.n == 0 && c.reading && !c.peer) = some (chunkLeft 0 2 3) ∧ (2 : Nat) < 3
    ∧ load0.chunks.find? (fun c => c.n == 1 && c.reading && !c.peer) = some (chunkLeft 1 3 2) ∧ (3 : Nat) ≤ 3
    ∧ (loading load0).replicaMatches 0 load0 = false
    ∧ (let d := loading load0
       { d with stack := { d.stack with replicas := [(0, { Replica.none with peer := some (3, 0) })] } }.replicaMatches 0 load0 = true)
    ∧ 500000000 ≤ (atTime (loading load0) 500000000).since (chunkLeft 0 2 3).issuedAt
    ∧ (∀ x ∈ load0.chunks, x.n = 0 → (atTime (loading load0) 499999999).since x.issuedAt < 500000000)
    ∧ chunkIv 3 1 0 ≠ chunkIv load0.version load0.member 0
    ∧ (load0.chunks.filter fun c => c.n != 0) ≠ [] ∧ Machine.partOf badScale = 2 ∧ Machine.partOf badLayer = 3 ∧ contentStatus badLayer = 0
    ∧ contentStatus badScale = St.shardCorrupt
    ∧ (let l := { load0 with chunks := [chunkLeft 0 2 3], recovery := true }
       let d := loading l
       d.load 0 = some l ∧ l.chunks.find? (fun c => c.n == 0 && c.reading && !c.peer) = some (chunkLeft 0 2 3)
         ∧ (l.chunks.filter fun c => c.n != 0) = [] ∧ d.committing 0 = none ∧ (d.commit 0).bank = none
         ∧ d.bankConsistent 0 (whole0 []).info (tilePart ((whole0 []).got.flatMap FormChunk.contents)) = true ∧ (whole0 []).info.handlesFit = true
         ∧ d.bankConsistent 0 (whole0 [badLayer]).info (tilePart ((whole0 [badLayer]).got.flatMap FormChunk.contents)) = false) := by decide +kernel

/-- R315: the 258 bytes of an image row, weight (r, 2n + 1) above weight (r, 2n). -/
theorem test_image_row : ((imageRow ((List.range 512).map fun j => BitVec.ofNat 4 (j % 3))).take 3) = [0x10, 0x02, 0x21] := by decide +kernel

/-- A member whose bank A is active and rebuilt after a reset, and what its −X neighbour has reported. -/
def rebuilding (peer : Option (U32 × BitVec 384)) : Dev :=
  let d := withJob lead { Job.idle with rebuilding := true }
  { d with stack := { d.stack with commits := [(0, { Commit.none with active := 1, bankA := 2, verA := 3 })],
                                   replicas := [(0, { Replica.none with peer := peer })] } }
theorem witness_CommitSwitchesTheBankWhole :
    { lead with stack := { lead.stack with committing := [(0, some 1)] } }.committing 0 = some 1
    ∧ { lead with stack := { lead.stack with committing := [(0, some 2)] } }.committing 0 = some 2
    ∧ lead.tilesServe 0 0 = true ∧ lead.tilesServe 0 1 = true ∧ (lead.bank 0 0).copyBad = false
    ∧ (let d := withTile { readyT with state := .programming }
       let d := { owning d with stack := { d.stack with banks := [(0, { BankInfo.empty with placement := [⟨0, 0, 0, 0, 0⟩] })] } }
       d.tilesServe 0 0 = false)
    ∧ (let d := rebuilding (some (3, 0))
       d.committing 0 = none ∧ (d.job 0).rebuilding = true ∧ d.load 0 = none ∧ (d.commit 0).bank = some 0
         ∧ (d.bank 0 0).copyBad = false ∧ (d.replica 0).peer = some ((d.commit 0).version, (d.commit 0).digest))
    ∧ ((rebuilding none).replica 0).peer ≠ some (((rebuilding none).commit 0).version, ((rebuilding none).commit 0).digest) := by decide +kernel

/-- A pack with a number and a rerun period of a minute, of one entry of zeros for tile 0. -/
def pack0 (id : Nat) : CrocusPack :=
  { header := BitVec.ofNat 512 (2 ^ 32 + id * 2 ^ 64 + 2 ^ 128 + 2 ^ 160), entries := [0], pss := 0, slh := 0, sigsOk := true }
theorem witness_CrocusPacksAreTakenInOrder :
    owned.ledger.packId.toNat < (pack0 1).packId.toNat ∧ (pack0 1).sigsOk = true ∧ owned.takesShards 0 = true ∧ (pack0 1).format = 1
    ∧ (pack0 1).size ≤ 67108864 ∧ up.takesShards 0 = false
    ∧ (pack0 0).packId.toNat ≤ up.ledger.packId.toNat ∧ prim.sys.primary = true ∧ prim.ledger.crocusState ≠ 1
    ∧ { prim.ledger with crocusState := 1, crocusAsked := [1] }.crocusState = 1 ∧ { prim.ledger with crocusAsked := [1] }.crocusAsked = [1]
    ∧ memb.sys.primary = false
    ∧ (let d := { withTile readyT with ledger := { up.ledger with pack := some (pack0 1), crocusTodo := [0], ltime := 60 } }
       d.ledger.pack = some (pack0 1) ∧ (pack0 1).rerun = 1 ∧ d.ltime - d.ledger.packRunAt ≥ 60 * (pack0 1).rerun.toNat
         ∧ (pack0 1).entries[0]? = some 0 ∧ d.physOf (crocusCluster 0) (crocusLtile 0) = some 0
         ∧ d.ledger.crocusTodo.contains 0 = true ∧ d.crocusWindow 0 = true ∧ d.admits 0 1 2 = true) := by decide +kernel

/-- The primary with partition 63 set up and VALID, and its job. -/
def withPart : Dev :=
  { prim with part := { prim.part with accepted := [(63, { PartEntry.none with cfg := 0x8000000000000000 })],
                                       inForce := [(63, { PartEntry.none with cfg := 0x8000000000000000 })] } }
/-- The primary of a package whose owner slot 0 is occupied. -/
def provisioned : Dev := { prim with sec := owned.sec }
theorem witness_PartitionSetUpsAreCheckedAndPushed :
    (63 : Nat) < 64 ∧ provisioned.sys.primary = true ∧ provisioned.rst.phase = .ready
    ∧ (let e := provisioned.partAcc 63
       e.cfg.getLsbD 63 = false ∧ provisioned.partError 63 { e with cfg := cfgOf e.cfg 0 ||| 0x8000000000000000 } = 0
         ∧ prim.partError 63 { e with cfg := cfgOf e.cfg 0 ||| 0x8000000000000000 } ≠ 0)
    ∧ (prim.jobSetup 0).valid = true ∧ (withPart.jobSetup 63).valid = false ∧ (withPart.partAcc 63).cfg.getLsbD 63 = true
    ∧ ({ partition := 63, cfg := 0x8000000000000000, quota := 0, clusters := 0 } : PartSetup).cfg.getLsbD 63 = true := by decide +kernel

def busyUp : Dev := withJob up { Job.idle with step := some (ms0 false) }
theorem witness_RegionRequestsWaitForTheBoundary :
    up.rst.phase = .ready ∧ up.stack.request = none ∧ up.busy = false ∧ busyUp.busy = true ∧ busyUp.stack.request = none
    ∧ (up.regionOk 127 0 && up.regionFree (up.region 127) && up.regionFree 0) = true
    ∧ (up.regionOk 127 0x8000000000000000 && up.regionFree (up.region 127) && up.regionFree 0x8000000000000000) = false
    ∧ { up.stack with request := some (0, 0) }.request ≠ none := by decide +kernel

def drawing (fox : List FoxResult) : Dev :=
  let d := withJob lead { Job.idle with inFlight := [{ desc0 with rows := [row0] }], fox := fox, params := { JobParams.none with vocab := 2 } }
  { d with engine := { d.engine with logits := [{ partition := 0, handle := 0, pos := 5, first := 1, values := [none] },
                                                { partition := 0, handle := 0, pos := 5, first := 0, values := [some 0x3F800000] }] } }
/-- 1 + 2^-24 is a tie, which goes to the even 1; 1 + 3 × 2^-24 goes up; an overflow stays at the largest finite number (R145). -/
theorem test_f32_sums : f32Add 0x3F800000 1 (-24) = 0x3F800000 ∧ f32Add 0x3F800000 3 (-24) = 0x3F800002
    ∧ f32Add 0xFF7FFFFF (-1) 127 = 0xFF7FFFFF ∧ f32Add 0x3F800000 (-1) 0 = 0 := by decide +kernel
theorem witness_FoxgloveDrawsOnceForEachSampledRow :
    (drawing []).isLead 0 = true ∧ ((drawing []).job 0).undrawn.head? = some (0, 5) ∧ (drawing []).logitsOf 0 0 5 = some [some 0x3F800000, none]
    ∧ up.logitsOf 0 0 5 = none ∧ memb.isLead 0 = false
    ∧ ((drawing [{ handle := 0, pos := 5, poison := false, token := 0, logp := 0, drawnAt := 0 }]).job 0).undrawn = [] := by decide +kernel

/-! Host commands. -/

/-- A lead that is not the primary: the gateway is another package. -/
def member : Dev := { lead with sys := { lead.sys with primary := false } }
/-- The same, PROVISIONED, with owner slot 0 occupied and its unwrap key there. -/
def keyed : Dev := { member with sec := { owned.sec with unwrap := [(0, 1)] } }
def cancel0 : Instr := .cancel org 7
theorem witness_HostCommandsWaitForTheLeadsBoundary :
    hostCmd cancel0 = some ⟨org, .cancel 7⟩ ∧ hostCmd (.commandReceive 2 ⟨org, .cancel 7⟩) = some ⟨org, .cancel 7⟩
    ∧ member.serving = true ∧ member.isLead 0 = true ∧ Dev.reset.serving = false
    ∧ member.sys.primary = false
    ∧ (∀ kind ∈ [2, 3, 4], hostCmd (.query org kind 0 0 0 4096) = some ⟨org, .query kind 0 0 0 4096⟩) ∧ (3 : BitVec 2) ≠ 2
    ∧ (member.job 0).cmds = []
    ∧ (withJob member { Job.idle with cmds := [(⟨org, .cancel 0⟩, 0)] }).isLead 0 = true
    ∧ ((withJob member { Job.idle with cmds := [(⟨org, .cancel 0⟩, 0)] }).job 0).cmds.any (fun x => x.1.origin.queue == org.queue) = true
    ∧ FwdBody.waits (.cancel 7) = true ∧ memb.isLead 0 = false := by decide +kernel

/-- A package whose region 9 is a workspace of partition 0 with 65,536 blocks. -/
def withSpace : Dev :=
  { member with stack := { member.stack with regions := [(9, 0x8048008000020000)] } }
def window0 (o : Bool) : Dev :=
  { withSpace with link := { withSpace.link with windows := [(4095, { Window.closed with isOpen := o, epoch := 9 })] } }
def part0 : GraftPart := { position := 0, blocks := [], readable := true }
def pending0 : GraftPending := { ver := 1, load := 0, origin := org, bytes := 0, blocks := [], waiting := [] }
def watch0 : WatchSpec :=
  { byAddress := true, symbol := 0, addr := { position := 0, space := 0, cluster := 0, offset := 0 }, mode := 0, n := 1, filter := true, handle := 0,
    hasRows := true, bufAddr := 0, bufLen := 64 }
/-- A manifest of member 0 with one chunk of 64 bytes of part 3: SHARD_VERSION 3. -/
def manifest0 : Manifest :=
  { header := BitVec.ofNat 1024 (0x315A5247 + 2 ^ 32 + 3 * 2 ^ 64 + 2 ^ 96), oaep := 0, kem := 0,
    chunks := [BitVec.ofNat 576 (3 + 64 * 2 ^ 32)], pss := 0, slh := 0, sigsOk := true, rsaOk := true, keyCheckOk := true, digest := 7 }
def entry0 : ShardEntry := { member := 0, manLen := BitVec.ofNat 32 (manifestLength 1), manAddr := 0, chunkBase := 0, manifest := some manifest0 }
/-- A member whose watch list of partition 0 is full. -/
def full : Dev :=
  { member with obs := { member.obs with watches := (List.range 16).map fun w => (w, some ⟨org, watch0, 0, [], false, 0⟩) } }
/-- R316: the offsets of a manifest of 100 chunks. -/
theorem test_manifest_offsets : manifestPss 100 = 0x0640 + 7200 ∧ manifestSlh 100 = manifestPss 100 + 384 := by decide
theorem witness_StagedHostCommandsActAtTheirUnit :
    withSpace.serving = true ∧ withSpace.sys.primary = false ∧ (withSpace.job 0).cmds = []
    ∧ withSpace.workspaceHolds 0 (0x20000 : BitVec 23).toNat 65536 = true ∧ ((window0 false).window 4095).isOpen = false
    ∧ ((window0 true).window 4095).isOpen = true ∧ ((window0 true).window 4095).partition = 0
    ∧ member.isLead 0 = true ∧ (∀ m ∈ member.members 0, ([part0].filter fun x => x.position == m).length = 1)
    ∧ (let g := { Graft.empty with pending := [{ pending0 with ver := Graft.empty.next }] }
       (g.pending.any fun x => x.ver == Graft.empty.next) = true)
    ∧ (∀ v ∈ (member.graft 0).live, v.ver ≠ (member.graft 0).next) ∧ (∀ x ∈ (member.graft 0).pending, x.ver ≠ (member.graft 0).next)
    ∧ [part0].find? (fun x => x.position == member.sys.position) = some part0 ∧ member.partStatusOf 0 part0 = 0
    ∧ member.isMember 0 = true ∧ keyed.serving = true ∧ keyed.isMember 0 = true ∧ keyed.tableComplete 0 [entry0] = true ∧ entry0.manifest = some manifest0 ∧ keyed.manifestOk 0 0 manifest0 = true
    ∧ manifest0.shaped entry0.manLen.toNat = true ∧ bytesOfPart manifest0.chunks 3 ≤ 520093696 ∧ { entry0 with manifest := none }.manifest = none
    ∧ keyed.memberIndex 0 = some 0 ∧ [entry0].find? (fun e => e.member == 0) = some entry0 ∧ (keyed.job 0).loading = none
    ∧ (keyed.job 0).drain = none ∧ keyed.load 0 = none ∧ keyed.committing 0 = none ∧ (keyed.commit 0).bank = none
    ∧ keyed.takesShards (fieldNat (keyed.partIn 0).cfg 47 44) = true
    ∧ watch0.addr.position = member.sys.position ∧ 64 ≤ watch0.bufLen ∧ member.freeWatch 0 = some 0 ∧ full.freeWatch 0 = none ∧ (watch0.filter = false ∨ watch0.hasRows = true) ∧ memb.isLead 0 = false
    ∧ (∃ k ∈ (owning (withTile readyT)).partTiles 0, ((owning (withTile readyT)).tile k).state = .ready ∧ (owning (withTile readyT)).calReady k = true) := by
  decide +kernel

def queued : ReqEntry := { ReqEntry.free 0 with state := .queued }
/-- A lead whose partition 0 holds the first 153,600 entries of the request table, with a CANCEL of entry 0 waiting. -/
def cancelling : Dev :=
  { lead with serve := { lead.serve with jobs := [(0, { Job.idle with cmds := [(⟨org, .cancel 0⟩, 0)] })], table := [(0, queued)] },
              part := { lead.part with inForce := [(0, { PartEntry.none with cfg := 0x8000090000096000 })] } }
theorem witness_BoundariesTakeWhatWaits :
    (let d := cancelling
     d.serving = true ∧ d.isLead 0 = true ∧ (d.job 0).step = none ∧ org.partition = 0 ∧ (d.job 0).cmds = [(⟨org, .cancel 0⟩, 0)]
       ∧ (d.job 0).inFlight = [] ∧ (d.job 0).replay = none ∧ (d.jobSlots 0).Nodup ∧ d.handleError 0 0 = none ∧ slotOf 0 ∈ d.jobSlots 0
       ∧ (d.req (slotOf 0)).state = .queued)
    ∧ memb.isLead 0 = false
    ∧ (let d := { atTime lead 1000000 with serve := { lead.serve with table := [(199999, { queued with state := .done })] } }
       (d.req 199999).state.terminal = true ∧ { d.req 199999 with holdOver := true }.holdOver = true ∧ d.isLead (d.req 199999).partition = true
         ∧ d.reqHold ≤ d.usSince (d.req 199999).endedAt)
    ∧ queued.state.terminal = false
    ∧ memb.isMember 0 = true ∧ (memb.job 0).step = none ∧ (memb.job 0).descs = [] ∧ memb.part.staged = []
    ∧ (∀ k ∈ memb.partTiles 0, (memb.tile k).ruling = false ∧ (memb.tile k).spareFor = none
        ∧ (memb.tile k).state ≠ .suspect ∧ (memb.tile k).state ≠ .standin)
    ∧ (let st := { ms0 true with marked := true, desc := { desc0 with rows := [row0] } }
       let d := withJob memb { Job.idle with step := some st }
       (d.job 0).step = some st ∧ d.isMember 0 = true ∧ d.isLead 0 = false ∧ st.started = true ∧ st.marked = true ∧ st.desc.rows ≠ []
         ∧ d.sys.holding.contains 0 = false ∧ (d.job 0).replay = none) := by decide +kernel

/-- Context data of a queue pair with 16 entries in each direction. -/
def goodQ : BitVec 256 := ((4 : BitVec 256) <<< 128) ||| ((4 : BitVec 256) <<< 133)
/-- The primary with 64 virtual functions, partition 0 owning IDs 0 to 511, and function registers. -/
def withFn (f : FnRegs) : Dev := { prim with host := { prim.host with fns := [(0, f)] } }
theorem witness_QueueContextsAreCheckedInOrder :
    prim.bar 64 = true ∧ prim.bar 0 = true ∧ prim.mayName 1 0 = false ∧ prim.mayName 0 262143 = true
    ∧ ((withFn FnRegs.reset).fn 0).ring = false ∧ (withFn FnRegs.reset).queue 0 = none
    ∧ (QCtx.create 0).ok = false ∧ (QCtx.create goodQ).ok = true ∧ (QCtx.create goodQ).pin = false
    ∧ (QCtx.create (goodQ ||| (1 <<< 150))).ok = true ∧ (QCtx.create (goodQ ||| (1 <<< 150))).pin = true
    ∧ (withFn FnRegs.reset).stack.remap = [] ∧ (withFn FnRegs.reset).host.cached.length < 16384 ∧ (withFn FnRegs.reset).ctxLive 0 = false
    ∧ (let d := withFn FnRegs.reset
       let x := { d with host := { d.host with queues := [(0, some (QCtx.create goodQ))] } }
       x.ctxLive 0 = true ∧ x.queue 0 = some (QCtx.create goodQ) ∧ x.ctxInUse false 0 = false
         ∧ { x with host := { x.host with outstanding := [⟨0, 7, 3, 0, none, 0, 0, 0⟩] } }.ctxInUse false 0 = true)
    ∧ indCount 0 = 0 ∧ indCount 1 ≠ 0 ∧ prim.indReach 1 511 = false ∧ prim.indReach 0 511 = true
    ∧ ((withFn { FnRegs.reset with ctxSel := 0x80000000 }).fn 0).ring = true
    ∧ (RCtx.create ((4 : BitVec 256) <<< 64)).ok = true := by decide +kernel

def qc (c : BitVec 256) : QCtx := QCtx.create c
/-- The primary with queue pair 0 and one entry to fetch. -/
def fetching (x : QCtx) : Dev :=
  { prim with sys := { prim.sys with primary := true, position := 0 }, host := { prim.host with queues := [(0, some x)], linesHeld := true } }
def q1 : QCtx := { qc goodQ with sqTail := 1 }
def q2 : QCtx := { qc goodQ with irqEn := true, coalTime := 1, unsignalled := 1 }
/-- Function registers with MSI-X enabled and vector 0 not masked. -/
def openFn : FnRegs := { FnRegs.reset with msixCtl := 0x8000, msixTable := [(3, 0)] }
theorem witness_EntriesAreFetchedCheckedAndForwarded :
    (List.replicate 8 (0 : U64)).length = 8 ∧ (fetching q1).hostOn = true ∧ (fetching q1).host.linesHeld = true ∧ prim.host.linesHeld = false
    ∧ q1.halted = false ∧ (16 : U16).toNat ≥ 2 ^ q1.sqLog2 ∧ (16 : BitVec 18).toNat ≥ 2 ^ q1.cqLog2
    ∧ (fetching q1).queue 0 = some q1 ∧ (fetching q1).ideOk = true ∧ (fetching q1).sys.primary = true
    ∧ (fetching q1).sys.standbySync = false ∧ q1.mayFetch = true ∧ (qc goodQ).mayFetch = false
    ∧ (fetching q1).sqCheck ((fetching q1).idOwner 0).isSome 0 0 = some St.opcodeInvalid
    ∧ q2.irqEn = true ∧ q2.coalTime ≠ 0 ∧ q2.unsignalled ≠ 0
    ∧ 1000 * q2.coalTime.toNat ≤ (atTime (fetching q2) 1000).since q2.firstUnsignalled ∧ memb.sys.primary = false
    ∧ FnRegs.reset.masked 0 = true ∧ openFn.masked 0 = false ∧ { openFn with msixTable := [(3, 1)] }.masked 0 = true
    ∧ { openFn with msixCtl := 0x4000 }.masked 0 = true
    ∧ (let d := { fetching q1 with host := { (fetching q1).host with queues := [(0, some q1), (1, some { q1 with pin := true })] } }
       d.queue 0 = some q1 ∧ q1.pin = false ∧ d.pinnedFirst = true ∧ (fetching q1).pinnedFirst = false)
    ∧ (3 : BitVec 2) ≠ 2 := by decide +kernel
/-- A CANCEL of partition 0 whose lead is another package: every check passes and its one target is position 1. -/
def away : Dev :=
  { fetching q1 with sys := { (fetching q1).sys with jobs := [(0, { valid := true, active := true, stopped := false, shape := 1 })] },
                     glob := { (fetching q1).glob with regs := [(Off.sysCtl / 4, 0xF)] }, part := cancelling.part }
theorem witness_EntriesAreFetchedCheckedAndForwarded_target :
    away.queue 0 = some q1 ∧ away.hostOn = true ∧ away.sqCheck (away.idOwner 0).isSome 0 3 = none ∧ away.stoppedResult 0 3 = none
    ∧ sqBody 3 none = some (.cancel 0) ∧ away.sys.position ∉ away.sqTargets 0 3 (.cancel 0)
    ∧ sqOp 3 ≠ 0x40 ∧ sqOp 3 ≠ 0x41 ∧ away.host.outstanding = [] := by decide +kernel

theorem witness_CxlLinkWindowAndMailboxAnswer :
    up.glob.modeErr = false ∧ { up.glob with modeErr := true }.modeErr = true
    ∧ { up.glob with cxlActive := true, hdmCommitted := true }.cxlActive = true ∧ up.glob.hdmCommitted = false
    ∧ up.windowOpenToHost = false ∧ { up with glob := { up.glob with memoryActive := true } }.windowOpenToHost = true
    ∧ { up.glob with locks := 2 }.locks.getLsbD 1 = true ∧ up.glob.locks.getLsbD 1 = false
    ∧ { up.glob with timestamp := 1 }.timestamp ≠ 0 := by decide +kernel

/-! Links and the system. -/

/-- A package whose port 5 is enabled and in a state. -/
def port5 (p : Port) : Dev :=
  { up with link := { up.link with ports := [(5, p)] }, glob := { up.glob with regs := [(Off.flCtl 5 / 4, 0x640001)], timeNs := 8000000 },
            sec := owned.sec }
def peer0 : PeerIdentity := { chainOk := true, ownerDigest := 1, provisioned := true, transcriptOk := true }
def upPort : Port := { Port.reset with state := 3, width := 8, keyed := true, keySet := 1 }
theorem witness_PortsTrainKeyAndFail :
    (5 : Nat) < 6
    ∧ (let d := port5 Port.reset
       d.phyOn = true ∧ d.portOn 5 = true ∧ (d.port 5).state = 0 ∧ d.rst.phase = .ready ∧ d.rst.serUp = true ∧ d.laneOff 5 = 0
         ∧ d.deadLanes 5 = 0 ∧ (d.port 5).retrainAt = none ∧ (d.port 5).faulty = 0 ∧ (d.port 5).peerBad = 0 ∧ (d.port 5).heldDown = false
         ∧ (d.port 5).replay.length < 1024)
    ∧ (port5 { Port.reset with state := 1, faulty := 1, peerBad := 2, hostRetrain := true }).port 5 ≠ Port.reset
    ∧ { Port.reset with heldDown := true }.heldDown = true
    ∧ (let d := port5 { Port.reset with state := 2 }
       (d.port 5).state = 2 ∧ d.keysAgree peer0 = true ∧ d.keysAgree { peer0 with ownerDigest := 2 } = false)
    ∧ (let d := port5 { upPort with txSeq := 0x10000000000 }
       (d.port 5).state = 3 ∧ (d.port 5).keyed = true ∧ 2 ^ 40 * (d.port 5).keySet ≤ (d.port 5).txSeq.toNat ∧ d.keysAgree peer0 = true)
    ∧ (let d := port5 { upPort with state := 1, retrainAt := some 0 }
       (d.port 5).retrainAt = some 0 ∧ (d.port 5).state = 1 ∧ 8000000 ≤ d.since 0)
    ∧ (let d := port5 upPort
       (d.port 5).state ≠ 0 ∧ (d.port 5).state ≠ 5 ∧ 8000000 ≤ d.since (d.port 5).helloAt ∧ (d.port 5).faulty.getLsbD 7 = false
         ∧ (d.laneOff 5).getLsbD 7 = false ∧ d.dropMode 5 = false ∧ (List.replicate 8 101).length = 8
         ∧ laneWidth (d.healthy 5 &&& 0) = 0 ∧ laneWidth (d.healthy 5 &&& 0x0F) ≠ 0)
    ∧ { port5 upPort with glob := { (port5 upPort).glob with regs := [(Off.flCtl 5 / 4, 0x640003)] } }.dropMode 5 = true
    ∧ (let d := port5 { upPort with helloAt := 1 }; d.since (d.port 5).helloAt < 8000000) := by decide +kernel

def flit0 : Flit := { fecOk := true, tagOk := true, vc := 0, type := 0, seq := 0, ack := 0, dl := false, message := 0, head := 0, nakSeq := 0, credits := [0, 0, 0, 0] }
def hello0 (port : Nat) : Hello :=
  { node := 1, spare := false, port := port, coordValid := false, position := 0, role := 0, fenced := false, gwCapable := true, lanes := 255,
    leaseEpoch := 0, sysId := 0, seq := 0, txTime := 0 }
theorem witness_FlitsAreTakenInOrderAndHellosBeat :
    ((port5 upPort).port 5).state = 3 ∧ ((port5 upPort).port 5).keyed = true ∧ { flit0 with fecOk := false }.fecOk = false
    ∧ { flit0 with tagOk := false }.tagOk = false ∧ flit0.fecOk = true ∧ flit0.tagOk = true
    ∧ flit0.seq = ((port5 upPort).port 5).rxSeq.extractLsb' 0 12 ∧ flit0.type ≠ 3 ∧ { flit0 with type := 3 }.type = 3
    ∧ (let f := { flit0 with type := 2, head := messageHeader 0 0 0 0 0 0xFF }
       f.type = 2 ∧ (port5 upPort).isMine (headDst f.head) = false ∧ kindOnVc (headKind f.head) 1 = true ∧ kindOnVc (headKind f.head) 3 = false)
    ∧ { flit0 with seq := 1 }.seq ≠ ((port5 upPort).port 5).rxSeq.extractLsb' 0 12
    ∧ (((port5 { upPort with tagFails := List.replicate 15 8000000 }).port 5).tagFails.filter fun t =>
        decide ((port5 upPort).since t < 1000000)).length = 15
    ∧ ((port5 upPort).port 5).replay.length < 1024
    ∧ { upPort with replay := List.replicate 1024 { seq := 0, message := 0, header := 0, iv := 0, first := false, replayed := 0 } }.replay.length ≥ 1024 ∧ (hello0 4).port = (if 5 % 2 = 0 then 6 else 5 - 1)
    ∧ ¬ (hello0 5).port = (if 5 % 2 = 0 then 6 else 5 - 1) ∧ Port.reset.keyed = false
    ∧ (let d := port5 upPort
       let d := { d with sys := { d.sys with aligned := true, gwNode := 1, route := [(1, 5)] } }
       d.parentPort = some 5 ∧ d.sys.aligned = true
         ∧ 1000 < ((hello0 4).txTime + BitVec.ofNat 64 upPort.delay - d.now).toInt.natAbs) := by decide +kernel

/-- The primary that began formation at time 0. -/
def forming (n : Nat) : Dev := atTime { prim with sys := { prim.sys with collecting := some 0, formed := false } } n
def push0 : RoutePush := { activation := 8, jobs := [0], posMap := [(0, 0x80)], routes := [], topo := [], collide := [], standby := none }
/-- The primary with a system of one more package and a spare in line between them. -/
def withTopo : Dev :=
  { prim with glob := { prim.glob with regs := [(Off.sysCtl / 4, 0x000A0041)] }
              sys := { prim.sys with
                jobs := [(0, { valid := true, active := true, stopped := false, shape := 0x40 })]
                topo := [{ node := 0, spare := false, gwCapable := true, far := [(0, 1, 1), (1, 9, 0)] },
                         { node := 1, spare := false, gwCapable := true, far := [(0, 9, 1), (1, 0, 0)] },
                         { node := 9, spare := true, gwCapable := false, far := [(0, 0, 1), (1, 1, 0)] }]
                tables := [(0, [(0, 6), (1, 0), (9, 1)]), (1, [(1, 6), (0, 1), (9, 0)]), (9, [(9, 6), (0, 0), (1, 1)])] } }
theorem witness_FormationRoutesAndTimeFollowThePrimary :
    (forming 5000000).sys.collecting = some 0 ∧ (forming 5000000).sys.primary = true ∧ 5000000 ≤ (forming 5000000).since 0
    ∧ (forming 4999999).since 0 < 5000000 ∧ (forming 0).sizeOk = true
    ∧ (let d := forming 5000000
       let rs : List TopoReport := [{ node := d.glob.node, spare := false, gwCapable := true, far := [] }]
       let w := d.walk rs 128 [(d.glob.node, 0)]
       (rs.filter fun r => r.node == d.glob.node || (rs.filter fun q => q.node == r.node).length == 1) = rs ∧ (0, 0) ∈ w.1
         ∧ d.formError rs w.1 w.2 = 0 ∧ d.formError [] (d.walk [] 128 [(d.glob.node, 0)]).1 (d.walk [] 128 [(d.glob.node, 0)]).2 ≠ 0)
    ∧ (let d := atTime { memb with sys := { memb.sys with push := [push0] } } 8
       d.sys.push = [push0] ∧ push0.activation.toNat ≤ d.now.toNat ∧ d.sys.primary = false ∧ d.sys.standbySync = false)
    ∧ (atTime memb 7).now.toNat < push0.activation.toNat ∧ memb.sys.aligned = false
    ∧ { memb.sys with aligned := true }.aligned = true ∧ busyUp.busy = true ∧ memb.busy = false
    ∧ prim.now.toNat + 2000000 < 2 ^ 64 ∧ prim.present 1 = true ∧ 1 ≠ prim.sys.position ∧ prim.present 63 = false
    ∧ (prim.jobSetup 63).stopped = false ∧ prim.rst.phase = .ready ∧ prim.jobHasRequests 63 = false
    ∧ withPart.jobFits 63 0x80000000 = true ∧ withPart.jobFits 63 0x800000C0 = false ∧ prim.jobFits 63 0x80000000 = false
    ∧ { cancelling with sys := { cancelling.sys with primary := true } }.jobHasRequests 0 = true := by decide +kernel
theorem witness_FormationRoutesAndTimeFollowThePrimary_more :
    SysBlk.reset.topoAt = none ∧ (forming 4999999).since 0 < 5000000
    ∧ (let r : List TopoReport := [{ node := 9, spare := false, gwCapable := false, far := [] }, { node := 9, spare := true, gwCapable := false, far := [] }]
       let d := port5 { upPort with peerNode := 9 }
       (r.any fun x => x.node == (d.port 5).peerNode && x.node != d.glob.node && (r.filter fun q => q.node == x.node).length != 1) = true
         ∧ (d.port 5).state ≠ 0)
    ∧ (prim.breakLink 1 0).cutOff = [1] ∧ (withTopo.breakLink 1 0).cutOff = [] ∧ (withTopo.declareLost 1).routeSetOk (withTopo.declareLost 1).sys.tables = true
    ∧ (let d := atTime { prim with sys := { prim.sys with unreached := [(1, 0)] } } 10000000
       (d.sys.unreached.any fun e => e.1 == 1 && decide (10000000 ≤ d.since e.2)) = true ∧ d.present 1 = true ∧ d.ledger.crocusAsked.contains (d.nodeAt 1) = false
         ∧ d.part.staged = [] ∧ { d with glob := { d.glob with regs := [(Off.sysCtl / 4, 0x000A0001)] } }.spareEn = false)
    ∧ (atTime { prim with sys := { prim.sys with unreached := [(1, 0)] } } 9999999).since 0 < 10000000
    ∧ prim.present 2 = false ∧ prim.jobVersion 0 = 0
    ∧ (1 : BitVec 2) ≠ 2 ∧ (2 : BitVec 2) ≠ 3
    ∧ (let d := port5 upPort
       { d with sys := { d.sys with aligned := true, gwNode := 1, route := [(1, 5)] } }.parentPort = some 5)
    ∧ prim.spareEn = true ∧ prim.sys.standbySync = false
    ∧ prim.breakLink 1 0 ≠ prim ∧ (prim.breakLink 1 0).routeSetOk (prim.marked { activation := 0, tables := [] } ++ prim.sys.tables) = true
    ∧ acyclic 1 [((1, 0, false), (2, 0, false))] = true ∧ (withTopo.breakLink 1 0).routeSetOk withTopo.sys.tables = false
    ∧ (withTopo.breakLink 1 0).routeSetOk ([(1, [(9, 1)]), (9, [(1, 0)])] ++ withTopo.sys.tables) = true
    ∧ (let l := withTopo.declareLost 1
       l.spareEn = true ∧ (l.sys.jobs.map Prod.fst).filter (fun p => (l.jobSetup p).valid) = [0]
         ∧ (l.members 0).filter l.unfilled = [1] ∧ l.bestSpare l.freeSpares 1 = some 9 ∧ l.jobsAt 1 = [0])
    ∧ (let d := { prim with sys := { prim.sys with jobs := [(63, { valid := true, active := true, stopped := true, shape := 0 })],
                                                   awaiting := [(63, 0)] } }
       d.sys.awaiting = [(63, 0)] ∧ (d.members 63)[0]? = some 0 ∧ (d.jobSetup 63).stopped = true
         ∧ (d.members 63).all d.present = true) := by decide +kernel

/-- A package at time `n` whose system block is `x`. -/
def withSys (x : SysBlk) (n : Nat) : Dev := atTime { prim with sys := x } n
theorem witness_LeaseFenceAndStandbyKeepOneGateway :
    prim.rst.phase = .ready ∧ (0 : U32).toNat < { prim.sys with highEpoch := 1 }.highEpoch.toNat ∧ (1 : U32) ≠ 0 ∧ prim.sys.highEpoch.toNat ≤ 0
    ∧ up.glob.cxlActive = false ∧ prim.glob.cxlActive = true ∧ prim.sys.formed = true ∧ prim.sys.primary = true
    ∧ SysBlk.reset.formed = false ∧ SysBlk.reset.collecting = none ∧ memb.sys.primary = false ∧ memb.sys.formed = true
    ∧ (let d := withSys { prim.sys with leaseValid := true } 299999999; d.sys.leaseValid = true ∧ d.since d.sys.leaseAt < 300000000)
    ∧ (let d := withSys { prim.sys with leaseValid := true } 300000000; 300000000 ≤ d.since d.sys.leaseAt)
    ∧ (let d := withSys { memb.sys with fenced := true, rejoining := true, aligned := true } 0
       d.sys.fenced = true ∧ d.sys.rejoining = true ∧ d.sys.aligned = true ∧ d.power.sweepLeft = [])
    ∧ { memb.sys with fenced := true }.rejoining = false ∧ (withSys memb.sys 9999999).since memb.sys.beaconAt < 10000000
    ∧ (let d := withSys memb.sys 10000000
       d.sys.formed = true ∧ d.sys.fenced = false ∧ d.sys.leaseValid = false ∧ 10000000 ≤ d.since d.sys.beaconAt)
    ∧ (let d := { prim with glob := { prim.glob with regs := [(Off.sysGwCtl / 4, 0x81)] }
                            sys := { prim.sys with route := [(1, 5)], topo := [{ node := 1, spare := false, gwCapable := true, far := [] }] } }
       d.standbyNode = some 1 ∧ d.mayStandBy 1 = true ∧ d.sys.standbySync = false ∧ prim.mayStandBy 1 = false)
    ∧ { memb.sys with standbySync := true }.standbySync = true ∧ (prim.reg Off.dbBase).getLsbD 0 = false
    ∧ { memb.sys with leaseValid := true, leaseEpoch := 1, highEpoch := 1 }.highEpoch.toNat ≤ (2 : U32).toNat
    ∧ (decide ((1 : U32).toNat > memb.sys.highEpoch.toNat) || (0 : BitVec 7) != memb.sys.gwNode || decide ((0 : U64).toNat > memb.sys.beaconTime.toNat)) = true
    ∧ (decide ((0 : U32).toNat > memb.sys.highEpoch.toNat) || (0 : BitVec 7) != memb.sys.gwNode || decide ((0 : U64).toNat > memb.sys.beaconTime.toNat)) = false
    ∧ memb.part.staged = [] ∧ memb.stack.loads = []
    ∧ (let c : FwdCmd := ⟨org, .cancel 0⟩
       { prim.sys with standbyHeld := [.context, .write (.buffer 0 0 []), .command 1 c] }.standbyHeld ≠ [] ∧ 1 ≠ prim.sys.position)
    ∧ (2 : BitVec 2) ≠ 3
    ∧ prim.sys.standbyHeld = [] ∧ (1 : Nat) ≠ prim.sys.position ∧ 0 ∈ prim.myJobs ∧ prim.isLead 0 = true := by decide +kernel

/-! Messages and registers. -/

/-- A package whose window 7 is open to one block of a workspace of partition 0. -/
def openWin : Dev := { up with stack := { up.stack with regions := [(9, 0x8048000000800005)] }, link := { up.link with windows := [(7, { Window.closed with isOpen := true, blocks := 1, base := 5, epoch := 3 })] } }
def write0 (offset : BitVec 24) (epoch : U16) (partition : Nat) : WinWrite :=
  { src := 1, partition := partition, offset := offset, xfer := 0, epoch := epoch, windowId := 7, body := List.replicate 64 1 }
theorem witness_WindowWritesPassTheirChecksInOrder :
    (up.window 7).isOpen = false ∧ (openWin.window 7).isOpen = true ∧ (write0 255 4 0).epoch ≠ (openWin.window 7).epoch
    ∧ (write0 255 3 0).epoch = (openWin.window 7).epoch ∧ (write0 255 3 1).partition ≠ (openWin.window 7).partition
    ∧ (write0 256 3 0).partition = (openWin.window 7).partition
    ∧ 64 * (write0 256 3 0).offset.toNat + (write0 256 3 0).body.length > 16384 * (openWin.window 7).blocks
    ∧ 64 * (write0 255 3 0).offset.toNat + (write0 255 3 0).body.length ≤ 16384 * (openWin.window 7).blocks
    ∧ openWin.unitMay 0 (16384 * 5 + 64 * 255) 64 = true
    ∧ { openWin with stack := { openWin.stack with regions := (List.range 128).map fun i => (i, 0) } }.unitMay 0 (16384 * 5 + 64 * 255) 64 = false
    ∧ (∀ i < 2, ∀ j < 2, openWin.mapAddr (16384 * 5 + 64 * 255 + j) = openWin.mapAddr (16384 * 5 + 64 * 255 + i) → j = i) := by decide +kernel

def transfer0 : Transfer := { xfer := 9, windowId := 7, partition := 0, sentAt := 0, done := none, step := none }
theorem witness_MessagesReachTheirUnit :
    lead.serving = true ∧ lead.isMember 0 = true ∧ Dev.reset.serving = false ∧ up.isMember 0 = false ∧ (1 : BitVec 2) ≠ 2 ∧ (2 : BitVec 2) ≠ 1
    ∧ (transfer0.xfer = 9 ∧ transfer0.windowId = 7 ∧ transfer0.done = none)
    ∧ ({ transfer0 with step := some 7 }.step = some 7 ∧ up.isLead 0 = false ∧ St.windowClosed ≠ St.success)
    ∧ 10000000 ≤ (atTime up 10000000).since transfer0.sentAt ∧ up.link.transfers = []
    ∧ { up with obs := { up.obs with watches := [(15, some ⟨org, watch0, 0, [], false, 0⟩)] } }.watch 0 15
        = some ⟨org, watch0, 0, [], false, 0⟩
    ∧ (let d := { up with part := { up.part with inForce := [(0, { PartEntry.none with cfg := 0x8000000000000000, quota := 64 })] } }
       d.graftOwner 63 = some 0 ∧ d.partStatusOf 0 part0 = 0)
    ∧ lead.memberIndex 0 = some 0 ∧ (lead.commit 0).version = 0 ∧ (lead.commit 0).digest = 0
    ∧ up.sys.awaiting = [] ∧ up.sys.primary = false ∧ up.memberIndex 0 ≠ some 0 ∧ { desc0 with lookup := true }.lookup = true
    ∧ 262143 + [some (0 : U32)].length ≤ 262144
    ∧ (lead.memberIndex 0 ≠ some 1) ∧ (4096 : Nat) ≤ 16384 * (up.kindAt 2).2 ∧ 16384 * (up.kindAt 2).2 < 2 ^ 40
    ∧ (let x : Replica := { Replica.none with heldValid := true, form := [{ n := 3, part := 5, length := 64, contents := [] }] }
       x.heldValid = true ∧ (x.form.find? fun y => y.n == 3) = some { n := 3, part := 5, length := 64, contents := [] })
    ∧ up.hasBuffer { partition := 0, handle := 0, pos := 5, first := 262143, values := [some 0] } = false := by decide +kernel

theorem witness_RegistersKeepTheirRules :
    prim.bar 0 = true ∧ Dev.reset.bar 64 = false ∧ accessOk Off.arith 4 = true ∧ accessOk Off.arith 2 = false ∧ accessOk 0 3 = false
    ∧ (∃ o, accessOk o 4 = true ∧ secOffset o = true) ∧ { prim.glob with locks := 2 }.locks.getLsbD 1 = true
    ∧ prim.glob.modeErr = false ∧ { prim.glob with modeErr := true }.modeErr = true ∧ Off.arith < bar2Base 0
    ∧ prim.bar 64 = true ∧ up.isLead 63 = false ∧ vfOffset 63 3 = none
    ∧ (∃ o, targetBlock o = true) ∧ { prim with glob := { prim.glob with regs := [(Off.globalTarget / 4, 0x3F)] } }.targetSelf = false
    ∧ { up with rst := { up.rst with phase := .booting } }.bar 0 = false ∧ busyUp.busy = true ∧ busyUp.busyJobs = [0]
    ∧ regAtMember Off.arith = some none ∧ prim.freeFor Off.reqCtl = false ∧ prim.ledger.crocusState ≠ 1 ∧ (0x80000000 : U64).getLsbD 31 = true := by
  refine ⟨by decide +kernel, by decide +kernel, by decide +kernel, by decide +kernel, by decide +kernel, ⟨0x100000, by decide +kernel⟩,
    by decide +kernel, by decide +kernel, by decide +kernel, by decide +kernel, by decide +kernel, by decide +kernel, by decide +kernel,
    ⟨0x20000, by decide +kernel⟩, by decide +kernel, by decide +kernel,
    by decide +kernel, by decide +kernel, by decide +kernel, by decide +kernel, by decide +kernel, by decide +kernel⟩

/-- BAR2 (R245, R271): a masked vector stays pending until its mask is cleared. -/
theorem test_msix_mask :
    (let d := ((withFn openFn).writeTable 0 12 4 1).msix 0 0
     d.bar2Word 0 0x8000 = 1 ∧ d.host.writes = [] ∧ (d.writeTable 0 12 4 0).host.writes = [.msix 0 0 0 0]) := by decide +kernel

/-! The remaining statements of the system's observation. -/

/-- The primary that traces partition 0: device and PC records, a ring of one block, and a host ring of 16 pages. -/
def tracing (ctl : U64) (ns : Nat) : Dev :=
  atTime { prim with glob := { prim.glob with inForce := [(Off.traceCtl 0 / 4, ctl.extractLsb' 0 32), (Off.traceCtl 0 / 4 + 1, ctl.extractLsb' 32 32),
                                                          (Off.traceRing 0 / 4, 0xD80000), (Off.traceRing 0 / 4 + 1, 0), (Off.traceHost 0 / 4, 4)] },
                     part := { prim.part with inForce := [(0, { PartEntry.none with cfg := 0x8000000000000000, clusters := 1 })] } } ns
theorem witness_TraceSampleWritesLatchedCounters :
    (let d := tracing 0xA000000000000000 1000
     d.traceOn 0 = true ∧ d.now.toNat % (1000 * d.traceInterval 0) = 0 ∧ d.traceCl 0 = false ∧ d.traceDev 0 = true
       ∧ d.traceRing 0 = Ring.empty ∧ 1 ≤ d.ringPages 0 ∧ d.ringAllowed 0 = true)
    ∧ (let d := tracing 0x9000000000000000 1000
       d.traceOn 0 = true ∧ d.now.toNat % (1000 * d.traceInterval 0) = 0 ∧ d.traceCl 0 = true ∧ d.traceDev 0 = false ∧ d.partClusters 0 = [0]
       ∧ d.ringAllowed 0 = true)
    ∧ (let d := tracing 0xA000000000000000 1000
       { d with stack := { d.stack with regions := [(5, 0)] } }.ringAllowed 0 = false)
    ∧ (tracing 0xA000000000000000 999).now.toNat % (1000 * (tracing 0xA000000000000000 999).traceInterval 0) ≠ 0
    ∧ (let d := tracing 0xC500000000000000 1024
       d.clusterOwner 0 = some 0 ∧ d.traceOn 0 = true ∧ d.tracePc 0 = true ∧ d.now.toNat % 2 ^ d.pcLog2 0 = 0)
    ∧ (let d := tracing 0xA000000000000000 1000
       let d := { d with obs := { d.obs with rings := [(0, { Ring.empty with pages := [{ slot := 0, records := [] }] })] } }
       d.traceLog2 0 = some 4 ∧ (d.traceRing 0).pages = { slot := 0, records := [] } :: [] ∧ (tracing 0xA000000000000000 1000).stack.remap = [] ∧ d.sys.primary = true ∧ (d.traceRing 0).heldBack = [] ∧ d.hostRingFull 0 = false)
    ∧ memb.sys.primary = false := by decide +kernel

def watching (fired : Bool) : Dev := { lead with obs := { lead.obs with watches := [(15, some ⟨org, watch0, 0, [], fired, 0⟩)] } }
theorem witness_CounterPushesAndWatchDumpsReachTheGateway :
    prim.sys.primary = true ∧ memb.sys.primary = false ∧ { memb.sys with standby := true }.standby = true
    ∧ (watching true).watch 0 15 = some ⟨org, watch0, 0, [], true, 0⟩ ∧ (watching false).watch 0 15 = some ⟨org, watch0, 0, [], false, 0⟩
    ∧ lead.sys.primary = false := by decide +kernel

end Sys2Proof.Tests
end

section
/-! SUPPORT. The set-up registers: what a stored word changes, which writes store one word only, and the commands through which
a function reaches them. -/

namespace Sys2Proof.Machine

/-! ### Frames -/

/-- A command that answers a next state with `d'` runs to `d'`. -/
theorem Runs.of_next {i : Instr} {s : State} {d' : Dev} {post : Dev → Prop} (h : exec i s = .next { s with dev := d' })
    (hp : post d') : Runs i s post := ⟨d', h, hp⟩

theorem Dev.only_refl (d : Dev) (bs : List Blk) : d.only d bs := fun b _ => by cases b <;> rfl

theorem Dev.only_trans {d d₁ d₂ : Dev} {bs : List Blk} (h₁ : d.only d₁ bs) (h₂ : d₁.only d₂ bs) : d.only d₂ bs := by
  intro b hb
  have e₁ := h₁ b hb
  have e₂ := h₂ b hb
  cases b <;> exact Eq.trans e₂ e₁

theorem Dev.only_mono {d d' : Dev} {bs cs : List Blk} (h : d.only d' bs) (hs : bs ⊆ cs) : d.only d' cs :=
  fun b hb => h b fun hm => hb (hs hm)

theorem Dev.only_glob (d : Dev) (g : Glob) : d.only { d with glob := g } [.glob] := by
  intro b hb
  cases b with
  | glob => simp at hb
  | _ => rfl

theorem Dev.only_host (d : Dev) (x : HostBlk) : d.only { d with host := x } [.host] := by
  intro b hb
  cases b with
  | host => simp at hb
  | _ => rfl

theorem Dev.only_ledger (d : Dev) (x : LedgerBlk) : d.only { d with ledger := x } [.ledger] := by
  intro b hb
  cases b with
  | ledger => simp at hb
  | _ => rfl

/-- Work along a list touches the blocks that each piece of it touches. -/
theorem Dev.only_forAll {α : Type} {f : Dev → α → Dev} {bs : List Blk} (h : ∀ (d : Dev) (a : α), d.only (f d a) bs)
    (xs : List α) (d : Dev) : d.only (d.forAll xs f) bs :=
  Dev.forAll_holds (fun x => d.only x bs) f (fun _ a hd => Dev.only_trans hd (h _ a)) xs d (d.only_refl bs)

/-! ### One word written -/

/-- A read at another key, whatever default either side takes. -/
theorem SMap.get_put_other {α : Type} [DecidableEq α] (z z' : α) (m : SMap α) {k j : Nat} (v : α) (h : j ≠ k) :
    SMap.get z (SMap.put z' m k v) j = SMap.get z m j := by
  have hf : SMap.get z (m.filter fun e => e.1 != k) j = SMap.get z m j := by
    rw [SMap.get_filter z m (fun i => i != k) j]; simp [h]
  unfold SMap.put
  split
  · exact hf
  · rw [SMap.get_insert z _ k j v fun e he => by simpa using (List.mem_filter.mp he).2, if_neg h, hf]

@[simp] theorem Dev.reg_setReg_same (d : Dev) (o : Nat) (w : U32) : (d.setReg o w).reg o = w := SMap.get_put_same _ _ _ _
theorem Dev.reg_setReg_other (d : Dev) {o x : Nat} (w : U32) (h : x / 4 ≠ o / 4) : (d.setReg o w).reg x = d.reg x :=
  SMap.get_put_other _ _ _ w h
@[simp] theorem Dev.regIn_setRegIn_same (d : Dev) (o : Nat) (w : U32) : (d.setRegIn o w).regIn o = w := SMap.get_put_same _ _ _ _
theorem Dev.regIn_setRegIn_other (d : Dev) {o x : Nat} (w : U32) (h : x / 4 ≠ o / 4) : (d.setRegIn o w).regIn x = d.regIn x :=
  SMap.get_put_other _ _ _ w h

/-- `~~~0` as `simp` writes it. -/
theorem U32.and_full (w : U32) : w &&& 4294967295#32 = w := BitVec.and_allOnes

/-! ### A stored word (R13 to R15, R443) -/

/-- The RWL bits of the word at `o` whose lock is set (R15, R448). -/
def Dev.lockedBits (d : Dev) (o : Nat) : U32 := match regLock o with
  | some (k, bs) => if d.glob.locks.getLsbD k then bs else 0
  | none => 0

/-- The bits of the word at `o` that a write changes. -/
def Dev.openBits (d : Dev) (o : Nat) : U32 := regMask o &&& ~~~d.lockedBits o

/-- The word at `o` after a write of `v`. -/
def Dev.written (d : Dev) (o : Nat) (v : U32) : U32 := (d.reg o &&& ~~~d.openBits o) ||| (v &&& d.openBits o)

/-- The word is stored, and then in force at once, owed by the jobs in a step, or left to its boundary. -/
theorem Dev.storeWord_cases (d : Dev) (o : Nat) (v : U32) :
    (d.freeFor o = true ∧ d.storeWord o v = (d.setReg o (d.written o v)).setRegIn o (d.written o v))
    ∨ (d.freeFor o = false ∧ ∃ owed, d.storeWord o v = { d.setReg o (d.written o v) with glob :=
          { (d.setReg o (d.written o v)).glob with regsOwed := owed } }
        ∧ (regAtMember o = some none → ∀ p ∈ d.busyJobs, p ∈ owed)) := by
  have e : d.storeWord o v = if d.freeFor o then (d.setReg o (d.written o v)).setRegIn o (d.written o v)
      else if regAtMember o = some none then { d.setReg o (d.written o v) with glob := { (d.setReg o (d.written o v)).glob with
        regsOwed := d.glob.regsOwed ++ d.busyJobs.filter fun p => !d.glob.regsOwed.contains p } }
      else d.setReg o (d.written o v) := rfl
  by_cases hf : d.freeFor o = true
  · exact .inl ⟨hf, by rw [e, if_pos hf]⟩
  · refine .inr ⟨by simpa using hf, ?_⟩
    by_cases hm : regAtMember o = some none
    · refine ⟨_, by rw [e, if_neg hf, if_pos hm], fun _ p hp => ?_⟩
      by_cases ho : p ∈ d.glob.regsOwed <;> simp [ho, hp]
    · exact ⟨d.glob.regsOwed, by rw [e, if_neg hf, if_neg hm]; rfl, fun h => absurd h hm⟩

theorem Dev.storeWord_only (d : Dev) (o : Nat) (v : U32) : d.only (d.storeWord o v) [.glob] := by
  obtain ⟨-, e⟩ | ⟨-, owed, e, -⟩ := d.storeWord_cases o v <;> rw [e] <;> exact d.only_glob _

/-- The stored words after the write. -/
theorem Dev.reg_storeWord (d : Dev) (o : Nat) (v : U32) (x : Nat) :
    (d.storeWord o v).reg x = (d.setReg o (d.written o v)).reg x := by
  obtain ⟨-, e⟩ | ⟨-, owed, e, -⟩ := d.storeWord_cases o v <;> rw [e] <;> rfl

theorem Dev.reg_storeWord_same (d : Dev) (o : Nat) (v : U32) : (d.storeWord o v).reg o = d.written o v := by
  rw [d.reg_storeWord, d.reg_setReg_same]

theorem Dev.reg_storeWord_other (d : Dev) {o x : Nat} (v : U32) (h : x / 4 ≠ o / 4) : (d.storeWord o v).reg x = d.reg x := by
  rw [d.reg_storeWord, d.reg_setReg_other _ h]

theorem Dev.regIn_storeWord_of_free {d : Dev} {o : Nat} (v : U32) (h : d.freeFor o = true) :
    (d.storeWord o v).regIn o = d.written o v := by
  obtain ⟨-, e⟩ | ⟨hf, -⟩ := d.storeWord_cases o v
  · rw [e, Dev.regIn_setRegIn_same]
  · rw [h] at hf; cases hf

theorem Dev.regIn_storeWord_of_waits {d : Dev} {o : Nat} (v : U32) (h : d.freeFor o = false) (x : Nat) :
    (d.storeWord o v).regIn x = d.regIn x := by
  obtain ⟨hf, -⟩ | ⟨-, owed, e, -⟩ := d.storeWord_cases o v
  · rw [h] at hf; cases hf
  · rw [e]; rfl

theorem Dev.regIn_storeWord_other (d : Dev) {o x : Nat} (v : U32) (h : x / 4 ≠ o / 4) :
    (d.storeWord o v).regIn x = d.regIn x := by
  obtain ⟨-, e⟩ | ⟨hf, -⟩ := d.storeWord_cases o v
  · rw [e, Dev.regIn_setRegIn_other _ _ h]; rfl
  · exact Dev.regIn_storeWord_of_waits v hf x

/-- A device-wide word that waits is owed by every job in a step (log 136). -/
theorem Dev.busyJobs_owe_storeWord {d : Dev} {o : Nat} (v : U32) (hf : d.freeFor o = false) (hm : regAtMember o = some none) :
    ∀ p ∈ d.busyJobs, p ∈ (d.storeWord o v).glob.regsOwed := by
  obtain ⟨h, -⟩ | ⟨-, owed, e, ho⟩ := d.storeWord_cases o v
  · rw [hf] at h; cases h
  · rw [e]; exact ho hm

theorem Dev.written_of_unlocked (d : Dev) {o : Nat} (v : U32) (h : regLock o = none) :
    d.written o v = (d.reg o &&& ~~~regMask o) ||| (v &&& regMask o) := by
  simp [Dev.written, Dev.openBits, Dev.lockedBits, h, U32.and_full]

theorem Dev.openBits_of_regMask_zero (d : Dev) {o : Nat} (h : regMask o = 0) : d.openBits o = 0 := by simp [Dev.openBits, h]

theorem Dev.openBits_of_locked {d : Dev} {o k : Nat} (h : regLock o = some (k, 0xFFFFFFFF)) (hk : d.glob.locks.getLsbD k = true) :
    d.openBits o = 0 := by
  have hl : d.lockedBits o = 0xFFFFFFFF := by simp [Dev.lockedBits, h, hk]
  rw [Dev.openBits, hl]; simp

/-- A word with no bit to change keeps every register. -/
theorem Dev.reg_storeWord_of_closed {d : Dev} {o : Nat} (v : U32) (h : d.openBits o = 0)
    (hr : ∀ x, x / 4 = o / 4 → regReset x = regReset o) (x : Nat) : (d.storeWord o v).reg x = d.reg x := by
  by_cases hx : x / 4 = o / 4
  · have same : ∀ d : Dev, d.reg x = d.reg o := fun d => by rw [Dev.reg, Dev.reg, hr x hx, hx]
    rw [same, same, Dev.reg_storeWord_same, Dev.written, h]; simp [U32.and_full]
  · exact Dev.reg_storeWord_other d v hx

/-! ### Words that wait for a member boundary (R443, log 74) -/

theorem Dev.freeFor_of_idle {d : Dev} {o : Nat} (hb : d.busy = false) (hl : regAtLead o = none)
    (hm : regAtMember o = none ∨ regAtMember o = some none) : d.freeFor o = true := by
  obtain hm | hm := hm <;> simp [Dev.freeFor, hl, hm, hb]

theorem Dev.not_freeFor_of_busy {d : Dev} {o : Nat} (hb : d.busy = true) (hm : regAtMember o = some none) :
    d.freeFor o = false := by
  cases hl : regAtLead o <;> simp [Dev.freeFor, hl, hm, hb]

/-! ### Offsets that stand for one word -/

theorem off_values : Off.sysCtl = 0x10018 ∧ Off.sysGwCtl = 0x10028 ∧ Off.globalTarget = 0x10014 ∧ Off.budget = 0x40000
    ∧ Off.monA = 0x50000 ∧ Off.monB = 0x50008 ∧ Off.therm = 0x60000 ∧ Off.dbBase = 0x300100 ∧ Off.reqCtl = 0x400000
    ∧ Off.arith = 0x500000 ∧ Off.restore = 0x500004 ∧ Off.cal = 0x500008 ∧ Off.qual = 0x50000C ∧ Off.share = 0x700400
    ∧ Off.regionReq = 0x700410 ∧ Off.dahlia = 0x900000 ∧ Off.lupinKv = 0xA00000 ∧ Off.logIdx = 0x2100008
    ∧ Off.crocus = 0x2100010 := by decide

/-- An offset before the first or behind the last of the blocks lies in none of them. -/
theorem within_outside {o b n s w : Nat} (hs : 0 < s) (h : o < b ∨ b + n * s ≤ o) : within o b n s w = false :=
  eq_false_of_ne_true fun hw => by
    simp only [within, Bool.and_eq_true, decide_eq_true_eq, Nat.div_lt_iff_lt_mul hs] at hw
    omega

/-- A 4-byte write at `o` acts on that word alone: `o` is no part of a wide register nor of a pair that acts together. -/
def singleWord (o : Nat) : Bool :=
  decide (o % 4 = 0) && !secOffset o && (wideReg o).isNone && decide (o / 8 * 8 ≠ Off.sysCtl)
    && !within (o / 8 * 8) 0x200000 64 8 8 && !within (o / 8 * 8) 0x700000 128 8 8

/-- A write of the word at `o` does nothing but store it. -/
def storedOnly (o : Nat) : Bool :=
  decide (o ∉ [0x10010, Off.globalTarget, 0x10024, Off.sysGwCtl, 0x30000, Off.budget, 0x200300, Off.dbBase, Off.dbBase + 4,
      Off.share, Off.dahlia])
    && !within o 0x10100 64 4 4 && !within o 0x200200 64 4 4 && !within o 0x300000 64 4 4 && !within o 0x300108 1 0x28 0x28
    && !within o 0x800000 1 0x80 0x80 && !within o 0x600000 6 0x10000 4 && !within o 0x2000000 64 0x100 0x60

theorem accessOk_word {o : Nat} (h : o % 4 = 0) : accessOk o 4 = true := by simp [accessOk, h]

theorem Dev.writeReg_of_singleWord (d : Dev) (fn : Nat) {o : Nat} (v : U64) (h : singleWord o = true) :
    d.writeReg fn o 4 v = d.writePlain fn o (v.extractLsb' 0 32) := by
  simp only [singleWord, Bool.and_eq_true, decide_eq_true_eq, Bool.not_eq_true', Option.isNone_iff_eq_none] at h
  obtain ⟨⟨⟨⟨⟨h4, hsec⟩, hwide⟩, hsys⟩, hcfg⟩, hrg⟩ := h
  have hw : ∀ d : Dev, d.writeWord fn o (v.extractLsb' 0 32) = d.writePlain fn o (v.extractLsb' 0 32) := fun d => by
    simp only [Dev.writeWord, hwide]
  by_cases h8 : o % 8 = 0
  · rw [show o / 8 * 8 = o by omega] at hsys hcfg hrg
    simp [Dev.writeReg, accessOk_word h4, hsec, h8, Dev.writePair, hsys, hcfg, hrg, hw]
  · rw [show o / 8 * 8 = o - 4 by omega] at hsys hcfg hrg
    simp [Dev.writeReg, accessOk_word h4, hsec, h8, Dev.writePair, hsys, hcfg, hrg, show o - 4 + 4 = o by omega, hw]

/-- GO of LEDGER_CROCUS is set by a write of its last word, or of its last two. -/
theorem setsGo_access {o n : Nat} {v : U64} (h : setsGo o n v = true) :
    o = Off.crocus + 12 ∧ n = 4 ∨ o = Off.crocus + 8 ∧ n = 8 := by
  simp only [setsGo, Bool.or_eq_true, Bool.and_eq_true, beq_iff_eq] at h
  exact h.imp And.left And.left

theorem setsGo_of_singleWord {o n : Nat} (v : U64) (h : singleWord o = true) : setsGo o n v = false := eq_false_of_ne_true fun hg => by
  obtain ⟨rfl, rfl⟩ | ⟨rfl, rfl⟩ := setsGo_access hg <;> exact absurd h (by decide)

theorem Dev.writePf_of_singleWord (d : Dev) {o : Nat} (x : RegData) (h : singleWord o = true) :
    d.writePf o 4 x = d.writePlain 0 o (x.value.extractLsb' 0 32) := by
  simp only [Dev.writePf, setsGo_of_singleWord _ h, d.writeReg_of_singleWord 0 _ h]
  rfl

theorem Dev.writePlain_of_storedOnly (d : Dev) (fn : Nat) {o : Nat} (v : U32) (h : storedOnly o = true) :
    d.writePlain fn o v = d.storeWord o v := by
  simp only [storedOnly, Bool.and_eq_true, decide_eq_true_eq, Bool.not_eq_true', List.mem_cons, List.not_mem_nil, not_or] at h
  simp [Dev.writePlain, h]

/-! ### The commands on the registers -/

theorem bar2Base_pf : bar2Base 0 = 0x4000000 := rfl
theorem bar2Base_vf (p : Nat) : bar2Base (p + 1) = 0x100000 := rfl

theorem exec_registerWrite (fn o n : Nat) (v : RegData) (s : State) :
    exec (.registerWrite fn o n v) s = execRegisterWrite fn o n v s := rfl

theorem exec_wideRegisterRead (x : RegRead) (s : State) : exec (.wideRegisterRead x) s = execWideRegisterRead x s := rfl

theorem exec_remoteRegisterAccess (o n : Nat) (w : Option RegData) (reply : Option U64) (s : State) :
    exec (.remoteRegisterAccess o n w reply) s = execRemoteRegisterAccess o n w reply s := rfl

theorem exec_setLock (mask : BitVec 9) (s : State) : exec (.setLock mask) s = execSetLock mask s := rfl

/-- BAR0 of a function out of service takes no write (R386). -/
theorem exec_registerWrite_closed {s : State} {fn : Nat} (o n : Nat) (v : RegData) (h : s.dev.bar fn = false) :
    exec (.registerWrite fn o n v) s = .next s := by
  simp [exec_registerWrite, execRegisterWrite, State.on, h]

theorem exec_registerWrite_pf {s : State} {o : Nat} (n : Nat) (v : RegData) (h : s.dev.bar 0 = true) (ho : o < bar2Base 0) :
    exec (.registerWrite 0 o n v) s = .next { s with dev := s.dev.writePf o n v } := by
  simp [exec_registerWrite, execRegisterWrite, State.on, h, Nat.not_le.2 ho]

/-- An offset of a VF with no writable register takes no write (R446). -/
theorem exec_registerWrite_vf_absent {s : State} {p o : Nat} (n : Nat) (v : RegData) (ho : o < bar2Base (p + 1))
    (hx : vfOffset p o = none) : exec (.registerWrite (p + 1) o n v) s = .next s := by
  simp [exec_registerWrite, execRegisterWrite, State.on, Nat.not_le.2 ho, hx]

/-- A VF's write to a profile or a stop set is carried to the job's lead (R446). -/
theorem exec_registerWrite_vf_to_lead {s : State} {p o x : Nat} (n : Nat) (v : RegData) (h : s.dev.bar (p + 1) = true)
    (ho : o < bar2Base (p + 1)) (hx : vfOffset p o = some x) (hl : 0x1000000 ≤ x ∧ x < 0x2000000) (hp : s.dev.isLead p = false) :
    exec (.registerWrite (p + 1) o n v) s
      = .next { s with dev := s.dev.send (.registerAccess (BitVec.ofNat 8 ((s.dev.members p).headD 0)) x (some v.value)) } := by
  simp [exec_registerWrite, execRegisterWrite, State.on, h, Nat.not_le.2 ho, hx, hl, hp]

theorem exec_registerWrite_bar2 {s : State} {fn o : Nat} (n : Nat) (v : RegData) (h : s.dev.bar fn = true)
    (ho : bar2Base fn ≤ o) (hm : s.dev.glob.modeErr = false) :
    exec (.registerWrite fn o n v) s = .next { s with dev := s.dev.writeTable fn (o - bar2Base fn) n v.value } := by
  simp [exec_registerWrite, execRegisterWrite, State.on, h, ho, hm]

/-- In MODE_ERR BAR2 takes no write (R241). -/
theorem exec_registerWrite_bar2_of_modeErr {s : State} {fn o : Nat} (n : Nat) (v : RegData) (ho : bar2Base fn ≤ o)
    (hm : s.dev.glob.modeErr = true) : exec (.registerWrite fn o n v) s = .next s := by
  simp [exec_registerWrite, execRegisterWrite, State.on, ho, hm]

theorem exec_wideRegisterRead_closed {s : State} {x : RegRead} (h : s.dev.bar x.fn = false) :
    exec (.wideRegisterRead x) s = .next { s with dev := s.dev.answer (.word 0) } := by
  simp [exec_wideRegisterRead, execWideRegisterRead, State.on, h]

theorem exec_wideRegisterRead_pf {s : State} {o : Nat} (n : Nat) (reply : Option U64) (h : s.dev.bar 0 = true)
    (ho : o < bar2Base 0) :
    exec (.wideRegisterRead ⟨0, o, n, reply⟩) s
      = .next { s with dev := (s.dev.readReg 0 o n).2.answer (.word (s.dev.readReg 0 o n).1) } := by
  simp [exec_wideRegisterRead, execWideRegisterRead, State.on, h, Nat.not_le.2 ho]

theorem exec_wideRegisterRead_vf_at_lead {s : State} {p o : Nat} (n : Nat) (reply : Option U64) (h : s.dev.bar (p + 1) = true)
    (ho : o < bar2Base (p + 1)) (ha : vfAtLead o = true) (hp : s.dev.isLead p = false) :
    exec (.wideRegisterRead ⟨p + 1, o, n, reply⟩) s = .next { s with
      dev := (s.dev.send (.registerAccess (BitVec.ofNat 8 ((s.dev.members p).headD 0)) ((vfShown p o).getD 0) none)).answer
        (.word (reply.getD 0)) } := by
  simp [exec_wideRegisterRead, execWideRegisterRead, State.on, h, Nat.not_le.2 ho, ha, hp]

/-! ### What a write of PF BAR0 leaves as it was -/

/-- A wrong size or alignment writes nothing (R441). -/
theorem Dev.writePf_of_wrong_access (d : Dev) {o n : Nat} (x : RegData) (h : accessOk o n = false) : d.writePf o n x = d := by
  have hgo : setsGo o n x.value = false := eq_false_of_ne_true fun hg => by
    obtain ⟨rfl, rfl⟩ | ⟨rfl, rfl⟩ := setsGo_access hg <;> exact absurd h (by decide)
  simp [Dev.writePf, Dev.writeReg, h, hgo]

/-- The SEC block counts a write and ignores it (R398). -/
theorem Dev.writePf_of_secOffset (d : Dev) {o n : Nat} (x : RegData) (h : accessOk o n = true) (hs : secOffset o = true) :
    d.writePf o n x = d.count DC.secRegRefused := by
  have hgo : setsGo o n x.value = false := eq_false_of_ne_true fun hg => by
    obtain ⟨rfl, rfl⟩ | ⟨rfl, rfl⟩ := setsGo_access hg <;> exact absurd hs (by decide)
  simp [Dev.writePf, Dev.writeReg, h, hgo, hs]

/-! ### Offsets with no register, and the queue ranges -/

/-- Behind the LEDGER block the map has no word: none is wide or acts on more than itself, none can be written, all reset to 0
(R445). -/
theorem no_register {o : Nat} (h : 0x2200000 ≤ o) : regReset o = 0 ∧ regMask o = 0 ∧ wideReg o = none ∧ storedOnly o = true := by
  refine ⟨?_, ?_, ?_, ?_⟩
  · simp (disch := omega) [regReset, within_outside, off_values, if_neg]
  · simp (disch := omega) [regMask, within_outside, off_values, if_neg]
  · simp (disch := omega) [wideReg, within_outside, off_values]
  · simp (disch := omega) [storedOnly, within_outside, off_values]; omega

theorem singleWord_of_no_register {o : Nat} (h : 0x2200000 ≤ o) (h4 : o % 4 = 0) : singleWord o = true := by
  simp (disch := omega) [singleWord, h4, secOffset, no_register h, within_outside, off_values]; omega

theorem Dev.word_of_no_register (d : Dev) (fn : Nat) {o : Nat} (h : 0x2200000 ≤ o) : d.word fn o = 0 := by
  simp (disch := omega) [Dev.word, within_outside, if_neg]

/-- A 4-byte read where the map has no register answers 0 and does nothing else. -/
theorem Dev.readReg_of_no_register (d : Dev) {o : Nat} (h : 0x2200000 ≤ o) (h4 : o % 4 = 0) : d.readReg 0 o 4 = (0, d) := by
  have hw : d.readWord 0 o = (0, d) := by
    simp (disch := omega) [Dev.readWord, secOffset, no_register h, d.word_of_no_register 0 h, if_neg]
  simp [Dev.readReg, accessOk_word h4, show o / 4 * 4 = o by omega, hw]

theorem queueRange_word {o : Nat} (h : 0x300000 ≤ o) (h' : o < 0x300100) :
    regReset o = 0 ∧ regLock o = some (1, 0xFFFFFFFF) ∧ wideReg o = none := by
  have hin : within o 0x300000 64 4 4 = true := by simp [within]; omega
  refine ⟨?_, ?_, ?_⟩
  · simp (disch := omega) [regReset, within_outside, off_values, if_neg]
  · simp (disch := omega) [regLock, hin, off_values, if_neg]
  · simp (disch := omega) [wideReg, within_outside, off_values]

theorem singleWord_queueRange {p : Nat} (hp : p < 64) : singleWord (Off.queueRange p) = true := by
  unfold Off.queueRange
  simp (disch := omega) [singleWord, secOffset, queueRange_word, within_outside, off_values]; omega

/-- A write of a queue range stores the word, unless the ranges would then overlap (R251). -/
theorem Dev.writePlain_queueRange (d : Dev) (fn : Nat) {p : Nat} (hp : p < 64) (v : U32) :
    d.writePlain fn (Off.queueRange p) v = d
    ∨ d.writePlain fn (Off.queueRange p) v = d.storeWord (Off.queueRange p) v := by
  have hin : within (0x300000 + 4 * p) 0x300000 64 4 4 = true := by simp [within]; omega
  unfold Off.queueRange
  simp (disch := omega) only [Dev.writePlain, within_outside, off_values, if_neg, hin, if_true, Bool.false_eq_true, if_false]
  by_cases hc : (d.storeWord (0x300000 + 4 * p) v).rangesClash = true
  · exact .inl (if_pos hc)
  · exact .inr (if_neg hc)

theorem Dev.reg_storeWord_queueRange {d : Dev} (h : d.glob.locks.getLsbD 1 = true) {p : Nat} (hp : p < 64) (v : U32) (x : Nat) :
    (d.storeWord (Off.queueRange p) v).reg x = d.reg x := by
  have hq : 0x300000 ≤ Off.queueRange p ∧ Off.queueRange p < 0x300100 := by unfold Off.queueRange; omega
  obtain ⟨hr, hl, -⟩ := queueRange_word hq.1 hq.2
  refine d.reg_storeWord_of_closed v (Dev.openBits_of_locked hl h) (fun x hx => ?_) x
  have hx : 0x300000 ≤ x ∧ x < 0x300100 := by unfold Off.queueRange at *; omega
  rw [hr, (queueRange_word hx.1 hx.2).1]

theorem Dev.reg_storeWord_of_no_register (d : Dev) {o : Nat} (h : 0x2200000 ≤ o) (h4 : o % 4 = 0) (v : U32) (x : Nat) :
    (d.storeWord o v).reg x = d.reg x := by
  obtain ⟨hr, hm, -⟩ := no_register h
  refine d.reg_storeWord_of_closed v (d.openBits_of_regMask_zero hm) (fun x hx => ?_) x
  rw [hr, (no_register (by omega : 0x2200000 ≤ x)).1]

/-! ### The profiles of a virtual function (R446) -/

theorem vfOffset_profile (p : Nat) {i : Nat} (hi : i < 256) : vfOffset p (0x40000 + 8 * i) = some (Off.foxProfile p i) := by
  have hin : within (0x40000 + 8 * i) 0x40000 256 8 8 = true := by simp [within]; omega
  simp (disch := omega) [vfOffset, within_outside, hin, Off.foxProfile]
  omega

theorem vfShown_profile (p : Nat) {i : Nat} (hi : i < 256) : vfShown p (0x40000 + 8 * i) = some (Off.foxProfile p i) := by
  simp (disch := omega) [vfShown, within_outside, vfOffset_profile p hi, if_neg]

theorem vfAtLead_profile {i : Nat} (hi : i < 256) : vfAtLead (0x40000 + 8 * i) = true := by
  simp [vfAtLead, within]; omega

theorem foxProfile_in_profiles {p i : Nat} (hp : p < 64) (hi : i < 256) :
    0x1000000 ≤ Off.foxProfile p i ∧ Off.foxProfile p i < 0x2000000 := by
  unfold Off.foxProfile; omega

/-! ### The vectors' masks in BAR2 (R271, log 80) -/

theorem FnRegs.table_put_other (f : FnRegs) {k j : Nat} (w : U32) (h : j ≠ k) :
    { f with msixTable := SMap.put (tableReset k) f.msixTable k w }.table j = f.table j := SMap.get_put_other _ _ _ w h

@[simp] theorem FnRegs.table_put_same (f : FnRegs) (k : Nat) (w : U32) :
    { f with msixTable := SMap.put (tableReset k) f.msixTable k w }.table k = w := SMap.get_put_same _ _ _ _

/-- The function's registers once the mask of vector `k` is written 1. -/
def FnRegs.mask (f : FnRegs) (k : Nat) : FnRegs :=
  { f with msixTable := SMap.put (tableReset (4 * k + 3)) f.msixTable (4 * k + 3) 1 }

theorem FnRegs.masked_mask_same (f : FnRegs) (k : Nat) : (f.mask k).masked k = true := by
  simp [FnRegs.masked, FnRegs.mask]

theorem FnRegs.masked_mask_other (f : FnRegs) {k j : Nat} (h : j ≠ k) : (f.mask k).masked j = f.masked j := by
  have ht : (f.mask k).table (4 * j + 3) = f.table (4 * j + 3) := f.table_put_other 1 (by omega)
  rw [FnRegs.masked, ht]; rfl

theorem Dev.fn_setFn_same (d : Dev) (n : Nat) (x : FnRegs) : (d.setFn n x).fn n = x := by simp [d.fn_setFn]

/-- A masked vector stays pending. -/
theorem Dev.sendPending_of_masked {d : Dev} {n k : Nat} (h : (d.fn n).masked k = true) : d.sendPending n [k] = d := by
  simp [Dev.sendPending, Dev.forAll, h]

theorem Dev.writeTable_mask (d : Dev) (n : Nat) {k : Nat} (hk : k < 2048) :
    d.writeTable n (16 * k + 12) 4 1 = d.setFn n ((d.fn n).mask k) := by
  have hv : (1 : U64).extractLsb' 0 32 &&& 1 = 1 := by decide
  have hw : d.writeTable n (16 * k + 12) 4 1 = (d.setFn n ((d.fn n).mask k)).sendPending n [k] := by
    simp only [Dev.writeTable, Dev.writeBar2, show (16 * k + 12) % 4 = 0 by omega, show 16 * k + 12 < 0x8000 by omega,
      show (16 * k + 12) % 16 = 12 by omega, show (16 * k + 12) / 16 = k by omega, show (16 * k + 12) / 4 = 4 * k + 3 by omega,
      ne_eq, not_true_eq_false, if_true, if_false, hv, FnRegs.mask]
  rw [hw]
  exact Dev.sendPending_of_masked (by rw [Dev.fn_setFn_same, FnRegs.masked_mask_same])

/-! ### Device time (R238, R441) -/

/-- The first word of the device time latches the second. -/
theorem Dev.readWord_time (d : Dev) : d.readWord 0 0x10000
    = (wordAt d.now 0, { d with glob := { d.glob with latched := SMap.put 0 d.glob.latched (0x10004 / 4) (wordAt d.now 1) } }) := rfl

theorem Dev.readWord_time_high (d : Dev) : (d.readWord 0 0x10004).1 = SMap.get 0 d.glob.latched (0x10004 / 4) := rfl

theorem Dev.readReg_time (d : Dev) : d.readReg 0 0x10000 4 = ((wordAt d.now 0).setWidth 64, (d.readWord 0 0x10000).2) := by
  have hw : BitVec.ofNat 64 ((wordAt d.now 0).toNat / 2 ^ 0 % 2 ^ 32) = (wordAt d.now 0).setWidth 64 := by
    apply BitVec.eq_of_toNat_eq
    have := (wordAt d.now 0).isLt
    simp
    omega
  simpa [Dev.readReg, accessOk, narrowWidth, d.readWord_time] using hw

/-! ### GO of LEDGER_CROCUS (R348) -/

theorem Dev.commitWide_crocus_only (d : Dev) : d.only (d.commitWide Off.crocus 4) [.glob] := by
  have hreq : Off.crocus ≠ Off.regionReq := by decide
  simp only [Dev.commitWide, show within Off.crocus 0x201000 64 64 64 = false by decide, hreq, false_and, if_false, Bool.false_eq_true]
  refine Dev.only_trans (d.only_glob _) (Dev.only_forAll (fun x k => ?_) _ _)
  split
  · exact x.storeWord_only _ _
  · exact x.only_refl _

theorem Dev.writeReg_crocus_last_only (d : Dev) (v : U64) : d.only (d.writeReg 0 (Off.crocus + 12) 4 v) [.glob] := by
  have hw : d.writeReg 0 (Off.crocus + 12) 4 v = d.writeWord 0 (Off.crocus + 12) (v.extractLsb' 0 32) := rfl
  rw [hw, Dev.writeWord, show wideReg (Off.crocus + 12) = some (Off.crocus, 4) by decide]
  exact Dev.only_trans (d.only_glob _) (Dev.commitWide_crocus_only _)

theorem Dev.goCrocus_none {d : Dev} (hp : d.sys.primary = true) (hc : d.ledger.crocusState ≠ 1) :
    d.goCrocus none = { d with ledger := { d.ledger with crocusState := 3 } } := by
  unfold Dev.goCrocus
  rw [if_pos ⟨hp, hc⟩]

/-- A write that sets GO submits the pack; with none to read the submission is refused (R348). -/
theorem Dev.writePf_crocus_go {d : Dev} {v : U64} (hp : d.sys.primary = true) (hc : d.ledger.crocusState ≠ 1)
    (hv : v.getLsbD 31 = true) :
    d.only (d.writePf (Off.crocus + 12) 4 ⟨v, none⟩) [.glob, .ledger]
    ∧ (d.writePf (Off.crocus + 12) 4 ⟨v, none⟩).ledger.crocusState = 3 := by
  have hw := d.writeReg_crocus_last_only v
  have hp' : (d.writeReg 0 (Off.crocus + 12) 4 v).sys.primary = true := by rw [show _ = d.sys from hw .sys (by decide), hp]
  have hc' : (d.writeReg 0 (Off.crocus + 12) 4 v).ledger.crocusState ≠ 1 := by rwa [show _ = d.ledger from hw .ledger (by decide)]
  have hgo : setsGo (Off.crocus + 12) 4 v = true := by simp [setsGo, hv]
  rw [Dev.writePf, if_pos hgo, Dev.goCrocus_none hp' hc']
  exact ⟨Dev.only_trans (Dev.only_mono hw (by simp)) (Dev.only_mono (Dev.only_ledger _ _) (by simp)), rfl⟩

/-! ### The set-up locks (R448) -/

/-- A host write of SET sets the bits named, but for the STACK bit. -/
theorem Dev.setLocks_getLsbD (d : Dev) (mask : BitVec 9) {k : Nat} (hk : k < 9) :
    (d.setLocks mask).glob.locks.getLsbD k = (d.glob.locks.getLsbD k || (mask.getLsbD k && decide (k ≠ 2))) := by
  have h4 : ∀ k < 9, (~~~(4 : BitVec 9)).getLsbD k = decide (k ≠ 2) := by decide
  have e : (d.setLocks mask).glob.locks = d.glob.locks ||| (mask &&& ~~~(4 : BitVec 9)) := rfl
  rw [e, BitVec.getLsbD_or, BitVec.getLsbD_and, h4 k hk]

/-! ### The remote target (R444, R447) -/

/-- The access leaves for the package that GLOBAL_TARGET names; with no reply ERR is set. -/
def Dev.askTarget (d : Dev) (o : Nat) (w : Option U64) (reply : Option U64) : Dev :=
  { d.send (.registerAccess ((d.reg Off.globalTarget).extractLsb' 0 8) o w) with
    glob := { d.glob with targetErr := d.glob.targetErr || reply.isNone } }

theorem Dev.askTarget_eq (d : Dev) (o : Nat) (w reply : Option U64) :
    (if reply.isNone then
        { d.send (.registerAccess ((d.reg Off.globalTarget).extractLsb' 0 8) o w) with glob := { d.glob with targetErr := true } }
      else d.send (.registerAccess ((d.reg Off.globalTarget).extractLsb' 0 8) o w)) = d.askTarget o w reply := by
  cases reply <;> simp [Dev.askTarget, Dev.send]

theorem Dev.askTarget_only (d : Dev) (o : Nat) (w reply : Option U64) : d.only (d.askTarget o w reply) [.glob, .host] :=
  Dev.only_trans (Dev.only_mono (d.only_host _) (by simp)) (Dev.only_mono (Dev.only_glob _ _) (by simp))

theorem exec_remoteRead_travels {s : State} {o : Nat} (n : Nat) (reply : Option U64) (h : s.dev.bar 0 = true)
    (ho : targetBlock o = true) (ht : s.dev.targetSelf = false) :
    exec (.remoteRegisterAccess o n none reply) s
      = .next { s with dev := (s.dev.askTarget o none reply).answer (.word (reply.getD 0)) } := by
  rw [← Dev.askTarget_eq]
  simp [exec_remoteRegisterAccess, execRemoteRegisterAccess, State.on, h, ho, ht]

theorem exec_remoteWrite_travels {s : State} {o : Nat} (n : Nat) (v : RegData) (reply : Option U64) (h : s.dev.bar 0 = true)
    (ho : targetBlock o = true) (ht : s.dev.targetSelf = false) :
    exec (.remoteRegisterAccess o n (some v) reply) s = .next { s with dev := s.dev.askTarget o (some v.value) reply } := by
  rw [← Dev.askTarget_eq]
  simp [exec_remoteRegisterAccess, execRemoteRegisterAccess, State.on, h, ho, ht]

/-! ### The statement -/

theorem Runs.registerWrite_pf {s : State} {o n : Nat} {v : RegData} {post : Dev → Prop} (hb : s.dev.bar 0 = true)
    (ho : o < bar2Base 0) (hp : post (s.dev.writePf o n v)) : Runs (.registerWrite 0 o n v) s post :=
  Runs.of_next (exec_registerWrite_pf n v hb ho) hp

/-- A 4-byte write of a word that is only stored. -/
theorem Runs.registerWrite_stored {s : State} {o : Nat} {v : RegData} {post : Dev → Prop} (hb : s.dev.bar 0 = true)
    (ho : o < bar2Base 0) (h₁ : singleWord o = true) (h₂ : storedOnly o = true)
    (hp : post (s.dev.storeWord o (v.value.extractLsb' 0 32))) : Runs (.registerWrite 0 o 4 v) s post :=
  Runs.registerWrite_pf hb ho (by rwa [Dev.writePf_of_singleWord _ _ h₁, Dev.writePlain_of_storedOnly _ _ _ h₂])

/-- The set-up registers whose word a write only stores. -/
def plainSetUp : List Nat :=
  [Off.arith, Off.restore, Off.cal, Off.qual, Off.reqCtl, Off.lupinKv, Off.therm, Off.logIdx]

theorem plainSetUp_stored : ∀ o ∈ plainSetUp, o < bar2Base 0 ∧ singleWord o = true ∧ storedOnly o = true ∧ regLock o = none := by
  decide

theorem plainSetUp_boundary : ∀ o ∈ plainSetUp, o ≠ Off.reqCtl →
    regAtLead o = none ∧ (regAtMember o = none ∨ regAtMember o = some none) := by decide

/-- What a write of a plain set-up register changes, when it is in force, and by whom it is owed. -/
theorem Dev.storeWord_plainSetUp (d : Dev) {o : Nat} (v : U32) (ho : o ∈ plainSetUp) :
    let new := (d.reg o &&& ~~~(regMask o)) ||| (v &&& regMask o)
    d.only (d.storeWord o v) [.glob] ∧ (d.storeWord o v).reg o = new
      ∧ (∀ x, x / 4 ≠ o / 4 → (d.storeWord o v).reg x = d.reg x ∧ (d.storeWord o v).regIn x = d.regIn x)
      ∧ (d.busy = false → o ≠ Off.reqCtl → (d.storeWord o v).regIn o = new)
      ∧ (d.freeFor o = false → (d.storeWord o v).regIn o = d.regIn o)
      ∧ (d.busy = true → regAtMember o = some none → ∀ p ∈ d.busyJobs, p ∈ (d.storeWord o v).glob.regsOwed) := by
  obtain ⟨-, -, -, hlock⟩ := plainSetUp_stored o ho
  rw [← d.written_of_unlocked v hlock]
  refine ⟨d.storeWord_only o v, d.reg_storeWord_same o v, fun x hx => ⟨d.reg_storeWord_other v hx, d.regIn_storeWord_other v hx⟩,
    fun hb hq => ?_, fun hf => Dev.regIn_storeWord_of_waits v hf o,
    fun hb hm => Dev.busyJobs_owe_storeWord v (Dev.not_freeFor_of_busy hb hm) hm⟩
  obtain ⟨hl, hm⟩ := plainSetUp_boundary o ho hq
  exact Dev.regIn_storeWord_of_free v (Dev.freeFor_of_idle hb hl hm)

theorem runs_registerWrite_no_register {s : State} {o : Nat} (v : RegData) (hb : s.dev.bar 0 = true) (h : 0x2200000 ≤ o)
    (ho : o < bar2Base 0) (h4 : o % 4 = 0) :
    Runs (.registerWrite 0 o 4 v) s fun d' => s.dev.only d' [.glob] ∧ ∀ x, d'.reg x = s.dev.reg x :=
  Runs.registerWrite_stored hb ho (singleWord_of_no_register h h4) (no_register h).2.2.2
    ⟨s.dev.storeWord_only o _, s.dev.reg_storeWord_of_no_register h h4 _⟩

theorem runs_wideRegisterRead_no_register {s : State} {o : Nat} (reply : Option U64) (hb : s.dev.bar 0 = true)
    (h : 0x2200000 ≤ o) (ho : o < bar2Base 0) (h4 : o % 4 = 0) :
    Runs (.wideRegisterRead ⟨0, o, 4, reply⟩) s fun d' => d' = s.dev.answer (.word 0) :=
  Runs.of_next (exec_wideRegisterRead_pf 4 reply hb ho) (by rw [s.dev.readReg_of_no_register h h4])

theorem runs_registerWrite_locked_queueRange {s : State} {p : Nat} (v : RegData) (hp : p < 64) (hb : s.dev.bar 0 = true)
    (hl : s.dev.glob.locks.getLsbD 1 = true) :
    Runs (.registerWrite 0 (Off.queueRange p) 4 v) s fun d' => s.dev.only d' [.glob] ∧ ∀ x, d'.reg x = s.dev.reg x := by
  refine Runs.registerWrite_pf hb (by rw [bar2Base_pf]; unfold Off.queueRange; omega) ?_
  rw [Dev.writePf_of_singleWord _ _ (singleWord_queueRange hp)]
  obtain e | e := s.dev.writePlain_queueRange 0 hp (v.value.extractLsb' 0 32) <;> rw [e]
  · exact ⟨s.dev.only_refl _, fun _ => rfl⟩
  · exact ⟨s.dev.storeWord_only _ _, Dev.reg_storeWord_queueRange hl hp _⟩

theorem runs_registerWrite_mask {s : State} {k : Nat} (hk : k < 2048) (hb : s.dev.bar 0 = true) (hm : s.dev.glob.modeErr = false) :
    Runs (.registerWrite 0 (bar2Base 0 + 16 * k + 12) 4 ⟨1, none⟩) s fun d' => s.dev.only d' [.host]
      ∧ (d'.fn 0).masked k = true ∧ (∀ j < 2048, j ≠ k → (d'.fn 0).masked j = (s.dev.fn 0).masked j)
      ∧ d'.host.writes = s.dev.host.writes := by
  refine Runs.of_next (exec_registerWrite_bar2 4 _ hb (by omega) hm) ?_
  rw [show bar2Base 0 + 16 * k + 12 - bar2Base 0 = 16 * k + 12 by omega, s.dev.writeTable_mask 0 hk, Dev.fn_setFn_same]
  exact ⟨s.dev.only_host _, (s.dev.fn 0).masked_mask_same k, fun _ _ hj => (s.dev.fn 0).masked_mask_other hj, rfl⟩

theorem runs_wideRegisterRead_time {s : State} (reply : Option U64) (hb : s.dev.bar 0 = true) :
    Runs (.wideRegisterRead ⟨0, 0x10000, 4, reply⟩) s fun d' => s.dev.only d' [.glob, .host]
      ∧ d'.host.replies = s.dev.host.replies ++ [.word ((wordAt s.dev.now 0).setWidth 64)]
      ∧ (d'.readWord 0 0x10004).1 = wordAt s.dev.now 1 ∧ d'.glob.regs = s.dev.glob.regs := by
  refine Runs.of_next (exec_wideRegisterRead_pf 4 reply hb (by decide)) ?_
  rw [s.dev.readReg_time, s.dev.readWord_time, Dev.readWord_time_high]
  exact ⟨Dev.only_trans (Dev.only_mono (s.dev.only_glob _) (by simp)) (Dev.only_mono (Dev.only_host _ _) (by simp)), rfl,
    SMap.get_put_same _ _ _ _, rfl⟩

theorem runs_remoteRegisterAccess_travels {s : State} {o : Nat} (n : Nat) (w : Option RegData) (reply : Option U64)
    (hb : s.dev.bar 0 = true) (ho : targetBlock o = true) (ht : s.dev.targetSelf = false) :
    Runs (.remoteRegisterAccess o n w reply) s fun d' => s.dev.only d' [.glob, .host]
      ∧ d'.host.sent = s.dev.host.sent ++ [.registerAccess ((s.dev.reg Off.globalTarget).extractLsb' 0 8) o (w.map RegData.value)]
      ∧ d'.glob = { s.dev.glob with targetErr := s.dev.glob.targetErr || reply.isNone }
      ∧ d'.host.replies = s.dev.host.replies ++ (match w with | none => [.word (reply.getD 0)] | some _ => []) := by
  have hask := s.dev.askTarget_only o (w.map RegData.value) reply
  cases w with
  | none =>
    exact Runs.of_next (exec_remoteRead_travels n reply hb ho ht)
      ⟨Dev.only_trans hask (Dev.only_mono (Dev.only_host _ _) (by simp)), rfl, rfl, rfl⟩
  | some v => exact Runs.of_next (exec_remoteWrite_travels n v reply hb ho ht) ⟨hask, rfl, rfl, (List.append_nil _).symm⟩

theorem runs_setLock {s : State} (mask : BitVec 9) (hb : s.dev.bar 0 = true) :
    Runs (.setLock mask) s fun d' => s.dev.only d' [.glob] ∧ d'.glob.locks.getLsbD 2 = s.dev.glob.locks.getLsbD 2
      ∧ ∀ k < 9, k ≠ 2 → d'.glob.locks.getLsbD k = (s.dev.glob.locks.getLsbD k || mask.getLsbD k) := by
  have he : exec (.setLock mask) s = .next { s with dev := s.dev.setLocks mask } := by
    simp [exec_setLock, execSetLock, State.on, hb]
  refine Runs.of_next he ⟨s.dev.only_glob _, ?_, fun k hk h2 => ?_⟩
  · rw [s.dev.setLocks_getLsbD mask (by decide)]; simp
  · rw [s.dev.setLocks_getLsbD mask hk]; simp [h2]

/-- Settles O60, clause by clause: a write reaches `Dev.storeWord` alone, a refusal, the lead, BAR2, the target or GO. -/
theorem registersKeepTheirRules : Obligations.RegistersKeepTheirRules := by
  intro s
  refine ⟨fun o v hb ho pack => ?plain, fun fn o n v => exec_registerWrite_closed o n v, fun o ho n v hb h => ?access,
    fun o n v hb h hs => ?sec, fun o v pack reply hb h ho h4 => ⟨runs_registerWrite_no_register _ hb h ho h4,
      runs_wideRegisterRead_no_register reply hb h ho h4⟩,
    fun p hp v hb hl => runs_registerWrite_locked_queueRange v hp hb hl,
    fun n hn i hi v pack reply hb hl => ?profile, fun n _ o ho k v hx => exec_registerWrite_vf_absent k v ho hx,
    fun k hk hb hm => runs_registerWrite_mask hk hb hm, fun fn o n v hm ho => exec_registerWrite_bar2_of_modeErr n v ho hm,
    fun reply hb => runs_wideRegisterRead_time reply hb,
    fun fn o k reply hb => Runs.of_next (exec_wideRegisterRead_closed hb) rfl,
    fun o n w reply hb ho ht => runs_remoteRegisterAccess_travels n w reply hb ho ht, fun o n reply hb => ?remoteClosed,
    fun v hb hp hc hv => Runs.registerWrite_pf hb (by decide) (Dev.writePf_crocus_go hp hc hv),
    fun mask hb => runs_setLock mask hb⟩
  case plain =>
    obtain ⟨hlt, h₁, h₂, -⟩ := plainSetUp_stored o ho
    exact Runs.registerWrite_stored hb hlt h₁ h₂ (s.dev.storeWord_plainSetUp _ ho)
  case access => rw [exec_registerWrite_pf n v hb ho, Dev.writePf_of_wrong_access _ _ h]
  case sec =>
    have ho : o < bar2Base 0 := by simp [secOffset] at hs; rw [bar2Base_pf]; omega
    exact Runs.registerWrite_pf hb ho (Dev.writePf_of_secOffset _ _ h hs)
  case profile =>
    have hbar : 0x40000 + 8 * i < bar2Base (n + 1) := by rw [bar2Base_vf]; omega
    refine ⟨Runs.of_next (exec_registerWrite_vf_to_lead 8 _ hb hbar (vfOffset_profile n hi) (foxProfile_in_profiles hn hi) hl) rfl,
      Runs.of_next (exec_wideRegisterRead_vf_at_lead 8 reply hb hbar (vfAtLead_profile hi) hl) ?_⟩
    rw [vfShown_profile n hi]; rfl
  case remoteClosed => exact Runs.of_next (by simp [exec_remoteRegisterAccess, execRemoteRegisterAccess, State.on, hb]) rfl

end Sys2Proof.Machine
end

section
/-! SUPPORT. Frames of the operations that the power manager's acts are made of, and the critical detector (R25, R367, R373,
R377, R378). -/

namespace Sys2Proof.Machine

/-! ### Frames of the blocks -/

theorem Dev.only_serve (d : Dev) (x : ServeBlk) : d.only { d with serve := x } [.serve] := by
  intro b hb
  cases b with
  | serve => simp at hb
  | _ => rfl

theorem Dev.only_array (d : Dev) (x : ArrayBlk) : d.only { d with array := x } [.array] := by
  intro b hb
  cases b with
  | array => simp at hb
  | _ => rfl

theorem Dev.only_engine (d : Dev) (x : EngineBlk) : d.only { d with engine := x } [.engine] := by
  intro b hb
  cases b with
  | engine => simp at hb
  | _ => rfl

theorem Dev.only_power (d : Dev) (x : PowerBlk) : d.only { d with power := x } [.power] := by
  intro b hb
  cases b with
  | power => simp at hb
  | _ => rfl

theorem Dev.only_obs (d : Dev) (x : ObsBlk) : d.only { d with obs := x } [.obs] := by
  intro b hb
  cases b with
  | obs => simp at hb
  | _ => rfl

theorem Dev.updJob_only (d : Dev) (p : Nat) (f : Job → Job) : d.only (d.updJob p f) [.serve] := d.only_serve _

theorem Dev.count_only (d : Dev) (n k : Nat) : d.only (d.count n k) [.obs] := d.only_obs _

theorem Dev.countC_only (d : Dev) (c n k : Nat) : d.only (d.countC c n k) [.obs] := d.only_obs _

/-- Two steps that touch the same blocks or fewer. -/
theorem Dev.only_then {d d₁ d₂ : Dev} {as bs cs : List Blk} (h₁ : d.only d₁ as) (h₂ : d₁.only d₂ bs) (ha : as ⊆ cs)
    (hb : bs ⊆ cs) : d.only d₂ cs := Dev.only_trans (Dev.only_mono h₁ ha) (Dev.only_mono h₂ hb)

/-! ### Notices (R377) -/

/-- An interrupt stays pending in its table, or it is written to the host and counted. -/
theorem Dev.msix_cases (d : Dev) (fn : Nat) (v : BitVec 11) :
    (∃ x, d.msix fn v = d.setFn fn x) ∨ ∃ w, d.msix fn v = (d.post w).count DC.msixSent := by
  unfold Dev.msix
  extract_lets f k
  split
  · exact .inl ⟨_, rfl⟩
  · exact .inr ⟨_, rfl⟩

theorem Dev.msix_only (d : Dev) (fn : Nat) (v : BitVec 11) : d.only (d.msix fn v) [.host, .obs] := by
  obtain ⟨x, e⟩ | ⟨w, e⟩ := d.msix_cases fn v <;> rw [e]
  · exact Dev.only_mono (d.only_host _) (by simp)
  · exact Dev.only_then (d.only_host _) (Dev.count_only _ _ _) (by simp) (by simp)

/-- An interrupt puts nothing on the links. -/
theorem Dev.sent_msix (d : Dev) (fn : Nat) (v : BitVec 11) : (d.msix fn v).host.sent = d.host.sent := by
  obtain ⟨x, e⟩ | ⟨w, e⟩ := d.msix_cases fn v <;> rw [e] <;> rfl

/-- An interrupt counts itself only. -/
theorem Dev.counter_msix (d : Dev) (fn : Nat) (v : BitVec 11) {n : Nat} (h : n ≠ DC.msixSent) :
    (d.msix fn v).counter n = d.counter n := by
  obtain ⟨x, e⟩ | ⟨w, e⟩ := d.msix_cases fn v <;> rw [e]
  · rfl
  · rw [Dev.counter_count, if_neg h]; rfl

/-- An event joins the log, and an interrupt may tell the host of it. -/
theorem Dev.event_cases (d : Dev) (e : EventRec) :
    ∃ d₁ : Dev, d₁ = { d with host := { d.host with events := d.host.events ++ [e] } }
      ∧ (d.event e = d₁ ∨ ∃ v, d.event e = d₁.msix 0 v) := by
  refine ⟨_, rfl, ?_⟩
  unfold Dev.event
  extract_lets d₁
  split
  · exact .inr ⟨_, rfl⟩
  · exact .inl rfl

theorem Dev.event_only (d : Dev) (e : EventRec) : d.only (d.event e) [.host, .obs] := by
  obtain ⟨d₁, rfl, h | ⟨v, h⟩⟩ := d.event_cases e <;> rw [h]
  · exact Dev.only_mono (d.only_host _) (by simp)
  · exact Dev.only_then (d.only_host _) (Dev.msix_only _ _ _) (by simp) (by simp)

theorem Dev.sent_event (d : Dev) (e : EventRec) : (d.event e).host.sent = d.host.sent := by
  obtain ⟨d₁, rfl, h | ⟨v, h⟩⟩ := d.event_cases e <;> rw [h]
  exact Dev.sent_msix _ _ _

theorem Dev.counter_event (d : Dev) (e : EventRec) {n : Nat} (h : n ≠ DC.msixSent) : (d.event e).counter n = d.counter n := by
  obtain ⟨d₁, rfl, h' | ⟨v, h'⟩⟩ := d.event_cases e <;> rw [h']
  · rfl
  · exact Dev.counter_msix _ _ _ h

/-- A notice taken: the leads note it, and the primary gateway logs it. -/
theorem Dev.takeNotice_cases (d : Dev) (n : Notice) :
    ∃ d₁ : Dev, d.only d₁ [.serve] ∧ (d.takeNotice n = d₁ ∨ ∃ e, d.takeNotice n = d₁.event e) := by
  refine ⟨_, Dev.only_forAll (fun d p => d.updJob_only p fun j => { j with noticed := j.noticed ++ [n] })
    (d.myJobs.filter d.isLead) d, ?_⟩
  unfold Dev.takeNotice
  extract_lets d₁
  split
  · exact .inr ⟨_, rfl⟩
  · exact .inl rfl

theorem Dev.takeNotice_only (d : Dev) (n : Notice) : d.only (d.takeNotice n) [.host, .serve, .obs] := by
  obtain ⟨d₁, h₁, e | ⟨r, e⟩⟩ := d.takeNotice_cases n <;> rw [e]
  · exact Dev.only_mono h₁ (by simp)
  · exact Dev.only_then h₁ (d₁.event_only r) (by simp) (by simp)

theorem Dev.sent_takeNotice (d : Dev) (n : Notice) : (d.takeNotice n).host.sent = d.host.sent := by
  obtain ⟨d₁, h₁, e | ⟨r, e⟩⟩ := d.takeNotice_cases n <;> rw [e]
  · exact congrArg HostBlk.sent (h₁ .host (by simp))
  · rw [Dev.sent_event]; exact congrArg HostBlk.sent (h₁ .host (by simp))

theorem Dev.counter_takeNotice (d : Dev) (n : Notice) {m : Nat} (h : m ≠ DC.msixSent) :
    (d.takeNotice n).counter m = d.counter m := by
  obtain ⟨d₁, h₁, e | ⟨r, e⟩⟩ := d.takeNotice_cases n <;> rw [e]
  · exact congrArg (fun x : ObsBlk => SMap.get 0 x.dev m) (h₁ .obs (by simp))
  · rw [Dev.counter_event _ _ h]; exact congrArg (fun x : ObsBlk => SMap.get 0 x.dev m) (h₁ .obs (by simp))

theorem Dev.notice_only (d : Dev) (c : BitVec 3) : d.only (d.notice c) [.host, .serve, .obs] :=
  Dev.only_then (d.only_host _) (Dev.takeNotice_only _ _) (by simp) (List.Subset.refl _)

/-- The notice leaves on the links. -/
theorem Dev.notice_mem_sent (d : Dev) (c : BitVec 3) : ∃ n, .notice n ∈ (d.notice c).host.sent := by
  unfold Dev.notice
  exact ⟨_, by rw [Dev.sent_takeNotice]; exact List.mem_append_right _ (List.mem_singleton.mpr rfl)⟩

theorem Dev.counter_notice (d : Dev) (c : BitVec 3) {n : Nat} (h : n ≠ DC.msixSent) : (d.notice c).counter n = d.counter n := by
  unfold Dev.notice
  rw [Dev.counter_takeNotice _ _ h]; rfl

/-! ### The budget in force (R25, R75, R367, R368) -/

/-- A setting of the power manager sets the allowances, the reservation, and each job's part of it. -/
theorem Dev.divide_cases (d : Dev) (b : Nat) (k : Setting) (js sel : Nat → Bool) :
    ∃ (a : ArrayBlk) (e : EngineBlk) (rs : List (Nat × Nat)) (f : Nat × Nat → Job → Job),
      d.divide b k js sel = ({ d with array := a, engine := e } : Dev).forAll rs fun d r => d.updJob r.1 (f r) :=
  ⟨_, _, _, _, rfl⟩

theorem Dev.divide_only (d : Dev) (b : Nat) (k : Setting) (js sel : Nat → Bool) :
    d.only (d.divide b k js sel) [.array, .engine, .serve] := by
  obtain ⟨a, x, rs, f, e⟩ := d.divide_cases b k js sel
  rw [e]
  refine Dev.only_then (Dev.only_then (d.only_array a) (Dev.only_engine _ x) ?_ ?_)
    (Dev.only_forAll (fun d r => d.updJob_only _ _) _ _) (List.Subset.refl _) ?_ <;> simp

theorem Dev.divideNow_only (d : Dev) : d.only d.divideNow [.array, .engine, .serve] := d.divide_only _ _ _ _

/-- Critical limits the budget to 10 % of the host's, whatever else limits it, above the floor of 897. -/
theorem Dev.budget_le_of_crit {d : Dev} (h : d.power.crit = true) : d.budget ≤ max 897 (d.power.hostLimit * 10 / 100) := by
  simp only [Dev.budget, h, if_true]
  split <;> omega

theorem Dev.alert_of_crit {d : Dev} (h : d.power.crit = true) : d.alert = true := by simp [Dev.alert, h]

/-! ### The critical detector (R373, R378) -/

/-- The package with stage 4 and its limit in force. -/
def Dev.critical (d : Dev) : Dev :=
  { d with power := { d.power with crit := true, stage := 4, hot := 0, cool := 0, stageLimit := stageLimitOf d.power.hostLimit 4 } }

/-- The critical assertion up to its notice: the limit's effect at once, and what is counted. -/
def Dev.criticalCut (d : Dev) : Dev :=
  let d' := d.critical.divideNow.count DC.thermCrit
  if d.power.stage < 4 then d'.count DC.thermStageUp else d'

theorem exec_criticalAssert {s : State} (hc : s.dev.power.crit = false) (ho : s.dev.rst.phase ≠ .off)
    (ht : s.dev.rst.phase ≠ .tripped) : exec .criticalAssert s = .next { s with dev := s.dev.criticalCut.notice 1 } := by
  have e : exec .criticalAssert s = execCriticalAssert s := rfl
  rw [e, execCriticalAssert, State.on_next, if_neg (by simp [hc, ho, ht])]
  rfl

theorem exec_criticalDeassert {s : State} (h : s.dev.power.crit = true) : exec .criticalDeassert s
    = .next { s with dev := ({ s.dev with power := { s.dev.power with crit := false } } : Dev).notice 2 } := by
  have e : exec .criticalDeassert s = execCriticalDeassert s := rfl
  rw [e, execCriticalDeassert, State.on_next, if_pos h]

theorem Dev.criticalCut_only (d : Dev) : d.critical.only d.criticalCut [.array, .engine, .serve, .obs] := by
  have h : d.critical.only (d.critical.divideNow.count DC.thermCrit) [.array, .engine, .serve, .obs] :=
    Dev.only_then d.critical.divideNow_only (Dev.count_only _ _ _) (by simp) (by simp)
  unfold Dev.criticalCut
  split
  · exact Dev.only_trans h (Dev.only_mono (Dev.count_only _ _ _) (by simp))
  · exact h

theorem Dev.counter_criticalCut (d : Dev) : d.criticalCut.counter DC.thermCrit = d.counter DC.thermCrit + 1 := by
  have h : (d.critical.divideNow.count DC.thermCrit).counter DC.thermCrit = d.counter DC.thermCrit + 1 := by
    rw [Dev.counter_count, if_pos rfl]
    exact congrArg (fun x : ObsBlk => SMap.get 0 x.dev DC.thermCrit + 1) (d.critical.divideNow_only .obs (by simp))
  unfold Dev.criticalCut
  split
  · rw [Dev.counter_count, if_neg (by decide), h]
  · exact h

/-- Settles O19: the assertion's limit is in force before its notice leaves, which changes no limit; the end clears critical
alone. -/
theorem criticalForcesStageFourAtOnce : Obligations.CriticalForcesStageFourAtOnce := by
  intro s
  refine ⟨fun hc ho ht => Runs.of_next (exec_criticalAssert hc ho ht) ?assert,
    fun h => Runs.of_next (exec_criticalDeassert h) ?deassert⟩
  case assert =>
    have hf : s.dev.critical.only (s.dev.criticalCut.notice 1) [.array, .engine, .serve, .obs, .host] :=
      Dev.only_then s.dev.criticalCut_only (Dev.notice_only _ _) (by simp) (by simp)
    have hp : (s.dev.criticalCut.notice 1).power = s.dev.critical.power := hf .power (by simp)
    have hcrit : (s.dev.criticalCut.notice 1).power.crit = true := by rw [hp]; rfl
    refine ⟨hcrit, by rw [hp]; rfl, Dev.budget_le_of_crit hcrit, Dev.alert_of_crit hcrit, ?_, Dev.notice_mem_sent _ _,
      hf .stack (by simp), hf .ledger (by simp), hf .sec (by simp), hf .part (by simp)⟩
    rw [Dev.counter_notice _ _ (by decide), Dev.counter_criticalCut]
  case deassert =>
    exact ⟨Dev.notice_only _ _ .power (by simp), Dev.notice_mem_sent _ _,
      Dev.only_then (s.dev.only_power _) (Dev.notice_only _ _) (by simp) (by simp)⟩

end Sys2Proof.Machine
end

section
/-! SUPPORT. The row buffers and the draw of one token (R195 to R198, R201, R202). -/

namespace Sys2Proof.Machine

/-! ### Row buffers (R195) -/

theorem Dev.bufferLogits_cases (d : Dev) (x : LogitPart) :
    d.bufferLogits x = d ∨ ∃ q, d.bufferLogits x = { d with engine := { d.engine with
      logits := x :: d.engine.logits.filter (fun y => !(y.rowOf == x.rowOf && y.first == x.first)), logitsWait := q } }
    ∨ d.bufferLogits x = { d with engine := { d.engine with logitsWait := q } } := by
  unfold Dev.bufferLogits
  extract_lets other
  split
  · exact .inl rfl
  · split
    · exact .inr ⟨_, .inl rfl⟩
    · exact .inr ⟨_, .inr rfl⟩

theorem Dev.bufferLogits_only (d : Dev) (x : LogitPart) : d.only (d.bufferLogits x) [.engine] := by
  obtain e | ⟨q, e | e⟩ := d.bufferLogits_cases x <;> rw [e]
  · exact d.only_refl _
  · exact d.only_engine _
  · exact d.only_engine _

/-- What a row buffer holds after a part reaches it was there before, or is that part. -/
theorem Dev.mem_logits_bufferLogits {d : Dev} {x y : LogitPart} (h : y ∈ (d.bufferLogits x).engine.logits) :
    y = x ∨ y ∈ d.engine.logits := by
  obtain e | ⟨q, e | e⟩ := d.bufferLogits_cases x <;> rw [e] at h
  · exact .inr h
  · exact (List.mem_cons.mp h).imp_right fun hf => (List.mem_filter.mp hf).1
  · exact .inr h

theorem Dev.mem_logits_forAll_bufferLogits {y : LogitPart} (xs : List LogitPart) {d : Dev}
    (h : y ∈ (d.forAll xs Dev.bufferLogits).engine.logits) : y ∈ xs ∨ y ∈ d.engine.logits := by
  induction xs generalizing d with
  | nil => exact .inr h
  | cons x xs ih =>
    obtain hm | hm := ih (d := d.bufferLogits x) h
    · exact .inl (List.mem_cons_of_mem _ hm)
    · exact (Dev.mem_logits_bufferLogits hm).imp_left fun e => List.mem_cons.mpr (.inl e)

theorem Dev.dropLogits_only (d : Dev) (sel : LogitPart → Bool) : d.only (d.dropLogits sel) [.engine] :=
  Dev.only_trans (d.only_engine _) (Dev.only_forAll Dev.bufferLogits_only _ _)

/-- No part that was to leave is in a row buffer, nor does one that waited take its place. -/
theorem Dev.not_sel_of_mem_dropLogits {d : Dev} {sel : LogitPart → Bool} {y : LogitPart}
    (h : y ∈ (d.dropLogits sel).engine.logits) : sel y = false := by
  obtain hm | hm := Dev.mem_logits_forAll_bufferLogits _ h <;> simpa using (List.mem_filter.mp hm).2

/-- Without a part of the row in the buffers, the row's logits are not complete. -/
theorem Dev.logitsOf_eq_none {d : Dev} {p : Nat} {h : U32} {pos : BitVec 20}
    (hd : ∀ y ∈ d.engine.logits, (y.rowOf == (p, h, pos)) = false) : d.logitsOf p h pos = none := by
  have hf : (d.engine.logits.filter fun x => x.partition == p && x.handle == h && x.pos == pos) = [] := by
    refine List.filter_eq_nil_iff.mpr fun y hy => ?_
    have hn := hd y hy
    simp only [LogitPart.rowOf, beq_eq_false_iff_ne, ne_eq, Prod.mk.injEq, not_and] at hn
    simpa [and_assoc] using hn
  rw [Dev.logitsOf, hf]
  by_cases hv : (d.job p).params.vocab = 0 <;> simp [hv, rowLogits]

/-! ### One result (R197, R201, R202) -/

/-- The token and log-probability that profile, seed and position give from a row's finite logits. -/
def Dev.foxPicked (d : Dev) (p : Nat) (h : U32) (pos : BitVec 20) (logits : List (Option U32)) : Nat × Rat :=
  let r := d.req (slotOf h)
  let lo := d.regIn (Off.foxProfile p r.profile.toNat)
  let hi := d.regIn (Off.foxProfile p r.profile.toNat + 4)
  foxPick (foxTemp (lo.extractLsb' 0 16)) (foxTopP (lo.extractLsb' 16 16)) (foxTopK (fieldNat hi 10 0)) r.seed pos.toNat
    (logits.map fun w => f32Value (w.getD 0))

/-- The result of a row with a poison logit. -/
def Dev.foxPoisoned (d : Dev) (h : U32) (pos : BitVec 20) : FoxResult :=
  { handle := h, pos := pos, poison := true, token := 0, drawnAt := d.now, logp := 0 }

/-- The result of a row whose logits are all finite. -/
def Dev.foxDrawn (d : Dev) (p : Nat) (h : U32) (pos : BitVec 20) (logits : List (Option U32)) : FoxResult :=
  let x := d.foxPicked p h pos logits
  { handle := h, pos := pos, poison := false, token := BitVec.ofNat 18 x.1, drawnAt := d.now, logp := logpCode x.2 }

/-- The job takes a result, whose row buffer is free, and the result is counted. -/
def Dev.takeFox (d : Dev) (p : Nat) (f : FoxResult) (counter : Nat) : Dev :=
  ((d.updJob p fun j => { j with fox := j.fox ++ [f] }).dropLogits fun x => x.rowOf == (p, f.handle, f.pos)).count counter

theorem Dev.takeFox_only (d : Dev) (p : Nat) (f : FoxResult) (n : Nat) : d.only (d.takeFox p f n) [.serve, .obs, .engine] :=
  have h : d.only _ [Blk.serve, Blk.engine] := Dev.only_then (d.updJob_only p _) (Dev.dropLogits_only _ _) (by simp) (by simp)
  Dev.only_then h (Dev.count_only _ _ _) (by simp) (by simp)

/-- Only the job is new in the serving state. -/
theorem Dev.serve_takeFox (d : Dev) (p : Nat) (f : FoxResult) (n : Nat) :
    (d.takeFox p f n).serve = (d.updJob p fun j => { j with fox := j.fox ++ [f] }).serve :=
  Dev.dropLogits_only _ _ .serve (by simp)

theorem Dev.job_takeFox (d : Dev) (p : Nat) (f : FoxResult) (n : Nat) :
    (d.takeFox p f n).job p = { d.job p with fox := (d.job p).fox ++ [f] } := by
  rw [Dev.job, Dev.serve_takeFox]
  exact SMap.get_put_same _ _ _ _

theorem Dev.table_takeFox (d : Dev) (p : Nat) (f : FoxResult) (n : Nat) : (d.takeFox p f n).serve.table = d.serve.table := by
  rw [Dev.serve_takeFox]; rfl

theorem Dev.logitsOf_takeFox (d : Dev) (p : Nat) (f : FoxResult) (n : Nat) : (d.takeFox p f n).logitsOf p f.handle f.pos = none :=
  Dev.logitsOf_eq_none fun _ hy => Dev.not_sel_of_mem_dropLogits hy

theorem Dev.counter_takeFox (d : Dev) (p : Nat) (f : FoxResult) (n m : Nat) :
    (d.takeFox p f n).counter m = d.counter m + if m = n then 1 else 0 := by
  have h : ∀ m, ((d.updJob p fun j => { j with fox := j.fox ++ [f] }).dropLogits fun x => x.rowOf == (p, f.handle, f.pos)).counter m
      = d.counter m := fun m => congrArg (fun x : ObsBlk => SMap.get 0 x.dev m) (Dev.dropLogits_only _ _ .obs (by simp))
  rw [Dev.takeFox, Dev.counter_count, h, h]
  split
  · next e => rw [e]; rfl
  · exact (BitVec.add_zero _).symm

/-! ### FOXGLOVE_ROW -/

theorem exec_foxgloveRow (p : Nat) (h : U32) (pos : BitVec 20) (s : State) :
    exec (.foxgloveRow p h pos) s = execFoxgloveRow p h pos s := rfl

/-- The next row that is sampled, with its logits, leaves a result. -/
theorem exec_foxgloveRow_next {s : State} {p : Nat} {h : U32} {pos : BitVec 20} {logits : List (Option U32)}
    (hl : s.dev.logitsOf p h pos = some logits) (hlead : s.dev.isLead p = true)
    (hn : (s.dev.job p).undrawn.head? = some (h, pos)) :
    exec (.foxgloveRow p h pos) s = .next { s with dev :=
      (if none ∈ logits then s.dev.takeFox p (s.dev.foxPoisoned h pos) DC.foxPoison
        else s.dev.takeFox p (s.dev.foxDrawn p h pos logits) DC.foxRows) } := by
  have hp : (logits.any fun x => x.isNone) = decide (none ∈ logits) := by
    rw [Bool.eq_iff_iff]; simp
  rw [exec_foxgloveRow, execFoxgloveRow, State.on_next]
  simp only [hl, hlead, hn, hp, beq_self_eq_true, Bool.and_self, if_true, decide_eq_true_eq]
  rfl

/-- Any other row leaves nothing. -/
theorem exec_foxgloveRow_other {s : State} {p : Nat} {h : U32} {pos : BitVec 20}
    (ho : s.dev.isLead p = false ∨ ¬ (s.dev.job p).undrawn.head? = some (h, pos) ∨ s.dev.logitsOf p h pos = none) :
    exec (.foxgloveRow p h pos) s = .next s := by
  rw [exec_foxgloveRow, execFoxgloveRow, State.on_next]
  cases hl : s.dev.logitsOf p h pos with
  | none => rfl
  | some logits =>
    have hc : (s.dev.isLead p && (s.dev.job p).undrawn.head? == some (h, pos)) = false := by
      obtain hm | hm | hm := ho
      · simp [hm]
      · simp [hm]
      · rw [hl] at hm; cases hm
    simp only [hc]
    rfl

/-- Settles O47: the one result is taken as poison or drawn, and its row buffer is emptied. -/
theorem foxgloveDrawsOnceForEachSampledRow : Obligations.FoxgloveDrawsOnceForEachSampledRow := by
  intro s p h pos
  refine ⟨fun logits hl hlead hn => Runs.of_next (exec_foxgloveRow_next hl hlead hn) ?_, exec_foxgloveRow_other⟩
  have hne : DC.foxRows ≠ DC.foxPoison := by decide
  by_cases hp : none ∈ logits
  · rw [if_pos hp]
    refine ⟨Dev.takeFox_only _ _ _ _, Dev.logitsOf_takeFox _ _ _ _, Dev.table_takeFox _ _ _ _, s.dev.foxPoisoned h pos,
      Dev.job_takeFox _ _ _ _, rfl, rfl, rfl, ⟨fun _ => hp, fun _ => rfl⟩, fun hf => absurd hp hf, ?_, ?_⟩
      <;> simp [Dev.counter_takeFox, hp, hne]
  · rw [if_neg hp]
    refine ⟨Dev.takeFox_only _ _ _ _, Dev.logitsOf_takeFox _ _ _ _, Dev.table_takeFox _ _ _ _, s.dev.foxDrawn p h pos logits,
      Dev.job_takeFox _ _ _ _, rfl, rfl, rfl, ⟨fun hf => absurd hf Bool.false_ne_true, fun hm => absurd hm hp⟩,
      fun _ => ⟨rfl, rfl⟩, ?_, ?_⟩ <;> simp [Dev.counter_takeFox, hp, hne.symm]

end Sys2Proof.Machine
end

section
/-! SUPPORT. Calibration: what a completion keeps of the array, the trims staged and applied, and the quality summary (R128,
R134 to R137, R140). -/

namespace Sys2Proof.Machine

/-! ### What the completion of a host command keeps -/

/-- The array with its clusters' counters: no completion, message or interrupt touches them. -/
def Dev.arraySide (d : Dev) : ArrayBlk × SMap U64 := (d.array, d.obs.clu)

theorem Dev.tile_of_arraySide {d d' : Dev} (h : d'.arraySide = d.arraySide) (k : Nat) : d'.tile k = d.tile k :=
  congrArg (fun x : ArrayBlk × SMap U64 => SMap.get Tile.off x.1.tiles k) h

theorem Dev.counterC_of_arraySide {d d' : Dev} (h : d'.arraySide = d.arraySide) (c n : Nat) : d'.counterC c n = d.counterC c n :=
  congrArg (fun x : ArrayBlk × SMap U64 => SMap.get 0 x.2 (64 * c + n)) h

theorem Dev.msix_arraySide (d : Dev) (fn : Nat) (v : BitVec 11) : (d.msix fn v).arraySide = d.arraySide := by
  obtain ⟨x, e⟩ | ⟨w, e⟩ := d.msix_cases fn v <;> rw [e] <;> rfl

theorem Dev.signalQueue_arraySide (d : Dev) (q : Nat) : (d.signalQueue q).arraySide = d.arraySide := by
  unfold Dev.signalQueue
  split
  · rfl
  · split
    · rfl
    · exact Dev.msix_arraySide _ _ _

theorem Dev.cacheCtx_arraySide (d : Dev) (key : Nat) : (d.cacheCtx key).arraySide = d.arraySide := by
  unfold Dev.cacheCtx
  extract_lets cs free
  split
  · rfl
  · split
    · rfl
    · split <;> rfl

theorem Dev.touchCtx_arraySide (d : Dev) (key : Nat) : (d.touchCtx key).arraySide = d.arraySide := by
  unfold Dev.touchCtx
  split
  · rfl
  · exact d.cacheCtx_arraySide key

theorem Dev.writeCompletion_arraySide (d : Dev) (q : Nat) (w : BitVec 256) : (d.writeCompletion q w).arraySide = d.arraySide := by
  unfold Dev.writeCompletion
  split
  · rfl
  · extract_lets addr data x' d₁
    have h : d₁.arraySide = d.arraySide := d.touchCtx_arraySide q
    split
    · rw [Dev.signalQueue_arraySide, h]
    · exact h

theorem Dev.applyCompletion_arraySide (d : Dev) (q : Nat) (w : BitVec 256) :
    (d.applyHostWrite (.completion q w)).arraySide = d.arraySide := by
  simp only [Dev.applyHostWrite]
  split
  · rfl
  · rw [Dev.writeCompletion_arraySide]
    split <;> rfl

theorem Dev.complete_arraySide (d : Dev) (o : Origin) (opcode status : Byte) (result : U32) :
    (d.complete o opcode status result).arraySide = d.arraySide := by
  simp only [Dev.complete, Dev.hostWrite]
  split
  · split
    · rfl
    · exact Dev.applyCompletion_arraySide _ _ _
  · rfl

/-- A calibration ends for its commands without a change of the array. -/
theorem Dev.finishCalibrates_arraySide (d : Dev) (p : Nat) : (d.finishCalibrates p).arraySide = d.arraySide := by
  unfold Dev.finishCalibrates
  extract_lets done cs d₁
  refine (Dev.forAll_keeps Dev.arraySide _ (fun d c => ?_) _ _).trans rfl
  split
  · exact Dev.complete_arraySide _ _ _ _ _
  · rfl

theorem Dev.calDone_arraySide (d : Dev) (k : Nat) : (d.calDone k).arraySide = d.arraySide := by
  unfold Dev.calDone
  refine Dev.forAll_keeps Dev.arraySide _ (fun d p => ?_) _ _
  rw [Dev.finishCalibrates_arraySide]; rfl

/-! ### Tiles set one by one -/

theorem Dev.tile_setTile_same (d : Dev) (k : Nat) (t : Tile) : (d.setTile k t).tile k = t := by simp [d.tile_setTile]

theorem Dev.tile_setTile_other (d : Dev) {k j : Nat} (t : Tile) (h : j ≠ k) : (d.setTile k t).tile j = d.tile j := by
  simp [d.tile_setTile, h]

theorem Dev.setTile_only (d : Dev) (k : Nat) (t : Tile) : d.only (d.setTile k t) [.array] := d.only_array _

theorem Dev.takeCal_only (d : Dev) (c : Nat) : d.only (d.takeCal c) [.array] := d.only_array _

/-- A key whose entry is not the default is listed. -/
theorem SMap.mem_keys_of_get_ne {α : Type} {z : α} {m : SMap α} {k : Nat} (h : SMap.get z m k ≠ z) : k ∈ m.map Prod.fst := by
  induction m with
  | nil => exact absurd rfl h
  | cons e m ih =>
    by_cases hk : e.1 = k
    · exact List.mem_map.mpr ⟨e, List.mem_cons_self, hk⟩
    · exact List.mem_cons_of_mem _ (ih (by simpa [SMap.get, hk] using h))

/-! ### CAL_INTERVAL_TRIGGER (R134, R137) -/

/-- The calibration of tile `k` begins for trigger `trig`; its cluster's engine takes a tile in hand. -/
def Dev.calBegun (d : Dev) (k : Nat) (trig : BitVec 3) : Dev :=
  (({ d with array := { d.array with lastTrig := trig } } : Dev).updTile k fun t => { t with calibrating := true }).takeCal (k / 64)

theorem Dev.calibrateTiles_one {d : Dev} {k : Nat} (h : d.calReady k = true) (trig : BitVec 3) :
    d.calibrateTiles [k] trig = d.calBegun k trig := by
  simp only [Dev.calibrateTiles, List.filter_cons, h, if_true, List.filter_nil]
  rfl

theorem Dev.calReady_of_idle {d : Dev} {k : Nat} (hs : (d.tile k).state = .ready ∨ (d.tile k).state = .restoring)
    (hc : (d.tile k).calibrating = false) (hst : (d.tile k).staged = none) : d.calReady k = true := by
  simp [Dev.calReady, hs, hc, hst]

theorem Dev.calBegun_only (d : Dev) (k : Nat) (trig : BitVec 3) : d.only (d.calBegun k trig) [.array] :=
  Dev.only_trans (Dev.only_trans (d.only_array _) (Dev.setTile_only _ _ _)) (Dev.takeCal_only _ _)

theorem Dev.tile_calBegun_same (d : Dev) (k : Nat) (trig : BitVec 3) :
    (d.calBegun k trig).tile k = { d.tile k with calibrating := true } := Dev.tile_setTile_same _ _ _

theorem Dev.tile_calBegun_other (d : Dev) {k j : Nat} (trig : BitVec 3) (h : j ≠ k) : (d.calBegun k trig).tile j = d.tile j :=
  Dev.tile_setTile_other _ _ h

theorem exec_calIntervalTrigger {s : State} {k : Nat} (hr : s.dev.calReady k = true)
    (ha : s.dev.since (s.dev.tile k).calAt ≥ s.dev.calMaxIvl * 1000000000) :
    exec (.calIntervalTrigger k) s = .next { s with dev := (s.dev.calBegun k 3).count DC.calTrigIvl } := by
  have e : exec (.calIntervalTrigger k) s = execCalIntervalTrigger k s := rfl
  rw [e, execCalIntervalTrigger, State.on_next, if_pos ⟨hr, ha⟩, Dev.calibrateTiles_one hr]

theorem runs_calIntervalTrigger {s : State} {k : Nat} (hr : s.dev.calReady k = true)
    (ha : s.dev.since (s.dev.tile k).calAt ≥ s.dev.calMaxIvl * 1000000000) :
    Runs (.calIntervalTrigger k) s fun d' => (d'.tile k).calibrating = true ∧ (d'.tile k).colTrim = (s.dev.tile k).colTrim
      ∧ d'.array.lastTrig = 3 ∧ d'.counter DC.calTrigIvl = s.dev.counter DC.calTrigIvl + 1
      ∧ (∀ j, j ≠ k → d'.tile j = s.dev.tile j) ∧ s.dev.only d' [.array, .obs] := by
  have ht : ((s.dev.calBegun k 3).count DC.calTrigIvl).tile k = { s.dev.tile k with calibrating := true } :=
    s.dev.tile_calBegun_same k 3
  refine Runs.of_next (exec_calIntervalTrigger hr ha) ⟨by rw [ht], by rw [ht], rfl, ?_, fun j hj => s.dev.tile_calBegun_other 3 hj,
    Dev.only_then (s.dev.calBegun_only k 3) (Dev.count_only _ _ _) (by simp) (by simp)⟩
  rw [Dev.counter_count, if_pos rfl]
  rfl

/-! ### CALIBRATION_COMPLETE (R135 to R137) -/

/-- Tile `k` with its calibration complete: new trims are staged, or with FREEZE the statistics are dropped. -/
def Dev.calibrated (d : Dev) (k : Nat) : Tile :=
  let t := d.tile k
  { t with calibrating := false, calEst := t.est, calAt := d.now, degraded := false,
           residuals := if d.freeze then [] else t.residuals, rowStats := if d.freeze then [] else t.rowStats,
           staged := if d.freeze then t.staged else some (t.newColTrims.1, t.newRowTrims.1) }

/-- The completion of tile `k` of cluster `c` up to the commands that waited for it. -/
def Dev.calCounted (d : Dev) (c k : Nat) : Dev :=
  let n := (d.tile k).newColTrims.2 + (d.tile k).newRowTrims.2
  let d' := (d.setTile k (d.calibrated k)).countC c CC.calTile
  if n = 0 then d' else d'.countC c CC.trimLimited n

/-- The calibration of tile `k` is over for its cluster's engine, the CALIBRATE commands and the device-wide calibration. -/
def Dev.calOver (d : Dev) (c k : Nat) : Dev :=
  let d' := ((d.calCounted c k).takeCal c).calDone k
  { d' with array := { d'.array with calWide := d'.array.calWide.erase k } }

theorem Dev.array_calCounted (d : Dev) (c k : Nat) : (d.calCounted c k).array = (d.setTile k (d.calibrated k)).array := by
  simp only [Dev.calCounted]; split <;> rfl

theorem Dev.counterC_calCounted (d : Dev) (c k : Nat) : (d.calCounted c k).counterC c CC.calTile = d.counterC c CC.calTile + 1 := by
  have h : ((d.setTile k (d.calibrated k)).countC c CC.calTile).counterC c CC.calTile = d.counterC c CC.calTile + 1 := by
    rw [Dev.counterC_countC, if_pos rfl]; rfl
  simp only [Dev.calCounted]
  split
  · exact h
  · rw [Dev.counterC_countC, if_neg (by simp [CC.calTile, CC.trimLimited]), h]

theorem Dev.tile_calOver (d : Dev) (c k j : Nat) : (d.calOver c k).tile j = (d.setTile k (d.calibrated k)).tile j := by
  have h : (d.calOver c k).tile j = ((d.calCounted c k).takeCal c).tile j := Dev.tile_of_arraySide (Dev.calDone_arraySide _ _) j
  rw [h, show ((d.calCounted c k).takeCal c).tile j = (d.calCounted c k).tile j from rfl, Dev.tile, Dev.array_calCounted]
  rfl

theorem Dev.counterC_calOver (d : Dev) (c k : Nat) : (d.calOver c k).counterC c CC.calTile = d.counterC c CC.calTile + 1 :=
  (Dev.counterC_of_arraySide (Dev.calDone_arraySide _ _) c CC.calTile).trans (d.counterC_calCounted c k)

theorem Dev.calPending_calOver (d : Dev) (c k : Nat) : (d.calOver c k).array.calPending = d.array.calPending := by
  have h : (d.calOver c k).array.calPending = ((d.calCounted c k).takeCal c).array.calPending :=
    congrArg (fun x : ArrayBlk × SMap U64 => x.1.calPending) (Dev.calDone_arraySide _ _)
  rw [h, show ((d.calCounted c k).takeCal c).array.calPending = (d.calCounted c k).array.calPending from rfl,
    Dev.array_calCounted]
  rfl

theorem exec_calibrationComplete {s : State} {k : Nat} (hc : s.dev.calTile (k / 64) = some k)
    (hp : s.dev.array.calPending = false) :
    exec (.calibrationComplete (k / 64) (k % 64)) s = .next { s with dev := s.dev.calOver (k / 64) k } := by
  have e : exec (.calibrationComplete (k / 64) (k % 64)) s = execCalibrationComplete (k / 64) (k % 64) s := rfl
  have hk : 64 * (k / 64) + k % 64 = k := Nat.div_add_mod k 64
  have hn : ((s.dev.calOver (k / 64) k).array.calPending && !(s.dev.calOver (k / 64) k).calibratingWide) = false := by
    rw [Dev.calPending_calOver, hp]; rfl
  rw [e, execCalibrationComplete, State.on_next]
  simp only [hk, hc, if_true]
  exact congrArg (fun d => Host.Outcome.next { s with dev := d }) (if_neg (Bool.eq_false_iff.mp hn))

theorem runs_calibrationComplete {s : State} {k : Nat} (hc : s.dev.calTile (k / 64) = some k)
    (hp : s.dev.array.calPending = false) :
    Runs (.calibrationComplete (k / 64) (k % 64)) s fun d' => d'.tile k = s.dev.calibrated k
      ∧ d'.counterC (k / 64) CC.calTile = s.dev.counterC (k / 64) CC.calTile + 1 ∧ ∀ j, j ≠ k → d'.tile j = s.dev.tile j :=
  Runs.of_next (exec_calibrationComplete hc hp) ⟨by rw [Dev.tile_calOver, Dev.tile_setTile_same], s.dev.counterC_calOver _ _,
    fun j hj => by rw [Dev.tile_calOver, Dev.tile_setTile_other _ _ hj]⟩

/-! ### IDLE_TRIM_APPLY (R128, R135, R136) -/

/-- A tile with its staged trims in force. -/
def Tile.trimmed (t : Tile) : Tile := match t.staged with
  | none => t
  | some x => { t with colTrim := x.1, rowTrim := x.2, staged := none, residuals := [], rowStats := [], obs := 0 }

theorem Tile.trimmed_of_staged {t : Tile} {x : SMap (Int × Int) × SMap Nat} (h : t.staged = some x) :
    t.trimmed = { t with colTrim := x.1, rowTrim := x.2, staged := none, residuals := [], rowStats := [], obs := 0 } := by
  simp only [Tile.trimmed, h]

/-- Nothing is staged twice. -/
theorem Tile.trimmed_trimmed (t : Tile) : t.trimmed.trimmed = t.trimmed := by
  cases h : t.staged with
  | none => simp only [Tile.trimmed, h]
  | some x => rw [Tile.trimmed_of_staged h, Tile.trimmed]

theorem Dev.tile_applyTrims (d : Dev) (k j : Nat) : (d.applyTrims k).tile j = if j = k then (d.tile j).trimmed else d.tile j := by
  cases h : (d.tile k).staged with
  | none =>
    have ht : (d.tile k).trimmed = d.tile k := by simp only [Tile.trimmed, h]
    simp only [Dev.applyTrims, h]
    split
    · next e => rw [e, ht]
    · rfl
  | some x =>
    simp only [Dev.applyTrims, h]
    refine (d.tile_setTile k j _).trans ?_
    split
    · next e => rw [e, Tile.trimmed_of_staged h]
    · rfl

theorem Dev.applyTrims_only (d : Dev) (k : Nat) : d.only (d.applyTrims k) [.array, .obs] := by
  unfold Dev.applyTrims
  extract_lets t
  split
  · exact d.only_refl _
  · exact Dev.only_then (d.setTile_only _ _) (Dev.countC_only _ _ _ _) (by simp) (by simp)

/-- Every tile of the list takes its staged trims, once. -/
theorem Dev.tile_forAll_applyTrims (ks : List Nat) (d : Dev) (j : Nat) :
    (d.forAll ks Dev.applyTrims).tile j = if j ∈ ks then (d.tile j).trimmed else d.tile j := by
  induction ks generalizing d with
  | nil => rfl
  | cons k ks ih =>
    rw [show d.forAll (k :: ks) Dev.applyTrims = (d.applyTrims k).forAll ks Dev.applyTrims from rfl, ih, Dev.tile_applyTrims]
    by_cases hk : j = k <;> by_cases hm : j ∈ ks <;> simp [hk, hm, Tile.trimmed_trimmed]

theorem Dev.mem_tiles_of_staged {d : Dev} {j : Nat} {x : SMap (Int × Int) × SMap Nat} (h : (d.tile j).staged = some x) :
    j ∈ d.array.tiles.map Prod.fst := by
  refine SMap.mem_keys_of_get_ne (z := Tile.off) fun e => ?_
  have hn : (d.tile j).staged = Tile.off.staged := congrArg Tile.staged e
  rw [h] at hn
  cases hn

theorem exec_idleTrimApply_idle {s : State} (hb : s.dev.busy = false) (hi : s.dev.since s.dev.array.idleSince ≥ 50000) :
    exec .idleTrimApply s = .next { s with dev := s.dev.forAll (s.dev.array.tiles.map Prod.fst) Dev.applyTrims } := by
  have e : exec .idleTrimApply s = execIdleTrimApply s := rfl
  rw [e, execIdleTrimApply, State.on_next, if_pos ⟨by rw [hb]; rfl, hi⟩]

theorem exec_idleTrimApply_busy {s : State} (hb : s.dev.busy = true) : exec .idleTrimApply s = .next s := by
  have e : exec .idleTrimApply s = execIdleTrimApply s := rfl
  rw [e, execIdleTrimApply, State.on_next, if_neg (by simp [hb])]

theorem runs_idleTrimApply {s : State} (hb : s.dev.busy = false) (hi : s.dev.since s.dev.array.idleSince ≥ 50000) :
    Runs .idleTrimApply s fun d' => s.dev.only d' [.array, .obs] ∧ ∀ j x, (s.dev.tile j).staged = some x →
      (d'.tile j).colTrim = x.1 ∧ (d'.tile j).rowTrim = x.2 ∧ (d'.tile j).staged = none ∧ (d'.tile j).obs = 0 := by
  refine Runs.of_next (exec_idleTrimApply_idle hb hi) ⟨Dev.only_forAll Dev.applyTrims_only _ _, fun j x h => ?_⟩
  rw [Dev.tile_forAll_applyTrims, if_pos (Dev.mem_tiles_of_staged h), Tile.trimmed_of_staged h]
  exact ⟨rfl, rfl, rfl, rfl⟩

/-! ### QUAL_SUMMARY_REFRESH (R133, R140) -/

/-- The tiles of largest Q, at most 32 of them. -/
def worstTiles (qs : List (Nat × Rat)) : List (Nat × Rat) := qs.foldl (fun w x => (insertWorst x w).take 32) []

theorem worstTiles_length_le (qs : List (Nat × Rat)) : (worstTiles qs).length ≤ 32 :=
  List.foldlRecOn (motive := fun w : List (Nat × Rat) => w.length ≤ 32) qs _ (Nat.zero_le 32) fun _ _ _ _ => List.length_take_le _ _

/-- Q of the READY tiles. -/
def Dev.readyQ (d : Dev) : List (Nat × Rat) :=
  (d.array.tiles.filter (fun e => decide (e.2.state = .ready))).map fun e => (e.1, e.2.qSq)

theorem Dev.readyQ_of_no_ready {d : Dev} (h : d.readyTiles = []) : d.readyQ = [] := by
  rw [Dev.readyQ, List.map_eq_nil_iff.mp h]; rfl

/-- The summary: the worst Q and the mean, and the worst tiles. -/
def Dev.qualified (d : Dev) : Dev :=
  let qs := d.readyQ
  let mean : Rat := if qs.isEmpty then 0 else (qs.map Prod.snd).sum / qs.length
  let top : Rat := match worstTiles qs with | [] => 0 | x :: _ => x.2
  { d with array := { d.array with
      qualSum := BitVec.ofNat 16 (qCode top) ++ BitVec.ofNat 16 (qCode mean)
      qualWorst := (worstTiles qs).map fun x => (1 : BitVec 1) ++ BitVec.ofNat 15 x.1 ++ BitVec.ofNat 16 (qCode x.2) } }

theorem exec_qualSummaryRefresh (s : State) : exec .qualSummaryRefresh s = .next { s with dev := s.dev.qualified } := rfl

theorem qCode_zero : qCode 0 = 0 := by simp [qCode]

theorem runs_qualSummaryRefresh (s : State) : Runs .qualSummaryRefresh s fun d' => d'.array.qualWorst.length ≤ 32
    ∧ d'.array.tiles = s.dev.array.tiles ∧ (s.dev.readyTiles = [] → d'.array.qualSum = 0 ∧ d'.array.qualWorst = [])
    ∧ s.dev.only d' [.array] := by
  refine Runs.of_next (exec_qualSummaryRefresh s) ⟨?_, rfl, fun h => ?_, s.dev.only_array _⟩
  · rw [Dev.qualified, List.length_map]
    exact worstTiles_length_le _
  · simp [Dev.qualified, Dev.readyQ_of_no_ready h, worstTiles, qCode_zero]

/-- Settles O34, command by command. -/
theorem calibrationStagesTrimsAndAppliesThemIdle : Obligations.CalibrationStagesTrimsAndAppliesThemIdle := by
  intro s k
  refine ⟨fun hs hc hst ha => runs_calIntervalTrigger (Dev.calReady_of_idle hs hc hst) ha, fun hc hp => ?complete,
    runs_idleTrimApply, exec_idleTrimApply_busy, runs_qualSummaryRefresh s⟩
  case complete =>
    obtain ⟨d', he, ht, hn, ho⟩ := runs_calibrationComplete hc hp
    refine Runs.of_next he ?_
    rw [ht]
    exact ⟨rfl, rfl, rfl, rfl, rfl, hn, ho⟩

end Sys2Proof.Machine
end

section
/-! SUPPORT. The array's operations: what a tile and a cluster read after each, what it leaves as it was, and the admission of a
tile's operation (R74 to R76). -/

namespace Sys2Proof.Machine

/-- A command's effect, once its function of the package is known on this one. -/
theorem State.on_eq {s : State} {f : Dev → Dev} {d' : Dev} (h : f s.dev = d') : s.on f = .next { s with dev := d' } :=
  (State.on_next s f).trans (by rw [h])

/-- One step after another touches the blocks of both. -/
theorem Dev.only.append {d d₁ d₂ : Dev} {as bs : List Blk} (h₁ : d.only d₁ as) (h₂ : d₁.only d₂ bs) : d.only d₂ (as ++ bs) :=
  Dev.only_then h₁ h₂ (List.subset_append_left as bs) (List.subset_append_right as bs)

/-! ### Tiles and clusters -/

/-- Tiles, clusters and allowances are read from the array alone. -/
theorem Dev.tile_of_array {d d' : Dev} (h : d'.array = d.array) (j : Nat) : d'.tile j = d.tile j :=
  congrArg (fun x : ArrayBlk => SMap.get Tile.off x.tiles j) h

theorem Dev.cluster_of_array {d d' : Dev} (h : d'.array = d.array) (c : Nat) : d'.cluster c = d.cluster c :=
  congrArg (fun x : ArrayBlk => SMap.get Cluster.reset x.clusters c) h

/-- What a tile holds is read from its cluster. -/
theorem Dev.tileHeld_of_cluster {d d' : Dev} {k : Nat} (h : (d'.cluster (k / 64)).held = (d.cluster (k / 64)).held) :
    d'.tileHeld k = d.tileHeld k := by rw [Dev.tileHeld, Dev.tileHeld, h]

theorem Dev.tile_updTile_same (d : Dev) (k : Nat) (f : Tile → Tile) : (d.updTile k f).tile k = f (d.tile k) :=
  d.tile_setTile_same k _

theorem Dev.tile_updTile_other (d : Dev) {k j : Nat} (f : Tile → Tile) (h : j ≠ k) : (d.updTile k f).tile j = d.tile j :=
  d.tile_setTile_other _ h

/-- A field of the tiles that the update keeps. -/
theorem Dev.tile_updTile_field {β : Type} (g : Tile → β) (d : Dev) (k : Nat) {f : Tile → Tile} (h : ∀ t, g (f t) = g t) (j : Nat) :
    g ((d.updTile k f).tile j) = g (d.tile j) := by
  by_cases hj : j = k
  · rw [hj, d.tile_updTile_same, h]
  · rw [d.tile_updTile_other f hj]

theorem Dev.cluster_updCluster_same (d : Dev) (c : Nat) (f : Cluster → Cluster) : (d.updCluster c f).cluster c = f (d.cluster c) :=
  (d.cluster_setCluster c c _).trans (if_pos rfl)

theorem Dev.cluster_updCluster_other (d : Dev) {c e : Nat} (f : Cluster → Cluster) (h : e ≠ c) :
    (d.updCluster c f).cluster e = d.cluster e := (d.cluster_setCluster c e _).trans (if_neg h)

/-- A field of the clusters that the update keeps. -/
theorem Dev.cluster_updCluster_field {β : Type} (g : Cluster → β) (d : Dev) (c : Nat) {f : Cluster → Cluster} (h : ∀ x, g (f x) = g x)
    (e : Nat) : g ((d.updCluster c f).cluster e) = g (d.cluster e) := by
  by_cases he : e = c
  · rw [he, d.cluster_updCluster_same, h]
  · rw [d.cluster_updCluster_other f he]

@[simp] theorem Dev.tile_updCluster (d : Dev) (c : Nat) (f : Cluster → Cluster) (j : Nat) : (d.updCluster c f).tile j = d.tile j := rfl
@[simp] theorem Dev.tile_rehold (d : Dev) (k j : Nat) : (d.rehold k).tile j = d.tile j := rfl
@[simp] theorem Dev.tile_unwait (d : Dev) (k r j : Nat) : (d.unwait k r).tile j = d.tile j := rfl
@[simp] theorem Dev.tile_count (d : Dev) (n k j : Nat) : (d.count n k).tile j = d.tile j := rfl
@[simp] theorem Dev.tile_countC (d : Dev) (c n k j : Nat) : (d.countC c n k).tile j = d.tile j := rfl
@[simp] theorem Dev.cluster_updTile (d : Dev) (k : Nat) (f : Tile → Tile) (c : Nat) : (d.updTile k f).cluster c = d.cluster c := rfl
@[simp] theorem Dev.cluster_count (d : Dev) (n k c : Nat) : (d.count n k).cluster c = d.cluster c := rfl
@[simp] theorem Dev.cluster_countC (d : Dev) (c n k e : Nat) : (d.countC c n k).cluster e = d.cluster e := rfl

theorem Dev.updTile_only (d : Dev) (k : Nat) (f : Tile → Tile) : d.only (d.updTile k f) [.array] := d.only_array _
theorem Dev.updCluster_only (d : Dev) (c : Nat) (f : Cluster → Cluster) : d.only (d.updCluster c f) [.array] := d.only_array _
theorem Dev.rehold_only (d : Dev) (k : Nat) : d.only (d.rehold k) [.array] := d.only_array _
theorem Dev.unwait_only (d : Dev) (k r : Nat) : d.only (d.unwait k r) [.array] := d.only_array _

/-- Another counter of a cluster is as it was. -/
theorem Dev.counterC_countC_other (d : Dev) (c : Nat) {n m : Nat} (k : Nat) (h : m ≠ n) :
    (d.countC c n k).counterC c m = d.counterC c m := by rw [Dev.counterC_countC, if_neg (by omega)]

theorem Dev.counterC_countC_same (d : Dev) (c n k : Nat) : (d.countC c n k).counterC c n = d.counterC c n + BitVec.ofNat 64 k := by
  rw [Dev.counterC_countC, if_pos rfl]

/-- The counters of the clusters are read from the observation block. -/
theorem Dev.counterC_of_obs {d d' : Dev} (h : d'.obs = d.obs) (c n : Nat) : d'.counterC c n = d.counterC c n :=
  congrArg (fun x : ObsBlk => SMap.get 0 x.clu (64 * c + n)) h

/-- Counter `n` of cluster `c` may have counted, and nothing else has changed. -/
def Dev.MayCount (d : Dev) (c n : Nat) (d' : Dev) : Prop := d' = d ∨ ∃ m, d' = d.countC c n m

theorem Dev.mayCount_unless (d : Dev) (c n m : Nat) (p : Prop) [Decidable p] : d.MayCount c n (if p then d else d.countC c n m) := by
  split
  · exact .inl rfl
  · exact .inr ⟨m, rfl⟩

theorem Dev.mayCount_if (d : Dev) (c n m : Nat) (p : Prop) [Decidable p] : d.MayCount c n (if p then d.countC c n m else d) := by
  split
  · exact .inr ⟨m, rfl⟩
  · exact .inl rfl

theorem Dev.MayCount.array {d d' : Dev} {c n : Nat} (h : d.MayCount c n d') : d'.array = d.array := by
  obtain rfl | ⟨m, rfl⟩ := h <;> rfl

theorem Dev.MayCount.only {d d' : Dev} {c n : Nat} (h : d.MayCount c n d') : d.only d' [.obs] := by
  obtain rfl | ⟨m, rfl⟩ := h
  · exact Dev.only_refl _ _
  · exact d.countC_only c n m

theorem Dev.MayCount.counterC {d d' : Dev} {c n m : Nat} (h : d.MayCount c n d') (hm : m ≠ n) :
    d'.counterC c m = d.counterC c m := by
  obtain rfl | ⟨x, rfl⟩ := h
  · rfl
  · exact d.counterC_countC_other c x hm

/-! ### What a tile holds (R74) -/

/-- A tile holds what it is charged for. -/
theorem Dev.tileHeld_rehold (d : Dev) (k : Nat) : (d.rehold k).tileHeld k = (d.tile k).charge := by
  have hf : (d.cluster (k / 64)).held.find? (fun _ => false) = none := List.find?_eq_none.mpr fun _ _ => Bool.false_ne_true
  rw [Dev.tileHeld, Dev.rehold, Dev.cluster_updCluster_same]
  by_cases hv : (d.tile k).charge = 0 <;> simp [hv, List.find?_append, List.find?_filter, hf]

/-- An operation in progress is charged 1, programming 2. -/
theorem Tile.charge_of_active {t : Tile} (h : t.evals ≠ [] ∨ t.restore.isSome = true ∨ t.testing = true) :
    t.charge = if t.prog.isSome then 2 else 1 := by
  have ha : (!t.evals.isEmpty || t.restore.isSome || t.testing) = true := by
    obtain h | h | h := h <;> simp [h]
  rw [Tile.charge, ha, if_pos rfl]

/-! ### Frames of the array -/

/-- What an operation keeps: of the blocks it changes those of `bs` only, of the tiles it keeps `g`, of the clusters `h`, and it
keeps the correction tables. -/
structure Dev.Keeps {β γ : Type} (g : Tile → β) (h : Cluster → γ) (bs : List Blk) (d d' : Dev) : Prop where
  tile : ∀ j, g (d'.tile j) = g (d.tile j)
  cluster : ∀ c, h (d'.cluster c) = h (d.cluster c)
  tables : d'.array.tables = d.array.tables
  only : d.only d' bs

section
variable {β γ : Type} {g : Tile → β} {h : Cluster → γ} {bs : List Blk} {d d₁ d₂ : Dev}

theorem Dev.Keeps.refl : Dev.Keeps g h bs d d := ⟨fun _ => rfl, fun _ => rfl, rfl, d.only_refl bs⟩

theorem Dev.Keeps.trans (h₁ : Dev.Keeps g h bs d d₁) (h₂ : Dev.Keeps g h bs d₁ d₂) : Dev.Keeps g h bs d d₂ :=
  ⟨fun j => (h₂.tile j).trans (h₁.tile j), fun c => (h₂.cluster c).trans (h₁.cluster c), h₂.tables.trans h₁.tables,
    Dev.only_trans h₁.only h₂.only⟩

theorem Dev.Keeps.mono {cs : List Blk} (hk : Dev.Keeps g h bs d d₁) (hs : bs ⊆ cs) : Dev.Keeps g h cs d d₁ :=
  ⟨hk.tile, hk.cluster, hk.tables, Dev.only_mono hk.only hs⟩

/-- An operation beside the array. -/
theorem Dev.keeps_of_array (ha : d₁.array = d.array) (ho : d.only d₁ bs) : Dev.Keeps g h bs d d₁ :=
  ⟨fun j => congrArg g (Dev.tile_of_array ha j), fun c => congrArg h (Dev.cluster_of_array ha c), congrArg ArrayBlk.tables ha, ho⟩

/-- A change of the array beside tiles, clusters and correction tables. -/
theorem Dev.keeps_array (d : Dev) (x : ArrayBlk) (ht : x.tiles = d.array.tiles) (hc : x.clusters = d.array.clusters)
    (hb : x.tables = d.array.tables) : Dev.Keeps g h [.array] d { d with array := x } :=
  ⟨fun j => congrArg (fun m => g (SMap.get Tile.off m j)) ht, fun c => congrArg (fun m => h (SMap.get Cluster.reset m c)) hc, hb,
    d.only_array x⟩

theorem Dev.keeps_count (d : Dev) (n m : Nat) : Dev.Keeps g h [.obs] d (d.count n m) := Dev.keeps_of_array rfl (d.count_only n m)

theorem Dev.keeps_countC (d : Dev) (c n m : Nat) : Dev.Keeps g h [.obs] d (d.countC c n m) :=
  Dev.keeps_of_array rfl (d.countC_only c n m)

theorem Dev.MayCount.keeps {c n : Nat} (hm : d.MayCount c n d₁) : Dev.Keeps g h [.obs] d d₁ := Dev.keeps_of_array hm.array hm.only

theorem Dev.keeps_updTile (d : Dev) (k : Nat) {f : Tile → Tile} (hg : ∀ t, g (f t) = g t) : Dev.Keeps g h [.array] d (d.updTile k f) :=
  ⟨d.tile_updTile_field g k hg, fun _ => rfl, rfl, d.updTile_only k f⟩

theorem Dev.keeps_updCluster (d : Dev) (c : Nat) {f : Cluster → Cluster} (hh : ∀ x, h (f x) = h x) :
    Dev.Keeps g h [.array] d (d.updCluster c f) := ⟨fun _ => rfl, d.cluster_updCluster_field h c hh, rfl, d.updCluster_only c f⟩

theorem Dev.keeps_rehold (hh : ∀ x l, h { x with held := l } = h x) (d : Dev) (k : Nat) : Dev.Keeps g h [.array] d (d.rehold k) :=
  d.keeps_updCluster (k / 64) fun x => hh x _

/-- Work along a list keeps what each piece of it keeps. -/
theorem Dev.keeps_forAll {α : Type} {f : Dev → α → Dev} (hf : ∀ (d : Dev) (a : α), Dev.Keeps g h bs d (f d a)) (xs : List α)
    (d : Dev) : Dev.Keeps g h bs d (d.forAll xs f) :=
  Dev.forAll_holds (fun x => Dev.Keeps g h bs d x) f (fun _ a hd => hd.trans (hf _ a)) xs d .refl

/-- One operation after another. -/
theorem Dev.Keeps.append {as : List Blk} (h₁ : Dev.Keeps g h as d d₁) (h₂ : Dev.Keeps g h bs d₁ d₂) : Dev.Keeps g h (as ++ bs) d d₂ :=
  (h₁.mono (List.subset_append_left as bs)).trans (h₂.mono (List.subset_append_right as bs))

end

/-- Which physical tile serves a logical number is read from the clusters' indirection tables (R71). -/
theorem Dev.physOf_of_map {d d' : Dev} {c : Nat} (h : (d'.cluster c).map = (d.cluster c).map) (l : Nat) : d'.physOf c l = d.physOf c l := by
  have e : (d'.cluster c).entry l = (d.cluster c).entry l := by rw [Cluster.entry, Cluster.entry, h]
  rw [Dev.physOf, Dev.physOf, e]

theorem Dev.logicalOf_of_map {d d' : Dev} {k : Nat} (h : (d'.cluster (k / 64)).map = (d.cluster (k / 64)).map) :
    d'.logicalOf k = d.logicalOf k := by simp only [Dev.logicalOf, Dev.physOf_of_map h]

/-! ### A setting of the power manager (R75) -/

/-- A job's part of a setting is no part of the array. -/
theorem Dev.array_forAll_updJob {α : Type} (p : α → Nat) (f : α → Job → Job) (xs : List α) (d : Dev) :
    (d.forAll xs fun d x => d.updJob (p x) (f x)).array = d.array :=
  Dev.forAll_keeps Dev.array (fun d x => d.updJob (p x) (f x)) (fun _ _ => rfl) xs d

/-- A setting leaves the tiles and the clusters as they were: it sets allowances and reservations. -/
theorem Dev.divide_array (d : Dev) (b : Nat) (k : Setting) (js sel : Nat → Bool) :
    (d.divide b k js sel).array.tiles = d.array.tiles ∧ (d.divide b k js sel).array.clusters = d.array.clusters := by
  simp only [Dev.divide, Dev.array_forAll_updJob, and_self]

theorem Dev.tile_divide (d : Dev) (b : Nat) (k : Setting) (js sel : Nat → Bool) (j : Nat) : (d.divide b k js sel).tile j = d.tile j :=
  congrArg (fun x => SMap.get Tile.off x j) (d.divide_array b k js sel).1

theorem Dev.cluster_divide (d : Dev) (b : Nat) (k : Setting) (js sel : Nat → Bool) (c : Nat) :
    (d.divide b k js sel).cluster c = d.cluster c :=
  congrArg (fun x => SMap.get Cluster.reset x c) (d.divide_array b k js sel).2

@[simp] theorem Dev.tile_divideIdle (d : Dev) (j : Nat) : d.divideIdle.tile j = d.tile j := d.tile_divide _ _ _ _ j
@[simp] theorem Dev.cluster_divideIdle (d : Dev) (c : Nat) : d.divideIdle.cluster c = d.cluster c := d.cluster_divide _ _ _ _ c
theorem Dev.divideIdle_only (d : Dev) : d.only d.divideIdle [.array, .engine, .serve] := d.divide_only _ _ _ _

theorem Dev.refloor_only (d : Dev) (c : Nat) : d.only (d.refloor c) [.array, .engine, .serve] := by
  unfold Dev.refloor
  split
  · exact d.divideIdle_only
  · exact d.only_refl _

@[simp] theorem Dev.tile_refloor (d : Dev) (c j : Nat) : (d.refloor c).tile j = d.tile j := by
  unfold Dev.refloor
  split
  · exact d.tile_divideIdle j
  · rfl

/-! ### Admission (R76) -/

/-- The cluster's list of what waits, once tile `k`'s operation of this charge and rank is on it. -/
def Cluster.withWaiting (x : Cluster) (k charge rank : Nat) : Cluster :=
  if x.waiting.any (fun w => w.tile == k && w.rank == rank) then x
  else { x with waiting := x.waiting ++ [{ tile := k, charge := charge, rank := rank }] }

theorem Cluster.mem_withWaiting (x : Cluster) (k charge rank : Nat) :
    ∃ w ∈ (x.withWaiting k charge rank).waiting, w.tile = k ∧ w.rank = rank := by
  unfold Cluster.withWaiting
  split
  · next h =>
    obtain ⟨w, hm, hw⟩ := List.any_eq_true.mp h
    exact ⟨w, hm, by simpa using hw⟩
  · exact ⟨_, List.mem_append_right _ (List.mem_singleton.mpr rfl), rfl, rfl⟩

/-- The operation waits, and the allowances may be set at once. -/
theorem Dev.await_cases (d : Dev) (k charge rank : Nat) :
    ∃ d₁ : Dev, d₁ = d.updCluster (k / 64) (·.withWaiting k charge rank)
      ∧ (d.await k charge rank = d₁ ∨ d.await k charge rank = d₁.divideIdle) := by
  refine ⟨_, rfl, ?_⟩
  unfold Dev.await
  extract_lets d₁
  split
  · exact .inr rfl
  · exact .inl rfl

theorem Dev.await_only (d : Dev) (k charge rank : Nat) : d.only (d.await k charge rank) [.array, .engine, .serve] := by
  obtain ⟨d₁, rfl, e | e⟩ := d.await_cases k charge rank <;> rw [e]
  · exact Dev.only_mono (d.updCluster_only _ _) (by simp)
  · exact Dev.only_then (d.updCluster_only _ _) (Dev.divideIdle_only _) (by simp) (List.Subset.refl _)

@[simp] theorem Dev.tile_await (d : Dev) (k charge rank j : Nat) : (d.await k charge rank).tile j = d.tile j := by
  obtain ⟨d₁, rfl, e | e⟩ := d.await_cases k charge rank <;> rw [e]
  · rfl
  · exact Dev.tile_divideIdle _ j

theorem Dev.cluster_await (d : Dev) (k charge rank : Nat) :
    (d.await k charge rank).cluster (k / 64) = (d.cluster (k / 64)).withWaiting k charge rank := by
  obtain ⟨d₁, rfl, e | e⟩ := d.await_cases k charge rank <;> rw [e]
  · exact d.cluster_updCluster_same _ _
  · rw [Dev.cluster_divideIdle, Dev.cluster_updCluster_same]

theorem Dev.mem_waiting_await (d : Dev) (k charge rank : Nat) :
    ∃ w ∈ ((d.await k charge rank).cluster (k / 64)).waiting, w.tile = k ∧ w.rank = rank := by
  rw [Dev.cluster_await]; exact Cluster.mem_withWaiting _ _ _ _

/-- An operation is admitted as the package stands, or once the allowances are set anew, or it waits. -/
theorem Dev.ask_cases (d : Dev) (k charge rank : Nat) :
    (d.admits k charge rank = true ∧ d.ask k charge rank = (d.unwait k rank, true))
    ∨ d.admits k charge rank = false ∧ (d.ask k charge rank = ((d.await k charge rank).unwait k rank, true)
        ∨ d.ask k charge rank = (d.await k charge rank, false)) := by
  unfold Dev.ask
  by_cases h : d.admits k charge rank = true
  · exact .inl ⟨h, if_pos h⟩
  · refine .inr ⟨by simpa using h, ?_⟩
    rw [if_neg h]
    by_cases h' : (d.await k charge rank).admits k charge rank = true
    · exact .inl (if_pos h')
    · exact .inr (if_neg h')

theorem Dev.ask_of_admits {d : Dev} {k charge rank : Nat} (h : d.admits k charge rank = true) :
    d.ask k charge rank = (d.unwait k rank, true) := if_pos h

theorem Dev.ask_of_waits {d : Dev} {k charge rank : Nat} (h : (d.ask k charge rank).2 = false) :
    (d.ask k charge rank).1 = d.await k charge rank := by
  obtain ⟨-, e⟩ | ⟨-, e | e⟩ := d.ask_cases k charge rank <;> rw [e] at h ⊢ <;> cases h

theorem Dev.ask_only (d : Dev) (k charge rank : Nat) : d.only (d.ask k charge rank).1 [.array, .engine, .serve] := by
  obtain ⟨-, e⟩ | ⟨-, e | e⟩ := d.ask_cases k charge rank <;> rw [e]
  · exact Dev.only_mono (d.unwait_only _ _) (by simp)
  · exact Dev.only_trans (d.await_only _ _ _) (Dev.only_mono (Dev.unwait_only _ _ _) (by simp))
  · exact d.await_only _ _ _

theorem Dev.ask_only_of_admits {d : Dev} {k charge rank : Nat} (h : d.admits k charge rank = true) :
    d.only (d.ask k charge rank).1 [.array] := by
  rw [Dev.ask_of_admits h]; exact d.unwait_only _ _

@[simp] theorem Dev.tile_ask (d : Dev) (k charge rank j : Nat) : (d.ask k charge rank).1.tile j = d.tile j := by
  obtain ⟨-, e⟩ | ⟨-, e | e⟩ := d.ask_cases k charge rank <;> rw [e]
  · rfl
  · exact d.tile_await _ _ _ j
  · exact d.tile_await _ _ _ j

/-! ### The verification test begins (R59, R76) -/

/-- A test begins on its tile alone, once it is admitted; else it waits, or it is not due. -/
theorem Dev.beginTest_cases (d : Dev) (k : Nat) :
    d.beginTest k = d ∨ d.beginTest k = (d.ask k 1 2).1
      ∨ d.beginTest k = ((d.ask k 1 2).1.updTile k fun t => { t with testing := true }).rehold k := by
  unfold Dev.beginTest
  extract_lets t
  split
  · split
    · exact .inr (.inr rfl)
    · exact .inr (.inl rfl)
  · exact .inl rfl

theorem Dev.beginTest_only (d : Dev) (k : Nat) : d.only (d.beginTest k) [.array, .engine, .serve] := by
  obtain e | e | e := d.beginTest_cases k <;> rw [e]
  · exact d.only_refl _
  · exact d.ask_only _ _ _
  · exact Dev.only_trans (d.ask_only _ _ _) (Dev.only_then (Dev.updTile_only _ _ _) (Dev.rehold_only _ _) (by simp) (by simp))

/-- What a tile holds apart from the mark of its test is as it was. -/
theorem Dev.tile_beginTest_field {β : Type} (g : Tile → β) (hg : ∀ t, g { t with testing := true } = g t) (d : Dev) (k j : Nat) :
    g ((d.beginTest k).tile j) = g (d.tile j) := by
  obtain e | e | e := d.beginTest_cases k <;> rw [e]
  · rw [d.tile_ask]
  · rw [Dev.tile_rehold, Dev.tile_updTile_field g _ _ hg, d.tile_ask]

end Sys2Proof.Machine
end

section
/-! SUPPORT. The state at reset (R228, R394, R448). -/

namespace Sys2Proof.Machine

/-- The regions of R228 have the kinds 0 to 8 in this order. -/
theorem Dev.reset_regions :
    (List.range 9).map (fun i => (rgKind (Dev.reset.region i), rgBase (Dev.reset.region i), rgSize (Dev.reset.region i)))
      = [(0, 0, 262144), (1, 262144, 262144), (2, 524288, 262144), (3, 786432, 262144), (4, 1048576, 4718592),
         (5, 5767168, 131072), (6, 5898240, 65536), (7, 5963776, 65536), (8, 6029312, 262144)] := by
  decide

/-- A register that nothing has written reads its Reset column. -/
theorem Dev.reg_reset (o : Nat) : Dev.reset.reg o = regReset o := rfl

theorem regReset_setUp :
    [Off.budget, Off.reqCtl, Off.arith, Off.restore, Off.cal, Off.qual, Off.share, Off.dahlia, Off.lupinKv, Off.therm].map regReset
      = [27648, 1000, 0x148024, 0x625DA, 0x25836C08, 0x20001000, 0x00190201, 12320, 1, 0x14305F] := by
  decide

theorem regReset_job : ∀ p < 64, regReset (Off.jobCtl p) = 0x40000000 ∧ regReset (Off.jobQ0 p) = 0x2020 := by decide

/-- Settles O2: the sparse tables are empty, so that every entry reads its default. -/
theorem resetHoldsTheStatedValues : Obligations.ResetHoldsTheStatedValues :=
  ⟨rfl, rfl, rfl, fun _ => rfl, fun _ => rfl, fun _ => ⟨rfl, rfl⟩, fun _ => rfl, rfl, rfl, rfl, rfl, rfl,
    Dev.reset_regions, (List.map_congr_left fun o _ => Dev.reg_reset o).trans regReset_setUp, regReset_job⟩

end Sys2Proof.Machine
end

section
/-! SUPPORT. Brown-out: the hold marks what is in flight, and its end starts the sweep (R69 to R71, R109, R370 to R372). -/

namespace Sys2Proof.Machine

theorem Dev.only_rst (d : Dev) (x : ResetBlk) : d.only { d with rst := x } [.rst] := by
  intro b hb
  cases b with
  | rst => simp at hb
  | _ => rfl

/-- An entry that is not the default is listed. -/
theorem SMap.mem_of_get_ne {α : Type} {z : α} {m : SMap α} {k : Nat} (h : SMap.get z m k ≠ z) : (k, SMap.get z m k) ∈ m := by
  induction m with
  | nil => exact absurd rfl h
  | cons e m ih =>
    obtain ⟨j, v⟩ := e
    by_cases hk : j = k
    · rw [SMap.get, if_pos hk, hk]; exact List.mem_cons_self
    · rw [SMap.get, if_neg hk] at h ⊢
      exact List.mem_cons_of_mem _ (ih h)

/-! ### Marking (R109) -/

/-- A step as the hold leaves it. -/
def MemberStep.mark (x : MemberStep) : MemberStep := { x with marked := true }

theorem Dev.mem_busyJobs {d : Dev} {p : Nat} {x : MemberStep} (h : (d.job p).step = some x) : p ∈ d.busyJobs := by
  have hne : d.job p ≠ Job.idle := fun e => by rw [e] at h; cases h
  exact List.mem_map.mpr ⟨_, List.mem_filter.mpr ⟨SMap.mem_of_get_ne hne, congrArg Option.isSome h⟩, rfl⟩

/-- A job's step is marked, unless it has none or a marked one, which stays as it is. -/
theorem Dev.mark_cases (d : Dev) (p : Nat) :
    d.mark p = d ∧ (d.job p).step.map MemberStep.mark = (d.job p).step
    ∨ ∃ f : Job → Job, d.mark p = (d.updJob p f).count DC.stepMarked
        ∧ (f (d.job p)).step = (d.job p).step.map MemberStep.mark := by
  unfold Dev.mark
  split
  · next h => exact .inl ⟨rfl, by rw [h]; rfl⟩
  · next x h =>
    rw [h]
    split
    · next hm => exact .inl ⟨rfl, by simp [MemberStep.mark, ← hm]⟩
    · exact .inr ⟨_, rfl, rfl⟩

theorem Dev.mark_only (d : Dev) (p : Nat) : d.only (d.mark p) [.serve, .obs] := by
  obtain ⟨e, -⟩ | ⟨f, e, -⟩ := d.mark_cases p <;> rw [e]
  · exact d.only_refl _
  · exact Dev.only_then (d.updJob_only _ _) (Dev.count_only _ _ _) (by simp) (by simp)

theorem Dev.counter_mark (d : Dev) (p : Nat) {n : Nat} (h : n ≠ DC.stepMarked) : (d.mark p).counter n = d.counter n := by
  obtain ⟨e, -⟩ | ⟨f, e, -⟩ := d.mark_cases p <;> rw [e]
  rw [Dev.counter_count, if_neg h]; rfl

theorem Dev.step_mark (d : Dev) (p q : Nat) :
    ((d.mark p).job q).step = if q = p then (d.job q).step.map MemberStep.mark else (d.job q).step := by
  obtain ⟨e, h⟩ | ⟨f, e, h⟩ := d.mark_cases p <;> rw [e]
  · split
    · next hq => rw [hq, h]
    · rfl
  · rw [show (((d.updJob p f).count DC.stepMarked).job q) = (d.updJob p f).job q from rfl, Dev.updJob, Dev.job_setJob]
    split
    · next hq => rw [h, hq]
    · rfl

/-- Every job of the list has its step marked, once. -/
theorem Dev.step_forAll_mark (ps : List Nat) (d : Dev) (q : Nat) :
    ((d.forAll ps Dev.mark).job q).step = if q ∈ ps then (d.job q).step.map MemberStep.mark else (d.job q).step := by
  induction ps generalizing d with
  | nil => rfl
  | cons p ps ih =>
    have hmm : MemberStep.mark ∘ MemberStep.mark = MemberStep.mark := rfl
    rw [show d.forAll (p :: ps) Dev.mark = (d.mark p).forAll ps Dev.mark from rfl, ih, Dev.step_mark]
    by_cases hq : q = p <;> by_cases hm : q ∈ ps <;> simp [hq, hm, hmm]

theorem Dev.markAll_only (d : Dev) : d.only d.markAll [.serve, .obs] := Dev.only_forAll Dev.mark_only _ d

theorem Dev.counter_markAll (d : Dev) {n : Nat} (h : n ≠ DC.stepMarked) : d.markAll.counter n = d.counter n :=
  Dev.forAll_keeps (fun d => d.counter n) Dev.mark (fun d p => d.counter_mark p h) _ d

theorem Dev.step_markAll {d : Dev} {p : Nat} {x : MemberStep} (h : (d.job p).step = some x) :
    (d.markAll.job p).step = some x.mark := by
  rw [Dev.markAll, Dev.step_forAll_mark, if_pos (Dev.mem_busyJobs h), h]; rfl

/-! ### The hold (R69, R370) -/

theorem Dev.holdTile_only (d : Dev) (k : Nat) : d.only (d.holdTile k) [.array] := by
  unfold Dev.holdTile
  extract_lets t held
  split
  · exact d.only_refl _
  · exact Dev.only_trans (d.setTile_only _ _) (Dev.rehold_only _ _)

/-- A notice is no step. -/
theorem Dev.step_notice (d : Dev) (c : BitVec 3) (p : Nat) : ((d.notice c).job p).step = (d.job p).step := by
  have hj : ∀ (d : Dev) (q : Nat) (n : Notice),
      ((d.updJob q fun j => { j with noticed := j.noticed ++ [n] }).job p).step = (d.job p).step := fun d q n => by
    rw [Dev.updJob, Dev.job_setJob]
    split
    · next h => rw [h]
    · rfl
  unfold Dev.notice Dev.takeNotice
  extract_lets n d₁
  have h : (d₁.job p).step = (d.job p).step := Dev.forAll_keeps (fun d => (d.job p).step) _ (fun d q => hj d q n) _ _
  split
  · exact (congrArg (fun x : ServeBlk => (SMap.get Job.idle x.jobs p).step) (Dev.event_only d₁ _ .serve (by simp))).trans h
  · exact h

/-- The package in a hold that begins, before its steps are marked. -/
def Dev.heldBack (d : Dev) : Dev :=
  let d := d.forAll (d.array.tiles.map Prod.fst) Dev.holdTile
  { d with power := { d.power with boHold := true, sweep := false } }

theorem Dev.forAll_holdTile_only (d : Dev) : d.only (d.forAll (d.array.tiles.map Prod.fst) Dev.holdTile) [.array] :=
  Dev.only_forAll Dev.holdTile_only _ d

theorem Dev.heldBack_only (d : Dev) : d.only d.heldBack [.array, .power] :=
  Dev.only_then d.forAll_holdTile_only (Dev.only_power _ _) (by simp) (by simp)

theorem exec_brownoutWarn {s : State} (hb : s.dev.power.boHold = false) (hr : s.dev.rst.phase = .ready) :
    exec .brownoutWarn s = .next { s with dev := (s.dev.heldBack.markAll.count DC.boWarn).notice 5 } := by
  rw [show exec .brownoutWarn s = execBrownoutWarn s from rfl, execBrownoutWarn]
  exact State.on_eq ((if_neg (by simp [hr])).trans (if_neg (by simp [hb, hr])))

theorem exec_brownoutWarn_inReset {s : State} (hr : s.dev.rst.phase = .inReset) (hh : s.dev.rst.brownHeld = true) :
    exec .brownoutWarn s = .next { s with dev := { s.dev with rst := { s.dev.rst with vinUp := false, vinFor := 0 } } } := by
  rw [show exec .brownoutWarn s = execBrownoutWarn s from rfl, execBrownoutWarn]
  exact State.on_eq (if_pos ⟨hr, hh⟩)

theorem runs_brownoutWarn {s : State} (hb : s.dev.power.boHold = false) (hr : s.dev.rst.phase = .ready) :
    Runs .brownoutWarn s fun d' => d'.power.boHold = true ∧ d'.power.sweep = false ∧ d'.alert = true
      ∧ (∀ p st, (s.dev.job p).step = some st → ∃ st', (d'.job p).step = some st' ∧ st'.marked = true)
      ∧ d'.counter DC.boWarn = s.dev.counter DC.boWarn + 1 ∧ d'.stack = s.dev.stack ∧ d'.ledger = s.dev.ledger := by
  have hm := ((Dev.markAll_only s.dev.heldBack).append (Dev.count_only _ DC.boWarn 1)).append (Dev.notice_only _ 5)
  have hall := s.dev.heldBack_only.append hm
  have hp : ((s.dev.heldBack.markAll.count DC.boWarn).notice 5).power = s.dev.heldBack.power := hm .power (by simp)
  have hhold : ((s.dev.heldBack.markAll.count DC.boWarn).notice 5).power.boHold = true := by rw [hp]; rfl
  refine Runs.of_next (exec_brownoutWarn hb hr) ⟨hhold, by rw [hp]; rfl, by rw [Dev.alert, hhold, Bool.or_true], fun p st h => ?_, ?_,
    hall .stack (by simp), hall .ledger (by simp)⟩
  · have h' : (s.dev.heldBack.job p).step = some st := by
      rw [← h]; exact congrArg (fun x : ServeBlk => (SMap.get Job.idle x.jobs p).step) (s.dev.heldBack_only .serve (by simp))
    exact ⟨st.mark, by rw [Dev.step_notice]; exact Dev.step_markAll h', rfl⟩
  · rw [Dev.counter_notice _ _ (by decide), Dev.counter_count, if_pos rfl, Dev.counter_markAll _ (by decide)]
    exact congrArg (fun x : ObsBlk => SMap.get 0 x.dev DC.boWarn + 1) (s.dev.heldBack_only .obs (by simp))

/-! ### The sweep (R66, R371) -/

theorem Dev.log_only (d : Dev) (kind event : BitVec 4) (ruling : BitVec 2) (origin : BitVec 3) (unit : Nat) (step : U48) (detail : U32) :
    d.only (d.log kind event ruling origin unit step detail) [.ledger, .obs] := by
  unfold Dev.log
  extract_lets l w next d₁
  have h : d.only d₁ [.ledger, .obs] := by
    unfold d₁
    split
    · exact Dev.only_mono (d.count_only _ _) (by simp)
    · exact d.only_refl _
  exact Dev.only_trans h (Dev.only_then (d₁.only_ledger _) (Dev.count_only _ _ _) (by simp) (by simp))

theorem Dev.endSweep_only (d : Dev) : ({ d with power := { d.power with sweep := false } } : Dev).only d.endSweep [.ledger, .obs] :=
  Dev.only_then (Dev.count_only _ _ _) (Dev.log_only _ _ _ _ _ _ _ _) (by simp) (List.Subset.refl _)

/-- With no tile that leaves, a sweep is over where it has no tile left. -/
theorem Dev.leaveSweep_nil (d : Dev) :
    d.leaveSweep [] = if d.power.sweep && d.power.sweepLeft.isEmpty then d.endSweep else d := by
  have h : (d.power.sweepLeft.filter fun k => !([] : List Nat).contains k) = d.power.sweepLeft :=
    List.filter_eq_self.mpr fun _ _ => rfl
  rw [Dev.leaveSweep, h]

/-- The sweep's end changes of the power block that it is no sweep any more, and of the array nothing. -/
theorem Dev.leaveSweep_nil_eq (d : Dev) :
    (d.leaveSweep []).power.boHold = d.power.boHold ∧ (d.leaveSweep []).power.sweepLeft = d.power.sweepLeft
    ∧ (d.leaveSweep []).power.sweep = (d.power.sweep && !d.power.sweepLeft.isEmpty)
    ∧ (d.leaveSweep []).array = d.array ∧ (d.leaveSweep []).stack = d.stack := by
  rw [d.leaveSweep_nil]
  split
  · next h =>
    obtain ⟨-, he⟩ := Bool.and_eq_true_iff.mp h
    have hp : d.endSweep.power = { d.power with sweep := false } := d.endSweep_only .power (by simp)
    exact ⟨by rw [hp], by rw [hp], by rw [hp, he]; simp, d.endSweep_only .array (by simp), d.endSweep_only .stack (by simp)⟩
  · next h =>
    refine ⟨rfl, rfl, ?_, rfl, rfl⟩
    cases hs : d.power.sweep <;> simp [hs] at h ⊢
    exact h

/-- The tiles that are to run the sweep's test. -/
def Dev.sweepDue (d : Dev) : List Nat :=
  (d.power.sweepLeft.filter fun k => decide ((d.tile k).state = .verifying)) ++ d.readyTiles

/-- Every tile of a list is VERIFYING. -/
def Dev.allVerify (d : Dev) (ks : List Nat) : Dev := d.forAll ks fun d k => d.updTile k fun t => { t with state := .verifying }

theorem Dev.state_allVerify (ks : List Nat) (d : Dev) (j : Nat) :
    ((d.allVerify ks).tile j).state = if j ∈ ks then .verifying else (d.tile j).state := by
  induction ks generalizing d with
  | nil => rfl
  | cons k ks ih =>
    rw [show d.allVerify (k :: ks) = (d.updTile k fun t => { t with state := .verifying }).allVerify ks from rfl, ih]
    by_cases hk : j = k
    · simp [hk, Dev.tile_updTile_same]
    · simp [hk, Dev.tile_updTile_other]

theorem Dev.startSweep_eq (d : Dev) : d.startSweep = ({ d.allVerify d.readyTiles with
    power := { (d.allVerify d.readyTiles).power with sweep := true, sweepLeft := d.sweepDue } } : Dev).forAll d.sweepDue Dev.beginTest := rfl

theorem Dev.allVerify_only (d : Dev) (ks : List Nat) : d.only (d.allVerify ks) [.array] :=
  Dev.only_forAll (fun d k => d.updTile_only k _) ks d

theorem Dev.startSweep_only (d : Dev) : d.only d.startSweep [.array, .power, .engine, .serve] := by
  rw [d.startSweep_eq]
  exact Dev.only_mono (((d.allVerify_only _).append (Dev.only_power _ _)).append (Dev.only_forAll Dev.beginTest_only _ _)) (by simp)

theorem Dev.power_startSweep (d : Dev) : d.startSweep.power = { d.power with sweep := true, sweepLeft := d.sweepDue } := by
  rw [d.startSweep_eq, Dev.only_forAll Dev.beginTest_only _ _ .power (by simp), d.allVerify_only _ .power (by simp)]

/-- Every tile that is due is VERIFYING: it was READY, or an earlier sweep left it so. -/
theorem Dev.state_startSweep {d : Dev} {k : Nat} (h : k ∈ d.sweepDue) : (d.startSweep.tile k).state = .verifying := by
  have hb : ∀ (xs : List Nat) (d : Dev), ((d.forAll xs Dev.beginTest).tile k).state = (d.tile k).state := fun xs d =>
    Dev.forAll_keeps (fun d => (d.tile k).state) Dev.beginTest (fun d j => d.tile_beginTest_field Tile.state (fun _ => rfl) j k) xs d
  rw [d.startSweep_eq, hb]
  refine (d.state_allVerify _ _).trans ?_
  split
  · rfl
  · next hr =>
    obtain hl | hl := List.mem_append.mp h
    · simpa using (List.mem_filter.mp hl).2
    · exact absurd hl hr

/-- The package with its hold over, before the sweep. -/
def Dev.holdOver (d : Dev) : Dev :=
  ({ d with rst := { d.rst with vinUp := d.rst.vinUp || d.rst.brownHeld }, power := { d.power with boHold := false } } : Dev).count
    DC.boReturn

theorem exec_brownoutReturn {s : State} (hb : s.dev.power.boHold = true) (hr : s.dev.rst.phase = .ready) :
    exec .brownoutReturn s = .next { s with dev := s.dev.holdOver.startSweep.leaveSweep [] } := by
  rw [show exec .brownoutReturn s = execBrownoutReturn s from rfl, execBrownoutReturn]
  exact State.on_eq ((if_pos hb).trans (if_pos hr))

theorem exec_brownoutReturn_noHold {s : State} (hb : s.dev.power.boHold = false) : exec .brownoutReturn s
    = .next { s with dev := { s.dev with rst := { s.dev.rst with vinUp := s.dev.rst.vinUp || s.dev.rst.brownHeld } } } := by
  rw [show exec .brownoutReturn s = execBrownoutReturn s from rfl, execBrownoutReturn]
  exact State.on_eq (if_neg (by rw [hb]; exact Bool.false_ne_true))

theorem runs_brownoutReturn {s : State} (hb : s.dev.power.boHold = true) (hr : s.dev.rst.phase = .ready) :
    Runs .brownoutReturn s fun d' => d'.power.boHold = false ∧ d'.power.sweep = !s.dev.sweepDue.isEmpty
      ∧ d'.power.sweepLeft = s.dev.sweepDue ∧ (∀ k ∈ s.dev.sweepDue, (d'.tile k).state = .verifying) ∧ d'.stack = s.dev.stack := by
  have hdue : s.dev.holdOver.sweepDue = s.dev.sweepDue := rfl
  obtain ⟨hh, hl, hs, ha, hst⟩ := s.dev.holdOver.startSweep.leaveSweep_nil_eq
  have hp := s.dev.holdOver.power_startSweep
  rw [hp] at hh hl hs
  refine Runs.of_next (exec_brownoutReturn hb hr) ⟨hh, hs.trans (by rw [hdue, Bool.true_and]), hl.trans hdue, fun k hk => ?_,
    hst.trans (s.dev.holdOver.startSweep_only .stack (by simp))⟩
  rw [Dev.tile_of_array ha]
  exact Dev.state_startSweep hk

/-- Settles O20, case by case of the two commands. -/
theorem brownoutHoldsAndSweeps : Obligations.BrownoutHoldsAndSweeps := fun _ =>
  ⟨runs_brownoutWarn, runs_brownoutReturn, fun hr hh => Runs.of_next (exec_brownoutWarn_inReset hr hh) rfl,
    fun hb => Runs.of_next (exec_brownoutReturn_noHold hb) rfl⟩

end Sys2Proof.Machine
end

section
/-! SUPPORT. The start of an evaluation: from the row drivers, or owed to an input already begun (R44, R45, R48, R50, R68, R69, R76,
R77, R102, R124). -/

namespace Sys2Proof.Machine

/-! ### Beginning an evaluation -/

/-- The tile with an evaluation begun at `now`. -/
def Tile.begun (t : Tile) (ev : Eval) (now : U64) : Tile :=
  { t with evals := t.evals ++ [{ ev with startedAt := now }]
           splitRun := if (ev.split && !ev.vec.transposed) && !t.splitRun.contains ev.vec.layer then ev.vec.layer :: t.splitRun
             else t.splitRun }

theorem Tile.charge_begun (t : Tile) (ev : Eval) (now : U64) : (t.begun ev now).charge = if t.prog.isSome then 2 else 1 :=
  Tile.charge_of_active (.inl (List.append_ne_nil_of_right_ne_nil _ (List.cons_ne_nil _ _)))

/-- The package with an evaluation of tile `k` begun and counted. -/
def Dev.evalCounted (d : Dev) (k : Nat) (ev : Eval) : Dev :=
  ((d.updTile k (·.begun ev d.now)).rehold k).countC (k / 64) CC.tileEval ev.parts.length

/-- Skipped nibbles and transposed evaluations have counters of their own. -/
theorem Dev.startEval_counts (d : Dev) (k : Nat) (ev : Eval) :
    ∃ d₁ : Dev, (d.evalCounted k ev).MayCount (k / 64) CC.tileNibbleSkip d₁
      ∧ d₁.MayCount (k / 64) CC.tileTransposed (d.startEval k ev) := by
  unfold Dev.startEval
  extract_lets c skips mine d₁ d₂ d₃
  exact ⟨d₃, Dev.mayCount_unless _ _ _ _ _, Dev.mayCount_if _ _ _ _ _⟩

theorem Dev.array_startEval (d : Dev) (k : Nat) (ev : Eval) :
    (d.startEval k ev).array = ((d.updTile k (·.begun ev d.now)).rehold k).array := by
  obtain ⟨d₁, h₁, h₂⟩ := d.startEval_counts k ev
  rw [h₂.array, h₁.array]; rfl

theorem Dev.startEval_only (d : Dev) (k : Nat) (ev : Eval) : d.only (d.startEval k ev) [.array, .obs] := by
  obtain ⟨d₁, h₁, h₂⟩ := d.startEval_counts k ev
  have h : d.only (d.evalCounted k ev) _ := ((d.updTile_only k _).append (Dev.rehold_only _ k)).append (Dev.countC_only _ _ _ _)
  exact Dev.only_mono ((h.append h₁.only).append h₂.only) (by simp)

theorem Dev.counterC_startEval (d : Dev) (k : Nat) (ev : Eval) : (d.startEval k ev).counterC (k / 64) CC.tileEval
    = d.counterC (k / 64) CC.tileEval + BitVec.ofNat 64 ev.parts.length := by
  obtain ⟨d₁, h₁, h₂⟩ := d.startEval_counts k ev
  rw [h₂.counterC (by decide), h₁.counterC (by decide)]
  exact Dev.counterC_countC_same _ _ _ _

/-- What the start of evaluation `ev` of tile `k` makes of the package. -/
def Dev.Begun (d : Dev) (k : Nat) (ev : Eval) (d' : Dev) : Prop :=
  (d'.tile k).evals = (d.tile k).evals ++ [{ ev with startedAt := d.now }]
    ∧ d'.tileHeld k = (if (d.tile k).prog.isSome then 2 else 1) ∧ (∀ j, j ≠ k → d'.tile j = d.tile j)
    ∧ d.only d' [.array, .obs, .engine, .serve] ∧ (d.admits k 1 1 = true → d.only d' [.array, .obs])
    ∧ d'.counterC (k / 64) CC.tileEval = d.counterC (k / 64) CC.tileEval + BitVec.ofNat 64 ev.parts.length

/-- An operation of the tile is admitted, it has left the drivers or the list of what is owed, and another counter may have counted. -/
structure Dev.Ready (d : Dev) (k : Nat) (f : Tile → Tile) (d₁ : Dev) : Prop where
  tile : d₁.tile k = f (d.tile k)
  others : ∀ j, j ≠ k → d₁.tile j = d.tile j
  only : d.only d₁ [.array, .obs, .engine, .serve]
  onlyAdmitted : d.admits k 1 1 = true → d.only d₁ [.array, .obs]
  counter : d₁.counterC (k / 64) CC.tileEval = d.counterC (k / 64) CC.tileEval

theorem Dev.ready_ask (d : Dev) (k : Nat) (f : Tile → Tile) : d.Ready k f ((d.ask k 1 1).1.updTile k f) where
  tile := by rw [Dev.tile_updTile_same, Dev.tile_ask]
  others j hj := by rw [Dev.tile_updTile_other _ _ hj, Dev.tile_ask]
  only := Dev.only_mono ((d.ask_only k 1 1).append (Dev.updTile_only _ _ _)) (by simp)
  onlyAdmitted h := Dev.only_mono ((Dev.ask_only_of_admits h).append (Dev.updTile_only _ _ _)) (by simp)
  counter := Dev.counterC_of_obs ((d.ask_only k 1 1).append (Dev.updTile_only _ k f) .obs (by simp)) _ _

theorem Dev.Ready.countC {d d₁ : Dev} {k : Nat} {f : Tile → Tile} (h : d.Ready k f d₁) {n : Nat} (m : Nat) (hn : CC.tileEval ≠ n) :
    d.Ready k f (d₁.countC (k / 64) n m) where
  tile := h.tile
  others := h.others
  only := Dev.only_mono (h.only.append (Dev.countC_only _ _ _ _)) (by simp)
  onlyAdmitted ha := Dev.only_mono ((h.onlyAdmitted ha).append (Dev.countC_only _ _ _ _)) (by simp)
  counter := (Dev.counterC_countC_other _ _ _ hn).trans h.counter

theorem Dev.Ready.tile_startEval {d d₁ : Dev} {k : Nat} {f : Tile → Tile} (h : d.Ready k f d₁) (ev : Eval) :
    (d₁.startEval k ev).tile k = (f (d.tile k)).begun ev d.now := by
  rw [Dev.tile_of_array (d₁.array_startEval k ev), Dev.tile_rehold, Dev.tile_updTile_same, h.tile,
    show d₁.now = d.now from congrArg Glob.timeNs (h.only .glob (by simp))]

theorem Dev.Ready.begun {d d₁ : Dev} {k : Nat} {f : Tile → Tile} (h : d.Ready k f d₁)
    (hf : ∀ t, (f t).evals = t.evals ∧ (f t).prog = t.prog) (ev : Eval) : d.Begun k ev (d₁.startEval k ev) := by
  obtain ⟨he, hp⟩ := hf (d.tile k)
  have hk : ((d₁.updTile k (·.begun ev d₁.now)).rehold k).tileHeld k = if (d.tile k).prog.isSome then 2 else 1 := by
    rw [Dev.tileHeld_rehold, Dev.tile_updTile_same, Tile.charge_begun, h.tile, hp]
  refine ⟨?_, ?_, fun j hj => ?_, ?_, fun ha => ?_, ?_⟩
  · rw [h.tile_startEval, Tile.begun, he]
  · rw [← hk]
    exact Dev.tileHeld_of_cluster (congrArg Cluster.held (Dev.cluster_of_array (d₁.array_startEval k ev) _))
  · rw [Dev.tile_of_array (d₁.array_startEval k ev), Dev.tile_rehold, Dev.tile_updTile_other _ _ hj, h.others j hj]
  · exact Dev.only_mono (h.only.append (d₁.startEval_only k ev)) (by simp)
  · exact Dev.only_mono ((h.onlyAdmitted ha).append (d₁.startEval_only k ev)) (by simp)
  · rw [Dev.counterC_startEval, h.counter]

/-! ### What waits (R76) -/

/-- The evaluation of tile `k` waits, and its input stays. -/
def Dev.EvalWaits (d : Dev) (k : Nat) (d' : Dev) : Prop :=
  (∀ j, d'.tile j = d.tile j) ∧ (∃ w ∈ (d'.cluster (k / 64)).waiting, w.tile = k ∧ w.rank = 1)
    ∧ d.only d' [.array, .engine, .serve]

theorem Dev.evalWaits_await (d : Dev) (k : Nat) : d.EvalWaits k (d.await k 1 1) :=
  ⟨d.tile_await k 1 1, d.mem_waiting_await k 1 1, d.await_only k 1 1⟩

/-! ### TILE_EVAL_START from the row drivers (R44, R50, R76) -/

/-- The package once the input of tile `k` has left the drivers, its split counted where it is planned. -/
def Dev.edgeTaken (d : Dev) (k : Nat) (split : Bool) : Dev :=
  let d := (d.ask k 1 1).1.updTile k fun t => { t with edge := none }
  if split then d.countC (k / 64) CC.tileSplitPlanned else d

theorem Dev.ready_edgeTaken (d : Dev) (k : Nat) (split : Bool) :
    d.Ready k (fun t => { t with edge := none }) (d.edgeTaken k split) := by
  unfold Dev.edgeTaken
  extract_lets d₁
  split
  · exact (d.ready_ask k _).countC 1 (by decide)
  · exact d.ready_ask k _

section
variable {s : State} {k : Nat} {v : EdgeVec}

/-- The evaluation of an input at the drivers begins, or waits, or the tile is not free for it. -/
def Dev.edgeStart (d : Dev) (k : Nat) (v : EdgeVec) : Dev :=
  if d.tileFree k then
    if (d.ask k 1 1).2 then (d.edgeTaken k ((d.tile k).plan v).split).startEval k ((d.tile k).plan v) else (d.ask k 1 1).1
  else if d.budgetWaits k then d.await k 1 1 else d

/-- With nothing owed the command is about the input at the drivers. -/
theorem exec_tileEvalStart_edge (ho : (s.dev.tile k).owed = []) (hv : (s.dev.tile k).edge = some v) :
    exec (.tileEvalStart k) s = .next { s with dev := s.dev.edgeStart k v } := by
  rw [show exec (.tileEvalStart k) s = execTileEvalStart k s from rfl, execTileEvalStart]
  refine State.on_eq ?_
  simp only [ho, hv, List.isEmpty_nil, Bool.not_true, Bool.false_eq_true, if_false]
  rfl

theorem runs_tileEvalStart_edge (hf : s.dev.tileFree k = true) (ho : (s.dev.tile k).owed = []) (hv : (s.dev.tile k).edge = some v)
    (ha : (s.dev.ask k 1 1).2 = true) :
    Runs (.tileEvalStart k) s fun d' => (d'.tile k).edge = none ∧ ∃ ev, s.dev.Begun k ev d' ∧ ev.vec = v ∧ ev.kind = .normal
      ∧ ev.replayed = false ∧ ev.split = (!v.transposed && ((s.dev.tile k).preSplit.contains v.layer || refSplit v.a)) := by
  have hr := s.dev.ready_edgeTaken k ((s.dev.tile k).plan v).split
  refine Runs.of_next (exec_tileEvalStart_edge ho hv) ?_
  rw [Dev.edgeStart, if_pos hf, if_pos ha]
  refine ⟨by rw [hr.tile_startEval]; rfl, (s.dev.tile k).plan v, hr.begun (fun _ => ⟨rfl, rfl⟩) _, rfl, rfl, rfl, rfl⟩

theorem runs_tileEvalStart_waits (ho : (s.dev.tile k).owed = []) (hv : (s.dev.tile k).edge = some v)
    (hw : (s.dev.tileFree k = true ∧ (s.dev.ask k 1 1).2 = false) ∨ (s.dev.tileFree k = false ∧ s.dev.budgetWaits k = true)) :
    Runs (.tileEvalStart k) s (s.dev.EvalWaits k) := by
  refine Runs.of_next (exec_tileEvalStart_edge ho hv) ?_
  obtain ⟨hf, ha⟩ | ⟨hf, hb⟩ := hw
  · rw [Dev.edgeStart, if_pos hf, ha, if_neg Bool.false_ne_true, Dev.ask_of_waits ha]
    exact s.dev.evalWaits_await k
  · rw [Dev.edgeStart, hf, if_neg Bool.false_ne_true, if_pos hb]
    exact s.dev.evalWaits_await k

/-! ### What the tile owes first (R45, R50, R68, R69, R102, R124) -/

variable {ev : Eval} {rest : List Eval}

/-- The evaluation owed first begins by the command of its kind. -/
theorem Dev.startOwed_first {d : Dev} {is : Eval → Bool} (hf : d.tileFree k = true) (ho : (d.tile k).owed = ev :: rest)
    (ha : (d.ask k 1 1).2 = true) (hi : is ev = true) :
    d.startOwed k is = ((d.ask k 1 1).1.updTile k fun t => { t with owed := rest }).startEval k ev := by
  simp only [Dev.startOwed, ho, hi, hf, ha, Bool.not_true, Bool.false_eq_true, if_false, if_true]

theorem Dev.begun_startOwed {d : Dev} {is : Eval → Bool} (hf : d.tileFree k = true) (ho : (d.tile k).owed = ev :: rest)
    (ha : (d.ask k 1 1).2 = true) (hi : is ev = true) :
    d.Begun k ev (d.startOwed k is) ∧ ((d.startOwed k is).tile k).owed = rest := by
  have hr := d.ready_ask k fun t => { t with owed := rest }
  rw [Dev.startOwed_first hf ho ha hi]
  exact ⟨hr.begun (fun _ => ⟨rfl, rfl⟩) ev, by rw [hr.tile_startEval]; rfl⟩

theorem exec_tileEvalStart_owed (ho : (s.dev.tile k).owed = ev :: rest) :
    exec (.tileEvalStart k) s = .next { s with dev := s.dev.startOwed k fun e => decide (e.kind = .normal) && !e.observed } := by
  rw [show exec (.tileEvalStart k) s = execTileEvalStart k s from rfl, execTileEvalStart]
  exact State.on_eq (if_pos (by rw [ho]; rfl))

end

/-- Settles O26: an evaluation begins from the drivers or from the list of what is owed, or it waits. -/
theorem evaluationStartsHoldOneTileEquivalent : Obligations.EvaluationStartsHoldOneTileEquivalent := by
  intro s k
  refine ⟨fun v hf ho hv ha => runs_tileEvalStart_edge hf ho hv ha, fun v ho hv hw => runs_tileEvalStart_waits ho hv hw,
    fun ev rest hf ho ha => ⟨fun hk hb => ?discarded, fun hk hb => ?split, fun hk => ?replay, fun hk => ?reeval⟩⟩
  case discarded => exact Runs.of_next (exec_tileEvalStart_owed ho) (Dev.begun_startOwed hf ho ha (by simp [hk, hb]))
  case split => exact Runs.of_next rfl (Dev.begun_startOwed hf ho ha (by simp [hk, hb]))
  case replay => exact Runs.of_next rfl (Dev.begun_startOwed hf ho ha (by simp [hk]))
  case reeval => exact Runs.of_next rfl (Dev.begun_startOwed hf ho ha (by simp [hk]))

end Sys2Proof.Machine
end

section
/-! SUPPORT. What is made of an evaluation's codes: the lanes that a clean one adds to, and what a clip orders (R39, R41, R49, R50,
R74, R87, R89, R101, R111, R123, R124). -/

namespace Sys2Proof.Machine

theorem Dev.only_fresh (d : Dev) (n : Nat) : d.only { d with fresh := n } [.fresh] := by
  intro b hb
  cases b with
  | fresh => simp at hb
  | _ => rfl

/-! ### Lanes (R89, R90) -/

/-- The lanes after one addition. -/
theorem Dev.lanes_addLane (d : Dev) (c n : Nat) (v u : Int) : ((d.addLane c n v u).cluster c).lanes
    = SMap.put Lane.fresh (d.cluster c).lanes n ((SMap.get Lane.fresh (d.cluster c).lanes n).add v u) := by
  have h : ∀ l : Lane, ((d.updCluster c fun x => { x with lanes := SMap.put Lane.fresh x.lanes n l }).cluster c).lanes
      = SMap.put Lane.fresh (d.cluster c).lanes n l := fun l => by rw [d.cluster_updCluster_same]
  unfold Dev.addLane Dev.setAccLane
  extract_lets old d₁
  split <;> exact h _

/-- Additions to lanes depend on the lanes alone. -/
theorem Dev.lanes_forAll_congr {α : Type} {c : Nat} {F : Dev → α → Dev} (hF : ∀ a, ∃ n v u, ∀ d, F d a = d.addLane c n v u)
    (xs : List α) {d d' : Dev} (h : (d'.cluster c).lanes = (d.cluster c).lanes) :
    ((d'.forAll xs F).cluster c).lanes = ((d.forAll xs F).cluster c).lanes := by
  induction xs generalizing d d' with
  | nil => exact h
  | cons a xs ih =>
    refine ih (d := F d a) (d' := F d' a) ?_
    obtain ⟨n, v, u, e⟩ := hF a
    rw [e, e, Dev.lanes_addLane, Dev.lanes_addLane, h]

theorem Dev.lanes_addPartials_congr {d d' : Dev} {c lt : Nat} (v : EdgeVec) (P : List Int)
    (h : (d'.cluster c).lanes = (d.cluster c).lanes) (ht : d'.array.tables = d.array.tables) :
    ((d'.addPartials c lt v P).cluster c).lanes = ((d.addPartials c lt v P).cluster c).lanes := by
  unfold Dev.addPartials
  rw [show d'.table lt = d.table lt from congrArg (fun m => SMap.get CorrTab.empty m lt) ht]
  refine Dev.lanes_forAll_congr (fun j => ?_) _ h
  cases v.transposed with
  | false => exact ⟨_, _, _, fun _ => rfl⟩
  | true => exact ⟨_, _, _, fun _ => rfl⟩

section
variable {β γ : Type} {g : Tile → β} {h : Cluster → γ}

theorem Dev.keeps_addLane (hh : ∀ x l, h { x with lanes := l } = h x) (d : Dev) (c n : Nat) (v u : Int) :
    Dev.Keeps g h [.array, .obs] d (d.addLane c n v u) := by
  have hk := fun l : Lane => d.keeps_updCluster (g := g) c (f := fun x => { x with lanes := SMap.put Lane.fresh x.lanes n l }) fun x => hh x _
  unfold Dev.addLane Dev.setAccLane
  extract_lets old d₁
  split
  · exact (hk _).append (Dev.keeps_countC _ _ _ _)
  · exact (hk _).mono (by simp)

theorem Dev.keeps_addPartials (hh : ∀ x l, h { x with lanes := l } = h x) (d : Dev) (c lt : Nat) (v : EdgeVec) (P : List Int) :
    Dev.Keeps g h [.array, .obs] d (d.addPartials c lt v P) := by
  unfold Dev.addPartials
  refine Dev.keeps_forAll (fun d j => ?_) _ _
  split <;> exact Dev.keeps_addLane hh d _ _ _ _

/-! ### Lookups in the cache and calibrations -/

theorem Dev.keeps_lookup (hh : ∀ x a b e, h { x with lines := a, misses := b, missWait := e } = h x) (d : Dev) (c : Nat) (l : LineKind) :
    Dev.Keeps g h [.array, .obs] d (d.lookup c l) := by
  have hk := fun (d : Dev) a b e => d.keeps_updCluster (g := g) c (f := fun x => { x with lines := a, misses := b, missWait := e }) fun x =>
    hh x _ _ _
  unfold Dev.lookup
  extract_lets x d₁
  split
  · exact (hk _ _ _ _).append (Dev.keeps_countC _ _ _ _)
  · have hm : Dev.Keeps g h [.array, .obs] d d₁ := (d.keeps_countC _ _ _).mono (by simp)
    split
    · exact hm
    · split
      · exact hm.trans ((hk _ _ _ _).mono (by simp))
      · exact hm.trans ((hk _ _ _ _).mono (by simp))

theorem Dev.keeps_takeCal (hh : ∀ x a, h { x with calNow := a } = h x) (d : Dev) (c : Nat) :
    Dev.Keeps g h [.array] d (d.takeCal c) := d.keeps_updCluster c fun x => hh x _

/-- A calibration that begins. -/
theorem Dev.keeps_calibrateTiles (hg : ∀ t, g { t with calibrating := true } = g t) (hh : ∀ x a, h { x with calNow := a } = h x) (d : Dev)
    (ks : List Nat) (trig : BitVec 3) : Dev.Keeps g h [.array] d (d.calibrateTiles ks trig) := by
  unfold Dev.calibrateTiles
  extract_lets mine a d₁ d₂
  split
  · exact .refl
  · have h₁ : Dev.Keeps g h [.array] d d₁ := d.keeps_array _ rfl rfl rfl
    exact (h₁.trans (Dev.keeps_forAll (fun d k => d.keeps_updTile k hg) _ _)).trans (Dev.keeps_forAll (Dev.keeps_takeCal hh) _ _)

theorem Dev.keeps_driftTrigger (hg : ∀ t, g { t with calibrating := true } = g t) (hh : ∀ x a, h { x with calNow := a } = h x) (d : Dev)
    (k : Nat) : Dev.Keeps g h [.array, .obs] d (d.driftTrigger k) := by
  unfold Dev.driftTrigger
  split
  · exact .refl
  · extract_lets t a v
    split
    · exact (Dev.keeps_calibrateTiles hg hh _ _ _).append (Dev.keeps_count _ _ _)
    · exact .refl

end

/-! ### What the codes leave as it was -/

/-- Of a tile: what it runs, what it owes, its quality. -/
def Tile.account (t : Tile) : List Eval × List Eval × Rat := (t.evals, t.owed, t.qSq)
/-- Of a cluster: its lanes and its indirection table. -/
def Cluster.sums (x : Cluster) : SMap Lane × SMap Byte := (x.lanes, x.map)

/-- Statistics, counters, calibrations and cache lines change neither lanes nor what a tile runs and owes. -/
abbrev Dev.SameSums (d d' : Dev) : Prop := Dev.Keeps Tile.account Cluster.sums [.array, .obs, .fresh] d d'

theorem Dev.SameSums.lanes {d d' : Dev} (h : d.SameSums d') (c : Nat) : (d'.cluster c).lanes = (d.cluster c).lanes :=
  congrArg Prod.fst (h.cluster c)

theorem Dev.sameSums_updTile (d : Dev) (k : Nat) {f : Tile → Tile} (hf : ∀ t, (f t).account = t.account) : d.SameSums (d.updTile k f) :=
  (d.keeps_updTile k hf).mono (by simp)

theorem Dev.sameSums_countC (d : Dev) (c n m : Nat) : d.SameSums (d.countC c n m) := (d.keeps_countC c n m).mono (by simp)

theorem Dev.sameSums_draw (d : Dev) : d.SameSums d.draw :=
  (Dev.keeps_of_array rfl (d.only_fresh _) : Dev.Keeps _ _ [.fresh] d d.draw).mono (by simp)

/-- Peaks are of one tile, where they are recorded at all. -/
theorem Dev.recordPeaks_cases (d : Dev) (k : Nat) (v : EdgeVec) (H L : List Int) :
    d.recordPeaks k v H L = d ∨ ∃ f : Tile → SMap (List Nat), d.recordPeaks k v H L = d.updTile k fun t => { t with peaks := f t } := by
  unfold Dev.recordPeaks Dev.raisePeaks
  extract_lets marked
  split
  · exact .inl rfl
  · exact .inr ⟨_, rfl⟩

theorem Dev.obs_recordPeaks (d : Dev) (k : Nat) (v : EdgeVec) (H L : List Int) : (d.recordPeaks k v H L).obs = d.obs := by
  obtain e | ⟨f, e⟩ := d.recordPeaks_cases k v H L <;> rw [e]
  rfl

theorem Dev.sameSums_recordPeaks (d : Dev) (k : Nat) (v : EdgeVec) (H L : List Int) : d.SameSums (d.recordPeaks k v H L) := by
  obtain e | ⟨f, e⟩ := d.recordPeaks_cases k v H L <;> rw [e]
  · exact .refl
  · exact d.sameSums_updTile k fun _ => rfl

theorem Tile.account_newWindow (t : Tile) (n : Option Nat) : (t.newWindow n).account = t.account := by
  cases n <;> rfl

theorem Dev.sameSums_shadowPass (d : Dev) (k : Nat) (ev : Eval) (p : Part) (patched : List (Nat × Int × Int)) :
    d.SameSums (d.shadowPass k ev p patched) := by
  unfold Dev.shadowPass
  extract_lets d₁ t j w x high low smp lt d₂
  have h₁ : d.SameSums d₁ := by
    unfold d₁
    split
    · exact d.sameSums_updTile k fun t => t.account_newWindow _
    · exact .refl
  have h₂ : d₁.SameSums d₂ := by
    unfold d₂
    split
    · exact ((d₁.sameSums_updTile k fun _ => by rfl).trans (Dev.sameSums_draw _)).trans
        ((Dev.keeps_lookup (fun _ _ _ _ => rfl) _ _ _).mono (by simp))
    · exact .refl
  have hw : ∀ (t : Tile) (n : Option Nat), Tile.account (if { t with shadowSeen := t.shadowSeen + 1 }.shadowSeen ≥ 2 ^ t.shadowLog
      then Tile.newWindow { t with shadowSeen := t.shadowSeen + 1 } n else { t with shadowSeen := t.shadowSeen + 1 }) = t.account :=
    fun t n => by
      split
      · exact Tile.account_newWindow _ n
      · rfl
  split
  · exact h₁
  · exact (h₁.trans h₂).trans (d₂.sameSums_updTile k fun t => hw t _)

/-! ### The evaluation is over, and its codes are corrected (R74, R101, R126) -/

/-- The package with the oldest evaluation of tile `k` taken off and its charge released. -/
def Dev.evalOver (d : Dev) (k : Nat) (rest : List Eval) : Dev := (d.updTile k fun t => { t with evals := rest }).rehold k

theorem Dev.evalOver_only (d : Dev) (k : Nat) (rest : List Eval) : d.only (d.evalOver k rest) [.array] :=
  Dev.only_trans (d.updTile_only _ _) (Dev.rehold_only _ _)

/-- In a marked step the estimates keep what they held (R106). -/
def Dev.keepEstimates (d : Dev) (k : Nat) (t : Tile) : Dev :=
  if d.markedAt (k / 64) then d.updTile k fun x => { x with est := t.est, obs := t.obs } else d

/-- Of the package the correction of codes changes the tile's estimates and draws a free value. -/
theorem Dev.correctPart_fst (d : Dev) (k : Nat) (ev : Eval) (half : Option Nat) (cH cL : List Byte) :
    ∃ e o, (d.correctPart k ev half cH cL).1 = (d.updTile k fun t => { t with est := e, obs := o }).draw := ⟨_, _, rfl⟩

theorem Dev.sameSums_correctPart (d : Dev) (k : Nat) (ev : Eval) (half : Option Nat) (cH cL : List Byte) :
    d.SameSums (d.correctPart k ev half cH cL).1 := by
  obtain ⟨e, o, h⟩ := d.correctPart_fst k ev half cH cL
  rw [h]
  exact (d.sameSums_updTile k fun _ => by rfl).trans (Dev.sameSums_draw _)

theorem Dev.sameSums_keepEstimates (d : Dev) (k : Nat) (t : Tile) : d.SameSums (d.keepEstimates k t) := by
  unfold Dev.keepEstimates
  split
  · exact d.sameSums_updTile k fun _ => rfl
  · exact .refl

theorem Dev.obs_keepEstimates (d : Dev) (k : Nat) (t : Tile) : (d.keepEstimates k t).obs = d.obs := by
  unfold Dev.keepEstimates
  split <;> rfl

/-- The codes of an unsplit evaluation are corrected, and its statistics taken. -/
def Dev.corrected (d : Dev) (k : Nat) (ev : Eval) (rest : List Eval) (cH cL : List Byte) : Dev :=
  ((d.evalOver k rest).correctPart k ev none cH cL).1.keepEstimates k ((d.evalOver k rest).tile k)

theorem Dev.sameSums_corrected (d : Dev) (k : Nat) (ev : Eval) (rest : List Eval) (cH cL : List Byte) :
    (d.evalOver k rest).SameSums (d.corrected k ev rest cH cL) :=
  (Dev.sameSums_correctPart _ _ _ _ _ _).trans (Dev.sameSums_keepEstimates _ _ _)

/-- The correction of codes counts nothing. -/
theorem Dev.obs_corrected (d : Dev) (k : Nat) (ev : Eval) (rest : List Eval) (cH cL : List Byte) :
    (d.corrected k ev rest cH cL).obs = d.obs := by
  obtain ⟨e, o, h⟩ := (d.evalOver k rest).correctPart_fst k ev none cH cL
  rw [Dev.corrected, Dev.obs_keepEstimates, h, Dev.draw_obs, Dev.updTile_only _ _ _ .obs (by simp)]
  exact d.evalOver_only k rest .obs (by simp)

theorem Dev.tile_evalOver (d : Dev) (k : Nat) (rest : List Eval) : (d.evalOver k rest).tile k = { d.tile k with evals := rest } := by
  rw [Dev.evalOver, Dev.tile_rehold, Dev.tile_updTile_same]

/-- A released charge changes neither lanes nor the indirection table. -/
theorem Dev.keeps_evalOver (d : Dev) (k : Nat) (rest : List Eval) : Dev.Keeps Tile.owed Cluster.sums [.array] d (d.evalOver k rest) :=
  (d.keeps_updTile k (f := fun t => { t with evals := rest }) fun _ => rfl).trans (Dev.keeps_rehold (fun _ _ => rfl) _ k)

/-- What reference correction makes of the codes of an unsplit evaluation. -/
def Dev.evalPart (d : Dev) (k : Nat) (ev : Eval) (rest : List Eval) (cH cL : List Byte) : Part :=
  ((d.evalOver k rest).correctPart k ev none cH cL).2

theorem exec_tileEvalComplete_forward {s : State} {k : Nat} {cH cL : List Byte} {ev : Eval} {rest : List Eval}
    (he : (s.dev.tile k).evals = ev :: rest) (hs : ev.split = false) (ht : ev.vec.transposed = false) :
    exec (.tileEvalComplete k cH cL [] []) s
      = .next { s with dev := (s.dev.corrected k ev rest cH cL).judgeForward k ev (s.dev.evalPart k ev rest cH cL) } := by
  rw [show exec (.tileEvalComplete k cH cL [] []) s = execTileEvalComplete k cH cL [] [] s from rfl, execTileEvalComplete]
  refine State.on_eq ?_
  simp only [he, hs, ht, Bool.false_eq_true, if_false]
  rfl

/-! ### Nothing clips, and the check passes (R87, R89, R123) -/

section
variable {d : Dev} {k : Nat} {ev : Eval} {p : Part}

/-- A column of the first 520 that clips is one of the list. -/
theorem Part.clipsAt_false (h : p.clips 520 = []) {j : Nat} (hj : j < 520) : p.clipsAt j = false := by
  simpa using List.filter_eq_nil_iff.mp h j (List.mem_range.mpr hj)

theorem Part.refClip_false (h : p.clips 520 = []) : p.refClip = false := by
  simp [Part.refClip, Part.clipsAt_false h]

theorem Part.clips_516 (h : p.clips 520 = []) : p.clips 516 = [] :=
  List.filter_eq_nil_iff.mpr fun j hj => by
    rw [Part.clipsAt_false h (by have := List.mem_range.mp hj; omega)]; exact Bool.false_ne_true

/-- With no clip and the band check off the codes go to their check. -/
theorem Dev.judgeForward_clean (hc : p.clips 520 = []) (hb : d.bandU = 0) : d.judgeForward k ev p
    = (d.recordPeaks k ev.vec (p.pu true ev.classes) (p.pu false ev.classes)).settle k ev
        [(p, p.pu true ev.classes, p.pu false ev.classes)] [] := by
  have hbu : (d.recordPeaks k ev.vec (p.pu true ev.classes) (p.pu false ev.classes)).bandU = 0 := by
    rw [← hb]
    exact congrArg (fun x : Glob => fieldNat (SMap.get (regReset Off.arith) x.inForce (Off.arith / 4)) 16 8)
      ((d.sameSums_recordPeaks k ev.vec _ _).only .glob (by simp))
  simp [Dev.judgeForward, hc, Part.refClip_false hc, Part.clips_516 hc, hbu]

/-- The checksum groups of an unsplit forward evaluation that fail, high nibble first. -/
def Dev.groupFails (d : Dev) (k : Nat) (ev : Eval) (p : Part) : List ((Nat × Bool × Bool × Bool) × Int) :=
  let lt := 64 * (k / 64) + (d.logicalOf k).getD 0
  let r := fun (i g : Nat) => SMap.get 0 (d.table lt).residues (4 * i + g)
  (if p.skip then [] else failedGroups true none ev.vec.a r d.tolSigma (checkQ2 (d.tile k).qSq) ev.classes (p.pu true ev.classes))
    ++ failedGroups false none ev.vec.a r d.tolSigma (checkQ2 (d.tile k).qSq) ev.classes (p.pu false ev.classes)

/-- P_j = 16 H_j + L_j (R87). -/
def Part.partials (p : Part) (classes : List Nat) : List Int :=
  (List.range 512).map fun j => 16 * (p.pu true classes).getD j 0 + (p.pu false classes).getD j 0

/-- A code set that passes is accumulated; what follows is a matter of statistics. -/
theorem Dev.settle_passed (ht : ev.vec.transposed = false) (hh : p.half = none) (hf : d.groupFails k ev p = []) :
    ∃ d₁ : Dev, d.SameSums d₁ ∧ (d₁.addPartials (k / 64) (64 * (k / 64) + (d.logicalOf k).getD 0) ev.vec (p.partials ev.classes)).SameSums
      (d.settle k ev [(p, p.pu true ev.classes, p.pu false ev.classes)] []) := by
  unfold Dev.groupFails at hf
  unfold Dev.settle
  extract_lets t c lt res r q2 fails sum H L d₁ P d₂ d₃
  have hfails : fails = [] := by simpa [fails, ht, hh] using hf
  have hP : P = p.partials ev.classes := by simp [P, ht, Part.partials, H, L, sum]
  have h₃ : d₂.SameSums d₃ := by
    change d₂.SameSums (if (ev.split || ev.vec.transposed) = true then d₂ else d₂.shadowPass k ev p [])
    split
    · exact .refl
    · exact d₂.sameSums_shadowPass _ _ _ _
  have h₁ : d.MayCount c CC.chkCleared d₁ := Dev.mayCount_unless _ _ _ _ _
  refine ⟨d₁, h₁.keeps.mono (by simp), ?_⟩
  rw [hfails, if_pos (by rfl), ← hP]
  split
  · exact .refl
  · exact h₃.trans ((Dev.keeps_driftTrigger (fun _ => rfl) (fun _ _ => rfl) d₃ k).mono (by simp))

end

theorem Dev.groupFails_congr {d d' : Dev} {k : Nat} (ev : Eval) (p : Part) (hg : d'.glob = d.glob) (ht : d'.array.tables = d.array.tables)
    (hm : (d'.cluster (k / 64)).map = (d.cluster (k / 64)).map) (hq : (d'.tile k).qSq = (d.tile k).qSq) :
    d'.groupFails k ev p = d.groupFails k ev p := by
  have hs : d'.tolSigma = d.tolSigma :=
    congrArg (fun x : Glob => max 4 (fieldNat (SMap.get (regReset Off.cal) x.inForce (Off.cal / 4)) 15 12)) hg
  simp only [Dev.groupFails, Dev.logicalOf_of_map hm, hs, hq, Dev.table, ht]

/-- The oldest evaluation of tile `k` is over; of what the tile owes and of the lanes nothing has changed yet. -/
structure Dev.EvalEnded (d : Dev) (k : Nat) (rest : List Eval) (d' : Dev) : Prop where
  account : (d'.tile k).account = (rest, (d.tile k).owed, (d.tile k).qSq)
  sums : ∀ c, (d'.cluster c).sums = (d.cluster c).sums
  tables : d'.array.tables = d.array.tables
  only : d.only d' [.array, .obs, .fresh]

theorem Dev.EvalEnded.next {d d₁ d₂ : Dev} {k : Nat} {rest : List Eval} (h : d.EvalEnded k rest d₁) (hs : d₁.SameSums d₂) :
    d.EvalEnded k rest d₂ where
  account := (hs.tile k).trans h.account
  sums c := (hs.cluster c).trans (h.sums c)
  tables := hs.tables.trans h.tables
  only := Dev.only_trans h.only hs.only

theorem Dev.evalEnded_evalOver (d : Dev) (k : Nat) (rest : List Eval) : d.EvalEnded k rest (d.evalOver k rest) where
  account := by rw [Dev.tile_evalOver]; rfl
  sums := (d.keeps_evalOver k rest).cluster
  tables := (d.keeps_evalOver k rest).tables
  only := Dev.only_mono (d.keeps_evalOver k rest).only (by simp)

theorem Dev.evalEnded_corrected (d : Dev) (k : Nat) (ev : Eval) (rest : List Eval) (cH cL : List Byte) :
    d.EvalEnded k rest (d.corrected k ev rest cH cL) := (d.evalEnded_evalOver k rest).next (d.sameSums_corrected k ev rest cH cL)

theorem Dev.EvalEnded.bandU {d d' : Dev} {k : Nat} {rest : List Eval} (h : d.EvalEnded k rest d') : d'.bandU = d.bandU :=
  congrArg (fun x : Glob => fieldNat (SMap.get (regReset Off.arith) x.inForce (Off.arith / 4)) 16 8) (h.only .glob (by simp))

theorem Dev.EvalEnded.map {d d' : Dev} {k : Nat} {rest : List Eval} (h : d.EvalEnded k rest d') (c : Nat) :
    (d'.cluster c).map = (d.cluster c).map := congrArg Prod.snd (h.sums c)

theorem Dev.EvalEnded.lanes {d d' : Dev} {k : Nat} {rest : List Eval} (h : d.EvalEnded k rest d') (c : Nat) :
    (d'.cluster c).lanes = (d.cluster c).lanes := congrArg Prod.fst (h.sums c)

theorem Dev.EvalEnded.groupFails {d d' : Dev} {k : Nat} {rest : List Eval} (h : d.EvalEnded k rest d') (ev : Eval) (p : Part) :
    d'.groupFails k ev p = d.groupFails k ev p :=
  Dev.groupFails_congr ev p (h.only .glob (by simp)) h.tables (h.map _) (congrArg (fun x => x.2.2) h.account)

/-- Codes that pass, of an evaluation that is over: the lanes take the partials, and the tile owes nothing more. -/
theorem Dev.EvalEnded.settled {d d' : Dev} {k : Nat} {ev : Eval} {rest : List Eval} {p : Part} (h : d.EvalEnded k rest d')
    (ht : ev.vec.transposed = false) (hh : p.half = none) (hf : d.groupFails k ev p = []) :
    let d₂ := d'.settle k ev [(p, p.pu true ev.classes, p.pu false ev.classes)] []
    (d₂.tile k).evals = rest ∧ (d₂.tile k).owed = (d.tile k).owed
      ∧ (d₂.cluster (k / 64)).lanes = ((d.addPartials (k / 64) (64 * (k / 64) + (d.logicalOf k).getD 0) ev.vec
          (p.partials ev.classes)).cluster (k / 64)).lanes
      ∧ d.only d₂ [.array, .obs, .fresh] := by
  obtain ⟨d₁, h₁, h₂⟩ := Dev.settle_passed ht hh ((h.groupFails ev p).trans hf)
  have hadd : Dev.Keeps Tile.account Cluster.map [.array, .obs, .fresh] d₁ (d₁.addPartials (k / 64)
      (64 * (k / 64) + (d'.logicalOf k).getD 0) ev.vec (p.partials ev.classes)) :=
    (Dev.keeps_addPartials (fun _ _ => rfl) _ _ _ _ _).mono (by simp)
  have hend := (h₂.tile k).trans ((hadd.tile k).trans (h.next h₁).account)
  refine ⟨congrArg Prod.fst hend, congrArg (fun x => x.2.1) hend, ?_,
    Dev.only_trans (h.next h₁).only (Dev.only_trans hadd.only h₂.only)⟩
  rw [h₂.lanes, Dev.logicalOf_of_map (h.map _)]
  exact Dev.lanes_addPartials_congr _ _ ((h.next h₁).lanes _) (h.next h₁).tables

/-- Settles O27: with no clip the codes go to their check, which they pass. -/
theorem cleanEvaluationAddsSixteenHighPlusLow : Obligations.CleanEvaluationAddsSixteenHighPlusLow := by
  intro s k cH cL ev rest he hs ht hb
  refine fun (hc : (s.dev.evalPart k ev rest cH cL).clips 520 = []) hf => Runs.of_next (exec_tileEvalComplete_forward he hs ht) ?_
  have hend := s.dev.evalEnded_corrected k ev rest cH cL
  rw [Dev.judgeForward_clean hc (hend.bandU.trans hb)]
  exact (hend.next (Dev.sameSums_recordPeaks _ k ev.vec _ _)).settled ht rfl hf

/-! ### A clip (R41, R49, R50, R124) -/

/-- What the package is once an operation `e` is ordered of tile `k`, whose oldest evaluation is over. -/
def Dev.Ordered (d : Dev) (k : Nat) (rest : List Eval) (e : Eval) (d' : Dev) : Prop :=
  (d'.tile k).evals = rest ∧ (d'.tile k).owed = (d.tile k).owed ++ [e]
    ∧ (d'.cluster (k / 64)).lanes = (d.cluster (k / 64)).lanes ∧ d.only d' [.array, .obs, .fresh]

theorem Dev.tile_order (d : Dev) (k : Nat) (e : Eval) :
    (d.order k e).tile k = { d.tile k with owed := (d.tile k).owed ++ [{ e with firstHalfKept := false }] } :=
  d.tile_updTile_same k _

theorem Dev.splitSeen_order (d : Dev) (k : Nat) (e : Eval) : ((d.order k e).tile k).splitSeen = (d.tile k).splitSeen := by
  rw [Dev.tile_order]

theorem Dev.obs_order (d : Dev) (k : Nat) (e : Eval) : (d.order k e).obs = d.obs := rfl

theorem Dev.EvalEnded.ordered {d d' : Dev} {k : Nat} {rest : List Eval} (h : d.EvalEnded k rest d') (e : Eval) :
    d.Ordered k rest { e with firstHalfKept := false } (d'.order k e) := by
  refine ⟨?_, ?_, h.lanes _, Dev.only_mono (h.only.append (d'.updTile_only k _)) (by simp)⟩
  · rw [Dev.tile_order]; exact congrArg Prod.fst h.account
  · rw [Dev.tile_order, show (d.tile k).owed = (d'.tile k).owed from (congrArg (fun x => x.2.1) h.account).symm]

section
variable {d : Dev} {k : Nat} {ev : Eval} {p : Part}

/-- The observed split that a clip at ×1 orders. -/
def Eval.observedSplit (ev : Eval) : Eval := { ev with kind := .normal, split := true, observed := true, classes := List.replicate 520 0 }

/-- The tile with the pair noted as seen to need a split. -/
def Tile.noteSplit (t : Tile) (layer : Nat) : Tile :=
  { t with splitSeen := if t.splitSeen.contains layer then t.splitSeen else layer :: t.splitSeen }

theorem Tile.mem_noteSplit (t : Tile) (layer : Nat) : layer ∈ (t.noteSplit layer).splitSeen := by
  unfold Tile.noteSplit
  split
  · next h => simpa using h
  · exact List.mem_cons_self

/-- The package with a clip at ×1 counted and the values' peaks recorded. -/
def Dev.clipNoted (d : Dev) (k : Nat) (ev : Eval) (p : Part) : Dev :=
  (if (p.clips 520).any (fun j => ev.classes.getD j 0 == 0) then d.countC (k / 64) CC.tileClipX1 else d).recordPeaks k ev.vec
    (p.pu true ev.classes) (p.pu false ev.classes)

theorem Dev.sameSums_clipNoted (d : Dev) (k : Nat) (ev : Eval) (p : Part) : d.SameSums (d.clipNoted k ev p) :=
  ((Dev.mayCount_if d _ _ _ _).keeps.mono (by simp) : d.SameSums _).trans (Dev.sameSums_recordPeaks _ _ _ _ _)

theorem Dev.judgeForward_clipX1 (hr : p.refClip = false) (hx : ((p.clips 520).any fun j => ev.classes.getD j 0 == 0) = true) :
    d.judgeForward k ev p = (((d.clipNoted k ev p).countC (k / 64) CC.tileSplitObserved).updTile k (·.noteSplit ev.vec.layer)).order k
      ev.observedSplit := by
  unfold Dev.judgeForward Dev.clipNoted
  simp only [hr, hx, Bool.false_eq_true, if_false, if_true]
  rfl

/-- The reference codes of one nibble that clip, with their directions. -/
def Part.refFails (codes : List Nat) (low : Bool) : List ((Nat × Bool × Bool × Bool) × Int) :=
  [516, 517, 518, 519].filterMap fun j =>
    let v := codes.getD j 128
    if isClip v then some ((j - 516, low, v == 0, true), (0 : Int)) else none

/-- A clip of a reference column in either nibble. -/
def Part.refClips (p : Part) : List ((Nat × Bool × Bool × Bool) × Int) :=
  (if p.skip then [] else Part.refFails p.codesH false) ++ Part.refFails p.codesL true

theorem Part.refFails_ne_nil {codes : List Nat} {j : Nat} (low : Bool) (hj : j ∈ [516, 517, 518, 519]) (h : isClip (codes.getD j 128) = true) :
    Part.refFails codes low ≠ [] :=
  List.ne_nil_of_mem (List.mem_filterMap.mpr ⟨j, hj, if_pos h⟩)

theorem Part.refClips_ne_nil (h : p.refClip = true) : p.refClips ≠ [] := by
  obtain ⟨j, hj, hc⟩ := List.any_eq_true.mp h
  obtain hh | hl := Bool.or_eq_true_iff.mp hc
  · obtain ⟨hs, hh⟩ := Bool.and_eq_true_iff.mp hh
    rw [Part.refClips, if_neg (by simpa using hs)]
    exact List.append_ne_nil_of_left_ne_nil (Part.refFails_ne_nil _ hj hh) _
  · exact List.append_ne_nil_of_right_ne_nil _ (Part.refFails_ne_nil _ hj hl)

theorem Dev.judgeForward_refClip (hr : p.refClip = true) :
    d.judgeForward k ev p = (d.clipNoted k ev p).checkFailed k ev p.refClips := by
  unfold Dev.judgeForward Dev.clipNoted
  simp only [hr, if_true]
  rfl

/-- The re-evaluation that the first failed check of an input orders. -/
def Eval.reevaluation (ev : Eval) (fs : List ((Nat × Bool × Bool × Bool) × Int)) : Eval :=
  { ev with kind := .reeval, reevals := ev.reevals + 1, fails := fs.map Prod.fst }

theorem Dev.checkFailed_first {fs : List ((Nat × Bool × Bool × Bool) × Int)} (hf : fs ≠ []) (hz : ev.reevals = 0) :
    d.checkFailed k ev fs = (d.countC (k / 64) CC.chkFail).order k (ev.reevaluation fs) := by
  cases fs with
  | nil => exact absurd rfl hf
  | cons f fs =>
    have hn : ((f :: fs).find? fun x => decide (ev.reevals ≥ 1) && ev.fails.contains x.1) = none :=
      List.find?_eq_none.mpr fun x _ => by simp [hz]
    simp only [Dev.checkFailed, hn]
    exact if_neg (by omega)

/-- Neither the statistics nor the peaks count a failed check. -/
theorem Dev.counterC_clipNoted (d : Dev) (k : Nat) (ev : Eval) (p : Part) :
    (d.clipNoted k ev p).counterC (k / 64) CC.chkFail = d.counterC (k / 64) CC.chkFail :=
  (Dev.counterC_of_obs (Dev.obs_recordPeaks _ _ _ _ _) _ _).trans ((Dev.mayCount_if d _ _ _ _).counterC (by decide))

end

/-- Settles O28: a clip at ×1 orders the observed split, a clip of a reference column the re-evaluation. -/
theorem clippedEvaluationIsNotAccumulated : Obligations.ClippedEvaluationIsNotAccumulated := by
  intro s k cH cL ev rest he hs ht
  have hend := s.dev.evalEnded_corrected k ev rest cH cL
  let p := s.dev.evalPart k ev rest cH cL
  have hnote := hend.next (Dev.sameSums_clipNoted _ k ev p)
  refine ⟨fun (hr : p.refClip = false) hx => Runs.of_next (exec_tileEvalComplete_forward he hs ht) ?split,
    fun (hr : p.refClip = true) hz => Runs.of_next (exec_tileEvalComplete_forward he hs ht) ?reeval⟩
  case split =>
    rw [Dev.judgeForward_clipX1 hr hx]
    let d₁ := ((s.dev.corrected k ev rest cH cL).clipNoted k ev p).countC (k / 64) CC.tileSplitObserved
    have hd : s.dev.EvalEnded k rest (d₁.updTile k (·.noteSplit ev.vec.layer)) :=
      (hnote.next (Dev.sameSums_countC _ _ _ _)).next (d₁.sameSums_updTile k fun _ => rfl)
    obtain ⟨h₁, h₂, h₃, h₄⟩ := hd.ordered ev.observedSplit
    refine ⟨⟨_, ⟨h₁, h₂, rfl, h₃, h₄⟩, rfl, rfl, rfl⟩, ?_⟩
    rw [Dev.splitSeen_order, Dev.tile_updTile_same]
    exact Tile.mem_noteSplit (d₁.tile k) ev.vec.layer
  case reeval =>
    rw [Dev.judgeForward_refClip hr, Dev.checkFailed_first (Part.refClips_ne_nil hr) hz]
    obtain ⟨h₁, h₂, h₃, h₄⟩ := (hnote.next (Dev.sameSums_countC _ (k / 64) CC.chkFail 1)).ordered (ev.reevaluation p.refClips)
    refine ⟨⟨_, ⟨h₁, h₂, rfl, h₃, h₄⟩, rfl, congrArg (· + 1) hz⟩, ?_⟩
    rw [Dev.counterC_of_obs (Dev.obs_order _ _ _), Dev.counterC_countC_same, Dev.counterC_clipNoted,
      Dev.counterC_of_obs (s.dev.obs_corrected k ev rest cH cL)]
    rfl

end Sys2Proof.Machine
end

section
/-! SUPPORT. Edge conversion: what the conversion of an input keeps, and what it puts at the row drivers (R46, R63, R80, R83, R84, R86,
R97, R166, R225). -/

namespace Sys2Proof.Machine

/-! ### What the side path, the cache and the counters keep -/

/-- No tile and no indirection table changes, and cluster `c` counts no skipped input. -/
structure Dev.EdgeKeeps (c : Nat) (d d' : Dev) : Prop where
  frame : Dev.Keeps id Cluster.map [.array, .obs, .serve] d d'
  skips : d'.counterC c CC.tileZeroSkip = d.counterC c CC.tileZeroSkip

section
variable {c : Nat} {d d₁ d₂ : Dev}

theorem Dev.EdgeKeeps.refl : Dev.EdgeKeeps c d d := ⟨.refl, rfl⟩

theorem Dev.EdgeKeeps.trans (h₁ : Dev.EdgeKeeps c d d₁) (h₂ : Dev.EdgeKeeps c d₁ d₂) : Dev.EdgeKeeps c d d₂ :=
  ⟨h₁.frame.trans h₂.frame, h₂.skips.trans h₁.skips⟩

theorem Dev.edgeKeeps_forAll {α : Type} {f : Dev → α → Dev} (hf : ∀ (d : Dev) (a : α), Dev.EdgeKeeps c d (f d a)) (xs : List α)
    (d : Dev) : Dev.EdgeKeeps c d (d.forAll xs f) :=
  Dev.forAll_holds (fun x => Dev.EdgeKeeps c d x) f (fun _ a hd => hd.trans (hf _ a)) xs d .refl

theorem Dev.edgeKeeps_updCluster (d : Dev) (e : Nat) {f : Cluster → Cluster} (hf : ∀ x, (f x).map = x.map) :
    Dev.EdgeKeeps c d (d.updCluster e f) := ⟨(d.keeps_updCluster e hf).mono (by simp), rfl⟩

theorem Dev.MayCount.edgeKeeps {n : Nat} (h : d.MayCount c n d₁) (hn : CC.tileZeroSkip ≠ n) : Dev.EdgeKeeps c d d₁ :=
  ⟨h.keeps.mono (by simp), h.counterC hn⟩

theorem Dev.edgeKeeps_countC (d : Dev) (c m : Nat) {n : Nat} (h : CC.tileZeroSkip ≠ n) : Dev.EdgeKeeps c d (d.countC c n m) :=
  Dev.MayCount.edgeKeeps (.inr ⟨m, rfl⟩) h

/-- A row that a spare in another bank stands in for costs a cycle. -/
theorem Dev.useRow_cases (d : Dev) (c r : Nat) : d.useRow c r = d
    ∨ d.useRow c r = (d.countC c CC.spadBankExtra).updCluster c fun x =>
      { x with sequencer := { x.sequencer with shift := x.sequencer.shift + 1 } } := by
  unfold Dev.useRow
  split
  · split
    · exact .inl rfl
    · exact .inr rfl
  · exact .inl rfl

theorem Dev.edgeKeeps_useRow (d : Dev) (c r : Nat) : Dev.EdgeKeeps c d (d.useRow c r) := by
  obtain e | e := d.useRow_cases c r <;> rw [e]
  · exact .refl
  · exact (d.edgeKeeps_countC c 1 (by decide)).trans (Dev.edgeKeeps_updCluster _ c fun _ => rfl)

/-- A row is read as it stands, whichever spare holds it. -/
theorem Dev.spadBytes_useRow (d : Dev) (c r q : Nat) : (d.useRow c r).spadBytes c q = d.spadBytes c q := by
  obtain e | e := d.useRow_cases c r <;> rw [e]
  rw [Dev.spadBytes, Dev.cluster_updCluster_same]; rfl

theorem Dev.edgeKeeps_lookup (d : Dev) (c : Nat) (l : LineKind) : Dev.EdgeKeeps c d (d.lookup c l) := by
  have hk := fun (d : Dev) a b e => d.edgeKeeps_updCluster (c := c) c
    (f := fun x => { x with lines := a, misses := b, missWait := e }) fun _ => rfl
  unfold Dev.lookup
  extract_lets x d₁
  split
  · exact (hk _ _ _ _).trans (Dev.edgeKeeps_countC _ _ _ (by decide))
  · have hm : Dev.EdgeKeeps c d d₁ := d.edgeKeeps_countC _ _ (by decide)
    split
    · exact hm
    · split
      · exact hm.trans (hk _ _ _ _)
      · exact hm.trans (hk _ _ _ _)

theorem Dev.edgeKeeps_addLane (d : Dev) (c n : Nat) (v u : Int) : Dev.EdgeKeeps c d (d.addLane c n v u) := by
  unfold Dev.addLane Dev.setAccLane
  extract_lets old d₁
  have h : Dev.EdgeKeeps c d d₁ := d.edgeKeeps_updCluster c fun _ => by rfl
  exact h.trans ((Dev.mayCount_if _ _ _ _ _).edgeKeeps (by decide))

theorem Dev.edgeKeeps_addSide (d : Dev) (c l : Nat) (v : EdgeVec) (ms es : List Byte) (channels : List Nat) :
    Dev.EdgeKeeps c d (d.addSide c l v ms es channels) := by
  have hl : ∀ {α : Type} (n : α → Nat) (x u : α → Int) (xs : List α) (d : Dev),
      Dev.EdgeKeeps c d (d.forAll xs fun d a => d.addLane c (n a) (x a) (u a)) := fun n x u =>
    Dev.edgeKeeps_forAll fun d a => d.edgeKeeps_addLane c _ _ _
  unfold Dev.addSide
  split
  · exact (hl _ _ _ _ _).trans (hl _ _ _ _ _)
  · exact ((Dev.edgeKeeps_forAll (fun d i => hl _ _ _ _ _) _ _).trans (hl _ _ _ _ _)).trans (hl _ _ _ _ _)

/-- A tuning step's record is no part of the array. -/
theorem Dev.edgeKeeps_keepVec (d : Dev) (e l : Nat) (v : EdgeVec) (ms es : List Byte) : Dev.EdgeKeeps c d (d.keepVec e l v ms es) := by
  have hj : ∀ p f, Dev.EdgeKeeps c d (d.tune p f) := fun p f => by
    unfold Dev.tune
    split
    · exact ⟨Dev.keeps_of_array rfl (Dev.only_mono (d.updJob_only p _) (by simp)), rfl⟩
    · exact .refl
  unfold Dev.keepVec
  split
  · split
    · exact .refl
    · exact hj _ _
  · exact .refl

/-! ### Poison (R80) -/

theorem SMap.get_poison (ls : SMap Lane) (n : Nat) (xs : List Nat) (j : Nat) :
    SMap.get Lane.fresh (xs.foldl (fun ls i => SMap.put Lane.fresh ls (n + i) { SMap.get Lane.fresh ls (n + i) with poison := true }) ls) j
      = if ∃ i ∈ xs, j = n + i then { SMap.get Lane.fresh ls j with poison := true } else SMap.get Lane.fresh ls j := by
  induction xs generalizing ls with
  | nil => simp
  | cons i xs ih =>
    rw [List.foldl_cons, ih, SMap.get_put]
    by_cases hi : j = n + i <;> by_cases hx : ∃ i ∈ xs, j = n + i <;> simp [hi, hx]

theorem Dev.poison_poisonLanes (d : Dev) (c a : Nat) {k n : Nat} (h : n < k) :
    (SMap.get Lane.fresh ((d.poisonLanes c a k).cluster c).lanes (a + n)).poison = true := by
  rw [Dev.poisonLanes, Dev.cluster_updCluster_same]
  change (SMap.get Lane.fresh (List.foldl _ _ _) _).poison = true
  rw [SMap.get_poison, if_pos ⟨n, List.mem_range.mpr h, rfl⟩]

theorem Dev.edgeKeeps_poisonLanes (d : Dev) (c a k : Nat) : Dev.EdgeKeeps c d (d.poisonLanes c a k) :=
  d.edgeKeeps_updCluster c fun _ => by rfl

/-! ### What the conversion reads -/

theorem Dev.scaledInput_of_tables {d d' : Dev} (h : d'.array.tables = d.array.tables) (c l : Nat) (ms es : List Byte) :
    d'.scaledInput c l ms es = d.scaledInput c l ms es := by
  have ht : d'.table (64 * c + l) = d.table (64 * c + l) := congrArg (SMap.get CorrTab.empty · _) h
  rw [Dev.scaledInput, Dev.scaledInput, ht]

theorem Dev.dynD_of_glob {d d' : Dev} (h : d'.glob = d.glob) : d'.dynD = d.dynD :=
  congrArg (fun x : Glob => fieldNat (SMap.get (regReset Off.arith) x.inForce (Off.arith / 4)) 3 0) h

theorem Dev.EdgeKeeps.physOf (h : Dev.EdgeKeeps c d d₁) (e l : Nat) : d₁.physOf e l = d.physOf e l :=
  Dev.physOf_of_map (h.frame.cluster e) l

theorem Dev.EdgeKeeps.onStandIn (h : Dev.EdgeKeeps c d d₁) (e l : Nat) : d₁.onStandIn e l = d.onStandIn e l := by
  rw [Dev.onStandIn, Dev.onStandIn, h.physOf]
  cases d.physOf e l with
  | none => rfl
  | some k => exact congrArg (fun t : Tile => match t.state with | .suspect | .standin | .retired => true | _ => false) (h.frame.tile k)

end

/-! ### The conversion -/

/-- What the converter makes of row `dataRow`'s mantissas and its sixteen exponents in `expRow` (R63, R83, R84). -/
def Dev.edgeOut (d : Dev) (lt layer dataRow expRow r : Nat) (tr : Bool) : EdgeOut :=
  let ms := d.spadBytes (lt / 64) dataRow
  let es := ((d.spadBytes (lt / 64) expRow).drop (16 * r)).take 16
  let input := if tr then d.scaledInput (lt / 64) (lt % 64) ms es else (ms, es)
  edgeConvert input.1 input.2 (if tr then [] else SMap.get [] (d.table lt).statics layer) (if tr then 0 else d.dynD)

/-- The input at the drivers. -/
def EdgeOut.vec (o : EdgeOut) (layer acc : Nat) (tr : Bool) (h : U32) : EdgeVec :=
  { layer := layer, a := o.a, et := o.et, poison := o.poison, transposed := tr, accBase := acc, handle := h }

/-- A conversion of logical tile `l`, on physical tile `k`, that makes `o`: its side work and its poison leave `d₁`, zeros are
skipped, and the input `v` goes to the drivers or to the stand-in. -/
def Dev.Converted (c l k a : Nat) (o : EdgeOut) (v : EdgeVec) (d d' : Dev) : Prop :=
  ∃ d₁, Dev.EdgeKeeps c d d₁ ∧ (o.poison = true → ∀ n < 512, (SMap.get Lane.fresh (d₁.cluster c).lanes (a + n)).poison = true)
    ∧ d' = if o.zero then d₁.countC c CC.tileZeroSkip
      else if d₁.onStandIn c l then d₁.standIn c l v else d₁.updTile k fun t => { t with edge := some v }

theorem State.on_holds {s : State} {f : Dev → Dev} {p : Dev → Prop} (h : p (f s.dev)) :
    ∃ d', p d' ∧ s.on f = .next { s with dev := d' } := ⟨_, h, State.on_next s f⟩

theorem edgeConversion_full {s : State} {lt layer dataRow expRow r acc k : Nat} {tr : Bool} {h : U32}
    (hk : s.dev.physOf (lt / 64) (lt % 64) = some k) (he : (s.dev.tile k).edge ≠ none) :
    exec (.edgeConversion lt layer dataRow expRow r tr acc h) s = .next s := by
  rw [show exec (.edgeConversion lt layer dataRow expRow r tr acc h) s = execEdgeConversion lt layer dataRow expRow r tr acc h s from rfl,
    execEdgeConversion]
  refine State.on_eq ?_
  extract_lets c l phys
  have hp : phys = some k := hk
  rw [hp, if_pos (by simpa [Option.isSome_iff_ne_none] using he)]

theorem edgeConversion_converts {s : State} {lt layer dataRow expRow r acc k : Nat} {tr : Bool} {h : U32}
    (hk : s.dev.physOf (lt / 64) (lt % 64) = some k) (he : (s.dev.tile k).edge = none) :
    ∃ d', Dev.Converted (lt / 64) (lt % 64) k acc (s.dev.edgeOut lt layer dataRow expRow r tr)
        ((s.dev.edgeOut lt layer dataRow expRow r tr).vec layer acc tr h) s.dev d'
      ∧ exec (.edgeConversion lt layer dataRow expRow r tr acc h) s = .next { s with dev := d' } := by
  rw [show exec (.edgeConversion lt layer dataRow expRow r tr acc h) s = execEdgeConversion lt layer dataRow expRow r tr acc h s from rfl,
    execEdgeConversion]
  refine State.on_holds ?_
  extract_lets c l phys d₁ ms es static input o v d₂ d₃ d₄ d₅ d₆ d₇ g n d₈ needs missing d₉ d₁₀
  have hp : phys = some k := hk
  rw [hp, if_neg (by simp [he])]
  have h₁ : Dev.EdgeKeeps c s.dev d₁ := (s.dev.edgeKeeps_useRow c _).trans (Dev.edgeKeeps_useRow _ c _)
  have h₄ : Dev.EdgeKeeps c d₁ d₄ :=
    ((Dev.mayCount_unless d₁ c _ _ _).edgeKeeps (by decide)).trans
      (((Dev.mayCount_if d₂ c _ _ _).edgeKeeps (by decide)).trans ((Dev.mayCount_unless d₃ c _ _ _).edgeKeeps (by decide)))
  have h₅ : Dev.EdgeKeeps c d₄ d₅ := Dev.edgeKeeps_forAll (fun d i =>
    (d.edgeKeeps_lookup c _).trans ((Dev.mayCount_unless _ c _ _ _).edgeKeeps (by decide))) _ _
  have h₈ : Dev.EdgeKeeps c d₅ d₈ := (Dev.edgeKeeps_forAll (fun d i => d.edgeKeeps_lookup c _) _ _).trans
    ((d₆.edgeKeeps_keepVec c l v ms es).trans (Dev.edgeKeeps_forAll (fun d i => d.edgeKeeps_lookup c _) _ _))
  have h₉ : Dev.EdgeKeeps c d₈ d₉ := by
    unfold d₉
    split
    · exact d₈.edgeKeeps_addSide c l v ms es _
    · exact d₈.edgeKeeps_updCluster c fun _ => by rfl
  have h₁₀ : Dev.EdgeKeeps c d₉ d₁₀ := by
    unfold d₁₀
    split
    · exact d₉.edgeKeeps_poisonLanes c acc 512
    · exact .refl
  have ho : o = s.dev.edgeOut lt layer dataRow expRow r tr := by
    have hs : ∀ q, d₁.spadBytes c q = s.dev.spadBytes c q := fun q =>
      (Dev.spadBytes_useRow _ c _ q).trans (s.dev.spadBytes_useRow c _ q)
    have ht : d₁.table lt = s.dev.table lt := congrArg (SMap.get CorrTab.empty · lt) h₁.frame.tables
    unfold o input static ms es Dev.edgeOut
    rw [hs, hs, ht, Dev.scaledInput_of_tables h₁.frame.tables, Dev.dynD_of_glob (h₁.frame.only .glob (by simp))]
  refine ⟨d₁₀, h₁.trans (h₄.trans (h₅.trans (h₈.trans (h₉.trans h₁₀)))), fun hx m hm => ?_, ?_⟩
  · have hd : d₁₀ = d₉.poisonLanes c acc 512 := if_pos (ho ▸ hx)
    rw [hd]
    exact d₉.poison_poisonLanes c acc hm
  · rw [← ho]
    rfl

/-- Settles O30: unless an edge still holds an input, the conversion's side work keeps tiles, maps and the count of skipped inputs,
and its last step counts a skip or puts the input at the drivers. -/
theorem edgeConversionAlignsTheInput : Obligations.EdgeConversionAlignsTheInput := by
  unfold Obligations.EdgeConversionAlignsTheInput
  intro s lt layer dataRow expRow r acc k tr h hk
  extract_lets ms es input o
  have ho : s.dev.edgeOut lt layer dataRow expRow r tr = o := by
    rw [Dev.edgeOut]
  clear_value o
  have hc := edgeConversion_converts (layer := layer) (dataRow := dataRow) (expRow := expRow) (r := r) (acc := acc) (tr := tr) (h := h) hk
  rw [ho] at hc
  refine ⟨fun he hs hz => ?_, fun he hz => ?_, edgeConversion_full hk⟩
  · obtain ⟨d', ⟨d₁, hd, hp, rfl⟩, hx⟩ := hc he
    rw [hz, if_neg Bool.false_ne_true, hd.onStandIn, hs,
      if_neg Bool.false_ne_true] at hx
    refine Runs.of_next hx ⟨Dev.only_trans hd.frame.only (Dev.only_mono (d₁.updTile_only k _) (by simp)),
      ⟨_, by rw [Dev.tile_updTile_same], rfl, rfl, rfl, rfl, rfl, rfl, rfl⟩, hp, ?_, fun j hj => ?_⟩
    · exact (Dev.tile_updTile_field Tile.state d₁ k (fun _ => by rfl) k).trans (congrArg Tile.state (hd.frame.tile k))
    · exact (d₁.tile_updTile_other _ hj).trans (hd.frame.tile j)
  · obtain ⟨d', ⟨d₁, hd, hp, rfl⟩, hx⟩ := hc he
    rw [hz, if_pos rfl] at hx
    refine Runs.of_next hx ⟨hd.frame.tile, ?_⟩
    rw [Dev.counterC_countC_same, hd.skips]
    rfl

end Sys2Proof.Machine
end

section
/-! SUPPORT. Restore: the credit of every tile, an urgent turn, a row slot that finds its cells in place, and a restore's first and last
slot (R60 to R62, R112 to R117, R120, R344). -/

namespace Sys2Proof.Machine

/-! ### Steps that change one tile -/

/-- Work along a list in which each item changes its own tile alone leaves a listed tile as its item does. -/
theorem Dev.tile_forAll_own {f : Dev → Nat → Dev} (hf : ∀ (d : Dev) (a j : Nat), j ≠ a → (f d a).tile j = d.tile j) {xs : List Nat}
    (hn : xs.Nodup) (d : Dev) (j : Nat) :
    if j ∈ xs then ∃ d₁ : Dev, d₁.tile j = d.tile j ∧ (d.forAll xs f).tile j = (f d₁ j).tile j
    else (d.forAll xs f).tile j = d.tile j := by
  induction xs generalizing d with
  | nil => rfl
  | cons a xs ih =>
    obtain ⟨ha, hn⟩ := List.nodup_cons.mp hn
    have hi := ih hn (f d a)
    change if _ then ∃ d₁ : Dev, d₁.tile j = d.tile j ∧ ((f d a).forAll xs f).tile j = _ else ((f d a).forAll xs f).tile j = _
    by_cases hj : j = a
    · subst hj
      rw [if_neg ha] at hi
      exact (if_pos List.mem_cons_self).mpr ⟨d, rfl, hi⟩
    · rw [hf d a j hj] at hi
      simpa [hj] using hi

/-! ### What turns urgent, and what is overdue (R116, R344) -/

/-- The tile once its restore has turned urgent. -/
def Tile.urged (t : Tile) : Tile := { t with urgentSeen := true, restore := t.restore.map fun x => { x with urgent := true } }

theorem Dev.turnUrgent_cases (d : Dev) (k : Nat) : d.turnUrgent k = d
    ∨ d.restoreFirst k = true ∧ d.turnUrgent k = (d.updTile k Tile.urged).countC (k / 64) CC.restoreUrgent := by
  unfold Dev.turnUrgent
  extract_lets t c
  split
  · exact .inl rfl
  · next h =>
    refine .inr ⟨?_, rfl⟩
    simpa using (not_or.mp h).2

theorem Dev.tile_turnUrgent (d : Dev) (k j : Nat) :
    (d.turnUrgent k).tile j = d.tile j ∨ j = k ∧ (d.turnUrgent k).tile j = (d.tile j).urged := by
  obtain e | ⟨-, e⟩ := d.turnUrgent_cases k <;> rw [e]
  · exact .inl rfl
  · by_cases hj : j = k
    · subst hj; exact .inr ⟨rfl, d.tile_updTile_same j _⟩
    · exact .inl (d.tile_updTile_other _ hj)

theorem Dev.tile_turnUrgent_other (d : Dev) {k j : Nat} (h : j ≠ k) : (d.turnUrgent k).tile j = d.tile j :=
  (d.tile_turnUrgent k j).resolve_right fun x => h x.1

/-- What a tile holds beside its restore and the mark of its urgency is as it was. -/
theorem Dev.tile_turnUrgent_field {β : Type} (g : Tile → β) (hg : ∀ t u x, g { t with urgentSeen := u, restore := x } = g t)
    (d : Dev) (k j : Nat) : g ((d.turnUrgent k).tile j) = g (d.tile j) := by
  obtain e | ⟨-, e⟩ := d.tile_turnUrgent k j <;> rw [e]
  exact hg _ _ _

theorem Dev.turnUrgent_only (d : Dev) (k : Nat) : d.only (d.turnUrgent k) [.array, .obs] := by
  obtain e | ⟨-, e⟩ := d.turnUrgent_cases k <;> rw [e]
  · exact d.only_refl _
  · exact Dev.only.append (d.updTile_only k _) (Dev.countC_only _ _ _ _)

theorem Dev.counterC_turnUrgent (d : Dev) (k c : Nat) {n : Nat} (h : n ≠ CC.restoreUrgent) (hc : c = k / 64) :
    (d.turnUrgent k).counterC c n = d.counterC c n := by
  obtain e | ⟨-, e⟩ := d.turnUrgent_cases k <;> rw [e]
  rw [hc]
  exact Dev.counterC_countC_other _ _ _ h

/-- A tile may be aged, now or at the next boundary. -/
theorem Dev.ageTile_cases (d : Dev) (k : Nat) : ∃ a b, d.ageTile k = d ∨ d.ageTile k = d.updTile k (fun t => { t with aged := a, agedStaged := b })
    ∨ d.ageTile k = (d.updTile k fun t => { t with aged := a, agedStaged := b }).count DC.agedSet := by
  unfold Dev.ageTile
  extract_lets t
  split
  · exact ⟨false, false, .inl rfl⟩
  · split
    · exact ⟨t.aged, true, .inr (.inl rfl)⟩
    · exact ⟨true, t.agedStaged, .inr (.inr rfl)⟩

theorem Dev.tile_ageTile_other (d : Dev) {k j : Nat} (h : j ≠ k) : (d.ageTile k).tile j = d.tile j := by
  obtain ⟨a, b, e | e | e⟩ := d.ageTile_cases k <;> rw [e]
  · exact d.tile_updTile_other _ h
  · exact (Dev.tile_count _ _ _ j).trans (d.tile_updTile_other _ h)

/-- What a tile holds beside its retention class is as it was. -/
theorem Dev.tile_ageTile_field {β : Type} (g : Tile → β) (hg : ∀ t a b, g { t with aged := a, agedStaged := b } = g t)
    (d : Dev) (k j : Nat) : g ((d.ageTile k).tile j) = g (d.tile j) := by
  obtain ⟨a, b, e | e | e⟩ := d.ageTile_cases k <;> rw [e]
  · exact d.tile_updTile_field g k (fun t => hg t a b) j
  · exact d.tile_updTile_field g k (fun t => hg t a b) j

theorem Dev.ageTile_only (d : Dev) (k : Nat) : d.only (d.ageTile k) [.array, .obs] := by
  obtain ⟨a, b, e | e | e⟩ := d.ageTile_cases k <;> rw [e]
  · exact d.only_refl _
  · exact Dev.only_mono (d.updTile_only k _) (by simp)
  · exact Dev.only.append (d.updTile_only k _) (Dev.count_only _ _ _)

theorem Dev.counterC_ageTile (d : Dev) (k c n : Nat) : (d.ageTile k).counterC c n = d.counterC c n := by
  obtain ⟨a, b, e | e | e⟩ := d.ageTile_cases k <;> rw [e]
  · rfl
  · rfl

/-- The ledger is no part of the array. -/
theorem Dev.tile_logTile (d : Dev) (k : Nat) (event : BitVec 4) (ruling : BitVec 2) (origin : BitVec 3) (detail : U32) (j : Nat) :
    (d.logTile k event ruling origin detail).tile j = d.tile j :=
  Dev.tile_of_array ((d.log_only _ _ _ _ _ _ _) .array (by simp)) j

/-- An overdue restore is entered among the tile's, and may age it. -/
theorem Dev.tileOverdue_cases (d : Dev) (k : Nat) : ∃ times : List Nat, ∃ d₁ : Dev,
    d₁ = (d.updTile k fun t => { t with overdues := times }).logTile k 9 3 0 0 ∧ (d.tileOverdue k = d₁ ∨ d.tileOverdue k = d₁.ageTile k) := by
  unfold Dev.tileOverdue
  extract_lets t times d₁
  refine ⟨times, d₁, rfl, ?_⟩
  split
  · exact .inr rfl
  · exact .inl rfl

theorem Dev.tile_tileOverdue_other (d : Dev) {k j : Nat} (h : j ≠ k) : (d.tileOverdue k).tile j = d.tile j := by
  obtain ⟨times, d₁, rfl, e | e⟩ := d.tileOverdue_cases k <;> rw [e]
  · rw [Dev.tile_logTile, d.tile_updTile_other _ h]
  · rw [Dev.tile_ageTile_other _ h, Dev.tile_logTile, d.tile_updTile_other _ h]

theorem Dev.tile_tileOverdue_field {β : Type} (g : Tile → β) (hg : ∀ t a b o, g { t with aged := a, agedStaged := b, overdues := o } = g t)
    (d : Dev) (k j : Nat) : g ((d.tileOverdue k).tile j) = g (d.tile j) := by
  obtain ⟨times, d₁, rfl, e | e⟩ := d.tileOverdue_cases k <;> rw [e]
  · rw [Dev.tile_logTile]
    exact d.tile_updTile_field g k (fun t => hg t t.aged t.agedStaged times) j
  · rw [Dev.tile_ageTile_field g (fun t a b => hg t a b t.overdues), Dev.tile_logTile]
    exact d.tile_updTile_field g k (fun t => hg t t.aged t.agedStaged times) j

/-! ### A tick of the credits (R112) -/

/-- The tile's credit after a tick at `t` °C. -/
def Tile.ticked (x : Tile) (t : Int) : Rat :=
  if x.state = .ready ∨ x.state = .restoring then x.credit + 1 / restoreInterval t x.aged else x.credit

theorem Dev.tile_tickTile_other (d : Dev) {k j : Nat} (t : Int) (h : j ≠ k) : (d.tickTile k t).tile j = d.tile j := by
  unfold Dev.tickTile
  extract_lets x c d₁
  have h₁ : d₁.tile j = d.tile j := (Dev.tile_turnUrgent_other _ h).trans (d.tile_setTile_other _ h)
  split
  · split
    · rw [Dev.tile_tileOverdue_other _ h, Dev.tile_countC, d₁.tile_updTile_other _ h, h₁]
    · exact h₁
  · rfl

theorem Dev.tile_tickTile_same (d : Dev) (k : Nat) (t : Int) :
    ((d.tickTile k t).tile k).state = (d.tile k).state ∧ ((d.tickTile k t).tile k).credit = (d.tile k).ticked t := by
  unfold Dev.tickTile Tile.ticked
  extract_lets x c d₁
  have h₁ : ∀ {β : Type} (g : Tile → β), (∀ t u y, g { t with urgentSeen := u, restore := y } = g t) →
      g (d₁.tile k) = g { x with credit := c } := fun g hg => by
    unfold d₁
    rw [Dev.tile_turnUrgent_field g hg, d.tile_setTile_same]
  split
  · split
    · constructor
      · rw [Dev.tile_tileOverdue_field Tile.state fun _ _ _ _ => rfl, Dev.tile_countC,
          d₁.tile_updTile_field Tile.state k (fun _ => by rfl) k]
        exact h₁ Tile.state fun _ _ _ => rfl
      · rw [Dev.tile_tileOverdue_field Tile.credit fun _ _ _ _ => rfl, Dev.tile_countC,
          d₁.tile_updTile_field Tile.credit k (fun _ => by rfl) k]
        exact h₁ Tile.credit fun _ _ _ => rfl
    · exact ⟨h₁ Tile.state fun _ _ _ => rfl, h₁ Tile.credit fun _ _ _ => rfl⟩
  · exact ⟨rfl, rfl⟩

/-- The tick of every listed tile. -/
def Dev.tickAll (d : Dev) (t : Int) : Dev := d.forAll (d.array.tiles.map Prod.fst).dedup fun d k => d.tickTile k t

/-- A tile that is not listed is OFF. -/
theorem Dev.tile_tickAll (d : Dev) (t : Int) (j : Nat) :
    ((d.tickAll t).tile j).state = (d.tile j).state ∧ ((d.tickAll t).tile j).credit = (d.tile j).ticked t := by
  unfold Dev.tickAll
  have h := Dev.tile_forAll_own (f := fun d k => d.tickTile k t) (fun d a j hj => d.tile_tickTile_other t hj)
    (List.nodup_dedup (d.array.tiles.map Prod.fst)) d j
  split at h
  · obtain ⟨d₁, he, hd⟩ := h
    rw [hd, ← he]
    exact d₁.tile_tickTile_same j t
  · next hn =>
    rw [h]
    have ho : d.tile j = Tile.off := by
      by_contra hne
      exact hn (List.mem_dedup.mpr (SMap.mem_keys_of_get_ne hne))
    rw [ho]
    exact ⟨rfl, rfl⟩

theorem runs_restoreCreditTick (s : State) : Runs .restoreCreditTick s fun d' => d'.power.tickMax = none
    ∧ (∀ j, (d'.tile j).state = (s.dev.tile j).state) ∧ ∀ j, (d'.tile j).credit = (s.dev.tile j).ticked s.dev.tTick := by
  have h := s.dev.tile_tickAll s.dev.tTick
  refine Runs.of_next (d' := { s.dev.tickAll s.dev.tTick with power := { (s.dev.tickAll s.dev.tTick).power with tickMax := none } }) ?_
    ⟨rfl, fun j => (h j).1, fun j => (h j).2⟩
  rw [show exec .restoreCreditTick s = execRestoreCreditTick s from rfl, execRestoreCreditTick]
  exact State.on_next s _

/-! ### A row slot that finds every cell in place (R60, R61, R135, R137) -/

/-- What a passed row leaves: tile `k` differs in its statistics, the mark of its calibration and the time of its slot; no account of a
cluster changes. -/
structure Dev.RowRead (k : Nat) (d d' : Dev) : Prop where
  tile : ∃ a b c, d'.tile k = { d.tile k with rowStats := a, calibrating := b, rowUntil := c }
  others : ∀ j, j ≠ k → d'.tile j = d.tile j
  held : ∀ c, (d'.cluster c).held = (d.cluster c).held
  only : d.only d' [.array]

section
variable {k : Nat} {d d₁ d₂ : Dev}

theorem Dev.RowRead.refl : Dev.RowRead k d d :=
  ⟨⟨_, _, _, rfl⟩, fun _ _ => rfl, fun _ => rfl, d.only_refl _⟩

theorem Dev.RowRead.trans (h₁ : Dev.RowRead k d d₁) (h₂ : Dev.RowRead k d₁ d₂) : Dev.RowRead k d d₂ := by
  obtain ⟨a, b, c, e₁⟩ := h₁.tile
  obtain ⟨a', b', c', e₂⟩ := h₂.tile
  exact ⟨⟨a', b', c', by rw [e₂, e₁]⟩, fun j hj => (h₂.others j hj).trans (h₁.others j hj), fun c => (h₂.held c).trans (h₁.held c),
    Dev.only_trans h₁.only h₂.only⟩

/-- What the tile holds beside those three is as it was. -/
theorem Dev.RowRead.field {β : Type} (h : Dev.RowRead k d d₁) (g : Tile → β)
    (hg : ∀ t a b c, g { t with rowStats := a, calibrating := b, rowUntil := c } = g t) : g (d₁.tile k) = g (d.tile k) := by
  obtain ⟨a, b, c, e⟩ := h.tile
  rw [e]
  exact hg _ _ _ _

theorem Dev.rowRead_updTile (d : Dev) (k : Nat) {f : Tile → Tile}
    (h : ∀ t, ∃ a b c, f t = { t with rowStats := a, calibrating := b, rowUntil := c }) : Dev.RowRead k d (d.updTile k f) := by
  obtain ⟨a, b, c, e⟩ := h (d.tile k)
  exact ⟨⟨a, b, c, by rw [Dev.tile_updTile_same, e]⟩, fun j hj => d.tile_updTile_other f hj, fun _ => rfl, d.updTile_only k f⟩

theorem Dev.rowRead_newStatistics (d : Dev) (k : Nat) : Dev.RowRead k d (d.newStatistics k) := by
  unfold Dev.newStatistics
  split
  · refine (d.rowRead_updTile k fun t => ⟨t.rowStats, true, t.rowUntil, rfl⟩).trans
      ⟨⟨_, _, _, rfl⟩, fun _ _ => rfl, fun c => ?_, Dev.updCluster_only _ _ _⟩
    exact Dev.cluster_updCluster_field Cluster.held _ _ (fun _ => by rfl) c
  · exact .refl

theorem Dev.rowRead_takeRead (d : Dev) (k r : Nat) (levels : List Int) (codes : List Byte) :
    Dev.RowRead k d (d.takeRead k r levels codes) :=
  (d.rowRead_updTile k fun t => ⟨_, t.calibrating, t.rowUntil, rfl⟩).trans (Dev.rowRead_newStatistics _ k)

theorem Dev.rowRead_takeSlot (d : Dev) (k n : Nat) : Dev.RowRead k d (d.takeSlot k n) :=
  d.rowRead_updTile k fun t => ⟨t.rowStats, t.calibrating, _, rfl⟩

/-- Every cell of the row is within 3 codes of its nearest level. -/
def rowNear (codes : List Byte) : Prop := ∀ j < 520, (levelDev (codes.getD j 128).toNat (nearestLevel (codes.getD j 128).toNat)).natAbs < 4

/-- The next row of a restore, or its end. -/
def Dev.restoreNext (d : Dev) (k : Nat) (x : Restore) : Dev :=
  if x.row + 1 ≥ 520 then d.endRestore k x else d.updTile k fun t => { t with restore := some { x with row := x.row + 1 } }

/-- Without an audit a row in place is passed. -/
theorem Dev.restoreSlot_near {codes : List Byte} (hn : rowNear codes) (d : Dev) (k : Nat) {x : Restore} (ha : x.audit = false)
    (reads : List (List Byte)) : ∃ d₁, Dev.RowRead k d d₁ ∧ d.restoreSlot k x codes reads = d₁.restoreNext k x := by
  have hm : ((List.range 520).any fun j => decide ((levelDev (codes.getD j 128).toNat
      (((List.range 520).map fun j => nearestLevel (codes.getD j 128).toNat).getD j 0)).natAbs ≥ 4)) = false := by
    rw [List.any_eq_false]
    intro j hj
    have hj := List.mem_range.mp hj
    simpa [hj] using hn j hj
  unfold Dev.restoreSlot
  extract_lets c next levels d₁ may wrong d₂ moved w d₃ x' y
  split
  · exact ⟨_, d.rowRead_takeSlot k _, rfl⟩
  · have hw : wrong = false := by unfold wrong; rw [ha, Bool.false_and]
    have hd : d₂ = d₁ := if_neg (by rw [ha]; exact Bool.false_ne_true)
    have hv : moved = false := hm
    rw [hw, hv, hd, if_neg Bool.false_ne_true, if_neg Bool.false_ne_true]
    exact ⟨_, (d.rowRead_takeRead k x.row levels codes).trans (d₁.rowRead_takeSlot k _), rfl⟩

end

/-! ### What the turn of a restore to urgent leaves of the choice (R62, R76, R116, R117) -/

theorem Dev.earlyUrgent_of_glob {d d' : Dev} (h : d'.glob = d.glob) : d'.earlyUrgent = d.earlyUrgent := by
  have hf : ∀ a b, d'.fldIn Off.restore a b = d.fldIn Off.restore a b := fun a b =>
    congrArg (fun x : Glob => fieldNat (SMap.get (regReset Off.restore) x.inForce (Off.restore / 4)) a b) h
  rw [Dev.earlyUrgent, Dev.earlyUrgent, hf, hf]

theorem Dev.auditLog2_of_glob {d d' : Dev} (h : d'.glob = d.glob) : d'.auditLog2 = d.auditLog2 := by
  have hf : d'.fldIn Off.restore 19 16 = d.fldIn Off.restore 19 16 :=
    congrArg (fun x : Glob => fieldNat (SMap.get (regReset Off.restore) x.inForce (Off.restore / 4)) 19 16) h
  rw [Dev.auditLog2, Dev.auditLog2, hf]

/-- Whether a restore comes first is read from its tile and the thresholds. -/
theorem Dev.restoreFirst_of_tile {d d' : Dev} {k : Nat} (hg : d'.glob = d.glob) (ht : d'.tile k = d.tile k) :
    d'.restoreFirst k = d.restoreFirst k := by
  have he : d'.earlyUrgent = d.earlyUrgent := Dev.earlyUrgent_of_glob hg
  rw [Dev.restoreFirst, Dev.restoreFirst, ht, he]

/-- A restore that has turned urgent came first already. -/
theorem Dev.restoreFirst_turnUrgent (d : Dev) (k : Nat) : (d.turnUrgent k).restoreFirst k = d.restoreFirst k := by
  obtain e | ⟨hf, e⟩ := d.turnUrgent_cases k <;> rw [e]
  rw [hf]
  have he : ((d.updTile k Tile.urged).countC (k / 64) CC.restoreUrgent).earlyUrgent = d.earlyUrgent := Dev.earlyUrgent_of_glob rfl
  rw [Dev.restoreFirst, he, Dev.tile_countC, Dev.tile_updTile_same]
  cases hr : (d.tile k).restore with
  | none => simpa [Dev.restoreFirst, Tile.urged, hr] using hf
  | some x => simp [Tile.urged, hr]

theorem Dev.gap_turnUrgent (d : Dev) (k : Nat) (due : Bool) : (d.turnUrgent k).gap k due = d.gap k due := by
  obtain e | ⟨-, e⟩ := d.turnUrgent_cases k <;> rw [e]
  rw [Dev.gap, Dev.gap, Dev.tile_countC, Dev.tile_updTile_same]
  rfl

/-- Urgent restores of the other tiles wait as before. -/
theorem Dev.admits_turnUrgent (d : Dev) (k charge rank : Nat) : (d.turnUrgent k).admits k charge rank = d.admits k charge rank := by
  obtain e | ⟨-, e⟩ := d.turnUrgent_cases k
  · rw [e]
  · have hw : ∀ j, j ≠ k → (d.turnUrgent k).urgentWaits j = d.urgentWaits j := fun j hj => by
      have ht := d.tile_turnUrgent_other hj
      rw [Dev.urgentWaits, Dev.urgentWaits, ht, Dev.restoreFirst_of_tile (d.turnUrgent_only k .glob (by simp)) ht]
    have ha : (d.turnUrgent k).ahead k rank = d.ahead k rank := by
      have hc : ∀ c, (d.turnUrgent k).cluster c = d.cluster c := fun c => by rw [e]; rfl
      have hl : ∀ c, (d.turnUrgent k).allow c = d.allow c := fun c => by rw [e]; rfl
      unfold Dev.ahead
      simp only [hc, hl]
      congr 2
      split
      · rfl
      · refine List.filter_congr fun j _ => ?_
        by_cases hj : j = k
        · simp [hj]
        · rw [hw j hj]
    rw [Dev.admits, Dev.admits, ha, e]
    rfl

/-! ### A restore's first and last slot (R74, R115, R120) -/

section
variable {s : State} {k : Nat} {due : Bool} {row : RowReads}

/-- A row slot may be taken: no evaluation is in progress, and the restore is urgent or finds a gap (R62, R117). -/
def Dev.restoreMay (d : Dev) (k : Nat) (due : Bool) : Prop :=
  (d.tile k).evals = [] ∧ (d.restoreFirst k = true ∨ d.gap k due = true)

theorem Dev.restoreMay.goes (hm : s.dev.restoreMay k due) :
    (!((s.dev.turnUrgent k).tile k).evals.isEmpty || !(s.dev.restoreFirst k || (s.dev.turnUrgent k).gap k due)) = false := by
  obtain ⟨he, hg⟩ := hm
  rw [Dev.tile_turnUrgent_field Tile.evals (fun _ _ _ => rfl), he, Dev.gap_turnUrgent]
  obtain h | h := hg <;> simp [h]

/-- The slot of a restore in progress. -/
theorem exec_restoreRow_goesOn (hm : s.dev.restoreMay k due) {x : Restore} (hx : ((s.dev.turnUrgent k).tile k).restore = some x) :
    exec (.restoreRow k due row) s
      = .next { s with dev := (s.dev.turnUrgent k).restoreSlot k { x with urgent := s.dev.restoreFirst k } row.codes row.verify } := by
  rw [show exec (.restoreRow k due row) s = execRestoreRow k due row s from rfl, execRestoreRow]
  refine State.on_eq ?_
  simp only [s.dev.restoreFirst_turnUrgent k, hm.goes, hx, Bool.false_eq_true, if_false]

/-- The rank that a restore asks with (R68). -/
def Dev.restoreRank (d : Dev) (k : Nat) : Nat := if d.restoreFirst k then 0 else 3

/-- The package once a restore of tile `k` has been admitted and has begun. -/
def Dev.restoreBegun (d : Dev) (k : Nat) : Dev := ((d.turnUrgent k).unwait k (d.restoreRank k)).beginRestore k (d.restoreFirst k)

/-- The slot that begins one. -/
theorem exec_restoreRow_begins (hm : s.dev.restoreMay k due) (hs : (s.dev.tile k).state = .ready) (hr : (s.dev.tile k).restore = none)
    (hc : (s.dev.tile k).credit * 100 ≥ s.dev.earlyUrgent.1) (ha : s.dev.admits k 1 (s.dev.restoreRank k) = true)
    {x : Restore} (hx : ((s.dev.restoreBegun k).tile k).restore = some x) :
    exec (.restoreRow k due row) s = .next { s with dev := (s.dev.restoreBegun k).restoreSlot k x row.codes row.verify } := by
  have hr' : ((s.dev.turnUrgent k).tile k).restore = none := by
    obtain e | ⟨-, e⟩ := s.dev.tile_turnUrgent k k <;> rw [e]
    · exact hr
    · rw [Tile.urged, hr]; rfl
  have hg : ((s.dev.turnUrgent k).tile k).state = .ready
      ∧ ((s.dev.turnUrgent k).tile k).credit * 100 ≥ (s.dev.turnUrgent k).earlyUrgent.1 := by
    rw [Dev.tile_turnUrgent_field Tile.state (fun _ _ _ => rfl), Dev.tile_turnUrgent_field Tile.credit (fun _ _ _ => rfl),
      Dev.earlyUrgent_of_glob (s.dev.turnUrgent_only k .glob (by simp))]
    exact ⟨hs, hc⟩
  have hq : (s.dev.turnUrgent k).ask k 1 (s.dev.restoreRank k) = ((s.dev.turnUrgent k).unwait k (s.dev.restoreRank k), true) :=
    Dev.ask_of_admits ((s.dev.admits_turnUrgent k 1 _).trans ha)
  rw [show exec (.restoreRow k due row) s = execRestoreRow k due row s from rfl, execRestoreRow]
  refine State.on_eq ?_
  simp only [s.dev.restoreFirst_turnUrgent k, hm.goes, hr', Bool.false_eq_true, if_false, if_pos hg]
  rw [Dev.restoreBegun] at hx ⊢
  rw [Dev.restoreRank] at hq hx ⊢
  rw [hq]
  simp only [if_true, hx]

end

/-! ### What the beginning and the end leave -/

/-- The tile as its restore begins. -/
def Tile.restoreBegun (u : Bool) (t : Tile) : Tile :=
  { t with state := .restoring, credit := 0, overdue := false, restore := some { row := 0, audit := false, rewritten := 0, urgent := u } }

/-- Without audits a restore begins on its tile and in its cluster's account, and may be counted. -/
theorem Dev.beginRestore_counts {d : Dev} (k : Nat) (ha : d.auditLog2 = none) (u : Bool) :
    ((d.updTile k (Tile.restoreBegun u)).rehold k).MayCount (k / 64) CC.restoreEligible (d.beginRestore k u) := by
  unfold Dev.beginRestore
  rw [ha]
  exact Dev.mayCount_unless _ _ _ _ _

section
variable {d : Dev} {k : Nat} (ha : d.auditLog2 = none) (u : Bool)
include ha

theorem Dev.tile_beginRestore_same : (d.beginRestore k u).tile k = (d.tile k).restoreBegun u :=
  (Dev.tile_of_array (Dev.beginRestore_counts k ha u).array k).trans ((Dev.tile_rehold _ k k).trans (d.tile_updTile_same k _))

theorem Dev.tile_beginRestore_other {j : Nat} (h : j ≠ k) : (d.beginRestore k u).tile j = d.tile j :=
  (Dev.tile_of_array (Dev.beginRestore_counts k ha u).array j).trans ((Dev.tile_rehold _ k j).trans (d.tile_updTile_other _ h))

theorem Dev.tileHeld_beginRestore : (d.beginRestore k u).tileHeld k = if (d.tile k).prog.isSome then 2 else 1 := by
  have hc := (Dev.beginRestore_counts k ha u).array
  rw [Dev.tileHeld_of_cluster (congrArg Cluster.held (Dev.cluster_of_array hc _)), Dev.tileHeld_rehold, d.tile_updTile_same,
    Tile.charge_of_active (.inr (.inl rfl))]
  rfl

theorem Dev.beginRestore_only : d.only (d.beginRestore k u) [.array, .obs] :=
  Dev.only_mono (((d.updTile_only k _).append (Dev.rehold_only _ k)).append (Dev.beginRestore_counts k ha u).only) (by simp)

end

/-- The tile as its restore ends. -/
def Tile.restored (n : Nat) (m : List Nat) (t : Tile) : Tile :=
  { t with state := .ready, restore := none, urgentSeen := false, restores := t.restores + 1, sinceAudit := n, rewrites := m }

/-- An unaudited restore's end: READY, counted; its rewrites may age the tile. -/
theorem Dev.endRestore_cases (d : Dev) (k : Nat) {x : Restore} (ha : x.audit = false) : ∃ n m, ∃ d₁ : Dev,
    d₁ = ((d.updTile k (Tile.restored n m)).rehold k).countC (k / 64) CC.tileRestore
      ∧ (d.endRestore k x = d₁ ∨ d.endRestore k x = d₁.ageTile k) := by
  unfold Dev.endRestore
  extract_lets c hot d₁ d₂ d₃ h
  have h₃ : d₃ = d₂ := if_neg (by rw [ha]; exact Bool.false_ne_true)
  rw [h₃]
  refine ⟨min 255 ((d.tile k).sinceAudit + 1),
    if hot then (x.rewritten :: (d.tile k).rewrites).take 64 else (d.tile k).rewrites, d₂, ?_, ?_⟩
  · unfold d₂ d₁
    rw [ha]
    rfl
  · split
    · exact .inr rfl
    · exact .inl rfl

/-- A restore has ended on tile `k`. -/
structure Dev.RestoreEnded (k : Nat) (d d' : Dev) : Prop where
  state : (d'.tile k).state = .ready
  restore : (d'.tile k).restore = none
  restores : (d'.tile k).restores = (d.tile k).restores + 1
  cells : (d'.tile k).cells = (d.tile k).cells
  counted : d'.counterC (k / 64) CC.tileRestore = d.counterC (k / 64) CC.tileRestore + 1
  only : d.only d' [.array, .obs]

theorem Dev.RestoreEnded.ageTile {d d₁ : Dev} {k : Nat} (h : Dev.RestoreEnded k d d₁) : Dev.RestoreEnded k d (d₁.ageTile k) where
  state := (d₁.tile_ageTile_field Tile.state (fun _ _ _ => rfl) k k).trans h.state
  restore := (d₁.tile_ageTile_field Tile.restore (fun _ _ _ => rfl) k k).trans h.restore
  restores := (d₁.tile_ageTile_field Tile.restores (fun _ _ _ => rfl) k k).trans h.restores
  cells := (d₁.tile_ageTile_field Tile.cells (fun _ _ _ => rfl) k k).trans h.cells
  counted := (d₁.counterC_ageTile k _ _).trans h.counted
  only := Dev.only_trans h.only (d₁.ageTile_only k)

/-- What comes before the end keeps the tile's count and cells. -/
theorem Dev.RestoreEnded.after {d₀ d d₁ : Dev} {k : Nat} (h : Dev.RestoreEnded k d d₁) (hr : (d.tile k).restores = (d₀.tile k).restores)
    (hc : (d.tile k).cells = (d₀.tile k).cells) (hn : d.counterC (k / 64) CC.tileRestore = d₀.counterC (k / 64) CC.tileRestore)
    (ho : d₀.only d [.array, .obs]) : Dev.RestoreEnded k d₀ d₁ :=
  ⟨h.state, h.restore, by rw [h.restores, hr], h.cells.trans hc, by rw [h.counted, hn], Dev.only_trans ho h.only⟩

theorem Dev.restoreEnded_endRestore (d : Dev) (k : Nat) {x : Restore} (ha : x.audit = false) : Dev.RestoreEnded k d (d.endRestore k x) := by
  obtain ⟨n, m, d₁, h₁, e⟩ := d.endRestore_cases k ha
  have ht : d₁.tile k = (d.tile k).restored n m := by
    rw [h₁, Dev.tile_countC, Dev.tile_rehold, d.tile_updTile_same]
  have h : Dev.RestoreEnded k d d₁ := by
    refine ⟨?_, ?_, ?_, ?_, ?_, ?_⟩
    iterate 4 rw [ht]; rfl
    · rw [h₁, Dev.counterC_countC_same]; rfl
    · rw [h₁]
      exact Dev.only_mono (((d.updTile_only k _).append (Dev.rehold_only _ k)).append (Dev.countC_only _ _ _ _)) (by simp)
  obtain e | e := e <;> rw [e]
  · exact h
  · exact h.ageTile

section
variable {s : State} {k : Nat} {due : Bool} {row : RowReads}

/-- The last row of an unaudited restore, its cells in place. -/
theorem runs_restoreRow_last (hm : s.dev.restoreMay k due) {x : Restore} (hx : (s.dev.tile k).restore = some x) (hr : x.row = 519)
    (ha : x.audit = false) (hn : rowNear row.codes) : Runs (.restoreRow k due row) s fun d' => Dev.RestoreEnded k s.dev d' := by
  obtain ⟨y, hy, hyr, hya⟩ : ∃ y : Restore, ((s.dev.turnUrgent k).tile k).restore = some y ∧ y.row = 519 ∧ y.audit = false := by
    obtain e | ⟨-, e⟩ := s.dev.tile_turnUrgent k k <;> rw [e]
    · exact ⟨x, hx, hr, ha⟩
    · exact ⟨{ x with urgent := true }, by rw [Tile.urged, hx]; rfl, hr, ha⟩
  obtain ⟨d₁, h₁, e⟩ := Dev.restoreSlot_near hn (s.dev.turnUrgent k) k (x := { y with urgent := s.dev.restoreFirst k }) hya row.verify
  refine Runs.of_next ((exec_restoreRow_goesOn hm hy).trans (by rw [e])) ?_
  rw [Dev.restoreNext, if_pos (by rw [hyr])]
  refine (d₁.restoreEnded_endRestore k hya).after ?_ ?_ ?_ ?_
  · rw [h₁.field Tile.restores fun _ _ _ _ => rfl, Dev.tile_turnUrgent_field Tile.restores fun _ _ _ => rfl]
  · rw [h₁.field Tile.cells fun _ _ _ _ => rfl, Dev.tile_turnUrgent_field Tile.cells fun _ _ _ => rfl]
  · rw [Dev.counterC_of_obs (h₁.only .obs (by simp)), Dev.counterC_turnUrgent _ _ _ (by decide) rfl]
  · exact Dev.only_mono ((s.dev.turnUrgent_only k).append h₁.only) (by simp)

/-- The first row of an unaudited restore, its cells in place. -/
theorem runs_restoreRow_first (hm : s.dev.restoreMay k due) (hs : (s.dev.tile k).state = .ready) (hr : (s.dev.tile k).restore = none)
    (hc : (s.dev.tile k).credit * 100 ≥ s.dev.earlyUrgent.1) (ha : s.dev.admits k 1 (s.dev.restoreRank k) = true)
    (hl : s.dev.auditLog2 = none) (hn : rowNear row.codes) :
    Runs (.restoreRow k due row) s fun d' => (d'.tile k).state = .restoring ∧ (d'.tile k).credit = 0
        ∧ (∃ x, (d'.tile k).restore = some x ∧ x.row = 1 ∧ x.rewritten = 0)
        ∧ d'.tileHeld k = (if (s.dev.tile k).prog.isSome then 2 else 1)
        ∧ (d'.tile k).cells = (s.dev.tile k).cells ∧ (∀ j, j ≠ k → d'.tile j = s.dev.tile j) ∧ s.dev.only d' [.array, .obs] := by
  have ho : s.dev.only ((s.dev.turnUrgent k).unwait k (s.dev.restoreRank k)) [.array, .obs] :=
    Dev.only_mono ((s.dev.turnUrgent_only k).append (Dev.unwait_only _ _ _)) (by simp)
  have hl' : ((s.dev.turnUrgent k).unwait k (s.dev.restoreRank k)).auditLog2 = none := by
    rw [← hl, Dev.auditLog2_of_glob (ho .glob (by simp))]
  have ht := Dev.tile_beginRestore_same (k := k) hl' (s.dev.restoreFirst k)
  have hx : ((s.dev.restoreBegun k).tile k).restore = some { row := 0, audit := false, rewritten := 0, urgent := s.dev.restoreFirst k } :=
    congrArg Tile.restore ht
  obtain ⟨d₁, h₁, e⟩ := Dev.restoreSlot_near hn (s.dev.restoreBegun k) k
    (x := { row := 0, audit := false, rewritten := 0, urgent := s.dev.restoreFirst k }) rfl row.verify
  refine Runs.of_next ((exec_restoreRow_begins hm hs hr hc ha hx).trans (by rw [e])) ?_
  rw [Dev.restoreNext, if_neg (by decide : ¬ 0 + 1 ≥ 520)]
  have hd : s.dev.restoreBegun k = ((s.dev.turnUrgent k).unwait k (s.dev.restoreRank k)).beginRestore k (s.dev.restoreFirst k) := rfl
  have hheld := Dev.tileHeld_beginRestore (k := k) hl' (s.dev.restoreFirst k)
  rw [← hd] at ht hheld
  refine ⟨?_, ?_, ⟨_, by rw [Dev.tile_updTile_same], rfl, rfl⟩, ?_, ?_, fun j hj => ?_, ?_⟩
  · rw [Dev.tile_updTile_field Tile.state d₁ k (fun _ => by rfl), h₁.field Tile.state fun _ _ _ _ => rfl, ht]
    rfl
  · rw [Dev.tile_updTile_field Tile.credit d₁ k (fun _ => by rfl), h₁.field Tile.credit fun _ _ _ _ => rfl, ht]
    rfl
  · rw [Dev.tileHeld_of_cluster (h₁.held (k / 64)) (d := s.dev.restoreBegun k) (d' := d₁.updTile k _), hheld, Dev.tile_unwait,
      Dev.tile_turnUrgent_field Tile.prog fun _ _ _ => rfl]
  · rw [Dev.tile_updTile_field Tile.cells d₁ k (fun _ => by rfl), h₁.field Tile.cells fun _ _ _ _ => rfl, ht]
    exact Dev.tile_turnUrgent_field Tile.cells (fun _ _ _ => rfl) s.dev k k
  · rw [d₁.tile_updTile_other _ hj, h₁.others j hj, hd, Dev.tile_beginRestore_other hl' _ hj, Dev.tile_unwait,
      Dev.tile_turnUrgent_other _ hj]
  · have hb : s.dev.only (s.dev.restoreBegun k) [.array, .obs] := Dev.only_trans ho (Dev.beginRestore_only hl' _)
    exact Dev.only_mono ((hb.append h₁.only).append (d₁.updTile_only k _)) (by simp)

end

/-- Settles O31: an admitted restore that begins passes its first row, its last row ends it, and a tick adds to each listed tile's credit. -/
theorem restoreRunsRowByRow : Obligations.RestoreRunsRowByRow := by
  unfold Obligations.RestoreRunsRowByRow
  intro s k due codes t near may
  refine ⟨fun hs hm hr hc ha hl _ hn => runs_restoreRow_first hm hs hr hc ha hl hn, fun x hx hr ha hm hn => ?_, runs_restoreCreditTick s⟩
  obtain ⟨d', e, h⟩ := runs_restoreRow_last (row := ⟨codes, []⟩) hm hx hr ha hn
  exact ⟨d', e, h.state, h.restore, h.restores, h.cells, h.counted, h.only⟩

end Sys2Proof.Machine
end

section
/-! SUPPORT. Programming: its grant, a row whose first verify read passes, the verification test and its reference-column check
(R55 to R59, R66, R74, R76, R128, R331, R474). -/

namespace Sys2Proof.Machine

/-! ### The grant (R58, R66, R76) -/

/-- The tile as its programming begins. -/
def Tile.programmed (t : Tile) : Tile :=
  { t.stop with state := if t.state = .standin then .standin else .programming, repair := if t.state = .standin then 1 else 0,
                prog := some { row := 0, sums := [], spares := [] }, everReady := false, classes := [], peaks := [], repairDone := none }

theorem Tile.charge_programmed (t : Tile) : t.programmed.charge = 2 := if_pos rfl

theorem TileState.programs_iff (x : TileState) : x.programs = true ↔ x ∈ [TileState.blank, .programming, .standin] := by
  cases x <;> decide

section
variable {s : State} {k : Nat}

/-- An admitted grant: a ruling not yet recorded enters the ladder, and the tile begins. -/
theorem exec_programmingStart (hw : (s.dev.tile k).progWait = true) (hp : (s.dev.tile k).prog = none)
    (he : (s.dev.tile k).evals = []) (hb : s.dev.power.boHold = false) (hn : s.dev.programming < Config.progMax)
    (hs : (s.dev.tile k).state.programs = true) (ha : s.dev.admits k 2 2 = true) :
    ∃ f : Tile → Tile, (∀ t, (f t).state = t.state) ∧ (exec (.programmingStart k) s
        = .next { s with dev := ((s.dev.unwait k 2).updTile k Tile.programmed).rehold k }
      ∨ exec (.programmingStart k) s = .next { s with dev := (((s.dev.unwait k 2).updTile k f).updTile k Tile.programmed).rehold k }) := by
  have hc : ((s.dev.tile k).progWait && (s.dev.tile k).state.programs && (s.dev.tile k).prog.isNone && (s.dev.tile k).evals.isEmpty
      && !s.dev.power.boHold && decide (s.dev.programming < Config.progMax)) = true := by simp [hw, hs, hp, he, hb, hn]
  rw [show exec (.programmingStart k) s = execProgrammingStart k s from rfl, execProgrammingStart, State.on_next]
  simp only [if_pos hc, Dev.ask_of_admits ha, if_true]
  refine ⟨fun t => { t with recorded := true, ladder := (s.dev.ltime :: t.ladder).take 3 }, fun _ => rfl, ?_⟩
  split
  · exact .inr rfl
  · exact .inl rfl

/-- What the grant gives. -/
structure Dev.ProgramBegun (k : Nat) (d d' : Dev) : Prop where
  tile : ∃ t : Tile, t.state = (d.tile k).state ∧ d'.tile k = t.programmed
  held : d'.tileHeld k = 2
  others : ∀ j, j ≠ k → d'.tile j = d.tile j
  only : d.only d' [.array]

theorem Dev.programBegun_updTile (d : Dev) (k : Nat) : Dev.ProgramBegun k d ((d.updTile k Tile.programmed).rehold k) where
  tile := ⟨d.tile k, rfl, d.tile_updTile_same k _⟩
  held := by rw [Dev.tileHeld_rehold, d.tile_updTile_same, Tile.charge_programmed]
  others := fun _ hj => d.tile_updTile_other _ hj
  only := Dev.only_trans (d.updTile_only k _) (Dev.rehold_only _ k)

theorem runs_programmingStart (hw : (s.dev.tile k).progWait = true) (hp : (s.dev.tile k).prog = none)
    (he : (s.dev.tile k).evals = []) (hb : s.dev.power.boHold = false) (hn : s.dev.programming < Config.progMax)
    (hs : (s.dev.tile k).state.programs = true) (ha : s.dev.admits k 2 2 = true) :
    Runs (.programmingStart k) s fun d' => Dev.ProgramBegun k s.dev d' := by
  obtain ⟨f, hf, e | e⟩ := exec_programmingStart hw hp he hb hn hs ha
  · have h := (s.dev.unwait k 2).programBegun_updTile k
    exact Runs.of_next e ⟨h.tile, h.held, h.others, Dev.only_trans (s.dev.unwait_only k 2) h.only⟩
  · have h := ((s.dev.unwait k 2).updTile k f).programBegun_updTile k
    obtain ⟨t, ht, hd⟩ := h.tile
    refine Runs.of_next e ⟨⟨t, ?_, hd⟩, h.held, fun j hj => ?_, ?_⟩
    · rw [ht, Dev.tile_updTile_same, hf]
      rfl
    · exact (h.others j hj).trans (Dev.tile_updTile_other _ f hj)
    · exact Dev.only_trans (s.dev.unwait_only k 2) (Dev.only_trans (Dev.updTile_only _ k f) h.only)

/-- No row is written in a hold (R331). -/
theorem exec_programRow_held (hb : s.dev.power.boHold = true) (v : List (List Byte)) : exec (.programRow k v) s = .next s := by
  rw [show exec (.programRow k v) s = execProgramRow k v s from rfl, execProgramRow]
  refine State.on_eq ?_
  split
  · rfl
  · rw [if_pos hb]

end

/-! ### The reference-column check (R126, R474) -/

theorem isClip_false_iff (n : Nat) : isClip n = false ↔ n ≠ 0 ∧ n ≠ 255 := by
  rw [isClip, Bool.or_eq_false_iff, beq_eq_false_iff_ne, beq_eq_false_iff_ne]

/-- A reference column's reading in product units. -/
def refReading (codes : List Nat) (c : Nat) : Int := ((codes.getD (516 + c) 128 : Int) - 128) * 256

/-- What lies between a reading and its fit. -/
def Estimate.refOffset (fit : Estimate) (e m : Int) : Rat := (m : Rat) - (fit.o + fit.g * e + fit.k * e * e / 32768)

theorem refCheck_none_iff (est : Estimate) (sigma : Nat) (q2 : Rat) (es : List Int) (codes : List Nat) :
    refCheck est sigma q2 es codes = none ↔
      (∀ c < 4, codes.getD (516 + c) 128 ≠ 0 ∧ codes.getD (516 + c) 128 ≠ 255)
        ∧ 3 / 4 ≤ (refFit est es ((List.range 4).map (refReading codes))).g ∧ (refFit est es ((List.range 4).map (refReading codes))).g ≤ 5 / 4
        ∧ ∀ c < 4, (refFit est es ((List.range 4).map (refReading codes))).refOffset (es.getD c 0) (refReading codes c)
            * (refFit est es ((List.range 4).map (refReading codes))).refOffset (es.getD c 0) (refReading codes c)
            ≤ (sigma ^ 2 : Nat) * q2 * 65536 := by
  set fit := refFit est es ((List.range 4).map (refReading codes))
  have hM : ∀ c < 4, ((List.range 4).map (refReading codes)).getD c 0 = refReading codes c := fun c hc => by simp [hc]
  have hclip : (List.range 4).find? (fun c => isClip (codes.getD (516 + c) 128)) = none
      ↔ ∀ c < 4, codes.getD (516 + c) 128 ≠ 0 ∧ codes.getD (516 + c) 128 ≠ 255 := by
    simp only [List.find?_eq_none, List.mem_range, Bool.not_eq_true, isClip_false_iff]
  unfold refCheck
  extract_lets code ms fit' off
  have hfit : fit' = fit := rfl
  cases hf : (List.range 4).find? fun c => isClip (code c) with
  | some c =>
    refine iff_of_false (by simp) fun h => ?_
    have hn := hclip.mpr h.1
    change (List.range 4).find? (fun c => isClip (code c)) = none at hn
    rw [hf] at hn
    cases hn
  | none =>
    rw [and_iff_right (hclip.mp hf)]
    change (if fit'.g < 3 / 4 ∨ fit'.g > 5 / 4 then _ else _) = none ↔ _
    by_cases hg : fit'.g < 3 / 4 ∨ fit'.g > 5 / 4
    · rw [if_pos hg]
      refine iff_of_false (by simp) fun h => ?_
      obtain ⟨h₁, h₂, -⟩ := h
      rcases hg with hg | hg
      · exact absurd h₁ (not_le.mpr hg)
      · exact absurd h₂ (not_le.mpr hg)
    · rw [if_neg hg]
      obtain ⟨h₁, h₂⟩ := not_or.mp hg
      rw [Option.map_eq_none_iff, List.find?_eq_none, and_iff_right (show 3 / 4 ≤ fit.g from not_lt.mp h₁),
        and_iff_right (show fit.g ≤ 5 / 4 from not_lt.mp h₂)]
      refine forall_congr' fun c => ?_
      rw [List.mem_range]
      refine forall_congr' fun hc => ?_
      have ho : off c = fit.refOffset (es.getD c 0) (refReading codes c) := by
        have hm : ms.getD c 0 = refReading codes c := hM c hc
        unfold off
        rw [hm]
        rfl
      rw [decide_eq_true_eq, not_lt, ho]

/-! ### A refused access (R230, R397) -/

theorem Dev.only_stack (d : Dev) (x : StackBlk) : d.only { d with stack := x } [.stack] := by
  intro b hb
  cases b with
  | stack => simp at hb
  | _ => rfl

theorem Dev.counterC_event (d : Dev) (e : EventRec) (c n : Nat) : (d.event e).counterC c n = d.counterC c n := by
  obtain ⟨d₁, rfl, h | ⟨v, h⟩⟩ := d.event_cases e <;> rw [h]
  · rfl
  · obtain ⟨x, e⟩ | ⟨w, e⟩ := Dev.msix_cases _ 0 v <;> rw [e] <;> rfl

theorem Dev.refuseAccess_cases (d : Dev) (p : Nat) : d.refuseAccess p = d.count DC.stackViolation
    ∨ ∃ x : StackBlk, d.refuseAccess p = Dev.event { d.count DC.stackViolation with stack := x } (.violation p) := by
  unfold Dev.refuseAccess Dev.violation
  extract_lets at_
  split
  · exact .inr ⟨_, rfl⟩
  · exact .inl rfl

theorem Dev.refuseAccess_only (d : Dev) (p : Nat) : d.only (d.refuseAccess p) [.obs, .stack, .host] := by
  obtain e | ⟨x, e⟩ := d.refuseAccess_cases p <;> rw [e]
  · exact Dev.only_mono (d.count_only _ _) (by simp)
  · exact Dev.only_mono (((d.count_only _ _).append (Dev.only_stack _ x)).append (Dev.event_only _ _)) (by simp)

theorem Dev.counterC_refuseAccess (d : Dev) (p c n : Nat) : (d.refuseAccess p).counterC c n = d.counterC c n := by
  obtain e | ⟨x, e⟩ := d.refuseAccess_cases p <;> rw [e]
  · rfl
  · exact Dev.counterC_event _ _ c n

/-! ### A row whose first verify read passes (R55, R56) -/

theorem writeRow_of_passes {levels : List Int} {reads : List Byte} (h : rowPasses levels reads = true) (rest : List (List Byte)) :
    writeRow levels (reads :: rest) = (true, 1, reads, rest) := by
  simp [writeRow, List.findIdx?_cons, h]

theorem Dev.length_targetRow (d : Dev) (k r : Nat) : (d.targetRow k r).length = 520 := by
  unfold Dev.targetRow Dev.goldenRow
  split
  · exact List.length_replicate
  · rw [List.length_map, List.length_range]

/-- Cells written in turn leave those before the first as they were. -/
theorem SMap.get_row_before (b : Nat) (levels : List Int) (n : Nat) (m : SMap (Option Int)) {i : Nat} (hi : i < b + n) :
    SMap.get none ((levels.zipIdx n).foldl (fun m x => SMap.put none m (b + x.2) (some x.1)) m) i = SMap.get none m i := by
  induction levels generalizing n m with
  | nil => rfl
  | cons y ys ih =>
    rw [List.zipIdx_cons, List.foldl_cons, ih (n + 1) _ (by omega)]
    exact SMap.get_put_ne _ _ _ (by simp; omega)

/-- Cells written in turn from `b` hold the levels. -/
theorem SMap.get_row (b : Nat) (levels : List Int) (n : Nat) (m : SMap (Option Int)) {j : Nat} (hj : j < levels.length) :
    SMap.get none ((levels.zipIdx n).foldl (fun m x => SMap.put none m (b + x.2) (some x.1)) m) (b + n + j) = levels[j]? := by
  induction levels generalizing n m j with
  | nil => exact absurd hj (Nat.not_lt_zero j)
  | cons x xs ih =>
    rw [List.zipIdx_cons, List.foldl_cons]
    cases j with
    | zero => exact (SMap.get_row_before b xs (n + 1) _ (by omega)).trans (SMap.get_put_same _ _ _ _)
    | succ j =>
      have h := ih (n + 1) (SMap.put none m (b + n) (some x)) (j := j) (by simpa using hj)
      rw [show b + n + (j + 1) = b + (n + 1) + j by omega, h, List.getElem?_cons_succ]

theorem Dev.readGolden_cases (d : Dev) (k r : Nat) (may : Bool) : d.readGolden k r may = d
    ∨ d.readGolden k r may = d.count DC.stackBytesC 5 ∨ may = false ∧ ∃ p, d.readGolden k r may = d.refuseAccess p := by
  unfold Dev.readGolden
  split
  · exact .inl rfl
  · split
    · exact .inr (.inl rfl)
    · next h => exact .inr (.inr ⟨by simpa using h, _, rfl⟩)

theorem Dev.readGolden_only (d : Dev) (k r : Nat) (may : Bool) : d.only (d.readGolden k r may) [.obs, .stack, .host] := by
  obtain e | e | ⟨-, p, e⟩ := d.readGolden_cases k r may <;> rw [e]
  · exact d.only_refl _
  · exact Dev.only_mono (d.count_only _ _) (by simp)
  · exact d.refuseAccess_only p

/-- A read that the image allows is counted only. -/
theorem Dev.readGolden_only_of_open (d : Dev) (k r : Nat) : d.only (d.readGolden k r true) [.obs] := by
  obtain e | e | ⟨h, -⟩ := d.readGolden_cases k r true
  · rw [e]; exact d.only_refl _
  · rw [e]; exact d.count_only _ _
  · cases h

theorem Dev.counterC_readGolden (d : Dev) (k r : Nat) (may : Bool) (c n : Nat) : (d.readGolden k r may).counterC c n = d.counterC c n := by
  obtain e | e | ⟨-, p, e⟩ := d.readGolden_cases k r may <;> rw [e]
  · rfl
  · exact d.counterC_refuseAccess p c n

/-- Row `r` of tile `k` is written with its target levels and verified once. -/
def Dev.rowWritten (d : Dev) (k : Nat) (p : Programming) (reads : List Byte) : Dev :=
  ((((d.readGolden k p.row (d.goldenOpen k)).countC (k / 64) CC.tileProgIter 1).setRow k p.row (d.targetRow k p.row)).takeVerify k p p.row
    (d.targetRow k p.row) reads).1

/-- The next row of a programming, or its end. -/
def Dev.programNext (d : Dev) (k : Nat) (p : Programming) : Dev :=
  if p.row + 1 ≥ 520 then d.programEnds k { p with row := p.row + 1 }
  else d.updTile k fun t => { t with prog := some { p with row := p.row + 1 } }

section
variable {s : State} {k : Nat} {p : Programming} {reads : List Byte}

theorem exec_programRow_passes (rest : List (List Byte)) (hp : (s.dev.tile k).prog = some p) (hb : s.dev.power.boHold = false)
    (hm : (s.dev.tile k).mappedOut p.row = false) (hr : rowPasses (s.dev.targetRow k p.row) reads = true) :
    ∃ q : Programming, q.row = p.row
      ∧ exec (.programRow k (reads :: rest)) s = .next { s with dev := (s.dev.rowWritten k p reads).programNext k q } := by
  rw [show exec (.programRow k (reads :: rest)) s = execProgramRow k (reads :: rest) s from rfl, execProgramRow, State.on_next]
  simp only [hp, hb, hm, writeRow_of_passes hr, Bool.false_eq_true, if_false, if_true]
  refine ⟨(((((s.dev.readGolden k p.row (s.dev.goldenOpen k)).countC (k / 64) CC.tileProgIter 1).setRow k p.row
    (s.dev.targetRow k p.row)).takeVerify k p p.row (s.dev.targetRow k p.row) reads).2), ?_, rfl⟩
  unfold Dev.takeVerify
  split <;> rfl

end

section
variable (d : Dev) (k : Nat) (p : Programming) (reads : List Byte)

theorem Dev.rowWritten_after_read : (d.readGolden k p.row (d.goldenOpen k)).only (d.rowWritten k p reads) [.array, .obs] :=
  Dev.only_mono (((Dev.countC_only _ _ _ _).append (Dev.updTile_only _ k _)).append (Dev.updTile_only _ k _)) (by simp)

theorem Dev.rowWritten_only : d.only (d.rowWritten k p reads) [.array, .obs, .stack, .host] :=
  Dev.only_mono ((d.readGolden_only k p.row (d.goldenOpen k)).append (d.rowWritten_after_read k p reads)) (by simp)

theorem Dev.rowWritten_only_of_open (h : d.goldenOpen k = true) : d.only (d.rowWritten k p reads) [.array, .obs] := by
  have hr := d.readGolden_only_of_open k p.row
  rw [← h] at hr
  exact Dev.only_mono (hr.append (d.rowWritten_after_read k p reads)) (by simp)

theorem Dev.state_rowWritten : ((d.rowWritten k p reads).tile k).state = (d.tile k).state := by
  have h := Dev.tile_of_array (d.readGolden_only k p.row (d.goldenOpen k) .array (by simp)) k
  rw [Dev.rowWritten, Dev.takeVerify, Dev.tile_updTile_field Tile.state _ k (fun _ => by rfl), Dev.setRow,
    Dev.tile_updTile_field Tile.state _ k (fun _ => by rfl), Dev.tile_countC, h]

theorem Dev.cells_rowWritten {j : Nat} (hj : j < 520) :
    SMap.get none ((d.rowWritten k p reads).tile k).cells (520 * p.row + j) = some ((d.targetRow k p.row).getD j 0) := by
  have hl : j < (d.targetRow k p.row).length := by rw [d.length_targetRow]; exact hj
  rw [Dev.rowWritten, Dev.takeVerify, Dev.tile_updTile_field Tile.cells _ k (fun _ => by rfl), Dev.setRow, Dev.tile_updTile_same]
  have h := SMap.get_row (520 * p.row) (d.targetRow k p.row) 0
    (((d.readGolden k p.row (d.goldenOpen k)).countC (k / 64) CC.tileProgIter 1).tile k).cells hl
  rw [Nat.add_zero] at h
  rw [h, List.getD_eq_getElem?_getD, List.getElem?_eq_getElem hl]
  rfl

theorem Dev.counterC_rowWritten :
    (d.rowWritten k p reads).counterC (k / 64) CC.tileProgIter = d.counterC (k / 64) CC.tileProgIter + 1 := by
  have h : ((d.readGolden k p.row (d.goldenOpen k)).countC (k / 64) CC.tileProgIter 1).only (d.rowWritten k p reads) [.array] :=
    Dev.only_trans (Dev.updTile_only _ k _) (Dev.updTile_only _ k _)
  rw [Dev.counterC_of_obs (h .obs (by simp)), Dev.counterC_countC_same, d.counterC_readGolden]
  rfl

end

/-- What the last row leaves: a tile that the test is to verify. -/
theorem Dev.programEnds_cases (d : Dev) (k : Nat) (p : Programming) : ∃ m, d.programEnds k p = ((d.updTile k fun t =>
    { t with state := if t.state = .standin then .standin else .verifying, repair := if t.state = .standin then 2 else 0, prog := none,
             colTrim := m }).rehold k).beginTest k := ⟨_, rfl⟩

theorem Dev.programEnds_only (d : Dev) (k : Nat) (p : Programming) : d.only (d.programEnds k p) [.array, .engine, .serve] := by
  obtain ⟨m, e⟩ := d.programEnds_cases k p
  rw [e]
  exact Dev.only_mono (((d.updTile_only k _).append (Dev.rehold_only _ k)).append (Dev.beginTest_only _ k)) (by simp)

theorem Dev.tile_programEnds (d : Dev) (k : Nat) (p : Programming) : ((d.programEnds k p).tile k).cells = (d.tile k).cells
    ∧ ((d.programEnds k p).tile k).prog = none
    ∧ ((d.programEnds k p).tile k).state = if (d.tile k).state = .standin then .standin else .verifying := by
  obtain ⟨m, e⟩ := d.programEnds_cases k p
  rw [e]
  refine ⟨?_, ?_, ?_⟩
  · rw [Dev.tile_beginTest_field Tile.cells fun _ => rfl, Dev.tile_rehold, Dev.tile_updTile_same]
  · rw [Dev.tile_beginTest_field Tile.prog fun _ => rfl, Dev.tile_rehold, Dev.tile_updTile_same]
  · rw [Dev.tile_beginTest_field Tile.state fun _ => rfl, Dev.tile_rehold, Dev.tile_updTile_same]

/-! ### The verification test's run (R59) -/

/-- The tile beside its estimates. -/
def Tile.untaught (t : Tile) : Tile := { t with est := Estimate.start, obs := 0 }

theorem Tile.untaught_taught (t : Tile) (e : Estimate) (o : Nat) : ({ t with est := e, obs := o } : Tile).untaught = t.untaught := rfl

/-- The halves of a test enter the tile's estimates and draw free values. -/
abbrev Dev.Taught (d d' : Dev) : Prop := Dev.Keeps Tile.untaught id [.array, .fresh] d d'

theorem Dev.Taught.state {d d' : Dev} (h : d.Taught d') (j : Nat) : (d'.tile j).state = (d.tile j).state := by
  have e := congrArg Tile.state (h.tile j)
  exact e

theorem Dev.taught_draw (d : Dev) : d.Taught d.draw :=
  Dev.Keeps.mono (bs := [.fresh]) (Dev.keeps_of_array rfl (Dev.only_fresh d _)) (by simp)

theorem Dev.taught_updTile (d : Dev) (k : Nat) (e : Estimate) (o : Nat) : d.Taught (d.updTile k fun t => { t with est := e, obs := o }) :=
  Dev.Keeps.mono (bs := [.array]) (d.keeps_updTile k fun t => t.untaught_taught e o) (by simp)

theorem Dev.taught_correctPart (d : Dev) (k : Nat) (ev : Eval) (half : Option Nat) (cH cL : List Byte) :
    d.Taught (d.correctPart k ev half cH cL).1 := by
  obtain ⟨e, o, h⟩ := d.correctPart_fst k ev half cH cL
  rw [h]
  exact (d.taught_updTile k e o).trans (Dev.taught_draw _)

theorem Dev.taught_testHalf (d : Dev) (k half : Nat) (a : List Int) (cH cL : List Byte) : d.Taught (d.testHalf k half a cH cL).1 := by
  unfold Dev.testHalf
  extract_lets t vec ev q2 exp x
  exact d.taught_correctPart k ev (some half) cH cL

section
variable {d d₁ : Dev} {k : Nat} {x : (Nat × List Int) × (List Byte × List Byte)}

/-- The run ends at the first failing check; the recursion is opened by hand, since its equation is too deep to be derived. -/
theorem Dev.testRun_stops {f : (Nat × Bool × Bool × Bool) × Int} (h : d.testHalf k x.1.1 x.1.2 x.2.1 x.2.2 = (d₁, some f))
    (xs : List ((Nat × List Int) × (List Byte × List Byte))) : d.testRun k (x :: xs) = (d₁, some f) := by
  delta Dev.testRun
  dsimp only
  delta Dev.testRun._f
  dsimp only
  rw [h]

theorem Dev.testRun_goesOn (h : d.testHalf k x.1.1 x.1.2 x.2.1 x.2.2 = (d₁, none))
    (xs : List ((Nat × List Int) × (List Byte × List Byte))) : d.testRun k (x :: xs) = d₁.testRun k xs := by
  delta Dev.testRun
  dsimp only
  delta Dev.testRun._f
  dsimp only
  rw [h]

end

theorem Dev.taught_testRun (k : Nat) (xs : List ((Nat × List Int) × (List Byte × List Byte))) (d : Dev) : d.Taught (d.testRun k xs).1 := by
  induction xs generalizing d with
  | nil => exact .refl
  | cons x xs ih =>
    have h := d.taught_testHalf k x.1.1 x.1.2 x.2.1 x.2.2
    obtain ⟨d₁, _ | f, hy⟩ : ∃ d₁ o, d.testHalf k x.1.1 x.1.2 x.2.1 x.2.2 = (d₁, o) := ⟨_, _, rfl⟩
    · rw [hy] at h
      rw [Dev.testRun_goesOn hy]
      exact h.trans (ih d₁)
    · rw [hy] at h
      rw [Dev.testRun_stops hy]
      exact h

theorem Dev.taught_verifyTile (d : Dev) (k : Nat) (codes : List (List Byte × List Byte)) : d.Taught (d.verifyTile k codes).1 := by
  unfold Dev.verifyTile
  extract_lets d₁
  have h : d.Taught d₁ := by
    unfold d₁
    split
    · exact .refl
    · exact d.taught_updTile k _ _
  exact h.trans (Dev.taught_testRun k _ d₁)

/-! ### What keeps the tiles' states -/

/-- No tile changes its state, and of the blocks those of `bs` may. -/
structure Dev.KeepsStates (bs : List Blk) (d d' : Dev) : Prop where
  state : ∀ j, (d'.tile j).state = (d.tile j).state
  only : d.only d' bs

section
variable {as bs : List Blk} {d d₁ d₂ : Dev}

theorem Dev.KeepsStates.append (h₁ : Dev.KeepsStates as d d₁) (h₂ : Dev.KeepsStates bs d₁ d₂) : Dev.KeepsStates (as ++ bs) d d₂ :=
  ⟨fun j => (h₂.state j).trans (h₁.state j), h₁.only.append h₂.only⟩

theorem Dev.keepsStates_beginTest (d : Dev) (k : Nat) : Dev.KeepsStates [.array, .engine, .serve] d (d.beginTest k) :=
  ⟨d.tile_beginTest_field Tile.state (fun _ => rfl) k, d.beginTest_only k⟩

theorem Dev.nextTest_cases (d : Dev) (c : Nat) : d.nextTest c = d ∨ ∃ k, d.nextTest c = d.beginTest k := by
  unfold Dev.nextTest
  split
  · exact .inr ⟨_, rfl⟩
  · exact .inl rfl

theorem Dev.tile_nextTest_field {β : Type} (g : Tile → β) (hg : ∀ t, g { t with testing := true } = g t) (d : Dev) (c j : Nat) :
    g ((d.nextTest c).tile j) = g (d.tile j) := by
  obtain e | ⟨k, e⟩ := d.nextTest_cases c <;> rw [e]
  exact d.tile_beginTest_field g hg k j

theorem Dev.nextTest_only (d : Dev) (c : Nat) : d.only (d.nextTest c) [.array, .engine, .serve] := by
  obtain e | ⟨k, e⟩ := d.nextTest_cases c <;> rw [e]
  · exact d.only_refl _
  · exact d.beginTest_only k

/-- A test's evaluations are over: the tile is released, and they are counted. -/
theorem Dev.keepsStates_tested (d : Dev) (k : Nat) : Dev.KeepsStates [.array, .obs] d
    (((d.updTile k fun t => { t with testing := false }).rehold k).countC (k / 64) CC.tileEval 32) where
  state j := (Dev.tile_countC _ _ _ _ j).symm ▸ (Dev.tile_rehold _ k j).symm ▸ d.tile_updTile_field Tile.state k (fun _ => by rfl) j
  only := Dev.only_mono (((d.updTile_only k _).append (Dev.rehold_only _ k)).append (Dev.countC_only _ _ _ _)) (by simp)

end

/-- A test outside a sweep ends as its first failing check, if any, has it; then the cluster's next test may begin. -/
theorem exec_verificationTest {s : State} {k : Nat} (codes : List (List Byte × List Byte)) (hb : s.dev.power.boHold = false)
    (hs : s.dev.power.sweepLeft.contains k = false) (ht : ((s.dev.beginTest k).tile k).testing = true) :
    ∃ d : Dev, Dev.KeepsStates [.array, .fresh, .obs, .engine, .serve] s.dev d ∧ exec (.verificationTest k codes) s
      = .next { s with dev := (d.testEnds k false ((s.dev.beginTest k).verifyTile k codes).2).nextTest (k / 64) } := by
  have hp : (s.dev.beginTest k).power = s.dev.power := s.dev.beginTest_only k .power (by simp)
  rw [show exec (.verificationTest k codes) s = execVerificationTest k codes s from rfl, execVerificationTest, State.on_next]
  extract_lets d t sweep halves skips clips x d₁ d₂ d₃ d₄ d₅
  clear_value skips clips
  have hsw : sweep = false := by unfold sweep; rw [hp, hs]
  have hc : (t.testing && !d.power.boHold) = true := by
    rw [show t.testing = true from ht, show d.power = s.dev.power from hp, hb]
    rfl
  have h₅ : d₅ = d₄ := if_neg (by rw [hsw]; exact Bool.false_ne_true)
  have h₄ : d₄ = d₃.testEnds k false x.2 := by unfold d₄; rw [hsw]
  rw [if_pos hc, h₅, h₄]
  refine ⟨d₃, ?_, rfl⟩
  have h₀ := s.dev.keepsStates_beginTest k
  have h := (s.dev.beginTest k).taught_verifyTile k codes
  have hv : Dev.KeepsStates [.array, .fresh] d x.1 := ⟨h.state, h.only⟩
  have h₁ : Dev.KeepsStates [.array, .obs] x.1 d₁ := x.1.keepsStates_tested k
  have hm₂ : d₁.MayCount (k / 64) CC.tileNibbleSkip d₂ := Dev.mayCount_unless _ _ _ _ _
  have hm₃ : d₂.MayCount (k / 64) CC.tileClipX1 d₃ := Dev.mayCount_unless _ _ _ _ _
  have h₂ : Dev.KeepsStates [.obs] d₁ d₂ := ⟨fun j => congrArg Tile.state (Dev.tile_of_array hm₂.array j), hm₂.only⟩
  have h₃ : Dev.KeepsStates [.obs] d₂ d₃ := ⟨fun j => congrArg Tile.state (Dev.tile_of_array hm₃.array j), hm₃.only⟩
  have hall := (((h₀.append hv).append h₁).append h₂).append h₃
  exact ⟨hall.state, Dev.only_mono hall.only (by simp)⟩

/-! ### A test that passes (R59, R66, R115) -/

theorem Tile.newWindow_field {β : Type} (g : Tile → β)
    (hg : ∀ t a b c e, g { t with lfsr := a, shadowLog := b, shadowPos := c, shadowSeen := e } = g t) (t : Tile) (n : Option Nat) :
    g (t.newWindow n) = g t := by
  cases n with
  | none => exact hg t t.lfsr 0 t.shadowPos 0
  | some n => exact hg t _ _ _ _

/-- The tile starts from the start estimates. -/
structure Tile.Fresh (t : Tile) : Prop where
  est : t.est = Estimate.start
  qSq : t.qSq = 1 / 4
  everReady : t.everReady = true
  obs : t.obs = 0

theorem Dev.fresh_freshTile (d : Dev) (k : Nat) : ((d.freshTile k).tile k).Fresh := by
  unfold Dev.freshTile
  rw [Dev.tile_countC, Dev.tile_updTile_same]
  exact ⟨Tile.newWindow_field Tile.est (fun _ _ _ _ _ => rfl) _ _, Tile.newWindow_field Tile.qSq (fun _ _ _ _ _ => rfl) _ _,
    Tile.newWindow_field Tile.everReady (fun _ _ _ _ _ => rfl) _ _, Tile.newWindow_field Tile.obs (fun _ _ _ _ _ => rfl) _ _⟩

theorem Dev.tile_freshTile_other (d : Dev) {k j : Nat} (h : j ≠ k) : (d.freshTile k).tile j = d.tile j :=
  (Dev.tile_countC _ _ _ _ j).trans (d.tile_updTile_other _ h)

theorem Dev.freshTile_only (d : Dev) (k : Nat) : d.only (d.freshTile k) [.array, .obs] :=
  (d.updTile_only k _).append (Dev.countC_only _ _ _ _)

theorem Dev.testEnds_pass {d : Dev} {k : Nat} (h : (d.tile k).state ≠ .standin) :
    ∃ r, d.testEnds k false none = ((d.freshTile k).updTile k fun t => { t with state := .ready, repairDone := r }).refloor (k / 64) := by
  unfold Dev.testEnds
  exact ⟨_, if_neg h⟩

/-- A passed test leaves the tile READY. -/
structure Dev.TestPassed (k : Nat) (d d' : Dev) : Prop where
  state : (d'.tile k).state = .ready
  fresh : (d'.tile k).Fresh
  others : ∀ j, j ≠ k → (d'.tile j).state = (d.tile j).state
  only : d.only d' [.array, .obs, .fresh, .engine, .serve]

theorem Dev.testPassed_testEnds {d : Dev} {k : Nat} (h : (d.tile k).state ≠ .standin) : Dev.TestPassed k d (d.testEnds k false none) := by
  obtain ⟨r, e⟩ := Dev.testEnds_pass h
  obtain ⟨he, hq, hr, ho⟩ := d.fresh_freshTile k
  rw [e]
  refine ⟨?_, ⟨?_, ?_, ?_, ?_⟩, fun j hj => ?_, ?_⟩
  · rw [Dev.tile_refloor, Dev.tile_updTile_same]
  · rw [Dev.tile_refloor, Dev.tile_updTile_field Tile.est _ k (fun _ => by rfl), he]
  · rw [Dev.tile_refloor, Dev.tile_updTile_field Tile.qSq _ k (fun _ => by rfl), hq]
  · rw [Dev.tile_refloor, Dev.tile_updTile_field Tile.everReady _ k (fun _ => by rfl), hr]
  · rw [Dev.tile_refloor, Dev.tile_updTile_field Tile.obs _ k (fun _ => by rfl), ho]
  · rw [Dev.tile_refloor, Dev.tile_updTile_other _ _ hj, d.tile_freshTile_other hj]
  · exact Dev.only_mono (((d.freshTile_only k).append (Dev.updTile_only _ k _)).append (Dev.refloor_only _ _)) (by simp)

theorem Dev.TestPassed.nextTest {d d₁ : Dev} {k : Nat} (h : Dev.TestPassed k d d₁) (c : Nat) : Dev.TestPassed k d (d₁.nextTest c) where
  state := (d₁.tile_nextTest_field Tile.state (fun _ => rfl) c k).trans h.state
  fresh := ⟨(d₁.tile_nextTest_field Tile.est (fun _ => rfl) c k).trans h.fresh.est,
    (d₁.tile_nextTest_field Tile.qSq (fun _ => rfl) c k).trans h.fresh.qSq,
    (d₁.tile_nextTest_field Tile.everReady (fun _ => rfl) c k).trans h.fresh.everReady,
    (d₁.tile_nextTest_field Tile.obs (fun _ => rfl) c k).trans h.fresh.obs⟩
  others j hj := (d₁.tile_nextTest_field Tile.state (fun _ => rfl) c j).trans (h.others j hj)
  only := Dev.only_mono (h.only.append (d₁.nextTest_only c)) (by simp)

/-! ### A test that fails (R66, R339, R341) -/

theorem Dev.tile_addPartials (d : Dev) (c lt : Nat) (v : EdgeVec) (P : List Int) (j : Nat) :
    (d.addPartials c lt v P).tile j = d.tile j := by
  have h := (d.keeps_addPartials (g := id) (h := fun _ => ()) (fun _ _ => rfl) c lt v P).tile j
  rwa [id_eq, id_eq] at h

/-- The stand-in of an input is no tile's work. -/
theorem Dev.tile_standInAdd (d : Dev) (lt : Nat) (v : EdgeVec) (onDahlia : Bool) (j : Nat) :
    (d.standInAdd lt v onDahlia).tile j = d.tile j := by
  have hn : (d.noteImage (lt / 64) (lt % 64)).tile j = d.tile j := by
    unfold Dev.noteImage
    split
    · rfl
    · exact Dev.tile_of_array (d.refuseAccess_only _ .array (by simp)) j
  delta Dev.standInAdd
  extract_lets P
  exact (Dev.tile_count _ _ _ j).trans ((Dev.tile_addPartials _ _ lt v P j).trans hn)

theorem Dev.tile_standInAdd_loaded (d : Dev) (x : EngineBlk) (h lt : Nat) (v : EdgeVec) (j : Nat) :
    ((({ d with engine := x } : Dev).loadTile h lt).standInAdd lt v true).tile j = d.tile j :=
  Dev.tile_standInAdd _ lt v true j

theorem Dev.tile_standIn (d : Dev) (c l : Nat) (v : EdgeVec) (j : Nat) : (d.standIn c l v).tile j = d.tile j := by
  unfold Dev.standIn
  extract_lets lt o
  split
  · exact d.tile_standInAdd lt v false j
  · split
    · exact d.tile_standInAdd lt v true j
    · split
      · rfl
      · split
        · split
          · exact d.tile_standInAdd_loaded _ _ lt v j
          · exact d.tile_standInAdd lt v false j
        · exact d.tile_standInAdd lt v false j

/-- A failing tile enters SUSPECT; one out of service keeps its state (R66, R340). -/
theorem Dev.suspectTile_cases (d : Dev) (k : Nat) (event : BitVec 4) (origin : BitVec 3) (detail : U32) :
    ((d.tile k).state ∈ [TileState.suspect, .standin, .retired] ∧ ((d.suspectTile k event origin detail).tile k).state = (d.tile k).state)
    ∨ ((d.suspectTile k event origin detail).tile k).state = .suspect := by
  unfold Dev.suspectTile
  extract_lets t d₁ t' d₂ d₃ d₄ d₅
  have h₁ : d₁.tile k = t := d.tile_logTile k event 0 origin detail k
  have h₄ : (d₄.tile k).state = .suspect := by
    change (d₂.tile k).state = .suspect
    unfold d₂
    rw [Dev.tile_setTile_same]
  have h₅ : (d₅.tile k).state = .suspect := by
    unfold d₅
    split
    · exact (congrArg Tile.state (Dev.tile_of_array (Dev.mark_only _ _ .array (by simp)) k)).trans h₄
    · exact h₄
  split
  · next h => exact .inl ⟨by rw [h]; decide, by rw [h₁]⟩
  · next h => exact .inl ⟨by rw [h]; decide, by rw [h₁]⟩
  · next h => exact .inl ⟨by rw [h]; decide, by rw [h₁]⟩
  · refine .inr ?_
    split
    · rw [Dev.forAll_keeps (fun d => d.tile k) _ fun d v => d.tile_standIn _ _ v k]
      exact h₅
    · exact h₅

theorem Dev.suspectTile_not_ready (d : Dev) (k : Nat) (event : BitVec 4) (origin : BitVec 3) (detail : U32) :
    ((d.suspectTile k event origin detail).tile k).state ≠ .ready := by
  obtain ⟨hm, e⟩ | e := d.suspectTile_cases k event origin detail <;> rw [e]
  · intro h
    rw [h] at hm
    exact absurd hm (by decide)
  · decide

/-- A tile that is reset is BLANK. -/
theorem Dev.state_resetTile (d : Dev) (k j : Nat) : ((d.resetTile k).tile j).state = if j = k then .blank else (d.tile j).state := by
  have h : (d.resetTile k).tile j = (d.updTile k fun t => { t.afterReset with
      state := .blank, progWait := true, ruling := t.ruling, recorded := t.recorded, spareFails := t.spareFails, spareFor := t.spareFor,
      calibrating := t.calibrating }).tile j := rfl
  by_cases hj : j = k
  · rw [h, hj, Dev.tile_updTile_same, if_pos rfl]
  · rw [h, Dev.tile_updTile_other _ _ hj, if_neg hj]

theorem Dev.seekSpare_not_ready {d : Dev} {k : Nat} (h : (d.tile k).state ≠ .ready) (c l lost : Nat) :
    ((d.seekSpare c l lost).tile k).state ≠ .ready := by
  unfold Dev.seekSpare
  split
  · rw [Dev.state_resetTile]
    split
    · decide
    · next hj => rw [Dev.tile_updTile_other _ _ hj]; exact h
  · rw [Dev.tile_of_array (Dev.event_only _ _ .array (by simp)), Dev.tile_count, Dev.tile_logTile]
    exact h

/-- A spare that fails is programmed again, or retired. -/
theorem Dev.failSpare_not_ready (d : Dev) (k : Nat) (event : BitVec 4) (origin : BitVec 3) (detail : U32) :
    ((d.failSpare k event origin detail).tile k).state ≠ .ready := by
  unfold Dev.failSpare
  extract_lets t c d₁ d₂ d₃ d₄ d₅
  split
  · rw [Dev.tile_updTile_same]
    simp
  · have h₅ : (d₅.tile k).state ≠ .ready := by
      change (d₃.tile k).state ≠ .ready
      unfold d₃
      rw [Dev.tile_rehold, Dev.tile_updTile_same]
      simp
    split
    · exact Dev.seekSpare_not_ready h₅ _ _ _
    · exact h₅

theorem Dev.tile_leaveSweep (d : Dev) (ks : List Nat) (j : Nat) : (d.leaveSweep ks).tile j = d.tile j := by
  unfold Dev.leaveSweep
  extract_lets p d₁
  split
  · exact (Dev.tile_of_array (Dev.endSweep_only d₁ .array (by simp)) j).trans rfl
  · rfl

/-- A tile that fails is not READY. -/
theorem Dev.failTile_not_ready (d : Dev) (k : Nat) (event : BitVec 4) (origin : BitVec 3) (detail : U32) :
    ((d.failTile k event origin detail).tile k).state ≠ .ready := by
  unfold Dev.failTile
  extract_lets d₁
  split
  · next h => rw [Dev.tile_logTile, h]; decide
  · rw [Dev.tile_refloor, Dev.tile_leaveSweep]
    unfold d₁
    split
    · exact d.suspectTile_not_ready k event origin detail
    · exact d.failSpare_not_ready k event origin detail

theorem Dev.testEnds_fail_not_ready {d : Dev} {k : Nat} (h : (d.tile k).state ≠ .standin) (f : (Nat × Bool × Bool × Bool) × Int) :
    ((d.testEnds k false (some f)).tile k).state ≠ .ready := by
  unfold Dev.testEnds
  extract_lets t detail
  dsimp only
  rw [if_neg h]
  split
  · rw [Dev.tile_updTile_field Tile.state _ k (fun _ => by rfl)]
    exact d.suspectTile_not_ready k _ _ _
  · exact d.failTile_not_ready k _ _ _

/-! ### The obligation -/

section
variable {s : State} {k : Nat}

theorem runs_verificationTest (codes : List (List Byte × List Byte)) (hv : (s.dev.tile k).state = .verifying)
    (hb : s.dev.power.boHold = false) (hs : s.dev.power.sweepLeft.contains k = false) (ht : ((s.dev.beginTest k).tile k).testing = true) :
    Runs (.verificationTest k codes) s fun d' =>
      (((s.dev.beginTest k).verifyTile k codes).2 = none → Dev.TestPassed k s.dev d')
      ∧ (((s.dev.beginTest k).verifyTile k codes).2 ≠ none → (d'.tile k).state ≠ .ready) := by
  obtain ⟨d, hd, e⟩ := exec_verificationTest codes hb hs ht
  have hn : (d.tile k).state ≠ .standin := by rw [hd.state, hv]; decide
  refine Runs.of_next e ⟨fun ho => ?_, fun ho => ?_⟩
  · rw [ho]
    have h := (Dev.testPassed_testEnds hn).nextTest (k / 64)
    exact ⟨h.state, h.fresh, fun j hj => (h.others j hj).trans (hd.state j), Dev.only_mono (hd.only.append h.only) (by simp)⟩
  · obtain ⟨f, hf⟩ := Option.ne_none_iff_exists'.mp ho
    rw [hf, Dev.tile_nextTest_field Tile.state fun _ => rfl]
    exact Dev.testEnds_fail_not_ready hn f

theorem Dev.programNext_only (d : Dev) (k : Nat) (q : Programming) : d.only (d.programNext k q) [.array, .engine, .serve] := by
  unfold Dev.programNext
  split
  · exact d.programEnds_only k _
  · exact Dev.only_mono (d.updTile_only k _) (by simp)

theorem Dev.cells_programNext (d : Dev) (k : Nat) (q : Programming) : ((d.programNext k q).tile k).cells = (d.tile k).cells := by
  unfold Dev.programNext
  split
  · exact (d.tile_programEnds k _).1
  · exact d.tile_updTile_field Tile.cells k (fun _ => by rfl) k

theorem runs_programRow {p : Programming} {reads : List Byte} (rest : List (List Byte)) (hp : (s.dev.tile k).prog = some p)
    (hb : s.dev.power.boHold = false) (hm : (s.dev.tile k).mappedOut p.row = false)
    (hr : rowPasses (s.dev.targetRow k p.row) reads = true) :
    Runs (.programRow k (reads :: rest)) s fun d' =>
      (∀ j < 520, SMap.get none (d'.tile k).cells (520 * p.row + j) = some ((s.dev.targetRow k p.row).getD j 0))
      ∧ d'.counterC (k / 64) CC.tileProgIter = s.dev.counterC (k / 64) CC.tileProgIter + 1
      ∧ (p.row + 1 < 520 → (∃ y, (d'.tile k).prog = some y ∧ y.row = p.row + 1)
          ∧ (s.dev.goldenOpen k = true → s.dev.only d' [.array, .obs]))
      ∧ (p.row = 519 → (d'.tile k).prog = none
          ∧ (d'.tile k).state = (if (s.dev.tile k).state = .standin then .standin else .verifying))
      ∧ s.dev.only d' [.array, .obs, .engine, .serve, .stack, .host] := by
  obtain ⟨q, hq, e⟩ := exec_programRow_passes rest hp hb hm hr
  have ho := (s.dev.rowWritten k p reads).programNext_only k q
  refine Runs.of_next e ⟨fun j hj => ?_, ?_, fun hl => ?_, fun hl => ?_, ?_⟩
  · rw [Dev.cells_programNext, s.dev.cells_rowWritten k p reads hj]
  · rw [Dev.counterC_of_obs (ho .obs (by simp)), Dev.counterC_rowWritten]
  · rw [Dev.programNext, if_neg (by omega)]
    exact ⟨⟨_, by rw [Dev.tile_updTile_same], by rw [hq]⟩, fun hg =>
      Dev.only_mono ((s.dev.rowWritten_only_of_open k p reads hg).append (Dev.updTile_only _ k _)) (by simp)⟩
  · obtain ⟨-, hn, hs⟩ := (s.dev.rowWritten k p reads).tile_programEnds k { q with row := q.row + 1 }
    rw [Dev.programNext, if_pos (by omega), hn, hs, s.dev.state_rowWritten]
    exact ⟨rfl, rfl⟩
  · exact Dev.only_mono ((s.dev.rowWritten_only k p reads).append ho) (by simp)

end

/-- Settles O33: the grant, a row that passes and the test each run their course, and the reference check is read off its definition. -/
theorem programmingWritesVerifiesAndTests : Obligations.ProgrammingWritesVerifiesAndTests := by
  unfold Obligations.ProgrammingWritesVerifiesAndTests
  intro s k t
  refine ⟨fun hw hp he hb hn hs ha => ?_, fun p reads rest hp hb hm hr => runs_programRow rest hp hb hm hr, exec_programRow_held,
    fun codes hv hb hs ht => ?_, refCheck_none_iff⟩
  · obtain ⟨d', e, h⟩ := runs_programmingStart hw hp he hb hn ((TileState.programs_iff _).mpr hs) ha
    obtain ⟨x, hx, hk⟩ := h.tile
    refine ⟨d', e, ?_, ?_, ⟨_, by rw [hk]; rfl, rfl⟩, ?_, ?_, h.held, h.others, h.only⟩
    · rw [hk, Tile.programmed, hx]
    iterate 3 rw [hk]; rfl
  · obtain ⟨d', e, hpass, hfail⟩ := runs_verificationTest codes hv hb hs ht
    refine ⟨d', e, fun ho => ?_, hfail⟩
    have h := hpass ho
    exact ⟨h.state, h.fresh.est, h.fresh.qSq, h.fresh.everReady, h.fresh.obs, h.others, h.only⟩

end Sys2Proof.Machine
end

section
/-! SUPPORT. Partition set-ups: what is accepted, pushed, brought in and released, and what keeps the partitions' table (R388, R399 to
R403, R426). -/

namespace Sys2Proof.Machine

/-! ### What keeps the partitions' table -/

theorem Dev.forAll_cons {α : Type} (f : Dev → α → Dev) (x : α) (xs : List α) (d : Dev) :
    d.forAll (x :: xs) f = (f d x).forAll xs f := rfl

theorem Dev.part_forAll {α : Type} {f : Dev → α → Dev} (h : ∀ (d : Dev) (a : α), (f d a).part = d.part) (xs : List α) (d : Dev) :
    (d.forAll xs f).part = d.part := Dev.forAll_keeps Dev.part f h xs d

theorem Dev.powerCluster_only (d : Dev) (c : Nat) : d.only (d.powerCluster c) [.array] :=
  Dev.only_forAll (fun d k => by
    split
    · exact d.updTile_only k _
    · exact d.only_refl _) _ d

theorem Dev.part_mirror (d : Dev) (slot : Nat) (w : BitVec 128) : (d.hostWrite (.mirror slot w)).part = d.part := by
  unfold Dev.hostWrite
  split
  · dsimp only
    split <;> rfl
  · rfl

theorem Dev.part_orderProgramming (d : Dev) (p b : Nat) : (d.orderProgramming p b).part = d.part := by
  unfold Dev.orderProgramming
  extract_lets placed spares d₁
  refine (Dev.part_forAll (fun d cl => ?_) _ _).trans (Dev.part_forAll (fun d e => by rfl) _ _)
  cases d.physOf cl.cluster cl.ltile <;> rfl

theorem Dev.part_updTable (d : Dev) (lt : Nat) (f : CorrTab → CorrTab) : (d.updTable lt f).part = d.part := rfl
theorem Dev.part_updCluster (d : Dev) (c : Nat) (f : Cluster → Cluster) : (d.updCluster c f).part = d.part := rfl

theorem Dev.part_loadSchedule (d : Dev) (p b : Nat) : (d.loadSchedule p b).part = d.part := by
  unfold Dev.loadSchedule
  extract_lets i d₁ d₂ d₃ d₄ d₅ other kept base x d₆ addr d₇ d₈ d₉
  have h₁ : d₁.part = d.part := Dev.part_forAll (fun d c => by
    rw [Dev.part_forAll (fun d k => d.part_updTable k _), Dev.part_updCluster]) _ _
  have h₂ : d₂.part = d₁.part := Dev.part_forAll (fun d h => d.part_updCluster _ _) _ _
  have h₃ : d₃.part = d₂.part := Dev.part_forAll (fun d h => d.part_updCluster _ _) _ _
  have h₄ : d₄.part = d₃.part := Dev.part_forAll (fun d h => d.part_updCluster _ _) _ _
  have h₅ : d₅.part = d₄.part := Dev.part_forAll (fun d h => d.part_updCluster _ _) _ _
  have h₇ : d₇.part = d₅.part := Dev.part_forAll (fun d h => d.part_updTable _ _) _ _
  have h₈ : d₈.part = d₇.part := Dev.part_forAll (fun d h => d.part_updTable _ _) _ _
  have h₉ : d₉.part = d₈.part := by
    unfold d₉
    refine Dev.part_forAll (fun d h => ?_) _ _
    extract_lets row
    exact d.part_updTable _ _
  split
  · rfl
  · exact h₉.trans (h₈.trans (h₇.trans (h₅.trans (h₄.trans (h₃.trans (h₂.trans h₁))))))

theorem Dev.part_toMembers (d : Dev) (p : Nat) (m : Nat → OutMsg) : (d.toMembers p m).part = d.part :=
  Dev.part_forAll (fun _ _ => by rfl) _ d

theorem Dev.part_reportBanks (d : Dev) (p : Nat) : (d.reportBanks p).part = d.part := by
  unfold Dev.reportBanks
  cases d.memberIndex p with
  | none => rfl
  | some m => by_cases h : d.isLead p = true <;> simp [h, Dev.send]

theorem Dev.part_askBanks (d : Dev) (p : Nat) : (d.askBanks p).part = d.part := by
  unfold Dev.askBanks
  split
  · exact d.part_toMembers p _
  · rfl

theorem Dev.part_reprogramActive (d : Dev) (p : Nat) : (d.reprogramActive p).part = d.part := by
  unfold Dev.reprogramActive
  cases (d.commit p).bank with
  | none => rfl
  | some b =>
    dsimp only
    rw [Dev.part_askBanks, Dev.part_reportBanks]
    exact ((d.orderProgramming p b).part_loadSchedule p b).trans (d.part_orderProgramming p b)

theorem Dev.part_stepOver (d : Dev) (p : Nat) : (d.stepOver p).part = d.part := by
  unfold Dev.stepOver
  split <;> rfl

theorem Dev.part_dropCommands (d : Dev) (p : Nat) : (d.dropCommands p).part = d.part := by
  unfold Dev.dropCommands
  extract_lets gone d₁
  refine Eq.trans (b := d₁.part) rfl (Dev.part_forAll (fun d o => ?_) _ _)
  cases d.queue o.queue <;> rfl

theorem Dev.part_closeWindows (d : Dev) (sel : Nat → Window → Bool) : (d.closeWindows sel).part = d.part :=
  Dev.part_forAll (fun d e => by split <;> rfl) _ d

theorem Dev.part_leaveSweep (d : Dev) (ks : List Nat) : (d.leaveSweep ks).part = d.part := by
  unfold Dev.leaveSweep
  extract_lets p d₁
  split
  · exact (Dev.endSweep_only d₁ .part (by simp)).trans rfl
  · rfl

/-- A partition reset leaves every set-up as it is (R388, R401). -/
theorem Dev.part_resetPartition (d : Dev) (p : Nat) : (d.resetPartition p).part = d.part := by
  unfold Dev.resetPartition
  extract_lets slots lead e d₁ d₂ d₃ b d₄ mine h d₅ d₆ d₇ o d₈ en d₉ fox g d₁₀ x d₁₁ cs d₁₂ d₁₃ d₁₄ r d₁₅
  have h₁ : d₁.part = d.part := d.only_engine _ .part (by simp)
  have h₂ : d₂.part = d₁.part := Dev.part_forAll (fun d s => by
    split
    · exact (Dev.part_mirror _ _ _).trans rfl
    · rfl) _ _
  have h₃ : d₃.part = d₂.part := d₂.part_stepOver p
  have h₄ : d₄.part = d₃.part := d₃.updJob_only p _ .part (by simp)
  have h₅ : d₅.part = d₄.part := d₄.only_host _ .part (by simp)
  have h₆ : d₆.part = d₅.part := d₅.part_dropCommands p
  have h₇ : d₇.part = d₆.part := d₆.part_closeWindows _
  have h₈ : d₈.part = d₇.part := d₇.only_obs _ .part (by simp)
  have h₉ : d₉.part = d₈.part := Dev.only_trans (d₈.only_glob _) (Dev.only_glob _ _) .part (by simp)
  have h₁₀ : d₁₀.part = d₉.part := d₉.only_glob _ .part (by simp)
  have h₁₁ : d₁₁.part = d₁₀.part := d₁₀.only_serve _ .part (by simp)
  have h₁₂ : d₁₂.part = d₁₁.part := Dev.part_forAll (fun d c => d.part_updCluster c _) _ _
  have h₁₃ : d₁₃.part = d₁₂.part := Dev.part_forAll (fun d k => d.updTile_only k _ .part (by simp)) _ _
  have h₁₄ : d₁₄.part = d₁₃.part := d₁₃.part_leaveSweep _
  have h₁₅ : d₁₅.part = d₁₄.part := Dev.only_rst d₁₄ _ .part (by simp)
  have hc : (d₁₅.forAll cs Dev.powerCluster).part = d₁₅.part := Dev.part_forAll (fun d c => d.powerCluster_only c .part (by simp)) _ _
  calc ((d₁₅.forAll cs Dev.powerCluster).reprogramActive p).divideIdle.part
      = ((d₁₅.forAll cs Dev.powerCluster).reprogramActive p).part := Dev.divideIdle_only _ .part (by simp)
    _ = d₁₄.part := (Dev.part_reprogramActive _ p).trans (hc.trans h₁₅)
    _ = d₁₁.part := h₁₄.trans (h₁₃.trans h₁₂)
    _ = d₇.part := h₁₁.trans (h₁₀.trans (h₉.trans h₈))
    _ = d₃.part := h₇.trans (h₆.trans (h₅.trans h₄))
    _ = d.part := h₃.trans (h₂.trans h₁)

/-! ### A job that passes a boundary (R75, R401, R443) -/

theorem Dev.part_passBudget (d : Dev) (p : Nat) : (d.passBudget p).part = d.part := by
  unfold Dev.passBudget
  extract_lets x d₁ new target d₂ free
  have h₂ : d₂.part = d.part := by
    unfold d₂
    split <;> rfl
  exact (Dev.divide_only d₂ _ _ _ _ .part (by simp)).trans h₂

theorem Dev.part_passRegs (d : Dev) (p : Nat) : (d.passRegs p).part = d.part := by
  unfold Dev.passRegs Dev.applyRegs
  extract_lets owed
  exact Dev.part_forAll (fun d k => by split <;> rfl) _ _

theorem Dev.part_jobOut (d : Dev) (p : Nat) : (d.jobOut p).part = (d.passParts p).part :=
  (Dev.part_passRegs _ p).trans (Dev.part_passBudget _ p)

/-! ### A set-up comes into force, or out of it (R401, R403) -/

theorem Dev.part_bringIn (d : Dev) (x : PartSetup) : (d.bringIn x).part
    = (d.setPart x.partition { cfg := x.cfg, quota := x.quota, clusters := x.clusters }).part := by
  unfold Dev.bringIn
  extract_lets d₁ cs
  rw [Dev.part_forAll fun d c => d.part_updCluster c _]
  exact Dev.part_forAll (fun d c => d.powerCluster_only c .part (by simp)) _ _

theorem Dev.partIn_of_part {d d' : Dev} (h : d'.part = d.part) (n : Nat) : d'.partIn n = d.partIn n := by rw [Dev.partIn, Dev.partIn, h]
theorem Dev.partIn_bringIn (d : Dev) (x : PartSetup) (n : Nat) : (d.bringIn x).partIn n
    = if n = x.partition then { cfg := x.cfg, quota := x.quota, clusters := x.clusters } else d.partIn n :=
  (Dev.partIn_of_part (d.part_bringIn x) n).trans (d.partIn_setPart _ _ _)

theorem Dev.accepted_bringIn (d : Dev) (x : PartSetup) : (d.bringIn x).part.accepted = d.part.accepted := by
  rw [Dev.part_bringIn]; rfl

theorem Dev.only_part (d : Dev) (x : PartBlk) : d.only { d with part := x } [.part] := by
  intro b hb
  cases b with
  | part => simp at hb
  | _ => rfl

theorem Dev.bringIn_only (d : Dev) (x : PartSetup) : d.only (d.bringIn x) [.part, .array] := by
  unfold Dev.bringIn
  extract_lets d₁ cs
  have h₁ : d.only d₁ [.part] := d.only_part _
  exact Dev.only_mono ((h₁.append (Dev.only_forAll Dev.powerCluster_only cs d₁)).append
    (Dev.only_forAll (fun d c => d.updCluster_only c _) cs _)) (by simp)

/-- The boundary brings in staged set-ups only, and accepts none. -/
theorem Dev.accepted_passParts (d : Dev) (p : Nat) : (d.passParts p).part.accepted = d.part.accepted := by
  unfold Dev.passParts
  extract_lets owed staged
  split
  · have h := Dev.forAll_keeps (fun d => d.part.accepted) Dev.bringIn (fun d x => d.accepted_bringIn x)
    rw [h]
  · rfl

/-- A partition that no staged set-up names keeps what it has. -/
theorem Dev.partIn_passParts {d : Dev} {n : Nat} (h : ∀ x ∈ d.part.staged, x.partition ≠ n) (p : Nat) :
    (d.passParts p).partIn n = d.partIn n := by
  have hf : ∀ (xs : List PartSetup) (d : Dev), (∀ x ∈ xs, x.partition ≠ n) → (d.forAll xs Dev.bringIn).partIn n = d.partIn n := by
    intro xs
    induction xs with
    | nil => exact fun _ _ => rfl
    | cons x xs ih =>
      intro d hx
      rw [Dev.forAll_cons, ih _ fun y hy => hx y (List.mem_cons_of_mem x hy), d.partIn_bringIn, if_neg (hx x List.mem_cons_self).symm]
  unfold Dev.passParts
  extract_lets owed staged
  split
  · exact hf _ _ h
  · rfl

/-! ### A release (R403, R406) -/

theorem Dev.part_fillWorkspace (d : Dev) (sel : U64 → Bool) : (d.fillWorkspace sel).part = d.part :=
  Dev.part_forAll (fun d i => by dsimp only; split <;> rfl) _ d

/-- The set-ups once what is staged for partition `n` is dropped. -/
def PartBlk.withoutStaged (b : PartBlk) (n : Nat) : PartBlk := { b with staged := b.staged.filter fun y => y.partition != n }

/-- A release drops what is staged for the partition, clears it, and ends what waits for its boundary. -/
theorem Dev.releasePart_eq (d : Dev) (x : PartSetup) : ∃ d₁ : Dev,
    d₁.part = d.part.withoutStaged x.partition
      ∧ d.releasePart x = (d₁.setPart x.partition { cfg := x.cfg, quota := x.quota, clusters := x.clusters }).jobOut x.partition := by
  unfold Dev.releasePart
  extract_lets n cs d₁ d₂ d₃ b d₄
  refine ⟨d₄, ?_, rfl⟩
  have h₁ : d₁.part = d.part := (Dev.part_forAll (fun d c => d.part_updCluster c _) _ _).trans (d.part_resetPartition n)
  have h₂ : d₂.part = d₁.part := Dev.part_forAll (fun d k => d.updTile_only k _ .part (by simp)) _ _
  have h₃ : d₃.part = d.part := (d₂.part_fillWorkspace _).trans (h₂.trans h₁)
  have h₄ : d₄.part = d₃.part.withoutStaged n := rfl
  rw [h₄, h₃]

section
variable (d : Dev) (x : PartSetup)

theorem Dev.partIn_releasePart_same :
    (d.releasePart x).partIn x.partition = { cfg := x.cfg, quota := x.quota, clusters := x.clusters } := by
  obtain ⟨d₁, h₁, e⟩ := d.releasePart_eq x
  have hs : ∀ y ∈ (d₁.setPart x.partition { cfg := x.cfg, quota := x.quota, clusters := x.clusters }).part.staged,
      y.partition ≠ x.partition := fun y hy => by
    change y ∈ d₁.part.staged at hy
    rw [h₁] at hy
    simpa using (List.mem_filter.mp hy).2
  rw [e, Dev.partIn_of_part (Dev.part_jobOut _ _), Dev.partIn_passParts hs, Dev.partIn_setPart, if_pos rfl]

theorem Dev.partIn_releasePart_other (hs : d.part.staged = []) {q : Nat} (hq : q ≠ x.partition) :
    (d.releasePart x).partIn q = d.partIn q := by
  obtain ⟨d₁, h₁, e⟩ := d.releasePart_eq x
  have hn : ∀ y ∈ (d₁.setPart x.partition { cfg := x.cfg, quota := x.quota, clusters := x.clusters }).part.staged, y.partition ≠ q :=
    fun y hy => by
      change y ∈ d₁.part.staged at hy
      rw [h₁, PartBlk.withoutStaged, hs] at hy
      cases hy
  rw [e, Dev.partIn_of_part (Dev.part_jobOut _ _), Dev.partIn_passParts hn, Dev.partIn_setPart, if_neg hq, Dev.partIn, h₁]
  rfl

theorem Dev.accepted_releasePart : (d.releasePart x).part.accepted = d.part.accepted := by
  obtain ⟨d₁, h₁, e⟩ := d.releasePart_eq x
  rw [e, Dev.part_jobOut, Dev.accepted_passParts]
  change d₁.part.accepted = _
  rw [h₁]
  rfl

theorem Dev.partValid_releasePart (h : x.cfg.getLsbD 63 = false) : (d.releasePart x).partValid x.partition = false := by
  rw [Dev.partValid, d.partIn_releasePart_same]; exact h

end

/-! ### A set-up that a package takes (R401) -/

section
variable {d : Dev} {x : PartSetup}

/-- A set-up waits for the boundary of every job with a step in progress. -/
def Dev.stageSetup (d : Dev) (x : PartSetup) : Dev := { d with part := { d.part with staged := d.part.staged ++ [x], owed := d.busyJobs } }

theorem Dev.takeSetup_cleared (h : x.cfg.getLsbD 63 = false) : d.takeSetup x = d.releasePart x := by
  rw [Dev.takeSetup, h]; rfl

theorem Dev.takeSetup_busy (h : x.cfg.getLsbD 63 = true) (hb : d.busy = true) : d.takeSetup x = d.stageSetup x := by
  rw [Dev.takeSetup, h, hb]; rfl

theorem Dev.takeSetup_idle (h : x.cfg.getLsbD 63 = true) (hb : d.busy = false) : d.takeSetup x = d.bringIn x := by
  rw [Dev.takeSetup, h, hb]; rfl

/-- A VALID set-up is staged or brought in; the others' set-ups, the host's side and the stack are as they were. -/
theorem Dev.takeSetup_valid (h : x.cfg.getLsbD 63 = true) : d.only (d.takeSetup x) [.part, .array]
    ∧ (d.takeSetup x).part.accepted = d.part.accepted := by
  cases hb : d.busy with
  | true =>
    rw [Dev.takeSetup_busy h hb]
    exact ⟨Dev.only_mono (d.only_part _) (by simp), rfl⟩
  | false =>
    rw [Dev.takeSetup_idle h hb]
    exact ⟨d.bringIn_only x, d.accepted_bringIn x⟩

end

/-! ### Writes of VALID on the primary gateway (R401 to R403) -/

/-- The message that pushes a set-up. -/
def PartEntry.push (e : PartEntry) (n : Nat) : PartSetup := { partition := n, cfg := e.cfg, quota := e.quota, clusters := e.clusters }

/-- The package once the set-up reads back and is pushed. -/
def Dev.pushed (d : Dev) (n : Nat) (e : PartEntry) : Dev := (d.setPartAcc n e).send (.partSetup (e.push n))

section
variable {s : State} {n : Nat}

theorem Dev.partWritable_of {d : Dev} (hn : n < 64) (hp : d.sys.primary = true) (hr : d.rst.phase = .ready) : d.partWritable n = true := by
  simp [Dev.partWritable, hn, hp, hr]

theorem Dev.partRefuse_only (d : Dev) (n : Nat) (code : BitVec 4) : d.only (d.partRefuse n code) [.part, .obs] :=
  (d.only_part _).append (Dev.count_only _ _ _)

theorem exec_partSetValid (w : U64) (h : s.dev.partWritable n = true) :
    exec (.partSetValid n w) s = .next { s with dev := s.dev.setValid n w } := by
  rw [show exec (.partSetValid n w) s = execPartSetValid n w s from rfl, execPartSetValid]
  exact State.on_eq (if_pos h)

theorem exec_partClearValid (h : s.dev.partWritable n = true) :
    exec (.partClearValid n) s = .next { s with dev := s.dev.clearValid n } := by
  rw [show exec (.partClearValid n) s = execPartClearValid n s from rfl, execPartClearValid]
  exact State.on_eq (if_pos h)

theorem exec_partSetupReceive (x : PartSetup) : exec (.partSetupReceive ⟨3, x⟩) s = .next { s with dev := s.dev.takeSetup x } := by
  rw [show exec (.partSetupReceive ⟨3, x⟩) s = execPartSetupReceive ⟨3, x⟩ s from rfl, execPartSetupReceive, State.onChannel]
  exact State.on_eq (if_pos rfl)

/-- A set-up that passes is accepted, pushed and taken. -/
theorem Dev.setValid_accepts {d : Dev} {w : U64} (hv : (d.partAcc n).cfg.getLsbD 63 = false) {e : PartEntry}
    (he : e = { d.partAcc n with cfg := cfgOf (d.partAcc n).cfg w ||| 0x8000000000000000 }) (hc : d.partError n e = 0) :
    d.setValid n w = (d.pushed n e).takeSetup (e.push n) := by
  subst he
  rw [Dev.setValid, hv, if_neg Bool.false_ne_true, if_pos hc]
  rfl

theorem Dev.setValid_refuses {d : Dev} {w : U64} (hv : (d.partAcc n).cfg.getLsbD 63 = false) {e : PartEntry}
    (he : e = { d.partAcc n with cfg := cfgOf (d.partAcc n).cfg w ||| 0x8000000000000000 }) (hc : d.partError n e ≠ 0) :
    d.setValid n w = d.partRefuse n (d.partError n e) := by
  subst he
  rw [Dev.setValid, hv, if_neg Bool.false_ne_true, if_neg hc]

/-- Clearing VALID pushes the set-up without it, which the package takes at once. -/
theorem Dev.clearValid_clears {d : Dev} (hj : (d.jobSetup n).valid = false) (hv : (d.partAcc n).cfg.getLsbD 63 = true) {e : PartEntry}
    (he : e = { d.partAcc n with cfg := (d.partAcc n).cfg &&& 0x7FFFFFFFFFFFFFFF }) :
    d.clearValid n = (d.pushed n e).takeSetup (e.push n) := by
  subst he
  rw [Dev.clearValid, hj, hv, if_neg Bool.false_ne_true, if_pos rfl]
  rfl

theorem getLsbD_valid_set (w : U64) : (w ||| 0x8000000000000000#64).getLsbD 63 = true := by
  rw [BitVec.getLsbD_or, show (0x8000000000000000#64).getLsbD 63 = true from rfl, Bool.or_true]

theorem getLsbD_valid_cleared (w : U64) : (w &&& 0x7FFFFFFFFFFFFFFF#64).getLsbD 63 = false := by
  rw [BitVec.getLsbD_and, show (0x7FFFFFFFFFFFFFFF#64).getLsbD 63 = false from rfl, Bool.and_false]

theorem Dev.busy_pushed (d : Dev) (n : Nat) (e : PartEntry) : (d.pushed n e).busy = d.busy := rfl
theorem Dev.partIn_pushed (d : Dev) (n : Nat) (e : PartEntry) (q : Nat) : (d.pushed n e).partIn q = d.partIn q := rfl
theorem Dev.staged_pushed (d : Dev) (n : Nat) (e : PartEntry) : (d.pushed n e).part.staged = d.part.staged := rfl

/-- A staged set-up is not in force. -/
theorem Dev.partIn_stageSetup (d : Dev) (x : PartSetup) (q : Nat) : (d.stageSetup x).partIn q = d.partIn q := rfl

/-- A push reads back in the partition's own entry. -/
theorem Dev.partAcc_pushed {d d' : Dev} {e : PartEntry} (h : d'.part.accepted = (d.pushed n e).part.accepted) (q : Nat) :
    d'.partAcc q = if q = n then e else d.partAcc q :=
  (congrArg (fun m => SMap.get PartEntry.none m q) h).trans (d.partAcc_setPartAcc n q e)

/-- A VALID set-up has been accepted and pushed, and it is in force or waits. -/
structure Dev.SetupAccepted (n : Nat) (e : PartEntry) (d d' : Dev) : Prop where
  reads : d'.partAcc n = e
  others : ∀ q, q ≠ n → d'.partAcc q = d.partAcc q
  sent : .partSetup (e.push n) ∈ d'.host.sent
  idle : d.busy = false → d'.partIn n = e
  busy : d.busy = true → d'.partIn n = d.partIn n
  stack : d'.stack = d.stack

theorem Dev.setupAccepted (d : Dev) {e : PartEntry} (h : e.cfg.getLsbD 63 = true) :
    Dev.SetupAccepted n e d ((d.pushed n e).takeSetup (e.push n)) := by
  obtain ⟨ho, ha⟩ := Dev.takeSetup_valid (d := d.pushed n e) (x := e.push n) h
  refine ⟨(Dev.partAcc_pushed ha n).trans (if_pos rfl), fun q hq => (Dev.partAcc_pushed ha q).trans (if_neg hq), ?_, fun hb => ?_,
    fun hb => ?_, ho .stack (by simp)⟩
  · rw [show ((d.pushed n e).takeSetup (e.push n)).host = (d.pushed n e).host from ho .host (by simp)]
    exact List.mem_append_right _ (List.mem_singleton.mpr rfl)
  · rw [Dev.takeSetup_idle (x := e.push n) h ((d.busy_pushed n e).trans hb), Dev.partIn_bringIn]
    exact if_pos rfl
  · rw [Dev.takeSetup_busy (x := e.push n) h ((d.busy_pushed n e).trans hb), Dev.partIn_stageSetup, Dev.partIn_pushed]

theorem PartEntry.partition_push (e : PartEntry) (n : Nat) : (e.push n).partition = n := rfl

/-- A set-up without VALID has been accepted and pushed, and its partition is released. -/
structure Dev.SetupCleared (n : Nat) (e : PartEntry) (d d' : Dev) : Prop where
  reads : d'.partAcc n = e
  out : d'.partValid n = false
  others : d.part.staged = [] → ∀ q, q ≠ n → d'.partIn q = d.partIn q

theorem Dev.setupCleared (d : Dev) {e : PartEntry} (h : e.cfg.getLsbD 63 = false) :
    Dev.SetupCleared n e d ((d.pushed n e).takeSetup (e.push n)) := by
  have hv := (d.pushed n e).partValid_releasePart (e.push n) h
  have ho := fun hs q => (d.pushed n e).partIn_releasePart_other (e.push n) hs (q := q)
  rw [PartEntry.partition_push] at hv ho
  rw [Dev.takeSetup_cleared (x := e.push n) h]
  refine ⟨?_, hv, fun hs q hq => ?_⟩
  · rw [Dev.partAcc_pushed (Dev.accepted_releasePart _ _) n, if_pos rfl]
  · rw [ho ((d.staged_pushed n e).trans hs) q hq, Dev.partIn_pushed]

end

/-- Settles O45: an accepted set-up is pushed and taken, a refused one is noted only, and a cleared one is released at once. -/
theorem partitionSetUpsAreCheckedAndPushed : Obligations.PartitionSetUpsAreCheckedAndPushed := by
  unfold Obligations.PartitionSetUpsAreCheckedAndPushed
  intro s n w hn hp hr e cfg
  have hw : s.dev.partWritable n = true := Dev.partWritable_of hn hp hr
  refine ⟨fun hv hc => ?_, fun hv hc => ?_, fun hj => ?_, fun hj hv => ?_, fun x hx => ?_, fun x hx => ?_⟩
  · have h := s.dev.setupAccepted (n := n) (e := { e with cfg := cfg }) (getLsbD_valid_set _)
    exact Runs.of_next ((exec_partSetValid w hw).trans (by rw [Dev.setValid_accepts hv rfl hc]))
      ⟨h.reads, h.others, h.sent, h.idle, h.busy, h.stack⟩
  · refine Runs.of_next ((exec_partSetValid w hw).trans (by rw [Dev.setValid_refuses hv rfl hc])) ⟨rfl, ?_, s.dev.partRefuse_only n _⟩
    rw [Dev.partRefuse, Dev.counter_count, if_pos rfl]
    rfl
  · refine Runs.of_next ((exec_partClearValid hw).trans (by rw [Dev.clearValid, hj, if_pos rfl])) ⟨rfl, s.dev.partRefuse_only n 7⟩
  · have hx := getLsbD_valid_cleared e.cfg
    have h := s.dev.setupCleared (n := n) (e := { e with cfg := e.cfg &&& 0x7FFFFFFFFFFFFFFF }) hx
    exact Runs.of_next ((exec_partClearValid hw).trans (by rw [Dev.clearValid_clears hj hv rfl]))
      ⟨by rw [h.reads]; exact hx, h.out, h.others⟩
  · refine Runs.of_next (exec_partSetupReceive x) ⟨(Dev.takeSetup_valid hx).1 .stack (by simp), ?_⟩
    cases hb : s.dev.busy with
    | true =>
      rw [Dev.takeSetup_busy hx hb]
      exact ⟨rfl, rfl⟩
    | false =>
      rw [Dev.takeSetup_idle hx hb, Dev.partIn_bringIn]
      exact if_pos rfl
  · refine Runs.of_next (exec_partSetupReceive x) ?_
    rw [Dev.takeSetup_cleared hx]
    exact s.dev.partValid_releasePart x hx

end Sys2Proof.Machine
end

section
/-! SUPPORT. Numbers that enter accumulation, and the start of a step's schedule: what adding to lanes leaves as it was, what a list of
clusters is after each of them was changed, and STEP_SCHEDULE_START (R89 to R92, R105, R146, R149, R212, R214, R216). -/

namespace Sys2Proof.Machine

/-! ### Adding to the lanes of one cluster (R89 to R92, R97, R166) -/

/-- Only the lanes of cluster `c` have changed, and the count of those that entered extended mode. -/
structure Dev.AddsLanes (c : Nat) (d d' : Dev) : Prop where
  own : ∃ ls, d'.cluster c = { d.cluster c with lanes := ls }
  others : ∀ x, x ≠ c → d'.cluster x = d.cluster x
  array : ∃ m, d'.array = { d.array with clusters := m }
  only : d.only d' [.array, .obs]
  counter : ∀ n, d'.counter n = d.counter n
  counterC : ∀ e n, n < 64 → n ≠ CC.arithExtended → d'.counterC e n = d.counterC e n

section
variable {c : Nat} {d d₁ d₂ : Dev}

theorem Dev.AddsLanes.refl : Dev.AddsLanes c d d :=
  ⟨⟨_, rfl⟩, fun _ _ => rfl, ⟨_, rfl⟩, d.only_refl _, fun _ => rfl, fun _ _ _ _ => rfl⟩

theorem Dev.AddsLanes.trans (h₁ : Dev.AddsLanes c d d₁) (h₂ : Dev.AddsLanes c d₁ d₂) : Dev.AddsLanes c d d₂ where
  own := by
    obtain ⟨ls, e⟩ := h₂.own
    obtain ⟨_, e₁⟩ := h₁.own
    exact ⟨ls, e.trans (by rw [e₁])⟩
  others x hx := (h₂.others x hx).trans (h₁.others x hx)
  array := by
    obtain ⟨m, e⟩ := h₂.array
    obtain ⟨_, e₁⟩ := h₁.array
    exact ⟨m, e.trans (by rw [e₁])⟩
  only := Dev.only_trans h₁.only h₂.only
  counter n := (h₂.counter n).trans (h₁.counter n)
  counterC e n hn hx := (h₂.counterC e n hn hx).trans (h₁.counterC e n hn hx)

theorem Dev.AddsLanes.field {β : Type} (h : Dev.AddsLanes c d d₁) (g : Cluster → β) (hg : ∀ x ls, g { x with lanes := ls } = g x) (e : Nat) :
    g (d₁.cluster e) = g (d.cluster e) := by
  by_cases he : e = c
  · subst he
    obtain ⟨ls, e⟩ := h.own
    rw [e, hg]
  · rw [h.others e he]

theorem Dev.AddsLanes.tile (h : Dev.AddsLanes c d d₁) (j : Nat) : d₁.tile j = d.tile j := by
  obtain ⟨m, e⟩ := h.array
  rw [Dev.tile, Dev.tile, e]

end

/-- New lanes of one cluster. -/
theorem Dev.addsLanes_updCluster (d : Dev) (c : Nat) {f : Cluster → Cluster} (hf : ∀ x, ∃ ls, f x = { x with lanes := ls }) :
    Dev.AddsLanes c d (d.updCluster c f) where
  own := by
    obtain ⟨ls, e⟩ := hf (d.cluster c)
    exact ⟨ls, (d.cluster_updCluster_same c f).trans e⟩
  others _ hx := d.cluster_updCluster_other f hx
  array := ⟨_, rfl⟩
  only := Dev.only_mono (d.updCluster_only c f) (by simp)
  counter _ := rfl
  counterC _ _ _ _ := rfl

theorem Dev.addsLanes_setAccLane (d : Dev) (c n : Nat) (l : Lane) : Dev.AddsLanes c d (d.setAccLane c n l) := by
  have h := d.addsLanes_updCluster c (f := fun x => { x with lanes := SMap.put Lane.fresh x.lanes n l }) fun x => ⟨_, rfl⟩
  unfold Dev.setAccLane
  extract_lets old d₁
  split
  · refine h.trans ⟨⟨_, rfl⟩, fun _ _ => rfl, ⟨_, rfl⟩, Dev.only_mono (Dev.countC_only _ _ _ _) (by simp), fun _ => rfl, fun e m hm hx => ?_⟩
    have ha : CC.arithExtended < 64 := by decide
    rw [Dev.counterC_countC, if_neg (by omega)]
  · exact h

theorem Dev.AddsLanes.forAll {α : Type} {c : Nat} {f : Dev → α → Dev} (hf : ∀ d a, Dev.AddsLanes c d (f d a)) (xs : List α) (d : Dev) :
    Dev.AddsLanes c d (d.forAll xs f) :=
  Dev.forAll_holds (fun x => Dev.AddsLanes c d x) f (fun _ a h => h.trans (hf _ a)) xs d .refl

theorem Dev.addsLanes_addPartials (d : Dev) (c lt : Nat) (v : EdgeVec) (P : List Int) : Dev.AddsLanes c d (d.addPartials c lt v P) := by
  unfold Dev.addPartials
  refine .forAll (fun d j => ?_) _ _
  split <;> exact Dev.addsLanes_setAccLane _ _ _ _

/-- The side path of an input, forward or transposed, adds to the lanes of its cluster. -/
theorem Dev.addsLanes_addSide (d : Dev) (c l : Nat) (v : EdgeVec) (ms es : List Byte) (channels : List Nat) :
    Dev.AddsLanes c d (d.addSide c l v ms es channels) := by
  have add : ∀ (d : Dev) (n : Nat) (x u : Int), Dev.AddsLanes c d (d.addLane c n x u) := fun d n x u => d.addsLanes_setAccLane c n _
  unfold Dev.addSide
  split
  · exact (Dev.AddsLanes.forAll (fun d w => add d _ _ _) _ _).trans (.forAll (fun d x => add d _ _ _) _ _)
  · exact ((Dev.AddsLanes.forAll (fun d i => .forAll (fun d j => add d _ _ _) _ _) _ _).trans
      (.forAll (fun d w => add d _ _ _) _ _)).trans (.forAll (fun d x => add d _ _ _) _ _)

/-! ### A refused access leaves the stack's content (R230, R397) -/

theorem Dev.stack_msix (d : Dev) (fn : Nat) (v : BitVec 11) : (d.msix fn v).stack = d.stack := d.msix_only fn v .stack (by simp)

theorem Dev.mem_refuseAccess (d : Dev) (p : Nat) : (d.refuseAccess p).stack.mem = d.stack.mem := by
  unfold Dev.refuseAccess Dev.violation
  extract_lets at_
  split
  · exact (congrArg StackBlk.mem (Dev.event_only _ _ .stack (by simp))).trans rfl
  · rfl

theorem Dev.mem_noteImage (d : Dev) (c l : Nat) : (d.noteImage c l).stack.mem = d.stack.mem := by
  unfold Dev.noteImage
  split
  · rfl
  · exact d.mem_refuseAccess _

theorem Dev.noteImage_only (d : Dev) (c l : Nat) : d.only (d.noteImage c l) [.obs, .stack, .host] := by
  unfold Dev.noteImage
  split
  · exact d.only_refl _
  · exact d.refuseAccess_only _

/-! ### Halves of Dahlia that start (R146, R148, R149) -/

/-- What work on Dahlia's halves leaves of the package: but for lanes, the clusters, their slot tables and circuits, the jobs and the bytes
of the stack. -/
structure Dev.Computes (d d' : Dev) : Prop where
  lanes : ∀ c, ∃ ls, d'.cluster c = { d.cluster c with lanes := ls }
  array : ∃ m, d'.array = { d.array with clusters := m }
  mem : d'.stack.mem = d.stack.mem
  only : d.only d' [.array, .engine, .obs, .stack, .host]

section
variable {d d₁ d₂ : Dev}

theorem Dev.Computes.refl : Dev.Computes d d := ⟨fun _ => ⟨_, rfl⟩, ⟨_, rfl⟩, rfl, d.only_refl _⟩

theorem Dev.Computes.trans (h₁ : Dev.Computes d d₁) (h₂ : Dev.Computes d₁ d₂) : Dev.Computes d d₂ where
  lanes c := by
    obtain ⟨ls, e⟩ := h₂.lanes c
    obtain ⟨_, e₁⟩ := h₁.lanes c
    exact ⟨ls, e.trans (by rw [e₁])⟩
  array := by
    obtain ⟨m, e⟩ := h₂.array
    obtain ⟨_, e₁⟩ := h₁.array
    exact ⟨m, e.trans (by rw [e₁])⟩
  mem := h₂.mem.trans h₁.mem
  only := Dev.only_trans h₁.only h₂.only

theorem Dev.computes_of_array (ha : d₁.array = d.array) (hm : d₁.stack.mem = d.stack.mem)
    (ho : d.only d₁ [.array, .engine, .obs, .stack, .host]) : Dev.Computes d d₁ :=
  ⟨fun c => ⟨_, Dev.cluster_of_array ha c⟩, ⟨_, ha⟩, hm, ho⟩

theorem Dev.Computes.circuits (h : Dev.Computes d d₁) : d₁.array.circuits = d.array.circuits := by
  obtain ⟨m, e⟩ := h.array
  rw [e]

theorem Dev.AddsLanes.computes {c : Nat} (h : Dev.AddsLanes c d d₁) : Dev.Computes d d₁ where
  lanes e := by
    by_cases he : e = c
    · exact he ▸ h.own
    · exact ⟨_, h.others e he⟩
  array := h.array
  mem := congrArg StackBlk.mem (h.only .stack (by simp))
  only := Dev.only_mono h.only (by simp)

theorem Dev.computes_engine (d : Dev) (x : EngineBlk) : Dev.Computes d { d with engine := x } :=
  Dev.computes_of_array rfl rfl (Dev.only_mono (d.only_engine x) (by simp))

theorem Dev.computes_noteImage (d : Dev) (c l : Nat) : Dev.Computes d (d.noteImage c l) :=
  Dev.computes_of_array (d.noteImage_only c l .array (by simp)) (d.mem_noteImage c l) (Dev.only_mono (d.noteImage_only c l) (by simp))

theorem Dev.computes_count (d : Dev) (n k : Nat) : Dev.Computes d (d.count n k) :=
  Dev.computes_of_array rfl rfl (Dev.only_mono (d.count_only n k) (by simp))

theorem Dev.Computes.forAll {α : Type} {f : Dev → α → Dev} (hf : ∀ d a, Dev.Computes d (f d a)) (xs : List α) (d : Dev) :
    Dev.Computes d (d.forAll xs f) :=
  Dev.forAll_holds (fun x => Dev.Computes d x) f (fun _ a h => h.trans (hf _ a)) xs d .refl

theorem Dev.computes_standInAdd (d : Dev) (lt : Nat) (v : EdgeVec) (onDahlia : Bool) : Dev.Computes d (d.standInAdd lt v onDahlia) := by
  delta Dev.standInAdd
  extract_lets P
  exact ((d.computes_noteImage _ _).trans (Dev.addsLanes_addPartials _ _ _ _ _).computes).trans (Dev.computes_count _ _ _)

theorem Dev.computes_runHalf (d : Dev) (h : Nat) (o : DahliaOp) : Dev.Computes d (d.runHalf h o) := by
  have h₁ := d.computes_engine { d.engine with halves := SMap.put none d.engine.halves h (some o) }
  unfold Dev.runHalf
  extract_lets d₁
  split
  · exact ((h₁.trans (Dev.computes_engine _ _)).trans ((Dev.computes_engine _ _).trans (Dev.computes_count _ _ _))).trans
      (.forAll (fun d v => d.computes_standInAdd _ v true) _ _)
  · exact h₁.trans (Dev.computes_engine _ _)

theorem Dev.computes_startHalves (fuel : Nat) (d : Dev) : Dev.Computes d (d.startHalves fuel) := by
  induction fuel generalizing d with
  | zero => exact .refl
  | succ fuel ih =>
    unfold Dev.startHalves
    split
    · split
      · exact .refl
      · split
        · exact .refl
        · exact ((d.computes_engine _).trans (Dev.computes_runHalf _ _ _)).trans (ih _)
    · exact .refl

theorem Dev.computes_queueStandIns (d : Dev) (p : Nat) : Dev.Computes d (d.queueStandIns p) := by
  unfold Dev.queueStandIns
  extract_lets all lts room d₁
  refine (d.computes_engine _).trans (.forAll (fun d lt => ?_) _ _)
  split
  · exact .refl
  · exact d.computes_engine _

end

/-! ### Clusters changed one after another -/

theorem Dev.cluster_forAll_updCluster (F : Cluster → Cluster) {cs : List Nat} (hn : cs.Nodup) (d : Dev) (x : Nat) :
    (d.forAll cs fun d c => d.updCluster c F).cluster x = if x ∈ cs then F (d.cluster x) else d.cluster x := by
  induction cs generalizing d with
  | nil => rfl
  | cons c cs ih =>
    obtain ⟨hc, hn⟩ := List.nodup_cons.mp hn
    refine (ih hn (d.updCluster c F)).trans ?_
    by_cases hx : x = c
    · subst hx
      rw [if_neg hc, if_pos List.mem_cons_self, Dev.cluster_updCluster_same]
    · simp only [List.mem_cons, hx, false_or, Dev.cluster_updCluster_other d F hx]

/-- Of the array only what clusters hold has changed, and outside it nothing. -/
structure Dev.KeepsArray (d d' : Dev) : Prop where
  array : ∃ m, d'.array = { d.array with clusters := m }
  only : d.only d' [.array]

theorem Dev.KeepsArray.trans {d d₁ d₂ : Dev} (h₁ : Dev.KeepsArray d d₁) (h₂ : Dev.KeepsArray d₁ d₂) : Dev.KeepsArray d d₂ where
  array := by
    obtain ⟨m, e⟩ := h₂.array
    obtain ⟨_, e₁⟩ := h₁.array
    exact ⟨m, e.trans (by rw [e₁])⟩
  only := Dev.only_trans h₁.only h₂.only

theorem Dev.keepsArray_updCluster (d : Dev) (c : Nat) (F : Cluster → Cluster) : Dev.KeepsArray d (d.updCluster c F) :=
  ⟨⟨_, rfl⟩, d.updCluster_only c F⟩

theorem Dev.keepsArray_forAll_updCluster (F : Cluster → Cluster) (cs : List Nat) (d : Dev) :
    Dev.KeepsArray d (d.forAll cs fun d c => d.updCluster c F) :=
  Dev.forAll_holds (Dev.KeepsArray d) _ (fun d' c h => h.trans (d'.keepsArray_updCluster c F)) cs d ⟨⟨_, rfl⟩, d.only_refl _⟩

/-! ### STEP_SCHEDULE_START (R105, R212, R214, R216) -/

/-- The slot table with the planner's shadow entries in place of the old step circuits; what an earlier schedule had under way is gone
(R216). -/
def Cluster.scheduled (x : Cluster) : Cluster :=
  { x with slots := x.shadow.foldl (fun m e => SMap.put 0 m e.1 e.2) (SMap.keep (fun s => !serviceSlot s) x.slots), shadow := [], arrivals := [] }

/-- A step whose schedule begins at device time `now`. -/
def MemberStep.begins (x : MemberStep) (now : U64) : MemberStep := { x with started := true, due := false, startedAt := now }

/-- The step of job `p` begins at the present time. -/
def Dev.beginStep (d : Dev) (p : Nat) (st : MemberStep) : Dev := d.updJob p fun j => { j with step := some (st.begins d.now) }

theorem Dev.partClusters_of_part {d d' : Dev} (h : d'.part = d.part) (p : Nat) : d'.partClusters p = d.partClusters p := by
  rw [Dev.partClusters, Dev.partClusters, Dev.partIn, Dev.partIn, h]

section
variable (d : Dev) (p : Nat) (st : MemberStep)

theorem Dev.beginStep_only : d.only (d.beginStep p st) [.serve] := d.updJob_only _ _

theorem Dev.job_updJob (f : Job → Job) : (d.updJob p f).job p = f (d.job p) := (d.job_setJob p p _).trans (if_pos rfl)

theorem Dev.job_beginStep : (d.beginStep p st).job p = { d.job p with step := some (st.begins d.now) } :=
  d.job_updJob p _

theorem Dev.keepsArray_updSeqs (f : Seq → Seq) : Dev.KeepsArray d (d.updSeqs p f) :=
  Dev.keepsArray_forAll_updCluster (fun x => { x with sequencer := f x.sequencer }) (d.partClusters p) d

/-- The step begins and every sequencer is idle from now; slot tables and circuits are as they were. -/
def Dev.restarted : Dev := (d.beginStep p st).updSeqs p fun _ => { Seq.idle with base := d.now }

theorem Dev.keepsArray_restarted : Dev.KeepsArray (d.beginStep p st) (d.restarted p st) := Dev.keepsArray_updSeqs _ _ _

theorem Dev.partClusters_restarted : (d.restarted p st).partClusters p = d.partClusters p :=
  Dev.partClusters_of_part (((d.keepsArray_restarted p st).only .part (by simp)).trans (d.beginStep_only p st .part (by simp))) p

/-- The circuits of the clusters `cs` have had no turn yet. -/
def Dev.dropCircuits (d : Dev) (cs : List Nat) : Dev :=
  { d with array := { d.array with circuits := d.array.circuits.filter fun e => !cs.contains e.1 } }

theorem Dev.circuits_dropCircuits (cs : List Nat) :
    (d.dropCircuits cs).array.circuits = d.array.circuits.filter fun e => !cs.contains e.1 := rfl

theorem Dev.cluster_dropCircuits (cs : List Nat) (c : Nat) : (d.dropCircuits cs).cluster c = d.cluster c := rfl

theorem Dev.dropCircuits_only (cs : List Nat) : d.only (d.dropCircuits cs) [.array] := d.only_array _

/-- The slot tables of the clusters `cs` are those of the new schedule. -/
def Dev.retabled (cs : List Nat) : Dev := d.forAll cs fun d c => d.updCluster c Cluster.scheduled

theorem Dev.keepsArray_retabled (cs : List Nat) : Dev.KeepsArray d (d.retabled cs) := Dev.keepsArray_forAll_updCluster _ _ _

/-- The schedule of job `p` begins, before its stand-ins take their halves: the clusters of the partition start again. -/
def Dev.scheduled : Dev := ((d.restarted p st).retabled (d.partClusters p)).dropCircuits (d.partClusters p)

theorem Dev.scheduled_only : (d.beginStep p st).only (d.scheduled p st) [.array] :=
  Dev.only_trans ((d.keepsArray_restarted p st).trans (Dev.keepsArray_retabled _ _)).only (Dev.dropCircuits_only _ _)

theorem Dev.circuits_scheduled :
    (d.scheduled p st).array.circuits = d.array.circuits.filter fun e => !(d.partClusters p).contains e.1 := by
  obtain ⟨m, e⟩ := ((d.keepsArray_restarted p st).trans (Dev.keepsArray_retabled _ (d.partClusters p))).array
  rw [Dev.scheduled, Dev.circuits_dropCircuits, e, d.beginStep_only p st .array (by simp)]

theorem Dev.nodup_partClusters : (d.partClusters p).Nodup := List.Nodup.filter _ List.nodup_range

theorem Dev.cluster_restarted (c : Nat) : (d.restarted p st).cluster c
    = if c ∈ d.partClusters p then { d.cluster c with sequencer := { Seq.idle with base := d.now } } else d.cluster c := by
  have hb : (d.beginStep p st).array = d.array := d.beginStep_only p st .array (by simp)
  have hp : (d.beginStep p st).partClusters p = d.partClusters p := Dev.partClusters_of_part (d.beginStep_only p st .part (by simp)) p
  have h := Dev.cluster_forAll_updCluster (fun x => { x with sequencer := { Seq.idle with base := d.now } })
    (Dev.nodup_partClusters (d.beginStep p st) p) (d.beginStep p st) c
  rw [hp, Dev.cluster_of_array hb] at h
  rw [Dev.restarted, Dev.updSeqs, hp]
  exact h

theorem Dev.cluster_scheduled (c : Nat) : (d.scheduled p st).cluster c
    = if c ∈ d.partClusters p then { (d.cluster c).scheduled with sequencer := { Seq.idle with base := d.now } } else d.cluster c := by
  have h := Dev.cluster_forAll_updCluster Cluster.scheduled (d.nodup_partClusters p) (d.restarted p st) c
  rw [Dev.cluster_restarted] at h
  rw [Dev.scheduled, Dev.cluster_dropCircuits, Dev.retabled, h]
  split <;> rfl

end

section
variable {d : Dev} {p : Nat} {st : MemberStep}

theorem Dev.startSchedule_eq (h : (d.job p).step = some st) :
    d.startSchedule p = ((d.scheduled p st).queueStandIns p).startHalves 32 := by
  unfold Dev.startSchedule
  split
  next h' => rw [h] at h'; cases h'
  next st' h' =>
    obtain rfl : st = st' := Option.some.inj (h.symm.trans h')
    extract_lets d₁ _ d₂ d₃ own _ d₄
    have h₂ : d₂ = d.restarted p st := rfl
    have h₃ : d₃ = d₂.retabled (d₂.partClusters p) := rfl
    have h₄ : d₄ = d₃.dropCircuits (d₃.partClusters p) := rfl
    rw [h₄, h₃, h₂, Dev.partClusters_of_part ((Dev.keepsArray_retabled _ _).only .part (by simp)), Dev.partClusters_restarted, Dev.scheduled]

end

theorem exec_stepScheduleStart_eq (s : State) (p : Nat) : exec (.stepScheduleStart p) s = execStepScheduleStart p s := rfl

theorem exec_stepScheduleStart_stays {s : State} {p : Nat}
    (h : (s.dev.job p).step = none ∨ ∃ st, (s.dev.job p).step = some st ∧ st.started = true) :
    exec (.stepScheduleStart p) s = .next s := by
  refine (exec_stepScheduleStart_eq s p).trans (State.on_eq (?_ : _ = s.dev))
  obtain h | ⟨st, h, hs⟩ := h
  · simp only [h]
  · simp only [h, hs, if_true]

section
variable {s : State} {p : Nat} {st : MemberStep} (h : (s.dev.job p).step = some st) (hs : st.started = false)
include h hs

theorem exec_stepScheduleStart_begins (hf : s.dev.frameStart = true) :
    exec (.stepScheduleStart p) s = .next { s with dev := ((s.dev.scheduled p st).queueStandIns p).startHalves 32 } := by
  refine (exec_stepScheduleStart_eq s p).trans (State.on_eq ?_)
  simp only [h, hs, Bool.false_eq_true, if_false, hf, if_true]
  exact Dev.startSchedule_eq h

theorem exec_stepScheduleStart_waits (hf : s.dev.frameStart = false) : exec (.stepScheduleStart p) s
    = .next { s with dev := s.dev.updJob p fun j => { j with step := some { st with due := true } } } := by
  refine (exec_stepScheduleStart_eq s p).trans (State.on_eq ?_)
  simp only [h, hs, Bool.false_eq_true, if_false, hf]

end

/-- Settles O41: the schedule begins with the clusters of the partition, and what the stand-ins' halves then compute leaves it. -/
theorem stepScheduleStartsOnce : Obligations.StepScheduleStartsOnce := by
  unfold Obligations.StepScheduleStartsOnce
  intro s p
  refine ⟨fun st h hs => ⟨fun hf _ => ?_, fun hf => ?_⟩, exec_stepScheduleStart_stays⟩
  · have hc : Dev.Computes (s.dev.scheduled p st) (((s.dev.scheduled p st).queueStandIns p).startHalves 32) :=
      (Dev.computes_queueStandIns _ p).trans (Dev.computes_startHalves 32 _)
    have ho := s.dev.scheduled_only p st
    refine Runs.of_next (exec_stepScheduleStart_begins h hs (decide_eq_true hf)) ⟨⟨st.begins s.dev.now, ?_, rfl, rfl, rfl, rfl⟩,
      fun c hm => ?_, fun x hx => ?_, fun c hm => ?_, fun x => ?_⟩
    · have hj := congrArg (fun x : ServeBlk => (SMap.get Job.idle x.jobs p).step) ((hc.only .serve (by simp)).trans (ho .serve (by simp)))
      exact hj.trans (congrArg Job.step (s.dev.job_beginStep p st))
    · obtain ⟨ls, hl⟩ := hc.lanes c
      rw [hl, Dev.cluster_scheduled, if_pos hm]
      exact ⟨rfl, rfl, rfl, rfl⟩
    · rw [hc.circuits, Dev.circuits_scheduled] at hx
      simpa using (List.mem_filter.mp hx).2
    · obtain ⟨ls, hl⟩ := hc.lanes c
      rw [hl, Dev.cluster_scheduled, if_neg hm]
      exact ⟨rfl, rfl, rfl⟩
    · exact congrArg (Memory.read · x) (hc.mem.trans (congrArg StackBlk.mem ((ho .stack (by simp)).trans (s.dev.beginStep_only p st .stack (by simp)))))
  · refine Runs.of_next (exec_stepScheduleStart_waits h hs (decide_eq_false hf)) ⟨Dev.updJob_only _ _ _, _, ?_, rfl⟩
    exact congrArg Job.step (s.dev.job_updJob p _)

end Sys2Proof.Machine
end

section
/-! SUPPORT. Transfers over the mesh: the bytes of a row that was patched, where flits go, what a delivery leaves as it was, and
MESH_TRANSFER (R92, R213 to R217). -/

namespace Sys2Proof.Machine

/-! ### Bytes of a scratchpad row (R11, R220) -/

/-- Byte `i` of a row in which byte `k` was replaced. -/
theorem extractByte_put (w : BitVec 4096) (b : Byte) {k : Nat} (hk : k < 512) (i : Nat) :
    ((w &&& ~~~((0xFF : BitVec 4096) <<< (8 * k))) ||| (b.setWidth 4096) <<< (8 * k)).extractLsb' (8 * i) 8
      = if i = k then b else w.extractLsb' (8 * i) 8 := by
  have hFF : ∀ n, (0xFF : BitVec 4096).getLsbD n = decide (n < 8) := fun n => by
    rw [show (0xFF : BitVec 4096) = BitVec.ofNat 4096 (2 ^ 8 - 1) from rfl, BitVec.getLsbD_ofNat, Nat.testBit_two_pow_sub_one]
    by_cases h : n < 8
    · simp [h, show n < 4096 by omega]
    · simp [h]
  refine BitVec.eq_of_getLsbD_eq fun j hj => ?_
  simp only [BitVec.getLsbD_extractLsb', BitVec.getLsbD_or, BitVec.getLsbD_and, BitVec.getLsbD_not, BitVec.getLsbD_shiftLeft, hFF,
    BitVec.getLsbD_setWidth, hj, decide_true, Bool.true_and]
  by_cases hi : i = k
  · subst hi
    have e : 8 * i + j - 8 * i = j := by omega
    simp only [e, if_pos, hj, decide_true]
    simp [show 8 * i + j < 4096 by omega, show ¬ 8 * i + j < 8 * i by omega, show j < 4096 by omega]
  · rw [if_neg hi, BitVec.getLsbD_extractLsb']
    simp only [hj, decide_true, Bool.true_and]
    by_cases hlt : 8 * i + j < 8 * k
    · by_cases hw : 8 * i + j < 4096
      · simp [hlt, hw]
      · omega
    · have h8 : ¬ 8 * i + j - 8 * k < 8 := by omega
      have hb : b.getLsbD (8 * i + j - 8 * k) = false := BitVec.getLsbD_of_ge _ _ (by omega)
      by_cases hw : 8 * i + j < 4096
      · simp [h8, hb, hw]
      · simp [BitVec.getLsbD_of_ge w (8 * i + j) (by omega), hb]

theorem extractByte_patchRow (bs : List Byte) {at_ : Nat} (h : at_ + bs.length ≤ 512) (w : BitVec 4096) (i : Nat) :
    (patchRow w at_ bs).extractLsb' (8 * i) 8
      = if at_ ≤ i ∧ i < at_ + bs.length then bs.getD (i - at_) 0 else w.extractLsb' (8 * i) 8 := by
  suffices H : ∀ (bs : List Byte) (n : Nat) (w : BitVec 4096), at_ + n + bs.length ≤ 512 →
      ((bs.zipIdx n).foldl (fun (w : BitVec 4096) (b : Byte × Nat) =>
        let k := 8 * (at_ + b.2)
        let mask : BitVec 4096 := (0xFF : BitVec 4096) <<< k
        let v : BitVec 4096 := (b.1.setWidth 4096) <<< k
        (w &&& ~~~mask) ||| v) w).extractLsb' (8 * i) 8
      = if at_ + n ≤ i ∧ i < at_ + n + bs.length then bs.getD (i - (at_ + n)) 0 else w.extractLsb' (8 * i) 8 from
    H bs 0 w h
  intro bs
  induction bs with
  | nil => intro n w _; simp [show ¬ (at_ + n ≤ i ∧ i < at_ + n) by omega]
  | cons b bs ih =>
    intro n w hn
    rw [List.length_cons] at hn
    rw [List.zipIdx_cons, List.foldl_cons, ih (n + 1) _ (by omega)]
    dsimp only
    rw [extractByte_put w b (k := at_ + n) (by omega) i, List.length_cons]
    by_cases hi : i = at_ + n
    · subst hi
      rw [if_neg (by omega), if_pos rfl, if_pos (by omega), Nat.sub_self]
      rfl
    · rw [if_neg hi]
      by_cases hr : at_ + (n + 1) ≤ i ∧ i < at_ + (n + 1) + bs.length
      · rw [if_pos hr, if_pos (by omega), show i - (at_ + n) = i - (at_ + (n + 1)) + 1 by omega, List.getD_cons_succ]
      · rw [if_neg hr, if_neg (by omega)]

/-- The bytes put in a row are read back from where they were put. -/
theorem bytesOf_patchRow (bs : List Byte) {at_ : Nat} (h : at_ + bs.length ≤ 512) (w : BitVec 4096) :
    ((bytesOf (patchRow w at_ bs) 512).drop at_).take bs.length = bs := by
  refine List.ext_getElem (by simp [bytesOf]; omega) fun i h₁ h₂ => ?_
  simp only [bytesOf, List.getElem_take, List.getElem_drop, List.getElem_map, List.getElem_range]
  rw [extractByte_patchRow bs h, if_pos (by omega), show at_ + i - at_ = i by omega, List.getD_eq_getElem _ _ h₂]

/-! ### Where flits go (R214, R216) -/

/-- The slot tables and the fill circuits are the same. -/
structure Dev.SamePaths (d d' : Dev) : Prop where
  slots : ∀ c, (d'.cluster c).slots = (d.cluster c).slots
  fill : ∀ c, (d'.cluster c).fill = (d.cluster c).fill
  base : d'.array.baseSlots = d.array.baseSlots

section
variable {d d' : Dev} (h : Dev.SamePaths d d')
include h

theorem Dev.SamePaths.slotEntry (n : MeshNode) (slot : Nat) : d'.slotEntry n slot = d.slotEntry n slot := by
  have hf : ∀ i, d'.fillWord n i = d.fillWord n i := fun i => by
    unfold Dev.fillWord
    rw [funext fun c => h.fill c]
  unfold Dev.slotEntry
  cases n with
  | router c => simp only [h.slots, hf]
  | segment s => simp only [h.base, hf]

theorem Dev.SamePaths.forward (fuel : Nat) (n : MeshNode) (src t : Nat) : d'.forward fuel n src t = d.forward fuel n src t := by
  induction fuel generalizing n src t with
  | zero => rfl
  | succ fuel ih => simp only [Dev.forward, h.slotEntry, ih]

theorem Dev.SamePaths.reachesFrom (n : MeshNode) (src t : Nat) : d'.reachesFrom n src t = d.reachesFrom n src t := by
  rw [Dev.reachesFrom, Dev.reachesFrom, h.forward]

theorem Dev.SamePaths.reaches (c t : Nat) : d'.reaches c t = d.reaches c t := h.reachesFrom _ _ _

end

/-! ### The slots that a transfer takes (R212, R215) -/

/-- The slots of a transfer of `n` flits are taken, and its flits counted where the first planned slot is missed. -/
def Dev.slotsTaken (d : Dev) (c planned : Nat) (slots : List Nat) (n : Nat) : Dev :=
  let d₁ := if c < 512 ∧ d.missesSlot c planned slots = true then d.countC c CC.meshSlotMiss n else d
  if n = 0 then d₁ else d₁.takeSlots c slots (d.slotIndex c planned slots + n)

/-- The first slot of a circuit that a transfer of `n` flits leaves, where it has any. -/
theorem Dev.circuitNext_takeSlots (d : Dev) (c : Nat) (slots : List Nat) (i : Nat) :
    (d.takeSlots c slots i).circuitNext c slots = slotCycle slots (i - 1) + 1 := by
  simp [Dev.circuitNext, Dev.takeSlots]

/-- What taking the slots of a transfer of `n` flits does: the circuit's turn goes on, and the flits of a missed slot are counted. -/
structure Dev.TakesSlots (c planned : Nat) (slots : List Nat) (n : Nat) (d d' : Dev) : Prop where
  cluster : ∀ x, d'.cluster x = d.cluster x
  baseIn : d'.array.baseIn = d.array.baseIn
  baseSlots : d'.array.baseSlots = d.array.baseSlots
  only : d.only d' [.array, .obs]
  counter : ∀ m, d'.counter m = d.counter m
  missed : d'.counterC c CC.meshSlotMiss = d.counterC c CC.meshSlotMiss
    + BitVec.ofNat 64 (if c < 512 ∧ d.missesSlot c planned slots = true then n else 0)
  next : n ≠ 0 → d'.circuitNext c slots = slotCycle slots (d.slotIndex c planned slots + n - 1) + 1

section
variable {d d' : Dev} {c planned n : Nat} {slots : List Nat}

theorem Dev.TakesSlots.paths (h : Dev.TakesSlots c planned slots n d d') : Dev.SamePaths d d' :=
  ⟨fun x => by rw [h.cluster], fun x => by rw [h.cluster], h.baseSlots⟩

/-- The buffers of the base switch hold what they held. -/
theorem Dev.TakesSlots.bufferBytes (h : Dev.TakesSlots c planned slots n d d') (s kind x : Nat) (vc : BitVec 2) (p : MeshPiece) :
    d'.bufferBytes s kind x vc p = d.bufferBytes s kind x vc p := by
  have hp : d'.part = d.part := h.only .part (by simp)
  have hs : d'.serve = d.serve := h.only .serve (by simp)
  have hl : d'.link = d.link := h.only .link (by simp)
  have ho : d'.clusterOwner = d.clusterOwner := funext fun x => by
    unfold Dev.clusterOwner
    rw [hp]
  have hj : d'.job = d.job := funext fun x => by rw [Dev.job, Dev.job, hs]
  unfold Dev.bufferBytes Dev.ringBytes
  rw [h.baseIn, hl, ho, hj]

variable (d c planned)

theorem Dev.takesSlots (slots : List Nat) (n : Nat) : Dev.TakesSlots c planned slots n d (d.slotsTaken c planned slots n) := by
  have hobs : ∀ d₁ : Dev, d.only d₁ [.obs] → (∀ m, d₁.counter m = d.counter m) → d₁.counterC c CC.meshSlotMiss = d.counterC c CC.meshSlotMiss
      + BitVec.ofNat 64 (if c < 512 ∧ d.missesSlot c planned slots = true then n else 0) →
      Dev.TakesSlots c planned slots n d (if n = 0 then d₁ else d₁.takeSlots c slots (d.slotIndex c planned slots + n)) := by
    intro d₁ ho hc hm
    have ha : d₁.array = d.array := ho .array (by simp)
    split
    next hn => exact ⟨fun x => Dev.cluster_of_array ha x, by rw [ha], by rw [ha], Dev.only_mono ho (by simp), hc, hm, fun h => absurd hn h⟩
    next hn =>
      refine ⟨fun x => Dev.cluster_of_array ha x, by rw [← ha]; rfl, by rw [← ha]; rfl, Dev.only_then ho (Dev.only_array _ _) (by simp)
        (by simp), hc, hm, fun _ => Dev.circuitNext_takeSlots _ _ _ _⟩
  unfold Dev.slotsTaken
  extract_lets d₁
  by_cases hm : c < 512 ∧ d.missesSlot c planned slots = true
  · rw [show d₁ = d.countC c CC.meshSlotMiss n from if_pos hm]
    exact hobs _ (Dev.countC_only _ _ _ _) (fun _ => rfl) (by rw [Dev.counterC_countC, if_pos rfl, if_pos hm])
  · rw [show d₁ = d from if_neg hm]
    exact hobs _ (d.only_refl _) (fun _ => rfl) (by rw [if_neg hm]; exact (BitVec.add_zero _).symm)

end

/-! ### What a transfer carries -/

/-- What a transfer of cluster `c` carries, from the circuit's slot `i` on. -/
def Dev.carry (d : Dev) (c : Nat) (slots : List Nat) (i : Nat) : MeshLoad → Dev
  | .rows ps =>
    let d := d.forAll (ps.map MeshPiece.row).dedup fun d r => d.useRow c r
    let ends := (ps.zipIdx.flatMap fun p => (d.reaches c (slotCycle slots (i + p.2))).map fun x => (x.1, p.1.dstRow)).dedup
    let d := d.forAll ps.zipIdx fun d p => d.sendPiece c (slotCycle slots (i + p.2)) p.1
    d.forAll ends fun d x => d.useRow x.1 x.2
  | .buffer kind vc ps => d.forAll ps.zipIdx fun d p => d.sendBuffered (c - 512) kind vc (slotCycle slots (i + p.2)) p.1
  | .lanes first count base => d.sendBlocks c base i slots ((List.range count).map (first + ·))

theorem exec_meshTransfer_eq (s : State) (c planned : Nat) (slots : List Nat) (n : Nat) (load : MeshLoad) :
    exec (.meshTransfer c planned slots n load) s = execMeshTransfer c planned slots n load s := rfl

theorem exec_meshTransfer_empty (s : State) (c planned n : Nat) (load : MeshLoad) : exec (.meshTransfer c planned [] n load) s = .next s := by
  rw [exec_meshTransfer_eq]
  exact State.on_eq rfl

theorem exec_meshTransfer (s : State) (c planned : Nat) {slots : List Nat} (hs : slots ≠ []) (n : Nat) (load : MeshLoad) :
    exec (.meshTransfer c planned slots n load) s = .next { s with dev :=
      (s.dev.slotsTaken c planned slots (n + s.dev.loadFlits c load)).carry c slots (s.dev.slotIndex c planned slots + n) load } := by
  have he : slots.isEmpty = false := by simpa using hs
  have hif : (if (slots.isEmpty || decide (c ≥ 512) || !s.dev.missesSlot c planned slots) = true then s.dev
      else s.dev.countC c CC.meshSlotMiss (n + s.dev.loadFlits c load))
      = if c < 512 ∧ s.dev.missesSlot c planned slots = true then s.dev.countC c CC.meshSlotMiss (n + s.dev.loadFlits c load) else s.dev := by
    by_cases hc : c < 512 <;> cases hm : s.dev.missesSlot c planned slots <;> simp [he, hc]
  rw [exec_meshTransfer_eq]
  refine State.on_eq ?_
  extract_lets N d₁ i d₂
  have hi : d₁.slotIndex c planned slots = s.dev.slotIndex c planned slots := by
    rw [show d₁ = _ from hif]
    split <;> rfl
  have h₂ : d₂ = s.dev.slotsTaken c planned slots N := by
    change (if N = 0 then d₁ else d₁.takeSlots c slots (d₁.slotIndex c planned slots + n - n + N)) = _
    rw [hi, Nat.add_sub_cancel, show d₁ = _ from hif]
    rfl
  rw [he, if_neg (by decide), h₂, show i = s.dev.slotIndex c planned slots + n from congrArg (· + n) hi]
  cases load <;> rfl

/-! ### Bytes that arrive in rows (R214) -/

/-- Bytes reach row `r` of cluster `x`, from byte `at_` on, complete in cycle `t`. -/
def Dev.landRow (d : Dev) (r at_ : Nat) (bs : List Byte) (x t : Nat) : Dev := (d.pokeSpad x r at_ bs).arrive x r t

/-- Row `r` of cluster `x` holds the bytes from byte `at_` on, and its arrival is noted, in cycle `t` or later. -/
def Dev.Arrived (d : Dev) (r at_ : Nat) (bs : List Byte) (x t : Nat) : Prop :=
  ((d.spadBytes x r).drop at_).take bs.length = bs ∧ ∃ u, t ≤ u ∧ (d.cluster x).arrivals.find? (fun e => e.1 == r) = some (r, u)

theorem Dev.Arrived.mem {d : Dev} {r at_ x t : Nat} {bs : List Byte} (h : d.Arrived r at_ bs x t) :
    ∃ u, t ≤ u ∧ (r, u) ∈ (d.cluster x).arrivals := by
  obtain ⟨-, u, hu, hf⟩ := h
  exact ⟨u, hu, List.mem_of_find?_eq_some hf⟩

section
variable (d : Dev) (r at_ : Nat) (bs : List Byte) (x t : Nat)

theorem Dev.spad_landRow (y q : Nat) : SMap.get (0 : BitVec 4096) ((d.landRow r at_ bs x t).cluster y).spad q
    = if y = x ∧ q = r then patchRow (SMap.get 0 (d.cluster x).spad r) at_ bs else SMap.get 0 (d.cluster y).spad q := by
  unfold Dev.landRow Dev.arrive Dev.pokeSpad
  by_cases hy : y = x
  · subst hy
    rw [Dev.cluster_updCluster_same, Dev.cluster_updCluster_same]
    refine (SMap.get_put _ _ _ _ _).trans ?_
    by_cases hq : q = r <;> simp [hq]
  · rw [Dev.cluster_updCluster_other _ _ hy, Dev.cluster_updCluster_other _ _ hy, if_neg (fun h => hy h.1)]

/-- The arrival of a row is noted with the latest cycle of its flits. -/
theorem Dev.find_arrive : ((d.arrive x r t).cluster x).arrivals.find? (fun e => e.1 == r)
    = some (r, max ((((d.cluster x).arrivals.find? fun e => e.1 == r).map Prod.snd).getD 0) t) := by
  unfold Dev.arrive
  rw [Dev.cluster_updCluster_same]
  have hn : ((d.cluster x).arrivals.filter fun e => e.1 != r).find? (fun e => e.1 == r) = none := by
    simp [List.find?_eq_none]
  simp [List.find?_append, hn]

theorem Dev.find_landRow : ((d.landRow r at_ bs x t).cluster x).arrivals.find? (fun e => e.1 == r)
    = some (r, max ((((d.cluster x).arrivals.find? fun e => e.1 == r).map Prod.snd).getD 0) t) := by
  unfold Dev.landRow Dev.pokeSpad
  rw [Dev.find_arrive, Dev.cluster_updCluster_same]

theorem Dev.arrived_landRow (h : at_ + bs.length ≤ 512) : (d.landRow r at_ bs x t).Arrived r at_ bs x t := by
  refine ⟨?_, _, Nat.le_max_right _ _, d.find_landRow r at_ bs x t⟩
  rw [Dev.spadBytes, Dev.spad_landRow, if_pos ⟨rfl, rfl⟩]
  exact bytesOf_patchRow bs h _

variable {d r at_ bs x t}

/-- The same bytes reaching the same row of any cluster leave what has arrived. -/
theorem Dev.Arrived.landRow (ha : at_ + bs.length ≤ 512) (h : d.Arrived r at_ bs x t) (y u : Nat) :
    (d.landRow r at_ bs y u).Arrived r at_ bs x t := by
  obtain ⟨hb, v, hv, hf⟩ := h
  by_cases hx : x = y
  · subst hx
    obtain ⟨hb', -⟩ := d.arrived_landRow r at_ bs x u ha
    refine ⟨hb', _, ?_, d.find_landRow r at_ bs x u⟩
    rw [hf]
    exact Nat.le_trans hv (Nat.le_max_left _ _)
  · have hc : (d.landRow r at_ bs y u).cluster x = d.cluster x := by
      unfold Dev.landRow Dev.arrive Dev.pokeSpad
      rw [Dev.cluster_updCluster_other _ _ hx, Dev.cluster_updCluster_other _ _ hx]
    exact ⟨by rw [Dev.spadBytes, hc]; exact hb, v, hv, by rw [hc]; exact hf⟩

theorem Dev.Arrived.useRow (h : d.Arrived r at_ bs x t) (y q : Nat) : (d.useRow y q).Arrived r at_ bs x t := by
  obtain ⟨hb, v, hv, hf⟩ := h
  obtain e | e := d.useRow_cases y q <;> rw [e]
  · exact ⟨hb, v, hv, hf⟩
  · by_cases hx : x = y
    · subst hx
      rw [Dev.Arrived, Dev.spadBytes, Dev.cluster_updCluster_same]
      exact ⟨hb, v, hv, hf⟩
    · rw [Dev.Arrived, Dev.spadBytes, Dev.cluster_updCluster_other _ _ hx]
      exact ⟨hb, v, hv, hf⟩

end

/-- Where rows `P` of clusters receive bytes: the others are as they were, and so are circuits, buffers and the counts of transfers. -/
structure Dev.Delivers (P : Nat → Nat → Prop) (d d' : Dev) : Prop where
  array : ∃ m, d'.array = { d.array with clusters := m }
  only : d.only d' [.array, .obs]
  counter : ∀ m, d'.counter m = d.counter m
  missed : ∀ e, d'.counterC e CC.meshSlotMiss = d.counterC e CC.meshSlotMiss
  spad : ∀ y q, ¬ P y q → SMap.get (0 : BitVec 4096) (d'.cluster y).spad q = SMap.get 0 (d.cluster y).spad q

section
variable {P : Nat → Nat → Prop} {d d₁ d₂ : Dev}

theorem Dev.Delivers.refl : Dev.Delivers P d d := ⟨⟨_, rfl⟩, d.only_refl _, fun _ => rfl, fun _ => rfl, fun _ _ _ => rfl⟩

theorem Dev.Delivers.trans (h₁ : Dev.Delivers P d d₁) (h₂ : Dev.Delivers P d₁ d₂) : Dev.Delivers P d d₂ where
  array := by
    obtain ⟨m, e⟩ := h₂.array
    obtain ⟨_, e₁⟩ := h₁.array
    exact ⟨m, e.trans (by rw [e₁])⟩
  only := Dev.only_trans h₁.only h₂.only
  counter m := (h₂.counter m).trans (h₁.counter m)
  missed e := (h₂.missed e).trans (h₁.missed e)
  spad y q hq := (h₂.spad y q hq).trans (h₁.spad y q hq)

theorem Dev.Delivers.circuitNext (h : Dev.Delivers P d d₁) (c : Nat) (slots : List Nat) : d₁.circuitNext c slots = d.circuitNext c slots := by
  obtain ⟨m, e⟩ := h.array
  rw [Dev.circuitNext, Dev.circuitNext, e]

theorem Dev.Delivers.forAll {α : Type} {f : Dev → α → Dev} {xs : List α} (hf : ∀ d, ∀ a ∈ xs, Dev.Delivers P d (f d a)) (d : Dev) :
    Dev.Delivers P d (d.forAll xs f) := by
  induction xs generalizing d with
  | nil => exact .refl
  | cons a xs ih => exact (hf d a List.mem_cons_self).trans (ih (fun d a h => hf d a (List.mem_cons_of_mem _ h)) (f d a))

theorem Dev.delivers_landRow (d : Dev) {r x : Nat} (h : P x r) (at_ : Nat) (bs : List Byte) (t : Nat) :
    Dev.Delivers P d (d.landRow r at_ bs x t) where
  array := ⟨_, rfl⟩
  only := Dev.only_then (Dev.updCluster_only d x _) (Dev.updCluster_only _ x _) (by simp) (by simp)
  counter _ := rfl
  missed _ := rfl
  spad y q hq := by
    rw [Dev.spad_landRow, if_neg]
    rintro ⟨rfl, rfl⟩
    exact hq h

theorem Dev.delivers_useRow (d : Dev) (x r : Nat) : Dev.Delivers P d (d.useRow x r) := by
  obtain e | e := d.useRow_cases x r <;> rw [e]
  · exact .refl
  · have hm : ∀ e, (d.countC x CC.spadBankExtra).counterC e CC.meshSlotMiss = d.counterC e CC.meshSlotMiss := fun e => by
      rw [Dev.counterC_countC, if_neg]
      simp only [CC.spadBankExtra, CC.meshSlotMiss]
      omega
    refine ⟨⟨_, rfl⟩, Dev.only_then (Dev.countC_only d x _ _) (Dev.updCluster_only _ x _) (by simp) (by simp), fun _ => rfl, hm,
      fun y q _ => ?_⟩
    by_cases hy : y = x
    · subst hy
      rw [Dev.cluster_updCluster_same]
      rfl
    · rw [Dev.cluster_updCluster_other _ _ hy]
      rfl

theorem Dev.Arrived.forAll_landRow {r at_ x t : Nat} {bs : List Byte} (ha : at_ + bs.length ≤ 512) (xs : List (Nat × Nat))
    (h : d.Arrived r at_ bs x t) : (d.forAll xs fun d y => d.landRow r at_ bs y.1 y.2).Arrived r at_ bs x t := by
  induction xs generalizing d with
  | nil => exact h
  | cons y ys ih => exact ih (h.landRow ha y.1 y.2)

theorem Dev.Arrived.forAll_useRow {r at_ x t : Nat} {bs : List Byte} (h : d.Arrived r at_ bs x t) (xs : List (Nat × Nat)) :
    (d.forAll xs fun d y => d.useRow y.1 y.2).Arrived r at_ bs x t := by
  induction xs generalizing d with
  | nil => exact h
  | cons y ys ih => exact ih (h.useRow y.1 y.2)

/-- Bytes delivered to several receivers reach each of them. -/
theorem Dev.arrived_forAll_landRow {r at_ : Nat} {bs : List Byte} (ha : at_ + bs.length ≤ 512) {xs : List (Nat × Nat)} {x t : Nat}
    (h : (x, t) ∈ xs) (d : Dev) : (d.forAll xs fun d x => d.landRow r at_ bs x.1 x.2).Arrived r at_ bs x t := by
  induction xs generalizing d with
  | nil => cases h
  | cons a xs ih =>
    obtain rfl | h := List.mem_cons.mp h
    · exact (d.arrived_landRow r at_ bs x t ha).forAll_landRow ha xs
    · exact ih h (d.landRow r at_ bs a.1 a.2)

end

/-! ### Rows and lanes that a transfer carries (R92, R214, R217) -/

/-- The bytes that a piece of a row carries. -/
def Dev.pieceBytes (d : Dev) (c : Nat) (p : MeshPiece) : List Byte := ((d.spadBytes c p.row).drop p.at_).take (min 64 p.len)

theorem Dev.length_pieceBytes (d : Dev) (c : Nat) {p : MeshPiece} (h : p.at_ + min 64 p.len ≤ 512) :
    (d.pieceBytes c p).length = min 64 p.len := by
  simp [Dev.pieceBytes, Dev.spadBytes, bytesOf]
  omega

/-- The cells of the scratchpads that a flit of cluster `c` reaches in cycle `t`, in row `r`. -/
def Dev.flitRows (d : Dev) (c t r : Nat) (y q : Nat) : Prop := q = r ∧ ∃ u, (y, u) ∈ d.reaches c t

theorem Dev.samePaths_useRow (d : Dev) (x r : Nat) : Dev.SamePaths d (d.useRow x r) := by
  obtain e | e := d.useRow_cases x r <;> rw [e]
  · exact ⟨fun _ => rfl, fun _ => rfl, rfl⟩
  · have hc : ∀ {β : Type} (g : Cluster → β) (_ : ∀ x s, g { x with sequencer := s } = g x) (y : Nat),
        g (((d.countC x CC.spadBankExtra).updCluster x fun x =>
          { x with sequencer := { x.sequencer with shift := x.sequencer.shift + 1 } }).cluster y) = g (d.cluster y) := fun g hg y => by
      by_cases hy : y = x
      · subst hy
        rw [Dev.cluster_updCluster_same, hg]; rfl
      · rw [Dev.cluster_updCluster_other _ _ hy]; rfl
    exact ⟨hc Cluster.slots fun _ _ => rfl, hc Cluster.fill fun _ _ => rfl, rfl⟩

/-- A piece of a row reaches every receiver, and no other row changes. -/
theorem Dev.carry_row (d : Dev) (c : Nat) (slots : List Nat) (i : Nat) {p : MeshPiece} (hd : p.dstAt + min 64 p.len ≤ 512)
    (ha : p.at_ + min 64 p.len ≤ 512) :
    Dev.Delivers (d.flitRows c (slotCycle slots i) p.dstRow) d (d.carry c slots i (.rows [p]))
      ∧ ∀ x t, (x, t) ∈ d.reaches c (slotCycle slots i) → (d.carry c slots i (.rows [p])).Arrived p.dstRow p.dstAt (d.pieceBytes c p) x t := by
  let d₁ := d.useRow c p.row
  let rs := d₁.reaches c (slotCycle slots i)
  let bs := d₁.pieceBytes c p
  let d₂ := d₁.forAll rs fun d x => d.landRow p.dstRow p.dstAt bs x.1 x.2
  have hr : rs = d.reaches c (slotCycle slots i) := (d.samePaths_useRow c p.row).reaches c _
  have hb : bs = d.pieceBytes c p := congrArg (fun bs => (bs.drop p.at_).take (min 64 p.len)) (d.spadBytes_useRow c p.row p.row)
  have hl : p.dstAt + bs.length ≤ 512 := by rw [hb, d.length_pieceBytes c ha]; exact hd
  obtain ⟨ends, he⟩ : ∃ ends : List (Nat × Nat), d.carry c slots i (.rows [p]) = d₂.forAll ends fun d x => d.useRow x.1 x.2 := ⟨_, rfl⟩
  rw [he]
  refine ⟨((d.delivers_useRow _ _).trans (.forAll (fun d x hx => ?_) _)).trans (.forAll (fun d x _ => d.delivers_useRow _ _) _), fun x t hx => ?_⟩
  · exact d.delivers_landRow ⟨rfl, x.2, hr ▸ hx⟩ _ _ _
  · rw [← hb]
    exact (Dev.arrived_forAll_landRow hl (hr ▸ hx) d₁).forAll_useRow ends

/-- Keys that take the default read as the default. -/
theorem SMap.get_foldl_put_default {α β : Type} [DecidableEq α] (z : α) (g : β → Nat) (xs : List β) (m : SMap α) (k : Nat) :
    SMap.get z (xs.foldl (fun m i => SMap.put z m (g i) z) m) k = if ∃ i ∈ xs, g i = k then z else SMap.get z m k := by
  induction xs generalizing m with
  | nil => simp
  | cons x xs ih =>
    rw [List.foldl_cons, ih, SMap.get_put]
    by_cases h : ∃ i ∈ xs, g i = k
    · obtain ⟨i, hi, hk⟩ := h
      rw [if_pos ⟨i, hi, hk⟩, if_pos ⟨i, List.mem_cons_of_mem _ hi, hk⟩]
    · by_cases hk : k = g x
      · rw [if_neg h, if_pos hk, if_pos ⟨x, List.mem_cons_self, hk.symm⟩]
      · rw [if_neg h, if_neg hk, if_neg]
        rintro ⟨i, hi, e⟩
        obtain rfl | hi := List.mem_cons.mp hi
        · exact hk e.symm
        · exact h ⟨i, hi, e⟩

theorem Dev.accLane_setAccLane (d : Dev) (c n : Nat) (l : Lane) (m : Nat) :
    (d.setAccLane c n l).accLane c m = if m = n then l else d.accLane c m := by
  have h : ((d.updCluster c fun x => { x with lanes := SMap.put Lane.fresh x.lanes n l }).accLane c m) = if m = n then l else d.accLane c m := by
    rw [Dev.accLane, Dev.cluster_updCluster_same]
    exact SMap.get_put _ _ _ _ _
  unfold Dev.setAccLane
  extract_lets old d₁
  split
  · exact h
  · exact h

theorem Dev.addsLanes_mergeLanes (d : Dev) (c base : Nat) (ws : List (U64 × U64)) : Dev.AddsLanes c d (d.mergeLanes c base ws) :=
  .forAll (fun d _ => d.addsLanes_setAccLane c _ _) _ _

theorem Dev.accLane_mergeLanes (d : Dev) (x base : Nat) (ws : List (U64 × U64)) (k : Nat) :
    (d.mergeLanes x base ws).accLane x (32 * base + k) = match ws[k]? with
      | some w => (d.accLane x (32 * base + k)).merge (Lane.ofWords w.1 w.2)
      | none => d.accLane x (32 * base + k) := by
  suffices H : ∀ (ws : List (U64 × U64)) (n : Nat) (d : Dev), (d.forAll (ws.zipIdx n) fun d w =>
      d.setAccLane x (32 * base + w.2) ((d.accLane x (32 * base + w.2)).merge (Lane.ofWords w.1.1 w.1.2))).accLane x (32 * base + k)
      = match (if n ≤ k then ws[k - n]? else none) with
        | some w => (d.accLane x (32 * base + k)).merge (Lane.ofWords w.1 w.2)
        | none => d.accLane x (32 * base + k) from H ws 0 d
  intro ws
  induction ws with
  | nil => intro n d; by_cases h : n ≤ k <;> simp [h, Dev.forAll]
  | cons w ws ih =>
    intro n d
    refine (ih (n + 1) (d.setAccLane x (32 * base + n) ((d.accLane x (32 * base + n)).merge (Lane.ofWords w.1 w.2)))).trans ?_
    rw [Dev.accLane_setAccLane]
    by_cases hk : k = n
    · subst hk
      rw [if_neg (by omega), if_pos rfl, if_pos (Nat.le_refl k), Nat.sub_self, List.getElem?_cons_zero]
    · rw [if_neg (show ¬ 32 * base + k = 32 * base + n by omega)]
      by_cases hn : n + 1 ≤ k
      · rw [if_pos hn, if_pos (show n ≤ k by omega), show k - n = k - (n + 1) + 1 by omega, List.getElem?_cons_succ]
      · rw [if_neg hn, if_neg (show ¬ n ≤ k by omega)]

/-- An output block that has left cluster `c`: its lanes are empty. -/
def Dev.blockLeft (d : Dev) (c b : Nat) : Dev :=
  d.updCluster c fun x => { x with lanes := (List.range 32).foldl (fun m i => SMap.put Lane.fresh m (32 * b + i) Lane.fresh) x.lanes }

theorem Dev.addsLanes_blockLeft (d : Dev) (c b : Nat) : Dev.AddsLanes c d (d.blockLeft c b) := d.addsLanes_updCluster c fun _ => ⟨_, rfl⟩

theorem Dev.accLane_blockLeft (d : Dev) (c b n : Nat) :
    (d.blockLeft c b).accLane c n = if 32 * b ≤ n ∧ n < 32 * b + 32 then Lane.fresh else d.accLane c n := by
  rw [Dev.accLane, Dev.blockLeft, Dev.cluster_updCluster_same]
  dsimp only
  rw [SMap.get_foldl_put_default Lane.fresh fun i => 32 * b + i]
  refine if_congr ⟨?_, fun h => ⟨n - 32 * b, List.mem_range.mpr (by omega), by omega⟩⟩ rfl rfl
  rintro ⟨i, hi, e⟩
  have := List.mem_range.mp hi
  omega

theorem Dev.accLane_arrive (d : Dev) (c key t x n : Nat) : (d.arrive c key t).accLane x n = d.accLane x n := by
  unfold Dev.accLane Dev.arrive
  by_cases hx : x = c
  · rw [hx, Dev.cluster_updCluster_same]
  · rw [Dev.cluster_updCluster_other _ _ hx]

theorem Dev.blockWords_get (d : Dev) (c b : Nat) {k : Nat} (hk : k < 32) :
    (d.blockWords c b)[k]? = some ((d.accLane c (32 * b + k)).word, (d.accLane c (32 * b + k)).extWord) := by
  simp [Dev.blockWords, hk]

/-- A block that one other cluster receives: what its lanes hold merges there. -/
theorem Dev.sendBlock_one {d : Dev} {c b base t x u : Nat} (hr : d.reaches c t = [(x, u)]) (hx : x ≠ c) :
    d.only (d.sendBlock c b base t) [.array, .obs] ∧ ∀ k < 32, (d.sendBlock c b base t).accLane c (32 * b + k) = Lane.fresh
      ∧ (d.sendBlock c b base t).accLane x (32 * base + k) = (d.accLane x (32 * base + k)).merge
        (Lane.ofWords (d.accLane c (32 * b + k)).word (d.accLane c (32 * b + k)).extWord) := by
  have hl := d.addsLanes_blockLeft c b
  have hp : Dev.SamePaths d (d.blockLeft c b) := ⟨hl.field Cluster.slots fun _ _ => rfl, hl.field Cluster.fill fun _ _ => rfl, rfl⟩
  have hm := (d.blockLeft c b).addsLanes_mergeLanes x base (d.blockWords c b)
  have he : d.sendBlock c b base t = ((d.blockLeft c b).mergeLanes x base (d.blockWords c b)).arrive x (512 + base) u := by
    change (d.blockLeft c b).forAll ((d.blockLeft c b).reaches c t) _ = _
    rw [hp.reaches, hr]
    rfl
  rw [he]
  refine ⟨Dev.only_then (Dev.only_trans hl.only hm.only) (Dev.updCluster_only _ _ _) (by simp) (by simp), fun k hk => ⟨?_, ?_⟩⟩
  · rw [Dev.accLane_arrive, Dev.accLane, hm.others c hx.symm]
    exact (d.accLane_blockLeft c b _).trans (if_pos (by omega))
  · rw [Dev.accLane_arrive, Dev.accLane_mergeLanes, Dev.blockWords_get _ _ _ hk]
    simp only [Dev.accLane, hl.others x hx]

/-! ### Buffers of the base switch (R217, R239) -/

theorem Dev.sendBuffered_empty {d : Dev} {s kind t : Nat} {vc : BitVec 2} {p : MeshPiece}
    (h : ∀ e ∈ d.reachesFrom (.segment s) (4 + kind) t, d.bufferBytes s kind e.1 vc p = []) :
    d.sendBuffered s kind vc t p = d.count DC.meshEmptySlot := by
  unfold Dev.sendBuffered
  extract_lets ends
  refine if_pos (List.all_eq_true.mpr fun e he => ?_)
  obtain ⟨x, hx, rfl⟩ := List.mem_map.mp he
  exact List.isEmpty_iff.mpr (h x hx)

/-- Outside the I/O ring's buffer, a buffer no longer holds what it sent. -/
def Dev.takenFrom (d : Dev) (b : BaseIn) : Dev :=
  { d with array := { d.array with baseIn := d.array.baseIn.filter fun x =>
      !(x.kind == b.kind && x.cluster == b.cluster && x.row == b.row && [(b.at_, b.bytes)].contains (x.at_, x.bytes)) } }

theorem Dev.not_mem_takenFrom (d : Dev) (b : BaseIn) : b ∉ (d.takenFrom b).array.baseIn := by
  intro h
  simpa using (List.mem_filter.mp h).2

theorem Dev.sendBuffered_one {d : Dev} {s kind t x u at_ : Nat} {vc : BitVec 2} {p : MeshPiece} {bs : List Byte}
    (h : d.reachesFrom (.segment s) (4 + kind) t = [(x, u)]) (hb : d.bufferBytes s kind x vc p = [(at_, bs)]) :
    d.sendBuffered s kind vc t p = if kind = 2 then d.landRow p.dstRow at_ bs x u
      else (d.landRow p.dstRow at_ bs x u).takenFrom { kind := kind, cluster := x, row := p.dstRow, at_ := at_, bytes := bs } := by
  have he : ((d.reachesFrom (.segment s) (4 + kind) t).map fun x => (x, d.bufferBytes s kind x.1 vc p)) = [((x, u), [(at_, bs)])] := by
    rw [h, List.map_singleton, hb]
  unfold Dev.sendBuffered
  rw [he]
  simp only [List.all_cons, List.all_nil, List.isEmpty_cons, Bool.and_true, Bool.false_eq_true, if_false, List.filter_cons, Bool.not_false,
    if_true, List.filter_nil, List.any_cons, List.any_nil, Bool.or_false]
  rfl

/-- A piece that a buffer holds for one receiver reaches it. -/
theorem Dev.carry_buffer {d : Dev} {c kind i x u at_ : Nat} {vc : BitVec 2} {p : MeshPiece} {bs : List Byte} (slots : List Nat)
    (h : d.reachesFrom (.segment (c - 512)) (4 + kind) (slotCycle slots i) = [(x, u)])
    (hb : d.bufferBytes (c - 512) kind x vc p = [(at_, bs)]) (ha : at_ + bs.length ≤ 512) :
    let d' := d.carry c slots i (.buffer kind vc [p])
    d.only d' [.array, .obs] ∧ d'.Arrived p.dstRow at_ bs x u ∧ (∀ m, d'.counter m = d.counter m)
      ∧ (∀ y q, y ≠ x ∨ q ≠ p.dstRow → SMap.get (0 : BitVec 4096) (d'.cluster y).spad q = SMap.get 0 (d.cluster y).spad q)
      ∧ (kind ≠ 2 → { kind := kind, cluster := x, row := p.dstRow, at_ := at_, bytes := bs } ∉ d'.array.baseIn) := by
  have he : d.carry c slots i (.buffer kind vc [p]) = _ := Dev.sendBuffered_one h hb
  have hk := d.delivers_landRow (P := fun y q => y = x ∧ q = p.dstRow) ⟨rfl, rfl⟩ at_ bs u
  have har := d.arrived_landRow p.dstRow at_ bs x u ha
  have hs : ∀ y q, y ≠ x ∨ q ≠ p.dstRow →
      SMap.get (0 : BitVec 4096) ((d.landRow p.dstRow at_ bs x u).cluster y).spad q = SMap.get 0 (d.cluster y).spad q := fun y q hy =>
    hk.spad y q fun e => hy.elim (fun hn => hn e.1) fun hn => hn e.2
  rw [he]
  by_cases h2 : kind = 2
  · rw [if_pos h2]
    exact ⟨hk.only, har, hk.counter, hs, fun hn => absurd h2 hn⟩
  · rw [if_neg h2]
    exact ⟨Dev.only_then hk.only (Dev.only_array _ _) (by simp) (by simp), har, hk.counter, hs, fun _ => Dev.not_mem_takenFrom _ _⟩

/-- Settles O39: a transfer takes its slots, and each kind of load then reaches what the slot tables forward it to. -/
theorem meshTransferMovesRowsAndLanes : Obligations.MeshTransferMovesRowsAndLanes := by
  unfold Obligations.MeshTransferMovesRowsAndLanes
  intro s c planned slots i missed
  refine ⟨fun n load hs => hs ▸ exec_meshTransfer_empty s c planned n load, fun n hs => ?_, fun n p hs hd ha => ?_,
    ?_, fun n kind vc p hs => ⟨fun hn => ?_, fun x t at_ bs he hh hl => ?_⟩⟩
  · have h := s.dev.takesSlots c planned slots n
    exact Runs.of_next (exec_meshTransfer s c planned hs n (.rows [])) ⟨h.only, h.missed, h.next, h.cluster⟩
  · have h := s.dev.takesSlots c planned slots (n + 1)
    obtain ⟨hk, hr⟩ := (s.dev.slotsTaken c planned slots (n + 1)).carry_row c slots (i + n) hd ha
    have hb : (s.dev.slotsTaken c planned slots (n + 1)).pieceBytes c p = s.dev.pieceBytes c p := by
      rw [Dev.pieceBytes, Dev.spadBytes, h.cluster]; rfl
    have hp := h.paths.reaches c (slotCycle slots (i + n))
    refine Runs.of_next (exec_meshTransfer s c planned hs n (.rows [p])) ⟨Dev.only_trans h.only hk.only, (hk.missed c).trans h.missed, ?_,
      fun x t hx => ?_, fun x r hn => ?_⟩
    · exact (hk.circuitNext c slots).trans (h.next (Nat.succ_ne_zero n))
    · have har := hr x t (by rw [hp]; exact hx)
      have hbs := har.1
      rw [hb, s.dev.length_pieceBytes c ha] at hbs
      exact ⟨hbs, har.mem⟩
    · refine Eq.trans ?_ (congrArg (fun x : Cluster => SMap.get (0 : BitVec 4096) x.spad r) (h.cluster x))
      refine hk.spad x r ?_
      rintro ⟨e, u, hu⟩
      exact hn.elim (fun hn => hn u (by rw [← hp]; exact hu)) fun hn => hn e
  · intro n first x base t hs hx ws hr
    have h := s.dev.takesSlots c planned slots (n + s.dev.loadFlits c (.lanes first 1 base))
    have hw : (s.dev.slotsTaken c planned slots (n + s.dev.loadFlits c (.lanes first 1 base))).blockWords c first = ws := by
      simp only [Dev.blockWords, Dev.accLane, h.cluster]; rfl
    obtain ⟨ho, hk⟩ := Dev.sendBlock_one (b := first) (base := base) ((h.paths.reaches c _).trans hr) hx
    have he : (s.dev.slotsTaken c planned slots (n + s.dev.loadFlits c (.lanes first 1 base))).carry c slots (i + n) (.lanes first 1 base)
        = (s.dev.slotsTaken c planned slots (n + s.dev.loadFlits c (.lanes first 1 base))).sendBlock c first base
          (slotCycle slots (i + n + blockFlits ws - 1)) := by
      rw [← hw]; rfl
    refine Runs.of_next (exec_meshTransfer s c planned hs n (.lanes first 1 base)) ?_
    rw [he]
    refine ⟨Dev.only_trans h.only ho, fun k hk' => ?_⟩
    have := hk k hk'
    simpa only [Dev.accLane, h.cluster] using this
  · have h := s.dev.takesSlots c planned slots (n + 1)
    have he : (s.dev.slotsTaken c planned slots (n + 1)).carry c slots (i + n) (.buffer kind vc [p])
        = (s.dev.slotsTaken c planned slots (n + 1)).count DC.meshEmptySlot := by
      refine Dev.sendBuffered_empty fun e he => ?_
      rw [h.paths.reachesFrom] at he
      exact (h.bufferBytes _ _ _ _ _).trans (hn e he)
    refine Runs.of_next (exec_meshTransfer s c planned hs n (.buffer kind vc [p])) ?_
    rw [show s.dev.loadFlits c (.buffer kind vc [p]) = 1 from rfl, he]
    refine ⟨Dev.only_then h.only (Dev.count_only _ _ _) (by simp) (by simp), ?_, h.baseIn, h.cluster⟩
    rw [Dev.counter_count, if_pos rfl, h.counter]
    rfl
  · have h := s.dev.takesSlots c planned slots (n + 1)
    obtain ⟨ho, har, hc, hsp, hq⟩ := Dev.carry_buffer slots (i := i + n) ((h.paths.reachesFrom _ _ _).trans he)
      ((h.bufferBytes _ _ _ _ _).trans hh) hl
    exact Runs.of_next (exec_meshTransfer s c planned hs n (.buffer kind vc [p])) ⟨Dev.only_trans h.only ho, har.1, har.mem,
      fun y r hy =>
        (hsp y r hy).trans (congrArg (fun x : Cluster => SMap.get (0 : BitVec 4096) x.spad r) (h.cluster y)), (hc _).trans (h.counter _), hq⟩

end Sys2Proof.Machine
end

section
/-! SUPPORT. Column patches, shadow samples and cache lines that are filled (R104, R131, R132, R140, R224, R225, R230). -/

namespace Sys2Proof.Machine

/-! ### Evaluations of a tile that are to be settled -/

/-- What tile `k` is to settle is `xs`, or nothing since the tile was stopped. -/
def Dev.SettlesOrStopped (k : Nat) (xs : List Settling) (d : Dev) : Prop := (d.tile k).settling = xs ∨ (d.tile k).settling = []

section
variable {k : Nat} {xs : List Settling} {d d' : Dev}

theorem Dev.SettlesOrStopped.of_eq (h : d.SettlesOrStopped k xs) (e : (d'.tile k).settling = (d.tile k).settling) :
    d'.SettlesOrStopped k xs := by
  rw [Dev.SettlesOrStopped, e]
  exact h

theorem Dev.SettlesOrStopped.of_keeps {γ : Type} {g : Cluster → γ} {bs : List Blk} (h : d.SettlesOrStopped k xs)
    (hk : Dev.Keeps Tile.settling g bs d d') : d'.SettlesOrStopped k xs := h.of_eq (hk.tile k)

theorem Tile.settling_newWindow (t : Tile) (n : Option Nat) : (t.newWindow n).settling = t.settling := by
  cases n <;> rfl

/-- A shadow sample that is asked for leaves what is to be settled. -/
theorem Dev.settling_shadowPass (d : Dev) (k : Nat) (ev : Eval) (p : Part) (patched : List (Nat × Int × Int)) (j : Nat) :
    ((d.shadowPass k ev p patched).tile j).settling = (d.tile j).settling := by
  unfold Dev.shadowPass
  extract_lets d₁ t i w x high low smp lt d₂
  have h₁ : (d₁.tile j).settling = (d.tile j).settling := by
    unfold d₁
    split
    · exact d.tile_updTile_field Tile.settling k (fun t => t.settling_newWindow _) j
    · rfl
  have h₂ : (d₂.tile j).settling = (d₁.tile j).settling := by
    unfold d₂
    split
    · refine ((Dev.keeps_lookup (g := Tile.settling) (h := fun _ => ()) (fun _ _ _ _ => rfl) _ _ _).tile j).trans ?_
      exact d₁.tile_updTile_field Tile.settling k (f := fun t => { t with samples := t.samples ++ [smp], shadowCol := (i + 1) % 512 })
        (fun _ => rfl) j
    · rfl
  split
  · exact h₁
  · refine Eq.trans (d₂.tile_updTile_field Tile.settling k (fun t => ?_) j) (h₂.trans h₁)
    dsimp only
    split
    · exact Tile.settling_newWindow _ _
    · rfl

theorem Dev.settling_driftTrigger (d : Dev) (k j : Nat) : ((d.driftTrigger k).tile j).settling = (d.tile j).settling :=
  (Dev.keeps_driftTrigger (g := Tile.settling) (h := fun _ => ()) (fun _ => rfl) (fun _ _ => rfl) d k).tile j

theorem Dev.SettlesOrStopped.suspectTile (h : d.SettlesOrStopped k xs) (event : BitVec 4) (origin : BitVec 3) (detail : U32) :
    (d.suspectTile k event origin detail).SettlesOrStopped k xs := by
  unfold Dev.suspectTile
  extract_lets t d₁ t' d₂ d₃ d₄ d₅
  have h₁ : d₁.SettlesOrStopped k xs := h.of_eq (by rw [show d₁.tile k = d.tile k from d.tile_logTile k event 0 origin detail k])
  have h₄ : (d₄.tile k).settling = [] := by
    change (d₂.tile k).settling = []
    unfold d₂
    rw [Dev.tile_setTile_same]
    rfl
  have h₅ : (d₅.tile k).settling = [] := by
    unfold d₅
    split
    · exact (congrArg Tile.settling (Dev.tile_of_array (Dev.mark_only _ _ .array (by simp)) k)).trans h₄
    · exact h₄
  split
  · exact h₁
  · exact h₁
  · exact h₁
  · refine .inr ?_
    split
    · rw [Dev.forAll_keeps (fun d => d.tile k) _ fun d v => d.tile_standIn _ _ v k]
      exact h₅
    · exact h₅

theorem Dev.tile_resetTile (d : Dev) (k : Nat) :
    ∃ f : Tile → Tile, (∀ t, (f t).settling = []) ∧ ∀ j, (d.resetTile k).tile j = (d.updTile k f).tile j :=
  ⟨fun t => { t.afterReset with state := .blank, progWait := true, ruling := t.ruling, recorded := t.recorded, spareFails := t.spareFails,
                                spareFor := t.spareFor, calibrating := t.calibrating }, fun _ => rfl, fun _ => rfl⟩

theorem Dev.settling_resetTile (d : Dev) (k j : Nat) (h : j ≠ k) : ((d.resetTile k).tile j).settling = (d.tile j).settling := by
  obtain ⟨f, -, e⟩ := d.tile_resetTile k
  rw [e, Dev.tile_updTile_other _ _ h]

theorem Dev.settling_resetTile_same (d : Dev) (k : Nat) : ((d.resetTile k).tile k).settling = [] := by
  obtain ⟨f, hf, e⟩ := d.tile_resetTile k
  rw [e, Dev.tile_updTile_same, hf]

theorem Dev.SettlesOrStopped.seekSpare (h : d.SettlesOrStopped k xs) (c l lost : Nat) : (d.seekSpare c l lost).SettlesOrStopped k xs := by
  unfold Dev.seekSpare
  split
  next e j _ =>
    by_cases hj : k = j
    · exact .inr (hj ▸ Dev.settling_resetTile_same _ _)
    · exact h.of_eq ((Dev.settling_resetTile _ _ _ hj).trans (congrArg Tile.settling (Dev.tile_updTile_other _ _ hj)))
  next =>
    refine h.of_eq ?_
    rw [Dev.tile_of_array (Dev.event_only _ _ .array (by simp)), Dev.tile_count, Dev.tile_logTile]

theorem Dev.SettlesOrStopped.failSpare (event : BitVec 4) (origin : BitVec 3) (detail : U32) :
    (d.failSpare k event origin detail).SettlesOrStopped k xs := by
  unfold Dev.failSpare
  extract_lets t c d₁ d₂ d₃ d₄ d₅
  split
  · refine .inr ?_
    rw [Dev.tile_updTile_same]
    exact Dev.settling_resetTile_same _ _
  · have h₅ : d₅.SettlesOrStopped k xs := by
      refine .inr ?_
      change (d₃.tile k).settling = []
      unfold d₃
      rw [Dev.tile_rehold, Dev.tile_updTile_same]
      rfl
    split
    · exact h₅.seekSpare _ _ _
    · exact h₅

theorem Dev.SettlesOrStopped.failTile (h : d.SettlesOrStopped k xs) (event : BitVec 4) (origin : BitVec 3) (detail : U32) :
    (d.failTile k event origin detail).SettlesOrStopped k xs := by
  unfold Dev.failTile
  extract_lets d₁
  have h₁ : d₁.SettlesOrStopped k xs := by
    unfold d₁
    split
    · exact h.suspectTile _ _ _
    · exact .failSpare _ _ _
  split
  · refine h.of_eq ?_
    rw [Dev.tile_logTile]
  · refine h₁.of_eq ?_
    rw [Dev.tile_refloor, Dev.tile_leaveSweep]

theorem Dev.SettlesOrStopped.order (h : d.SettlesOrStopped k xs) (ev : Eval) : (d.order k ev).SettlesOrStopped k xs :=
  h.of_eq (by rw [Dev.tile_order])

/-- A failed check orders an evaluation again, or stops the tile (R67, R124). -/
theorem Dev.SettlesOrStopped.checkFailed (h : d.SettlesOrStopped k xs) (ev : Eval) (fs : List ((Nat × Bool × Bool × Bool) × Int)) :
    (d.checkFailed k ev fs).SettlesOrStopped k xs := by
  have hc : ∀ n, (d.countC (k / 64) n).SettlesOrStopped k xs := fun n => h.of_eq (by rw [Dev.tile_countC])
  have hp : ∀ f e, (d.persist k ev f e).SettlesOrStopped k xs := fun f e => by
    unfold Dev.persist
    exact ((hc _).order ev).failTile _ _ _
  unfold Dev.checkFailed
  split
  · exact h
  · split
    · exact hp _ _
    · split
      · exact hp _ _
      · exact (hc _).order _

/-- Codes that pass are accumulated, and those that fail are ordered again or stop the tile: nothing else is settled. -/
theorem Dev.SettlesOrStopped.settle (h : d.SettlesOrStopped k xs) (ev : Eval) (parts : List PartValues) (patched : List (Nat × Int × Int)) :
    (d.settle k ev parts patched).SettlesOrStopped k xs := by
  unfold Dev.settle
  extract_lets t c lt res r q2 fails sum H L d₁ P d₂ d₃
  have h₁ : d₁.SettlesOrStopped k xs := by
    unfold d₁
    split
    · exact h
    · exact h.of_eq (by rw [Dev.tile_countC])
  have h₂ : d₂.SettlesOrStopped k xs := h₁.of_eq (congrArg Tile.settling ((d₁.addsLanes_addPartials c lt ev.vec P).tile k))
  have h₃ : d₃.SettlesOrStopped k xs := by
    unfold d₃
    split
    · split
      · exact h₂
      · exact h₂.of_eq (Dev.settling_shadowPass _ _ _ _ _ _)
    · exact h₂
  split
  · split
    · exact h₂
    · exact h₃.of_eq (Dev.settling_driftTrigger _ _ _)
  · exact h.checkFailed _ _

end

/-! ### COLUMN_PATCH_COMPLETE (R104, R230) -/

/-- The pulse sums of column `j` over the golden image, or over zeros where the partition may not read it. -/
def Dev.exactSums (d : Dev) (k : Nat) (a : List Int) (j : Nat) (high : Bool) : Int :=
  pulseSum high none a fun i => if d.imageOpen (k / 64) ((d.logicalOf k).getD 0) then d.golden k i j else 0

/-- Evaluation `st` with column `col` patched by its exact pulse sums. -/
def Dev.patched (d : Dev) (k col : Nat) (st : Settling) : Settling :=
  { st with patches := st.patches.erase col
            patched := (col, d.exactSums k st.ev.vec.a col true, d.exactSums k st.ev.vec.a col false) :: st.patched }

/-- Evaluation `st` of tile `k` goes on as `new`: with the last column it is settled. -/
def Dev.takePatch (d : Dev) (k : Nat) (st new : Settling) : Dev :=
  if new.patches.isEmpty then
    let d := d.updTile k fun t => { t with settling := t.settling.erase st }
    d.settle k st.ev [(st.part, new.values true, new.values false)] new.patched
  else d.updTile k fun t => { t with settling := t.settling.map fun y => if y = st then new else y }

/-- Raising peaks changes the peaks of one tile, where they are recorded at all. -/
theorem Dev.raisePeaks_keeps (d : Dev) (k : Nat) (v : EdgeVec) (n : Nat) (seen : Nat → Nat) :
    d.only (d.raisePeaks k v n seen) [.array] ∧ (∀ j, j ≠ k → (d.raisePeaks k v n seen).tile j = d.tile j)
      ∧ ((d.raisePeaks k v n seen).tile k).settling = (d.tile k).settling := by
  unfold Dev.raisePeaks
  extract_lets marked
  split
  · exact ⟨d.only_refl _, fun _ _ => rfl, rfl⟩
  · exact ⟨d.updTile_only _ _, fun j hj => d.tile_updTile_other _ hj, by rw [Dev.tile_updTile_same]⟩

theorem exec_columnPatchComplete_eq (s : State) (k col : Nat) : exec (.columnPatchComplete k col) s = execColumnPatchComplete k col s := rfl

/-- A column that was patched: the line has been used and the peaks raised; the evaluation is settled with its last column. -/
theorem exec_columnPatchComplete {s : State} {k col : Nat} {st : Settling}
    (h : (s.dev.tile k).settling.find? (fun x => x.patches.contains col) = some st) :
    ∃ d₁, s.dev.only d₁ [.array] ∧ (∀ j, j ≠ k → d₁.tile j = s.dev.tile j) ∧ (d₁.tile k).settling = (s.dev.tile k).settling ∧
      exec (.columnPatchComplete k col) s = .next { s with dev := d₁.takePatch k st (s.dev.patched k col st) } := by
  let d₀ := s.dev.useLine (k / 64) (.imageCol (64 * (k / 64) + (s.dev.logicalOf k).getD 0) col)
  let d₁ := d₀.raisePeaks k st.ev.vec 516 fun j => if j = col then
    max (s.dev.exactSums k st.ev.vec.a col true).natAbs (s.dev.exactSums k st.ev.vec.a col false).natAbs else 0
  have h₀ : s.dev.only d₀ [.array] := s.dev.updCluster_only _ _
  have ht : ∀ j, d₀.tile j = s.dev.tile j := fun _ => rfl
  have e : exec (.columnPatchComplete k col) s = .next { s with dev := d₁.takePatch k st (s.dev.patched k col st) } := by
    rw [exec_columnPatchComplete_eq]
    refine State.on_eq ?_
    simp only [h]
    rfl
  refine ⟨d₁, ?_⟩
  obtain ⟨ho, hj, hk⟩ := d₀.raisePeaks_keeps k st.ev.vec 516 fun j => if j = col then
    max (s.dev.exactSums k st.ev.vec.a col true).natAbs (s.dev.exactSums k st.ev.vec.a col false).natAbs else 0
  exact ⟨Dev.only_trans h₀ ho, fun j h => (hj j h).trans (ht j), hk.trans (congrArg Tile.settling (ht k)), e⟩

/-! ### SHADOW_SAMPLE (R131 to R133, R140) -/

/-- What a tile's sampling and state are. -/
def Tile.sampling (t : Tile) : List ShadowSample × TileState × Rat := (t.samples, t.state, t.qSq)

theorem Dev.log_clu (d : Dev) (kind event : BitVec 4) (ruling : BitVec 2) (origin : BitVec 3) (unit : Nat) (step : U48) (detail : U32) :
    (d.log kind event ruling origin unit step detail).obs.clu = d.obs.clu := by
  unfold Dev.log
  extract_lets l w next d₁
  change d₁.obs.clu = _
  unfold d₁
  split <;> rfl

theorem Dev.counterC_logTile (d : Dev) (k : Nat) (event : BitVec 4) (ruling : BitVec 2) (origin : BitVec 3) (detail : U32) (c n : Nat) :
    (d.logTile k event ruling origin detail).counterC c n = d.counterC c n := by
  unfold Dev.counterC Dev.logTile
  rw [Dev.log_clu]

/-- The same samples, states and Q², and the same counters of the clusters. -/
structure Dev.SamplesAs (d d' : Dev) : Prop where
  tile : ∀ j, (d'.tile j).sampling = (d.tile j).sampling
  counterC : ∀ c n, d'.counterC c n = d.counterC c n

theorem Dev.SamplesAs.trans {d d₁ d₂ : Dev} (h₁ : Dev.SamplesAs d d₁) (h₂ : Dev.SamplesAs d₁ d₂) : Dev.SamplesAs d d₂ :=
  ⟨fun j => (h₂.tile j).trans (h₁.tile j), fun c n => (h₂.counterC c n).trans (h₁.counterC c n)⟩

theorem Dev.samplesAs_of_keeps {γ : Type} {g : Cluster → γ} {d d' : Dev} (h : Dev.Keeps Tile.sampling g [.array] d d') : Dev.SamplesAs d d' :=
  ⟨h.tile, Dev.counterC_of_obs (h.only .obs (by simp))⟩

theorem Dev.samplesAs_count (d : Dev) (n m : Nat) : Dev.SamplesAs d (d.count n m) :=
  ⟨fun j => congrArg Tile.sampling (d.tile_count n m j), fun _ _ => rfl⟩

theorem Dev.samplesAs_newStatistics (d : Dev) (k : Nat) : Dev.SamplesAs d (d.newStatistics k) := by
  unfold Dev.newStatistics
  split
  · exact Dev.samplesAs_of_keeps ((d.keeps_updTile (g := Tile.sampling) (h := fun _ => ()) k (f := fun t => { t with calibrating := true })
      fun _ => rfl).trans (Dev.keeps_takeCal (fun _ _ => rfl) _ _))
  · exact ⟨fun _ => rfl, fun _ _ => rfl⟩

theorem Dev.samplesAs_qualityCheck (d : Dev) (k : Nat) : Dev.SamplesAs d (d.qualityCheck k) := by
  unfold Dev.qualityCheck
  extract_lets t above d₁
  have h₁ : Dev.SamplesAs d d₁ := by
    unfold d₁
    split
    · refine ⟨fun j => ?_, fun c n => ?_⟩
      · unfold Dev.tileDegraded
        rw [Dev.tile_count, Dev.tile_logTile]
        by_cases hj : j = k
        · rw [hj, Dev.tile_setTile_same]; rfl
        · rw [Dev.tile_setTile_other _ _ hj]
      · exact Dev.counterC_logTile (d.setTile k { t with degraded := true }) k 8 3 0 0 c n
    · exact ⟨fun _ => rfl, fun _ _ => rfl⟩
  split
  · have hc : Dev.SamplesAs d₁ (d₁.calibrateTiles [k] 4) := Dev.samplesAs_of_keeps
      (Dev.keeps_calibrateTiles (g := Tile.sampling) (h := fun _ => ()) (fun _ => rfl) (fun _ _ => rfl) d₁ [k] 4)
    exact (h₁.trans hc).trans (Dev.samplesAs_count _ _ _)
  · exact h₁

/-- The tile without its oldest sample. -/
def Tile.withSamples (t : Tile) (rest : List ShadowSample) : Tile := { t with samples := rest }

/-- The golden image of a tile is not the tile's samples. -/
theorem Dev.golden_withSamples (d : Dev) (j : Nat) (rest : List ShadowSample) (k r i : Nat) :
    (d.updTile j (·.withSamples rest)).golden k r i = d.golden k r i := by
  have hs : ((d.updTile j (·.withSamples rest)).tile k).spareFor = (d.tile k).spareFor :=
    d.tile_updTile_field Tile.spareFor j (f := (·.withSamples rest)) (fun _ => rfl) k
  unfold Dev.golden Dev.imageOf
  rw [hs]
  rfl

theorem Dev.exactSums_withSamples (d : Dev) (j : Nat) (rest : List ShadowSample) (k : Nat) (a : List Int) (i : Nat) (high : Bool) :
    (d.updTile j (·.withSamples rest)).exactSums k a i high = d.exactSums k a i high := by
  unfold Dev.exactSums
  simp only [Dev.golden_withSamples]
  rfl

/-- The residuals of a sample, high and low nibbles, with the exact values. -/
def Dev.residuals (d : Dev) (k : Nat) (x : ShadowSample) : List (Rat × Int) :=
  [((x.vHigh - d.exactSums k x.a x.col true) / (x.weight : Rat), d.exactSums k x.a x.col true),
   ((x.vLow - d.exactSums k x.a x.col false) / (x.weight : Rat), d.exactSums k x.a x.col false)]

/-- The tile takes the residuals of a sample of column `col` (R132). -/
def Tile.withResiduals (t : Tile) (col : Nat) (rs : List (Rat × Int)) : Tile :=
  { t with qSq := rs.foldl (fun q e => q + (e.1 * e.1 - q) / 64) t.qSq, residuals := t.residuals ++ rs.map (fun e => (col, e.1, e.2)) }

/-- A sample has ended: it is counted, and Q² moved. -/
def Dev.sampled (d : Dev) (k : Nat) (x : ShadowSample) (rest : List ShadowSample) : Dev :=
  ((((d.updTile k (·.withSamples rest)).useLine (k / 64) (.imageCol (64 * (k / 64) + (d.logicalOf k).getD 0) x.col)).countC
    (k / 64) CC.shadowSample).updTile k (·.withResiduals x.col (d.residuals k x)))

theorem exec_shadowSample_eq (s : State) (k : Nat) : exec (.shadowSample k) s = execShadowSample k s := rfl

section
variable {s : State} {k : Nat} {x : ShadowSample} {rest : List ShadowSample} (h : (s.dev.tile k).samples = x :: rest)
include h

/-- With sampling disabled the sample is dropped (R140). -/
theorem exec_shadowSample_disabled (hl : (s.dev.tile k).shadowLog = 0) :
    exec (.shadowSample k) s = .next { s with dev := s.dev.updTile k (·.withSamples rest) } := by
  have hl' : ((s.dev.updTile k (·.withSamples rest)).tile k).shadowLog = 0 := by rw [Dev.tile_updTile_same]; exact hl
  rw [exec_shadowSample_eq]
  refine State.on_eq ?_
  simp only [h]
  exact if_pos hl'

/-- The sample ends and moves Q²; what follows of it are calibrations and reports. -/
theorem exec_shadowSample (hl : (s.dev.tile k).shadowLog ≠ 0) :
    exec (.shadowSample k) s = .next { s with dev := ((s.dev.sampled k x rest).newStatistics k).qualityCheck k } := by
  have hl' : ((s.dev.updTile k (·.withSamples rest)).tile k).shadowLog ≠ 0 := by rw [Dev.tile_updTile_same]; exact hl
  rw [exec_shadowSample_eq]
  refine State.on_eq ?_
  split
  next e => rw [h] at e; cases e
  next x' rest' e =>
    obtain ⟨rfl, rfl⟩ := List.cons.inj (h.symm.trans e)
    extract_lets d₁ may exact rs lt d₂ d₃
    have h₁ : d₁ = s.dev.updTile k (·.withSamples rest) := rfl
    have hs : ∀ high, exact high = s.dev.exactSums k x.a x.col high := s.dev.exactSums_withSamples k rest k x.a x.col
    have hr : rs = s.dev.residuals k x := by
      change [((x.vHigh - exact true) / (x.weight : Rat), exact true), ((x.vLow - exact false) / (x.weight : Rat), exact false)] = _
      rw [hs, hs]
      rfl
    have h₃ : d₃ = s.dev.sampled k x rest := by
      unfold Dev.sampled
      rw [← hr]
      rfl
    rw [h₃, h₁, if_neg hl']

end

theorem Dev.sampling_sampled (d : Dev) (k : Nat) (x : ShadowSample) (rest : List ShadowSample) :
    ((d.sampled k x rest).tile k).sampling
      = (rest, (d.tile k).state, (d.residuals k x).foldl (fun q e => q + (e.1 * e.1 - q) / 64) (d.tile k).qSq) := by
  have ht : ((((d.updTile k (·.withSamples rest)).useLine (k / 64) (.imageCol (64 * (k / 64) + (d.logicalOf k).getD 0) x.col)).countC
      (k / 64) CC.shadowSample).tile k) = (d.tile k).withSamples rest := d.tile_updTile_same k (·.withSamples rest)
  unfold Dev.sampled
  rw [Dev.tile_updTile_same, ht]
  rfl

theorem Dev.counterC_sampled (d : Dev) (k : Nat) (x : ShadowSample) (rest : List ShadowSample) :
    (d.sampled k x rest).counterC (k / 64) CC.shadowSample = d.counterC (k / 64) CC.shadowSample + 1 :=
  (Dev.counterC_countC _ _ _ _ _ _).trans (if_pos rfl)

/-! ### CACHE_MISS_FILL (R224, R225) -/

/-- The cluster no longer misses `line`, and the next lookup that waits is asked. -/
def Cluster.missFilled (x : Cluster) (line : LineKind) : Cluster :=
  { x with misses := x.misses.erase line ++ x.missWait.take 1, missWait := x.missWait.drop 1 }

/-- What waits for lines once `line` has arrived. -/
def Cluster.waitsLess (x : Cluster) (line : LineKind) : Cluster :=
  { x with sideWaits := (x.sideWaits.map fun w => { w with lines := w.lines.erase line }).filter fun w => !w.lines.isEmpty }

/-- The logical tile whose image a line holds. -/
def imageLine : LineKind → Option Nat
  | .imageRow lt _ | .imageCol lt _ => some lt
  | _ => none

/-- The line's bytes in row `r`, zeros where the partition may not read the image. -/
def Dev.lineStored (d : Dev) (c : Nat) (line : LineKind) (r : Nat) : Dev :=
  let open_ := (imageLine line).all fun lt => d.imageOpen (lt / 64) (lt % 64)
  let d₁ := match (imageLine line) with | some lt => d.noteImage (lt / 64) (lt % 64) | none => d
  (d₁.setSpad c r (rowOfBytes (if open_ then d.lineBytes c line else (d.lineBytes c line).map fun _ => 0))).count DC.stackBytesA
    (ceilDiv (d.lineBytes c line).length 64)

/-- The cluster holds the line in row `r`. -/
def Cluster.withLine (x : Cluster) (line : LineKind) (r : Nat) (used : Bool) : Cluster :=
  { x with lines := { kind := line, row := r, used := used } :: x.lines.filter (fun e => e.row != r) }

theorem exec_cacheMissFill_eq (s : State) (c : Nat) (line : LineKind) : exec (.cacheMissFill c line) s = execCacheMissFill c line s := rfl

section
variable {s : State} {c : Nat} {line : LineKind} (h : (s.dev.cluster c).misses.contains line = true)
include h

theorem exec_cacheMissFill_unkept (hr : (s.dev.cluster c).lineRow = none) :
    exec (.cacheMissFill c line) s = .next { s with dev := (s.dev.updCluster c (·.missFilled line)).lineArrives c line } := by
  rw [exec_cacheMissFill_eq]
  refine State.on_eq ?_
  simp only [h, hr, if_true]
  rfl

theorem exec_cacheMissFill_kept {r : Nat} (hr : (s.dev.cluster c).lineRow = some r) : ∃ used,
    exec (.cacheMissFill c line) s = .next { s with dev :=
      (((s.dev.updCluster c (·.missFilled line)).lineStored c line r).updCluster c (·.withLine line r used)).lineArrives c line } := by
  refine ⟨(s.dev.cluster c).sideWaits.any fun w => w.lines.contains line, ?_⟩
  rw [exec_cacheMissFill_eq]
  refine State.on_eq ?_
  simp only [h, hr, if_true]
  cases line <;> rfl

end

theorem Dev.imageOpen_updCluster (d : Dev) (x : Nat) (f : Cluster → Cluster) (c l : Nat) : (d.updCluster x f).imageOpen c l = d.imageOpen c l := rfl

theorem Dev.lineBytes_updCluster (d : Dev) (x : Nat) (f : Cluster → Cluster) (c : Nat) (line : LineKind) :
    (d.updCluster x f).lineBytes c line = d.lineBytes c line := by
  cases line <;> rfl

/-- A line that has arrived adds to lanes what waited for it. -/
theorem Dev.addsLanes_lineArrives (d : Dev) (c : Nat) (line : LineKind) :
    Dev.AddsLanes c (d.updCluster c (·.waitsLess line)) (d.lineArrives c line) :=
  .forAll (fun d _ => d.addsLanes_addSide c _ _ _ _ _) _ _

/-- An access to a row is one of the cluster's cycles at most. -/
theorem Dev.useRow_keeps (d : Dev) (c r : Nat) : d.only (d.useRow c r) [.array, .obs] ∧ (∀ j, j ≠ c → (d.useRow c r).cluster j = d.cluster j)
    ∧ ∃ q, (d.useRow c r).cluster c = { d.cluster c with sequencer := q } := by
  obtain e | e := d.useRow_cases c r <;> rw [e]
  · exact ⟨d.only_refl _, fun _ _ => rfl, (d.cluster c).sequencer, rfl⟩
  · refine ⟨Dev.only_then (Dev.countC_only d _ _ _) (Dev.updCluster_only _ _ _) (by simp) (by simp), fun j hj => ?_,
      { (d.cluster c).sequencer with shift := (d.cluster c).sequencer.shift + 1 }, ?_⟩
    · rw [Dev.cluster_updCluster_other _ _ hj, Dev.cluster_countC]
    · rw [Dev.cluster_updCluster_same, Dev.cluster_countC]

/-- Storing a line writes one row of one cluster, which may cost a cycle; the stack keeps its bytes. -/
theorem Dev.lineStored_keeps (d : Dev) (c : Nat) (line : LineKind) (r : Nat) :
    d.only (d.lineStored c line r) [.array, .obs, .stack, .host] ∧ (d.lineStored c line r).stack.mem = d.stack.mem
      ∧ (∀ j, j ≠ c → (d.lineStored c line r).cluster j = d.cluster j)
      ∧ ∃ q w, (d.lineStored c line r).cluster c = { d.cluster c with sequencer := q, spad := SMap.put 0 (d.cluster c).spad r w }
        ∧ ((imageLine line).all (fun lt => d.imageOpen (lt / 64) (lt % 64)) = true → w = rowOfBytes (d.lineBytes c line)) := by
  unfold Dev.lineStored
  extract_lets open_ d₁
  have hn : d.only d₁ [.obs, .stack, .host] ∧ d₁.stack.mem = d.stack.mem := by
    unfold d₁
    split
    · exact ⟨d.noteImage_only _ _, d.mem_noteImage _ _⟩
    · exact ⟨d.only_refl _, rfl⟩
  obtain ⟨ho, hm⟩ := hn
  have hc : ∀ j, d₁.cluster j = d.cluster j := Dev.cluster_of_array (ho .array (by simp))
  have hw : open_ = true → rowOfBytes (if open_ = true then d.lineBytes c line else (d.lineBytes c line).map fun _ => 0)
      = rowOfBytes (d.lineBytes c line) := fun h => by rw [if_pos h]
  revert hw
  generalize rowOfBytes (if open_ = true then d.lineBytes c line else (d.lineBytes c line).map fun _ => 0) = w
  intro hw
  have hs : d₁.only (d₁.setSpad c r w) [.array, .obs] ∧ (∀ j, j ≠ c → (d₁.setSpad c r w).cluster j = d₁.cluster j)
      ∧ ∃ q, (d₁.setSpad c r w).cluster c = { d₁.cluster c with sequencer := q, spad := SMap.put 0 (d₁.cluster c).spad r w } := by
    obtain ⟨hu, huc, q, hq⟩ := d₁.useRow_keeps c r
    refine ⟨Dev.only_then hu (Dev.updCluster_only _ _ _) (by simp) (by simp), fun j hj => (Dev.cluster_updCluster_other _ _ hj).trans (huc j hj),
      q, ?_⟩
    rw [Dev.setSpad, Dev.cluster_updCluster_same, hq]
  obtain ⟨hso, hsc, q, hq⟩ := hs
  refine ⟨Dev.only_then (Dev.only_then ho hso (cs := [.array, .obs, .stack, .host]) (by simp) (by simp)) (Dev.count_only _ _ _) (by simp) (by simp), ?_, fun j hj => (hsc j hj).trans (hc j),
    q, w, ?_, hw⟩
  · exact (congrArg StackBlk.mem (hso .stack (by simp))).trans hm
  · rw [Dev.cluster_count, hq, hc]

/-- Settles O29: a patch and a sample take the exact sums of the golden image; a filled line leaves the misses, and is kept where there is a row. -/
theorem patchesAndSamplesUseTheGoldenImage : Obligations.PatchesAndSamplesUseTheGoldenImage := by
  unfold Obligations.PatchesAndSamplesUseTheGoldenImage
  intro s k col c line may exact
  refine ⟨fun st h => ?_, fun x rest h => ⟨fun hl => ?_, fun hl => ?_⟩, fun h => ?_⟩
  · obtain ⟨d₁, ho, hj, hk, e⟩ := exec_columnPatchComplete h
    refine ⟨fun hp => Runs.of_next e ?_, fun hp => Runs.of_next e ?_⟩
    · have hn : (s.dev.patched k col st).patches.isEmpty = false := by simpa [Dev.patched] using hp
      rw [Dev.takePatch, hn, if_neg Bool.false_ne_true]
      refine ⟨Dev.only_trans ho (Dev.updTile_only _ _ _), fun j hjk => (Dev.tile_updTile_other _ _ hjk).trans (hj j hjk), ?_⟩
      rw [Dev.tile_updTile_same]
      dsimp only
      rw [hk]
      rfl
    · have hn : (s.dev.patched k col st).patches.isEmpty = true := by simpa [Dev.patched] using hp
      rw [Dev.takePatch, hn, if_pos rfl]
      refine Dev.SettlesOrStopped.settle (.inl ?_) _ _ _
      rw [Dev.tile_updTile_same, ← hk]
  · have hs := (Dev.samplesAs_newStatistics (s.dev.sampled k x rest) k).trans (Dev.samplesAs_qualityCheck _ k)
    have ht := (hs.tile k).trans (s.dev.sampling_sampled k x rest)
    exact Runs.of_next (exec_shadowSample h hl) ⟨congrArg (fun t => t.1) ht, congrArg (fun t => t.2.1) ht,
      (hs.counterC _ _).trans (s.dev.counterC_sampled k x rest), congrArg (fun t => t.2.2) ht⟩
  · refine Runs.of_next (exec_shadowSample_disabled h hl) ⟨?_, ?_, Dev.updTile_only _ _ _⟩ <;> rw [Dev.tile_updTile_same] <;> rfl
  · intro open_
    have hopen : open_ = true → (imageLine line).all (fun lt => s.dev.imageOpen (lt / 64) (lt % 64)) = true := by
      cases line <;> exact id
    cases hr : (s.dev.cluster c).lineRow with
    | none =>
      have hk := (s.dev.updCluster c (·.missFilled line)).addsLanes_lineArrives c line
      have hc : ((s.dev.updCluster c (·.missFilled line)).updCluster c (·.waitsLess line)).cluster c
          = ((s.dev.cluster c).missFilled line).waitsLess line := by rw [Dev.cluster_updCluster_same, Dev.cluster_updCluster_same]
      obtain ⟨ls, e⟩ := hk.own
      rw [hc] at e
      refine Runs.of_next (exec_cacheMissFill_unkept h hr) ⟨?_, fun j hj => ?_, by rw [e]; rfl, by rw [e]; rfl, fun a => ?_, by rw [e]; rfl,
        by rw [e]; rfl⟩
      · exact Dev.only_then (Dev.only_trans (Dev.updCluster_only _ _ _) (Dev.updCluster_only _ _ _)) hk.only (by simp) (by simp)
      · rw [hk.others j hj, Dev.cluster_updCluster_other _ _ hj, Dev.cluster_updCluster_other _ _ hj]
      · exact congrArg (fun x : StackBlk => Memory.read x.mem a) (hk.only .stack (by simp))
    | some r =>
      obtain ⟨used, he⟩ := exec_cacheMissFill_kept h hr
      obtain ⟨ho, hm, hj, q, w, hq, hw⟩ := (s.dev.updCluster c (·.missFilled line)).lineStored_keeps c line r
      have hk := (((s.dev.updCluster c (·.missFilled line)).lineStored c line r).updCluster c (·.withLine line r used)).addsLanes_lineArrives c line
      obtain ⟨ls, e⟩ := hk.own
      rw [Dev.cluster_updCluster_same, Dev.cluster_updCluster_same, hq, Dev.cluster_updCluster_same] at e
      refine Runs.of_next he ⟨?_, fun j hn => ?_, by rw [e]; rfl, by rw [e]; rfl, fun a => ?_, by rw [e]; rfl,
        ⟨_, by rw [e]; rfl, rfl, rfl⟩, fun hx => ?_⟩
      · exact Dev.only_then (Dev.only_then (Dev.updCluster_only _ _ _) ho (cs := [.array, .obs, .stack, .host]) (by simp) (by simp))
          (Dev.only_then (Dev.only_trans (Dev.updCluster_only _ _ _) (Dev.updCluster_only _ _ _)) hk.only (cs := [.array, .obs, .stack, .host])
            (by simp) (by simp)) (by simp) (by simp)
      · rw [hk.others j hn, Dev.cluster_updCluster_other _ _ hn, Dev.cluster_updCluster_other _ _ hn, hj j hn, Dev.cluster_updCluster_other _ _ hn]
      · exact (congrArg (fun x : StackBlk => Memory.read x.mem a) (hk.only .stack (by simp))).trans (congrArg (Memory.read · a) hm)
      · rw [e]
        refine (SMap.get_put_same _ _ _ _).trans ((hw ?_).trans ?_)
        · exact hopen hx
        · rw [Dev.lineBytes_updCluster]

end Sys2Proof.Machine
end

section
/-! SUPPORT. The cluster sequencers: what an update of a sequencer leaves as it was, what issuing and stalling do, and
SEQUENCER_ACTION (R92, R93, R105, R108, R153, R161, R212, R217, R222, R299, R302, R435). -/

namespace Sys2Proof.Machine

/-! ### What does not depend on the sequencers -/

section
variable (d : Dev) (c : Nat) (f : Seq → Seq)

theorem Dev.updSeq_only : d.only (d.updSeq c f) [.array] := d.updCluster_only c _

@[simp] theorem Dev.sequencer_updSeq_same : ((d.updSeq c f).cluster c).sequencer = f (d.cluster c).sequencer := by
  rw [Dev.updSeq, Dev.cluster_updCluster_same]

theorem Dev.cluster_updSeq_field {β : Type} (g : Cluster → β) (hg : ∀ x q, g { x with sequencer := q } = g x) (e : Nat) :
    g ((d.updSeq c f).cluster e) = g (d.cluster e) := d.cluster_updCluster_field g c (f := fun x => { x with sequencer := f x.sequencer }) (fun x => hg x _) e

@[simp] theorem Dev.tile_updSeq (j : Nat) : (d.updSeq c f).tile j = d.tile j := rfl
@[simp] theorem Dev.held_updSeq (e : Nat) : ((d.updSeq c f).cluster e).held = (d.cluster e).held := d.cluster_updSeq_field c f Cluster.held (fun _ _ => rfl) e
@[simp] theorem Dev.waiting_updSeq (e : Nat) : ((d.updSeq c f).cluster e).waiting = (d.cluster e).waiting :=
  d.cluster_updSeq_field c f Cluster.waiting (fun _ _ => rfl) e
@[simp] theorem Dev.arrivals_updSeq (e : Nat) : ((d.updSeq c f).cluster e).arrivals = (d.cluster e).arrivals :=
  d.cluster_updSeq_field c f Cluster.arrivals (fun _ _ => rfl) e
@[simp] theorem Dev.sideWaits_updSeq (e : Nat) : ((d.updSeq c f).cluster e).sideWaits = (d.cluster e).sideWaits :=
  d.cluster_updSeq_field c f Cluster.sideWaits (fun _ _ => rfl) e
@[simp] theorem Dev.lanes_updSeq (e : Nat) : ((d.updSeq c f).cluster e).lanes = (d.cluster e).lanes :=
  d.cluster_updSeq_field c f Cluster.lanes (fun _ _ => rfl) e
@[simp] theorem Dev.spad_updSeq (e : Nat) : ((d.updSeq c f).cluster e).spad = (d.cluster e).spad :=
  d.cluster_updSeq_field c f Cluster.spad (fun _ _ => rfl) e

@[simp] theorem Dev.physOf_updSeq (e l : Nat) : (d.updSeq c f).physOf e l = d.physOf e l :=
  Dev.physOf_of_map (d.cluster_updSeq_field c f Cluster.map (fun _ _ => rfl) e) l

@[simp] theorem Dev.onStandIn_updSeq (e l : Nat) : (d.updSeq c f).onStandIn e l = d.onStandIn e l := by
  unfold Dev.onStandIn
  rw [Dev.physOf_updSeq]
  rfl

@[simp] theorem Dev.restoreFirst_updSeq (k : Nat) : (d.updSeq c f).restoreFirst k = d.restoreFirst k := rfl
@[simp] theorem Dev.tileHeld_updSeq (k : Nat) : (d.updSeq c f).tileHeld k = d.tileHeld k := by simp only [Dev.tileHeld, Dev.held_updSeq]

theorem Dev.admits_updSeq (k charge rank : Nat) : (d.updSeq c f).admits k charge rank = d.admits k charge rank := by
  have ha : (d.updSeq c f).ahead k rank = d.ahead k rank := by
    simp only [Dev.ahead, Dev.waiting_updSeq]
    rfl
  simp only [Dev.admits, Dev.held, ha, Dev.extra, Dev.held_updSeq, Dev.tileHeld_updSeq]
  rfl

@[simp] theorem Dev.budgetWaits_updSeq (k : Nat) : (d.updSeq c f).budgetWaits k = d.budgetWaits k := by
  simp only [Dev.budgetWaits, Dev.admits_updSeq]
  rfl

@[simp] theorem Dev.tileStall_updSeq (k : Nat) : (d.updSeq c f).tileStall k = d.tileStall k := by
  simp only [Dev.tileStall, Dev.budgetWaits_updSeq]
  rfl

@[simp] theorem Dev.resultStall_updSeq (lt : Nat) (sel : EdgeVec → Bool) : (d.updSeq c f).resultStall lt sel = d.resultStall lt sel := by
  simp only [Dev.resultStall, Dev.physOf_updSeq, Dev.budgetWaits_updSeq, Dev.sideWaits_updSeq]
  rfl

@[simp] theorem Dev.pairStall_updSeq (e l : Nat) : (d.updSeq c f).pairStall e l = d.pairStall e l := by
  simp only [Dev.pairStall, Dev.resultStall_updSeq]

@[simp] theorem Dev.heldAt_updSeq (e : Nat) : (d.updSeq c f).heldAt e = d.heldAt e := rfl

theorem Dev.layerDone_updSeq (hf : ∀ q, (f q).ended = q.ended) (e l : Nat) : (d.updSeq c f).layerDone e l = d.layerDone e l := by
  have he : ∀ x, ((d.updSeq c f).cluster x).sequencer.ended = (d.cluster x).sequencer.ended := fun x =>
    d.cluster_updCluster_field (fun x => x.sequencer.ended) c (f := fun x => { x with sequencer := f x.sequencer }) (fun x => hf x.sequencer) x
  simp only [Dev.layerDone, he]
  rfl

/-- Planned slots count from the sequencer's base only. -/
theorem Dev.plannedCycle_updSeq (hf : ∀ q, (f q).base = q.base) (e pl : Nat) : (d.updSeq c f).plannedCycle e pl = d.plannedCycle e pl := by
  have hb : ((d.updSeq c f).cluster e).sequencer.base = (d.cluster e).sequencer.base :=
    d.cluster_updCluster_field (fun x => x.sequencer.base) c (f := fun x => { x with sequencer := f x.sequencer }) (fun x => hf x.sequencer) e
  simp only [Dev.plannedCycle, hb]
  rfl

theorem Dev.slotIndex_updSeq (hf : ∀ q, (f q).base = q.base) (e pl : Nat) (slots : List Nat) :
    (d.updSeq c f).slotIndex e pl slots = d.slotIndex e pl slots := by
  simp only [Dev.slotIndex, Dev.plannedCycle_updSeq _ _ _ hf]
  rfl

theorem Dev.missesSlot_updSeq (hf : ∀ q, (f q).base = q.base) (e pl : Nat) (slots : List Nat) :
    (d.updSeq c f).missesSlot e pl slots = d.missesSlot e pl slots := by
  simp only [Dev.missesSlot, Dev.slotIndex_updSeq _ _ _ hf, Dev.plannedCycle_updSeq _ _ _ hf]

end

/-- Entering a sublayer's slot changes the pair and its lateness only. -/
theorem Seq.enter_cases (q : Seq) (l : Nat) : ∃ x n, q.enter l = { q with layer := x, late := n } := by
  unfold Seq.enter
  split
  · exact ⟨q.layer, q.late, rfl⟩
  · exact ⟨_, _, rfl⟩

section
variable (q : Seq) (l : Nat)

@[simp] theorem Seq.pc_enter : (q.enter l).pc = q.pc := by obtain ⟨x, n, e⟩ := q.enter_cases l; rw [e]
@[simp] theorem Seq.base_enter : (q.enter l).base = q.base := by obtain ⟨x, n, e⟩ := q.enter_cases l; rw [e]
@[simp] theorem Seq.slotAt_enter : (q.enter l).slotAt = q.slotAt := by obtain ⟨x, n, e⟩ := q.enter_cases l; rw [e]
@[simp] theorem Seq.ended_enter : (q.enter l).ended = q.ended := by obtain ⟨x, n, e⟩ := q.enter_cases l; rw [e]

end

/-! ### Issuing and stalling (R105, R212) -/

/-- A guard window that is overrun marks the step, and nothing else. -/
theorem Dev.checkGuard_only (d : Dev) (c : Nat) : d.only (d.checkGuard c) [.serve, .obs] := by
  unfold Dev.checkGuard
  split
  · split
    · split
      · exact Dev.only_then (d.mark_only _) (Dev.count_only _ _ _) (by simp) (by simp)
      · exact d.only_refl _
    · exact d.only_refl _
  · exact d.only_refl _

theorem Dev.array_checkGuard (d : Dev) (c : Nat) : (d.checkGuard c).array = d.array := d.checkGuard_only c .array (by simp)

section
variable {β γ : Type} {g : Tile → β} {h : Cluster → γ} (hh : ∀ x q, h { x with sequencer := q } = h x)
include hh

theorem Dev.keeps_updSeq (d : Dev) (c : Nat) (f : Seq → Seq) : Dev.Keeps g h [.array] d (d.updSeq c f) :=
  d.keeps_updCluster c fun x => hh x _

/-- Issuing and stalling change the sequencer, and may mark the step. -/
theorem Dev.keeps_updSeq_checkGuard (d : Dev) (c : Nat) (f : Seq → Seq) :
    Dev.Keeps g h [.array, .serve, .obs] d ((d.updSeq c f).checkGuard c) :=
  (Dev.keeps_updSeq hh d c f).append (Dev.keeps_of_array (Dev.array_checkGuard _ _) (Dev.checkGuard_only _ _))

theorem Dev.keeps_issued (d : Dev) (c pl : Nat) : Dev.Keeps g h [.array, .serve, .obs] d (d.issued c pl) := Dev.keeps_updSeq_checkGuard hh d c _

theorem Dev.keeps_stalled (d : Dev) (c pl : Nat) (code : BitVec 4) (excuse : Bool) :
    Dev.Keeps g h [.array, .serve, .obs] d (d.stalled c pl code excuse) := Dev.keeps_updSeq_checkGuard hh d c _

end

theorem Dev.sequencer_checkGuard (d : Dev) (c e : Nat) : ((d.checkGuard c).cluster e).sequencer = (d.cluster e).sequencer := by
  rw [Dev.cluster_of_array (d.array_checkGuard c)]

theorem Dev.sequencer_issued (d : Dev) (c pl : Nat) : ((d.issued c pl).cluster c).sequencer =
    { (d.cluster c).sequencer with
      late := max (d.cluster c).sequencer.late (d.behind c pl), shift := max (d.cluster c).sequencer.shift (d.since (d.cluster c).sequencer.base - pl),
      pc := (d.cluster c).sequencer.pc + 1, stall := 0, waitsFor := none, slotAt := none, receiving := false, holding := false } := by
  rw [Dev.issued, Dev.sequencer_checkGuard, Dev.sequencer_updSeq_same]

theorem Dev.sequencer_stalled (d : Dev) (c pl : Nat) (code : BitVec 4) (excuse : Bool) : ((d.stalled c pl code excuse).cluster c).sequencer =
    { (d.cluster c).sequencer with stall := code, waitsFor := some pl, excusing := excuse } := by
  rw [Dev.stalled, Dev.sequencer_checkGuard, Dev.sequencer_updSeq_same]

/-- An action issued by a cluster whose program counter is `pc`. -/
theorem Dev.issued_of_pc {d : Dev} {c : Nat} {pc : BitVec 20} (h : (d.cluster c).sequencer.pc = pc) (pl : Nat) :
    ((d.issued c pl).cluster c).sequencer.pc = pc + 1 ∧ ((d.issued c pl).cluster c).sequencer.stall = 0 := by
  rw [Dev.sequencer_issued, ← h]
  exact ⟨rfl, rfl⟩

theorem Dev.stalled_of_pc {d : Dev} {c : Nat} {pc : BitVec 20} (h : (d.cluster c).sequencer.pc = pc) (pl : Nat) (code : BitVec 4) (excuse : Bool) :
    ((d.stalled c pl code excuse).cluster c).sequencer.pc = pc ∧ ((d.stalled c pl code excuse).cluster c).sequencer.stall = code := by
  rw [Dev.sequencer_stalled, ← h]
  exact ⟨rfl, rfl⟩

theorem Dev.issued_only (d : Dev) (c pl : Nat) : d.only (d.issued c pl) [.array, .serve, .obs] :=
  (Dev.keeps_issued (g := fun _ => ()) (h := fun _ => ()) (fun _ _ => rfl) d c pl).only

theorem Dev.stalled_only (d : Dev) (c pl : Nat) (code : BitVec 4) (excuse : Bool) : d.only (d.stalled c pl code excuse) [.array, .serve, .obs] :=
  (Dev.keeps_stalled (g := fun _ => ()) (h := fun _ => ()) (fun _ _ => rfl) d c pl code excuse).only

/-! ### A slot of a circuit (R212, R215) -/

/-- The sequencer waits for the slot of mesh cycle `n`. -/
def Seq.forSlot (q : Seq) (n : Nat) : Seq := { q with slotAt := some n }

/-- The sequencer waits for its sublayer in held mode, and after. -/
def Seq.holds (q : Seq) : Seq := { q with holding := true, slotAt := none }
def Seq.goes (q : Seq) : Seq := { q with holding := false }

/-- The sequencer receives. -/
def Seq.receives (q : Seq) : Seq := { q with receiving := true }

/-- An action that needs a slot of a circuit can leave now: it needs none, or has missed none, or its next slot has come. -/
def Dev.SlotComes (d : Dev) (c pl : Nat) (slots : List Nat) : Prop :=
  slots = [] ∨ ((d.cluster c).sequencer.slotAt = none ∧ d.missesSlot c pl slots = false)
    ∨ 5 * (d.cluster c).sequencer.slotAt.getD (slotCycle slots (d.slotIndex c pl slots)) < d.rst.rootCount.toNat + 8

theorem Dev.atSlot_cond (d : Dev) (c pl : Nat) (slots : List Nat) :
    (slots.isEmpty || ((d.cluster c).sequencer.slotAt.isNone && !d.missesSlot c pl slots)
      || decide (5 * (d.cluster c).sequencer.slotAt.getD (slotCycle slots (d.slotIndex c pl slots)) < d.rst.rootCount.toNat + 8)) = true
    ↔ d.SlotComes c pl slots := by
  simp [Dev.SlotComes, or_assoc]

theorem Dev.atSlot_of_comes {d : Dev} {c pl : Nat} {slots : List Nat} (h : d.SlotComes c pl slots) (f : Dev → Dev) : d.atSlot c pl slots f = f d :=
  if_pos ((d.atSlot_cond c pl slots).mpr h)

theorem Dev.atSlot_of_waits {d : Dev} {c pl : Nat} {slots : List Nat} (h : ¬ d.SlotComes c pl slots) (f : Dev → Dev) :
    ∃ n x, d.atSlot c pl slots f = (d.updSeq c (·.forSlot n)).stalled c pl 1 x :=
  ⟨_, _, if_neg fun e => h ((d.atSlot_cond c pl slots).mp e)⟩

/-- A change of the sequencer that keeps its base and the slot it waits for. -/
theorem Dev.slotComes_updSeq (d : Dev) (c : Nat) {f : Seq → Seq} (hb : ∀ q, (f q).base = q.base) (hs : ∀ q, (f q).slotAt = q.slotAt) (pl : Nat)
    (slots : List Nat) : (d.updSeq c f).SlotComes c pl slots ↔ d.SlotComes c pl slots := by
  unfold Dev.SlotComes
  rw [Dev.sequencer_updSeq_same, hs, Dev.missesSlot_updSeq _ _ _ hb, Dev.slotIndex_updSeq _ _ _ hb]
  rfl

/-! ### Rows that an action uses (R220, R222, R226) -/

section
variable {β γ : Type} {g : Tile → β} {h : Cluster → γ}

theorem Dev.keeps_useRow (hs : ∀ x n, h { x with sequencer := { x.sequencer with shift := n } } = h x) (d : Dev) (c r : Nat) :
    Dev.Keeps g h [.array, .obs] d (d.useRow c r) := by
  obtain e | e := d.useRow_cases c r <;> rw [e]
  · exact .refl
  · exact ((d.keeps_countC c _ _).mono (by simp)).trans ((Dev.keeps_updCluster _ c fun x => hs x _).mono (by simp))

theorem Dev.keeps_pokeSpad {r : Nat} (hp : ∀ x w, h { x with spad := SMap.put 0 x.spad r w } = h x) (d : Dev) (c at_ : Nat) (bs : List Byte) :
    Dev.Keeps g h [.array] d (d.pokeSpad c r at_ bs) := d.keeps_updCluster c fun x => hp x _

theorem Dev.keeps_patchSpad {r : Nat} (hs : ∀ x n, h { x with sequencer := { x.sequencer with shift := n } } = h x)
    (hp : ∀ x w, h { x with spad := SMap.put 0 x.spad r w } = h x) (d : Dev) (c at_ : Nat) (bs : List Byte) :
    Dev.Keeps g h [.array, .obs] d (d.patchSpad c r at_ bs) :=
  (Dev.keeps_useRow hs d c r).trans ((Dev.keeps_pokeSpad hp _ c at_ bs).mono (by simp))

theorem Dev.keeps_setSpad {r : Nat} (hs : ∀ x n, h { x with sequencer := { x.sequencer with shift := n } } = h x)
    (hp : ∀ x w, h { x with spad := SMap.put 0 x.spad r w } = h x) (d : Dev) (c : Nat) (w : BitVec 4096) :
    Dev.Keeps g h [.array, .obs] d (d.setSpad c r w) :=
  (Dev.keeps_useRow hs d c r).trans ((Dev.keeps_updCluster _ c fun x => hp x w).mono (by simp))

theorem Dev.keeps_countC_unless (d : Dev) (z c n k : Nat) : Dev.Keeps g h [.array, .obs] d (if z = 0 then d else d.countC c n k) := by
  split
  · exact .refl
  · exact (d.keeps_countC c n k).mono (by simp)

end

/-- Program counter and lanes of a cluster. -/
def Cluster.pcLanes (x : Cluster) : BitVec 20 × SMap Lane := (x.sequencer.pc, x.lanes)

/-- Program counter and scratchpad rows of a cluster, but for the rows of a list. -/
def Cluster.pcRows (rows : List Nat) (x : Cluster) : BitVec 20 × (Nat → BitVec 4096) :=
  (x.sequencer.pc, fun r => if r ∈ rows then 0 else SMap.get 0 x.spad r)

theorem Cluster.pcRows_put {rows : List Nat} {r : Nat} (hr : r ∈ rows) (x : Cluster) (w : BitVec 4096) :
    Cluster.pcRows rows { x with spad := SMap.put 0 x.spad r w } = Cluster.pcRows rows x := by
  refine Prod.ext rfl (funext fun q => ?_)
  by_cases hq : q ∈ rows
  · simp only [Cluster.pcRows, hq, if_true]
  · have hn : q ≠ r := fun e => hq (e ▸ hr)
    simp only [Cluster.pcRows, hq, if_false, SMap.get_put, hn]

/-- Rows that are not listed are as they were. -/
theorem Cluster.spad_of_pcRows {rows : List Nat} {x y : Cluster} (h : y.pcRows rows = x.pcRows rows) {r : Nat} (hr : r ∉ rows) :
    SMap.get (0 : BitVec 4096) y.spad r = SMap.get 0 x.spad r := by
  have := congrFun (congrArg Prod.snd h) r
  simpa only [Cluster.pcRows, hr, if_false] using this

/-- Results of Dahlia or of the residual add in the format BF16 change one row. -/
theorem Dev.keeps_residualAdd (d : Dev) (c dst a b n : Nat) :
    Dev.Keeps (fun _ : Tile => ()) (Cluster.pcRows [dst / 512]) [.array, .obs] d (d.residualAdd c dst a b n) := by
  have hs : ∀ x n, Cluster.pcRows [dst / 512] { x with sequencer := { x.sequencer with shift := n } } = Cluster.pcRows [dst / 512] x := fun _ _ => rfl
  unfold Dev.residualAdd
  extract_lets rows d₁ val
  refine (Dev.keeps_forAll (fun d r => Dev.keeps_useRow hs d c r) rows d).trans ?_
  unfold Dev.dahliaStore
  extract_lets ls z k
  refine Dev.Keeps.trans ?_ (Dev.keeps_countC_unless _ _ _ _ _)
  exact (Dev.keeps_patchSpad hs (Cluster.pcRows_put (by simp)) d₁ c _ _).trans (Dev.keeps_countC_unless _ _ _ _ _)

theorem Dev.keeps_freeRows (d : Dev) (c : Nat) (rows : List Nat) :
    Dev.Keeps (fun _ : Tile => ()) (Cluster.pcRows rows) [.array, .obs, .fresh] d (d.freeRows c rows) := by
  suffices H : ∀ (xs : List Nat) (d : Dev), xs ⊆ rows → Dev.Keeps (fun _ : Tile => ()) (Cluster.pcRows rows) [.array, .obs, .fresh] d
      (d.forAll xs fun d r => (d.setSpad c r (Config.freeBits d.fresh 4096)).draw) from H rows d (List.Subset.refl _)
  have hf : [Blk.fresh] ⊆ [Blk.array, .obs, .fresh] := by simp
  intro xs
  induction xs with
  | nil => exact fun d _ => .refl
  | cons r xs ih =>
    intro d hx
    obtain ⟨hr, hx⟩ := List.cons_subset.mp hx
    refine Dev.Keeps.trans ?_ (ih _ hx)
    exact ((Dev.keeps_setSpad (fun _ _ => rfl) (Cluster.pcRows_put hr) d c _).mono (by simp)).trans
      (Dev.keeps_of_array rfl (Dev.only_mono (Dev.only_fresh _ _) hf))

/-! ### Output blocks (R92 to R95, R438) -/

/-- An output block is written from lanes as they are, and is EMPTY then. -/
theorem Dev.outputBlock_cases (d : Dev) (c block row : Nat) (fmt : BitVec 3) : ∃ d₁,
    Dev.Keeps (fun _ : Tile => ()) Cluster.pcLanes [.array, .obs] d d₁ ∧ (d.outputBlock c block row fmt).1 = d₁.blockLeft c block := by
  have hp : ∀ (d : Dev) (r at_ : Nat) (bs : List Byte), Dev.Keeps (fun _ : Tile => ()) Cluster.pcLanes [.array, .obs] d (d.patchSpad c r at_ bs) :=
    fun d r at_ bs => Dev.keeps_patchSpad (fun _ _ => rfl) (fun _ _ => rfl) d c at_ bs
  unfold Dev.outputBlock
  split
  · unfold Dev.writeBlock
    extract_lets x ls z out _ d₁ k d₂ d₃ d₄
    have h₁ : Dev.Keeps (fun _ : Tile => ()) Cluster.pcLanes [.array, .obs] d d₁ := by
      unfold d₁
      split
      · split
        · exact (hp _ _ _ _).trans (hp _ _ _ _)
        · exact hp _ _ _ _
      · split <;> exact hp _ _ _ _
    exact ⟨d₄, ((h₁.trans (Dev.keeps_countC_unless _ _ _ _ _)).trans (Dev.keeps_countC_unless _ _ _ _ _)).trans (Dev.keeps_countC_unless _ _ _ _ _), rfl⟩
  · unfold Dev.spillBlock
    extract_lets ws low d₁ d₂
    have h₂ : Dev.Keeps (fun _ : Tile => ()) Cluster.pcLanes [.array, .obs] d₁ d₂ := by
      unfold d₂
      split
      · exact hp _ _ _ _
      · exact .refl
    exact ⟨d₂, (hp _ _ _ _).trans h₂, rfl⟩

/-- An output block that was written is EMPTY, and no other lane changed. -/
theorem Dev.outputBlock_done (d : Dev) (c block row : Nat) (fmt : BitVec 3) : ∃ d₁,
    (((d₁.cluster c).sequencer.pc = (d.cluster c).sequencer.pc
      ∧ ∀ n, d₁.accLane c n = if 32 * block ≤ n ∧ n < 32 * block + 32 then Lane.fresh else d.accLane c n))
    ∧ d.only d₁ [.array, .obs] ∧ (d.outputBlock c block row fmt).1 = d₁ := by
  obtain ⟨d₁, hk, e⟩ := d.outputBlock_cases c block row fmt
  have hl := d₁.addsLanes_blockLeft c block
  refine ⟨d₁.blockLeft c block, ⟨?_, fun n => ?_⟩, Dev.only_trans hk.only hl.only, e⟩
  · rw [hl.field (fun x => x.sequencer.pc) fun _ _ => rfl]
    exact congrArg Prod.fst (hk.cluster c)
  · rw [Dev.accLane_blockLeft, show d₁.accLane c n = d.accLane c n from congrArg (SMap.get Lane.fresh · n) (congrArg Prod.snd (hk.cluster c))]

theorem Dev.captureBlock_only (d : Dev) (p c : Nat) (t : BlockTag) (format : BitVec 4) (cols : Nat) (data : List Byte) :
    d.only (d.captureBlock p c t format cols data) [.obs] := by
  unfold Dev.captureBlock
  refine Dev.forAll_holds (fun x => d.only x [.obs]) _ (fun d' w h => ?_) _ d (d.only_refl _)
  split
  · exact h
  · split
    · exact Dev.only_trans h (Dev.only_obs _ _)
    · exact h

/-- Lanes that are read back merge into one block. -/
theorem Dev.readLanes_cases (d : Dev) (c block row half : Nat) : ∃ d₁ ws,
    Dev.Keeps (fun _ : Tile => ()) Cluster.pcLanes [.array, .obs] d d₁ ∧ d.readLanes c block row half = d₁.mergeLanes c block ws
      ∧ ws.length = 32 := by
  have hu : ∀ (d : Dev) (r : Nat), Dev.Keeps (fun _ : Tile => ()) Cluster.pcLanes [.array, .obs] d (d.useRow c r) := fun d r =>
    Dev.keeps_useRow (fun _ _ => rfl) d c r
  unfold Dev.readLanes
  extract_lets word ws d₁ d₂
  refine ⟨d₂, ws, Dev.Keeps.trans (hu d (row + half / 2)) ?_, rfl, by simp [ws]⟩
  unfold d₂
  split
  · exact hu _ _
  · exact .refl

/-- Lanes outside the block that is merged are as they were. -/
theorem Dev.accLane_mergeLanes_other (d : Dev) (c base : Nat) {ws : List (U64 × U64)} {n : Nat} (h : n < 32 * base ∨ 32 * base + ws.length ≤ n) :
    (d.mergeLanes c base ws).accLane c n = d.accLane c n := by
  suffices H : ∀ (ws : List (U64 × U64)) (m : Nat) (d : Dev), n < 32 * base ∨ 32 * base + m + ws.length ≤ n →
      (d.forAll (ws.zipIdx m) fun d w =>
        d.setAccLane c (32 * base + w.2) ((d.accLane c (32 * base + w.2)).merge (Lane.ofWords w.1.1 w.1.2))).accLane c n = d.accLane c n from
    H ws 0 d h
  intro ws
  induction ws with
  | nil => exact fun _ _ _ => rfl
  | cons w ws ih =>
    intro m d hn
    rw [List.length_cons] at hn
    refine (ih (m + 1) _ (by omega)).trans ?_
    rw [Dev.accLane_setAccLane]
    exact if_neg (show ¬ n = 32 * base + m by omega)

/-! ### Errors of rows, windows and keys (R161, R222, R299, R302) -/

/-- Program counter of a cluster. -/
def Cluster.pcNow (x : Cluster) : BitVec 20 := x.sequencer.pc

/-- What the management plane does about a row touches no program counter. -/
abbrev Dev.KeepsPc (d d' : Dev) : Prop := Dev.Keeps (fun _ : Tile => ()) Cluster.pcNow [.array, .obs, .ledger, .host] d d'

theorem Dev.keepsPc_condemnRow (d : Dev) (c r : Nat) : Dev.KeepsPc d (d.condemnRow c r) := by
  have hu : ∀ (d : Dev) {f : Cluster → Cluster}, (∀ x, (f x).sequencer = x.sequencer) → Dev.KeepsPc d (d.updCluster c f) := fun d f hf =>
    (d.keeps_updCluster c fun x => congrArg Seq.pc (hf x)).mono (by simp)
  unfold Dev.condemnRow
  split
  · refine hu d fun x => ?_
    split <;> rfl
  · unfold Dev.mapOutRow
    extract_lets x free bank already d₁
    have h₁ : Dev.KeepsPc d d₁ := hu d fun _ => rfl
    split
    · exact h₁
    · split
      · exact h₁.trans (hu d₁ fun _ => rfl)
      · exact h₁.trans (Dev.keeps_of_array (Dev.event_only _ _ .array (by simp)) (Dev.only_mono (Dev.event_only _ _) (by simp)))

theorem Dev.keepsPc_log (d : Dev) (kind event : BitVec 4) (ruling : BitVec 2) (origin : BitVec 3) (unit : Nat) (step : U48) (detail : U32) :
    Dev.KeepsPc d (d.log kind event ruling origin unit step detail) :=
  Dev.keeps_of_array (d.log_only _ _ _ _ _ _ _ .array (by simp)) (Dev.only_mono (d.log_only _ _ _ _ _ _ _) (by simp))

theorem Dev.keepsPc_countC (d : Dev) (c n k : Nat) : Dev.KeepsPc d (d.countC c n k) := (d.keeps_countC c n k).mono (by simp)

theorem Dev.keepsPc_spadCe (d : Dev) (c r : Nat) : Dev.KeepsPc d (d.spadCe c r) := by
  unfold Dev.spadCe
  extract_lets key old times perm _ d₁ d₂
  have h₁ : Dev.KeepsPc d d₁ := Dev.keeps_of_array rfl (Dev.only_mono (Dev.only_ledger _ _) (by simp))
  have h₂ : Dev.KeepsPc d d₂ := h₁.trans (Dev.keepsPc_log _ _ _ _ _ _ _ _)
  split
  · exact h₂.trans (Dev.keepsPc_condemnRow _ _ _)
  · exact h₂

theorem Dev.keepsPc_spadUe (d : Dev) (c r : Nat) : Dev.KeepsPc d (d.spadUe c r) := (d.keepsPc_log _ _ _ _ _ _ _).trans (Dev.keepsPc_condemnRow _ _ _)

theorem Dev.keepsPc_spadRead (d : Dev) (c row : Nat) (ce ue : List Nat) : Dev.KeepsPc d (d.spadRead c row ce ue) := by
  unfold Dev.spadRead
  extract_lets d₁
  refine Dev.Keeps.trans (Dev.keeps_forAll (fun d _ => ?_) ce d) (Dev.keeps_forAll (fun d w => ?_) ue _)
  · exact (d.keepsPc_countC _ _ _).trans (Dev.keepsPc_spadCe _ _ _)
  · exact (((Dev.keeps_pokeSpad (fun _ _ => rfl) d c _ _).mono (by simp)).trans (Dev.keepsPc_countC _ _ _ _)).trans (Dev.keepsPc_spadUe _ _ _)

theorem Dev.kvWrite_only (d : Dev) (handle : U32) (stream : Nat) (vs : List U16) : d.only (d.kvWrite handle stream vs) [.serve, .obs] := by
  unfold Dev.kvWrite
  extract_lets slot r x y d₁
  have h₁ : d.only d₁ [.serve, .obs] := Dev.only_mono (d.only_serve _) (by simp)
  split
  · split
    · exact h₁
    · exact Dev.only_then h₁ (Dev.count_only _ _ _) (List.Subset.refl _) (by simp)
  · exact d.only_refl _

theorem Dev.only_link (d : Dev) (x : LinkBlk) : d.only { d with link := x } [.link] := by
  intro b hb
  cases b with
  | link => simp at hb
  | _ => rfl

/-- A one-sided write leaves under the next transfer tag. -/
theorem Dev.sendWindow_sends (d : Dev) (c pos : Nat) (w : BitVec 12) (e : U16) (o : BitVec 24) {body : List Byte} (h₁ : 1 ≤ body.length)
    (h₂ : body.length ≤ 65536) : d.only (d.sendWindow c pos w e o body) [.link, .host]
      ∧ (d.sendWindow c pos w e o body).link.nextXfer = d.link.nextXfer + 1
      ∧ ∃ m, (d.sendWindow c pos w e o body).host.sent = d.host.sent ++ [.windowWrite pos m] ∧ m.windowId = w ∧ m.epoch = e ∧ m.offset = o
        ∧ m.body = body ∧ m.xfer = d.link.nextXfer := by
  unfold Dev.sendWindow
  rw [if_neg (by omega)]
  extract_lets p x op t m _
  refine ⟨Dev.only_then (d.only_link _) (Dev.only_host _ _) (by simp) (by simp), rfl, m, rfl, rfl, rfl, rfl, rfl, rfl⟩

/-! ### SEQUENCER_ACTION (R212) -/

theorem exec_sequencerAction_eq (s : State) (c : Nat) (a : PlannedAction) : exec (.sequencerAction c a) s = execSequencerAction c a s := rfl

section
variable {s : State} {c l pl : Nat}

theorem exec_sequencerAction_barrier (h : (s.dev.cluster c).sequencer.atBarrier = true) (a : SeqAction) :
    exec (.sequencerAction c ⟨l, pl, a⟩) s = .next s := by
  rw [exec_sequencerAction_eq]
  exact State.on_eq (if_pos h)

section
variable (h : (s.dev.cluster c).sequencer.atBarrier = false) (a : SeqAction)
include h

theorem exec_sequencerAction_early (he : s.dev.early c pl = true) : exec (.sequencerAction c ⟨l, pl, a⟩) s
    = .next { s with dev := (s.dev.updSeq c fun q => { q.enter l with stall := 0, waitsFor := some pl }).checkGuard c } := by
  rw [exec_sequencerAction_eq]
  refine State.on_eq ?_
  rw [h, if_neg Bool.false_ne_true, he, if_pos rfl]

theorem exec_sequencerAction_acts (he : s.dev.early c pl = false) :
    exec (.sequencerAction c ⟨l, pl, a⟩) s = .next { s with dev := (s.dev.updSeq c (·.enter l)).act c l pl a } := by
  rw [exec_sequencerAction_eq]
  refine State.on_eq ?_
  rw [h, if_neg Bool.false_ne_true, he, if_neg Bool.false_ne_true]

end

end

/-- The sequencer of cluster `c` is in the slot of sublayer `l`. -/
def Dev.entered (d : Dev) (c l : Nat) : Dev := d.updSeq c (·.enter l)

theorem Dev.entered_only (d : Dev) (c l : Nat) : d.only (d.entered c l) [.array] := d.updSeq_only c _

theorem Dev.pc_entered (d : Dev) (c l : Nat) : ((d.entered c l).cluster c).sequencer.pc = (d.cluster c).sequencer.pc := by
  rw [Dev.entered, Dev.sequencer_updSeq_same, Seq.pc_enter]

section
variable {d : Dev} {c l pl : Nat}

/-- Work that keeps the program counter, and then the action is issued. -/
theorem Dev.issued_after {γ : Type} {h : Cluster → γ} {bs : List Blk} (p : γ → BitVec 20) (hp : ∀ x, p (h x) = x.sequencer.pc) {d₁ : Dev}
    (hk : Dev.Keeps (fun _ : Tile => ()) h bs (d.entered c l) d₁) : ((d₁.issued c pl).cluster c).sequencer.pc = (d.cluster c).sequencer.pc + 1
      ∧ ((d₁.issued c pl).cluster c).sequencer.stall = 0 :=
  Dev.issued_of_pc ((hp _).symm.trans ((congrArg p (hk.cluster c)).trans ((hp _).trans (d.pc_entered c l)))) pl

/-- The blocks that an action touches. -/
theorem Dev.act_only {bs : List Blk} {d₁ : Dev} (h : (d.entered c l).only d₁ bs) : d.only (d₁.issued c pl) (bs ++ [.array, .serve, .obs]) :=
  Dev.only_then (Dev.only_then (d.entered_only c l) h (cs := bs ++ [.array, .serve, .obs]) (by simp) (List.subset_append_left _ _))
    (d₁.issued_only c pl) (List.Subset.refl _) (List.subset_append_right _ _)

/-- Rows that the work keeps are as they were. -/
theorem Dev.spad_after {rows : List Nat} {bs : List Blk} {d₁ : Dev}
    (hk : Dev.Keeps (fun _ : Tile => ()) (Cluster.pcRows rows) bs (d.entered c l) d₁) {r : Nat} (hr : r ∉ rows) :
    SMap.get (0 : BitVec 4096) ((d₁.issued c pl).cluster c).spad r = SMap.get 0 (d.cluster c).spad r := by
  have h := (Dev.keeps_issued (g := fun _ => ()) (h := Cluster.spad) (fun _ _ => rfl) d₁ c pl).cluster c
  rw [h, Cluster.spad_of_pcRows (hk.cluster c) hr, Dev.entered, Dev.spad_updSeq]

theorem Dev.accLane_entered (n : Nat) : (d.entered c l).accLane c n = d.accLane c n := by
  rw [Dev.accLane, Dev.entered, Dev.lanes_updSeq]
  rfl

/-- Only the array has changed, and not the program counter of cluster `c`. -/
structure Dev.Prepared (c : Nat) (d d₁ : Dev) : Prop where
  pc : (d₁.cluster c).sequencer.pc = (d.cluster c).sequencer.pc
  only : d.only d₁ [.array]

theorem Dev.prepared_entered (d : Dev) (c l : Nat) : Dev.Prepared c d (d.entered c l) := ⟨d.pc_entered c l, d.entered_only c l⟩

theorem Dev.Prepared.updSeq {d₁ : Dev} (h : Dev.Prepared c d d₁) {f : Seq → Seq} (hf : ∀ q, (f q).pc = q.pc) :
    Dev.Prepared c d (d₁.updSeq c f) := by
  refine ⟨?_, Dev.only_trans h.only (Dev.updSeq_only _ _ _)⟩
  rw [Dev.sequencer_updSeq_same, hf]
  exact h.pc

theorem Dev.Prepared.stalled {d₁ : Dev} (h : Dev.Prepared c d d₁) (pl : Nat) (code : BitVec 4) (x : Bool) :
    d.only (d₁.stalled c pl code x) [.array, .serve, .obs] ∧ ((d₁.stalled c pl code x).cluster c).sequencer.pc = (d.cluster c).sequencer.pc
      ∧ ((d₁.stalled c pl code x).cluster c).sequencer.stall = code :=
  ⟨Dev.only_then h.only (Dev.stalled_only _ _ _ _ _) (by simp) (by simp), Dev.stalled_of_pc h.pc pl code x⟩

theorem Dev.Prepared.issued {d₁ : Dev} (h : Dev.Prepared c d d₁) (pl : Nat) :
    d.only (d₁.issued c pl) [.array, .serve, .obs] ∧ ((d₁.issued c pl).cluster c).sequencer.pc = (d.cluster c).sequencer.pc + 1
      ∧ ((d₁.issued c pl).cluster c).sequencer.stall = 0 :=
  ⟨Dev.only_then h.only (Dev.issued_only _ _ _) (by simp) (by simp), Dev.issued_of_pc h.pc pl⟩

theorem Dev.accLane_issued (d : Dev) (c pl e n : Nat) : (d.issued c pl).accLane e n = d.accLane e n :=
  congrArg (SMap.get Lane.fresh · n)
    ((Dev.keeps_issued (g := fun _ => ()) (h := Cluster.lanes) (fun _ _ => rfl) d c pl).cluster e)

end

/-! ### What each action does (R212) -/

section
variable (d : Dev) (c l pl : Nat)

theorem Dev.tile_issued (j : Nat) : (d.issued c pl).tile j = d.tile j :=
  (Dev.keeps_issued (g := fun t => t) (h := fun _ => ()) (fun _ _ => rfl) d c pl).tile j

theorem Dev.tile_stalled (code : BitVec 4) (excuse : Bool) (j : Nat) : (d.stalled c pl code excuse).tile j = d.tile j :=
  (Dev.keeps_stalled (g := fun t => t) (h := fun _ => ()) (fun _ _ => rfl) d c pl code excuse).tile j

theorem Dev.sequencer_unwait (k r : Nat) : ((d.unwait k r).cluster c).sequencer = (d.cluster c).sequencer :=
  d.cluster_updCluster_field Cluster.sequencer (k / 64)
    (f := fun c => { c with waiting := c.waiting.filter (fun w => w.tile != k || w.rank != r) }) (fun _ => rfl) c

theorem Dev.sequencer_await (k charge rank : Nat) : ((d.await k charge rank).cluster c).sequencer = (d.cluster c).sequencer := by
  have hw : ∀ x : Cluster, (x.withWaiting k charge rank).sequencer = x.sequencer := fun x => by
    unfold Cluster.withWaiting
    split <;> rfl
  have h := d.cluster_updCluster_field Cluster.sequencer (k / 64) (f := (·.withWaiting k charge rank)) hw c
  obtain ⟨d₁, rfl, e | e⟩ := d.await_cases k charge rank <;> rw [e]
  · exact h
  · rw [Dev.cluster_divideIdle]
    exact h

/-- An operation of a logical tile in service is issued when nothing keeps it, and waits under the code of what does. -/
theorem Dev.act_tileOp {t k : Nat} (hp : d.physOf c t = some k) (ho : d.onStandIn c t = false) : d.act c l pl (.tileOp t)
    = if d.tileStall k = 0 then (d.unwait k 1).issued c pl
      else if d.tileStall k = 0xA then (d.await k 1 1).stalled c pl (d.tileStall k) true else d.stalled c pl (d.tileStall k) false := by
  simp only [Dev.act, hp, ho]
  rfl

/-- One that is computed by stand-in waits for no tile. -/
theorem Dev.act_tileOp_standIn {t : Nat} (h : d.physOf c t = none ∨ d.onStandIn c t = true) : d.act c l pl (.tileOp t) = d.issued c pl := by
  cases hp : d.physOf c t with
  | none => simp only [Dev.act, hp]
  | some k =>
    have ho : d.onStandIn c t = true := h.resolve_left (by simp [hp])
    simp only [Dev.act, hp, ho, if_true]

/-- A read of results is issued when none is outstanding. -/
theorem Dev.act_edgeRead (t : Nat) : d.act c l pl (.edgeRead t) = if d.resultStall (64 * c + t) (fun _ => true) = 0 then d.issued c pl
    else d.stalled c pl (d.resultStall (64 * c + t) fun _ => true) (d.resultStall (64 * c + t) (fun _ => true) == 0xA) := rfl

theorem Dev.endPair_waits (h : d.pairStall c l ≠ 0) : ∃ due x, d.endPair c l pl = d.stalled c due (d.pairStall c l) x := by
  unfold Dev.endPair
  exact ⟨_, _, if_pos h⟩

/-- The pair ends, and is listed as ended. -/
theorem Dev.endPair_ends (h : d.pairStall c l = 0) : d.only (d.endPair c l pl) [.array, .serve, .obs]
    ∧ ((d.endPair c l pl).cluster c).sequencer.pc = (d.cluster c).sequencer.pc + 1 ∧ ((d.endPair c l pl).cluster c).sequencer.stall = 0
    ∧ l ∈ ((d.endPair c l pl).cluster c).sequencer.ended ∧ (d.cluster c).sequencer.late ≤ ((d.endPair c l pl).cluster c).sequencer.late := by
  unfold Dev.endPair
  extract_lets due code late d₁
  have h₁ : (∀ x, d₁.cluster x = d.cluster x) ∧ d.only d₁ [.obs] := by
    unfold d₁
    split
    · exact ⟨fun _ => rfl, d.only_refl _⟩
    · exact ⟨fun _ => rfl, d.countC_only _ _ _⟩
  obtain ⟨hc, ho⟩ := h₁
  rw [if_neg (not_not_intro h), Dev.sequencer_issued, Dev.sequencer_updSeq_same, hc]
  refine ⟨?_, rfl, rfl, ?_, Nat.le_max_left _ _⟩
  · exact Dev.only_then (Dev.only_then ho (Dev.updSeq_only _ _ _) (cs := [.array, .serve, .obs]) (by simp) (by simp)) (Dev.issued_only _ _ _)
      (List.Subset.refl _) (List.Subset.refl _)
  · by_cases hl : l ∈ (d.cluster c).sequencer.ended <;> simp [hl]

end

/-! ### Receptions, injections and copied blocks (R108, R212, R217, R435, R438) -/

/-- The arrivals that a reception waits for: rows, and output blocks from 512 on. -/
def recvKeys : RecvSrc → List Nat
  | .mesh rows blocks => rows ++ blocks.map (512 + ·)
  | .base _ rows => rows

/-- Every arrival of a list has come. -/
def Dev.arrived (d : Dev) (c : Nat) (keys : List Nat) : Bool :=
  keys.all fun k => (d.cluster c).arrivals.any fun e => e.1 == k && decide (5 * e.2 ≤ d.rst.rootCount.toNat)

/-- The cluster without the arrivals that it has taken. -/
def Cluster.taken (x : Cluster) (keys : List Nat) : Cluster := { x with arrivals := x.arrivals.filter fun e => !keys.contains e.1 }

/-- The stall code of a reception of what has not come. -/
def Dev.recvCode (d : Dev) (c : Nat) : RecvSrc → BitVec 4
  | .mesh .. => if (d.clusterOwner c).any fun p => d.dahliaWaits p then 0xA else 1
  | .base kind _ => if kind = 2 then 5 else 4

section
variable (d : Dev) (c pl : Nat)

theorem Dev.receive_takes {src : RecvSrc} (h : d.arrived c (recvKeys src) = true) :
    d.receive c pl src = (d.updCluster c (·.taken (recvKeys src))).issued c pl := if_pos h

theorem Dev.receive_waits {src : RecvSrc} (h : ¬ d.arrived c (recvKeys src) = true) :
    ∃ x, d.receive c pl src = (d.updSeq c (·.receives)).stalled c pl (d.recvCode c src) x := by
  unfold Dev.receive
  cases src with
  | mesh rows blocks =>
    refine ⟨true, (if_neg h).trans (congrArg (Dev.stalled _ c pl · true) ?_)⟩
    unfold Dev.recvCode
    rw [show Dev.clusterOwner (d.updSeq c _) c = d.clusterOwner c from rfl]
    cases d.clusterOwner c <;> rfl
  | base kind rows => exact ⟨false, if_neg h⟩

/-- An injection in held mode waits for its sublayer. -/
theorem Dev.inject_holds {slots : List Nat} {out : Option Nat} (h : (d.heldAt c && out.any fun l => !d.layerDone c l) = true) :
    d.inject c pl slots out = (d.updSeq c (·.holds)).stalled c pl 7 true := if_pos h

theorem Dev.inject_goes {slots : List Nat} {out : Option Nat} (h : ¬ (d.heldAt c && out.any fun l => !d.layerDone c l) = true) :
    d.inject c pl slots out = (d.updSeq c (·.goes)).atSlot c pl slots fun d => d.issued c pl := if_neg h

/-- An output block is written, a copy captured, and the action issued. -/
def Dev.writeOut (d : Dev) (c pl p block row : Nat) (fmt : BitVec 3) (t : BlockTag) : Dev :=
  ((d.outputBlock c block row fmt).1.captureBlock p c t (fmt.setWidth 4) 32 (d.outputBlock c block row fmt).2).issued c pl

theorem Dev.outputAction_tagged {p block row : Nat} {fmt : BitVec 3} {t : BlockTag} (hp : d.clusterOwner c = some p) :
    d.outputAction c pl block row fmt (some t) = if d.watched p t then d.atSlot c pl t.slots (fun d => d.writeOut c pl p block row fmt t)
      else d.writeOut c pl p block row fmt t := by
  unfold Dev.outputAction
  rw [hp]
  rfl

end

/-- A block whose copy was captured has been written, and is EMPTY. -/
theorem Dev.writeOut_done (d : Dev) (c l pl p b row : Nat) (fmt : BitVec 3) (t : BlockTag) :
    ((((d.entered c l).writeOut c pl p b row fmt t).cluster c).sequencer.pc = (d.cluster c).sequencer.pc + 1
      ∧ (((d.entered c l).writeOut c pl p b row fmt t).cluster c).sequencer.stall = 0)
    ∧ d.only ((d.entered c l).writeOut c pl p b row fmt t) [.array, .serve, .obs]
    ∧ ∀ n, 32 * b ≤ n → n < 32 * b + 32 → ((d.entered c l).writeOut c pl p b row fmt t).accLane c n = Lane.fresh := by
  obtain ⟨d₁, ⟨hpc, hk⟩, ho, e⟩ := (d.entered c l).outputBlock_done c b row fmt
  unfold Dev.writeOut
  rw [e]
  have hx := d₁.captureBlock_only p c t (fmt.setWidth 4) 32 ((d.entered c l).outputBlock c b row fmt).2
  revert hx
  generalize d₁.captureBlock p c t (fmt.setWidth 4) 32 ((d.entered c l).outputBlock c b row fmt).2 = d₂
  intro hx
  have hc : ∀ y, d₂.cluster y = d₁.cluster y := Dev.cluster_of_array (hx .array (by simp))
  refine ⟨Dev.issued_of_pc ?_ pl, Dev.only_mono (Dev.act_only (Dev.only_then ho hx (cs := [.array, .obs]) (by simp) (by simp))) (by simp),
    fun n h₁ h₂ => ?_⟩
  · rw [hc]
    exact hpc.trans (d.pc_entered c l)
  · rw [Dev.accLane_issued, Dev.accLane, hc]
    exact (hk n).trans (if_pos ⟨h₁, h₂⟩)

/-! ### Each action in the slot of a sublayer (R212) -/

/-- The sequencer of cluster `c` has issued an action. -/
def Dev.IssuedAt (c : Nat) (d d' : Dev) : Prop :=
  (d'.cluster c).sequencer.pc = (d.cluster c).sequencer.pc + 1 ∧ (d'.cluster c).sequencer.stall = 0

/-- The sequencer of cluster `c` waits under a stall code. -/
def Dev.WaitsAt (c : Nat) (d d' : Dev) (code : BitVec 4) : Prop :=
  (d'.cluster c).sequencer.pc = (d.cluster c).sequencer.pc ∧ (d'.cluster c).sequencer.stall = code

section
variable (d : Dev) (c l pl : Nat)

/-- An operation of a tile in service is issued when its tile is free and admitted. -/
theorem Dev.tileOp_issuesOrWaits {t k : Nat} (hp : d.physOf c t = some k) (ho : d.onStandIn c t = false) :
    (if d.tileStall k = 0 then Dev.IssuedAt c d ((d.entered c l).act c l pl (.tileOp t))
      else Dev.WaitsAt c d ((d.entered c l).act c l pl (.tileOp t)) (d.tileStall k))
    ∧ ∀ j, ((d.entered c l).act c l pl (.tileOp t)).tile j = d.tile j := by
  have hpc := d.pc_entered c l
  rw [Dev.act_tileOp (d.entered c l) c l pl ((Dev.physOf_updSeq _ _ _ _ _).trans hp) ((Dev.onStandIn_updSeq _ _ _ _ _).trans ho),
    show (d.entered c l).tileStall k = d.tileStall k from Dev.tileStall_updSeq _ _ _ _]
  by_cases h0 : d.tileStall k = 0
  · rw [if_pos h0, if_pos h0]
    exact ⟨Dev.issued_of_pc ((congrArg Seq.pc (Dev.sequencer_unwait _ _ _ _)).trans hpc) pl, fun j => Dev.tile_issued _ _ _ j⟩
  · rw [if_neg h0, if_neg h0]
    split
    · refine ⟨Dev.stalled_of_pc ((congrArg Seq.pc (Dev.sequencer_await _ _ _ _ _)).trans hpc) pl _ _, fun j => ?_⟩
      rw [Dev.tile_stalled, Dev.tile_await]
      rfl
    · exact ⟨Dev.stalled_of_pc hpc pl _ _, fun j => Dev.tile_stalled _ _ _ _ _ j⟩

theorem Dev.tileOp_standIn_issues {t : Nat} (ht : d.physOf c t = none ∨ d.onStandIn c t = true) :
    Dev.IssuedAt c d ((d.entered c l).act c l pl (.tileOp t)) ∧ d.only ((d.entered c l).act c l pl (.tileOp t)) [.array, .serve, .obs] := by
  rw [Dev.act_tileOp_standIn (d.entered c l) c l pl (ht.imp (Dev.physOf_updSeq _ _ _ _ _).trans (Dev.onStandIn_updSeq _ _ _ _ _).trans)]
  exact ⟨Dev.issued_of_pc (d.pc_entered c l) pl, Dev.only_mono (Dev.act_only (Dev.only_refl _ [])) (by simp)⟩

theorem Dev.edgeRead_issuesOrWaits (t : Nat) : d.only ((d.entered c l).act c l pl (.edgeRead t)) [.array, .serve, .obs]
    ∧ if d.resultStall (64 * c + t) (fun _ => true) = 0 then Dev.IssuedAt c d ((d.entered c l).act c l pl (.edgeRead t))
      else Dev.WaitsAt c d ((d.entered c l).act c l pl (.edgeRead t)) (d.resultStall (64 * c + t) fun _ => true) := by
  rw [Dev.act_edgeRead, show (d.entered c l).resultStall (64 * c + t) (fun _ => true) = d.resultStall (64 * c + t) fun _ => true from
    Dev.resultStall_updSeq _ _ _ _ _]
  split
  · exact ⟨Dev.only_mono (Dev.act_only (Dev.only_refl _ [])) (by simp), Dev.issued_of_pc (d.pc_entered c l) pl⟩
  · exact ⟨Dev.only_then (d.entered_only c l) (Dev.stalled_only _ _ _ _ _) (by simp) (by simp),
      Dev.stalled_of_pc (d.pc_entered c l) pl _ _⟩

theorem Dev.endPair_issuesOrWaits : d.only ((d.entered c l).act c l pl .endPair) [.array, .serve, .obs]
    ∧ if d.pairStall c l = 0 then Dev.IssuedAt c d ((d.entered c l).act c l pl .endPair)
        ∧ l ∈ (((d.entered c l).act c l pl .endPair).cluster c).sequencer.ended
        ∧ ((d.cluster c).sequencer.enter l).late ≤ (((d.entered c l).act c l pl .endPair).cluster c).sequencer.late
      else Dev.WaitsAt c d ((d.entered c l).act c l pl .endPair) (d.pairStall c l) := by
  have hs : (d.entered c l).pairStall c l = d.pairStall c l := Dev.pairStall_updSeq _ _ _ _ _
  have e : (d.entered c l).act c l pl .endPair = (d.entered c l).endPair c l pl := rfl
  have hq : ((d.entered c l).cluster c).sequencer = (d.cluster c).sequencer.enter l := Dev.sequencer_updSeq_same _ _ _
  rw [e]
  by_cases h : d.pairStall c l = 0
  · obtain ⟨ho, hpc, hst, hl, hlate⟩ := (d.entered c l).endPair_ends c l pl (hs.trans h)
    rw [if_pos h]
    rw [hq] at hpc hlate
    exact ⟨Dev.only_then (d.entered_only c l) ho (by simp) (by simp), ⟨hpc.trans (congrArg (· + 1) (Seq.pc_enter _ l)), hst⟩, hl, hlate⟩
  · obtain ⟨due, x, e⟩ := (d.entered c l).endPair_waits c l pl (hs.symm ▸ h)
    rw [e]
    rw [if_neg h, hs]
    exact ⟨Dev.only_then (d.entered_only c l) (Dev.stalled_only _ _ _ _ _) (by simp) (by simp),
      Dev.stalled_of_pc (d.pc_entered c l) due _ _⟩

theorem Dev.residualAdd_issues (dst a b n : Nat) : Dev.IssuedAt c d ((d.entered c l).act c l pl (.correction (.residualAdd dst a b n)))
    ∧ d.only ((d.entered c l).act c l pl (.correction (.residualAdd dst a b n))) [.array, .serve, .obs]
    ∧ ∀ r, r ≠ dst / 512 → SMap.get (0 : BitVec 4096) (((d.entered c l).act c l pl (.correction (.residualAdd dst a b n))).cluster c).spad r
      = SMap.get 0 (d.cluster c).spad r := by
  have hk := (d.entered c l).keeps_residualAdd c dst a b n
  exact ⟨Dev.issued_after Prod.fst (fun _ => rfl) hk, Dev.only_mono (Dev.act_only hk.only) (by simp), fun r hr =>
    Dev.spad_after hk (by simpa using hr)⟩

theorem Dev.otherCorrection_issues (rows : List Nat) : Dev.IssuedAt c d ((d.entered c l).act c l pl (.correction (.other rows)))
    ∧ d.only ((d.entered c l).act c l pl (.correction (.other rows))) [.array, .serve, .obs, .fresh]
    ∧ ∀ r, r ∉ rows → SMap.get (0 : BitVec 4096) (((d.entered c l).act c l pl (.correction (.other rows))).cluster c).spad r
      = SMap.get 0 (d.cluster c).spad r := by
  have hk := (d.entered c l).keeps_freeRows c rows
  refine ⟨Dev.issued_after Prod.fst (fun _ => rfl) hk, Dev.only_mono (Dev.act_only hk.only) (by simp), fun r hr => ?_⟩
  exact Dev.spad_after hk hr

/-- A reception takes what has come, or waits for it. -/
theorem Dev.receive_takesOrWaits (src : RecvSrc) : d.only ((d.entered c l).act c l pl (.receive src)) [.array, .serve, .obs]
    ∧ if d.arrived c (recvKeys src) = true then Dev.IssuedAt c d ((d.entered c l).act c l pl (.receive src))
        ∧ ∀ e ∈ (((d.entered c l).act c l pl (.receive src)).cluster c).arrivals, e.1 ∉ recvKeys src
      else Dev.WaitsAt c d ((d.entered c l).act c l pl (.receive src)) (d.recvCode c src) := by
  have hthere : (d.entered c l).arrived c (recvKeys src) = d.arrived c (recvKeys src) := by
    rw [Dev.arrived, Dev.entered, Dev.arrivals_updSeq]
    rfl
  have hcode : (d.entered c l).recvCode c src = d.recvCode c src := by cases src <;> rfl
  rw [show (d.entered c l).act c l pl (.receive src) = (d.entered c l).receive c pl src from rfl, ← hthere]
  by_cases h : (d.entered c l).arrived c (recvKeys src) = true
  · have ha := (Dev.keeps_issued (g := fun _ => ()) (h := Cluster.arrivals) (fun _ _ => rfl)
      ((d.entered c l).updCluster c (·.taken (recvKeys src))) c pl).cluster c
    have hk : Dev.Keeps (fun _ : Tile => ()) Cluster.pcNow [.array] (d.entered c l)
      ((d.entered c l).updCluster c (·.taken (recvKeys src))) := Dev.keeps_updCluster _ c fun _ => rfl
    rw [Dev.receive_takes _ c pl h, if_pos h]
    refine ⟨Dev.only_mono (Dev.act_only hk.only) (by simp), Dev.issued_after id (fun _ => rfl) hk, fun e he => ?_⟩
    rw [ha, Dev.cluster_updCluster_same] at he
    simpa using (List.mem_filter.mp he).2
  · obtain ⟨x, e⟩ := (d.entered c l).receive_waits c pl h
    rw [e, if_neg h, ← hcode]
    exact ((d.prepared_entered c l).updSeq (f := (·.receives)) fun _ => rfl).stalled pl ((d.entered c l).recvCode c src) x

theorem Dev.barrier_waits : (((d.entered c l).act c l pl .barrier).cluster c).sequencer.atBarrier = true
    ∧ (((d.entered c l).act c l pl .barrier).cluster c).sequencer.pc = (d.cluster c).sequencer.pc
    ∧ d.only ((d.entered c l).act c l pl .barrier) [.array] := by
  change ((Dev.updSeq _ c _).cluster c).sequencer.atBarrier = true ∧ ((Dev.updSeq _ c _).cluster c).sequencer.pc = _ ∧ d.only (Dev.updSeq _ c _) _
  rw [Dev.sequencer_updSeq_same]
  exact ⟨rfl, d.pc_entered c l, Dev.only_trans (d.entered_only c l) (Dev.updSeq_only _ _ _)⟩

/-- An injection waits for its sublayer in held mode, or for a later slot, or is issued. -/
theorem Dev.inject_issuesOrWaits (slots : List Nat) (out : Option Nat) :
    d.only ((d.entered c l).act c l pl (.inject slots out)) [.array, .serve, .obs]
    ∧ ((d.heldAt c && out.any fun x => !d.layerDone c x) = true → Dev.WaitsAt c d ((d.entered c l).act c l pl (.inject slots out)) 7
        ∧ (((d.entered c l).act c l pl (.inject slots out)).cluster c).sequencer.holding = true)
    ∧ (¬ (d.heldAt c && out.any fun x => !d.layerDone c x) = true →
        (d.SlotComes c pl slots → Dev.IssuedAt c d ((d.entered c l).act c l pl (.inject slots out)))
        ∧ (¬ d.SlotComes c pl slots → Dev.WaitsAt c d ((d.entered c l).act c l pl (.inject slots out)) 1)) := by
  have hheld : ((d.entered c l).heldAt c && out.any fun x => !(d.entered c l).layerDone c x) = (d.heldAt c && out.any fun x => !d.layerDone c x) := by
    simp only [Dev.entered, Dev.heldAt_updSeq, Dev.layerDone_updSeq _ _ _ (fun q => Seq.ended_enter q l)]
  have hcomes : ((d.entered c l).updSeq c (·.goes)).SlotComes c pl slots ↔ d.SlotComes c pl slots :=
    (Dev.slotComes_updSeq _ c (f := (·.goes)) (fun _ => rfl) (fun _ => rfl) pl slots).trans
      (Dev.slotComes_updSeq d c (fun q => Seq.base_enter q l) (fun q => Seq.slotAt_enter q l) pl slots)
  rw [show (d.entered c l).act c l pl (.inject slots out) = (d.entered c l).inject c pl slots out from rfl, ← hheld]
  by_cases h : ((d.entered c l).heldAt c && out.any fun x => !(d.entered c l).layerDone c x) = true
  · obtain ⟨ho, hw⟩ := ((d.prepared_entered c l).updSeq (f := (·.holds)) fun _ => rfl).stalled pl 7 true
    rw [Dev.inject_holds _ c pl h]
    refine ⟨ho, fun _ => ⟨hw, ?_⟩, fun hn => absurd h hn⟩
    rw [Dev.sequencer_stalled, Dev.sequencer_updSeq_same]
    rfl
  · have hg : Dev.Prepared c d ((d.entered c l).updSeq c (·.goes)) := (d.prepared_entered c l).updSeq (f := (·.goes)) fun _ => rfl
    rw [Dev.inject_goes _ c pl h]
    by_cases hl : d.SlotComes c pl slots
    · rw [Dev.atSlot_of_comes (hcomes.mpr hl)]
      obtain ⟨ho, hi⟩ := hg.issued pl
      exact ⟨ho, fun hn => absurd hn h, fun _ => ⟨fun _ => hi, fun hn => absurd hl hn⟩⟩
    · obtain ⟨n, x, e⟩ := Dev.atSlot_of_waits (fun hc => hl (hcomes.mp hc)) fun d => d.issued c pl
      obtain ⟨ho, hw⟩ := (hg.updSeq (f := (·.forSlot n)) fun _ => rfl).stalled pl 1 x
      rw [e]
      exact ⟨ho, fun hn => absurd hn h, fun _ => ⟨fun hn => absurd hn hl, fun _ => hw⟩⟩

theorem Dev.outputBlock_issues (b row : Nat) (fmt : BitVec 3) : Dev.IssuedAt c d ((d.entered c l).act c l pl (.outputBlock b row fmt none))
    ∧ d.only ((d.entered c l).act c l pl (.outputBlock b row fmt none)) [.array, .serve, .obs]
    ∧ ∀ n, ((d.entered c l).act c l pl (.outputBlock b row fmt none)).accLane c n
      = if 32 * b ≤ n ∧ n < 32 * b + 32 then Lane.fresh else d.accLane c n := by
  obtain ⟨d₁, hk, ho, e⟩ := (d.entered c l).outputBlock_done c b row fmt
  have ha : (d.entered c l).act c l pl (.outputBlock b row fmt none) = d₁.issued c pl := congrArg (Dev.issued · c pl) e
  rw [ha]
  refine ⟨Dev.issued_of_pc (hk.1.trans (d.pc_entered c l)) pl, Dev.only_mono (Dev.act_only ho) (by simp), fun n => ?_⟩
  rw [Dev.accLane_issued, hk.2, Dev.accLane_entered]

/-- A block that a watch copies waits for a slot of its circuit; else it is written and issued. -/
theorem Dev.outputBlock_copiesOrWaits {p : Nat} (b row : Nat) (fmt : BitVec 3) (t : BlockTag) (hp : d.clusterOwner c = some p) :
    d.only ((d.entered c l).act c l pl (.outputBlock b row fmt (some t))) [.array, .serve, .obs]
    ∧ ((d.watched p t = true → d.SlotComes c pl t.slots) → Dev.IssuedAt c d ((d.entered c l).act c l pl (.outputBlock b row fmt (some t)))
        ∧ ∀ n, 32 * b ≤ n → n < 32 * b + 32 → ((d.entered c l).act c l pl (.outputBlock b row fmt (some t))).accLane c n = Lane.fresh)
    ∧ (¬ (d.watched p t = true → d.SlotComes c pl t.slots) →
        Dev.WaitsAt c d ((d.entered c l).act c l pl (.outputBlock b row fmt (some t))) 1) := by
  have hcomes : (d.entered c l).SlotComes c pl t.slots ↔ d.SlotComes c pl t.slots :=
    Dev.slotComes_updSeq d c (fun q => Seq.base_enter q l) (fun q => Seq.slotAt_enter q l) pl t.slots
  have hw : (d.entered c l).watched p t = d.watched p t := rfl
  obtain ⟨hi, ho, hl⟩ := d.writeOut_done c l pl p b row fmt t
  rw [show (d.entered c l).act c l pl (.outputBlock b row fmt (some t)) = (d.entered c l).outputAction c pl b row fmt (some t) from rfl,
    Dev.outputAction_tagged (d.entered c l) c pl hp, hw]
  by_cases h : d.watched p t = true
  · rw [if_pos h]
    by_cases hs : d.SlotComes c pl t.slots
    · rw [Dev.atSlot_of_comes (hcomes.mpr hs)]
      exact ⟨ho, fun _ => ⟨hi, hl⟩, fun hn => absurd (fun _ => hs) hn⟩
    · obtain ⟨n, x, e⟩ := Dev.atSlot_of_waits (fun hc => hs (hcomes.mp hc)) fun d => d.writeOut c pl p b row fmt t
      obtain ⟨ho, hw⟩ := ((d.prepared_entered c l).updSeq (f := (·.forSlot n)) fun _ => rfl).stalled pl 1 x
      rw [e]
      exact ⟨ho, fun hc => absurd (hc h) hs, fun _ => hw⟩
  · rw [if_neg h]
    exact ⟨ho, fun _ => ⟨hi, hl⟩, fun hn => absurd (fun hc => absurd hc h) hn⟩

theorem Dev.readLanes_issues (b row half : Nat) : Dev.IssuedAt c d ((d.entered c l).act c l pl (.readLanes b row half))
    ∧ d.only ((d.entered c l).act c l pl (.readLanes b row half)) [.array, .serve, .obs]
    ∧ ∀ n, (n < 32 * b ∨ 32 * b + 32 ≤ n) → ((d.entered c l).act c l pl (.readLanes b row half)).accLane c n = d.accLane c n := by
  obtain ⟨d₁, ws, hk, e, hw⟩ := (d.entered c l).readLanes_cases c b row half
  have hl := d₁.addsLanes_mergeLanes c b ws
  have ha : (d.entered c l).act c l pl (.readLanes b row half) = (d₁.mergeLanes c b ws).issued c pl := congrArg (Dev.issued · c pl) e
  rw [ha]
  refine ⟨Dev.issued_of_pc ?_ pl, Dev.only_mono (Dev.act_only (Dev.only_trans hk.only hl.only)) (by simp), fun n hn => ?_⟩
  · rw [hl.field (fun x => x.sequencer.pc) fun _ _ => rfl]
    exact (congrArg Prod.fst (hk.cluster c)).trans (d.pc_entered c l)
  · rw [Dev.accLane_issued, Dev.accLane_mergeLanes_other _ c b (by rw [hw]; exact hn), show d₁.accLane c n = d.accLane c n from
      (congrArg (SMap.get Lane.fresh · n) (congrArg Prod.snd (hk.cluster c))).trans (Dev.accLane_entered n)]

theorem Dev.windowWrite_issues (pos : Nat) (w : BitVec 12) (e : U16) (o : BitVec 24) {body : List Byte} (h₁ : 1 ≤ body.length)
    (h₂ : body.length ≤ 65536) : d.only ((d.entered c l).act c l pl (.windowWrite pos w e o body)) [.array, .serve, .obs, .link, .host]
    ∧ Dev.IssuedAt c d ((d.entered c l).act c l pl (.windowWrite pos w e o body))
    ∧ ((d.entered c l).act c l pl (.windowWrite pos w e o body)).link.nextXfer = d.link.nextXfer + 1
    ∧ ∃ m, ((d.entered c l).act c l pl (.windowWrite pos w e o body)).host.sent = d.host.sent ++ [.windowWrite pos m] ∧ m.windowId = w
      ∧ m.epoch = e ∧ m.offset = o ∧ m.body = body ∧ m.xfer = d.link.nextXfer := by
  obtain ⟨ho, hx, m, hm, hrest⟩ := (d.entered c l).sendWindow_sends c pos w e o h₁ h₂
  have hi := ((d.entered c l).sendWindow c pos w e o body).issued_only c pl
  rw [show (d.entered c l).act c l pl (.windowWrite pos w e o body) = ((d.entered c l).sendWindow c pos w e o body).issued c pl from rfl]
  refine ⟨Dev.only_mono (Dev.act_only ho) (by simp), Dev.issued_of_pc ?_ pl, ?_, m, ?_, ?_⟩
  · rw [Dev.cluster_of_array (ho .array (by simp))]
    exact d.pc_entered c l
  · exact (congrArg LinkBlk.nextXfer (hi .link (by simp))).trans hx
  · exact (congrArg HostBlk.sent (hi .host (by simp))).trans hm
  · exact hrest

theorem Dev.kvWrite_issues (h : U32) (stream : Nat) (vs : List U16) : Dev.IssuedAt c d ((d.entered c l).act c l pl (.kvWrite h stream vs))
    ∧ d.only ((d.entered c l).act c l pl (.kvWrite h stream vs)) [.array, .serve, .obs] := by
  have hk := (d.entered c l).kvWrite_only h stream vs
  refine ⟨Dev.issued_of_pc ?_ pl, Dev.only_mono (Dev.act_only hk) (by simp)⟩
  rw [Dev.cluster_of_array (hk .array (by simp))]
  exact d.pc_entered c l

theorem Dev.spadRead_issues (row : Nat) (ce ue : List Nat) : Dev.IssuedAt c d ((d.entered c l).act c l pl (.spadRead row ce ue)) := by
  have hk : Dev.KeepsPc (d.entered c l) (((d.entered c l).useRow c row).spadRead c row ce ue) :=
    ((Dev.keeps_useRow (fun _ _ => rfl) _ c row).mono (by simp)).trans (Dev.keepsPc_spadRead _ c row ce ue)
  exact Dev.issued_after id (fun _ => rfl) hk

end

/-- Settles O40: each kind of action is issued after work that keeps the program counter, or waits under the code of what it waits for. -/
theorem sequencerIssuesOrStalls : Obligations.SequencerIssuesOrStalls := by
  unfold Obligations.SequencerIssuesOrStalls
  intro s c l pl q does issued waits leaves
  refine ⟨fun hb a => exec_sequencerAction_barrier hb a, fun hb he a => ?_, fun hb he => ?_⟩
  · refine Runs.of_next (exec_sequencerAction_early hb a he) ⟨⟨?_, ?_⟩, ?_, ?_⟩
    · rw [Dev.sequencer_checkGuard, Dev.sequencer_updSeq_same]
      exact Seq.pc_enter _ _
    · rw [Dev.sequencer_checkGuard, Dev.sequencer_updSeq_same]
    · rw [Dev.sequencer_checkGuard, Dev.sequencer_updSeq_same]
    · exact Dev.only_then (Dev.updSeq_only _ _ _) (Dev.checkGuard_only _ _) (by simp) (by simp)
  have acts : ∀ (a : SeqAction) (post : Dev → Prop), post ((s.dev.entered c l).act c l pl a) → does a post := fun a post h =>
    Runs.of_next (exec_sequencerAction_acts hb a he) h
  refine ⟨fun t k hp ho => acts _ _ (s.dev.tileOp_issuesOrWaits c l pl hp ho), fun t ht => acts _ _ (s.dev.tileOp_standIn_issues c l pl ht),
    fun t => acts _ _ (s.dev.edgeRead_issuesOrWaits c l pl t), acts _ _ (s.dev.endPair_issuesOrWaits c l pl),
    fun dst a b n => acts _ _ (s.dev.residualAdd_issues c l pl dst a b n), fun rows => acts _ _ (s.dev.otherCorrection_issues c l pl rows),
    fun src => ?_, acts _ _ (s.dev.barrier_waits c l pl), fun slots out => acts _ _ ?_,
    fun b row fmt => acts _ _ (s.dev.outputBlock_issues c l pl b row fmt), fun b row fmt t p hp => acts _ _ ?_,
    fun b row half => acts _ _ (s.dev.readLanes_issues c l pl b row half),
    fun pos w e o body h₁ h₂ => acts _ _ (s.dev.windowWrite_issues c l pl pos w e o h₁ h₂),
    fun h stream vs => acts _ _ (s.dev.kvWrite_issues c l pl h stream vs), fun row ce ue => acts _ _ (s.dev.spadRead_issues c l pl row ce ue)⟩
  case refine_1 =>
    have h := s.dev.receive_takesOrWaits c l pl src
    cases src <;> exact acts _ _ h
  case refine_2 =>
    obtain ⟨ho, hh, hg⟩ := s.dev.inject_issuesOrWaits c l pl slots out
    refine ⟨ho, ?_⟩
    split
    next h => exact hh h
    next h =>
      split
      next hs => exact (hg h).1 hs
      next hs => exact (hg h).2 hs
  case refine_3 =>
    obtain ⟨ho, hi, hw⟩ := s.dev.outputBlock_copiesOrWaits c l pl b row fmt t hp
    refine ⟨ho, ?_⟩
    split
    next h => exact hi h
    next h => exact hw h

end Sys2Proof.Machine
end

section
/-! SUPPORT. The refutation of O50 (R178, R179, R189, R192, R194). Step 3 of a boundary ends a QUEUED request whose deadline has passed, CANCELLED
where a CANCEL is applied at that boundary. Step 5 of the same boundary then finds a terminal entry that ended 0 µs ago, and with REQ_HOLD at 0,
which R208 allows, its hold is over: the entry is FREE after the boundary. -/

namespace Sys2Proof.Machine

/-- The host's CANCEL of the request in entry 0 of partition 0. -/
def entryZeroCancel : FwdCmd := ⟨{ queue := 3, sqHead := 1, tag := 7, partition := 0 }, .cancel 0⟩

/-- A QUEUED request with its deadline at device time 0. -/
def dueRequest : ReqEntry := { ReqEntry.free 0 with state := .queued, dlValid := true, deadline := 0 }

/-- At device time 0 a ready package leads job 0, REQ_HOLD is written to 0 and in force, and a CANCEL waits for the due request in entry 0. -/
def cancelWithoutHold : Dev :=
  { Dev.reset with
    rst := { ResetBlk.reset with phase := .ready },
    glob := { Dev.reset.glob with regs := [(Off.reqCtl / 4, 0)], inForce := [(Off.reqCtl / 4, 0)] },
    sys := { SysBlk.reset with coordValid := true, formed := true, jobs := [(0, { valid := true, active := true, stopped := false, shape := 0 })] },
    serve := { Dev.reset.serve with jobs := [(0, { Job.idle with cmds := [(entryZeroCancel, 0)] })], table := [(0, dueRequest)] },
    part := { Dev.reset.part with inForce := [(0, { PartEntry.none with cfg := 0x8000000000000400 })] } }

/-- LEAD_BOUNDARY at a serving lead with no step in progress takes the steps of the boundary. -/
theorem exec_leadBoundary_of_idle_lead (s : State) (p : Nat) (prompts : List (Nat × List (Option U32))) (tags : List MemberTag)
    (hserving : s.dev.serving = true) (hlead : s.dev.isLead p = true) (hstep : (s.dev.job p).step = none) :
    exec (.leadBoundary p prompts tags) s =
      .next { s with dev := s.dev.leadBoundary p { prompts := prompts, tags := tags } (s.dev.endingStep p) } := by
  change execLeadBoundary p prompts tags s = _
  simp [execLeadBoundary, State.on, hserving, hlead, hstep]

theorem cancelWithoutHold_serving : cancelWithoutHold.serving = true := by decide +kernel
theorem cancelWithoutHold_isLead : cancelWithoutHold.isLead 0 = true := by decide +kernel
theorem cancelWithoutHold_jobSlots : cancelWithoutHold.jobSlots 0 = [0] := by decide +kernel
theorem cancelWithoutHold_handleError : cancelWithoutHold.handleError 0 0 = none := by decide +kernel

/-- The boundary leaves the cancelled request's entry FREE. -/
theorem cancelWithoutHold_boundary_frees :
    ((cancelWithoutHold.leadBoundary 0 { prompts := [], tags := [] } (cancelWithoutHold.endingStep 0)).req 0).state = .free := by
  decide +kernel

/-- Refutes O50: its first clause has the boundary leave the cancelled request's entry CANCELLED, but at `cancelWithoutHold` the boundary that ends
the request frees its entry. -/
theorem not_boundariesTakeWhatWaits : ¬ Obligations.BoundariesTakeWhatWaits := by
  unfold Obligations.BoundariesTakeWhatWaits
  rintro ⟨hlead, -, -⟩
  let s : State := { dev := cancelWithoutHold, pending := [] }
  obtain ⟨d', hexec, -, -, -, -, -, -, hquiet⟩ := (hlead s 0 [] []).1 cancelWithoutHold_serving cancelWithoutHold_isLead rfl
  have hnodup : (cancelWithoutHold.jobSlots 0).Nodup := by simp [cancelWithoutHold_jobSlots]
  have hslot : slotOf 0 ∈ cancelWithoutHold.jobSlots 0 := by rw [cancelWithoutHold_jobSlots]; decide
  have hcancelled : (d'.req 0).state = .cancelled :=
    ((hquiet rfl rfl rfl hnodup).1 entryZeroCancel.origin 0 0 rfl rfl cancelWithoutHold_handleError hslot rfl).1
  have hd' : d' = cancelWithoutHold.leadBoundary 0 { prompts := [], tags := [] } (cancelWithoutHold.endingStep 0) := by
    rw [exec_leadBoundary_of_idle_lead s 0 [] [] cancelWithoutHold_serving cancelWithoutHold_isLead rfl] at hexec
    simpa [s] using hexec.symm
  rw [hd', cancelWithoutHold_boundary_frees] at hcancelled
  cases hcancelled

end Sys2Proof.Machine
end

section
/-! SUPPORT. Diode conversions: the codes as published, the temperature of a good pair with its calibration trigger, and MON_DISAGREE (R134, R137,
R362, R365, R366, R367, R377). -/

namespace Sys2Proof.Machine

/-! ### The temperature trigger (R134, R137) -/

theorem Dev.calibrateTiles_only (d : Dev) (ks : List Nat) (trig : BitVec 3) : d.only (d.calibrateTiles ks trig) [.array] :=
  (Dev.keeps_calibrateTiles (g := fun _ => ()) (h := fun _ => ()) (fun _ => rfl) (fun _ _ => rfl) d ks trig).only

theorem Dev.calibrateDevice_only (d : Dev) : d.only d.calibrateDevice [.array] := by
  rw [Dev.calibrateDevice]
  exact Dev.only_trans (Dev.only_trans (d.only_array _) (Dev.calibrateTiles_only _ _ 1)) (Dev.only_array _ _)

theorem Dev.tempTrigger_only (d : Dev) : d.only d.tempTrigger [.array, .obs] := by
  unfold Dev.tempTrigger
  split
  · split
    · split
      · exact d.only_refl _
      · exact (d.only_array _).append (Dev.count_only _ _ _)
    · exact d.calibrateDevice_only.append (Dev.count_only _ _ _)
  · exact d.only_refl _

/-! ### A known temperature (R365, R394) -/

theorem Dev.takeTemp_only (d : Dev) (t : Int) : d.only (d.takeTemp t) [.power] := d.only_power _
@[simp] theorem Dev.tNow_takeTemp (d : Dev) (t : Int) : (d.takeTemp t).power.tNow = t := rfl
@[simp] theorem Dev.tKnown_takeTemp (d : Dev) (t : Int) : (d.takeTemp t).power.tKnown = true := rfl
@[simp] theorem Dev.tMax_takeTemp (d : Dev) (t : Int) :
    (d.takeTemp t).power.tMax = if d.power.tKnown then max d.power.tMax t else t := rfl
@[simp] theorem Dev.hk_takeTemp (d : Dev) (t : Int) : (d.takeTemp t).power.hk = d.power.hk := rfl
@[simp] theorem Dev.disagree_takeTemp (d : Dev) (t : Int) : (d.takeTemp t).power.disagree = d.power.disagree := rfl
@[simp] theorem Dev.badPairs_takeTemp (d : Dev) (t : Int) : (d.takeTemp t).power.badPairs = d.power.badPairs := rfl

/-- The calibration that a temperature may trigger leaves the power manager as the temperature left it. -/
theorem Dev.power_tempTrigger (d : Dev) : d.tempTrigger.power = d.power := d.tempTrigger_only .power (by simp)

/-! ### Staged limits (R367) -/

/-- A division of the budget is no part of the power block. -/
theorem Dev.power_divide (d : Dev) (b : Nat) (k : Setting) (js sel : Nat → Bool) : (d.divide b k js sel).power = d.power :=
  d.divide_only b k js sel .power (by simp)

/-- What a staged change leaves beside the limits and the jobs that are owed them. -/
theorem Dev.power_stageLimits_field {β : Type} (g : PowerBlk → β)
    (hg : ∀ p h s m o, g { p with hostLimit := h, stageLimit := s, monLimit := m, owed := o } = g p) (d : Dev) :
    g d.stageLimits.power = g d.power := by
  rw [Dev.stageLimits]
  split
  · rw [Dev.divideIdle, Dev.power_divide]
    split
    · exact hg d.power _ _ _ _
    · exact hg d.power d.power.hostLimit d.power.stageLimit d.power.monLimit _
  · rw [Dev.power_divide]
    exact hg d.power _ _ _ _

/-! ### MON_DISAGREE (R365, R377) -/

theorem Dev.budget_le_of_monLimit {d : Dev} (h : d.power.monLimit = true) : d.budget ≤ max 897 (d.power.hostLimit * 50 / 100) := by
  simp only [Dev.budget, h, if_true]
  omega

theorem Dev.alert_of_disagree {d : Dev} (h : d.power.disagree = true) : d.alert = true := by simp [Dev.alert, h]

/-- The package as MON_DISAGREE rises, its limit in force. -/
def Dev.disagreed (d : Dev) : Dev := { d with power := { d.power with disagree := true, monLimit := true, goodPairs := 0 } }

theorem Dev.disagreed_only (d : Dev) : d.only d.disagreed [.power] := d.only_power _

theorem Dev.raiseDisagree_eq {d : Dev} (h : d.power.disagree = false) :
    d.raiseDisagree = (d.disagreed.divideNow.count DC.monDisagreeEvt).notice 3 := by
  rw [Dev.raiseDisagree, if_neg (by simp [h])]
  rfl

/-- The rise touches the division, the counters and what hears of the notice. -/
theorem Dev.raiseDisagree_only {d : Dev} (h : d.power.disagree = false) :
    d.disagreed.only d.raiseDisagree [.array, .engine, .serve, .obs, .host] := by
  rw [Dev.raiseDisagree_eq h]
  exact Dev.only_mono ((d.disagreed.divideNow_only.append (Dev.count_only _ _ _)).append (Dev.notice_only _ _)) (by simp)

theorem Dev.power_raiseDisagree {d : Dev} (h : d.power.disagree = false) : d.raiseDisagree.power = d.disagreed.power :=
  Dev.raiseDisagree_only h .power (by simp)

theorem Dev.monLimit_raiseDisagree {d : Dev} (h : d.power.disagree = false) : d.raiseDisagree.power.monLimit = true := by
  rw [Dev.power_raiseDisagree h]
  rfl

theorem Dev.disagree_raiseDisagree {d : Dev} (h : d.power.disagree = false) : d.raiseDisagree.power.disagree = true := by
  rw [Dev.power_raiseDisagree h]
  rfl

theorem Dev.counter_raiseDisagree {d : Dev} (h : d.power.disagree = false) :
    d.raiseDisagree.counter DC.monDisagreeEvt = d.counter DC.monDisagreeEvt + 1 := by
  rw [Dev.raiseDisagree_eq h, Dev.counter_notice _ _ (by decide), Dev.counter_count, if_pos rfl]
  exact congrArg (fun x : ObsBlk => SMap.get 0 x.dev DC.monDisagreeEvt + 1) (d.disagreed.divideNow_only .obs (by simp))

/-- What the power manager holds beside its limits and the counts of pairs, after MON_DISAGREE clears. -/
theorem Dev.power_clearDisagree_field {β : Type} (g : PowerBlk → β)
    (hg : ∀ p h s m o, g { p with hostLimit := h, stageLimit := s, monLimit := m, owed := o } = g p) (d : Dev) :
    g d.clearDisagree.power = g { d.power with disagree := false, badPairs := 0, goodPairs := 0, tHist := [] } := by
  rw [Dev.clearDisagree, Dev.notice_only _ 4 .power (by simp)]
  exact Dev.power_stageLimits_field g hg _

/-! ### The conversion (R362, R365) -/

/-- Both codes are published in MON_HK, and the runs of bad and good pairs stand at `bad` and `good`. -/
def Dev.diodeCounted (d : Dev) (a b : BitVec 12) (bad good : Nat) : Dev :=
  let d := (d.publishHk 15 a).publishHk 31 b
  { d with power := { d.power with badPairs := bad, goodPairs := good } }

/-- MON_HK shows both diode codes. -/
def PowerBlk.ShowsDiode (p : PowerBlk) (a b : BitVec 12) : Prop :=
  SMap.get 0 p.hk 15 = (8 : BitVec 4) ++ a ∧ SMap.get 0 p.hk 31 = (8 : BitVec 4) ++ b

theorem Dev.showsDiode_diodeCounted (d : Dev) (a b : BitVec 12) (m n : Nat) : (d.diodeCounted a b m n).power.ShowsDiode a b := by
  refine ⟨?_, SMap.get_put_same _ _ _ _⟩
  exact (SMap.get_put_ne _ _ _ (by decide : 15 ≠ 31)).trans (SMap.get_put_same _ _ _ _)

theorem Dev.diodeCounted_only (d : Dev) (a b : BitVec 12) (m n : Nat) : d.only (d.diodeCounted a b m n) [.power] := d.only_power _

section
variable {s : State} {a b : BitVec 12}

/-- A good pair with no disagreement gives the temperature. -/
theorem exec_diodeConversion_good (ha : plausible a = true) (hb : plausible b = true) (hab : agree a b = true)
    (hd : s.dev.power.disagree = false) : exec (.diodeConversion a b) s
      = .next { s with dev := ((s.dev.diodeCounted a b 0 s.dev.power.goodPairs).takeTemp (tdiode a b)).tempTrigger } := by
  rw [show exec (.diodeConversion a b) s = execDiodeConversion a b s from rfl, execDiodeConversion, State.on_next]
  simp only [ha, hb, hab, Bool.and_self, if_true]
  rw [if_neg (by simp [Dev.publishHk, hd])]
  rfl

/-- A good pair while MON_DISAGREE is raised adds to the run, whose 20,000th clears it. -/
theorem exec_diodeConversion_recovers (ha : plausible a = true) (hb : plausible b = true) (hab : agree a b = true)
    (hd : s.dev.power.disagree = true) : exec (.diodeConversion a b) s
      = .next { s with dev :=
          let d := s.dev.diodeCounted a b 0 (s.dev.power.goodPairs + 1)
          if s.dev.power.goodPairs + 1 ≥ 20000 then (d.clearDisagree.takeTemp (tdiode a b)).tempTrigger else d } := by
  rw [show exec (.diodeConversion a b) s = execDiodeConversion a b s from rfl, execDiodeConversion, State.on_next]
  simp only [ha, hb, hab, Bool.and_self, if_true]
  rw [if_pos (by simpa [Dev.publishHk] using hd)]
  rfl

/-- An implausible code raises MON_DISAGREE, and so does the third disagreeing pair in a row. -/
theorem exec_diodeConversion_raises
    (h : plausible a = false ∨ plausible b = false ∨ (agree a b = false ∧ s.dev.power.badPairs ≥ 2)) :
    ∃ n, exec (.diodeConversion a b) s = .next { s with dev := (s.dev.diodeCounted a b n 0).raiseDisagree } := by
  refine ⟨if agree a b then 0 else s.dev.power.badPairs + 1, ?_⟩
  have hbad : ¬ (plausible a && plausible b && agree a b) = true := by
    obtain h | h | ⟨h, -⟩ := h <;> simp [h]
  have hraise : (!(plausible a && plausible b)) = true ∨ (if agree a b then 0 else s.dev.power.badPairs + 1) ≥ 3 := by
    obtain h | h | ⟨h, hn⟩ := h
    · simp [h]
    · simp [h]
    · exact .inr (by rw [h]; simpa using hn)
  rw [show exec (.diodeConversion a b) s = execDiodeConversion a b s from rfl, execDiodeConversion, State.on_next]
  simp only [if_neg hbad]
  refine congrArg (fun d : Dev => Host.Outcome.next ({ s with dev := d } : State)) ?_
  exact if_pos hraise

end

/-! ### What a conversion leaves -/

section
variable (s : State) {a b : BitVec 12}

theorem runs_diodeConversion_good (ha : plausible a = true) (hb : plausible b = true) (hab : agree a b = true)
    (hd : s.dev.power.disagree = false) : Runs (.diodeConversion a b) s fun d' => d'.power.ShowsDiode a b
      ∧ d'.power.tNow = tdiode a b ∧ d'.power.tKnown = true ∧ d'.power.badPairs = 0 ∧ d'.power.disagree = false
      ∧ d'.power.tMax = (if s.dev.power.tKnown then max s.dev.power.tMax (tdiode a b) else tdiode a b)
      ∧ s.dev.only d' [.power, .array, .obs] := by
  refine Runs.of_next (exec_diodeConversion_good ha hb hab hd) ⟨?_, ?_, ?_, ?_, ?_, ?_, ?_⟩
  · rw [Dev.power_tempTrigger, PowerBlk.ShowsDiode, Dev.hk_takeTemp]
    exact s.dev.showsDiode_diodeCounted a b _ _
  · rw [Dev.power_tempTrigger, Dev.tNow_takeTemp]
  · rw [Dev.power_tempTrigger, Dev.tKnown_takeTemp]
  · rw [Dev.power_tempTrigger, Dev.badPairs_takeTemp]
    rfl
  · rw [Dev.power_tempTrigger, Dev.disagree_takeTemp]
    exact hd
  · rw [Dev.power_tempTrigger, Dev.tMax_takeTemp]
    rfl
  · exact Dev.only_mono (((s.dev.diodeCounted_only a b _ _).append (Dev.takeTemp_only _ _)).append (Dev.tempTrigger_only _)) (by simp)

theorem runs_diodeConversion_raises (hd : s.dev.power.disagree = false)
    (h : plausible a = false ∨ plausible b = false ∨ (agree a b = false ∧ s.dev.power.badPairs ≥ 2)) :
    Runs (.diodeConversion a b) s fun d' => d'.power.ShowsDiode a b ∧ d'.power.disagree = true ∧ d'.power.monLimit = true
      ∧ d'.budget ≤ max 897 (d'.power.hostLimit * 50 / 100) ∧ d'.alert = true ∧ d'.power.tNow = s.dev.power.tNow
      ∧ d'.counter DC.monDisagreeEvt = s.dev.counter DC.monDisagreeEvt + 1 ∧ d'.stack = s.dev.stack ∧ d'.ledger = s.dev.ledger := by
  obtain ⟨n, e⟩ := exec_diodeConversion_raises h
  have hd' : (s.dev.diodeCounted a b n 0).power.disagree = false := hd
  have ho : s.dev.only (s.dev.diodeCounted a b n 0).raiseDisagree [.power, .array, .engine, .serve, .obs, .host] :=
    Dev.only_mono (((s.dev.diodeCounted_only a b n 0).append (Dev.disagreed_only _)).append (Dev.raiseDisagree_only hd')) (by simp)
  have hm := Dev.monLimit_raiseDisagree hd'
  have hr := Dev.disagree_raiseDisagree hd'
  refine Runs.of_next e ⟨?_, hr, hm, Dev.budget_le_of_monLimit hm, Dev.alert_of_disagree hr, ?_, ?_, ho .stack (by simp),
    ho .ledger (by simp)⟩
  · rw [Dev.power_raiseDisagree hd']
    exact s.dev.showsDiode_diodeCounted a b n 0
  · rw [Dev.power_raiseDisagree hd']
    rfl
  · rw [Dev.counter_raiseDisagree hd']
    rfl

theorem runs_diodeConversion_recovers (ha : plausible a = true) (hb : plausible b = true) (hab : agree a b = true)
    (hd : s.dev.power.disagree = true) : Runs (.diodeConversion a b) s fun d' => d'.power.ShowsDiode a b ∧
      if s.dev.power.goodPairs + 1 ≥ 20000 then d'.power.disagree = false ∧ d'.power.tNow = tdiode a b
      else d'.power.disagree = true ∧ d'.power.goodPairs = s.dev.power.goodPairs + 1 ∧ d'.power.tNow = s.dev.power.tNow := by
  have hs := s.dev.showsDiode_diodeCounted a b 0 (s.dev.power.goodPairs + 1)
  refine Runs.of_next (exec_diodeConversion_recovers ha hb hab hd) ?_
  by_cases hn : s.dev.power.goodPairs + 1 ≥ 20000
  · simp only [if_pos hn, Dev.power_tempTrigger, PowerBlk.ShowsDiode, Dev.hk_takeTemp, Dev.disagree_takeTemp, Dev.tNow_takeTemp,
      Dev.power_clearDisagree_field PowerBlk.hk fun _ _ _ _ _ => rfl, Dev.power_clearDisagree_field PowerBlk.disagree fun _ _ _ _ _ => rfl]
    exact ⟨hs, trivial, trivial⟩
  · simp only [if_neg hn]
    exact ⟨hs, hd, rfl, rfl⟩

end

/-- Settles O17, by the three kinds of pair: one taken, one that raises MON_DISAGREE, one on the way to its end. -/
theorem diodePairsSetTemperatureOrDisagree : Obligations.DiodePairsSetTemperatureOrDisagree := by
  unfold Obligations.DiodePairsSetTemperatureOrDisagree
  intro s a b good hk
  exact ⟨fun ⟨ha, hb, hab⟩ hd => runs_diodeConversion_good s ha hb hab hd, fun hd h => runs_diodeConversion_raises s hd h,
    fun ⟨ha, hb, hab⟩ hd => runs_diodeConversion_recovers s ha hb hab hd⟩

end Sys2Proof.Machine
end

section
/-! SUPPORT. The restore credit: what a restore that begins, whatever its first row reads, and a programmed tile's test leave of it (R115). -/

namespace Sys2Proof.Machine

/-! ### A failing tile keeps no credit that it had not (R66, R341, R389) -/

theorem Dev.tile_resetTile_other (d : Dev) {k j : Nat} (h : j ≠ k) : (d.resetTile k).tile j = d.tile j := by
  obtain ⟨f, -, e⟩ := d.tile_resetTile k
  rw [e, Dev.tile_updTile_other _ _ h]

theorem Dev.credit_resetTile_same (d : Dev) (k : Nat) : ((d.resetTile k).tile k).credit = 0 :=
  congrArg Tile.credit (d.tile_updTile_same k fun t =>
    { t.afterReset with state := .blank, progWait := true, ruling := t.ruling, recorded := t.recorded, spareFails := t.spareFails,
                        spareFor := t.spareFor, calibrating := t.calibrating })

section
variable {d : Dev} {k : Nat}

theorem Dev.credit_suspectTile (d : Dev) (k : Nat) (event : BitVec 4) (origin : BitVec 3) (detail : U32) :
    ((d.suspectTile k event origin detail).tile k).credit = (d.tile k).credit := by
  unfold Dev.suspectTile
  extract_lets t d₁ t' d₂ d₃ d₄ d₅
  have h₁ : (d₁.tile k).credit = (d.tile k).credit := congrArg Tile.credit (d.tile_logTile k event 0 origin detail k)
  have h₄ : (d₄.tile k).credit = (d.tile k).credit := by
    change (d₂.tile k).credit = _
    unfold d₂
    rw [Dev.tile_setTile_same]
    rfl
  have h₅ : (d₅.tile k).credit = (d.tile k).credit := by
    unfold d₅
    split
    · exact (congrArg Tile.credit (Dev.tile_of_array (Dev.mark_only _ _ .array (by simp)) k)).trans h₄
    · exact h₄
  split
  · exact h₁
  · exact h₁
  · exact h₁
  · split
    · rw [Dev.forAll_keeps (fun d => d.tile k) _ fun d v => d.tile_standIn _ _ v k]
      exact h₅
    · exact h₅

theorem Dev.seekSpare_no_credit (h : (d.tile k).credit = 0) (c l lost : Nat) : ((d.seekSpare c l lost).tile k).credit = 0 := by
  unfold Dev.seekSpare
  split
  next e j _ =>
    by_cases hj : k = j
    · rw [← hj]
      exact Dev.credit_resetTile_same _ _
    · rw [Dev.tile_resetTile_other _ hj, Dev.tile_updTile_other _ _ hj]
      exact h
  next =>
    rw [Dev.tile_of_array (Dev.event_only _ _ .array (by simp)), Dev.tile_count, Dev.tile_logTile]
    exact h

theorem Dev.failSpare_no_credit (h : (d.tile k).credit = 0) (event : BitVec 4) (origin : BitVec 3) (detail : U32) :
    ((d.failSpare k event origin detail).tile k).credit = 0 := by
  unfold Dev.failSpare
  extract_lets t c d₁ d₂ d₃ d₄ d₅
  split
  · rw [Dev.tile_updTile_field Tile.credit _ k (fun _ => by rfl)]
    exact Dev.credit_resetTile_same _ _
  · have h₅ : (d₅.tile k).credit = 0 := by
      change (d₃.tile k).credit = 0
      unfold d₃
      rw [Dev.tile_rehold, Dev.tile_updTile_field Tile.credit _ k (fun _ => by rfl), Dev.tile_logTile]
      exact h
    split
    · exact Dev.seekSpare_no_credit h₅ _ _ _
    · exact h₅

theorem Dev.failTile_no_credit (h : (d.tile k).credit = 0) (event : BitVec 4) (origin : BitVec 3) (detail : U32) :
    ((d.failTile k event origin detail).tile k).credit = 0 := by
  unfold Dev.failTile
  extract_lets d₁
  split
  · rw [Dev.tile_logTile]
    exact h
  · rw [Dev.tile_refloor, Dev.tile_leaveSweep]
    unfold d₁
    split
    · rw [Dev.credit_suspectTile]
      exact h
    · exact Dev.failSpare_no_credit h event origin detail

end

/-! ### Rows written and remapped (R55, R57) -/

theorem Dev.credit_setRow (d : Dev) (k r : Nat) (levels : List Int) (j : Nat) :
    ((d.setRow k r levels).tile j).credit = (d.tile j).credit := d.tile_updTile_field Tile.credit k (fun _ => by rfl) j

theorem Dev.credit_writeRemap (d : Dev) (k e l j : Nat) : ((d.writeRemap k e l).tile j).credit = (d.tile j).credit := by
  unfold Dev.writeRemap
  extract_lets d₁
  rw [Dev.tile_countC]
  unfold d₁
  split
  · exact d.tile_updTile_field Tile.credit k (fun _ => by rfl) j
  · exact d.tile_updTile_field Tile.credit k (fun _ => by rfl) j

/-- Spare rows are tried in turn, and none of them touches a credit. -/
theorem Dev.credit_remapRow (k : Nat) (levels : List Int) (fuel : Nat) (d : Dev) (r : Nat) (tried : List Nat) (reads : List (List Byte)) (j : Nat) :
    ((d.remapRow k r levels fuel tried reads).1.tile j).credit = (d.tile j).credit := by
  induction fuel generalizing d r tried reads with
  | zero => rfl
  | succ fuel ih =>
    rw [Dev.remapRow]
    generalize hd : d.log 1 7 2 0 (k + 32768 * r) (d.stepAt (k / 64)) 0 = d₁
    have h₁ : (d₁.tile j).credit = (d.tile j).credit := by
      rw [← hd, Dev.tile_of_array (Dev.log_only _ _ _ _ _ _ _ _ .array (by simp))]
    split
    · exact h₁
    · split
      · exact h₁
      · extract_lets w d₂
        have h₂ : (d₂.tile j).credit = (d.tile j).credit := (d₁.credit_writeRemap k _ _ j).trans h₁
        split
        · rw [Dev.credit_setRow]
          exact h₂
        · rw [ih]
          exact h₂

/-! ### A row slot (R60, R61, R115, R120) -/

section
variable {d d₁ : Dev} {k : Nat}

theorem Dev.credit_readGolden (d : Dev) (k r : Nat) (may : Bool) (j : Nat) :
    ((d.readGolden k r may).tile j).credit = (d.tile j).credit :=
  congrArg Tile.credit (Dev.tile_of_array (d.readGolden_only k r may .array (by simp)) j)

theorem Dev.RowRead.credit (h : Dev.RowRead k d d₁) : (d₁.tile k).credit = (d.tile k).credit := h.field Tile.credit fun _ _ _ _ => rfl

theorem Dev.credit_endRestore (d : Dev) (k : Nat) (x : Restore) : ((d.endRestore k x).tile k).credit = (d.tile k).credit := by
  unfold Dev.endRestore
  extract_lets c hot d₁ d₂ d₃ h
  have h₂ : (d₂.tile k).credit = (d.tile k).credit := by
    unfold d₂
    rw [Dev.tile_countC, Dev.tile_rehold]
    exact d.tile_updTile_field Tile.credit k (fun _ => by rfl) k
  have h₃ : (d₃.tile k).credit = (d.tile k).credit := by
    unfold d₃
    split
    · exact h₂
    · exact h₂
  split
  · exact (Dev.tile_ageTile_field Tile.credit (fun _ _ _ => rfl) d₃ k k).trans h₃
  · exact h₃

theorem Dev.credit_restoreNext (d : Dev) (k : Nat) (x : Restore) : ((d.restoreNext k x).tile k).credit = (d.tile k).credit := by
  unfold Dev.restoreNext
  split
  · exact d.credit_endRestore k x
  · exact d.tile_updTile_field Tile.credit k (fun _ => by rfl) k

/-- A row slot of a tile without credit, whatever it reads, leaves it without. -/
theorem Dev.restoreSlot_no_credit (h : (d.tile k).credit = 0) (x : Restore) (codes : List Byte) (reads : List (List Byte)) :
    ((d.restoreSlot k x codes reads).tile k).credit = 0 := by
  unfold Dev.restoreSlot
  extract_lets c next levels d₁ may wrong d₂ moved w d₃ x' y
  have hnext : ∀ (d₁ : Dev) (n : Nat) (x : Restore), (d₁.tile k).credit = 0 → ((next (d₁.takeSlot k n) x).tile k).credit = 0 :=
    fun d₁ n x h₁ => ((Dev.credit_restoreNext _ k x).trans (d₁.rowRead_takeSlot k n).credit).trans h₁
  clear_value next
  split
  · exact hnext d _ x h
  · have h₁ : (d₁.tile k).credit = 0 := (d.rowRead_takeRead k x.row levels codes).credit.trans h
    have h₂ : (d₂.tile k).credit = 0 := by
      unfold d₂
      split
      · exact (d₁.credit_readGolden k x.row may k).trans h₁
      · exact h₁
    split
    · exact Dev.failTile_no_credit (d := d₂.countC c CC.auditMismatch) h₂ _ _ _
    · split
      · have h₃ : (d₃.tile k).credit = 0 := h₂
        split
        · exact hnext (d₃.setRow k x'.row levels) _ x' ((d₃.credit_setRow k _ _ k).trans h₃)
        · have hy : (y.1.tile k).credit = 0 := (Dev.credit_remapRow k levels 9 d₃ x.row [] w.2.2.2 k).trans h₃
          split
          · exact hnext y.1 _ _ hy
          · exact Dev.failTile_no_credit hy _ _ _
      · exact hnext d₂ _ x h₂

end

/-! ### The slot that begins a restore (R115) -/

/-- A restore begins without credit, with or without an audit. -/
theorem Dev.credit_beginRestore (d : Dev) (k : Nat) (u : Bool) : ((d.beginRestore k u).tile k).credit = 0 := by
  unfold Dev.beginRestore
  extract_lets audit d₁
  have h : (d₁.tile k).credit = 0 := by
    unfold d₁
    rw [Dev.tile_rehold, Dev.tile_updTile_same]
  split
  · exact h
  · exact h

theorem Dev.restore_beginRestore (d : Dev) (k : Nat) (u : Bool) : ∃ x, ((d.beginRestore k u).tile k).restore = some x := by
  unfold Dev.beginRestore
  extract_lets audit d₁
  have h : (d₁.tile k).restore = some { row := 0, audit := audit, rewritten := 0, urgent := u } := by
    unfold d₁
    rw [Dev.tile_rehold, Dev.tile_updTile_same]
  split
  · exact ⟨_, h⟩
  · exact ⟨_, h⟩

theorem runs_restoreRow_no_credit {s : State} {k : Nat} {due : Bool} {row : RowReads} (hm : s.dev.restoreMay k due)
    (hs : (s.dev.tile k).state = .ready) (hr : (s.dev.tile k).restore = none) (hc : (s.dev.tile k).credit * 100 ≥ s.dev.earlyUrgent.1)
    (ha : s.dev.admits k 1 (s.dev.restoreRank k) = true) : Runs (.restoreRow k due row) s fun d' => (d'.tile k).credit = 0 := by
  obtain ⟨x, hx⟩ := ((s.dev.turnUrgent k).unwait k (s.dev.restoreRank k)).restore_beginRestore k (s.dev.restoreFirst k)
  exact Runs.of_next (exec_restoreRow_begins hm hs hr hc ha hx) (Dev.restoreSlot_no_credit (Dev.credit_beginRestore _ _ _) _ _ _)

/-! ### A test that passes (R115) -/

theorem Dev.credit_freshTile (d : Dev) (k : Nat) : ((d.freshTile k).tile k).credit = ((k % 64 : Nat) : Rat) / 256 := by
  unfold Dev.freshTile
  rw [Dev.tile_countC, Dev.tile_updTile_same]
  exact Tile.newWindow_field Tile.credit (fun _ _ _ _ _ => rfl) _ _

/-- A passed test spreads the credit over the tiles of a cluster, for a tile that becomes READY now and for one that is under repair. -/
theorem Dev.credit_testEnds (d : Dev) (k : Nat) : ((d.testEnds k false none).tile k).credit = ((k % 64 : Nat) : Rat) / 256 := by
  unfold Dev.testEnds
  dsimp only
  rw [if_neg Bool.false_ne_true]
  split
  · rw [Dev.tile_updTile_field Tile.credit _ k (fun _ => by rfl), d.credit_freshTile]
  · rw [Dev.tile_refloor, Dev.tile_updTile_field Tile.credit _ k (fun _ => by rfl), d.credit_freshTile]

theorem runs_verificationTest_credit {s : State} {k : Nat} (codes : List (List Byte × List Byte)) (hb : s.dev.power.boHold = false)
    (hs : s.dev.power.sweepLeft.contains k = false) (ht : ((s.dev.beginTest k).tile k).testing = true)
    (hp : ((s.dev.beginTest k).verifyTile k codes).2 = none) : Runs (.verificationTest k codes) s fun d' =>
      (d'.tile k).credit = (1 / 4 : Rat) * ((k % 64 : Nat) : Rat) / 64
      ∧ ((s.dev.tile k).state = .verifying → (d'.tile k).state = .ready) := by
  obtain ⟨d, hd, e⟩ := exec_verificationTest codes hb hs ht
  rw [hp] at e
  refine Runs.of_next e ⟨?_, fun hv => ?_⟩
  · rw [Dev.tile_nextTest_field Tile.credit fun _ => rfl, Dev.credit_testEnds]
    ring
  · have hn : (d.tile k).state ≠ .standin := by rw [hd.state, hv]; decide
    exact ((Dev.testPassed_testEnds hn).nextTest (k / 64)).state

/-- Settles O32: the slot that begins a restore clears the credit before it reads, and a passed test sets it. -/
theorem restoreClearsTheCreditAndProgrammingSpreadsIt : Obligations.RestoreClearsTheCreditAndProgrammingSpreadsIt := by
  unfold Obligations.RestoreClearsTheCreditAndProgrammingSpreadsIt
  exact fun s k => ⟨fun due row hs he hr hc hm ha => runs_restoreRow_no_credit ⟨he, hm⟩ hs hr hc ha,
    fun hb hsw _ ht codes hp => runs_verificationTest_credit codes hb hsw ht hp⟩

end Sys2Proof.Machine
end

section
/-! SUPPORT. Host commands that act where they arrive, away from the primary gateway: windows, graft loads, shard loads, CALIBRATE and address
watches (R134, R203, R204, R260, R264, R299, R301, R316 to R325, R438). -/

namespace Sys2Proof.Machine

/-! ### Messages and completions (R260, R266, R268) -/

section
variable {d : Dev}

theorem Dev.send_only (d : Dev) (m : OutMsg) : d.only (d.send m) [.host] := d.only_host _

/-- Away from the primary gateway a completion is a message to it. -/
theorem Dev.complete_of_member (h : d.sys.primary = false) (o : Origin) (opcode status : Byte) (result : U32) :
    d.complete o opcode status result = d.send (completionSent o opcode status result) := by
  unfold Dev.complete Dev.hostWrite
  exact if_neg (by simp [h])

/-- Messages sent in turn touch nothing else. -/
theorem Dev.forAll_send_only {α : Type} (m : α → OutMsg) (xs : List α) (d : Dev) :
    d.only (d.forAll xs fun d x => d.send (m x)) [.host] := Dev.only_forAll (fun d x => d.send_only (m x)) xs d

theorem Dev.sent_forAll_send {α : Type} (m : α → OutMsg) (xs : List α) (d : Dev) :
    (d.forAll xs fun d x => d.send (m x)).host.sent = d.host.sent ++ xs.map m := by
  induction xs generalizing d with
  | nil => exact (List.append_nil _).symm
  | cons x xs ih =>
    rw [Dev.forAll_cons, ih, List.map_cons]
    exact List.append_assoc _ [m x] _

end

/-! ### Delivery (R264) -/

/-- The package is in service away from the primary gateway, and no command of the queue waits on it for a boundary. -/
structure Dev.ActsAtOnce (d : Dev) (o : Origin) : Prop where
  serving : d.serving = true
  member : d.sys.primary = false
  alone : ∀ x ∈ (d.job o.partition).cmds, x.1.origin.queue ≠ o.queue

section
variable {s : State} {o : Origin}

theorem Dev.ActsAtOnce.deliver {d : Dev} (h : d.ActsAtOnce o) {b : FwdBody} (hw : FwdBody.waits b = false) : d.deliver ⟨o, b⟩ = d.atOnce ⟨o, b⟩ := by
  have hb : d.behindWaiting ⟨o, b⟩ = false := by
    unfold Dev.behindWaiting
    split
    · rfl
    · rw [List.any_eq_false]
      intro x hx
      simpa using h.alone x hx
  rw [Dev.deliver, if_neg (by simp [h.serving])]
  dsimp only
  rw [hw, hb, Bool.and_false, Bool.or_false, if_neg Bool.false_ne_true]

theorem Dev.ActsAtOnce.runs (h : s.dev.ActsAtOnce o) {i : Instr} {b : FwdBody} {post : Dev → Prop}
    (hi : exec i s = s.on fun d => d.deliver ⟨o, b⟩) (hw : FwdBody.waits b = false) (hp : post (s.dev.atOnce ⟨o, b⟩)) : Runs i s post :=
  Runs.of_next (by rw [hi, State.on_next, h.deliver hw]) hp

end

/-! ### Windows (R299, R301) -/

section
variable {s : State} {o : Origin}

theorem Dev.setWindow_only (d : Dev) (id : Nat) (w : Window) : d.only (d.setWindow id w) [.link] := d.only_link _

/-- A window set, and then a message: what they leave. -/
theorem Dev.setWindow_send (d : Dev) (id : Nat) (w : Window) (m : OutMsg) : d.only ((d.setWindow id w).send m) [.link, .host]
    ∧ ((d.setWindow id w).send m).window id = w ∧ (∀ j, j ≠ id → ((d.setWindow id w).send m).window j = d.window j)
    ∧ ((d.setWindow id w).send m).host.sent = d.host.sent ++ [m] :=
  ⟨(d.setWindow_only id w).append (Dev.send_only _ m), (d.window_setWindow id id w).trans (if_pos rfl),
    fun j hj => (d.window_setWindow id j w).trans (if_neg hj), rfl⟩

theorem Dev.openWindow_opens {d : Dev} (hp : d.sys.primary = false) {id : BitVec 12} {base : BitVec 23} {n : Nat} (h₁ : 1 ≤ n)
    (h₂ : n ≤ 65536) (hw : d.workspaceHolds o.partition base.toNat n = true) (hc : (d.window id.toNat).isOpen = false) :
    d.openWindow o id base n = (d.setWindow id.toNat
      { isOpen := true, partition := o.partition, base := base, blocks := n, epoch := (d.window id.toNat).epoch }).send
        (completionSent o 0x20 St.success ((d.window id.toNat).epoch.setWidth 32)) := by
  rw [Dev.openWindow, if_neg (by rw [hw]; simp; omega), if_neg (by simp [hc])]
  exact Dev.complete_of_member (d := d.setWindow _ _) hp _ _ _ _

theorem Dev.openWindow_busy {d : Dev} (hp : d.sys.primary = false) {id : BitVec 12} {base : BitVec 23} {n : Nat} (h₁ : 1 ≤ n)
    (h₂ : n ≤ 65536) (hw : d.workspaceHolds o.partition base.toNat n = true) (hc : (d.window id.toNat).isOpen = true) :
    d.openWindow o id base n = d.send (completionSent o 0x20 St.windowBusy 0) := by
  rw [Dev.openWindow, if_neg (by rw [hw]; simp; omega), if_pos hc]
  exact Dev.complete_of_member hp _ _ _ _

theorem Dev.shutWindow_closes {d : Dev} (hp : d.sys.primary = false) {id : BitVec 12} (hc : (d.window id.toNat).isOpen = true)
    (ho : (d.window id.toNat).partition = o.partition) :
    d.shutWindow o id = (d.setWindow id.toNat { d.window id.toNat with isOpen := false, epoch := (d.window id.toNat).epoch + 1 }).send
      (completionSent o 0x21 St.success (((d.window id.toNat).epoch + 1).setWidth 32)) := by
  rw [Dev.shutWindow, if_neg (by simp [hc]), if_neg (by simp [ho])]
  exact Dev.complete_of_member (d := d.closeWindow id.toNat) hp _ _ _ _

theorem runs_windowOpen_closed (h : s.dev.ActsAtOnce o) {id : BitVec 12} {base : BitVec 23} {n : Nat} (h₁ : 1 ≤ n) (h₂ : n ≤ 65536)
    (hw : s.dev.workspaceHolds o.partition base.toNat n = true) (hc : (s.dev.window id.toNat).isOpen = false) :
    Runs (.windowOpen o id base n) s fun d' => s.dev.only d' [.link, .host]
      ∧ d'.window id.toNat = { isOpen := true, partition := o.partition, base := base, blocks := n, epoch := (s.dev.window id.toNat).epoch }
      ∧ (∀ j, j ≠ id.toNat → d'.window j = s.dev.window j)
      ∧ d'.host.sent = s.dev.host.sent ++ [completionSent o 0x20 St.success ((s.dev.window id.toNat).epoch.setWidth 32)] := by
  refine h.runs (b := .windowOpen id base n) rfl rfl ?_
  rw [show s.dev.atOnce ⟨o, .windowOpen id base n⟩ = s.dev.openWindow o id base n from rfl, Dev.openWindow_opens h.member h₁ h₂ hw hc]
  exact Dev.setWindow_send _ _ _ _

theorem runs_windowOpen_busy (h : s.dev.ActsAtOnce o) {id : BitVec 12} {base : BitVec 23} {n : Nat} (h₁ : 1 ≤ n) (h₂ : n ≤ 65536)
    (hw : s.dev.workspaceHolds o.partition base.toNat n = true) (hc : (s.dev.window id.toNat).isOpen = true) :
    Runs (.windowOpen o id base n) s fun d' => s.dev.only d' [.host]
      ∧ d'.host.sent = s.dev.host.sent ++ [completionSent o 0x20 St.windowBusy 0] := by
  refine h.runs (b := .windowOpen id base n) rfl rfl ?_
  rw [show s.dev.atOnce ⟨o, .windowOpen id base n⟩ = s.dev.openWindow o id base n from rfl, Dev.openWindow_busy h.member h₁ h₂ hw hc]
  exact ⟨Dev.send_only _ _, rfl⟩

theorem runs_windowClose (h : s.dev.ActsAtOnce o) {id : BitVec 12} (hc : (s.dev.window id.toNat).isOpen = true)
    (ho : (s.dev.window id.toNat).partition = o.partition) :
    Runs (.windowClose o id) s fun d' => s.dev.only d' [.link, .host]
      ∧ d'.window id.toNat = { s.dev.window id.toNat with isOpen := false, epoch := (s.dev.window id.toNat).epoch + 1 }
      ∧ (∀ j, j ≠ id.toNat → d'.window j = s.dev.window j)
      ∧ d'.host.sent = s.dev.host.sent ++ [completionSent o 0x21 St.success (((s.dev.window id.toNat).epoch + 1).setWidth 32)] := by
  refine h.runs (b := .windowClose id) rfl rfl ?_
  rw [show s.dev.atOnce ⟨o, .windowClose id⟩ = s.dev.shutWindow o id from rfl, Dev.shutWindow_closes h.member hc ho]
  exact Dev.setWindow_send _ _ _ _

end

/-! ### Graft loads (R203, R204) -/

section
variable {s : State} {o : Origin} {id : BitVec 12} {parts : List GraftPart}

/-- The parts table names every member of the job once (log 58). -/
def Dev.partsNameMembers (d : Dev) (p : Nat) (parts : List GraftPart) : Prop :=
  ∀ m ∈ d.members p, (parts.filter fun x => x.position == m).length = 1

theorem Dev.partsNameMembers.all {d : Dev} {p : Nat} (h : d.partsNameMembers p parts) :
    (!((d.members p).all fun m => (parts.filter fun x => x.position == m).length == 1)) = false := by
  rw [Bool.not_eq_false', List.all_eq_true]
  exact fun m hm => beq_iff_eq.mpr (h m hm)

/-- The next version is live or pending. -/
def Graft.nextTaken (g : Graft) : Bool := g.live.any (fun v => v.ver == g.next) || g.pending.any (fun x => x.ver == g.next)

theorem Graft.nextTaken_eq_false {g : Graft} (hl : ∀ v ∈ g.live, v.ver ≠ g.next) (hp : ∀ x ∈ g.pending, x.ver ≠ g.next) :
    g.nextTaken = false := by
  rw [Graft.nextTaken, Bool.or_eq_false_iff, List.any_eq_false, List.any_eq_false]
  exact ⟨fun v hv => by simpa using hl v hv, fun x hx => by simpa using hp x hx⟩

theorem Dev.graftLoad_busy {d : Dev} (hp : d.sys.primary = false) (hn : d.partsNameMembers o.partition parts)
    (hb : (d.graft id.toNat).nextTaken = true) :
    d.graftLoad o id parts = (d.send (completionSent o 0x10 St.graftVersionBusy 0)).count DC.graftBusy := by
  rw [Graft.nextTaken] at hb
  rw [Dev.graftLoad, hn.all, if_neg Bool.false_ne_true, if_pos hb, Dev.refuseGraft, Dev.complete_of_member hp]
  rfl

/-- A load that fits here is pending until every other member has reported; the parts of the others go to them. -/
theorem Dev.graftLoad_pends {d : Dev} (hn : d.partsNameMembers o.partition parts) (hb : (d.graft id.toNat).nextTaken = false)
    {mine : GraftPart} (hm : parts.find? (fun x => x.position == d.sys.position) = some mine) (hs : d.partStatusOf o.partition mine = 0) :
    ∃ (xs : List GraftPart) (m : GraftPart → OutMsg), d.graftLoad o id parts = (d.updGraft id.toNat fun g =>
      { g with pending := g.pending ++ [{ origin := o, ver := (d.graft id.toNat).next, load := (d.graft id.toNat).loads,
                                          waiting := (d.members o.partition).filter (· != d.sys.position), bytes := graftBytes mine.blocks,
                                          blocks := mine.blocks }]
               loads := g.loads + 1 }).forAll xs fun d x => d.send (m x) := by
  rw [Graft.nextTaken] at hb
  rw [Dev.graftLoad, hn.all, if_neg Bool.false_ne_true, hb, if_neg Bool.false_ne_true, hm]
  dsimp only
  rw [if_neg (not_not.mpr hs)]
  exact ⟨_, _, rfl⟩

theorem runs_graftLoad_busy (h : s.dev.ActsAtOnce o) (hl : s.dev.isLead o.partition = true)
    (hn : s.dev.partsNameMembers o.partition parts) (hb : (s.dev.graft id.toNat).nextTaken = true) :
    Runs (.graftLoad o id parts) s fun d' => s.dev.only d' [.host, .obs]
      ∧ d'.host.sent = s.dev.host.sent ++ [completionSent o 0x10 St.graftVersionBusy 0]
      ∧ d'.counter DC.graftBusy = s.dev.counter DC.graftBusy + 1 := by
  refine h.runs (b := .graftLoad id parts) rfl rfl ?_
  rw [show s.dev.atOnce ⟨o, .graftLoad id parts⟩ = s.dev.graftLoad o id parts from if_pos hl, Dev.graftLoad_busy h.member hn hb]
  refine ⟨(Dev.send_only _ _).append (Dev.count_only _ _ _), rfl, ?_⟩
  rw [Dev.counter_count, if_pos rfl]
  rfl

theorem runs_graftLoad_pends (h : s.dev.ActsAtOnce o) (hl : s.dev.isLead o.partition = true)
    (hn : s.dev.partsNameMembers o.partition parts) {mine : GraftPart} (hv : ∀ v ∈ (s.dev.graft id.toNat).live, v.ver ≠ (s.dev.graft id.toNat).next)
    (hp : ∀ x ∈ (s.dev.graft id.toNat).pending, x.ver ≠ (s.dev.graft id.toNat).next)
    (hm : parts.find? (fun x => x.position == s.dev.sys.position) = some mine) (hs : s.dev.partStatusOf o.partition mine = 0) :
    Runs (.graftLoad o id parts) s fun d' => s.dev.only d' [.serve, .host]
      ∧ (d'.graft id.toNat).current = (s.dev.graft id.toNat).current ∧ (d'.graft id.toNat).live = (s.dev.graft id.toNat).live
      ∧ (∀ j, j ≠ id.toNat → d'.graft j = s.dev.graft j)
      ∧ ∃ x, (d'.graft id.toNat).pending = (s.dev.graft id.toNat).pending ++ [x] ∧ x.ver = (s.dev.graft id.toNat).next
        ∧ x.blocks = mine.blocks ∧ x.waiting = (s.dev.members o.partition).filter (· != s.dev.sys.position) := by
  refine h.runs (b := .graftLoad id parts) rfl rfl ?_
  obtain ⟨xs, m, e⟩ := Dev.graftLoad_pends (id := id) hn (Graft.nextTaken_eq_false hv hp) hm hs
  rw [show s.dev.atOnce ⟨o, .graftLoad id parts⟩ = s.dev.graftLoad o id parts from if_pos hl, e]
  generalize hd : s.dev.updGraft id.toNat _ = d₁
  have ho : s.dev.only d₁ [.serve] := by rw [← hd]; exact Dev.only_serve _ _
  have hg : ∀ j, (d₁.forAll xs fun d x => d.send (m x)).graft j = d₁.graft j := fun j =>
    congrArg (fun x : ServeBlk => SMap.get Graft.empty x.grafts j) (Dev.forAll_send_only m xs d₁ .serve (by simp))
  have hid := s.dev.graft_setGraft id.toNat id.toNat
  refine ⟨ho.append (Dev.forAll_send_only m xs d₁), ?_, ?_, fun j hj => ?_, ?_⟩
  · rw [hg, ← hd, Dev.updGraft, hid, if_pos rfl]
  · rw [hg, ← hd, Dev.updGraft, hid, if_pos rfl]
  · rw [hg, ← hd, Dev.updGraft, Dev.graft_setGraft, if_neg hj]
  · rw [hg, ← hd, Dev.updGraft, hid, if_pos rfl]
    exact ⟨_, rfl, rfl, rfl, rfl⟩

end

/-! ### Address watches (R438) -/

section
variable {s : State} {o : Origin} {w : WatchSpec}

theorem Dev.setWatch_only (d : Dev) (p i : Nat) (x : Option Watch) : d.only (d.setWatch p i x) [.obs] := d.only_obs _

theorem Dev.watch_setWatch_same (d : Dev) (p i : Nat) (x : Option Watch) : (d.setWatch p i x).watch p i = x := SMap.get_put_same _ _ _ _

theorem Dev.watch_count (d : Dev) (n k p i : Nat) : (d.count n k).watch p i = d.watch p i := rfl

/-- What an address watch must be for its arming. -/
def ArmableAtAddress (w : WatchSpec) : Prop := w.byAddress = true ∧ 64 ≤ w.bufLen ∧ (w.filter = false ∨ w.hasRows = true)

theorem ArmableAtAddress.accepted (h : ArmableAtAddress w) :
    ((!w.byAddress && w.mode = 3) || (w.filter && !w.hasRows) || w.bufLen < 64) = false := by
  obtain ⟨ha, hb, hf⟩ := h
  obtain hf | hf := hf <;> simp [ha, hf, hb]

theorem ArmableAtAddress.takesEffect (h : ArmableAtAddress w) : FwdBody.waits (.watch w) = false := by
  obtain ⟨ha, -⟩ := h
  exact congrArg not ha

theorem Dev.armWatch_arms {d : Dev} (h : ArmableAtAddress w) {i : Nat} (hi : d.freeWatch o.partition = some i) : ∃ start : U48,
    d.armWatch o w = d.setWatch o.partition i (some { origin := o, spec := w, fromStep := start, parts := [], fired := false, step := 0 }) := by
  rw [Dev.armWatch, h.accepted, if_neg Bool.false_ne_true, hi]
  exact ⟨_, rfl⟩

theorem Dev.armWatch_full {d : Dev} (hp : d.sys.primary = false) (h : ArmableAtAddress w) (hi : d.freeWatch o.partition = none) :
    d.armWatch o w = d.send (completionSent o 0x50 St.watchFull 0) := by
  rw [Dev.armWatch, h.accepted, if_neg Bool.false_ne_true, hi]
  exact Dev.complete_of_member hp _ _ _ _

/-- A watch that fires is marked, with its dump. -/
theorem Dev.fireAddress_of_watch {d : Dev} {p i : Nat} {x : Watch} (h : d.watch p i = some x) : ∃ parts step,
    d.fireAddress p i = (d.setWatch p i (some { x with parts := parts, fired := true, step := step })).count DC.watchFired := by
  rw [Dev.fireAddress, h]
  exact ⟨_, _, rfl⟩

theorem runs_watchTensor_arms (h : s.dev.ActsAtOnce o) (hw : ArmableAtAddress w) (ha : w.addr.position = s.dev.sys.position) {i : Nat}
    (hi : s.dev.freeWatch o.partition = some i) : Runs (.watchTensor o w) s fun d' => s.dev.only d' [.obs]
      ∧ ∃ x, d'.watch o.partition i = some x ∧ x.origin = o ∧ x.spec = w ∧ x.fired = !s.dev.busy := by
  refine h.runs (b := .watch w) rfl hw.takesEffect ?_
  rw [show s.dev.atOnce ⟨o, .watch w⟩ = s.dev.watchAddress o w from if_pos ha, Dev.watchAddress, hi]
  dsimp only
  obtain ⟨start, e⟩ := Dev.armWatch_arms (o := o) hw hi
  rw [e]
  cases hb : s.dev.busy with
  | true => exact ⟨s.dev.setWatch_only _ _ _, _, s.dev.watch_setWatch_same _ _ _, rfl, rfl, rfl⟩
  | false =>
    obtain ⟨parts, step, e'⟩ := Dev.fireAddress_of_watch (s.dev.watch_setWatch_same o.partition i
      (some { origin := o, spec := w, fromStep := start, parts := [], fired := false, step := 0 }))
    rw [if_neg Bool.false_ne_true, e']
    exact ⟨Dev.only_mono (((s.dev.setWatch_only _ _ _).append (Dev.setWatch_only _ _ _ _)).append (Dev.count_only _ _ _)) (by simp),
      _, (Dev.watch_count _ _ _ _ _).trans (Dev.watch_setWatch_same _ _ _ _), rfl, rfl, rfl⟩

theorem runs_watchTensor_full (h : s.dev.ActsAtOnce o) (hw : ArmableAtAddress w) (ha : w.addr.position = s.dev.sys.position)
    (hi : s.dev.freeWatch o.partition = none) : Runs (.watchTensor o w) s fun d' => s.dev.only d' [.host]
      ∧ d'.host.sent = s.dev.host.sent ++ [completionSent o 0x50 St.watchFull 0] := by
  refine h.runs (b := .watch w) rfl hw.takesEffect ?_
  rw [show s.dev.atOnce ⟨o, .watch w⟩ = s.dev.watchAddress o w from if_pos ha, Dev.watchAddress, hi]
  dsimp only
  rw [Dev.armWatch_full h.member hw hi]
  exact ⟨Dev.send_only _ _, rfl⟩

end

/-! ### CALIBRATE (R134, R137, R260) -/

/-- Tiles of a list updated in turn, where a second update changes nothing. -/
theorem Dev.tile_forAll_updTile {f : Tile → Tile} (hf : ∀ t, f (f t) = f t) (ks : List Nat) (d : Dev) (j : Nat) :
    (d.forAll ks fun d k => d.updTile k f).tile j = if j ∈ ks then f (d.tile j) else d.tile j := by
  induction ks generalizing d with
  | nil => rfl
  | cons k ks ih =>
    rw [Dev.forAll_cons, ih]
    by_cases hj : j = k
    · subst hj
      simp [Dev.tile_updTile_same, hf]
    · simp [Dev.tile_updTile_other _ f hj, hj]

/-- The tiles of the list that can be calibrated are to be calibrated; the others are as they were. -/
theorem Dev.tile_calibrateTiles (d : Dev) (ks : List Nat) (trig : BitVec 3) (j : Nat) : (d.calibrateTiles ks trig).tile j
    = if j ∈ ks.filter d.calReady then { d.tile j with calibrating := true } else d.tile j := by
  have hc : ∀ (cs : List Nat) (d : Dev), (d.forAll cs Dev.takeCal).tile j = d.tile j :=
    Dev.forAll_keeps (fun d => d.tile j) Dev.takeCal fun _ _ => rfl
  rw [Dev.calibrateTiles]
  split
  next h => rw [List.isEmpty_iff.mp h, if_neg List.not_mem_nil]
  next h =>
    exact (hc _ _).trans (Dev.tile_forAll_updTile (f := fun t => { t with calibrating := true }) (fun _ => rfl) _ _ j)

theorem Dev.finishCalibrates_only {d : Dev} (hp : d.sys.primary = false) (p : Nat) : d.only (d.finishCalibrates p) [.serve, .host] := by
  unfold Dev.finishCalibrates
  extract_lets done cs d₁
  have h : ∀ (xs : List CalCmd) (d' : Dev), d.only d' [.serve, .host] → d.only (d'.forAll xs fun d c =>
      if d.isLead p then d.complete c.origin 0x60 St.success (BitVec.ofNat 32 c.count)
      else d.send (.bulk (.calReport p d.sys.position c.count))) [.serve, .host] := fun xs d' =>
    Dev.forAll_holds (fun x => d.only x [.serve, .host]) _ (fun d' c hd => by
      have hs : d'.sys.primary = false := by rw [hd .sys (by simp)]; exact hp
      split
      · rw [Dev.complete_of_member hs]
        exact Dev.only_then hd (d'.send_only _) (List.Subset.refl _) (by simp)
      · exact Dev.only_then hd (d'.send_only _) (List.Subset.refl _) (by simp)) xs d'
  exact h _ d₁ (Dev.only_mono (d.updJob_only p _) (by simp))

/-- CALIBRATE begins calibrations, is counted, and joins the commands that wait for them. -/
theorem Dev.calibrateHere_eq (d : Dev) (o : Origin) : ∃ f : Job → Job, d.calibrateHere o
    = (((d.calibrateTiles ((d.partTiles o.partition).filter fun k => decide ((d.tile k).state = .ready)) 5).count DC.calTrigHost).updJob
        o.partition f).finishCalibrates o.partition := ⟨_, rfl⟩

theorem runs_calibrate {s : State} {o : Origin} (h : s.dev.ActsAtOnce o) (hm : s.dev.isMember o.partition = true) :
    Runs (.calibrate o) s fun d' => s.dev.only d' [.array, .serve, .host, .obs]
      ∧ (∀ k ∈ s.dev.partTiles o.partition, (s.dev.tile k).state = .ready → s.dev.calReady k = true → (d'.tile k).calibrating = true)
      ∧ (∀ k, k ∉ s.dev.partTiles o.partition → d'.tile k = s.dev.tile k)
      ∧ d'.counter DC.calTrigHost = s.dev.counter DC.calTrigHost + 1 := by
  refine h.runs (b := .calibrate) rfl rfl ?_
  obtain ⟨f, e⟩ := s.dev.calibrateHere_eq o
  rw [show s.dev.atOnce ⟨o, .calibrate⟩ = s.dev.calibrateHere o from if_pos hm, e]
  generalize hk : (s.dev.partTiles o.partition).filter (fun k => decide ((s.dev.tile k).state = .ready)) = ks
  have h₁ : s.dev.only (s.dev.calibrateTiles ks 5) [.array] := s.dev.calibrateTiles_only ks 5
  generalize hd : ((s.dev.calibrateTiles ks 5).count DC.calTrigHost).updJob o.partition f = d₁
  have h₂ : s.dev.only d₁ [.array, .obs, .serve] := by
    rw [← hd]
    exact (h₁.append (Dev.count_only _ _ _)).append (Dev.updJob_only _ _ _)
  have hp : d₁.sys.primary = false := by rw [h₂ .sys (by simp)]; exact h.member
  have ho := Dev.finishCalibrates_only hp o.partition
  have ht : ∀ k, (d₁.finishCalibrates o.partition).tile k
      = if k ∈ ks.filter s.dev.calReady then { s.dev.tile k with calibrating := true } else s.dev.tile k := fun k => by
    rw [Dev.tile_of_array (ho .array (by simp)), ← hd]
    exact s.dev.tile_calibrateTiles ks 5 k
  refine ⟨Dev.only_mono (h₂.append ho) (by simp), fun k hmem hs hr => ?_, fun k hmem => ?_, ?_⟩
  · rw [ht, if_pos (by rw [← hk]; simp [hmem, hs, hr])]
  · rw [ht, if_neg (by rw [← hk]; simp [hmem])]
  · rw [show (d₁.finishCalibrates o.partition).counter DC.calTrigHost = d₁.counter DC.calTrigHost from
      congrArg (fun x : ObsBlk => SMap.get 0 x.dev DC.calTrigHost) (ho .obs (by simp)), ← hd]
    refine ((s.dev.calibrateTiles ks 5).counter_count DC.calTrigHost 1 DC.calTrigHost).trans ((if_pos rfl).trans ?_)
    exact congrArg (fun x : ObsBlk => SMap.get 0 x.dev DC.calTrigHost + 1) (h₁ .obs (by simp))

/-! ### Banks and loads (R321 to R327) -/

section
variable (c : Commit) (b : Nat) (x : BitVec 2)

theorem Commit.state_setState_same : (c.setState b x).state b = x := by
  unfold Commit.setState Commit.state
  split <;> rfl

theorem Commit.active_setState : (c.setState b x).active = c.active := by
  unfold Commit.setState
  split <;> rfl

end

section
variable (d : Dev) (p : Nat)

theorem Dev.setCommit_only (x : Commit) : d.only (d.setCommit p x) [.stack] := d.only_stack _
theorem Dev.setBank_only (b : Nat) (x : BankInfo) : d.only (d.setBank p b x) [.stack] := d.only_stack _
theorem Dev.setLoad_only (x : Option ShardLoad) : d.only (d.setLoad p x) [.stack] := d.only_stack _

theorem Dev.commit_of_stack {d d' : Dev} (h : d'.stack = d.stack) (q : Nat) : d'.commit q = d.commit q :=
  congrArg (fun x : StackBlk => SMap.get Commit.none x.commits q) h

theorem Dev.load_of_stack {d d' : Dev} (h : d'.stack = d.stack) (q : Nat) : d'.load q = d.load q :=
  congrArg (fun x : StackBlk => SMap.get none x.loads q) h

/-- A refused access changes the stack's record of violations only. -/
theorem Dev.stack_refuseAccess : ∃ v, (d.refuseAccess p).stack = { d.stack with violationAt := v } := by
  unfold Dev.refuseAccess Dev.violation
  extract_lets at_
  split
  · exact ⟨_, Dev.event_only _ _ .stack (by simp)⟩
  · exact ⟨_, rfl⟩

theorem Dev.stack_unitWrite (a : Nat) (bs : List Byte) :
    ∃ m v, (d.unitWrite p a bs).stack = { d.stack with mem := m, violationAt := v } := by
  unfold Dev.unitWrite
  split
  · exact ⟨_, d.stack.violationAt, rfl⟩
  · obtain ⟨v, e⟩ := d.stack_refuseAccess p
    exact ⟨_, v, e⟩

theorem Dev.unitWrite_only (a : Nat) (bs : List Byte) : d.only (d.unitWrite p a bs) [.obs, .stack, .host] := by
  unfold Dev.unitWrite
  split
  · exact Dev.only_mono (d.only_stack _) (by simp)
  · exact d.refuseAccess_only p

theorem Dev.commit_unitWrite (a : Nat) (bs : List Byte) (q : Nat) : (d.unitWrite p a bs).commit q = d.commit q := by
  obtain ⟨m, v, e⟩ := d.stack_unitWrite p a bs
  exact (congrArg (fun x : StackBlk => SMap.get Commit.none x.commits q) e :)

/-- The inactive bank is marked as loading, with nothing laid. -/
def Dev.bankMarked : Dev :=
  (d.setCommit p ((d.commit p).setState (d.commit p).inactive 1)).setBank p (d.commit p).inactive BankInfo.empty

theorem Dev.bankMarked_only : d.only (d.bankMarked p) [.stack] := Dev.only_trans (d.setCommit_only p _) (Dev.setBank_only _ p _ _)

theorem Dev.commit_bankMarked (q : Nat) : (d.bankMarked p).commit q = if q = p then
    { (d.commit p).setState (d.commit p).inactive 1 with seq := (d.commit p).seq + 1 } else d.commit q := d.commit_setCommit p q _

/-- A load whose next reads are issued has the same chunks, with the tries that they had. -/
theorem Dev.issueReads_of_load {d : Dev} {p : Nat} {l : ShardLoad} (h : d.load p = some l) :
    ∃ (f : ChunkLeft → ChunkLeft) (xs : List ChunkLeft), (∀ c, (f c).n = c.n ∧ (f c).tries = c.tries) ∧ d.issueReads p
      = (d.setLoad p (some { l with chunks := l.chunks.map f })).forAll xs fun d c => d.send (.hostRead p c.addr c.length) := by
  rw [Dev.issueReads, h]
  refine ⟨_, _, fun c => ?_, rfl⟩
  split
  · exact ⟨rfl, rfl⟩
  · exact ⟨rfl, rfl⟩

end

theorem manifestChunks_n (x : Manifest) (base : U64) : (manifestChunks x base).map ChunkLeft.n = List.range x.chunks.length := by
  rw [manifestChunks, List.map_map, List.range_eq_range']
  exact List.zipIdx_map_snd 0 x.chunks

theorem manifestChunks_tries (x : Manifest) (base : U64) : ∀ c ∈ manifestChunks x base, c.tries = 0 := by
  intro c hc
  obtain ⟨w, -, rfl⟩ := List.mem_map.mp hc
  rfl

/-- The load of an accepted manifest into bank `b`. -/
def ShardEntry.accepted (e : ShardEntry) (x : Manifest) (b : Nat) : ShardLoad :=
  { version := x.version, digest := x.digest, member := e.member, bank := b, chunks := manifestChunks x e.chunkBase, got := [],
    only := none, recovery := false }

/-! ### A member begins a load (R319, R320, R325) -/

section
variable {d : Dev} {p : Nat} {e : ShardEntry}

/-- What the judgement of a manifest rests on. -/
theorem Dev.manifestOk_of_blocks {d' : Dev} (hc : d'.sec = d.sec) (hp : d'.part = d.part) (hs : d'.sys = d.sys) (m : Nat) (x : Manifest) :
    d'.manifestOk p m x = d.manifestOk p m x := by
  simp only [Dev.manifestOk, Dev.takesShards, Dev.inService, Dev.owner, Dev.ownerSlot, Dev.partIn, Dev.jobSetup, hc, hp, hs]

theorem Dev.beginLoad_takes {x : Manifest} (hx : e.manifest = some x) (hok : d.manifestOk p e.member x = true)
    (hshape : x.shaped e.manLen.toNat = true) (hsize : bytesOfPart x.chunks 3 ≤ 520093696)
    (hnew : (d.commit p).bank = none ∨ (d.commit p).version ≠ x.version) : ∃ d₁ a, d.only d₁ [.host] ∧ d.beginLoad p e
      = (((d₁.bankMarked p).unitWrite p a x.bytes).setLoad p (some (ShardEntry.accepted e x (d.commit p).inactive))).issueReads p := by
  have hn : ¬ ((d.commit p).bank.isSome = true ∧ (d.commit p).version = x.version
      ∧ (d.commit p).dig (1 - (d.commit p).inactive) = x.digest) := by
    rintro ⟨hb, hv, -⟩
    obtain h | h := hnew
    · rw [h] at hb
      cases hb
    · exact h hv
  let d₁ := d.send (.hostRead p e.manAddr e.manLen.toNat)
  refine ⟨d₁, d₁.kindBase (d.commit p).inactive + 0xF9F10000, d.send_only _, ?_⟩
  rw [Dev.beginLoad, hx]
  dsimp only
  rw [if_neg hn, if_neg, if_neg (not_lt.mpr hsize)]
  · rfl
  · change ¬ (!d.manifestOk p e.member x || !x.shaped e.manLen.toNat) = true
    rw [hok, hshape]
    exact Bool.false_ne_true

theorem Dev.beginLoad_missing (hx : e.manifest = none) : d.beginLoad p e
    = ((d.forAll (List.range 4) fun d _ => d.send (.hostRead p e.manAddr e.manLen.toNat)).bankMarked p).failLoad p St.shardMissing := by
  rw [Dev.beginLoad, hx]
  rfl

/-- An accepted manifest puts the inactive bank in the loading state, with every chunk wanted. -/
structure Dev.LoadBegun (p : Nat) (x : Manifest) (d d' : Dev) : Prop where
  only : d.only d' [.serve, .stack, .host, .obs]
  state : (d'.commit p).state (d.commit p).inactive = 1
  active : (d'.commit p).active = (d.commit p).active
  others : ∀ q, q ≠ p → d'.commit q = d.commit q
  load : ∃ l, d'.load p = some l ∧ l.version = x.version ∧ l.digest = x.digest ∧ l.recovery = false ∧ l.bank = (d.commit p).inactive
    ∧ l.chunks.map ChunkLeft.n = List.range x.chunks.length ∧ ∀ c ∈ l.chunks, c.tries = 0

theorem Dev.LoadBegun.after {d₀ d' : Dev} {x : Manifest} (h : Dev.LoadBegun p x d d') (ho : d₀.only d [.serve]) : Dev.LoadBegun p x d₀ d' := by
  have hc := Dev.commit_of_stack (ho .stack (by simp))
  obtain ⟨honly, hstate, hactive, hothers, hload⟩ := h
  rw [hc] at hstate hactive hload
  exact ⟨Dev.only_mono (ho.append honly) (by simp), hstate, hactive, fun q hq => (hothers q hq).trans (hc q), hload⟩

theorem Dev.loadBegun_beginLoad {x : Manifest} (hx : e.manifest = some x) (hok : d.manifestOk p e.member x = true)
    (hshape : x.shaped e.manLen.toNat = true) (hsize : bytesOfPart x.chunks 3 ≤ 520093696)
    (hnew : (d.commit p).bank = none ∨ (d.commit p).version ≠ x.version) : Dev.LoadBegun p x d (d.beginLoad p e) := by
  obtain ⟨d₁, a, h₁, eq⟩ := Dev.beginLoad_takes hx hok hshape hsize hnew
  set l := ShardEntry.accepted e x (d.commit p).inactive
  set d₂ := ((d₁.bankMarked p).unitWrite p a x.bytes).setLoad p (some l)
  obtain ⟨f, xs, hf, ei⟩ := Dev.issueReads_of_load (d := d₂) (p := p) (l := l) (by rw [Dev.load_setLoad, if_pos rfl])
  set d₃ := d₂.setLoad p (some { l with chunks := l.chunks.map f })
  have hr := Dev.forAll_send_only (fun c : ChunkLeft => OutMsg.hostRead p c.addr c.length) xs d₃
  have hs : (d.beginLoad p e).stack = d₃.stack := by rw [eq, ei]; exact hr .stack (by simp)
  have hc₁ : ∀ q, d₁.commit q = d.commit q := Dev.commit_of_stack (h₁ .stack (by simp))
  have hc : ∀ q, (d.beginLoad p e).commit q = (d₁.bankMarked p).commit q := fun q =>
    (Dev.commit_of_stack hs q).trans (Dev.commit_unitWrite _ p a x.bytes q)
  have hcp : (d.beginLoad p e).commit p = { (d.commit p).setState (d.commit p).inactive 1 with seq := (d.commit p).seq + 1 } := by
    rw [hc, Dev.commit_bankMarked, if_pos rfl, hc₁]
  refine ⟨?_, ?_, ?_, fun q hq => ?_, ?_⟩
  · rw [eq, ei]
    exact Dev.only_mono (((((h₁.append (d₁.bankMarked_only p)).append (Dev.unitWrite_only _ p a x.bytes)).append
      (Dev.setLoad_only _ p _)).append (Dev.setLoad_only _ p _)).append hr) (by simp)
  · rw [hcp]
    exact Commit.state_setState_same _ _ _
  · rw [hcp]
    exact Commit.active_setState _ _ _
  · rw [hc, Dev.commit_bankMarked, if_neg hq, hc₁]
  · refine ⟨{ l with chunks := l.chunks.map f }, ?_, rfl, rfl, rfl, rfl, ?_, fun c hmem => ?_⟩
    · rw [Dev.load_of_stack hs, Dev.load_setLoad, if_pos rfl]
    · rw [← manifestChunks_n x e.chunkBase, List.map_map]
      exact List.map_congr_left fun c _ => (hf c).1
    · obtain ⟨c', hc', rfl⟩ := List.mem_map.mp hmem
      exact (hf c').2.trans (manifestChunks_tries x e.chunkBase c' hc')

end

/-! ### A load that fails (R325) -/

section
variable {d : Dev}

/-- The lead completes the command, or waits on. -/
theorem Dev.finishLoad_cases (hp : d.sys.primary = false) (p : Nat) :
    d.finishLoad p = d ∨ ∃ f m, d.finishLoad p = (d.updJob p f).send m := by
  unfold Dev.finishLoad
  split
  · exact .inl rfl
  · split
    · refine .inr ?_
      extract_lets d₁
      have h₁ : d₁.sys.primary = false := hp
      split
      · exact ⟨_, _, Dev.complete_of_member h₁ _ _ _ _⟩
      · exact ⟨_, _, Dev.complete_of_member h₁ _ _ _ _⟩
    · exact .inl rfl

/-- A report is noted at the lead, and a message may follow. -/
theorem Dev.reportLoad_cases (hp : d.sys.primary = false) (p : Nat) (version : U32) (status : Byte) :
    ∃ d₁, d.only d₁ [.serve] ∧ (d.reportLoad p version status = d₁ ∨ ∃ m, d.reportLoad p version status = d₁.send m) := by
  unfold Dev.reportLoad
  split
  · exact ⟨d, d.only_refl _, .inl rfl⟩
  · split
    · unfold Dev.takeLoadReport
      extract_lets d₁
      have h₁ : d.only d₁ [.serve] := d.updJob_only p _
      obtain e | ⟨f, m, e⟩ := Dev.finishLoad_cases (d := d₁) hp p
      · exact ⟨d₁, h₁, .inl e⟩
      · exact ⟨d₁.updJob p f, Dev.only_trans h₁ (d₁.updJob_only p f), .inr ⟨m, e⟩⟩
    · exact ⟨d, d.only_refl _, .inr ⟨_, rfl⟩⟩

/-- A failed load leaves the bank invalid and nothing loading; what was sent before stays sent. -/
theorem Dev.failLoad_leaves (hp : d.sys.primary = false) (p : Nat) (status : Byte) :
    ((d.failLoad p status).commit p).state (d.commit p).inactive = 3 ∧ ((d.failLoad p status).commit p).active = (d.commit p).active
      ∧ (d.failLoad p status).load p = none ∧ d.host.sent <+: (d.failLoad p status).host.sent := by
  unfold Dev.failLoad
  extract_lets c
  set d₁ := (d.setCommit p (c.setState c.inactive 3)).setLoad p none
  obtain ⟨d₂, h₂, e⟩ := Dev.reportLoad_cases (d := d₁) hp p 0 status
  have hs : (d₁.reportLoad p 0 status).stack = d₁.stack := by
    obtain e | ⟨m, e⟩ := e <;> rw [e] <;> exact h₂ .stack (by simp)
  have hh : d₂.host = d.host := h₂ .host (by simp)
  have hc : (d₁.reportLoad p 0 status).commit p = { c.setState c.inactive 3 with seq := (d.commit p).seq + 1 } :=
    (Dev.commit_of_stack hs p).trans ((d.commit_setCommit p p _).trans (if_pos rfl))
  refine ⟨?_, ?_, ?_, ?_⟩
  · rw [hc]
    exact Commit.state_setState_same _ _ _
  · rw [hc]
    exact Commit.active_setState _ _ _
  · rw [Dev.load_of_stack hs, Dev.load_setLoad, if_pos rfl]
  · obtain e | ⟨m, e⟩ := e <;> rw [e]
    · rw [hh]
    · rw [← hh]
      exact List.prefix_append _ _

end

/-! ### LOAD_SHARD (R318, R321, R325) -/

section
variable {s : State} {o : Origin} {table : List ShardEntry} {m : Nat} {e : ShardEntry}

/-- The member may begin its part of the load: the table is complete and names it, and nothing is being loaded, drained or committed. -/
structure Dev.MayLoad (d : Dev) (p : Nat) (table : List ShardEntry) (m : Nat) (e : ShardEntry) : Prop where
  complete : d.tableComplete p table = true
  index : d.memberIndex p = some m
  entry : table.find? (fun e => e.member == m) = some e
  noLoad : (d.job p).loading = none
  noDrain : (d.job p).drain = none
  idle : d.load p = none
  noCommit : d.committing p = none

/-- The lead notes the command, and each member begins its part. -/
theorem Dev.MayLoad.begins {d : Dev} (h : d.MayLoad o.partition table m e) :
    ∃ d₁, d.only d₁ [.serve] ∧ d.loadShard o table = d₁.beginLoad o.partition e := by
  have hbusy : ¬ ((d.job o.partition).loading.isSome = true ∨ (d.job o.partition).drain.isSome = true
      ∨ (d.load o.partition).isSome = true ∨ (d.committing o.partition).isSome = true) := by
    simp [h.noLoad, h.noDrain, h.idle, h.noCommit]
  rw [Dev.loadShard, h.complete, Bool.not_true, if_neg Bool.false_ne_true, if_neg hbusy]
  set d₁ := if d.isLead o.partition then d.updJob o.partition _ else d with hd
  have honly : d.only d₁ [.serve] := by
    rw [hd]
    split
    · exact d.updJob_only _ _
    · exact d.only_refl _
  have hindex : d₁.memberIndex o.partition = some m := by
    rw [hd]
    split
    · exact h.index
    · exact h.index
  refine ⟨d₁, honly, ?_⟩
  dsimp only
  rw [hindex]
  dsimp only
  rw [h.entry]

theorem runs_loadShard_takes (h : s.dev.ActsAtOnce o) (hm : s.dev.isMember o.partition = true) (hl : s.dev.MayLoad o.partition table m e)
    {x : Manifest} (hx : e.manifest = some x) (hok : s.dev.manifestOk o.partition e.member x = true)
    (hshape : x.shaped e.manLen.toNat = true) (hsize : bytesOfPart x.chunks 3 ≤ 520093696)
    (hnew : (s.dev.commit o.partition).bank = none ∨ (s.dev.commit o.partition).version ≠ x.version) :
    Runs (.loadShard o table) s fun d' => Dev.LoadBegun o.partition x s.dev d' := by
  refine h.runs (b := .loadShard table) rfl rfl ?_
  obtain ⟨d₁, h₁, eq⟩ := hl.begins
  rw [show s.dev.atOnce ⟨o, .loadShard table⟩ = s.dev.loadShard o table from if_pos hm, eq]
  rw [← Dev.commit_of_stack (h₁ .stack (by simp))] at hnew
  rw [← Dev.manifestOk_of_blocks (h₁ .sec (by simp)) (h₁ .part (by simp)) (h₁ .sys (by simp))] at hok
  exact (Dev.loadBegun_beginLoad hx hok hshape hsize hnew).after h₁

theorem runs_loadShard_missing (h : s.dev.ActsAtOnce o) (hm : s.dev.isMember o.partition = true) (hl : s.dev.MayLoad o.partition table m e)
    (hx : e.manifest = none) : Runs (.loadShard o table) s fun d' =>
      (d'.commit o.partition).state (s.dev.commit o.partition).inactive = 3
      ∧ (d'.host.sent.filter fun m => decide (m = .hostRead o.partition e.manAddr e.manLen.toNat)).length
        ≥ (s.dev.host.sent.filter fun m => decide (m = .hostRead o.partition e.manAddr e.manLen.toNat)).length + 4
      ∧ (d'.commit o.partition).active = (s.dev.commit o.partition).active ∧ d'.load o.partition = none := by
  refine h.runs (b := .loadShard table) rfl rfl ?_
  obtain ⟨d₁, h₁, eq⟩ := hl.begins
  rw [show s.dev.atOnce ⟨o, .loadShard table⟩ = s.dev.loadShard o table from if_pos hm, eq, Dev.beginLoad_missing hx]
  set read : OutMsg := .hostRead o.partition e.manAddr e.manLen.toNat
  set d₂ := d₁.forAll (List.range 4) fun d _ => d.send read with hd₂
  have h₂ : s.dev.only d₂ [.serve, .host] := h₁.append (Dev.forAll_send_only (fun _ => read) _ d₁)
  have hc : d₂.commit o.partition = s.dev.commit o.partition := Dev.commit_of_stack (h₂ .stack (by simp)) _
  have hmark : (d₂.bankMarked o.partition).commit o.partition = { (s.dev.commit o.partition).setState (s.dev.commit o.partition).inactive 1 with
      seq := (s.dev.commit o.partition).seq + 1 } := by
    rw [Dev.commit_bankMarked, if_pos rfl, hc]
  have ha : ((d₂.bankMarked o.partition).commit o.partition).active = (s.dev.commit o.partition).active := by
    rw [hmark]
    exact Commit.active_setState _ _ _
  have hi : ((d₂.bankMarked o.partition).commit o.partition).inactive = (s.dev.commit o.partition).inactive := by
    rw [Commit.inactive, Commit.inactive, ha]
  have hp : (d₂.bankMarked o.partition).sys.primary = false := by
    rw [d₂.bankMarked_only o.partition .sys (by simp), h₂ .sys (by simp)]
    exact h.member
  obtain ⟨hstate, hactive, hload, hsent⟩ := Dev.failLoad_leaves hp o.partition St.shardMissing
  rw [hi] at hstate
  refine ⟨hstate, ?_, hactive.trans ha, hload⟩
  have hs : (d₂.bankMarked o.partition).host.sent = s.dev.host.sent ++ List.replicate 4 read := by
    rw [d₂.bankMarked_only o.partition .host (by simp), hd₂, Dev.sent_forAll_send (fun _ => read), h₁ .host (by simp)]
    rfl
  rw [hs] at hsent
  refine le_trans (le_of_eq ?_) (hsent.filter _).length_le
  simp [List.filter_append]

end

/-- Settles O49, command by command. -/
theorem stagedHostCommandsActAtTheirUnit : Obligations.StagedHostCommandsActAtTheirUnit := by
  unfold Obligations.StagedHostCommandsActAtTheirUnit
  intro s o hserving hprimary halone p
  have h : s.dev.ActsAtOnce o := ⟨hserving, hprimary, halone⟩
  refine ⟨fun id base n h₁ h₂ hw => ⟨runs_windowOpen_closed h h₁ h₂ hw, runs_windowOpen_busy h h₁ h₂ hw⟩,
    fun id hc ho => runs_windowClose h hc ho,
    fun id parts hl hn => ⟨runs_graftLoad_busy h hl hn, fun mine hv hp hm hs => runs_graftLoad_pends h hl hn hv hp hm hs⟩,
    fun table m e hm ht hi he hj hd hload hc => ?loads, runs_calibrate h,
    fun w ha hpos hb hf => ⟨fun i => runs_watchTensor_arms h ⟨ha, hb, hf⟩ hpos, runs_watchTensor_full h ⟨ha, hb, hf⟩ hpos⟩⟩
  case loads =>
    have hl : s.dev.MayLoad o.partition table m e := ⟨ht, hi, he, hj, hd, hload, hc⟩
    refine ⟨fun x hx hok hshape hsize hnew => ?_, runs_loadShard_missing h hm hl⟩
    obtain ⟨d', hexec, hb⟩ := runs_loadShard_takes h hm hl hx hok hshape hsize hnew
    exact ⟨d', hexec, hb.only, hb.state, hb.active, hb.others, hb.load⟩

end Sys2Proof.Machine
end

section
/-! SUPPORT. Host commands as they reach the lead: those that wait for its boundary, and queries of fixed data (R180, R189, R193, R194, R205,
R207, R260, R264, R284, R311). -/

namespace Sys2Proof.Machine

/-! ### Delivery (R264) -/

/-- Every command row that carries a host command delivers that command. -/
theorem exec_of_hostCmd {i : Instr} {c : FwdCmd} (h : hostCmd i = some c) (s : State) : exec i s = s.on fun d => d.deliver c := by
  unfold hostCmd at h
  split at h
  case h_14 vc x =>
    split at h
    next hvc => cases hvc; cases h; rfl
    next => cases h
  case h_15 => cases h
  all_goals cases h; rfl

/-- The command joins the end of those that wait on job `p` for the boundary of its lead. -/
def Dev.joined (d : Dev) (c : FwdCmd) : Dev := d.updJob c.origin.partition fun j => { j with cmds := j.cmds ++ [(c, d.us)] }

theorem Dev.deliver_not_serving {d : Dev} (h : d.serving = false) (c : FwdCmd) : d.deliver c = d := by
  rw [Dev.deliver, h]; rfl

theorem Dev.deliver_waits_elsewhere {d : Dev} {c : FwdCmd} (hw : FwdBody.waits c.body = true) (hl : d.isLead c.origin.partition = false) :
    d.deliver c = d := by
  rw [Dev.deliver]
  split
  · rfl
  · simp [hw, hl]

theorem Dev.deliver_waits {d : Dev} {c : FwdCmd} (hs : d.serving = true) (hl : d.isLead c.origin.partition = true)
    (hw : FwdBody.waits c.body = true ∨ d.behindWaiting c = true) : d.deliver c = d.joined c := by
  rw [Dev.deliver, if_neg (by simp [hs]), if_pos (by obtain hw | hw := hw <;> simp [hw, hl]), if_pos hl]
  rfl

theorem Dev.behindWaiting_of_queue {d : Dev} {o : Origin} {body : FwdBody} (hb : ∀ h, body ≠ .lost h)
    (hq : ∃ x ∈ (d.job o.partition).cmds, x.1.origin.queue = o.queue) : d.behindWaiting ⟨o, body⟩ = true := by
  obtain ⟨x, hx, hq⟩ := hq
  unfold Dev.behindWaiting
  split
  next h e => exact absurd e (hb h)
  next => exact List.any_eq_true.mpr ⟨x, hx, beq_iff_eq.mpr hq⟩

/-! ### What joining leaves -/

/-- Another job is as it was. -/
theorem Dev.job_updJob_other (d : Dev) {p q : Nat} (f : Job → Job) (h : q ≠ p) : (d.updJob p f).job q = d.job q :=
  (d.job_setJob p q _).trans (if_neg h)

section
variable {s : State} {o : Origin}

/-- What the statement says of a command that joins: it comes last, with the time of arrival, and nothing else changes. -/
def Dev.JoinsLast (d : Dev) (o : Origin) (body : FwdBody) (d' : Dev) : Prop :=
  d'.job o.partition = { d.job o.partition with cmds := (d.job o.partition).cmds ++ [(⟨o, body⟩, d.us)] }
    ∧ (∀ q, q ≠ o.partition → d'.job q = d.job q) ∧ d'.serve.table = d.serve.table ∧ d.only d' [.serve]

theorem Dev.joinsLast_joined (d : Dev) (o : Origin) (body : FwdBody) : d.JoinsLast o body (d.joined ⟨o, body⟩) :=
  ⟨d.job_updJob o.partition _, fun _ hq => d.job_updJob_other _ hq, rfl, d.updJob_only _ _⟩

theorem runs_joins (hs : s.dev.serving = true) (hl : s.dev.isLead o.partition = true) {i : Instr} {body : FwdBody}
    (hi : hostCmd i = some ⟨o, body⟩) (hw : FwdBody.waits body = true ∨ s.dev.behindWaiting ⟨o, body⟩ = true) :
    Runs i s (s.dev.JoinsLast o body) :=
  Runs.of_next ((exec_of_hostCmd hi s).trans (State.on_eq (Dev.deliver_waits hs hl hw))) (s.dev.joinsLast_joined o body)

/-- A command that waits for the boundary joins, direct or forwarded. -/
theorem runs_both_join (hs : s.dev.serving = true) (hl : s.dev.isLead o.partition = true) {i : Instr} {body : FwdBody}
    (hi : hostCmd i = some ⟨o, body⟩) (hw : FwdBody.waits body = true) :
    Runs i s (s.dev.JoinsLast o body) ∧ Runs (.commandReceive 2 ⟨o, body⟩) s (s.dev.JoinsLast o body) :=
  ⟨runs_joins hs hl hi (.inl hw), runs_joins hs hl rfl (.inl hw)⟩

/-! ### Queries of fixed data (R260) -/

/-- Away from the primary gateway an answer goes to it: the bytes and a completion, or a refusal where the buffer is short. -/
theorem Dev.answerQuery_of_member {d : Dev} (h : d.sys.primary = false) (o : Origin) (buf : U64) (len : Nat) (bs : List Byte) :
    d.answerQuery o buf len bs = if len < bs.length then d.send (completionSent o 0x70 St.fieldInvalid 0)
      else (d.send (.hostWrite (.buffer o.queue buf bs))).send (completionSent o 0x70 St.success (BitVec.ofNat 32 bs.length)) := by
  have hw : d.hostWrite (.buffer o.queue buf bs) = d.send (.hostWrite (.buffer o.queue buf bs)) := if_neg (by simp [h])
  rw [Dev.answerQuery, Dev.complete_of_member h, hw, Dev.complete_of_member (d := d.send _) h]

/-- The bytes that answer a QUERY of kind 2, 3 or 4. -/
def Dev.queryBytes (d : Dev) (p : Nat) (kind : Byte) (id : BitVec 12) : List Byte :=
  if kind = 2 then d.graftVersions id else if kind = 3 then d.jobMembers p else capBytes

theorem Dev.query_answers {d : Dev} {kind : Byte} (hk : (kind = 2 ∧ d.isLead o.partition = true) ∨ kind = 3 ∨ kind = 4) (c : FwdCmd)
    (hc : c.origin = o) (id : BitVec 12) (buf : U64) (len : Nat) :
    d.query c kind id buf len = d.answerQuery o buf len (d.queryBytes o.partition kind id) := by
  subst hc
  obtain ⟨rfl, hl⟩ | rfl | rfl := hk
  · simp [Dev.query, Dev.queryBytes, hl]
  · simp [Dev.query, Dev.queryBytes]
  · simp [Dev.query, Dev.queryBytes]

theorem runs_query (h : s.dev.ActsAtOnce o) {kind : Byte} (hk : (kind = 2 ∧ s.dev.isLead o.partition = true) ∨ kind = 3 ∨ kind = 4)
    (handle : U32) (id : BitVec 12) (buf : U64) (len : Nat) :
    Runs (.query o kind handle id buf len) s fun d' => s.dev.only d' [.host] ∧ d'.host.writes = s.dev.host.writes
      ∧ d'.host.sent = s.dev.host.sent ++ (if len < (s.dev.queryBytes o.partition kind id).length then [completionSent o 0x70 St.fieldInvalid 0]
        else [.hostWrite (.buffer o.queue buf (s.dev.queryBytes o.partition kind id)),
          completionSent o 0x70 St.success (BitVec.ofNat 32 (s.dev.queryBytes o.partition kind id).length)]) := by
  have hw : FwdBody.waits (.query kind handle id buf len) = false := by
    obtain ⟨rfl, -⟩ | rfl | rfl := hk <;> rfl
  refine h.runs (b := .query kind handle id buf len) rfl hw ?_
  rw [show s.dev.atOnce ⟨o, .query kind handle id buf len⟩ = s.dev.query ⟨o, .query kind handle id buf len⟩ kind id buf len from rfl,
    Dev.query_answers hk _ rfl, Dev.answerQuery_of_member h.member]
  split
  · exact ⟨s.dev.send_only _, rfl, rfl⟩
  · exact ⟨Dev.only_trans (s.dev.send_only _) (Dev.send_only _ _), rfl, List.append_assoc _ [_] [_]⟩

end

/-! ### The statement -/

/-- Settles O48: what waits joins the end, what is elsewhere is discarded, and a query of fixed data is answered. -/
theorem hostCommandsWaitForTheLeadsBoundary : Obligations.HostCommandsWaitForTheLeadsBoundary := by
  unfold Obligations.HostCommandsWaitForTheLeadsBoundary
  refine ⟨fun s o hs hl => ?waits, fun s i c hi hw hl => ?elsewhere, fun s o kind h id buf len hs hp hk ha => ?query,
    fun s i c hi hs => ?fenced, fun s vc c hvc => ?channel⟩
  case waits =>
    exact ⟨fun f => runs_both_join hs hl rfl rfl, fun h t v now => runs_both_join hs hl rfl rfl, fun h => runs_both_join hs hl rfl rfl,
      fun id => runs_both_join hs hl rfl rfl, fun t v => runs_both_join hs hl rfl rfl, fun sp => runs_both_join hs hl rfl rfl,
      fun w hw => runs_both_join hs hl rfl (congrArg not hw), fun h id b n => runs_both_join hs hl rfl rfl,
      fun body hb hq => ⟨runs_joins hs hl rfl (.inr (Dev.behindWaiting_of_queue hb hq)),
        fun i hi => runs_joins hs hl hi (.inr (Dev.behindWaiting_of_queue hb hq))⟩⟩
  case elsewhere => exact (exec_of_hostCmd hi s).trans (State.on_eq (Dev.deliver_waits_elsewhere hw hl))
  case query => exact runs_query ⟨hs, hp, ha⟩ hk h id buf len
  case fenced => exact (exec_of_hostCmd hi s).trans (State.on_eq (Dev.deliver_not_serving hs c))
  case channel => exact Runs.of_next (State.on_eq (f := fun d => if vc = 2 then d.deliver c else d.count DC.msgDiscard) (if_neg hvc)) rfl

end Sys2Proof.Machine
end

section
/-! SUPPORT. What the gateway's host writes, the end of a request and the work of Dahlia and Lupin leave as they were: the blocks they touch and
the counters they count (R145, R154, R158, R178, R252, R257, R266, R268, R269, R271, R405). -/

namespace Sys2Proof.Machine

/-! ### Blocks and counters touched -/

/-- Of the blocks only those of `bs` may have changed, and of the device counters only those of `ns`. -/
structure Dev.Touches (bs : List Blk) (ns : List Nat) (d d' : Dev) : Prop where
  only : d.only d' bs
  counter : ∀ n, n ∉ ns → d'.counter n = d.counter n

section
variable {bs cs : List Blk} {ns ms : List Nat} {d d₁ d₂ : Dev}

theorem Dev.Touches.refl : Dev.Touches bs ns d d := ⟨d.only_refl bs, fun _ _ => rfl⟩

theorem Dev.Touches.trans (h₁ : Dev.Touches bs ns d d₁) (h₂ : Dev.Touches bs ns d₁ d₂) : Dev.Touches bs ns d d₂ :=
  ⟨Dev.only_trans h₁.only h₂.only, fun n hn => (h₂.counter n hn).trans (h₁.counter n hn)⟩

theorem Dev.Touches.mono (h : Dev.Touches bs ns d d₁) (hb : bs ⊆ cs) (hn : ns ⊆ ms) : Dev.Touches cs ms d d₁ :=
  ⟨Dev.only_mono h.only hb, fun n hm => h.counter n fun he => hm (hn he)⟩

theorem Dev.Touches.forAll {α : Type} {f : Dev → α → Dev} (hf : ∀ d a, Dev.Touches bs ns d (f d a)) (xs : List α) (d : Dev) :
    Dev.Touches bs ns d (d.forAll xs f) :=
  Dev.forAll_holds (fun x => Dev.Touches bs ns d x) f (fun _ a h => h.trans (hf _ a)) xs d .refl

/-- A change beside the observation block counts nothing. -/
theorem Dev.touches_of_only (h : d.only d₁ bs) (ho : d₁.obs = d.obs) : Dev.Touches bs ns d d₁ :=
  ⟨h, fun n _ => congrArg (fun x : ObsBlk => SMap.get 0 x.dev n) ho⟩

/-- A count of one of the counters. -/
theorem Dev.touches_count {n : Nat} (hb : .obs ∈ bs) (hn : n ∈ ns) (d : Dev) (k : Nat) : Dev.Touches bs ns d (d.count n k) :=
  ⟨Dev.only_mono (d.count_only n k) (by simpa using hb), fun m hm => by
    rw [Dev.counter_count, if_neg fun e : m = n => hm (e ▸ hn)]⟩

/-- A cluster's counters are no device counters. -/
theorem Dev.touches_countC (hb : .obs ∈ bs) (d : Dev) (c n k : Nat) : Dev.Touches bs ns d (d.countC c n k) :=
  ⟨Dev.only_mono (d.countC_only c n k) (by simpa using hb), fun _ _ => rfl⟩

theorem Dev.touches_updCluster (hb : .array ∈ bs) (d : Dev) (c : Nat) (f : Cluster → Cluster) : Dev.Touches bs ns d (d.updCluster c f) :=
  Dev.touches_of_only (Dev.only_mono (d.updCluster_only c f) (by simpa using hb)) rfl

theorem Dev.touches_updJob (hb : .serve ∈ bs) (d : Dev) (p : Nat) (f : Job → Job) : Dev.Touches bs ns d (d.updJob p f) :=
  Dev.touches_of_only (Dev.only_mono (d.updJob_only p f) (by simpa using hb)) rfl

theorem Dev.touches_send (hb : .host ∈ bs) (d : Dev) (m : OutMsg) : Dev.Touches bs ns d (d.send m) :=
  Dev.touches_of_only (Dev.only_mono (d.send_only m) (by simpa using hb)) rfl

end

/-! ### Host writes (R252, R257, R266, R268, R269, R271, R296) -/

theorem Dev.only_sys (d : Dev) (x : SysBlk) : d.only { d with sys := x } [.sys] := by
  intro b hb
  cases b with
  | sys => simp at hb
  | _ => rfl

/-- The blocks that a host write may change: the gateway's, the stack's place of a context, the counters, SYMBOLS of a job, and what the primary
holds for its standby. -/
def hostBlocks : List Blk := [.host, .stack, .fresh, .obs, .serve, .sys]

/-- What counts a host write, and the end of a request. -/
def requestCounters : List Nat :=
  [DC.recNoRing, DC.msixSent, DC.qctxMiss, DC.cqWritten, DC.foxRecords, DC.reqDone, DC.reqExpired, DC.reqCancelled, DC.reqLost, DC.reqPreempted]

/-- The change is a host write's, or part of one. -/
abbrev Dev.Writes (d d' : Dev) : Prop := Dev.Touches hostBlocks requestCounters d d'

theorem Dev.writes_host (d : Dev) (x : HostBlk) : Dev.Writes d { d with host := x } :=
  Dev.touches_of_only (Dev.only_mono (d.only_host x) (by simp [hostBlocks])) rfl

theorem Dev.writes_sys (d : Dev) (x : SysBlk) : Dev.Writes d { d with sys := x } :=
  Dev.touches_of_only (Dev.only_mono (d.only_sys x) (by simp [hostBlocks])) rfl

theorem Dev.writes_serve (d : Dev) (x : ServeBlk) : Dev.Writes d { d with serve := x } :=
  Dev.touches_of_only (Dev.only_mono (d.only_serve x) (by simp [hostBlocks])) rfl

theorem Dev.writes_fresh (d : Dev) (n : Nat) : Dev.Writes d { d with fresh := n } :=
  Dev.touches_of_only (Dev.only_mono (d.only_fresh n) (by simp [hostBlocks])) rfl

theorem Dev.writes_count (d : Dev) {n : Nat} (h : n ∈ requestCounters) (k : Nat) : Dev.Writes d (d.count n k) :=
  Dev.touches_count (by simp [hostBlocks]) h d k

theorem Dev.writes_msix (d : Dev) (fn : Nat) (v : BitVec 11) : Dev.Writes d (d.msix fn v) := by
  obtain ⟨x, e⟩ | ⟨w, e⟩ := d.msix_cases fn v <;> rw [e]
  · exact d.writes_host _
  · exact (d.writes_host _).trans (Dev.writes_count _ (by simp [requestCounters]) _)

theorem Dev.writes_signalQueue (d : Dev) (q : Nat) : Dev.Writes d (d.signalQueue q) := by
  unfold Dev.signalQueue
  split
  · exact .refl
  · split
    · exact .refl
    · exact (d.writes_host _).trans (Dev.writes_msix _ _ _)

/-- A context that leaves the cache for its place in the stack. -/
theorem Dev.writes_storeCtx (d : Dev) (key : Nat) : Dev.Writes d (d.storeCtx key) :=
  Dev.touches_of_only (Dev.only_mono (d.only_stack _) (by simp [hostBlocks])) rfl

theorem Dev.writes_cacheCtx (d : Dev) (key : Nat) : Dev.Writes d (d.cacheCtx key) := by
  unfold Dev.cacheCtx
  extract_lets cs free
  split
  · exact .refl
  · split
    · exact d.writes_host _
    · split
      next => exact .refl
      next k _ =>
        exact ((d.writes_host { d.host with cached := key :: cs.erase k }).trans (Dev.writes_fresh _ (d.fresh + 1))).trans (Dev.writes_storeCtx _ k)

theorem Dev.writes_touchCtx (d : Dev) (key : Nat) : Dev.Writes d (d.touchCtx key) := by
  unfold Dev.touchCtx
  split
  · exact .refl
  · exact (d.writes_cacheCtx key).trans (Dev.writes_count _ (by simp [requestCounters]) _)

theorem Dev.writes_writeCompletion (d : Dev) (q : Nat) (w : BitVec 256) : Dev.Writes d (d.writeCompletion q w) := by
  unfold Dev.writeCompletion
  split
  · exact .refl
  · extract_lets addr data x' d₁
    have h : Dev.Writes d d₁ := (((d.writes_touchCtx q).trans (Dev.writes_host _ _)).trans (Dev.writes_host _ _)).trans
      (Dev.writes_count _ (by simp [requestCounters]) _)
    split
    · exact h.trans (Dev.writes_signalQueue _ _)
    · exact h

theorem Dev.writes_writeRecord (d : Dev) (r : Nat) (final : Bool) (w : U64) : Dev.Writes d (d.writeRecord r final w) := by
  unfold Dev.writeRecord
  split
  · exact d.writes_count (by simp [requestCounters]) _
  · extract_lets i phase data d₁
    have h : Dev.Writes d d₁ := ((d.writes_touchCtx _).trans (Dev.writes_host _ _)).trans (Dev.writes_host _ _)
    split
    · exact h.trans (Dev.writes_msix _ _ _)
    · exact h

theorem Dev.writes_noteAdmitted (d : Dev) (q : Nat) (sqHead : U16) (tag : U64) (h : U32) : Dev.Writes d (d.noteAdmitted q sqHead tag h) := by
  unfold Dev.noteAdmitted
  split
  · exact .refl
  · exact d.writes_host _

/-- The write answers a pack for the ledger; every other kind is the host's alone. -/
def answersPack : HostWriteMsg → Bool
  | .packTaken .. => true
  | _ => false

theorem Dev.writes_applyHostWrite (d : Dev) {m : HostWriteMsg} (hm : answersPack m = false) : Dev.Writes d (d.applyHostWrite m) := by
  cases m with
  | record r final w => exact d.writes_writeRecord r final w
  | admission q sq tag a w =>
    simp only [Dev.applyHostWrite]
    split
    · exact d.writes_noteAdmitted _ _ _ _
    · exact (d.writes_noteAdmitted _ _ _ _).trans (Dev.writes_host _ _)
  | mirror slot w => exact d.writes_host _
  | buffer q a bs => exact d.writes_host _
  | partResetDone p pos => exact d.writes_host _
  | packTaken node ok => cases hm
  | rejoin => exact .refl
  | context => exact .refl
  | forwarded => exact .refl
  | standbySync => exact .refl
  | completion q w =>
    simp only [Dev.applyHostWrite]
    split
    · exact .refl
    · refine Dev.Touches.trans ?_ (Dev.writes_writeCompletion _ _ _)
      refine Dev.Touches.trans ?_ (Dev.writes_host _ _)
      split
      · exact d.writes_serve _
      · exact .refl

theorem Dev.writes_send (d : Dev) (m : OutMsg) : Dev.Writes d (d.send m) := d.writes_host _

theorem Dev.writes_toStandby (d : Dev) (i : StandbyItem) (m : OutMsg) : Dev.Writes d (d.toStandby i m) :=
  (d.writes_sys _).trans (Dev.writes_send _ _)

theorem Dev.writes_hostWrite (d : Dev) {m : HostWriteMsg} (hm : answersPack m = false) : Dev.Writes d (d.hostWrite m) := by
  unfold Dev.hostWrite
  split
  · split
    · split
      · exact (d.writes_send _).trans (Dev.writes_applyHostWrite _ hm)
      · exact d.writes_applyHostWrite hm
    · exact d.writes_applyHostWrite hm
    · exact d.writes_applyHostWrite hm
    · split
      · exact d.writes_toStandby _ _
      · exact d.writes_applyHostWrite hm
  · exact d.writes_send _

theorem Dev.writes_complete (d : Dev) (o : Origin) (opcode status : Byte) (result : U32) : Dev.Writes d (d.complete o opcode status result) :=
  d.writes_hostWrite rfl

/-! ### The end of a request (R178, R179, R201) -/

theorem Dev.writes_finalRecord (d : Dev) (r : ReqEntry) (reason : BitVec 4) : Dev.Writes d (d.finalRecord r reason) :=
  (d.writes_hostWrite rfl).trans (Dev.writes_count _ (by simp [requestCounters]) _)

theorem ReqState.counter_mem (x : ReqState) : x.counter ∈ requestCounters := by
  cases x <;> simp [ReqState.counter, requestCounters]

theorem Dev.writes_endRequest (d : Dev) (slot : Nat) (state : ReqState) (reason : BitVec 4) (final : Bool) :
    Dev.Writes d (d.endRequest slot state reason final) := by
  unfold Dev.endRequest
  extract_lets _ r d₁ d₂ d₃ d₄ d₅ d₆
  have h₁ : Dev.Writes d d₁ := by
    unfold d₁
    split
    · exact d.writes_finalRecord _ _
    · exact .refl
  have h₂ : Dev.Writes d₁ d₂ := (d₁.writes_serve _).trans (Dev.writes_hostWrite _ rfl)
  have h₃ : Dev.Writes d₂ d₃ := d₂.writes_hostWrite rfl
  have h₄ : Dev.Writes d₃ d₄ := by
    unfold d₄
    split
    · exact d₃.writes_serve _
    · exact .refl
  have h₅ : Dev.Writes d₄ d₅ := d₄.writes_serve _
  have h₆ : Dev.Writes d₅ d₆ := d₅.writes_count state.counter_mem _
  have h := ((((h₁.trans h₂).trans h₃).trans h₄).trans h₅).trans h₆
  split
  · exact h.trans (Dev.writes_count _ (by simp [requestCounters]) _)
  · exact h

theorem Dev.writes_loseRequest (d : Dev) (slot : Nat) : Dev.Writes d (d.loseRequest slot) := by
  unfold Dev.loseRequest
  extract_lets r written
  split
  · split
    · exact d.writes_endRequest _ _ _ _
    · exact d.writes_serve _
  · exact .refl

/-! ### Clusters, the job's step and draws: what Dahlia and Lupin store (R93, R145, R154, R217, R220) -/

/-- The blocks that the storing of results may change; it counts in the clusters' counters only. -/
def storeBlocks : List Blk := [.array, .obs, .serve, .fresh]

/-- The change stores results, or reads what they come from. -/
abbrev Dev.Stores (d d' : Dev) : Prop := Dev.Touches storeBlocks [] d d'

theorem Dev.stores_updCluster (d : Dev) (c : Nat) (f : Cluster → Cluster) : Dev.Stores d (d.updCluster c f) :=
  Dev.touches_updCluster (by simp [storeBlocks]) d c f

theorem Dev.stores_countC (d : Dev) (c n k : Nat) : Dev.Stores d (d.countC c n k) := Dev.touches_countC (by simp [storeBlocks]) d c n k

theorem Dev.stores_countC_unless (d : Dev) (z c n k : Nat) : Dev.Stores d (if z = 0 then d else d.countC c n k) := by
  split
  · exact .refl
  · exact d.stores_countC c n k

theorem Dev.stores_countC_if (d : Dev) (b : Bool) (c n : Nat) : Dev.Stores d (if b = true then d.countC c n else d) := by
  split
  · exact d.stores_countC c n 1
  · exact .refl

theorem Dev.stores_draw (d : Dev) : Dev.Stores d d.draw :=
  Dev.touches_of_only (Dev.only_mono (d.only_fresh _) (by simp [storeBlocks])) rfl

theorem Dev.stores_useRow (d : Dev) (c r : Nat) : Dev.Stores d (d.useRow c r) := by
  obtain e | e := d.useRow_cases c r <;> rw [e]
  · exact .refl
  · exact (d.stores_countC _ _ _).trans (Dev.stores_updCluster _ _ _)

theorem Dev.stores_pokeSpad (d : Dev) (c r at_ : Nat) (bs : List Byte) : Dev.Stores d (d.pokeSpad c r at_ bs) := d.stores_updCluster c _

theorem Dev.stores_patchSpad (d : Dev) (c r at_ : Nat) (bs : List Byte) : Dev.Stores d (d.patchSpad c r at_ bs) :=
  (d.stores_useRow c r).trans (Dev.stores_pokeSpad _ _ _ _ _)

theorem Dev.stores_freeRows (d : Dev) (c : Nat) (rows : List Nat) : Dev.Stores d (d.freeRows c rows) :=
  .forAll (fun d r => ((d.stores_useRow c r).trans (Dev.stores_updCluster _ _ _)).trans (Dev.stores_draw _)) _ _

theorem Dev.stores_toBase (d : Dev) (kind c row at_ : Nat) (bs : List Byte) : Dev.Stores d (d.toBase kind c row at_ bs) :=
  Dev.touches_of_only (Dev.only_mono (d.only_array _) (by simp [storeBlocks])) rfl

theorem Dev.stores_lupinStore (d : Dev) (c row at_ expRow expByte : Nat) (rs : List (Option U32)) :
    Dev.Stores d (d.lupinStore c row at_ expRow expByte rs) :=
  (((d.stores_toBase _ _ _ _ _).trans (Dev.stores_toBase _ _ _ _ _ _)).trans (Dev.stores_countC_if _ _ _ _)).trans
    (Dev.stores_countC_unless _ _ _ _ _)

theorem Dev.stores_dahliaStore (d : Dev) (c row at_ : Nat) (out : DahliaOut) (rs : List (Option U32)) :
    Dev.Stores d (d.dahliaStore c row at_ out rs) := by
  unfold Dev.dahliaStore
  extract_lets ls z _ _ d₁ n
  refine Dev.Touches.trans ?_ (d₁.stores_countC_unless _ _ _ _)
  unfold d₁
  cases out with
  | z8 expRow expByte => exact ((d.stores_patchSpad _ _ _ _).trans (Dev.stores_patchSpad _ _ _ _ _)).trans (Dev.stores_countC_if _ _ _ _)
  | fp8 e5m2 => exact (d.stores_patchSpad _ _ _ _).trans (Dev.stores_countC_unless _ _ _ _ _)
  | bf16 => exact (d.stores_patchSpad _ _ _ _).trans (Dev.stores_countC_unless _ _ _ _ _)

theorem Dev.stores_updJob (d : Dev) (p : Nat) (f : Job → Job) : Dev.Stores d (d.updJob p f) :=
  Dev.touches_updJob (by simp [storeBlocks]) d p f

theorem Dev.stores_tune (d : Dev) (p : Nat) (f : TuningRec → TuningRec) : Dev.Stores d (d.tune p f) := by
  unfold Dev.tune
  split
  · exact d.stores_updJob _ _
  · exact .refl

theorem Dev.stores_writeHead (d : Dev) (lupin : Bool) (p : Nat) (job : AttJob) (head : Nat) (out : AttOut) :
    Dev.Stores d (d.writeHead lupin p job head out) := by
  unfold Dev.writeHead
  extract_lets mine parts x d₁ words d₂
  have h₁ : Dev.Stores d d₁ := by
    unfold d₁
    clear_value x
    cases x with
    | some r => exact d.stores_tune _ _
    | none => exact .refl
  have h₂ : Dev.Stores d₁ d₂ := d₁.stores_tune _ _
  refine ((h₁.trans h₂).trans d₂.stores_draw).trans (.forAll (fun d i => ?_) _ _)
  extract_lets ws
  split
  · exact d.stores_lupinStore _ _ _ _ _ _
  · exact d.stores_dahliaStore _ _ _ _ _

theorem Dev.stores_useQuery (d : Dev) (q : AttQuery) (elems : Nat) : Dev.Stores d (d.useQuery q elems) :=
  .forAll (fun d r => d.stores_useRow _ r) _ _

/-! ### Accesses to the stack, and what a foreign page ends (R226, R230, R405) -/

/-- The blocks beside the engines' own that their work may change. -/
def workBlocks : List Blk := [.host, .stack, .fresh, .obs, .serve, .sys, .array]

/-- What counts the accesses of the engines' work, and what comes of a foreign page. -/
def workCounters : List Nat := [DC.stackViolation, DC.kvSaturate, DC.stackBytesB, DC.kvHandleErr] ++ requestCounters

/-- The change is made by work of an engine beside the engines' own block. -/
abbrev Dev.Works (d d' : Dev) : Prop := Dev.Touches workBlocks workCounters d d'

section
variable {d d' : Dev}

theorem Dev.Touches.works_of_stores (h : Dev.Stores d d') : Dev.Works d d' := h.mono (by simp [storeBlocks, workBlocks]) (by simp)

theorem Dev.Touches.works_of_writes (h : Dev.Writes d d') : Dev.Works d d' :=
  h.mono (by simp [hostBlocks, workBlocks]) (List.subset_append_right _ _)

end

theorem Dev.works_count (d : Dev) {n : Nat} (h : n ∈ workCounters) (k : Nat) : Dev.Works d (d.count n k) :=
  Dev.touches_count (by simp [workBlocks]) h d k

theorem Dev.works_stack (d : Dev) (x : StackBlk) : Dev.Works d { d with stack := x } :=
  Dev.touches_of_only (Dev.only_mono (d.only_stack x) (by simp [workBlocks])) rfl

theorem Dev.touches_refuseAccess (d : Dev) (p : Nat) :
    Dev.Touches [.obs, .stack, .host] [DC.stackViolation, DC.msixSent] d (d.refuseAccess p) := by
  refine ⟨d.refuseAccess_only p, fun n hn => ?_⟩
  simp only [List.mem_cons, not_or] at hn
  obtain ⟨hv, hm, -⟩ := hn
  have hc : ((d.count DC.stackViolation)).counter n = d.counter n := by rw [Dev.counter_count, if_neg hv]
  obtain e | ⟨x, e⟩ := d.refuseAccess_cases p <;> rw [e]
  · exact hc
  · exact (Dev.counter_event _ _ hm).trans hc

theorem Dev.works_refuseAccess (d : Dev) (p : Nat) : Dev.Works d (d.refuseAccess p) :=
  (d.touches_refuseAccess p).mono (by simp [workBlocks]) (by decide)

theorem Dev.works_unitRead (d : Dev) (p addr len : Nat) : Dev.Works d (d.unitRead p addr len).1 := by
  unfold Dev.unitRead
  split
  · exact .refl
  · exact d.works_refuseAccess p

theorem Dev.works_readOperands (d : Dev) (p b : Nat) (rs : List (List DahliaTerm)) : Dev.Works d (d.readOperands p b rs).1 := by
  unfold Dev.readOperands
  extract_lets ts d₁ offs d₂
  have h₁ : Dev.Works d d₁ := Dev.Touches.works_of_stores (.forAll (fun d x => d.stores_useRow _ _) _ _)
  have h₂ : Dev.Works d₁ d₂ := by
    unfold d₂
    split
    · exact .refl
    · exact d₁.works_count (by simp [workCounters]) _
  clear_value offs
  cases offs with
  | nil => exact h₁.trans h₂
  | cons o os =>
    dsimp only
    split
    · exact h₁.trans h₂
    · exact (h₁.trans h₂).trans (Dev.works_refuseAccess _ _)

theorem Dev.works_checkPages (d : Dev) (h : U32) (pages : List Nat) : Dev.Works d (d.checkPages h pages).1 := by
  unfold Dev.checkPages
  extract_lets slot ok d₁
  have h₁ : Dev.Works d d₁ := .forAll (fun d _ => d.works_refuseAccess _) _ _
  split
  · exact h₁
  · exact (h₁.trans (Dev.works_count _ (by simp [workCounters]) _)).trans (Dev.Touches.works_of_writes (Dev.writes_loseRequest _ _))

theorem Dev.works_prefillPage (d : Dev) (handle : U32) (pg : KvPage) : Dev.Works d (d.prefillPage handle pg) := by
  unfold Dev.prefillPage
  extract_lets p ps k base d₁ head d₂ d₃
  split
  · exact d.works_refuseAccess p
  · refine Dev.Touches.trans ?_ (Dev.works_count _ (by simp [workCounters]) _)
    refine ((d.works_stack _).trans (Dev.works_stack _ _)).trans (.forAll (fun d st => .forAll (fun d i => ?_) _ _) _ _)
    dsimp only
    split
    · exact d.works_stack _
    · exact (d.works_stack _).trans (Dev.works_count _ (by simp [workCounters]) _)

theorem Dev.works_embedForLead (d : Dev) (p : Nat) (step : U48) (blocks : List (Byte × List Byte)) :
    Dev.Works d (d.embedForLead p step blocks) := by
  unfold Dev.embedForLead
  split
  · exact .refl
  · exact (Dev.touches_updJob (by simp [workBlocks]) d _ _).trans (Dev.touches_send (by simp [workBlocks]) _ _)

end Sys2Proof.Machine
end

section
/-! SUPPORT. Dahlia: what its operands read as, sums of products, the start of an operation on a half and its end (R144 to R149, R195, R226,
R230, R370, R371). -/

namespace Sys2Proof.Machine

/-! ### What reads of operands, keys and values see (R145, R154, R226, R230) -/

/-- The scratchpads and the stack read as they did: but for the record of violations the stack is the same, and jobs, requests and partitions
are. -/
structure Dev.ReadsAlike (d d' : Dev) : Prop where
  spad : ∀ c, (d'.cluster c).spad = (d.cluster c).spad
  stack : ∃ v, d'.stack = { d.stack with violationAt := v }
  only : d.only d' [.engine, .array, .obs, .stack, .host]

section
variable {d d₁ d₂ : Dev}

theorem Dev.ReadsAlike.refl : Dev.ReadsAlike d d := ⟨fun _ => rfl, ⟨_, rfl⟩, d.only_refl _⟩

theorem Dev.ReadsAlike.trans (h₁ : Dev.ReadsAlike d d₁) (h₂ : Dev.ReadsAlike d₁ d₂) : Dev.ReadsAlike d d₂ where
  spad c := (h₂.spad c).trans (h₁.spad c)
  stack := by
    obtain ⟨v, e⟩ := h₂.stack
    obtain ⟨_, e₁⟩ := h₁.stack
    exact ⟨v, e.trans (by rw [e₁])⟩
  only := Dev.only_trans h₁.only h₂.only

theorem Dev.ReadsAlike.forAll {α : Type} {f : Dev → α → Dev} (hf : ∀ d a, Dev.ReadsAlike d (f d a)) (xs : List α) (d : Dev) :
    Dev.ReadsAlike d (d.forAll xs f) :=
  Dev.forAll_holds (fun x => Dev.ReadsAlike d x) f (fun _ a h => h.trans (hf _ a)) xs d .refl

theorem Dev.readsAlike_useRow (d : Dev) (c r : Nat) : Dev.ReadsAlike d (d.useRow c r) := by
  obtain e | e := d.useRow_cases c r <;> rw [e]
  · exact .refl
  · exact ⟨Dev.cluster_updCluster_field Cluster.spad _ _ fun _ => rfl, ⟨_, rfl⟩,
      Dev.only_mono ((d.countC_only _ _ _).append (Dev.updCluster_only _ _ _)) (by simp)⟩

theorem Dev.readsAlike_refuseAccess (d : Dev) (p : Nat) : Dev.ReadsAlike d (d.refuseAccess p) :=
  ⟨fun c => congrArg Cluster.spad (Dev.cluster_of_array (d.refuseAccess_only p .array (by simp)) c), d.stack_refuseAccess p,
    Dev.only_mono (d.refuseAccess_only p) (by simp)⟩

theorem Dev.readsAlike_count (d : Dev) (n k : Nat) : Dev.ReadsAlike d (d.count n k) :=
  ⟨fun _ => rfl, ⟨_, rfl⟩, Dev.only_mono (d.count_only n k) (by simp)⟩

theorem Dev.readsAlike_engine (d : Dev) (x : EngineBlk) : Dev.ReadsAlike d { d with engine := x } :=
  ⟨fun _ => rfl, ⟨_, rfl⟩, Dev.only_mono (d.only_engine x) (by simp)⟩

theorem Dev.ReadsAlike.region (h : Dev.ReadsAlike d d₁) : d₁.region = d.region := by
  obtain ⟨v, hs⟩ := h.stack
  funext i
  rw [Dev.region, Dev.region, hs]

theorem Dev.ReadsAlike.unitMay (h : Dev.ReadsAlike d d₁) (p addr len : Nat) : d₁.unitMay p addr len = d.unitMay p addr len := by
  rw [Dev.unitMay, Dev.unitMay, Dev.partSecure, Dev.partSecure, Dev.partIn, Dev.partIn, Dev.mayUse, Dev.mayUse, h.region, h.only .part (by simp)]

theorem Dev.ReadsAlike.kindBase (h : Dev.ReadsAlike d d₁) (kind : Nat) : d₁.kindBase kind = d.kindBase kind := by
  rw [Dev.kindBase, Dev.kindBase, Dev.kindAt, Dev.kindAt, h.region]

theorem Dev.ReadsAlike.byte (h : Dev.ReadsAlike d d₁) (x : Nat) : d₁.byte x = d.byte x := by
  obtain ⟨v, hs⟩ := h.stack
  rw [Dev.byte, Dev.byte, hs]

theorem Dev.ReadsAlike.mapAddr (h : Dev.ReadsAlike d d₁) (a : Nat) : d₁.mapAddr a = d.mapAddr a := by
  obtain ⟨v, hs⟩ := h.stack
  rw [Dev.mapAddr, Dev.mapAddr, Dev.mapBlock, Dev.mapBlock, hs]

/-- Byte `i` of what an operand lies in: a cluster's scratchpad, or the Dahlia weights. -/
def Dev.operandByte (d : Dev) (b : Nat) (may : Bool) (cluster : Option Nat) (i : Nat) : Byte :=
  match cluster with
  | some c => (SMap.get (0 : BitVec 4096) (d.cluster c).spad (i / 512)).extractLsb' (8 * (i % 512)) 8
  | none => if may then d.byte (d.mapAddr (d.weightsBase b + i)) else 0

/-- The value of an operand in its format, from the bytes it lies in. -/
def operandValue (fmt : DahliaFmt) (addr : Nat) (byte : Nat → Byte) : Option (Int × Int) :=
  match fmt with
  | .e4m3 => fp8Value false (byte addr)
  | .e5m2 => fp8Value true (byte addr)
  | .bf16 =>
    let w : U16 := byte (addr + 1) ++ byte addr
    if bf16Finite w then some (bf16q w, (bf16e w : Int) - 134) else none

theorem Dev.dahliaValue_eq (d : Dev) (b : Nat) (may : Bool) (x : DahliaSrc) :
    d.dahliaValue b may x = operandValue x.fmt x.addr (d.operandByte b may x.cluster) := rfl

theorem Dev.ReadsAlike.operandByte (h : Dev.ReadsAlike d d₁) (b : Nat) (may : Bool) (cluster : Option Nat) :
    d₁.operandByte b may cluster = d.operandByte b may cluster := by
  funext i
  cases cluster with
  | some c => rw [Dev.operandByte, Dev.operandByte, h.spad]
  | none => rw [Dev.operandByte, Dev.operandByte, Dev.weightsBase, Dev.weightsBase, h.kindBase, h.mapAddr, h.byte]

theorem Dev.ReadsAlike.dahliaValue (h : Dev.ReadsAlike d d₁) (b : Nat) (may : Bool) (x : DahliaSrc) :
    d₁.dahliaValue b may x = d.dahliaValue b may x := by
  rw [Dev.dahliaValue_eq, Dev.dahliaValue_eq, h.operandByte]

theorem Dev.ReadsAlike.dahliaSum (h : Dev.ReadsAlike d d₁) (b : Nat) (may : Bool) (ts : List DahliaTerm) :
    d₁.dahliaSum b may ts = d.dahliaSum b may ts := by
  simp only [Dev.dahliaSum, h.dahliaValue]

end

/-! ### Sums of products (R80, R93, R145) -/

theorem Fmt.round_le (f : Fmt) (n : Int) (sticky : Bool) (a : Int) : (f.round n sticky a).1 ≤ f.maxCode := by
  unfold Fmt.round
  split
  · exact Nat.zero_le _
  · extract_lets top emin lsb q k code
    split
    · exact le_refl _
    · omega

/-- An FP32 addition saturates: its exponent is that of a finite number. -/
theorem f32Add_finite (acc : U32) (n e : Int) : fieldNat (f32Add acc n e) 30 23 ≠ 255 := by
  unfold f32Add
  extract_lets a lo sum
  have hc := Fmt.f32.round_le sum false lo
  revert hc
  generalize (Fmt.f32.round sum false lo).1 = c
  intro hc
  have hm : c ≤ 0x7F7FFFFF := hc
  simp only [fieldNat, bits, Fmt.code, Fmt.f32, BitVec.extractLsb'_toNat, BitVec.toNat_ofNat, Nat.shiftRight_eq_div_pow]
  split <;> omega

/-- A sum of products is poison, or its exponent is that of a finite number. -/
def FiniteSum (acc : Option U32) : Prop := ∀ w, acc = some w → fieldNat w 30 23 ≠ 255

/-- One product joins a sum; a poison operand makes it poison. -/
def Dev.addTerm (d : Dev) (b : Nat) (may : Bool) (acc : Option U32) (t : DahliaTerm) : Option U32 :=
  match acc, d.dahliaValue b may t.a, d.dahliaValue b may t.b with
  | some s, some x, some y => some (f32Add s (x.1 * y.1) (x.2 + y.2))
  | _, _, _ => none

section
variable (d : Dev) (b : Nat) (may : Bool)

theorem Dev.dahliaSum_eq (ts : List DahliaTerm) : d.dahliaSum b may ts = ts.foldl (d.addTerm b may) (some 0) := rfl

theorem Dev.finiteSum_addTerm (acc : Option U32) (t : DahliaTerm) : FiniteSum (d.addTerm b may acc t) := by
  intro w h
  unfold Dev.addTerm at h
  split at h
  · obtain rfl := Option.some.inj h
    exact f32Add_finite _ _ _
  · cases h

theorem Dev.finiteSum_foldl (ts : List DahliaTerm) {acc : Option U32} (h : FiniteSum acc) : FiniteSum (ts.foldl (d.addTerm b may) acc) := by
  induction ts generalizing acc with
  | nil => exact h
  | cons t ts ih => exact ih (d.finiteSum_addTerm b may acc t)

theorem Dev.finiteSum_dahliaSum (ts : List DahliaTerm) : FiniteSum (d.dahliaSum b may ts) := by
  rw [Dev.dahliaSum_eq]
  refine d.finiteSum_foldl b may ts fun w h => ?_
  obtain rfl := Option.some.inj h
  decide

theorem Dev.foldl_addTerm_none (ts : List DahliaTerm) : ts.foldl (d.addTerm b may) none = none := by
  induction ts with
  | nil => rfl
  | cons t ts ih => exact ih

theorem Dev.addTerm_poison {t : DahliaTerm} (h : d.dahliaValue b may t.a = none) (acc : Option U32) : d.addTerm b may acc t = none := by
  unfold Dev.addTerm
  rw [h]
  cases acc <;> rfl

theorem Dev.dahliaSum_poison {ts : List DahliaTerm} {t : DahliaTerm} (ht : t ∈ ts) (h : d.dahliaValue b may t.a = none) :
    d.dahliaSum b may ts = none := by
  obtain ⟨us, vs, rfl⟩ := List.append_of_mem ht
  rw [Dev.dahliaSum_eq, List.foldl_append, List.foldl_cons, d.addTerm_poison b may h, d.foldl_addTerm_none]

end

/-! ### The operands of a list of results (R226, R230) -/

/-- Offsets in the Dahlia weights that operands lie at. -/
def weightOffsets (rs : List (List DahliaTerm)) : List Nat :=
  rs.flatten.flatMap fun t => [t.a, t.b].filterMap fun x => if x.cluster.isNone then some x.addr else none

/-- The partition's units may read the Dahlia weights from the lowest to the highest offset. -/
def Dev.weightsOpen (d : Dev) (p b : Nat) (offs : List Nat) : Bool :=
  match offs with
  | [] => true
  | o :: os => d.unitMay p (d.weightsBase b + os.foldl min o) (os.foldl max o + 2 - os.foldl min o)

theorem Dev.ReadsAlike.weightsOpen {d d₁ : Dev} (h : Dev.ReadsAlike d d₁) (p b : Nat) (offs : List Nat) :
    d₁.weightsOpen p b offs = d.weightsOpen p b offs := by
  cases offs with
  | nil => rfl
  | cons o os => rw [Dev.weightsOpen, Dev.weightsOpen, Dev.weightsBase, Dev.weightsBase, h.kindBase, h.unitMay]

/-- Reading operands changes nothing that they are read from, and answers whether the weights are open. -/
theorem Dev.readOperands_reads (d : Dev) (p b : Nat) (rs : List (List DahliaTerm)) :
    Dev.ReadsAlike d (d.readOperands p b rs).1 ∧ (d.readOperands p b rs).2 = d.weightsOpen p b (weightOffsets rs) := by
  unfold Dev.readOperands
  extract_lets ts d₁ offs d₂
  have h₂ : Dev.ReadsAlike d d₂ := by
    have h₁ : Dev.ReadsAlike d d₁ := .forAll (fun d x => d.readsAlike_useRow _ _) _ _
    unfold d₂
    split
    · exact h₁
    · exact h₁.trans (d₁.readsAlike_count _ _)
  change _ ∧ _ = d.weightsOpen p b offs
  clear_value offs d₂
  cases offs with
  | nil => exact ⟨h₂, rfl⟩
  | cons o os =>
    rw [← h₂.weightsOpen]
    dsimp only [Dev.weightsOpen]
    split
    next h => exact ⟨h₂, h.symm⟩
    next h => exact ⟨h₂.trans (d₂.readsAlike_refuseAccess p), (Bool.not_eq_true _ ▸ h).symm⟩

/-! ### Row buffers (R195) -/

/-- What decides whether a part has a row buffer: the parts in the buffers, and the rows that the job has yet to draw. -/
theorem Dev.hasBuffer_of {d d' : Dev} (he : d'.engine.logits = d.engine.logits) (hs : d'.serve = d.serve) (x : LogitPart) :
    d'.hasBuffer x = d.hasBuffer x := by
  have hj : d'.job x.partition = d.job x.partition := congrArg (fun b : ServeBlk => SMap.get Job.idle b.jobs x.partition) hs
  rw [Dev.hasBuffer, Dev.hasBuffer, he, hj]

theorem Dev.bufferLogits_buffered {d : Dev} {x : LogitPart} (hl : x.first + x.values.length ≤ 262144) (hb : d.hasBuffer x = true) :
    x ∈ (d.bufferLogits x).engine.logits := by
  unfold Dev.bufferLogits
  extract_lets other
  rw [if_neg (by omega), if_pos hb]
  exact List.mem_cons_self

/-! ### A half begins (R144, R146, R148, R149, R370, R371) -/

section
variable {d : Dev} {op : DahliaOp} {h : Nat}

/-- Outside a brown-out hold and its sweep, with room in the reservation. -/
structure Dev.MayStart (d : Dev) : Prop where
  fits : d.halfFits = true
  hold : d.power.boHold = false
  sweep : d.power.sweep = false

/-- With nothing waiting, nothing starts. -/
theorem Dev.startHalves_idle (hw : d.engine.waiting = []) (fuel : Nat) : d.startHalves fuel = d := by
  cases fuel with
  | zero => rfl
  | succ fuel => simp [Dev.startHalves, hw]

/-- The operation waits alone. -/
def Dev.waitsAlone (d : Dev) (op : DahliaOp) : Dev := { d with engine := { d.engine with waiting := [op] } }

theorem Dev.queueOp_idle (hw : d.engine.waiting = []) (op : DahliaOp) : d.queueOp op = d.waitsAlone op := by
  simp [Dev.queueOp, Dev.waitsAlone, hw]

theorem Dev.freeHalf_waitsAlone (d : Dev) (op : DahliaOp) : (d.waitsAlone op).freeHalf op = d.freeHalf op := rfl

/-- What is held up in a hold or sweep, by the reservation or by the lack of a half waits. -/
theorem Dev.startHalves_waits (hn : d.halfFits = false ∨ d.power.boHold = true ∨ d.power.sweep = true ∨ d.freeHalf op = none) (fuel : Nat) :
    (d.waitsAlone op).startHalves fuel = d.waitsAlone op := by
  cases fuel with
  | zero => rfl
  | succ fuel =>
    unfold Dev.startHalves
    split
    next hc =>
      change (d.halfFits && !d.power.boHold && !d.power.sweep) = true at hc
      simp only [Bool.and_eq_true, Bool.not_eq_true'] at hc
      obtain ⟨⟨h₁, h₂⟩, h₃⟩ := hc
      have hq : d.freeHalf op = none := by simpa [h₁, h₂, h₃] using hn
      have hs : (d.waitsAlone op).engine.waiting.find? (fun o => ((d.waitsAlone op).freeHalf o).isSome) = none := by
        change [op].find? (fun o => ((d.waitsAlone op).freeHalf o).isSome) = none
        rw [List.find?_cons_of_neg (by rw [Dev.freeHalf_waitsAlone, hq]; exact Bool.false_ne_true), List.find?_nil]
      rw [hs]
    next => rfl

theorem Dev.startHalves_starts (hm : d.MayStart) (hw : d.engine.waiting = []) (hf : d.freeHalf op = some h) (fuel : Nat) :
    (d.waitsAlone op).startHalves (fuel + 1) = (d.runHalf h op).startHalves fuel := by
  obtain ⟨h₁, h₂, h₃⟩ := hm
  have hc : ((d.waitsAlone op).halfFits && !(d.waitsAlone op).power.boHold && !(d.waitsAlone op).power.sweep) = true := by
    change (d.halfFits && !d.power.boHold && !d.power.sweep) = true
    simp [h₁, h₂, h₃]
  have hs : (d.waitsAlone op).engine.waiting.find? (fun o => ((d.waitsAlone op).freeHalf o).isSome) = some op := by
    change [op].find? (fun o => ((d.waitsAlone op).freeHalf o).isSome) = some op
    rw [List.find?_cons_of_pos (by rw [Dev.freeHalf_waitsAlone, hf]; rfl)]
  have hd : { d.waitsAlone op with engine := { (d.waitsAlone op).engine with waiting := (d.waitsAlone op).engine.waiting.erase op } } = d := by
    simp only [Dev.waitsAlone, List.erase_cons_head, ← hw]
  rw [Dev.startHalves, if_pos hc, hs]
  dsimp only
  rw [Dev.freeHalf_waitsAlone, hf]
  dsimp only
  rw [hd]

end

/-- Stand-in inputs that are computed enter accumulation and leave the engines as they were. -/
theorem Dev.engine_standInAdd (d : Dev) (lt : Nat) (v : EdgeVec) (onDahlia : Bool) : (d.standInAdd lt v onDahlia).engine = d.engine := by
  delta Dev.standInAdd
  extract_lets P
  clear_value P
  rw [Dev.count_engine]
  exact ((Dev.addsLanes_addPartials _ _ _ _ _).only .engine (by simp)).trans (d.noteImage_only _ _ .engine (by simp))

section
variable (d : Dev) (op : DahliaOp) (h : Nat)

/-- The engines once half `h` has begun an operation other than a stand-in: its operand SRAM holds the work. -/
theorem Dev.runHalf_work (hk : ∀ lt, op.kind ≠ .standIn lt) : d.runHalf h op = { d with engine := { d.engine with
    halves := SMap.put none d.engine.halves h (some op), operand := SMap.put none d.engine.operand h (some (.work op.kind)) } } := by
  unfold Dev.runHalf
  extract_lets d₁
  split
  next lt e => exact absurd e (hk lt)
  next => rfl

/-- The engines once half `h` has begun the stand-in of tile `lt`: its operand SRAM holds the tile's columns, and no input of the tile waits. -/
theorem Dev.engine_runHalf_standIn {lt : Nat} (hk : op.kind = .standIn lt) : (d.runHalf h op).engine = { d.engine with
    halves := SMap.put none d.engine.halves h (some op), operand := SMap.put none d.engine.operand h (some (.tile (d.bankOf (lt / 64)) lt)),
    standInputs := d.engine.standInputs.filter fun x => x.1 != lt } := by
  unfold Dev.runHalf
  extract_lets d₁
  split
  next lt' e =>
    obtain rfl : lt = lt' := by rw [hk] at e; cases e; rfl
    exact Dev.forAll_keeps Dev.engine _ (fun d v => d.engine_standInAdd lt v true) _ _
  next hn => exact absurd hk (hn lt)

theorem Dev.engine_runHalf : (d.runHalf h op).engine.halves = SMap.put none d.engine.halves h (some op)
    ∧ (d.runHalf h op).engine.waiting = d.engine.waiting := by
  by_cases hk : ∃ lt, op.kind = .standIn lt
  · obtain ⟨lt, hk⟩ := hk
    rw [d.engine_runHalf_standIn op h hk]
    exact ⟨rfl, rfl⟩
  · rw [d.runHalf_work op h fun lt e => hk ⟨lt, e⟩]
    exact ⟨rfl, rfl⟩

end

/-- The half that an operation takes is on the tier where it must run. -/
theorem Dev.halfTier_of_freeHalf {d : Dev} {op : DahliaOp} {h lt : Nat} (hf : d.freeHalf op = some h) (hk : op.kind = .standIn lt) :
    halfTier h = lt / 16384 := by
  have hp := List.find?_some hf
  rw [Bool.and_eq_true, opTier, hk] at hp
  exact beq_iff_eq.mp hp.2

section
variable {s : State} {op : DahliaOp} {h : Nat}

theorem exec_dahliaOpStart (hw : s.dev.engine.waiting = []) :
    exec (.dahliaOpStart op) s = .next { s with dev := (s.dev.waitsAlone op).startHalves 32 } :=
  State.on_eq (f := fun d => (d.queueOp op).startHalves 32) (by rw [Dev.queueOp_idle hw])

theorem runs_dahliaOpStart_starts (hw : s.dev.engine.waiting = []) (hm : s.dev.MayStart) (hf : s.dev.freeHalf op = some h) :
    Runs (.dahliaOpStart op) s fun d' => SMap.get none d'.engine.halves h = some op ∧ d'.engine.waiting = []
      ∧ (∀ j, j ≠ h → SMap.get none d'.engine.halves j = SMap.get none s.dev.engine.halves j)
      ∧ ((∀ lt, op.kind ≠ .standIn lt) → s.dev.only d' [.engine] ∧ SMap.get none d'.engine.operand h = some (.work op.kind))
      ∧ (∀ lt, op.kind = .standIn lt → halfTier h = lt / 16384
          ∧ SMap.get none d'.engine.operand h = some (.tile (s.dev.bankOf (lt / 64)) lt)
          ∧ ∀ x ∈ d'.engine.standInputs, x.1 ≠ lt) := by
  obtain ⟨hh, hq⟩ := s.dev.engine_runHalf op h
  have hr : exec (.dahliaOpStart op) s = .next { s with dev := s.dev.runHalf h op } := by
    rw [exec_dahliaOpStart hw, Dev.startHalves_starts hm hw hf, Dev.startHalves_idle (hq.trans hw)]
  refine Runs.of_next hr ⟨?_, hq.trans hw, fun j hj => ?_, fun hk => ?_, fun lt hk => ⟨Dev.halfTier_of_freeHalf hf hk, ?_, fun x hx => ?_⟩⟩
  · rw [hh, SMap.get_put_same]
  · rw [hh, SMap.get_put_ne _ _ _ hj]
  · rw [s.dev.runHalf_work op h hk]
    refine ⟨s.dev.only_engine _, ?_⟩
    dsimp only
    rw [SMap.get_put_same]
  · rw [s.dev.engine_runHalf_standIn op h hk]
    dsimp only
    rw [SMap.get_put_same]
  · rw [s.dev.engine_runHalf_standIn op h hk] at hx
    simpa using (List.mem_filter.mp hx).2

theorem runs_dahliaOpStart_waits (hw : s.dev.engine.waiting = [])
    (hn : s.dev.halfFits = false ∨ s.dev.power.boHold = true ∨ s.dev.power.sweep = true ∨ s.dev.freeHalf op = none) :
    Runs (.dahliaOpStart op) s fun d' => d'.engine = { s.dev.engine with waiting := [op] } ∧ s.dev.only d' [.engine] :=
  Runs.of_next (d' := s.dev.waitsAlone op) ((exec_dahliaOpStart hw).trans (by rw [Dev.startHalves_waits hn])) ⟨rfl, s.dev.only_engine _⟩

end

/-! ### A half ends (R144, R145, R146, R195) -/

/-- The halves, what waits for them, and the count of operations are as they were. -/
structure Dev.LeavesHalves (d d' : Dev) : Prop where
  halves : d'.engine.halves = d.engine.halves
  waiting : d'.engine.waiting = d.engine.waiting
  counter : d'.counter DC.dahliaOps = d.counter DC.dahliaOps

section
variable {d d₁ d₂ : Dev}

theorem Dev.LeavesHalves.refl : Dev.LeavesHalves d d := ⟨rfl, rfl, rfl⟩

theorem Dev.LeavesHalves.trans (h₁ : Dev.LeavesHalves d d₁) (h₂ : Dev.LeavesHalves d₁ d₂) : Dev.LeavesHalves d d₂ :=
  ⟨h₂.halves.trans h₁.halves, h₂.waiting.trans h₁.waiting, h₂.counter.trans h₁.counter⟩

theorem Dev.LeavesHalves.forAll {α : Type} {f : Dev → α → Dev} (hf : ∀ d a, Dev.LeavesHalves d (f d a)) (xs : List α) (d : Dev) :
    Dev.LeavesHalves d (d.forAll xs f) :=
  Dev.forAll_holds (fun x => Dev.LeavesHalves d x) f (fun _ a h => h.trans (hf _ a)) xs d .refl

theorem Dev.Touches.leavesHalves (h : Dev.Works d d₁) : Dev.LeavesHalves d d₁ :=
  have he : d₁.engine = d.engine := h.only .engine (by simp [workBlocks])
  ⟨congrArg EngineBlk.halves he, congrArg EngineBlk.waiting he, h.counter _ (by decide)⟩

/-- What stores results leaves the halves. -/
theorem Dev.Touches.halves_of_stores (h : Dev.Stores d d₁) : Dev.LeavesHalves d d₁ := h.works_of_stores.leavesHalves

theorem Dev.leavesHalves_bufferLogits (d : Dev) (x : LogitPart) : Dev.LeavesHalves d (d.bufferLogits x) := by
  obtain e | ⟨q, e | e⟩ := d.bufferLogits_cases x <;> rw [e] <;> exact ⟨rfl, rfl, rfl⟩

theorem Dev.leavesHalves_keepScores (d : Dev) (half : Nat) (xs : List Rat) : Dev.LeavesHalves d (d.keepScores half xs) := ⟨rfl, rfl, rfl⟩

theorem Dev.leavesHalves_addPart (d : Dev) (a : AttPart) : Dev.LeavesHalves d (d.addPart a) := ⟨rfl, rfl, rfl⟩

theorem Dev.leavesHalves_attendRow (d : Dev) (p half : Nat) (job : AttJob) (position : Nat) (qScales : List U16) :
    Dev.LeavesHalves d (d.attendRow p half job position qScales) := by
  unfold Dev.attendRow
  extract_lets d₁ d₂ mine
  have h₁ : Dev.LeavesHalves d d₁ := (d.works_count (by simp [workCounters]) _).leavesHalves
  have h₂ : Dev.LeavesHalves d₁ d₂ := by
    refine .forAll (fun d qi => ?_) _ _
    extract_lets q d₃
    have h₃ : Dev.LeavesHalves d d₃ := (d.stores_useQuery qi.1 job.elems).halves_of_stores.trans
      (.forAll (fun d c => (d.leavesHalves_keepScores _ _).trans (Dev.leavesHalves_addPart _ _)) _ _)
    split
    · exact h₃.trans (d₃.stores_writeHead _ _ _ _ _).halves_of_stores
    · exact h₃
  exact (h₁.trans h₂).trans ⟨rfl, rfl, rfl⟩

theorem Dev.leavesHalves_attentionBack (d : Dev) (p half : Nat) (job : AttJob) (position : Nat) (qScales : List U16) :
    Dev.LeavesHalves d (d.attentionBack p half job position qScales) := by
  unfold Dev.attentionBack
  extract_lets stats
  refine .forAll (fun d qi => ?_) _ _
  extract_lets q
  split
  · exact .refl
  · exact (d.stores_useQuery qi.1 job.elems).halves_of_stores.trans (.forAll (fun d c => d.leavesHalves_keepScores _ _) _ _)

/-- Whatever the work, what a half leaves when it completes leaves the halves. -/
theorem Dev.leavesHalves_opResult (d : Dev) (h : Nat) (o : DahliaOp) : Dev.LeavesHalves d (d.opResult h o) := by
  unfold Dev.opResult
  extract_lets b
  split
  next => exact .refl
  next => exact .refl
  next c rows _ => exact (d.stores_freeRows c rows).halves_of_stores
  next c row at_ out rs _ =>
    exact (d.works_readOperands _ _ _).leavesHalves.trans (Dev.stores_dahliaStore _ _ _ _ _ _).halves_of_stores
  next hd pos first rs _ =>
    extract_lets y x
    have hy : Dev.LeavesHalves d y.1 := (d.works_readOperands _ _ _).leavesHalves
    split
    · exact hy.trans (y.1.leavesHalves_bufferLogits x)
    · exact hy.trans (Dev.touches_send (by simp [workBlocks]) y.1 _).leavesHalves
  next e5m2 offset len dest row _ =>
    extract_lets u x blocks
    have hx : Dev.LeavesHalves d x.1 :=
      ((d.works_unitRead _ _ _).trans (Dev.works_count _ (by simp [workCounters]) _)).leavesHalves
    split
    · exact hx.trans (.forAll (fun d k => ((d.stores_patchSpad _ _ _ _).trans (Dev.stores_patchSpad _ _ _ _ _)).halves_of_stores) _ _)
    · exact hx.trans (x.1.works_embedForLead _ _ _).leavesHalves
  next row target rs _ =>
    exact (d.works_readOperands _ _ _).leavesHalves.trans (Dev.stores_tune _ _ _).halves_of_stores
  next job position qScales c rows _ =>
    extract_lets x
    have hx : Dev.LeavesHalves d x.1 := (d.works_checkPages _ _).leavesHalves
    split
    · exact (hx.trans (x.1.leavesHalves_attentionBack _ _ _ _ _)).trans (Dev.stores_freeRows _ _ _).halves_of_stores
    · exact hx
  next handle pages _ =>
    extract_lets v tp first x
    have hx : Dev.LeavesHalves d x.1 := (d.works_checkPages _ _).leavesHalves
    split
    · exact hx.trans (.forAll (fun d pg => (d.works_prefillPage handle pg).leavesHalves) _ _)
    · exact hx
  next job position qScales _ =>
    extract_lets x
    have hx : Dev.LeavesHalves d x.1 := (d.works_checkPages _ _).leavesHalves
    split
    · exact hx.trans (x.1.leavesHalves_attendRow _ _ _ _ _)
    · exact hx

end

/-- Half `h` is free. -/
def Dev.freed (d : Dev) (h : Nat) : Dev := { d with engine := { d.engine with halves := SMap.put none d.engine.halves h none } }

section
variable {s : State} {o : DahliaOp} {h : Nat}

/-- With nothing waiting, the end of an operation leaves its result and is counted. -/
theorem exec_dahliaOpComplete (hw : s.dev.engine.waiting = []) (ho : SMap.get none s.dev.engine.halves h = some o) :
    exec (.dahliaOpComplete h) s = .next { s with dev := ((s.dev.freed h).opResult h o).count DC.dahliaOps } := by
  rw [show exec (.dahliaOpComplete h) s = execDahliaOpComplete h s from rfl, execDahliaOpComplete]
  refine State.on_eq ?_
  simp only [ho]
  exact Dev.startHalves_idle (d := ((s.dev.freed h).opResult h o).count DC.dahliaOps) (((s.dev.freed h).leavesHalves_opResult h o).waiting.trans hw) 32

theorem runs_dahliaOpComplete (hw : s.dev.engine.waiting = []) (ho : SMap.get none s.dev.engine.halves h = some o) :
    Runs (.dahliaOpComplete h) s fun d' => SMap.get none d'.engine.halves h = none
      ∧ (∀ j, j ≠ h → SMap.get none d'.engine.halves j = SMap.get none s.dev.engine.halves j)
      ∧ d'.counter DC.dahliaOps = s.dev.counter DC.dahliaOps + 1 := by
  obtain ⟨hh, -, hc⟩ := (s.dev.freed h).leavesHalves_opResult h o
  refine Runs.of_next (exec_dahliaOpComplete hw ho) ⟨?_, fun j hj => ?_, ?_⟩
  · rw [Dev.count_engine, hh]
    exact SMap.get_put_same none s.dev.engine.halves h none
  · rw [Dev.count_engine, hh]
    exact SMap.get_put_ne none s.dev.engine.halves none hj
  · rw [Dev.counter_count, if_pos rfl, hc]
    rfl

section
variable {d d' : Dev} (hs : d'.sys = d.sys) (hg : d'.glob = d.glob) (p : Nat)
include hs hg

/-- Members, their places and the lead of a job are read from the system view and the registers. -/
theorem Dev.members_of : d'.members p = d.members p := by
  have hf : ∀ o hi lo, d'.fld o hi lo = d.fld o hi lo := fun o hi lo => by rw [Dev.fld, Dev.fld, Dev.reg, Dev.reg, hg]
  simp only [Dev.members, Dev.jobSetup, Dev.xm1, Dev.ym1, Dev.zm1, hs, hf]

theorem Dev.memberIndex_of : d'.memberIndex p = d.memberIndex p := by
  rw [Dev.memberIndex, Dev.memberIndex, Dev.members_of hs hg, hs]

theorem Dev.isLead_of : d'.isLead p = d.isLead p := by
  rw [Dev.isLead, Dev.isLead, Dev.memberIndex_of hs hg, Dev.jobSetup, Dev.jobSetup, hs]

end

/-- The part of a row's logits that an operation computes. -/
def Dev.logitPart (d : Dev) (p b : Nat) (hd : U32) (pos : BitVec 20) (first : Nat) (rs : List (List DahliaTerm)) : LogitPart :=
  { partition := p, handle := hd, pos := pos, first := first, values := rs.map (d.dahliaSum b (d.readOperands p b rs).2) }

theorem Dev.ReadsAlike.logitPart {d d₁ : Dev} (hr : Dev.ReadsAlike d d₁) (p b : Nat) (hd : U32) (pos : BitVec 20) (first : Nat)
    (rs : List (List DahliaTerm)) : d₁.logitPart p b hd pos first rs = d.logitPart p b hd pos first rs := by
  have hs : d₁.dahliaSum b = d.dahliaSum b := funext fun may => funext fun ts => hr.dahliaSum b may ts
  obtain ⟨-, e₁⟩ := d₁.readOperands_reads p b rs
  obtain ⟨-, e⟩ := d.readOperands_reads p b rs
  rw [Dev.logitPart, Dev.logitPart, e₁, e, hr.weightsOpen, hs]

/-- At the lead, the sums of an operation on logits go to the row's buffer. -/
theorem Dev.opResult_logits (d : Dev) {hd : U32} {pos : BitVec 20} {first : Nat} {rs : List (List DahliaTerm)}
    (hk : o.kind = .logits hd pos first rs) (hl : d.isLead o.partition = true) : ∃ d₁, Dev.ReadsAlike d d₁ ∧ d₁.engine = d.engine
      ∧ d.opResult h o = d₁.bufferLogits (d.logitPart o.partition (((d.commit o.partition).bank).getD 0) hd pos first rs) := by
  generalize hb : ((d.commit o.partition).bank).getD 0 = b
  obtain ⟨hr, -⟩ := d.readOperands_reads o.partition b rs
  have hlead : (d.readOperands o.partition b rs).1.isLead o.partition = true := by
    rw [← hl]
    exact Dev.isLead_of (hr.only .sys (by simp)) (hr.only .glob (by simp)) _
  have hs : (d.readOperands o.partition b rs).1.dahliaSum b = d.dahliaSum b := funext fun may => funext fun ts => hr.dahliaSum b may ts
  refine ⟨_, hr, (d.works_readOperands o.partition b rs).only .engine (by simp [workBlocks]), ?_⟩
  unfold Dev.opResult
  simp only [hk, hb]
  rw [if_pos hlead, hs]
  rfl

theorem runs_dahliaOpComplete_logits (hw : s.dev.engine.waiting = []) (ho : SMap.get none s.dev.engine.halves h = some o) {hd : U32}
    {pos : BitVec 20} {first : Nat} {rs : List (List DahliaTerm)} (hk : o.kind = .logits hd pos first rs)
    (hl : s.dev.isLead o.partition = true) (hf : first + rs.length ≤ 262144) {x : LogitPart}
    (hx : x = s.dev.logitPart o.partition (((s.dev.commit o.partition).bank).getD 0) hd pos first rs) (hbuf : s.dev.hasBuffer x = true) :
    Runs (.dahliaOpComplete h) s fun d' => x ∈ d'.engine.logits := by
  refine Runs.of_next (exec_dahliaOpComplete hw ho) ?_
  have hfreed : Dev.ReadsAlike s.dev (s.dev.freed h) := s.dev.readsAlike_engine _
  obtain ⟨d₁, hr, he, e⟩ := (s.dev.freed h).opResult_logits (h := h) hk hl
  rw [Dev.count_engine, e, hfreed.logitPart]
  change x ∈ (d₁.bufferLogits _).engine.logits
  rw [show (s.dev.freed h).commit o.partition = s.dev.commit o.partition from rfl, ← hx]
  refine Dev.bufferLogits_buffered ?_ ?_
  · rw [hx, Dev.logitPart, List.length_map]
    exact hf
  · rw [← hbuf]
    exact Dev.hasBuffer_of (congrArg EngineBlk.logits he) ((hfreed.trans hr).only .serve (by simp)) x

end

/-- Settles O37: with nothing waiting an operation starts or waits alone, and the end of one leaves the other halves. -/
theorem dahliaStartsAndEndsOperations : Obligations.DahliaStartsAndEndsOperations := by
  unfold Obligations.DahliaStartsAndEndsOperations
  intro s op hw
  refine ⟨fun h h₁ h₂ h₃ => runs_dahliaOpStart_starts hw ⟨h₁, h₂, h₃⟩, runs_dahliaOpStart_waits hw, fun h => runs_dahliaOpComplete hw,
    fun h hd pos first rs ho hl => ?logits, fun b may ts => s.dev.finiteSum_dahliaSum b may ts,
    fun b may ts t => s.dev.dahliaSum_poison b may⟩
  case logits =>
    intro b x hf hbuf
    exact runs_dahliaOpComplete_logits hw ho rfl hl hf rfl hbuf

end Sys2Proof.Machine
end

section
/-! SUPPORT. Lupin: the pages that a chunk reads, its results, and the release of the barrier (R151, R153 to R156, R164, R170, R230, R405). -/

namespace Sys2Proof.Machine

/-! ### What attention reads (R154, R157, R164) -/

section
variable {d d₁ : Dev}

theorem Dev.ReadsAlike.serve (h : Dev.ReadsAlike d d₁) : d₁.serve = d.serve := h.only .serve (by simp)

theorem Dev.ReadsAlike.pageAddr (h : Dev.ReadsAlike d d₁) (page : Nat) : d₁.pageAddr page = d.pageAddr page := by
  rw [Dev.pageAddr, Dev.pageAddr, h.kindBase]

theorem Dev.ReadsAlike.req (h : Dev.ReadsAlike d d₁) (slot : Nat) : d₁.req slot = d.req slot := by rw [Dev.req, Dev.req, h.serve]

theorem Dev.ReadsAlike.job (h : Dev.ReadsAlike d d₁) (p : Nat) : d₁.job p = d.job p := by rw [Dev.job, Dev.job, h.serve]

theorem Dev.ReadsAlike.pageOpen (h : Dev.ReadsAlike d d₁) (slot page : Nat) : d₁.pageOpen slot page = d.pageOpen slot page := by
  rw [Dev.pageOpen, Dev.pageOpen, h.unitMay, h.pageAddr, h.req]

theorem Dev.ReadsAlike.readHeader (h : Dev.ReadsAlike d d₁) (slot page : Nat) : d₁.readHeader slot page = d.readHeader slot page := by
  obtain ⟨v, hs⟩ := h.stack
  rw [Dev.readHeader, Dev.readHeader, h.pageOpen, Dev.headerOf, Dev.headerOf, h.mapAddr, h.pageAddr, hs]

theorem Dev.ReadsAlike.stackRead (h : Dev.ReadsAlike d d₁) (a n : Nat) : d₁.stackRead a n = d.stackRead a n := by
  simp only [Dev.stackRead, h.byte, h.mapAddr]

theorem Dev.ReadsAlike.inSlot (h : Dev.ReadsAlike d d₁) (slot page : Nat) : d₁.inSlot slot page = d.inSlot slot page := by
  rw [Dev.inSlot, Dev.inSlot, h.req, Dev.stg, Dev.stg, h.serve]

theorem Dev.ReadsAlike.kvStored (h : Dev.ReadsAlike d d₁) (slot stream pos len : Nat) :
    d₁.kvStored slot stream pos len = d.kvStored slot stream pos len := by
  rw [Dev.kvStored, Dev.kvStored, h.req, h.job, Dev.kv, Dev.kv, Dev.stg, Dev.stg, h.serve]
  simp only [h.inSlot, h.pageOpen, h.stackRead, h.pageAddr, h.readHeader]

theorem Dev.ReadsAlike.kvElems (h : Dev.ReadsAlike d d₁) (slot stream pos n : Nat) :
    d₁.kvElems slot stream pos n = d.kvElems slot stream pos n := by
  rw [Dev.kvElems, Dev.kvElems, h.req, h.job, h.kvStored, h.kvStored]

theorem Dev.ReadsAlike.attendChunk (h : Dev.ReadsAlike d d₁) (dahlia : Bool) (job : AttJob) (head chunk : Nat) (q : List (Option Rat))
    (qScale : Rat) (positions : List Nat) :
    d₁.attendChunk dahlia job head chunk q qScale positions = d.attendChunk dahlia job head chunk q qScale positions := by
  have hk : d₁.kvElems = d.kvElems := by
    funext slot stream pos n
    exact h.kvElems slot stream pos n
  rw [Dev.attendChunk, Dev.attendChunk, hk]

theorem Dev.ReadsAlike.queryOf (h : Dev.ReadsAlike d d₁) (q : AttQuery) (n : Nat) : d₁.queryOf q n = d.queryOf q n := by
  simp only [Dev.queryOf, h.dahliaValue]

theorem Dev.readsAlike_useQuery (d : Dev) (q : AttQuery) (n : Nat) : Dev.ReadsAlike d (d.useQuery q n) :=
  .forAll (fun d r => d.readsAlike_useRow _ r) _ _

end

/-! ### The pages of a chunk (R230, R405) -/

/-- Every page, as a unit that works for the request reads it, bears the handle. -/
def Dev.bearHandle (d : Dev) (handle : U32) (pages : List Nat) : Bool :=
  pages.all fun g => (d.readHeader (slotOf handle) g).extractLsb' 16 32 == handle

/-- Each refused read of a page is counted and reported. -/
def Dev.pagesRefused (d : Dev) (slot : Nat) (pages : List Nat) : Dev :=
  d.forAll (pages.filter fun g => !d.pageOpen slot g) fun d _ => d.refuseAccess (d.req slot).partition

section
variable (d : Dev) (slot : Nat) (pages : List Nat)

theorem Dev.readsAlike_pagesRefused : Dev.ReadsAlike d (d.pagesRefused slot pages) := .forAll (fun d _ => d.readsAlike_refuseAccess _) _ _

theorem Dev.touches_pagesRefused :
    Dev.Touches [.obs, .stack, .host] [DC.stackViolation, DC.msixSent] d (d.pagesRefused slot pages) :=
  .forAll (fun d _ => d.touches_refuseAccess _) _ _

end

/-- What a foreign page ends: the error is counted, and the request is lost (R405). -/
def Dev.foreignPage (d : Dev) (slot : Nat) (pages : List Nat) : Dev := ((d.pagesRefused slot pages).count DC.kvHandleErr).loseRequest slot

theorem Dev.checkPages_own {d : Dev} {handle : U32} {pages : List Nat} (h : d.bearHandle handle pages = true) :
    d.checkPages handle pages = (d.pagesRefused (slotOf handle) pages, true) := if_pos h

theorem Dev.checkPages_foreign {d : Dev} {handle : U32} {pages : List Nat} (h : ¬ d.bearHandle handle pages = true) :
    d.checkPages handle pages = (d.foreignPage (slotOf handle) pages, false) := if_neg h

/-! ### Chunk results (R154, R156) -/

/-- The result of a chunk for one query: its attention over the chunk's positions. -/
def Dev.chunkResult (d : Dev) (job : AttJob) (chunk : Nat) (positions : List Nat) (q : AttQuery) : AttPart :=
  (d.attendChunk false job q.head chunk (d.queryOf q job.elems) 1 positions).1

theorem Dev.ReadsAlike.chunkResult {d d₁ : Dev} (h : Dev.ReadsAlike d d₁) (job : AttJob) (chunk : Nat) (positions : List Nat) (q : AttQuery) :
    d₁.chunkResult job chunk positions q = d.chunkResult job chunk positions q := by
  rw [Dev.chunkResult, Dev.chunkResult, h.attendChunk, h.queryOf]

/-- Two results of one job's chunk and head take the same place. -/
def AttPart.samePlace (a b : AttPart) : Bool := b.handle == a.handle && b.layer == a.layer && b.head == a.head && b.chunk == a.chunk

theorem Dev.head_chunkResult (d : Dev) (job : AttJob) (chunk : Nat) (positions : List Nat) (q : AttQuery) :
    (d.chunkResult job chunk positions q).head = q.head := by
  unfold Dev.chunkResult Dev.attendChunk
  extract_lets slot scale ks vs bad
  split <;> rfl

/-- Lupin computes the chunk for one query: the score SRAM and the results in progress take it. -/
def Dev.attendQuery (job : AttJob) (lane buffer chunk : Nat) (positions : List Nat) (d : Dev) (qi : AttQuery × Nat) : Dev :=
  let y := d.attendChunk false job qi.1.head chunk (d.queryOf qi.1 job.elems) 1 positions
  let base := 131072 * lane + 65536 * buffer + 4096 * (qi.2 % 16)
  let sram := y.2.zipIdx.foldl (fun m s => SMap.put 0 m (base + s.2) s.1) d.engine.lupinScores
  { d with engine := { d.engine with lupinScores := sram } }.addPart y.1

section
variable {job : AttJob} {lane buffer chunk : Nat} {positions : List Nat} {d₀ d : Dev}

theorem Dev.attendQuery_only (qi : AttQuery × Nat) : d.only (Dev.attendQuery job lane buffer chunk positions d qi) [.engine] :=
  Dev.only_trans (d.only_engine _) (Dev.only_engine _ _)

theorem Dev.ReadsAlike.attendQuery (h : Dev.ReadsAlike d₀ d) (qi : AttQuery × Nat) :
    Dev.ReadsAlike d₀ (Dev.attendQuery job lane buffer chunk positions d qi) :=
  h.trans ((d.readsAlike_engine _).trans (Dev.readsAlike_engine _ _))

/-- A result is there of one of the queries with the head of `q`, as the state `d₀` before the job gives it. -/
def Dev.Answered (d₀ : Dev) (job : AttJob) (chunk : Nat) (positions : List Nat) (d : Dev) (q : AttQuery) : Prop :=
  ∃ q' ∈ job.queries, q'.head = q.head ∧ d₀.chunkResult job chunk positions q' ∈ d.engine.attention

theorem Dev.attention_attendQuery (h : Dev.ReadsAlike d₀ d) (qi : AttQuery × Nat) :
    (Dev.attendQuery job lane buffer chunk positions d qi).engine.attention
      = (d.engine.attention.filter fun b => !(d₀.chunkResult job chunk positions qi.1).samePlace b)
        ++ [d₀.chunkResult job chunk positions qi.1] := by
  rw [← h.chunkResult]
  rfl

theorem Dev.answered_attendQuery_own (h : Dev.ReadsAlike d₀ d) {qi : AttQuery × Nat} (hq : qi.1 ∈ job.queries) :
    Dev.Answered d₀ job chunk positions (Dev.attendQuery job lane buffer chunk positions d qi) qi.1 :=
  ⟨qi.1, hq, rfl, by rw [Dev.attention_attendQuery h]; exact List.mem_append_right _ (List.mem_singleton.mpr rfl)⟩

/-- A later result takes the place of an earlier one of its own head only. -/
theorem Dev.Answered.attendQuery {q : AttQuery} (ha : Dev.Answered d₀ job chunk positions d q) (h : Dev.ReadsAlike d₀ d)
    {qi : AttQuery × Nat} (hq : qi.1 ∈ job.queries) :
    Dev.Answered d₀ job chunk positions (Dev.attendQuery job lane buffer chunk positions d qi) q := by
  obtain ⟨q', hm, hh, hr⟩ := ha
  by_cases hs : (d₀.chunkResult job chunk positions qi.1).samePlace (d₀.chunkResult job chunk positions q') = true
  · have he : q'.head = qi.1.head := by
      simp only [AttPart.samePlace, Bool.and_eq_true, beq_iff_eq, Dev.head_chunkResult] at hs
      exact hs.1.2
    obtain ⟨q₂, hm₂, hh₂, hr₂⟩ := Dev.answered_attendQuery_own (lane := lane) (buffer := buffer) (chunk := chunk) (positions := positions) h hq
    exact ⟨q₂, hm₂, hh₂.trans (he.symm.trans hh), hr₂⟩
  · refine ⟨q', hm, hh, ?_⟩
    rw [Dev.attention_attendQuery h]
    exact List.mem_append_left _ (List.mem_filter.mpr ⟨hr, by simpa using hs⟩)

/-- After all the queries of a list each of them is answered, and the job's reads see what they saw. -/
theorem Dev.answered_forAll {qs : List (AttQuery × Nat)} (hs : ∀ qi ∈ qs, qi.1 ∈ job.queries) (h : Dev.ReadsAlike d₀ d) {q : AttQuery}
    (hq : q ∈ qs.map Prod.fst ∨ Dev.Answered d₀ job chunk positions d q) :
    Dev.Answered d₀ job chunk positions (d.forAll qs (Dev.attendQuery job lane buffer chunk positions)) q := by
  induction qs generalizing d with
  | nil =>
    obtain hq | hq := hq
    · cases hq
    · exact hq
  | cons qi qs ih =>
    have hm : qi.1 ∈ job.queries := hs qi List.mem_cons_self
    refine ih (d := Dev.attendQuery job lane buffer chunk positions d qi) (fun x hx => hs x (List.mem_cons_of_mem _ hx)) (h.attendQuery qi) ?_
    obtain hq | hq := hq
    · obtain rfl | hq := List.mem_cons.mp hq
      · exact .inr (Dev.answered_attendQuery_own h hm)
      · exact .inl hq
    · exact .inr (hq.attendQuery h hm)

end

/-! ### LUPIN_CHUNK_JOB -/

/-- The heads whose last chunk this was are complete. -/
def Dev.writeHeads (d : Dev) (p : Nat) (job : AttJob) : Dev :=
  d.forAll job.queries fun d q => match q.out with | some o => d.writeHead true p job q.head o | none => d

theorem Dev.stores_writeHeads (d : Dev) (p : Nat) (job : AttJob) : Dev.Stores d (d.writeHeads p job) := by
  refine .forAll (fun d q => ?_) _ _
  split
  · exact d.stores_writeHead _ _ _ _ _
  · exact .refl

/-- The package once a chunk's job is counted and its queries are read. -/
def Dev.chunkBegun (d : Dev) (job : AttJob) (bytes : Nat) : Dev :=
  (((d.count DC.lupinJobs).count DC.lupinBytes bytes).count DC.stackBytesB bytes).forAll job.queries fun d q => d.useQuery q job.elems

section
variable (d : Dev) (job : AttJob) (bytes : Nat)

theorem Dev.readsAlike_chunkBegun : Dev.ReadsAlike d (d.chunkBegun job bytes) :=
  (((d.readsAlike_count _ _).trans (Dev.readsAlike_count _ _ _)).trans (Dev.readsAlike_count _ _ _)).trans
    (.forAll (fun d q => d.readsAlike_useQuery q _) _ _)

theorem Dev.counter_chunkBegun : (d.chunkBegun job bytes).counter DC.lupinJobs = d.counter DC.lupinJobs + 1 := by
  refine ((Dev.Touches.forAll (fun d q => d.stores_useQuery q job.elems) job.queries _).counter _ List.not_mem_nil).trans ?_
  rw [Dev.counter_count, if_neg (by decide), Dev.counter_count, if_neg (by decide), Dev.counter_count, if_pos rfl]
  rfl

end

section
variable {s : State} {p lane buffer chunk : Nat} {job : AttJob}

/-- The job's positions. -/
def Dev.jobPositions (d : Dev) (job : AttJob) (chunk : Nat) : List Nat := (d.chunkPositions (slotOf job.handle) chunk).2

/-- The bytes of keys and values that the job streams (R151, R170). -/
def Dev.chunkBytes (d : Dev) (p : Nat) (job : AttJob) (chunk : Nat) : Nat :=
  2 * (d.chunkPositions (slotOf job.handle) chunk).1 * ((d.job p).params.posBytes / 64) * ceilDiv job.queries.length 16

theorem exec_lupinChunkJob_own (h : s.dev.bearHandle job.handle (s.dev.chunkPages (slotOf job.handle) chunk) = true) :
    exec (.lupinChunkJob p job lane buffer chunk) s = .next { s with dev :=
      ((((s.dev.pagesRefused (slotOf job.handle) (s.dev.chunkPages (slotOf job.handle) chunk)).chunkBegun job (s.dev.chunkBytes p job chunk)).forAll
        job.queries.zipIdx (Dev.attendQuery job lane buffer chunk (s.dev.jobPositions job chunk))).writeHeads p job) } := by
  rw [show exec (.lupinChunkJob p job lane buffer chunk) s = execLupinChunkJob p job lane buffer chunk s from rfl, execLupinChunkJob]
  refine State.on_eq ?_
  dsimp only
  rw [Dev.checkPages_own h]
  rfl

theorem exec_lupinChunkJob_foreign (h : ¬ s.dev.bearHandle job.handle (s.dev.chunkPages (slotOf job.handle) chunk) = true) :
    exec (.lupinChunkJob p job lane buffer chunk) s = .next
      { s with dev := s.dev.foreignPage (slotOf job.handle) (s.dev.chunkPages (slotOf job.handle) chunk) } := by
  rw [show exec (.lupinChunkJob p job lane buffer chunk) s = execLupinChunkJob p job lane buffer chunk s from rfl, execLupinChunkJob]
  refine State.on_eq ?_
  dsimp only
  rw [Dev.checkPages_foreign h]
  rfl

theorem runs_lupinChunkJob_own (h : s.dev.bearHandle job.handle (s.dev.chunkPages (slotOf job.handle) chunk) = true) :
    Runs (.lupinChunkJob p job lane buffer chunk) s fun d' =>
      (∀ q ∈ job.queries, Dev.Answered s.dev job chunk (s.dev.jobPositions job chunk) d' q)
      ∧ d'.counter DC.lupinJobs = s.dev.counter DC.lupinJobs + 1 ∧ (∀ x, d'.byte x = s.dev.byte x)
      ∧ s.dev.only d' [.engine, .obs, .array, .host, .stack, .serve, .fresh] := by
  have e := exec_lupinChunkJob_own (p := p) (lane := lane) (buffer := buffer) h
  have hr := s.dev.readsAlike_pagesRefused (slotOf job.handle) (s.dev.chunkPages (slotOf job.handle) chunk)
  have hc := (s.dev.touches_pagesRefused (slotOf job.handle) (s.dev.chunkPages (slotOf job.handle) chunk)).counter DC.lupinJobs (by decide)
  revert e hr hc
  generalize s.dev.chunkBytes p job chunk = bytes
  generalize s.dev.pagesRefused (slotOf job.handle) (s.dev.chunkPages (slotOf job.handle) chunk) = d₁
  intro e hr hc
  have hb : Dev.ReadsAlike s.dev (d₁.chunkBegun job bytes) := hr.trans (d₁.readsAlike_chunkBegun job bytes)
  have ha := fun q (hq : q ∈ job.queries) => Dev.answered_forAll (lane := lane) (buffer := buffer) (chunk := chunk)
    (positions := s.dev.jobPositions job chunk) (q := q) (qs := job.queries.zipIdx)
    (fun qi hm => List.fst_mem_of_mem_zipIdx hm) hb (.inl (by rwa [List.zipIdx_map_fst]))
  have ho := Dev.only_forAll (fun d qi => d.attendQuery_only (job := job) (lane := lane) (buffer := buffer) (chunk := chunk)
    (positions := s.dev.jobPositions job chunk) qi) job.queries.zipIdx (d₁.chunkBegun job bytes)
  revert e ha ho
  generalize (d₁.chunkBegun job bytes).forAll job.queries.zipIdx (Dev.attendQuery job lane buffer chunk (s.dev.jobPositions job chunk)) = d₂
  intro e ha ho
  have hw := d₂.stores_writeHeads p job
  refine Runs.of_next e ⟨fun q hq => ?_, ?_, fun x => ?_, ?_⟩
  · obtain ⟨q', hm, hh, hi⟩ := ha q hq
    exact ⟨q', hm, hh, by rwa [hw.only .engine (by simp [storeBlocks])]⟩
  · rw [hw.counter _ List.not_mem_nil, (Dev.touches_of_only ho (ho .obs (by simp))).counter _ List.not_mem_nil, d₁.counter_chunkBegun, hc]
  · rw [Dev.byte, hw.only .stack (by simp [storeBlocks]), ho .stack (by simp)]
    exact hb.byte x
  · exact Dev.only_mono ((hb.only.append ho).append hw.only) (by simp [storeBlocks])

/-- A live request that another package leads is reported lost at the next boundary (R178). -/
theorem Dev.loseRequest_elsewhere {d : Dev} {slot : Nat} (hl : (d.req slot).state.live = true) (hn : d.isLead (d.req slot).partition = false) :
    d.loseRequest slot = d.updJob (d.req slot).partition fun j => { j with lostOut := j.lostOut ++ [handleOf slot (d.req slot).gen] } := by
  unfold Dev.loseRequest
  extract_lets r written
  rw [if_pos hl, if_neg (by rw [hn]; exact Bool.false_ne_true)]

theorem runs_lupinChunkJob_foreign (h : ¬ s.dev.bearHandle job.handle (s.dev.chunkPages (slotOf job.handle) chunk) = true) :
    Runs (.lupinChunkJob p job lane buffer chunk) s fun d' => d'.engine = s.dev.engine
      ∧ d'.counter DC.kvHandleErr = s.dev.counter DC.kvHandleErr + 1
      ∧ ((s.dev.req (slotOf job.handle)).state.live = true → s.dev.isLead (s.dev.req (slotOf job.handle)).partition = false →
          (d'.job (s.dev.req (slotOf job.handle)).partition).lostOut = (s.dev.job (s.dev.req (slotOf job.handle)).partition).lostOut
            ++ [handleOf (slotOf job.handle) (s.dev.req (slotOf job.handle)).gen]) := by
  have e := exec_lupinChunkJob_foreign (p := p) (lane := lane) (buffer := buffer) h
  have ht := s.dev.touches_pagesRefused (slotOf job.handle) (s.dev.chunkPages (slotOf job.handle) chunk)
  unfold Dev.foreignPage at e
  revert e ht
  generalize s.dev.pagesRefused (slotOf job.handle) (s.dev.chunkPages (slotOf job.handle) chunk) = d₁
  generalize slotOf job.handle = slot
  intro e ht
  have hw := (d₁.count DC.kvHandleErr).writes_loseRequest slot
  refine Runs.of_next e ⟨?_, ?_, fun hlive hlead => ?_⟩
  · exact (hw.only .engine (by simp [hostBlocks])).trans (ht.only .engine (by simp))
  · rw [hw.counter DC.kvHandleErr (by decide), Dev.counter_count, if_pos rfl, ht.counter DC.kvHandleErr (by decide)]
    rfl
  · have hs : (d₁.count DC.kvHandleErr).serve = s.dev.serve := ht.only .serve (by simp)
    have hreq : (d₁.count DC.kvHandleErr).req slot = s.dev.req slot := by rw [Dev.req, hs]; rfl
    have hl : (d₁.count DC.kvHandleErr).isLead (s.dev.req slot).partition = false :=
      (Dev.isLead_of (d := s.dev) (d' := d₁.count DC.kvHandleErr) (ht.only .sys (by simp)) (ht.only .glob (by simp)) _).trans hlead
    rw [← hreq] at hlive hl
    rw [Dev.loseRequest_elsewhere hlive hl, hreq, Dev.job_updJob, Dev.job, hs]
    rfl

/-! ### ATTENTION_BARRIER_RELEASE (R153, R156) -/

/-- Every sequencer of partition `p` that waits at the barrier goes on; the others are as they were. -/
def Dev.barrierReleased (d : Dev) (p : Nat) : Dev := d.updSeqs p fun q => if q.atBarrier then q.release d.now else q

theorem Dev.cluster_barrierReleased (d : Dev) (p c : Nat) : (d.barrierReleased p).cluster c = if c ∈ d.partClusters p then
    { d.cluster c with sequencer := if (d.cluster c).sequencer.atBarrier then (d.cluster c).sequencer.release d.now else (d.cluster c).sequencer }
    else d.cluster c :=
  Dev.cluster_forAll_updCluster (fun x => { x with sequencer := if x.sequencer.atBarrier then x.sequencer.release d.now else x.sequencer })
    (d.nodup_partClusters p) d c

/-- The results of partition `p`'s requests are discarded. -/
def Dev.resultsDiscarded (d : Dev) (p : Nat) : Dev :=
  { d with engine := { d.engine with attention := d.engine.attention.filter fun a => !((d.req (slotOf a.handle)).partition == p) } }

theorem Dev.req_of_mem_resultsDiscarded {d : Dev} {p : Nat} {a : AttPart} (h : a ∈ (d.resultsDiscarded p).engine.attention) :
    (d.req (slotOf a.handle)).partition ≠ p := by
  simpa using (List.mem_filter.mp h).2

theorem exec_attentionBarrierRelease (s : State) (p : Nat) :
    exec (.attentionBarrierRelease p) s = .next { s with dev := (s.dev.barrierReleased p).resultsDiscarded p } := by
  rw [show exec (.attentionBarrierRelease p) s = execAttentionBarrierRelease p s from rfl]
  unfold execAttentionBarrierRelease Dev.barrierReleased Dev.resultsDiscarded
  exact State.on_next s _

theorem runs_attentionBarrierRelease (s : State) (p : Nat) : Runs (.attentionBarrierRelease p) s fun d' => s.dev.only d' [.array, .engine]
    ∧ (∀ a ∈ d'.engine.attention, (s.dev.req (slotOf a.handle)).partition ≠ p)
    ∧ (∀ c, c ∉ s.dev.partClusters p → d'.cluster c = s.dev.cluster c)
    ∧ ∀ c ∈ s.dev.partClusters p, (d'.cluster c).sequencer.atBarrier = false
      ∧ ((s.dev.cluster c).sequencer.atBarrier = true → (d'.cluster c).sequencer.pc = (s.dev.cluster c).sequencer.pc + 1
        ∧ (d'.cluster c).sequencer.base = s.dev.now) := by
  have hk := s.dev.keepsArray_updSeqs p fun q => if q.atBarrier then q.release s.dev.now else q
  have hd : (s.dev.barrierReleased p).only ((s.dev.barrierReleased p).resultsDiscarded p) [.engine] := Dev.only_engine _ _
  have hc : ∀ c, ((s.dev.barrierReleased p).resultsDiscarded p).cluster c = (s.dev.barrierReleased p).cluster c :=
    Dev.cluster_of_array (hd .array (by simp))
  refine Runs.of_next (exec_attentionBarrierRelease s p) ⟨hk.only.append hd, fun a ha => ?_, fun c hn => ?_, fun c hm => ?_⟩
  · have hr : (s.dev.barrierReleased p).req (slotOf a.handle) = s.dev.req (slotOf a.handle) :=
      congrArg (fun x : ServeBlk => SMap.get (ReqEntry.free 0) x.table (slotOf a.handle)) (hk.only .serve (by simp))
    exact hr ▸ Dev.req_of_mem_resultsDiscarded ha
  · rw [hc, Dev.cluster_barrierReleased, if_neg hn]
  · rw [hc, Dev.cluster_barrierReleased, if_pos hm]
    dsimp only
    split
    next hb => exact ⟨rfl, fun _ => ⟨rfl, rfl⟩⟩
    next hb => exact ⟨Bool.eq_false_of_not_eq_true hb, fun hb' => absurd hb' hb⟩

end

/-- Settles O38: own pages give a result for every head, a foreign one ends the request, and the release lets the sequencers go on. -/
theorem attentionReadsOnlyItsOwnPages : Obligations.AttentionReadsOnlyItsOwnPages := by
  unfold Obligations.AttentionReadsOnlyItsOwnPages
  intro s p lane buffer chunk job slot ok
  exact ⟨runs_lupinChunkJob_own, runs_lupinChunkJob_foreign, runs_attentionBarrierRelease s p⟩

end Sys2Proof.Machine
end

section
/-! SUPPORT. What a BULK message sets to work: loads, replicas, reports to the lead and stops that clear; none of it leaves the blocks of the work,
so reset, power, partitions, ledger and security stay (R98, R203, R204, R308, R322 to R332, R436, R439). -/

namespace Sys2Proof.Machine

/-! ### Work and the blocks it stays in -/

/-- The change stays in the blocks of the work. -/
abbrev Dev.Within (d d' : Dev) : Prop := d.only d' workBlocks

section
variable {d d₁ : Dev}

theorem Dev.within_of {bs : List Blk} (h : d.only d₁ bs) (hb : bs.all (workBlocks.contains ·) = true) : Dev.Within d d₁ :=
  Dev.only_mono h fun b hm => by simpa using List.all_eq_true.mp hb b hm

end

section
variable (d : Dev) (p : Nat)

theorem Dev.within_refl : Dev.Within d d := d.only_refl _

theorem Dev.within_updJob (f : Job → Job) : Dev.Within d (d.updJob p f) := Dev.within_of (d.updJob_only p f) rfl

theorem Dev.within_send (m : OutMsg) : Dev.Within d (d.send m) := Dev.within_of (d.send_only m) rfl

theorem Dev.within_count (n k : Nat) : Dev.Within d (d.count n k) := Dev.within_of (d.count_only n k) rfl

theorem Dev.within_stack (x : StackBlk) : Dev.Within d { d with stack := x } := Dev.within_of (d.only_stack x) rfl

theorem Dev.within_setCommit (x : Commit) : Dev.Within d (d.setCommit p x) := Dev.within_of (d.setCommit_only p x) rfl

theorem Dev.within_setBank (b : Nat) (x : BankInfo) : Dev.Within d (d.setBank p b x) := Dev.within_of (d.setBank_only p b x) rfl

theorem Dev.within_setLoad (x : Option ShardLoad) : Dev.Within d (d.setLoad p x) := Dev.within_of (d.setLoad_only p x) rfl

theorem Dev.within_setReplica (x : Replica) : Dev.Within d (d.setReplica p x) := Dev.within_stack _ _

theorem Dev.within_unitWrite (a : Nat) (bs : List Byte) : Dev.Within d (d.unitWrite p a bs) := Dev.within_of (d.unitWrite_only p a bs) rfl

theorem Dev.within_complete (o : Origin) (opcode status : Byte) (result : U32) : Dev.Within d (d.complete o opcode status result) :=
  Dev.within_of (d.writes_complete o opcode status result).only rfl

theorem Dev.within_forAll_send {α : Type} (m : α → OutMsg) (xs : List α) : Dev.Within d (d.forAll xs fun d x => d.send (m x)) :=
  Dev.within_of (Dev.forAll_send_only m xs d) rfl

end

/-! ### Reports to the lead (R325, R329) -/

section
variable (d : Dev) (p : Nat)

theorem Dev.within_finishLoad : Dev.Within d (d.finishLoad p) := by
  unfold Dev.finishLoad
  split
  · exact d.within_refl
  · split
    · extract_lets d₁
      have h₁ : Dev.Within d d₁ := d.within_updJob p _
      split
      · exact Dev.only_trans h₁ (d₁.within_complete _ _ _ _)
      · exact Dev.only_trans h₁ (d₁.within_complete _ _ _ _)
    · exact d.within_refl

theorem Dev.within_takeLoadReport (m : Nat) (version : U32) (status : Byte) : Dev.Within d (d.takeLoadReport p m version status) :=
  Dev.only_trans (d.within_updJob p _) (Dev.within_finishLoad _ p)

theorem Dev.within_reportLoad (version : U32) (status : Byte) : Dev.Within d (d.reportLoad p version status) := by
  unfold Dev.reportLoad
  split
  · exact d.within_refl
  · split
    · exact d.within_takeLoadReport p _ _ _
    · exact d.within_send _

theorem Dev.within_takeCommitReport (m : Nat) (version : U32) (status : Byte) : Dev.Within d (d.takeCommitReport p m version status) := by
  unfold Dev.takeCommitReport
  extract_lets d₁
  have h₁ : Dev.Within d d₁ := by
    unfold d₁
    split
    · exact d.within_refl
    · exact d.within_updJob p _
  split
  · exact h₁
  · split
    · exact Dev.only_trans h₁ (Dev.only_trans (d₁.within_updJob p _) (Dev.within_complete _ _ _ _ _))
    · exact h₁

theorem Dev.within_takeBankReport (m : Nat) (active ready : U32) : Dev.Within d (d.takeBankReport p m active ready) := by
  unfold Dev.takeBankReport
  split
  · exact d.within_refl
  · exact d.within_updJob p _

theorem Dev.within_takeOpReport (step : U48) (grads : List (Nat × List Byte)) (xfer : Option Byte) :
    Dev.Within d (d.takeOpReport p step grads xfer) := d.within_updJob p _

theorem Dev.within_reportBanks : Dev.Within d (d.reportBanks p) := by
  unfold Dev.reportBanks
  split
  · exact d.within_refl
  · split
    · exact d.within_refl
    · exact d.within_send _

theorem Dev.within_finishCalibrates : Dev.Within d (d.finishCalibrates p) := by
  unfold Dev.finishCalibrates
  extract_lets done cs d₁
  refine Dev.only_trans (d.within_updJob p _) (Dev.only_forAll (fun d c => ?_) _ _)
  split
  · exact d.within_complete _ _ _ _
  · exact d.within_send _

/-! ### Banks (R323, R325, R329, R332) -/

theorem Dev.updTable_only (lt : Nat) (f : CorrTab → CorrTab) : d.only (d.updTable lt f) [.array] := d.only_array _

theorem Dev.orderTile_only (k : Nat) : d.only (d.orderTile k) [.array] :=
  Dev.only_trans (Dev.only_trans (d.updTile_only k _) (Dev.rehold_only _ k)) (Dev.updCluster_only _ _ _)

theorem Dev.orderProgramming_only (b : Nat) : d.only (d.orderProgramming p b) [.array] := by
  unfold Dev.orderProgramming
  extract_lets placed spares d₁
  have hs : ∀ (d : Dev) (e : Nat × Tile), d.only (d.orderTile e.1) [.array] := fun d e => d.orderTile_only e.1
  have h₁ : d.only d₁ [.array] := Dev.only_forAll hs spares d
  refine Dev.only_trans h₁ (Dev.only_forAll (fun d cl => ?_) placed d₁)
  split
  · exact d.only_refl _
  · exact d.orderTile_only _

/-- Programs, slots and tables of a bank enter clusters and tables; its parameters enter the job. -/
theorem Dev.loadSchedule_only (b : Nat) : d.only (d.loadSchedule p b) [.array, .serve] := by
  unfold Dev.loadSchedule
  extract_lets i d₁ d₂ d₃ d₄ d₅ other kept base x d₆ addr d₇ d₈ d₉
  have hc : ∀ (d : Dev) (c : Nat) (f : Cluster → Cluster), d.only (d.updCluster c f) [.array] := fun d c f => d.updCluster_only c f
  have h₁ : d.only d₁ [.array] := Dev.only_forAll (fun d c =>
    Dev.only_trans (hc d c _) (Dev.only_forAll (fun d k => d.updTable_only k _) _ _)) _ _
  have h₂ : d₁.only d₂ [.array] := Dev.only_forAll (fun d h => hc d _ _) _ _
  have h₃ : d₂.only d₃ [.array] := Dev.only_forAll (fun d h => hc d _ _) _ _
  have h₄ : d₃.only d₄ [.array] := Dev.only_forAll (fun d h => hc d _ _) _ _
  have h₅ : d₄.only d₅ [.array] := Dev.only_forAll (fun d h => hc d _ _) _ _
  have h₆ : d₅.only d₆ [.array] := d₅.only_array _
  have h₇ : d₆.only d₇ [.array] := Dev.only_forAll (fun d h => d.updTable_only _ _) _ _
  have h₈ : d₇.only d₈ [.array] := Dev.only_forAll (fun d h => d.updTable_only _ _) _ _
  have h₉ : d₈.only d₉ [.array] := by
    unfold d₉
    refine Dev.only_forAll (fun d h => ?_) _ _
    extract_lets row
    exact d.updTable_only _ _
  have a₃ : d.only d₃ [.array] := Dev.only_trans (Dev.only_trans h₁ h₂) h₃
  have a₆ : d₃.only d₆ [.array] := Dev.only_trans (Dev.only_trans h₄ h₅) h₆
  have a₉ : d₆.only d₉ [.array] := Dev.only_trans (Dev.only_trans h₇ h₈) h₉
  have h : d.only d₉ [.array] := Dev.only_trans (Dev.only_trans a₃ a₆) a₉
  split
  · exact d.only_refl _
  · exact h.append (d₉.updJob_only p _)

theorem Dev.within_beginCommit (version : U32) : Dev.Within d (d.beginCommit p version) := by
  unfold Dev.beginCommit
  extract_lets c b d₁ d₂
  have h₁ : Dev.Within d d₁ := d.within_stack _
  have h₂ : Dev.Within d₁ d₂ := Dev.within_of (Dev.only_forAll (fun d c => d.updCluster_only c _) _ _) rfl
  split
  · exact d.within_refl
  · exact Dev.only_trans (Dev.only_trans h₁ h₂) (Dev.within_of (d₂.orderProgramming_only p b) rfl)

theorem Dev.within_blankTile (k : Nat) : Dev.Within d (d.blankTile k) := by
  unfold Dev.blankTile
  split
  · exact d.within_refl
  · refine Dev.within_of (Dev.only_trans (bs := [.array]) ?_ (Dev.updTile_only _ _ _)) rfl
    exact Dev.only_trans (Dev.only_trans (d.updTile_only k _) (Dev.rehold_only _ k)) (Dev.updCluster_only _ _ _)

theorem Dev.within_loseShard : Dev.Within d (d.loseShard p) := by
  unfold Dev.loseShard
  extract_lets c d₁ d₂
  have h₁ : Dev.Within d d₁ := by
    unfold d₁
    split
    · exact d.within_setCommit p _
    · exact d.within_refl
  have h₂ : Dev.Within d₁ d₂ := Dev.only_forAll (fun d k => d.within_blankTile k) _ _
  refine Dev.only_trans ?_ (Dev.within_of (Dev.event_only _ _) rfl)
  exact Dev.only_trans (Dev.only_trans h₁ h₂) (Dev.only_trans (Dev.only_trans (d₂.within_updJob p _) (Dev.within_setLoad _ p _)) (Dev.within_reportBanks _ p))

theorem Dev.within_failLoad (status : Byte) : Dev.Within d (d.failLoad p status) :=
  Dev.only_trans (Dev.only_trans (d.within_setCommit p _) (Dev.within_setLoad _ p _)) (Dev.within_reportLoad _ p _ _)

theorem Dev.within_badLoad (l : ShardLoad) (status : Byte) : Dev.Within d (d.badLoad p l status) := by
  unfold Dev.badLoad
  split
  · exact d.within_loseShard p
  · exact d.within_failLoad p status

theorem Dev.within_layImages (b : Nat) (ps : List Placed) (part : List Byte) (sel : Nat → Bool) :
    Dev.Within d (d.layImages p b ps part sel) := by
  refine Dev.only_forAll (fun d x => Dev.only_forAll (fun d r => ?_) _ d) _ d
  dsimp only
  split
  · exact d.within_refl
  · exact d.within_unitWrite p _ _

theorem Dev.within_layDigests (b : Nat) (cs : List Nat) : Dev.Within d (d.layDigests p b cs) :=
  Dev.only_forAll (fun d _ => Dev.only_trans (d.within_unitWrite p _ _) (Dev.within_of (Dev.only_fresh _ _) rfl)) _ d

theorem Dev.within_layDahlia (b : Nat) (all : List ChunkContent) : Dev.Within d (d.layDahlia p b all) := by
  refine Dev.only_forAll (fun d x => ?_) _ d
  split
  · exact d.within_unitWrite p _ _
  · exact d.within_refl

theorem Dev.within_endRebuild (l : ShardLoad) (cs : List Nat) : Dev.Within d (d.endRebuild p l cs) := by
  unfold Dev.endRebuild
  extract_lets i d₁ d₂ d₃
  have h₁ : Dev.Within d d₁ := d.within_layImages p _ _ _ _
  have h₂ : Dev.Within d₁ d₂ := Dev.only_trans (Dev.only_trans (d₁.within_layDigests p _ _) (Dev.within_setBank _ p _ _)) (Dev.within_setLoad _ p _)
  have h₃ : Dev.Within d₂ d₃ := Dev.only_trans (d₂.within_count _ _) (Dev.within_of (Dev.loadSchedule_only _ p _) rfl)
  refine Dev.only_trans (Dev.only_trans (Dev.only_trans h₁ h₂) h₃) (Dev.only_forAll (fun d x => ?_) _ _)
  split
  · exact Dev.within_of (d.orderTile_only _) rfl
  · exact d.within_refl

/-- The bank of a load that has every chunk is judged and laid, and the load is reported or programmed. -/
theorem Dev.within_endLoad (l : ShardLoad) : Dev.Within d (d.endLoad p l) := by
  unfold Dev.endLoad
  extract_lets i all c b d₁ d₂ c' d₃
  have h₁ : Dev.Within d d₁ := d.within_layImages p _ _ _ _
  have h₂ : Dev.Within d₁ d₂ := Dev.only_trans (Dev.only_trans (d₁.within_layDigests p _ _) (Dev.within_layDahlia _ p _ _)) (Dev.within_setBank _ p _ _)
  have h₃ : Dev.Within d₂ d₃ := Dev.only_trans (d₂.within_setCommit p _) (Dev.within_setLoad _ p _)
  have h := Dev.only_trans (Dev.only_trans h₁ h₂) h₃
  split
  · exact Dev.only_trans (d.within_count _ _) (Dev.within_badLoad _ p l _)
  · split
    · exact d.within_badLoad p l _
    · split
      · exact d.within_endRebuild p l _
      · split
        · exact Dev.only_trans h (d₃.within_beginCommit p _)
        · exact Dev.only_trans h (d₃.within_reportLoad p _ _)

theorem Dev.within_issueReads : Dev.Within d (d.issueReads p) := by
  unfold Dev.issueReads
  split
  · exact d.within_refl
  · exact Dev.only_trans (d.within_setLoad p _) (Dev.within_forAll_send _ _ _)

theorem Dev.within_takeChunk (x : FormChunk) (peer : Bool) : Dev.Within d (d.takeChunk p x peer) := by
  unfold Dev.takeChunk
  split
  · exact d.within_refl
  · split
    · exact d.within_refl
    · extract_lets part x' st d₁ d₂ l' d₃
      have h₁ : Dev.Within d d₁ := Dev.only_trans (d.within_count _ _) (Dev.within_count _ _ _)
      have h₂ : Dev.Within d d₂ := by
        unfold d₂
        split
        · exact Dev.only_trans h₁ (d₁.within_count _ _)
        · exact h₁
      have h₃ : Dev.Within d d₃ := Dev.only_trans h₂ (d₂.within_setLoad p _)
      split
      · exact Dev.only_trans h₂ (Dev.only_trans (d₂.within_count _ _) (Dev.within_badLoad _ p _ _))
      · split
        · exact Dev.only_trans h₂ (d₂.within_badLoad p _ _)
        · split
          · exact Dev.only_trans h₃ (d₃.within_endLoad p _)
          · exact Dev.only_trans h₃ (d₃.within_issueReads p)

theorem Dev.within_takeRecovery (version : U32) (digest : BitVec 384) (chunks : Nat) :
    Dev.Within d (d.takeRecovery p version digest chunks) := by
  unfold Dev.takeRecovery
  extract_lets c b
  split
  · exact d.within_refl
  · split
    · exact d.within_refl
    · exact Dev.only_trans (Dev.only_trans (d.within_setCommit p _) (Dev.within_setBank _ p _ _)) (Dev.within_setLoad _ p _)

/-! ### Replicas (R328) -/

theorem Dev.within_startReplica : Dev.Within d (d.startReplica p) := Dev.only_trans (d.within_setReplica p _) (Dev.within_send _ _)

theorem Dev.within_sendReplica (fits : Bool) : Dev.Within d (d.sendReplica p fits) := by
  unfold Dev.sendReplica
  split
  · exact Dev.only_forAll (fun d x => Dev.only_trans (d.within_count _ _) (Dev.within_send _ _)) _ d
  · exact d.within_setReplica p _

theorem Dev.within_replicaReported (version : U32) (digest : BitVec 384) : Dev.Within d (d.replicaReported p version digest) :=
  d.within_setReplica p _

theorem Dev.within_takeReplicaPart (x : FormChunk) : Dev.Within d (d.takeReplicaPart p x) :=
  Dev.only_trans (d.within_setReplica p _) (Dev.within_count _ _ _)

theorem Dev.within_giveChunk (n : Nat) : Dev.Within d (d.giveChunk p n) := by
  unfold Dev.giveChunk
  split
  · split
    · exact Dev.only_trans (d.within_count _ _) (Dev.within_send _ _)
    · exact d.within_refl
  · exact d.within_refl

/-! ### Stops that clear (R308, R309, R312) -/

theorem Dev.within_sys (x : SysBlk) : Dev.Within d { d with sys := x } := Dev.within_of (d.only_sys x) rfl

theorem Dev.within_pushJob : Dev.Within d (d.pushJob p) := Dev.within_forAll_send _ _ _

theorem Dev.within_resumeReplica : Dev.Within d (d.resumeReplica p) := by
  unfold Dev.resumeReplica
  split
  · exact d.within_startReplica p
  · exact d.within_refl

theorem Dev.within_clearStops : Dev.Within d d.clearStops := by
  unfold Dev.clearStops
  split
  · refine Dev.only_forAll (fun d p => ?_) _ d
    split
    · exact Dev.only_trans (Dev.only_trans (d.within_sys _) (Dev.within_pushJob _ p)) (Dev.within_resumeReplica _ p)
    · exact d.within_refl
  · exact d.within_refl

theorem Dev.within_spareCommitted (m : Nat) (version : U32) (status : Byte) : Dev.Within d (d.spareCommitted p m version status) := by
  unfold Dev.spareCommitted
  split
  · exact Dev.only_trans (d.within_sys _) (Dev.within_clearStops _)
  · exact d.within_refl

/-! ### Grafts and trace pages (R203, R204, R436) -/

theorem Dev.within_refuseGraft (o : Origin) (status : Byte) (area : Bool) : Dev.Within d (d.refuseGraft o status area) := by
  unfold Dev.refuseGraft
  extract_lets d₁ d₂
  have h₁ : Dev.Within d d₁ := d.within_complete _ _ _ _
  have h₂ : Dev.Within d₁ d₂ := by
    unfold d₂
    split
    · exact d₁.within_count _ _
    · exact d₁.within_refl
  split
  · exact Dev.only_trans (Dev.only_trans h₁ h₂) (d₂.within_count _ _)
  · exact Dev.only_trans h₁ h₂

theorem Dev.updGraft_only (id : Nat) (f : Graft → Graft) : d.only (d.updGraft id f) [.serve] := d.only_serve _

theorem Dev.within_takeGraftReport (id : BitVec 12) (load pos : Nat) (status : Byte) : Dev.Within d (d.takeGraftReport id load pos status) := by
  unfold Dev.takeGraftReport
  split
  · exact d.within_refl
  · split
    · exact Dev.within_of (d.updGraft_only _ _) rfl
    · refine Dev.only_trans ?_ (Dev.within_refuseGraft _ _ _ _)
      exact Dev.within_of (Dev.only_trans (d.updGraft_only _ _) (Dev.updJob_only _ _ _)) rfl

theorem Dev.within_takeGraftPart (id : BitVec 12) (ver : U16) (load : Nat) (x : GraftPart) : Dev.Within d (d.takeGraftPart p id ver load x) := by
  unfold Dev.takeGraftPart
  extract_lets st o d₁
  refine Dev.only_trans ?_ (Dev.within_send _ _)
  unfold d₁
  split
  · exact Dev.within_of (d.updGraft_only _ _) rfl
  · exact d.within_refl

theorem Dev.within_setTraceRing (x : Ring) : Dev.Within d (d.setTraceRing p x) := Dev.within_of (d.only_obs _) rfl

theorem Dev.within_tracePageArrive (bytes : List Byte) : Dev.Within d (d.tracePageArrive p bytes) := by
  unfold Dev.tracePageArrive
  extract_lets r base
  split
  · exact d.within_setTraceRing p _
  · split
    · exact d.within_setTraceRing p _
    · exact Dev.only_trans (d.within_setTraceRing p _) (Dev.within_of (Dev.only_host _ _) rfl)

theorem Dev.within_tracePageIn (bytes : List Byte) : Dev.Within d (d.tracePageIn p bytes) :=
  Dev.only_trans (d.within_setTraceRing p _) (Dev.only_trans (Dev.within_setTraceRing _ p _)
    (Dev.only_forAll (fun d b => d.within_tracePageArrive p b) _ _))

theorem Dev.within_takeDump (w : Nat) (x : DumpPart) : Dev.Within d (d.takeDump p w x) := by
  unfold Dev.takeDump
  split
  · exact Dev.within_of (d.setWatch_only p w _) rfl
  · exact d.within_refl

end

end Sys2Proof.Machine
end

section
/-! OBLIGATION. Step data, descriptors, acknowledgements and BULK messages where they arrive (R165, R183, R203, R204, R284, R302, R322, R325, R330,
R436, R439). -/

namespace Sys2Proof.Machine

/-! ### Transfers that end (R300, R302) -/

/-- The step of an operator that transfer `t` belongs to hears of a status other than SUCCESS. -/
def Dev.tellOperator (status : Byte) (d : Dev) (t : Transfer) : Dev :=
  match t.step with
  | some no => if status = St.success then d else d.reportOp t.partition no [] (some status)
  | none => d

/-- The transfers, those of `sel` with their status. -/
def closedTransfers (ts : List Transfer) (sel : Transfer → Bool) (status : Byte) : List Transfer :=
  ts.map fun t => if sel t then { t with done := some status } else t

def Dev.closeTransfers (d : Dev) (sel : Transfer → Bool) (status : Byte) : Dev :=
  { d with link := { d.link with transfers := closedTransfers d.link.transfers sel status } }

section
variable (d : Dev) (sel : Transfer → Bool) (status : Byte) (t : Transfer)

theorem Dev.endTransfer_eq :
    d.endTransfer sel status = (d.forAll (d.link.transfers.filter sel) (Dev.tellOperator status)).closeTransfers sel status := rfl

/-- The lead takes the report into its job; another member sends it. -/
theorem Dev.reportOp_only (p : Nat) (no : U48) (grads : List (Nat × List Byte)) (x : Option Byte) :
    d.only (d.reportOp p no grads x) [.serve, .host] := by
  unfold Dev.reportOp
  split
  · exact Dev.only_mono (d.updJob_only p _) (by simp)
  · exact Dev.only_mono (d.send_only _) (by simp)

theorem Dev.sent_reportOp (p : Nat) (no : U48) (grads : List (Nat × List Byte)) (x : Option Byte) :
    d.host.sent ⊆ (d.reportOp p no grads x).host.sent := by
  unfold Dev.reportOp
  split
  · exact List.Subset.refl _
  · exact List.subset_append_left _ _

theorem Dev.tellOperator_only : d.only (d.tellOperator status t) [.serve, .host] := by
  unfold Dev.tellOperator
  split
  · split
    · exact d.only_refl _
    · exact d.reportOp_only _ _ _ _
  · exact d.only_refl _

theorem Dev.sent_tellOperator : d.host.sent ⊆ (d.tellOperator status t).host.sent := by
  unfold Dev.tellOperator
  split
  · split
    · exact List.Subset.refl _
    · exact d.sent_reportOp _ _ _ _
  · exact List.Subset.refl _

end

section
variable {d : Dev} {sel : Transfer → Bool} {status : Byte} {t : Transfer}

theorem Dev.tellOperator_of_quiet (h : status = St.success ∨ t.step = none) : d.tellOperator status t = d := by
  unfold Dev.tellOperator
  split
  next no e => exact if_pos (h.resolve_right (by simp [e]))
  next => rfl

/-- What a member that is not the lead sends of a transfer of a step that did not succeed. -/
theorem Dev.tellOperator_sends {no : U48} (hs : t.step = some no) (hf : status ≠ St.success) (hl : d.isLead t.partition = false) :
    .bulk (.opReport t.partition no [] (some status)) ∈ (d.tellOperator status t).host.sent := by
  unfold Dev.tellOperator
  rw [hs]
  dsimp only
  rw [if_neg hf, Dev.reportOp, if_neg (by simp [hl])]
  exact List.mem_append_right _ (List.mem_singleton_self _)

theorem Dev.sent_forAll_tellOperator (ts : List Transfer) : d.host.sent ⊆ (d.forAll ts (Dev.tellOperator status)).host.sent :=
  Dev.forAll_holds (fun x => d.host.sent ⊆ x.host.sent) _ (fun e t h => List.Subset.trans h (e.sent_tellOperator status t)) ts d (List.Subset.refl _)

theorem Dev.forAll_tellOperator_sends {ts : List Transfer} (ht : t ∈ ts) {no : U48} (hs : t.step = some no) (hf : status ≠ St.success)
    (hl : d.isLead t.partition = false) :
    .bulk (.opReport t.partition no [] (some status)) ∈ (d.forAll ts (Dev.tellOperator status)).host.sent := by
  induction ts generalizing d with
  | nil => cases ht
  | cons t' ts ih =>
    rw [Dev.forAll_cons]
    obtain rfl | hm := List.mem_cons.mp ht
    · exact Dev.sent_forAll_tellOperator ts (Dev.tellOperator_sends hs hf hl)
    · have ho := d.tellOperator_only status t'
      exact ih hm ((Dev.isLead_of (ho .sys (by simp)) (ho .glob (by simp)) _).trans hl)

theorem Dev.forAll_tellOperator_of_quiet {ts : List Transfer} (h : status = St.success ∨ ∀ t ∈ ts, t.step = none) :
    d.forAll ts (Dev.tellOperator status) = d := by
  induction ts with
  | nil => rfl
  | cons t ts ih =>
    rw [Dev.forAll_cons, Dev.tellOperator_of_quiet (h.imp_right fun h => h t (by simp))]
    exact ih (h.imp_right fun h u hu => h u (List.mem_cons_of_mem _ hu))

theorem mem_closedTransfers_of_sel {ts : List Transfer} (ht : t ∈ ts) (h : sel t = true) :
    { t with done := some status } ∈ closedTransfers ts sel status := List.mem_map.mpr ⟨t, ht, if_pos h⟩

theorem mem_closedTransfers_of_not_sel {ts : List Transfer} (ht : t ∈ ts) (h : ¬ sel t = true) :
    t ∈ closedTransfers ts sel status := List.mem_map.mpr ⟨t, ht, if_neg h⟩

end

/-- What the end of the transfers of `sel` leaves, and what it tells. -/
structure Dev.TransfersEnded (d : Dev) (sel : Transfer → Bool) (status : Byte) (d' : Dev) : Prop where
  only : d.only d' [.link, .serve, .host]
  quiet : (status = St.success ∨ ∀ t ∈ d.link.transfers, sel t = true → t.step = none) → d.only d' [.link]
  told : ∀ t ∈ d.link.transfers, sel t = true → ∀ no, t.step = some no → status ≠ St.success → d.isLead t.partition = false →
    .bulk (.opReport t.partition no [] (some status)) ∈ d'.host.sent
  transfers : d'.link.transfers = closedTransfers d.link.transfers sel status

theorem Dev.transfersEnded (d : Dev) (sel : Transfer → Bool) (status : Byte) :
    Dev.TransfersEnded d sel status (d.endTransfer sel status) := by
  rw [d.endTransfer_eq sel status]
  have ho : d.only (d.forAll (d.link.transfers.filter sel) (Dev.tellOperator status)) [.serve, .host] :=
    Dev.only_forAll (fun d t => d.tellOperator_only status t) _ _
  have hlink : (d.forAll (d.link.transfers.filter sel) (Dev.tellOperator status)).link = d.link := ho .link (by simp)
  refine ⟨?only, fun h => ?quiet, fun t ht hs no hn hf hl => ?told, ?transfers⟩
  case only => exact Dev.only_mono (ho.append (Dev.only_link _ _)) (by simp)
  case quiet =>
    rw [Dev.forAll_tellOperator_of_quiet (h.imp_right fun h t ht => h t (List.mem_filter.mp ht).1 (List.mem_filter.mp ht).2)]
    exact d.only_link _
  case told => exact Dev.forAll_tellOperator_sends (List.mem_filter.mpr ⟨ht, hs⟩) hn hf hl
  case transfers => exact congrArg (fun x : LinkBlk => closedTransfers x.transfers sel status) hlink

/-! ### BULK messages (R165, R195, R203, R204, R308, R322, R325, R328, R330, R436, R439) -/

/-- The blocks that a BULK message may change. -/
def bulkBlocks : List Blk := .engine :: workBlocks

/-- A BULK message leaves the reset, power, partition, ledger and security blocks as they were. -/
theorem runs_bulk {s : State} {b : BulkBody} {d' : Dev} {post : Dev → Prop} (h : s.dev.only d' bulkBlocks)
    (he : exec (.bulkReceive 1 b) s = .next { s with dev := d' }) (hp : post d') : Runs (.bulkReceive 1 b) s fun d' => d'.rst = s.dev.rst ∧ d'.power = s.dev.power
      ∧ d'.part = s.dev.part ∧ d'.ledger = s.dev.ledger ∧ d'.sec = s.dev.sec ∧ post d' :=
  Runs.of_next he ⟨h .rst (by decide), h .power (by decide), h .part (by decide), h .ledger (by decide), h .sec (by decide), hp⟩

/-- Work leaves them, as the engines' block is none of them. -/
theorem runs_bulk_within {s : State} {b : BulkBody} {d' : Dev} {post : Dev → Prop} (h : Dev.Within s.dev d')
    (he : exec (.bulkReceive 1 b) s = .next { s with dev := d' }) (hp : post d') : Runs (.bulkReceive 1 b) s fun d' => d'.rst = s.dev.rst ∧ d'.power = s.dev.power
      ∧ d'.part = s.dev.part ∧ d'.ledger = s.dev.ledger ∧ d'.sec = s.dev.sec ∧ post d' :=
  runs_bulk (Dev.only_mono h (List.subset_cons_self _ _)) he hp

section
variable {d : Dev} {p : Nat}

theorem Dev.bufferLogits_too_long {x : LogitPart} (h : 262144 < x.first + x.values.length) : d.bufferLogits x = d := if_pos h

theorem Dev.bufferLogits_waits {x : LogitPart} (hl : x.first + x.values.length ≤ 262144) (hb : d.hasBuffer x = false) :
    x ∈ (d.bufferLogits x).engine.logitsWait ∧ (d.bufferLogits x).engine.logits = d.engine.logits := by
  rw [Dev.bufferLogits, if_neg (by omega), if_neg (by simp [hb])]
  exact ⟨List.mem_append_right _ (List.mem_singleton_self x), rfl⟩

theorem Dev.replicaArrives_fits {total : Nat} (h : total ≤ 16384 * (d.kindAt 2).2) : d.replicaArrives p total
    = (d.setReplica p { d.replica p with heldValid := false, form := [] }).send (.bulk (.replicaRoom p true)) := if_pos h

theorem Dev.replicaArrives_too_large {total : Nat} (h : 16384 * (d.kindAt 2).2 < total) :
    d.replicaArrives p total = d.send (.bulk (.replicaRoom p false)) := if_neg (by omega)

theorem Dev.setReplica_only (x : Replica) : d.only (d.setReplica p x) [.stack] := d.only_stack _

theorem Dev.replicaArrives_only (total : Nat) : d.only (d.replicaArrives p total) [.stack, .host] := by
  unfold Dev.replicaArrives
  split
  · exact Dev.setReplica_only _ |>.append (Dev.send_only _ _)
  · exact Dev.only_mono (d.send_only _) (by simp)

theorem Dev.giveChunk_held {n : Nat} {x : FormChunk} (hv : (d.replica p).heldValid = true)
    (hx : ((d.replica p).form.find? fun y => y.n == n) = some x) :
    d.giveChunk p n = (d.count DC.stackBytesC (ceilDiv x.length 64)).send (.bulk (.shardChunk p x)) := by
  rw [Dev.giveChunk, if_pos hv, hx]

theorem Dev.takeBankReport_only (m : Nat) (active ready : U32) : d.only (d.takeBankReport p m active ready) [.serve] := by
  unfold Dev.takeBankReport
  split
  · exact d.only_refl _
  · exact d.updJob_only p _

/-- What a member's banks hold is noted of that member. -/
theorem Dev.takeBankReport_notes {m : Nat} (h : d.memberIndex p ≠ some m) (active ready : U32) :
    SMap.get 0 ((d.takeBankReport p m active ready).job p).versions m = active
      ∧ SMap.get 0 ((d.takeBankReport p m active ready).job p).loaded m = ready := by
  rw [Dev.takeBankReport, if_neg h, Dev.job_updJob]
  exact ⟨SMap.get_put_same _ _ _ _, SMap.get_put_same _ _ _ _⟩

theorem Dev.takeDump_only (w : Nat) (x : DumpPart) : d.only (d.takeDump p w x) [.obs] := by
  unfold Dev.takeDump
  split
  · exact d.setWatch_only p w _
  · exact d.only_refl _

theorem Dev.watch_takeDump {w : Nat} {y : Watch} (h : d.watch p w = some y) (x : DumpPart) :
    (d.takeDump p w x).watch p w = some { y with parts := y.parts ++ [x], fired := true, step := d.stepNow p } := by
  rw [Dev.takeDump, h]
  exact d.watch_setWatch_same p w _

theorem Dev.takeGraftPart_only (id : BitVec 12) (v : U16) (n : Nat) (x : GraftPart) : d.only (d.takeGraftPart p id v n x) [.serve, .host] := by
  unfold Dev.takeGraftPart
  extract_lets st o d₁
  have h : d.only d₁ [.serve] := by
    unfold d₁
    split
    · exact d.updGraft_only _ _
    · exact d.only_refl _
  exact h.append (Dev.send_only _ _)

/-- A member's part is reported to the lead with what it was found to be. -/
theorem Dev.sent_takeGraftPart (id : BitVec 12) (v : U16) (n : Nat) (x : GraftPart) : (d.takeGraftPart p id v n x).host.sent
    = d.host.sent ++ [.bulk (.graftReport id n d.sys.position (d.partStatusOf p x))] := by
  unfold Dev.takeGraftPart
  dsimp only
  split <;> rfl

theorem Dev.pending_takeGraftPart {id : BitVec 12} {x : GraftPart} (h : d.partStatusOf p x = 0) (v : U16) (n : Nat) :
    ∃ y ∈ ((d.takeGraftPart p id v n x).graft id.toNat).pending, y.ver = v ∧ y.load = n ∧ y.blocks = x.blocks := by
  have hg : (d.takeGraftPart p id v n x).graft id.toNat = { d.graft id.toNat with pending := (d.graft id.toNat).pending ++
      [{ origin := { queue := 0, sqHead := 0, tag := 0, partition := p }, ver := v, load := n, waiting := [], bytes := graftBytes x.blocks, blocks := x.blocks }] } := by
    unfold Dev.takeGraftPart
    dsimp only
    rw [h, if_pos rfl]
    exact (d.graft_setGraft _ _ _).trans (if_pos rfl)
  rw [hg]
  exact ⟨_, List.mem_append_right _ (List.mem_singleton_self _), rfl, rfl, rfl⟩

theorem Dev.takeCommitReport_success {m : Nat} (h : d.memberIndex p ≠ some m) (v : U32) :
    d.takeCommitReport p m v 0 = d.updJob p fun j => { j with versions := SMap.put 0 j.versions m v } := by
  unfold Dev.takeCommitReport
  rw [if_neg h, if_pos rfl]

/-- Where no stop awaits a commit, a package that is not the primary notes nothing of it. -/
theorem Dev.spareCommitted_of_none_awaited (hp : d.sys.primary = false) (ha : d.sys.awaiting = []) (m : Nat) (v : U32) (status : Byte) :
    d.spareCommitted p m v status = d := by
  have hs : ∀ x : SysBlk, x.awaiting = [] → { x with awaiting := [] } = x := fun x h => h ▸ rfl
  unfold Dev.spareCommitted
  split
  · rw [Dev.clearStops, if_neg (by simp [hp]), ha, List.filter_nil, if_neg (by simp [hp]), hs _ ha]
  · rfl

theorem Dev.ownValid_replicaReported {v : U32} {g : BitVec 384} (hv : (d.commit p).version = v) (hg : (d.commit p).digest = g) :
    ((d.replicaReported p v g).replica p).ownValid = true := by
  rw [Dev.replicaReported, Dev.replica_setReplica, if_pos rfl]
  exact decide_eq_true ⟨hv, hg⟩

end

/-! ### The statement -/

section
variable {s : State}

/-- A transfer's last count, beside its end. -/
theorem Dev.TransfersEnded.counted {d d₁ : Dev} {sel : Transfer → Bool} {status : Byte} (h : Dev.TransfersEnded d sel status d₁) {d₂ : Dev}
    (h₂ : d₁.only d₂ [.obs]) : d.only d₂ [.link, .serve, .host, .obs]
      ∧ ((status = St.success ∨ ∀ t ∈ d.link.transfers, sel t = true → t.step = none) → d.only d₂ [.link, .obs])
      ∧ d₂.host = d₁.host ∧ d₂.link.transfers = closedTransfers d.link.transfers sel status :=
  ⟨h.only.append h₂, fun hq => (h.quiet hq).append h₂, h₂ .host (by simp), (congrArg LinkBlk.transfers (h₂ .link (by simp))).trans h.transfers⟩

theorem exec_stepDataReceive {vc : BitVec 2} {kind : BitVec 4} (h : kind = 0 ∧ (vc = 0 ∨ vc = 1)) (p : Nat) (step : U48) (rows : List (BitVec 4096)) :
    exec (.stepDataReceive vc kind p step rows) s = .next { s with dev := { s.dev with link := { s.dev.link with
      ingress := s.dev.link.ingress ++ [{ partition := p, step := step, vc := vc, rows := rows }] } } } := by
  rw [show exec (.stepDataReceive vc kind p step rows) s = execStepDataReceive vc kind p step rows s from rfl, execStepDataReceive]
  exact State.on_eq (if_pos h)

theorem exec_stepDataReceive_discarded {vc : BitVec 2} {kind : BitVec 4} (h : kind ≠ 0 ∨ vc = 2 ∨ vc = 3) (p : Nat) (step : U48)
    (rows : List (BitVec 4096)) :
    exec (.stepDataReceive vc kind p step rows) s = .next { s with dev := s.dev.count DC.msgDiscard } := by
  rw [show exec (.stepDataReceive vc kind p step rows) s = execStepDataReceive vc kind p step rows s from rfl, execStepDataReceive]
  refine State.on_eq (if_neg ?_)
  rintro ⟨hk, hv⟩
  obtain hk' | rfl | rfl := h
  · exact hk' hk
  · simp at hv
  · simp at hv

/-- A job's queues with a descriptor behind them. -/
def Job.described (j : Job) (x : StepDesc) : Job :=
  if x.lookup then { j with lookups := j.lookups ++ [x] } else { j with descs := j.descs ++ [x] }

theorem exec_stepCtlReceive (p : Nat) (x : StepDesc) (hs : s.dev.serving = true) (hm : s.dev.isMember p = true) :
    exec (.stepCtlReceive 2 p x) s = .next { s with dev := s.dev.updJob p fun j => j.described x } := by
  rw [show exec (.stepCtlReceive 2 p x) s = execStepCtlReceive 2 p x s from rfl, execStepCtlReceive]
  exact State.on_eq ((if_neg (by simp)).trans (if_pos ⟨hs, hm⟩))

theorem exec_stepCtlReceive_ignored (p : Nat) (x : StepDesc) (h : s.dev.serving = false ∨ s.dev.isMember p = false) :
    exec (.stepCtlReceive 2 p x) s = .next s := by
  rw [show exec (.stepCtlReceive 2 p x) s = execStepCtlReceive 2 p x s from rfl, execStepCtlReceive]
  refine State.on_eq (d' := s.dev) ((if_neg (by simp)).trans (if_neg ?_))
  rintro ⟨hs, hm⟩
  obtain h | h := h
  · exact Bool.false_ne_true (h.symm.trans hs)
  · exact Bool.false_ne_true (h.symm.trans hm)

theorem exec_stepCtlReceive_discarded {vc : BitVec 2} (h : vc ≠ 2) (p : Nat) (x : StepDesc) :
    exec (.stepCtlReceive vc p x) s = .next { s with dev := s.dev.count DC.msgDiscard } := by
  rw [show exec (.stepCtlReceive vc p x) s = execStepCtlReceive vc p x s from rfl, execStepCtlReceive]
  exact State.on_eq (if_pos h)

/-- The transfers that an acknowledgement of transfer `x` in window `w` ends. -/
def acked (w x : BitVec 12) (t : Transfer) : Bool := t.xfer == x && t.windowId == w && t.done.isNone

theorem acked_iff (w x : BitVec 12) (t : Transfer) : acked w x t = true ↔ t.xfer = x ∧ t.windowId = w ∧ t.done = none := by
  simp [acked, and_assoc]

/-- The transfers with identifier `x` that have waited 10 ms. -/
def Dev.overdue (d : Dev) (x : BitVec 12) (t : Transfer) : Bool := t.xfer == x && t.done.isNone && decide (d.since t.sentAt ≥ 10000000)

theorem Dev.overdue_iff (d : Dev) (x : BitVec 12) (t : Transfer) :
    d.overdue x t = true ↔ t.xfer = x ∧ t.done = none ∧ 10000000 ≤ d.since t.sentAt := by
  simp [Dev.overdue, and_assoc]

/-- A message on another channel than its own is counted and discarded. -/
theorem State.onChannel_other {want vc : BitVec 2} (h : vc ≠ want) (f : Dev → Dev) :
    s.onChannel want vc f = .next { s with dev := s.dev.count DC.msgDiscard } := by
  rw [State.onChannel]
  exact State.on_eq (if_neg h)

theorem exec_windowAckReceive {w x : BitVec 12} (h : ∃ t ∈ s.dev.link.transfers, acked w x t = true) (epoch : U16) (st : Byte) :
    exec (.windowAckReceive ⟨2, w⟩ x epoch st) s = .next { s with dev :=
      if st = St.windowClosed then (s.dev.endTransfer (acked w x) st).count DC.winClosedTx else s.dev.endTransfer (acked w x) st } := by
  rw [show exec (.windowAckReceive ⟨2, w⟩ x epoch st) s = execWindowAckReceive ⟨2, w⟩ x epoch st s from rfl, execWindowAckReceive, State.onChannel]
  exact State.on_eq ((if_pos rfl).trans (if_pos (List.any_eq_true.mpr h)))

theorem exec_windowAckReceive_none {w x : BitVec 12} (h : ¬ ∃ t ∈ s.dev.link.transfers, acked w x t = true) (epoch : U16) (st : Byte) :
    exec (.windowAckReceive ⟨2, w⟩ x epoch st) s = .next s := by
  rw [show exec (.windowAckReceive ⟨2, w⟩ x epoch st) s = execWindowAckReceive ⟨2, w⟩ x epoch st s from rfl, execWindowAckReceive, State.onChannel]
  exact State.on_eq (d' := s.dev) ((if_pos rfl).trans (if_neg fun e => h (List.any_eq_true.mp e)))

theorem exec_windowWriteTimeout {x : BitVec 12} (h : ∃ t ∈ s.dev.link.transfers, s.dev.overdue x t = true) :
    exec (.windowWriteTimeout x) s
      = .next { s with dev := (s.dev.endTransfer (s.dev.overdue x) St.windowClosed).count DC.winTimeout } := by
  rw [show exec (.windowWriteTimeout x) s = execWindowWriteTimeout x s from rfl, execWindowWriteTimeout]
  exact State.on_eq (if_pos (List.any_eq_true.mpr h))

theorem exec_windowWriteTimeout_none {x : BitVec 12} (h : ¬ ∃ t ∈ s.dev.link.transfers, s.dev.overdue x t = true) :
    exec (.windowWriteTimeout x) s = .next s := by
  rw [show exec (.windowWriteTimeout x) s = execWindowWriteTimeout x s from rfl, execWindowWriteTimeout]
  exact State.on_eq (d' := s.dev) (if_neg fun e => h (List.any_eq_true.mp e))

theorem exec_bulkReceive_discarded {vc : BitVec 2} (h : vc ≠ 1) (b : BulkBody) :
    exec (.bulkReceive vc b) s = .next { s with dev := s.dev.count DC.msgDiscard } := by
  rw [show exec (.bulkReceive vc b) s = execBulkReceive vc b s from rfl, execBulkReceive]
  exact State.on_eq (if_pos h)

/-- The part of a graft reaches the partition whose graft it is. -/
theorem exec_bulkReceive_graftPart {id : BitVec 12} {p : Nat} (h : s.dev.graftOwner id.toNat = some p) (v : U16) (n : Nat) (x : GraftPart) :
    exec (.bulkReceive 1 (.graftPart id v n x)) s = .next { s with dev := s.dev.takeGraftPart p id v n x } := by
  rw [show exec (.bulkReceive 1 (.graftPart id v n x)) s = execBulkReceive 1 (.graftPart id v n x) s from rfl, execBulkReceive]
  refine State.on_eq ((if_neg (by simp)).trans ?_)
  dsimp only
  rw [h]

theorem exec_bulkReceive_graftPart_of_none {id : BitVec 12} (h : s.dev.graftOwner id.toNat = none) (v : U16) (n : Nat) (x : GraftPart) :
    exec (.bulkReceive 1 (.graftPart id v n x)) s = .next s := by
  rw [show exec (.bulkReceive 1 (.graftPart id v n x)) s = execBulkReceive 1 (.graftPart id v n x) s from rfl, execBulkReceive]
  refine State.on_eq (d' := s.dev) ((if_neg (by simp)).trans ?_)
  dsimp only
  rw [h]

theorem Dev.counter_endTransfer (d : Dev) (sel : Transfer → Bool) (status : Byte) (n : Nat) :
    (d.endTransfer sel status).counter n = d.counter n :=
  congrArg (fun x : ObsBlk => SMap.get 0 x.dev n) ((d.transfersEnded sel status).only .obs (by simp))

theorem runs_windowAckReceive {w x : BitVec 12} (h : ∃ t ∈ s.dev.link.transfers, acked w x t = true) (epoch : U16) (st : Byte) :
    Runs (.windowAckReceive ⟨2, w⟩ x epoch st) s fun d' => s.dev.only d' [.link, .serve, .host, .obs]
      ∧ ((st = St.success ∨ ∀ t ∈ s.dev.link.transfers, acked w x t = true → t.step = none) → s.dev.only d' [.link, .obs])
      ∧ (∀ t ∈ s.dev.link.transfers, acked w x t = true → ∀ no, t.step = some no → st ≠ St.success → s.dev.isLead t.partition = false →
          .bulk (.opReport t.partition no [] (some st)) ∈ d'.host.sent)
      ∧ (∀ t ∈ s.dev.link.transfers, acked w x t = true → { t with done := some st } ∈ d'.link.transfers)
      ∧ (∀ t ∈ s.dev.link.transfers, ¬ acked w x t = true → t ∈ d'.link.transfers)
      ∧ d'.link.transfers.length = s.dev.link.transfers.length
      ∧ d'.counter DC.winClosedTx = s.dev.counter DC.winClosedTx + if st = St.windowClosed then 1 else 0 := by
  refine ⟨_, exec_windowAckReceive h epoch st, ?_⟩
  have ended := s.dev.transfersEnded (acked w x) st
  have hcount := s.dev.counter_endTransfer (acked w x) st DC.winClosedTx
  generalize s.dev.endTransfer (acked w x) st = d₁ at ended hcount ⊢
  generalize hd : (if st = St.windowClosed then d₁.count DC.winClosedTx else d₁) = d₂
  have h₂ : d₁.only d₂ [.obs] ∧ d₂.counter DC.winClosedTx = d₁.counter DC.winClosedTx + if st = St.windowClosed then 1 else 0 := by
    subst hd
    split
    · exact ⟨d₁.count_only _ 1, by rw [Dev.counter_count, if_pos rfl]; rfl⟩
    · exact ⟨d₁.only_refl _, (BitVec.add_zero _).symm⟩
  obtain ⟨ho, hq, hh, ht⟩ := ended.counted h₂.1
  refine ⟨ho, hq, ?told, ?ended, ?others, ?length, h₂.2.trans (by rw [hcount])⟩
  case told => rw [hh]; exact ended.told
  case ended => rw [ht]; exact fun t hm hs => mem_closedTransfers_of_sel hm hs
  case others => rw [ht]; exact fun t hm hs => mem_closedTransfers_of_not_sel hm hs
  case length => rw [ht]; exact List.length_map _

theorem runs_windowWriteTimeout {x : BitVec 12} (h : ∃ t ∈ s.dev.link.transfers, s.dev.overdue x t = true) :
    Runs (.windowWriteTimeout x) s fun d' => s.dev.only d' [.link, .serve, .host, .obs]
      ∧ ((∀ t ∈ s.dev.link.transfers, s.dev.overdue x t = true → t.step = none) → s.dev.only d' [.link, .obs])
      ∧ (∀ t ∈ s.dev.link.transfers, s.dev.overdue x t = true → { t with done := some St.windowClosed } ∈ d'.link.transfers)
      ∧ (∀ t ∈ s.dev.link.transfers, ¬ s.dev.overdue x t = true → t ∈ d'.link.transfers)
      ∧ d'.counter DC.winTimeout = s.dev.counter DC.winTimeout + 1 := by
  refine ⟨_, exec_windowWriteTimeout h, ?_⟩
  obtain ⟨ho, hq, -, ht⟩ := (s.dev.transfersEnded (s.dev.overdue x) St.windowClosed).counted (Dev.count_only _ DC.winTimeout 1)
  refine ⟨ho, fun hn => hq (.inr hn), ?ended, ?others, ?counter⟩
  case ended => rw [ht]; exact fun t hm hs => mem_closedTransfers_of_sel hm hs
  case others => rw [ht]; exact fun t hm hs => mem_closedTransfers_of_not_sel hm hs
  case counter => rw [Dev.counter_count, if_pos rfl, Dev.counter_endTransfer]; rfl

end

/-- Settles O59: each message as its unit takes it, transfers ended by an acknowledgement or by time, and what each BULK message changes. -/
theorem messagesReachTheirUnit : Obligations.MessagesReachTheirUnit := by
  unfold Obligations.MessagesReachTheirUnit
  refine fun s => ⟨fun vc kind p step rows => ?data, fun p x => ?ctl, fun w x epoch st => ?ack, fun x => ?timeout,
    fun vc b h => Runs.of_next (exec_bulkReceive_discarded h b) rfl, fun b => ?bulk⟩
  case data =>
    exact ⟨fun hk hv => Runs.of_next (exec_stepDataReceive ⟨hk, hv⟩ p step rows) rfl,
      fun h => Runs.of_next (exec_stepDataReceive_discarded h p step rows) rfl⟩
  case ctl =>
    exact ⟨fun hs hm => Runs.of_next (exec_stepCtlReceive p x hs hm)
        ⟨s.dev.job_updJob p _, fun _ hq => s.dev.job_updJob_other _ hq, rfl, s.dev.updJob_only p _⟩,
      exec_stepCtlReceive_ignored p x, fun vc h => Runs.of_next (exec_stepCtlReceive_discarded h p x) rfl⟩
  case ack =>
    simp only [← acked_iff]
    exact ⟨fun h => runs_windowAckReceive h epoch st,
      fun h => exec_windowAckReceive_none (fun ⟨t, hm, ht⟩ => h t hm ht) epoch st,
      fun vc h => Runs.of_next (State.onChannel_other h _) rfl⟩
  case timeout =>
    simp only [← Dev.overdue_iff]
    exact ⟨fun h => runs_windowWriteTimeout h, fun h => exec_windowWriteTimeout_none fun ⟨t, hm, ht⟩ => h t hm ht⟩
  case bulk =>
    cases b with
    | shardChunk p x => exact runs_bulk_within (s.dev.within_takeChunk p x true) rfl trivial
    | replicaRead p n =>
      exact runs_bulk_within (s.dev.within_giveChunk p n) rfl fun hv x hx => by
        rw [Dev.giveChunk_held hv hx]
        exact ⟨Dev.only_mono ((s.dev.count_only _ _).append (Dev.send_only _ _)) (by simp), rfl⟩
    | replicaRoom p fits => exact runs_bulk_within (s.dev.within_sendReplica p fits) rfl trivial
    | replicaPart p x => exact runs_bulk_within (s.dev.within_takeReplicaPart p x) rfl trivial
    | bankReport p m active ready =>
      exact runs_bulk_within (s.dev.within_takeBankReport p m active ready) rfl
        ⟨Dev.takeBankReport_only m active ready, fun h => Dev.takeBankReport_notes h active ready⟩
    | bankQuery pos p => exact runs_bulk_within (s.dev.within_reportBanks p) rfl trivial
    | loadReport p m v st => exact runs_bulk_within (s.dev.within_takeLoadReport p m v st) rfl trivial
    | commitReport p m v st =>
      refine runs_bulk_within (Dev.only_trans (s.dev.within_takeCommitReport p m v st) (Dev.within_spareCommitted _ p m v st)) rfl ?_
      rintro rfl hm ha hp
      rw [Dev.takeCommitReport_success hm, Dev.spareCommitted_of_none_awaited (d := s.dev.updJob p _) hp ha, Dev.job_updJob]
      exact ⟨SMap.get_put_same _ _ _ _, s.dev.updJob_only p _⟩
    | calReport p pos n => exact runs_bulk_within (Dev.only_trans (s.dev.within_updJob p _) (Dev.within_finishCalibrates _ p)) rfl trivial
    | replica p v g total =>
      refine runs_bulk_within (Dev.within_of (Dev.replicaArrives_only total) rfl) rfl ⟨Dev.replicaArrives_only total, fun h => ?_, fun h => ?_⟩
      · rw [Dev.replicaArrives_fits h]
        exact ⟨(s.dev.replica_setReplica p p _).trans (if_pos rfl), rfl⟩
      · exact Dev.replicaArrives_too_large h
    | replicaWanted p => exact runs_bulk_within (s.dev.within_startReplica p) rfl trivial
    | replicaHeld p v g =>
      exact runs_bulk_within (s.dev.within_replicaReported p v g) rfl ⟨Dev.setReplica_only _, fun hv hg => Dev.ownValid_replicaReported hv hg⟩
    | recovery p v g n => exact runs_bulk_within (s.dev.within_takeRecovery p v g n) rfl trivial
    | graftPart id v n x =>
      cases h : s.dev.graftOwner id.toNat with
      | none =>
        exact runs_bulk_within s.dev.within_refl (exec_bulkReceive_graftPart_of_none h v n x)
          ⟨s.dev.only_refl _, fun p hp => nomatch h.symm.trans hp⟩
      | some p =>
        refine runs_bulk_within (s.dev.within_takeGraftPart p id v n x) (exec_bulkReceive_graftPart h v n x)
          ⟨Dev.takeGraftPart_only id v n x, fun p' hp => ?_⟩
        obtain rfl : p = p' := Option.some.inj (h.symm.trans hp)
        exact ⟨Dev.sent_takeGraftPart id v n x, fun hf => Dev.pending_takeGraftPart hf v n⟩
    | graftReport id n pos st => exact runs_bulk_within (s.dev.within_takeGraftReport id n pos st) rfl trivial
    | logits p h pos first values =>
      exact runs_bulk (Dev.only_mono (s.dev.bufferLogits_only _) (by simp [bulkBlocks])) rfl
        ⟨s.dev.bufferLogits_only _, fun hl hb => Dev.bufferLogits_buffered hl hb, fun hl hb => Dev.bufferLogits_waits hl hb,
          fun hl => Dev.bufferLogits_too_long hl⟩
    | dump p w x => exact runs_bulk_within (s.dev.within_takeDump p w x) rfl ⟨Dev.takeDump_only w x, fun y hy => Dev.watch_takeDump hy x⟩
    | tracePage p bytes => exact runs_bulk_within (s.dev.within_tracePageIn p bytes) rfl trivial
    | opReport p step grads xfer => exact runs_bulk_within (s.dev.within_takeOpReport p step grads xfer) rfl (s.dev.updJob_only p _)

end Sys2Proof.Machine
end

section
/-! OBLIGATION. Warm resets: what the entry with each cause leaves of every block in its scope (R237, R372, R380, R383, R385, R390, R391, R394,
R427). -/

namespace Sys2Proof.Machine

/-! ### What a reset keeps of sparse tables -/

/-- A property of the default and of every value that the map gives holds of what a table reads after it. -/
theorem SMap.get_mapVals_of {α : Type} [DecidableEq α] {P : α → Prop} {z : α} {f : Nat → α → α} (hz : P z) (hf : ∀ k v, P (f k v))
    (m : SMap α) (k : Nat) : P (SMap.get z (SMap.mapVals z f m) k) := by
  induction m with
  | nil => exact hz
  | cons e m ih =>
    rw [SMap.mapVals, List.filterMap_cons]
    split
    · exact ih
    · next y h =>
      split at h
      · cases h
      · cases h
        rw [SMap.get]
        split
        · exact hf _ _
        · exact ih

/-- What no write of a commit entry changes, a change of every entry leaves. -/
theorem StackBlk.mapCommits_keeps {β : Type} (g : StackBlk → β) (hg : ∀ s p x, g (StackBlk.writeCommit s p x) = g s) (s : StackBlk)
    (f : Commit → Commit) : g (s.mapCommits f) = g s := by
  have fold : ∀ (es : List (Nat × Commit)) (t : StackBlk),
      g (es.foldl (fun t e => if f e.2 = e.2 then t else t.writeCommit e.1 (f e.2)) t) = g t := by
    intro es
    induction es with
    | nil => exact fun _ => rfl
    | cons e es ih =>
      intro t
      rw [List.foldl_cons, ih]
      split
      · rfl
      · exact hg _ _ _
  exact fold _ s

section
variable (s : StackBlk)

@[simp] theorem StackBlk.mem_afterReset : s.afterReset.mem = s.mem := StackBlk.mapCommits_keeps StackBlk.mem (fun _ _ _ => rfl) _ _
@[simp] theorem StackBlk.remap_afterReset : s.afterReset.remap = s.remap := StackBlk.mapCommits_keeps StackBlk.remap (fun _ _ _ => rfl) _ _
@[simp] theorem StackBlk.banks_afterReset : s.afterReset.banks = s.banks := StackBlk.mapCommits_keeps StackBlk.banks (fun _ _ _ => rfl) _ _

end

/-! ### The blocks of a warm reset -/

theorem Tile.state_afterReset (t : Tile) : t.afterReset.state = .off ∨ t.afterReset.state = .retired := by
  unfold Tile.afterReset
  dsimp only
  split
  · exact .inr rfl
  · exact .inl rfl

theorem Dev.tile_clearBlocks (d : Dev) (soft : Bool) (k : Nat) :
    ((d.clearBlocks soft).tile k).state = .off ∨ ((d.clearBlocks soft).tile k).state = .retired :=
  SMap.get_mapVals_of (P := fun t : Tile => t.state = .off ∨ t.state = .retired) (.inl rfl) (fun _ t => t.state_afterReset) _ k

/-- Every block is as the entry of a warm reset leaves it, once the reset block is. -/
theorem warmEntered_of_rst {d : Dev} {cause : BitVec 4} {r : ResetBlk} (hphase : r.phase = .inReset) (hcause : r.cause = cause)
    (hsoft : r.soft = false) (hrefresh : r.selfRefresh = true)
    (hcount : r.warmCount = if d.rst.warmCount = 0xFFFF then 0xFFFF else d.rst.warmCount + 1) :
    WarmEntered d cause { d.clearBlocks false with rst := r } := by
  refine ⟨hphase, hcause, hsoft, hrefresh, hcount, rfl, rfl, rfl, rfl, rfl, rfl, rfl, rfl, d.tile_clearBlocks false, fun a => ?_,
    d.stack.remap_afterReset, d.stack.banks_afterReset, rfl, rfl, d.clearBlocks_vault false, rfl, rfl⟩
  exact congrArg (Memory.read · a) d.stack.mem_afterReset

/-- The reset block after the entry of a warm reset. -/
def Dev.warmRst (d : Dev) (cause : BitVec 4) : ResetBlk :=
  { d.rst with phase := .inReset, cause := cause, soft := false, cold := d.resetting && d.rst.cold, selfRefresh := true, rootCount := 0,
               watchdogAt := 0, rootLock := false
               warmCount := if d.rst.warmCount = 0xFFFF then 0xFFFF else d.rst.warmCount + 1 }

theorem Dev.enterReset_warm {d : Dev} (h : d.resettable = true) (cause : BitVec 4) :
    d.enterReset cause false = { d.clearBlocks false with rst := d.warmRst cause } := by
  have hc : (if d.rst.warmCount = 0xFFFF then d.rst.warmCount else d.rst.warmCount + 1)
      = if d.rst.warmCount = 0xFFFF then 0xFFFF else d.rst.warmCount + 1 := by
    split
    · assumption
    · rfl
  simp only [Dev.enterReset, if_pos h, Bool.false_and, Bool.false_eq_true, false_or, hc]
  rfl

section
variable {s : State} (h : s.dev.resettable = true)
include h

theorem runs_warmResetAssert (perst : Bool) : Runs (.warmResetAssert perst) s fun d' => WarmEntered s.dev (if perst then 1 else 2) d' := by
  refine Runs.of_next (show exec (.warmResetAssert perst) s = execWarmResetAssert perst s from rfl) ?_
  simp only [Dev.enterReset_warm h]
  exact warmEntered_of_rst rfl rfl rfl rfl rfl

theorem runs_pllLockLoss : Runs .pllLockLoss s fun d' => WarmEntered s.dev 5 d'
    ∧ d'.rst.lockLoss = if s.dev.rst.lockLoss = 0xFFFF then 0xFFFF else s.dev.rst.lockLoss + 1 := by
  refine Runs.of_next (State.on_next s _) ?_
  rw [if_pos h, Dev.enterReset_warm h]
  exact ⟨warmEntered_of_rst rfl rfl rfl rfl rfl, rfl⟩

theorem runs_brownoutReset : Runs .brownoutReset s fun d' => WarmEntered s.dev 6 d' ∧ d'.rst.brownHeld = true := by
  refine Runs.of_next (State.on_next s _) ?_
  rw [if_pos h, Dev.enterReset_warm h]
  exact ⟨warmEntered_of_rst rfl rfl rfl rfl rfl, rfl⟩

theorem runs_watchdogExpiry (hr : s.dev.rst.phase = .ready) (hw : s.dev.since s.dev.rst.watchdogAt ≥ 100000000) :
    Runs .watchdogExpiry s fun d' => WarmEntered s.dev 4 d' := by
  refine Runs.of_next (State.on_next s _) ?_
  rw [if_pos ⟨hr, hw⟩, Dev.enterReset_warm h]
  exact warmEntered_of_rst rfl rfl rfl rfl rfl

end

/-- Settles O3, cause by cause: each enters the same warm reset. -/
theorem warmResetsHoldEveryBlockAtReset : Obligations.WarmResetsHoldEveryBlockAtReset := by
  unfold Obligations.WarmResetsHoldEveryBlockAtReset
  exact fun s h => ⟨runs_warmResetAssert h, runs_pllLockLoss h, runs_brownoutReset h, runs_watchdogExpiry h⟩

end Sys2Proof.Machine
end

section
/-! OBLIGATION. Requests to change a region descriptor: at once, at the boundary, or ignored with the error bit (R229, R399, R406, R451). -/

namespace Sys2Proof.Machine

/-! ### A descriptor set, and a request refused -/

/-- Descriptor `i` as request `desc` would make it: its reserved bits 0 and its SECURE kept. -/
def Dev.requested (d : Dev) (i : Nat) (desc : U64) : U64 := (desc &&& 0xBFF83FFFFFFFFFFF) ||| (d.region i &&& 0x4000000000000000)

/-- A request keeps R229, and the old and the new descriptor may change. -/
def Dev.admitsRegion (d : Dev) (i : Nat) (desc : U64) : Bool :=
  d.regionOk i (d.requested i desc) && d.regionFree (d.region i) && d.regionFree (d.requested i desc)

/-- Descriptor `i` set to `w`, with no request pending. -/
def Dev.setRegion (d : Dev) (i : Nat) (w : U64) : Dev :=
  { d with stack := { d.stack with request := none, regions := SMap.put (regionReset i) d.stack.regions i w } }

/-- A request ignored: none is pending, and the error bit is set. -/
def Dev.refuseRegion (d : Dev) : Dev := { d with stack := { d.stack with request := none, descErr := true } }

section
variable (d : Dev) (i : Nat) (desc w : U64)

theorem Dev.secure_requested : rgSecure (d.requested i desc) = rgSecure (d.region i) := by
  simp [rgSecure, Dev.requested]

theorem Dev.region_setRegion_same : (d.setRegion i w).region i = w := SMap.get_put_same _ _ _ _

theorem Dev.region_setRegion_other {j : Nat} (h : j ≠ i) : (d.setRegion i w).region j = d.region j := SMap.get_put_other _ _ _ _ h

@[simp] theorem Dev.descErr_setRegion : (d.setRegion i w).stack.descErr = d.stack.descErr := rfl
@[simp] theorem Dev.byte_setRegion (x : Nat) : (d.setRegion i w).byte x = d.byte x := rfl

theorem Dev.setRegion_only : d.only (d.setRegion i w) [.stack] := d.only_stack _

theorem Dev.region_zeroWorkspace (j : Nat) : (d.zeroWorkspace w).region j = d.region j := rfl
theorem Dev.descErr_zeroWorkspace : (d.zeroWorkspace w).stack.descErr = d.stack.descErr := rfl

@[simp] theorem Dev.region_refuseRegion (j : Nat) : d.refuseRegion.region j = d.region j := rfl
@[simp] theorem Dev.byte_refuseRegion (x : Nat) : d.refuseRegion.byte x = d.byte x := rfl
theorem Dev.refuseRegion_only : d.only d.refuseRegion [.stack] := d.only_stack _

theorem Dev.zeroWorkspace_only : d.only (d.zeroWorkspace w) [.stack, .obs] :=
  Dev.only_then (d.only_stack _) (Dev.count_only _ _ _) (by simp) (by simp)

end

section
variable {d : Dev} {i : Nat} {desc : U64}

theorem Dev.applyRegion_refused (h : ¬ d.admitsRegion i desc = true) : d.applyRegion i desc = d.refuseRegion := if_neg h

/-- The descriptor is set, and a workspace that changes its owner is cleared. -/
theorem Dev.applyRegion_admitted (h : d.admitsRegion i desc = true) :
    d.applyRegion i desc = d.setRegion i (d.requested i desc)
    ∨ rgKind (d.requested i desc) = 9 ∧ d.applyRegion i desc = (d.setRegion i (d.requested i desc)).zeroWorkspace (d.requested i desc) := by
  have e : d.applyRegion i desc = if rgValid (d.requested i desc) ∧ rgKind (d.requested i desc) = 9
      ∧ (!rgValid (d.region i) ∨ rgKind (d.region i) ≠ 9 ∨ rgPart (d.region i) ≠ rgPart (d.requested i desc))
      then (d.setRegion i (d.requested i desc)).zeroWorkspace (d.requested i desc) else d.setRegion i (d.requested i desc) := if_pos h
  rw [e]
  split
  · next hw => exact .inr ⟨hw.2.1, rfl⟩
  · exact .inl rfl

end

/-! ### STACK_REGION_REQ_SUBMIT (R451) -/

section
variable {d : Dev} {i : Nat} {desc : U64}

theorem Dev.submitRegion_pending (h : d.stack.request ≠ none) :
    d.submitRegion i desc = { d with stack := { d.stack with descErr := true } } := if_pos (Option.isSome_iff_ne_none.mpr h)

theorem Dev.submitRegion_busy (hn : d.stack.request = none) (hb : d.busy = true) :
    d.submitRegion i desc = { d with stack := { d.stack with request := some (i, desc) } } := by
  rw [Dev.submitRegion, hn, if_neg (by simp), if_pos hb]

theorem Dev.submitRegion_idle (hn : d.stack.request = none) (hb : d.busy = false) : d.submitRegion i desc = d.applyRegion i desc := by
  rw [Dev.submitRegion, hn, hb, if_neg (by simp), if_neg (by simp)]

end

/-- The words of STACK_REGION_REQ hold the request. -/
def Dev.noteRequest (d : Dev) (i : BitVec 7) (desc : U64) : Dev :=
  ((d.setReg Off.regionReq (desc.extractLsb' 0 32)).setReg (Off.regionReq + 4) (desc.extractLsb' 32 32)).setReg (Off.regionReq + 8) (i.setWidth 32)

section
variable (d : Dev) (i : BitVec 7) (desc : U64)

theorem Dev.noteRequest_only : d.only (d.noteRequest i desc) [.glob] := d.only_glob _

@[simp] theorem Dev.stack_noteRequest : (d.noteRequest i desc).stack = d.stack := d.noteRequest_only i desc .stack (by simp)
@[simp] theorem Dev.sys_noteRequest : (d.noteRequest i desc).sys = d.sys := d.noteRequest_only i desc .sys (by simp)
@[simp] theorem Dev.part_noteRequest : (d.noteRequest i desc).part = d.part := d.noteRequest_only i desc .part (by simp)
@[simp] theorem Dev.serve_noteRequest : (d.noteRequest i desc).serve = d.serve := d.noteRequest_only i desc .serve (by simp)
@[simp] theorem Dev.byte_noteRequest (x : Nat) : (d.noteRequest i desc).byte x = d.byte x := by simp [Dev.byte]
@[simp] theorem Dev.busy_noteRequest : (d.noteRequest i desc).busy = d.busy := by simp [Dev.busy]
@[simp] theorem Dev.region_noteRequest (j : Nat) : (d.noteRequest i desc).region j = d.region j := by simp [Dev.region]
@[simp] theorem Dev.requested_noteRequest (j : Nat) (w : U64) : (d.noteRequest i desc).requested j w = d.requested j w := by simp [Dev.requested]
@[simp] theorem Dev.regionFree_noteRequest (w : U64) : (d.noteRequest i desc).regionFree w = d.regionFree w := by
  simp [Dev.regionFree, Dev.jobSetup]
@[simp] theorem Dev.regionOk_noteRequest (j : Nat) (w : U64) : (d.noteRequest i desc).regionOk j w = d.regionOk j w := by simp [Dev.regionOk]
@[simp] theorem Dev.admitsRegion_noteRequest (j : Nat) (w : U64) : (d.noteRequest i desc).admitsRegion j w = d.admitsRegion j w := by
  simp [Dev.admitsRegion]

end

section
variable {s : State} {i : BitVec 7} {desc : U64} (hr : s.dev.rst.phase = .ready)
include hr

theorem exec_stackRegionReqSubmit :
    exec (.stackRegionReqSubmit i desc) s = .next { s with dev := (s.dev.noteRequest i desc).submitRegion i.toNat desc } :=
  (show exec (.stackRegionReqSubmit i desc) s = execStackRegionReqSubmit i desc s from rfl).trans (State.on_eq (if_pos hr))

theorem exec_stackRegionReqSubmit_idle (hn : s.dev.stack.request = none) (hb : s.dev.busy = false) :
    exec (.stackRegionReqSubmit i desc) s = .next { s with dev := (s.dev.noteRequest i desc).applyRegion i.toNat desc } := by
  rw [exec_stackRegionReqSubmit hr, Dev.submitRegion_idle (by simpa using hn) (by simpa using hb)]

/-- An admitted request that need not wait: the descriptor is set, the others stay, and memory is cleared for a workspace alone. -/
theorem runs_stackRegionReqSubmit_admitted (hn : s.dev.stack.request = none) (hb : s.dev.busy = false)
    (ha : s.dev.admitsRegion i.toNat desc = true) : Runs (.stackRegionReqSubmit i desc) s fun d' =>
      d'.region i.toNat = s.dev.requested i.toNat desc ∧ rgSecure (d'.region i.toNat) = rgSecure (s.dev.region i.toNat)
        ∧ (∀ j, j ≠ i.toNat → d'.region j = s.dev.region j) ∧ d'.stack.descErr = s.dev.stack.descErr
        ∧ (rgKind (s.dev.requested i.toNat desc) ≠ 9 → (∀ x, d'.byte x = s.dev.byte x) ∧ s.dev.only d' [.stack, .glob])
        ∧ s.dev.only d' [.stack, .glob, .obs] := by
  refine Runs.of_next (exec_stackRegionReqSubmit_idle hr hn hb) ?_
  have hcase := Dev.applyRegion_admitted (d := s.dev.noteRequest i desc) (i := i.toNat) (desc := desc) (by simpa using ha)
  rw [Dev.requested_noteRequest] at hcase
  generalize hw : s.dev.requested i.toNat desc = w at hcase
  have hsec : rgSecure w = rgSecure (s.dev.region i.toNat) := hw ▸ s.dev.secure_requested _ _
  have hset := (s.dev.noteRequest_only i desc).append (Dev.setRegion_only _ i.toNat w)
  have hsame := Dev.region_setRegion_same (s.dev.noteRequest i desc) i.toNat w
  have hother : ∀ j, j ≠ i.toNat → ((s.dev.noteRequest i desc).setRegion i.toNat w).region j = s.dev.region j :=
    fun j hj => (Dev.region_setRegion_other _ _ _ hj).trans (s.dev.region_noteRequest i desc j)
  obtain e | ⟨hk, e⟩ := hcase <;> rw [e]
  · exact ⟨hsame, (congrArg rgSecure hsame).trans hsec, hother, by simp, fun _ => ⟨by simp, Dev.only_mono hset (by simp)⟩,
      Dev.only_mono hset (by simp)⟩
  · simp only [Dev.region_zeroWorkspace, Dev.descErr_zeroWorkspace]
    exact ⟨hsame, (congrArg rgSecure hsame).trans hsec, hother, by simp, fun h => absurd hk h,
      Dev.only_mono (hset.append (Dev.zeroWorkspace_only _ _)) (by simp)⟩

theorem runs_stackRegionReqSubmit_refused (hn : s.dev.stack.request = none) (hb : s.dev.busy = false)
    (ha : ¬ s.dev.admitsRegion i.toNat desc = true) : Runs (.stackRegionReqSubmit i desc) s fun d' =>
      (∀ j, d'.region j = s.dev.region j) ∧ d'.stack.descErr = true ∧ (∀ x, d'.byte x = s.dev.byte x) ∧ s.dev.only d' [.stack, .glob] := by
  refine Runs.of_next (exec_stackRegionReqSubmit_idle hr hn hb) ?_
  rw [Dev.applyRegion_refused (by simpa using ha)]
  exact ⟨by simp, rfl, by simp, Dev.only_mono ((s.dev.noteRequest_only i desc).append (Dev.refuseRegion_only _)) (by simp)⟩

theorem runs_stackRegionReqSubmit_busy (hn : s.dev.stack.request = none) (hb : s.dev.busy = true) : Runs (.stackRegionReqSubmit i desc) s
    fun d' => d'.stack = { s.dev.stack with request := some (i.toNat, desc) } ∧ s.dev.only d' [.stack, .glob] := by
  refine Runs.of_next (exec_stackRegionReqSubmit hr) ?_
  rw [Dev.submitRegion_busy (by simpa using hn) (by simpa using hb), Dev.stack_noteRequest]
  exact ⟨rfl, Dev.only_mono ((s.dev.noteRequest_only i desc).append (Dev.only_stack _ _)) (by simp)⟩

theorem runs_stackRegionReqSubmit_pending (hn : s.dev.stack.request ≠ none) : Runs (.stackRegionReqSubmit i desc) s
    fun d' => d'.stack = { s.dev.stack with descErr := true } ∧ s.dev.only d' [.stack, .glob] := by
  refine Runs.of_next (exec_stackRegionReqSubmit hr) ?_
  rw [Dev.submitRegion_pending (by simpa using hn), Dev.stack_noteRequest]
  exact ⟨rfl, Dev.only_mono ((s.dev.noteRequest_only i desc).append (Dev.only_stack _ _)) (by simp)⟩

end

/-- Settles O46: a request acts, is refused, waits, or finds another pending. -/
theorem regionRequestsWaitForTheBoundary : Obligations.RegionRequestsWaitForTheBoundary := by
  unfold Obligations.RegionRequestsWaitForTheBoundary
  exact fun s i desc hr => ⟨runs_stackRegionReqSubmit_admitted hr, runs_stackRegionReqSubmit_refused hr,
    runs_stackRegionReqSubmit_busy hr, runs_stackRegionReqSubmit_pending hr⟩

end Sys2Proof.Machine
end

section
/-! OBLIGATION. Event reports: each is one entry of the ledger log with its ruling, and ledger time (R226, R335 to R338, R344). -/

namespace Sys2Proof.Machine

/-! ### The log entry (R338) -/

section
variable (ltime : U32) (kind event : BitVec 4) (ruling : BitVec 2) (origin : BitVec 3) (unit : U32) (step : U48) (detail : U32)

theorem ltime_logWord : (logWord ltime kind event ruling origin unit step detail).extractLsb' 0 32 = ltime :=
  BitVec.extractLsb'_append_eq_right

theorem ruling_logWord : (logWord ltime kind event ruling origin unit step detail).extractLsb' 40 2 = ruling :=
  (BitVec.extractLsb'_append_eq_of_le (by decide)).trans <| (BitVec.extractLsb'_append_eq_of_le (by decide)).trans <|
    (BitVec.extractLsb'_append_eq_of_le (by decide)).trans BitVec.extractLsb'_append_eq_right

end

section
variable (d : Dev) (kind event : BitVec 4) (ruling : BitVec 2) (origin : BitVec 3) (unit : Nat) (step : U48) (detail : U32)

theorem Dev.ledger_log : (d.log kind event ruling origin unit step detail).ledger = { d.ledger with
    log := SMap.put 0 d.ledger.log d.ledger.head (logWord d.ledger.ltime kind event ruling origin (BitVec.ofNat 32 unit) step detail)
    head := (d.ledger.head + 1) % Config.ledgerEntries
    wrapped := d.ledger.wrapped || decide ((d.ledger.head + 1) % Config.ledgerEntries = 0) } := rfl

theorem Dev.touches_log : Dev.Touches [.ledger, .obs] [DC.ledgerWrap, DC.ledgerEvent] d (d.log kind event ruling origin unit step detail) := by
  unfold Dev.log
  extract_lets l w next d₁
  have h₁ : Dev.Touches [.ledger, .obs] [DC.ledgerWrap, DC.ledgerEvent] d d₁ := by
    unfold d₁
    split
    · exact Dev.touches_count (by simp) (by simp) _ _
    · exact .refl
  refine Dev.Touches.trans ?_ (Dev.touches_count (n := DC.ledgerEvent) (by simp) (by simp) _ 1)
  exact h₁.trans (Dev.touches_of_only (Dev.only_mono (d₁.only_ledger _) (by simp)) rfl)

theorem Dev.counter_log : (d.log kind event ruling origin unit step detail).counter DC.ledgerEvent = d.counter DC.ledgerEvent + 1 := by
  unfold Dev.log
  extract_lets l w next d₁
  have h : d₁.counter DC.ledgerEvent = d.counter DC.ledgerEvent := by
    unfold d₁
    split
    · rw [Dev.counter_count, if_neg (by decide)]
    · rfl
  rw [Dev.counter_count, if_pos rfl]
  exact congrArg (· + 1) h

end

/-! ### One entry, and changes that log nothing -/

/-- The log, ledger time, the count of events, the stack's content, the fuses and the keys are as they were. -/
structure Dev.LogsNothing (d d' : Dev) : Prop where
  log : d'.ledger.log = d.ledger.log
  head : d'.ledger.head = d.ledger.head
  ltime : d'.ledger.ltime = d.ledger.ltime
  counter : d'.counter DC.ledgerEvent = d.counter DC.ledgerEvent
  mem : d'.stack.mem = d.stack.mem
  vault : d'.vault = d.vault

/-- One entry with ruling `ruling` is written at the head of the log, and nothing else is logged. -/
structure Dev.LogsOne (ruling : BitVec 2) (d d' : Dev) : Prop where
  head : d'.ledger.head = (d.ledger.head + 1) % Config.ledgerEntries
  time : (SMap.get 0 d'.ledger.log d.ledger.head).extractLsb' 0 32 = d.ledger.ltime
  ruling : ((SMap.get 0 d'.ledger.log d.ledger.head).extractLsb' 40 2 : BitVec 2) = ruling
  ltime : d'.ledger.ltime = d.ledger.ltime
  counter : d'.counter DC.ledgerEvent = d.counter DC.ledgerEvent + 1
  mem : d'.stack.mem = d.stack.mem
  vault : d'.vault = d.vault

section
variable {d d₁ d₂ : Dev} {r : BitVec 2}

theorem Dev.LogsNothing.refl : Dev.LogsNothing d d := ⟨rfl, rfl, rfl, rfl, rfl, rfl⟩

theorem Dev.LogsNothing.trans (h₁ : Dev.LogsNothing d d₁) (h₂ : Dev.LogsNothing d₁ d₂) : Dev.LogsNothing d d₂ :=
  ⟨h₂.log.trans h₁.log, h₂.head.trans h₁.head, h₂.ltime.trans h₁.ltime, h₂.counter.trans h₁.counter, h₂.mem.trans h₁.mem,
    h₂.vault.trans h₁.vault⟩

theorem Dev.LogsOne.after (h₂ : Dev.LogsOne r d₁ d₂) (h₁ : Dev.LogsNothing d d₁) : Dev.LogsOne r d d₂ :=
  ⟨by rw [h₂.head, h₁.head], by rw [← h₁.head, h₂.time, h₁.ltime], by rw [← h₁.head, h₂.ruling], h₂.ltime.trans h₁.ltime,
    by rw [h₂.counter, h₁.counter], h₂.mem.trans h₁.mem, h₂.vault.trans h₁.vault⟩

theorem Dev.LogsOne.then (h₁ : Dev.LogsOne r d d₁) (h₂ : Dev.LogsNothing d₁ d₂) : Dev.LogsOne r d d₂ :=
  ⟨h₂.head.trans h₁.head, by rw [h₂.log, h₁.time], by rw [h₂.log, h₁.ruling], h₂.ltime.trans h₁.ltime, h₂.counter.trans h₁.counter,
    h₂.mem.trans h₁.mem, h₂.vault.trans h₁.vault⟩

/-- A change beside the ledger, the stack and the security block logs nothing, unless it counts an event. -/
theorem Dev.logsNothing_of_only {bs : List Blk} (h : d.only d₁ bs) (hb : Blk.ledger ∉ bs ∧ Blk.stack ∉ bs ∧ Blk.sec ∉ bs)
    (hc : d₁.counter DC.ledgerEvent = d.counter DC.ledgerEvent) : Dev.LogsNothing d d₁ := by
  have hl : d₁.ledger = d.ledger := h .ledger hb.1
  exact ⟨by rw [hl], by rw [hl], by rw [hl], hc, congrArg StackBlk.mem (h .stack hb.2.1), congrArg SecBlk.vault (h .sec hb.2.2)⟩

end

section
variable (d : Dev)

theorem Dev.logsNothing_updCluster (c : Nat) (f : Cluster → Cluster) : Dev.LogsNothing d (d.updCluster c f) :=
  Dev.logsNothing_of_only (d.updCluster_only c f) (by simp) rfl

theorem Dev.logsNothing_setTile (k : Nat) (t : Tile) : Dev.LogsNothing d (d.setTile k t) :=
  Dev.logsNothing_of_only (d.setTile_only k t) (by simp) rfl

theorem Dev.logsNothing_event (e : EventRec) : Dev.LogsNothing d (d.event e) :=
  Dev.logsNothing_of_only (d.event_only e) (by simp) (d.counter_event e (by decide))

theorem Dev.logsNothing_count {n : Nat} (h : DC.ledgerEvent ≠ n) (k : Nat) : Dev.LogsNothing d (d.count n k) :=
  Dev.logsNothing_of_only (d.count_only n k) (by simp) (by rw [Dev.counter_count, if_neg h])

theorem Dev.logsNothing_setPcs (n : Nat) (x : PcState) : Dev.LogsNothing d (d.setPcs n x) := ⟨rfl, rfl, rfl, rfl, rfl, rfl⟩

theorem Dev.logsNothing_setLane (k : Nat) (x : LaneRec) : Dev.LogsNothing d (d.setLane k x) := ⟨rfl, rfl, rfl, rfl, rfl, rfl⟩

theorem Dev.logsOne_log (kind event : BitVec 4) (ruling : BitVec 2) (origin : BitVec 3) (unit : Nat) (step : U48) (detail : U32) :
    Dev.LogsOne ruling d (d.log kind event ruling origin unit step detail) where
  head := by rw [Dev.ledger_log]
  time := by rw [Dev.ledger_log, SMap.get_put_same, ltime_logWord]
  ruling := by rw [Dev.ledger_log, SMap.get_put_same, ruling_logWord]
  ltime := by rw [Dev.ledger_log]
  counter := d.counter_log _ _ _ _ _ _ _
  mem := congrArg StackBlk.mem (d.log_only _ _ _ _ _ _ _ .stack (by simp))
  vault := congrArg SecBlk.vault (d.log_only _ _ _ _ _ _ _ .sec (by simp))

end

/-! ### Scratchpad rows (R226, R335, R337) -/

section
variable (d : Dev) (c r : Nat)

theorem Dev.logsNothing_condemnRow : Dev.LogsNothing d (d.condemnRow c r) := by
  unfold Dev.condemnRow
  split
  · exact d.logsNothing_updCluster _ _
  · unfold Dev.mapOutRow
    extract_lets x free bank already d₁
    have h₁ : Dev.LogsNothing d d₁ := d.logsNothing_updCluster _ _
    split
    · exact h₁
    · split
      · exact h₁.trans (d₁.logsNothing_updCluster _ _)
      · exact h₁.trans (d₁.logsNothing_event _)

/-- A condemned row of an owned cluster is to be mapped out, unless it is or a spare row holds its place. -/
theorem Dev.mapOut_condemnRow (h : (d.clusterOwner c).isSome = true) :
    r ∈ ((d.condemnRow c r).cluster c).mapOut ∨ (d.cluster c).spadMap.any (fun e => e.2 == r) = true := by
  obtain ⟨p, hp⟩ := Option.isSome_iff_exists.mp h
  unfold Dev.condemnRow
  rw [hp]
  dsimp only
  rw [Dev.cluster_updCluster_same]
  split
  · next hc => simpa [Bool.or_eq_true] using hc
  · exact .inl (by simp)

theorem Dev.logsOne_spadUe : Dev.LogsOne 2 d (d.spadUe c r) :=
  (d.logsOne_log _ _ _ _ _ _ _).then (Dev.logsNothing_condemnRow _ c r)

theorem Dev.mapOut_spadUe (h : (d.clusterOwner c).isSome = true) :
    r ∈ ((d.spadUe c r).cluster c).mapOut ∨ (d.cluster c).spadMap.any (fun e => e.2 == r) = true := by
  have ho := d.log_only 2 0xB 2 0 (c + 512 * r) (d.stepAt c) 0
  have hown : (d.log 2 0xB 2 0 (c + 512 * r) (d.stepAt c) 0).clusterOwner c = d.clusterOwner c := by
    rw [Dev.clusterOwner, Dev.clusterOwner, ho .part (by simp)]
  have h' := Dev.mapOut_condemnRow (d.log 2 0xB 2 0 (c + 512 * r) (d.stepAt c) 0) c r (hown ▸ h)
  rwa [Dev.cluster_of_array (ho .array (by simp))] at h'

/-- The times of the corrected words that the tally holds of a row. -/
def Dev.rowTimes (d : Dev) (c r : Nat) : List Nat := ((d.ledger.tally.find? fun e => e.1 == 512 * c + r).map (·.2.times)).getD []

/-- A list that takes one more is cut to `n` just where it then has `n`. -/
theorem length_take_cons_ge {α : Type} (x : α) (xs : List α) (n : Nat) : ((x :: xs).take (n + 1)).length ≥ n + 1 ↔ xs.length ≥ n := by
  simp only [List.length_take, List.length_cons]
  omega

theorem Dev.logsOne_spadCe :
    Dev.LogsOne (if (d.inWindow 86400 (d.rowTimes c r)).length ≥ 15 then 2 else 1) d (d.spadCe c r) := by
  unfold Dev.spadCe
  extract_lets key old times perm _ d₁ d₂
  have hp : perm = decide ((d.inWindow 86400 (d.rowTimes c r)).length ≥ 15) := decide_eq_decide.mpr (length_take_cons_ge d.ltime _ 15)
  have h₁ : Dev.LogsNothing d d₁ := ⟨rfl, rfl, rfl, rfl, rfl, rfl⟩
  have h₂ : Dev.LogsOne (if perm then 2 else 1) d d₂ := (d₁.logsOne_log _ _ _ _ _ _ _).after h₁
  rw [show (if (d.inWindow 86400 (d.rowTimes c r)).length ≥ 15 then (2 : BitVec 2) else 1) = if perm then 2 else 1 by simp [hp]]
  clear_value d₂
  generalize (if perm then (2 : BitVec 2) else 1) = x at h₂ ⊢
  split
  · exact h₂.then (d₂.logsNothing_condemnRow c r)
  · exact h₂

end

/-! ### Pseudo-channels and lanes (R235, R337) -/

section
variable (d : Dev) (pc : Nat)

theorem Dev.logsNothing_condemnPc : Dev.LogsNothing d (d.condemnPc pc) := by
  unfold Dev.condemnPc
  split
  · exact .refl
  · split
    · exact d.logsNothing_setPcs _ _
    · exact d.logsNothing_event _

/-- The corrected errors of a pseudo-channel within the last hour. -/
def Dev.recentErrors (d : Dev) (pc : Nat) : Nat := (d.inWindow 3600 (SMap.get ([], []) d.ledger.pcErrors pc).1).length

/-- A corrected stack error is logged; the pseudo-channel is ruled on where it is the 4,096th of the hour. -/
theorem Dev.stackCe_cases : ∃ d₁, Dev.LogsOne (if d.recentErrors pc ≥ 4095 then 2 else 1) d d₁ ∧ Dev.Touches [.ledger, .obs] [DC.ledgerWrap, DC.ledgerEvent] d d₁
    ∧ d.stackCe pc = if d.recentErrors pc ≥ 4095 then d₁.condemnPc pc else d₁ := by
  unfold Dev.stackCe
  extract_lets e times perm _ d₁ d₂
  have hp : perm = decide (d.recentErrors pc ≥ 4095) := decide_eq_decide.mpr (length_take_cons_ge d.ltime _ 4095)
  have h₁ : Dev.LogsNothing d d₁ := ⟨rfl, rfl, rfl, rfl, rfl, rfl⟩
  have h₂ : Dev.LogsOne (if perm then 2 else 1) d d₂ := (d₁.logsOne_log _ _ _ _ _ _ _).after h₁
  have ht : Dev.Touches [.ledger, .obs] [DC.ledgerWrap, DC.ledgerEvent] d d₁ :=
    Dev.touches_of_only (Dev.only_mono (d.only_ledger _) (by simp)) rfl
  refine ⟨d₂, by simpa [hp] using h₂, ht.trans (d₁.touches_log _ _ _ _ _ _ _), ?_⟩
  simp [hp]

theorem Dev.logsOne_stackCe : Dev.LogsOne (if d.recentErrors pc ≥ 4095 then 2 else 1) d (d.stackCe pc) := by
  obtain ⟨d₁, h, -, e⟩ := d.stackCe_cases pc
  rw [e]
  split
  · next hn => exact (if_pos hn ▸ h :).then (d₁.logsNothing_condemnPc pc)
  · next hn => exact (if_neg hn ▸ h :)

theorem Dev.pcs_stackCe_of_few (h : d.recentErrors pc < 4095) (n : Nat) : (d.stackCe pc).pcs n = d.pcs n := by
  obtain ⟨d₁, -, ho, e⟩ := d.stackCe_cases pc
  rw [e, if_neg (by omega)]
  exact congrArg (fun x : StackBlk => SMap.get PcState.inService x.pcs n) (ho.only .stack (by simp))

theorem Dev.logsOne_stackUe (block : Nat) : ∃ r, Dev.LogsOne r d (d.stackUe pc block) := by
  unfold Dev.stackUe
  extract_lets e recent perm _ d₁ d₂
  have h₁ : Dev.LogsNothing d d₁ := ⟨rfl, rfl, rfl, rfl, rfl, rfl⟩
  obtain ⟨r, h₂⟩ : ∃ r, Dev.LogsOne r d d₂ := ⟨_, (d₁.logsOne_log _ _ _ _ _ _ _).after h₁⟩
  refine ⟨r, ?_⟩
  split
  · exact h₂.then (d₂.logsNothing_condemnPc pc)
  · exact h₂

theorem Dev.lane_log (kind event : BitVec 4) (ruling : BitVec 2) (origin : BitVec 3) (unit : Nat) (step : U48) (detail : U32) (k : Nat) :
    (d.log kind event ruling origin unit step detail).lane k = d.lane k := by
  rw [Dev.lane, Dev.ledger_log, Dev.lane]

theorem Dev.logsOne_laneFault (port n : Nat) (f : Bool) : ∃ r, Dev.LogsOne r d (d.laneFault port n f) :=
  ⟨_, (Dev.logsOne_log _ _ _ _ _ _ _ _).after (d.logsNothing_setLane _ _)⟩

theorem Dev.lane_laneFault (port n : Nat) (f : Bool) (k : Nat) : ∃ x : LaneRec, (f = true → x.permanent = true)
    ∧ (d.laneFault port n f).lane k = if k = 8 * port + n then x else d.lane k := by
  unfold Dev.laneFault
  extract_lets x perm d₁
  refine ⟨{ x with permanent := x.permanent || perm }, fun hf => by simp [perm, hf], ?_⟩
  rw [Dev.lane_log]
  exact d.lane_setLane _ k _

end

/-! ### Tiles (R116, R133, R337, R344) -/

section
variable (d : Dev) (k : Nat)

theorem Dev.logsOne_tileDegraded : Dev.LogsOne 3 d (d.tileDegraded k) :=
  (d.logsOne_log _ _ _ _ _ _ _).then (Dev.logsNothing_count _ (by decide) 1)

theorem Dev.logsNothing_ageTile : Dev.LogsNothing d (d.ageTile k) := by
  unfold Dev.ageTile
  extract_lets t
  split
  · exact .refl
  · split
    · exact d.logsNothing_setTile _ _
    · exact (d.logsNothing_setTile _ _).trans (Dev.logsNothing_count _ (by decide) 1)

/-- A tile that is aged keeps its state and its overdue restores, and is aged at once or at the next boundary. -/
theorem Dev.tile_ageTile : ∃ x y : Bool, (d.ageTile k).tile k = { d.tile k with aged := x, agedStaged := y } ∧ (x = true ∨ y = true) := by
  unfold Dev.ageTile
  extract_lets t
  split
  · next h => exact ⟨t.aged, t.agedStaged, rfl, h⟩
  · split
    · exact ⟨t.aged, true, d.tile_setTile_same k _, .inr rfl⟩
    · exact ⟨true, t.agedStaged, d.tile_setTile_same k _, .inl rfl⟩

/-- The tile with one more overdue restore, of which it keeps two. -/
def Dev.overdueTile (d : Dev) (k : Nat) : Tile :=
  { d.tile k with overdues := (d.ltime :: d.inWindow 86400 (d.tile k).overdues).take 2 }

theorem Dev.tileOverdue_logged : ∃ d₁, Dev.LogsOne 3 d d₁ ∧ d₁.tile k = d.overdueTile k
    ∧ d.tileOverdue k = if (d.inWindow 86400 (d.tile k).overdues).length ≥ 1 then d₁.ageTile k else d₁ := by
  have ht : ((d.setTile k (d.overdueTile k)).logTile k 9 3 0 0).tile k = d.overdueTile k :=
    (Dev.tile_of_array (Dev.log_only _ _ _ _ _ _ _ _ .array (by simp)) k).trans (d.tile_setTile_same k _)
  refine ⟨(d.setTile k (d.overdueTile k)).logTile k 9 3 0 0, (Dev.logsOne_log _ _ _ _ _ _ _ _).after (d.logsNothing_setTile _ _), ht, ?_⟩
  unfold Dev.tileOverdue
  exact if_congr (length_take_cons_ge d.ltime _ 1) rfl rfl

theorem Dev.logsOne_tileOverdue : Dev.LogsOne 3 d (d.tileOverdue k) := by
  obtain ⟨d₁, h, -, e⟩ := d.tileOverdue_logged k
  rw [e]
  split
  · exact h.then (d₁.logsNothing_ageTile k)
  · exact h

theorem Dev.tile_tileOverdue : ((d.tileOverdue k).tile k).overdues.head? = some d.ltime ∧ ((d.tileOverdue k).tile k).state = (d.tile k).state
    ∧ (d.inWindow 86400 (d.tile k).overdues ≠ [] → ((d.tileOverdue k).tile k).aged = true ∨ ((d.tileOverdue k).tile k).agedStaged = true) := by
  obtain ⟨d₁, -, ht, e⟩ := d.tileOverdue_logged k
  rw [e]
  split
  · obtain ⟨x, y, ha, hxy⟩ := d₁.tile_ageTile k
    rw [ha, ht]
    exact ⟨rfl, rfl, fun _ => hxy⟩
  · next hn =>
    rw [ht]
    exact ⟨rfl, rfl, fun h => absurd (List.length_pos_iff.mpr h) hn⟩

end

/-! ### LEDGER_EVENT_REPORT, LEDGER_TIME_TICK, LEDGER_TIME_SAVE -/

/-- The package after the management plane has logged and ruled a reported event. -/
def Dev.reported (d : Dev) : LedgerEvent → Dev
  | .spadCorrected c r => d.spadCe c r
  | .spadUncorrectable c r => d.spadUe c r
  | .stackCorrected pc => d.stackCe pc
  | .stackUncorrectable pc b => d.stackUe pc b
  | .laneFaulty p l f => d.laneFault p l f
  | .tileDegraded k => d.tileDegraded k
  | .tileOverdue k => d.tileOverdue k
  | .brownOutReturn => d.log 5 0xD 3 0 0 d.stepHere 0

theorem exec_ledgerEventReport (e : LedgerEvent) (s : State) : exec (.ledgerEventReport e) s = .next { s with dev := s.dev.reported e } := by
  rw [show exec (.ledgerEventReport e) s = execLedgerEventReport e s from rfl, execLedgerEventReport]
  refine State.on_eq ?_
  cases e <;> rfl

theorem Dev.logsOne_reported (d : Dev) (e : LedgerEvent) : ∃ r, Dev.LogsOne r d (d.reported e) := by
  cases e with
  | spadCorrected c r => exact ⟨_, d.logsOne_spadCe c r⟩
  | spadUncorrectable c r => exact ⟨_, d.logsOne_spadUe c r⟩
  | stackCorrected pc => exact ⟨_, d.logsOne_stackCe pc⟩
  | stackUncorrectable pc b => exact d.logsOne_stackUe pc b
  | laneFaulty p l f => exact d.logsOne_laneFault p l f
  | tileDegraded k => exact ⟨_, d.logsOne_tileDegraded k⟩
  | tileOverdue k => exact ⟨_, d.logsOne_tileOverdue k⟩
  | brownOutReturn => exact ⟨_, d.logsOne_log _ _ _ _ _ _ _⟩

/-- What an event report leaves, by the event. -/
theorem runs_ledgerEventReport {s : State} {e : LedgerEvent} {post : Dev → Prop} (h : post (s.dev.reported e)) :
    Runs (.ledgerEventReport e) s post := Runs.of_next (exec_ledgerEventReport e s) h

/-- Settles O23, event by event: each leaves one entry, and what follows its ruling logs nothing. -/
theorem ledgerLogsEveryReportedEvent : Obligations.LedgerLogsEveryReportedEvent := by
  unfold Obligations.LedgerLogsEveryReportedEvent
  refine fun s => ⟨fun e => runs_ledgerEventReport ?any, fun c r => runs_ledgerEventReport ?spadUe, fun p n f => runs_ledgerEventReport ?lane,
    fun c r => runs_ledgerEventReport ?spadCe, fun pc => runs_ledgerEventReport ?stackCe, fun k => runs_ledgerEventReport (s.dev.tile_tileOverdue k),
    fun h => Runs.of_next (State.on_eq (if_pos h)) rfl, fun h => Runs.of_next (State.on_eq (if_pos h)) rfl⟩
  case any =>
    obtain ⟨r, h⟩ := s.dev.logsOne_reported e
    exact ⟨h.head, ⟨_, rfl, h.time⟩, h.ltime, h.counter, h.mem, h.vault⟩
  case spadUe => exact ⟨(s.dev.logsOne_spadUe c r).ruling, s.dev.mapOut_spadUe c r⟩
  case lane =>
    obtain ⟨x, hx, h⟩ := s.dev.lane_laneFault p n f (8 * p + n)
    refine ⟨fun hf => ?_, fun k hk => ?_⟩
    · exact (congrArg LaneRec.permanent (h.trans (if_pos rfl))).trans (hx hf)
    · obtain ⟨y, -, h'⟩ := s.dev.lane_laneFault p n f k
      exact h'.trans (if_neg hk)
  case spadCe => exact (s.dev.logsOne_spadCe c r).ruling
  case stackCe => exact ⟨(s.dev.logsOne_stackCe pc).ruling, fun h => s.dev.pcs_stackCe_of_few pc h pc⟩

end Sys2Proof.Machine
end

section
/-! OBLIGATION. Accesses to the stack: what a read answers, what a write changes, and what a refused access leaves (R227, R230, R231, R233,
R234, R396, R397). -/

namespace Sys2Proof.Machine

/-! ### Bytes written through the block-remap table (R230, R234) -/

section
variable (d : Dev) (a x : Nat) (bs : List Byte)

theorem Dev.stackWrite_only : d.only (d.stackWrite a bs) [.stack] := d.only_stack _

/-- A byte outside the remapped addresses of the range is as it was. -/
theorem Dev.byte_stackWrite_outside (h : ∀ i < bs.length, d.mapAddr (a + i) ≠ x) : (d.stackWrite a bs).byte x = d.byte x := by
  have fold : ∀ (bs : List Byte) (n : Nat) (m : List Host.Cell), (∀ i < bs.length, d.mapAddr (a + (n + i)) ≠ x) →
      Memory.read ((bs.zipIdx n).foldl (fun m b => Memory.write m (d.mapAddr (a + b.2)) b.1) m) x = Memory.read m x := by
    intro bs
    induction bs with
    | nil => exact fun _ _ _ => rfl
    | cons b bs ih =>
      intro n m h
      rw [List.length_cons] at h
      have hrest : ∀ i < bs.length, d.mapAddr (a + (n + 1 + i)) ≠ x := fun i hi => by
        have h' := h (i + 1) (by omega)
        rwa [show n + (i + 1) = n + 1 + i by omega] at h'
      have hfirst : x ≠ d.mapAddr (a + n) := fun e => h 0 (by omega) e.symm
      rw [List.zipIdx_cons, List.foldl_cons, ih (n + 1) _ hrest, Memory.read_write, if_neg hfirst]
  exact fold bs 0 _ fun i hi => (Nat.zero_add i).symm ▸ h i hi

theorem Dev.mapAddr_of_remap_nil (h : d.stack.remap = []) : d.mapAddr a = a := by
  have hb : d.mapBlock (a / 16384) = a / 16384 := by rw [Dev.mapBlock, h, SMap.get]
  rw [Dev.mapAddr, hb, Nat.div_add_mod]

/-- With no block remapped a write is one of consecutive bytes. -/
theorem Dev.stackWrite_of_remap_nil (h : d.stack.remap = []) : d.stackWrite a bs = d.writeBytes a bs := by
  have fold : ∀ (bs : List Byte) (n : Nat) (m : List Host.Cell),
      (bs.zipIdx n).foldl (fun m b => Memory.write m (d.mapAddr (a + b.2)) b.1) m = Memory.writes m (a + n) bs := by
    intro bs
    induction bs with
    | nil => exact fun _ _ => rfl
    | cons b bs ih =>
      intro n m
      rw [List.zipIdx_cons, List.foldl_cons, ih, d.mapAddr_of_remap_nil _ h, Memory.writes, Nat.add_assoc]
  exact congrArg d.setMem (fold bs 0 _)

theorem Dev.byte_stackWrite_inside (h : d.stack.remap = []) {i : Nat} (hi : i < bs.length) : (d.stackWrite a bs).byte (a + i) = bs[i] := by
  rw [d.stackWrite_of_remap_nil a bs h]
  exact Memory.read_writes_inside _ a i bs hi

end

/-! ### A refused access (R230, R397) -/

theorem Dev.counter_refuseAccess (d : Dev) (p : Nat) : (d.refuseAccess p).counter DC.stackViolation = d.counter DC.stackViolation + 1 := by
  have h : (d.count DC.stackViolation).counter DC.stackViolation = d.counter DC.stackViolation + 1 :=
    (d.counter_count _ _ _).trans (if_pos rfl)
  obtain e | ⟨x, e⟩ := d.refuseAccess_cases p <;> rw [e]
  · exact h
  · exact (Dev.counter_event _ _ (by decide)).trans h

/-! ### Errors of the stack, counted and ruled (R233, R235, R337) -/

section
variable (d : Dev) (pc : Nat)

theorem Dev.touches_event (e : EventRec) : Dev.Touches [.host, .obs] [DC.msixSent] d (d.event e) :=
  ⟨d.event_only e, fun _ hn => d.counter_event e fun h => hn (by simp [h])⟩

/-- The blocks and counters that an entry of the log and a ruling on a pseudo-channel may change. -/
abbrev Dev.Rules (d d' : Dev) : Prop := Dev.Touches [.ledger, .stack, .host, .obs] [DC.ledgerWrap, DC.ledgerEvent, DC.msixSent] d d'

theorem Dev.rules_condemnPc : Dev.Rules d (d.condemnPc pc) := by
  unfold Dev.condemnPc
  split
  · exact .refl
  · split
    · exact Dev.touches_of_only (Dev.only_mono (d.only_stack _) (by simp)) rfl
    · exact (d.touches_event _).mono (by simp) (by simp)

theorem Dev.rules_stackCe : Dev.Rules d (d.stackCe pc) := by
  obtain ⟨d₁, -, h, e⟩ := d.stackCe_cases pc
  have h₁ : Dev.Rules d d₁ := h.mono (by simp) (by simp)
  rw [e]
  split
  · exact h₁.trans (d₁.rules_condemnPc pc)
  · exact h₁

theorem Dev.rules_stackUe (block : Nat) : Dev.Rules d (d.stackUe pc block) := by
  unfold Dev.stackUe
  extract_lets e recent perm _ d₁ d₂
  have h₁ : Dev.Rules d d₁ := Dev.touches_of_only (Dev.only_mono (d.only_ledger _) (by simp)) rfl
  have h₂ : Dev.Rules d d₂ := h₁.trans ((d₁.touches_log _ _ _ _ _ _ _).mono (by simp) (by simp))
  split
  · exact h₂.trans (d₂.rules_condemnPc pc)
  · exact h₂

end

section
variable (d : Dev) (block : Nat)

/-- A corrected error leaves the stack's content and is counted. -/
theorem Dev.byte_stackCorrected (x : Nat) : (d.stackCorrected block).byte x = d.byte x :=
  congrArg (Memory.read · x) (Dev.logsOne_stackCe _ _).mem

theorem Dev.counter_stackCorrected : (d.stackCorrected block).counter DC.stackCe = d.counter DC.stackCe + 1 := by
  unfold Dev.stackCorrected
  extract_lets pc x
  rw [(Dev.rules_stackCe _ pc).counter _ (by decide), Dev.counter_count, if_pos rfl]
  rfl

end

/-! ### The outcome of an uncorrectable block (R233) -/

/-- What counts the loss of a block's content. -/
def lossCounters : List Nat := [DC.shardRefetch, DC.shardReplicaUse, DC.traceStackLost] ++ requestCounters

/-- The change is of what a lost block leaves to do. -/
abbrev Dev.Loses (d d' : Dev) : Prop := Dev.Touches hostBlocks lossCounters d d'

section
variable (d : Dev)

theorem Dev.Touches.loses {d d' : Dev} (h : Dev.Writes d d') : Dev.Loses d d' :=
  h.mono (List.Subset.refl _) (List.subset_append_right _ _)

theorem Dev.loses_stack (x : StackBlk) : Dev.Loses d { d with stack := x } :=
  Dev.touches_of_only (Dev.only_mono (d.only_stack x) (by simp [hostBlocks])) rfl

theorem Dev.loses_count {n : Nat} (h : n ∈ lossCounters) (k : Nat) : Dev.Loses d (d.count n k) :=
  Dev.touches_count (by simp [hostBlocks]) h d k

theorem Dev.loses_send (m : OutMsg) : Dev.Loses d (d.send m) := (d.writes_send m).loses

theorem Dev.loses_fetchAgain (p block : Nat) (golden : Bool) : Dev.Loses d (d.fetchAgain p block golden) := by
  unfold Dev.fetchAgain
  extract_lets replica d₁
  have h₁ : Dev.Loses d d₁ := d.loses_send _
  split
  · split
    · exact h₁.trans ((d₁.loses_count (by simp [lossCounters]) 1).trans (Dev.loses_count _ (by simp [lossCounters]) 1))
    · exact h₁.trans (d₁.loses_count (by simp [lossCounters]) 1)
  · exact h₁

theorem Dev.loses_reportBanks (p : Nat) : Dev.Loses d (d.reportBanks p) := by
  unfold Dev.reportBanks
  split
  · exact .refl
  · split
    · exact .refl
    · exact d.loses_send _

theorem Dev.loses_spoilBank (p b : Nat) : Dev.Loses d (d.spoilBank p b) :=
  Dev.Touches.trans (Dev.touches_of_only (Dev.only_mono (d.setCommit_only p _) (by simp [hostBlocks])) rfl)
    (Dev.loses_reportBanks _ p)

theorem Dev.loses_spoilGraft (id : Nat) (ver : U16) : Dev.Loses d (d.spoilGraft id ver) :=
  (d.writes_serve _).loses.trans (.forAll (fun d slot => (d.writes_loseRequest slot).loses) _ _)

theorem Dev.loses_replicasAgain : Dev.Loses d d.replicasAgain :=
  .forAll (fun d _ => (d.loses_stack _).trans (Dev.loses_send _ _)) _ _

theorem Dev.loses_setTraceRing (p : Nat) (x : Ring) : Dev.Loses d (d.setTraceRing p x) :=
  ⟨Dev.only_mono (d.only_obs _) (by simp [hostBlocks]), fun _ _ => rfl⟩

theorem Dev.loses_loseSample (block : Nat) : Dev.Loses d (d.loseSample block) := by
  unfold Dev.loseSample
  refine .forAll (fun d p => ?_) _ _
  exact (d.loses_setTraceRing p _).trans (Dev.loses_count _ (n := DC.traceStackLost) (by simp [lossCounters]) _)

theorem Dev.loses_loseBlock (p block : Nat) : Dev.Loses d (d.loseBlock p block) := by
  have banks : ∀ b at_, Dev.Loses d (d.forAll (d.bankOwners b at_) fun d p =>
      if (d.commit p).bank = some b then d.fetchAgain p block true else d.spoilBank p b) := fun b at_ =>
    .forAll (fun d p => by
      split
      · exact d.loses_fetchAgain p block true
      · exact d.loses_spoilBank p b) _ _
  unfold Dev.loseBlock
  split
  · exact banks _ _
  · exact banks _ _
  · exact d.loses_replicasAgain
  · extract_lets live
    split
    · exact (d.writes_fresh _).loses.trans (Dev.loses_spoilGraft _ _ _)
    · exact .refl
  · split
    · exact (d.writes_loseRequest _).loses
    · exact .refl
  · exact d.loses_loseSample block
  · exact d.loses_stack _
  · exact d.loses_stack _
  · exact d.loses_fetchAgain p block false
  · exact .refl

theorem Dev.counter_stackUncorrectable (p pc block at_ : Nat) :
    (d.stackUncorrectable p pc block at_).counter DC.stackUe = d.counter DC.stackUe + 1 := by
  unfold Dev.stackUncorrectable
  rw [(Dev.loses_loseBlock _ p at_).counter _ (by decide), (Dev.rules_stackUe _ pc block).counter _ (by decide)]
  exact (d.counter_count _ _ _).trans (if_pos rfl)

/-- The cluster that waits is late, and the read answers once the block has come again. -/
def Dev.rereadLate (d : Dev) (c : Option Nat) (ns addr n : Nat) : Dev := (d.accessLate c ns).answer (.bytes (d.stackRead addr n))

theorem Dev.counter_rereadLate (c : Option Nat) (ns addr n m : Nat) : (d.rereadLate c ns addr n).counter m = d.counter m := by
  cases c <;> rfl

end

/-! ### STACK_ACCESS -/

/-- A permitted access of `n` bytes is counted in its class. -/
def Dev.accessCounted (d : Dev) (cls n : Nat) : Dev := d.count (bytesCounter cls) (ceilDiv n 64)

theorem bytesCounter_lt (cls : Nat) : bytesCounter cls < DC.stackCe := by
  unfold bytesCounter
  split <;> decide

section
variable (d : Dev) (cls n : Nat)

theorem Dev.counter_accessCounted :
    (d.accessCounted cls n).counter (bytesCounter cls) = d.counter (bytesCounter cls) + BitVec.ofNat 64 (ceilDiv n 64) := by
  rw [Dev.accessCounted, Dev.counter_count, if_pos rfl]

theorem Dev.counter_accessCounted_error {m : Nat} (h : DC.stackCe ≤ m) : (d.accessCounted cls n).counter m = d.counter m := by
  have := bytesCounter_lt cls
  rw [Dev.accessCounted, Dev.counter_count, if_neg (by omega)]

theorem Dev.byte_accessCounted (x : Nat) : (d.accessCounted cls n).byte x = d.byte x := rfl

theorem Dev.accessCounted_only : d.only (d.accessCounted cls n) [.obs] := d.count_only _ _

theorem Dev.byte_answer (x : Reply) (a : Nat) : (d.answer x).byte a = d.byte a := rfl

theorem Dev.counter_answer (x : Reply) (m : Nat) : (d.answer x).counter m = d.counter m := rfl

theorem Dev.answer_only (x : Reply) : d.only (d.answer x) [.host] := d.only_host _

theorem Dev.mem_replies_answer (x : Reply) : x ∈ (d.answer x).host.replies := List.mem_append_right _ List.mem_cons_self

theorem Dev.length_stackRead (a k : Nat) : (d.stackRead a k).length = k := by simp [Dev.stackRead]

end

theorem exec_stackAccess (r : Requester) (addr : Nat) (op : StackOp) (s : State) : exec (.stackAccess r addr op) s = execStackAccess r addr op s := rfl

section
variable {s : State} {r : Requester} {addr n : Nat}

section
variable (h : s.dev.mayUse r addr n = true)
include h

theorem runs_stackAccess_read : Runs (.stackAccess r addr (.read n)) s fun d' => s.dev.only d' [.host, .obs]
    ∧ d'.host.replies = s.dev.host.replies ++ [.bytes (s.dev.stackRead addr n)]
    ∧ d'.counter (bytesCounter r.cls) = s.dev.counter (bytesCounter r.cls) + BitVec.ofNat 64 (ceilDiv n 64) :=
  Runs.of_next ((exec_stackAccess r addr _ s).trans (State.on_eq (if_pos h)))
    ⟨Dev.only_then (s.dev.accessCounted_only r.cls n) (Dev.answer_only _ _) (by simp) (by simp), rfl, s.dev.counter_accessCounted r.cls n⟩

theorem runs_stackAccess_readCorrected : Runs (.stackAccess r addr (.readCorrected n)) s fun d' => (∀ x, d'.byte x = s.dev.byte x)
    ∧ .bytes (s.dev.stackRead addr n) ∈ d'.host.replies ∧ d'.counter DC.stackCe = s.dev.counter DC.stackCe + 1 := by
  have hexec : exec (.stackAccess r addr (.readCorrected n)) s
      = .next { s with dev := ((s.dev.accessCounted r.cls n).stackCorrected (addr / 16384)).answer (.bytes (s.dev.stackRead addr n)) } :=
    (exec_stackAccess r addr _ s).trans (State.on_eq (if_pos h))
  refine Runs.of_next hexec ⟨fun x => ?_, Dev.mem_replies_answer _ _, ?_⟩
  · rw [Dev.byte_answer, Dev.byte_stackCorrected, Dev.byte_accessCounted]
  · rw [Dev.counter_answer, Dev.counter_stackCorrected, s.dev.counter_accessCounted_error r.cls n (le_refl _)]

theorem runs_stackAccess_comesAgain (wait : Nat) (ha : s.dev.comesAgain addr = true) : Runs (.stackAccess r addr (.readUncorrectable n wait)) s
    fun d' => (∃ bs : List Byte, .bytes bs ∈ d'.host.replies ∧ bs.length = n) ∧ d'.counter DC.stackUe = s.dev.counter DC.stackUe + 1 := by
  have ha' : (s.dev.accessCounted r.cls n).comesAgain addr = true := ha
  obtain ⟨pc, hexec⟩ : ∃ pc, exec (.stackAccess r addr (.readUncorrectable n wait)) s = .next
      { s with dev := ((s.dev.accessCounted r.cls n).stackUncorrectable r.partition pc (addr / 16384) (addr / 16384)).rereadLate r.cluster
                 wait addr n } :=
    ⟨_, (exec_stackAccess r addr _ s).trans (State.on_eq ((if_pos h).trans (if_pos ha')))⟩
  refine Runs.of_next hexec ⟨⟨_, Dev.mem_replies_answer _ _, Dev.length_stackRead _ _ _⟩, ?_⟩
  rw [Dev.counter_rereadLate, Dev.counter_stackUncorrectable, s.dev.counter_accessCounted_error r.cls n (by decide)]

end

theorem runs_stackAccess_write {bs : List Byte} (h : s.dev.mayUse r addr bs.length = true) : Runs (.stackAccess r addr (.write bs)) s fun d' =>
    s.dev.only d' [.stack, .obs] ∧ (∀ x, (∀ i < bs.length, s.dev.mapAddr (addr + i) ≠ x) → d'.byte x = s.dev.byte x)
      ∧ (s.dev.stack.remap = [] → ∀ i (hi : i < bs.length), d'.byte (addr + i) = bs[i]) :=
  Runs.of_next ((exec_stackAccess r addr _ s).trans (State.on_eq (if_pos h)))
    ⟨Dev.only_then (s.dev.accessCounted_only r.cls bs.length) (Dev.stackWrite_only _ addr bs) (by simp) (by simp),
      fun x hx => Dev.byte_stackWrite_outside (s.dev.accessCounted r.cls bs.length) addr x bs hx,
      fun hr _ hi => Dev.byte_stackWrite_inside (s.dev.accessCounted r.cls bs.length) addr bs hr hi⟩

/-- A refused access is counted as a violation and changes no byte. -/
theorem Dev.refuseAccess_facts (d : Dev) (p : Nat) : (∀ x, (d.refuseAccess p).byte x = d.byte x)
    ∧ (d.refuseAccess p).counter DC.stackViolation = d.counter DC.stackViolation + 1 ∧ d.only (d.refuseAccess p) [.host, .stack, .obs] :=
  ⟨fun x => congrArg (Memory.read · x) (d.mem_refuseAccess p), d.counter_refuseAccess p, Dev.only_mono (d.refuseAccess_only p) (by simp)⟩

theorem runs_stackAccess_refusedRead {op : StackOp} (h : s.dev.mayUse r addr n = false)
    (hop : op = .read n ∨ op = .readCorrected n ∨ ∃ w, op = .readUncorrectable n w) : Runs (.stackAccess r addr op) s fun d' =>
      (∀ x, d'.byte x = s.dev.byte x) ∧ d'.counter DC.stackViolation = s.dev.counter DC.stackViolation + 1
        ∧ .bytes (List.replicate n 0) ∈ d'.host.replies ∧ s.dev.only d' [.host, .stack, .obs] := by
  have hn : ¬ s.dev.mayUse r addr n = true := by simp [h]
  have he : exec (.stackAccess r addr op) s
      = .next { s with dev := (s.dev.refuseAccess r.partition).answer (.bytes (List.replicate n 0)) } := by
    obtain rfl | rfl | ⟨w, rfl⟩ := hop <;> exact (exec_stackAccess r addr _ s).trans (State.on_eq (if_neg hn))
  obtain ⟨hbyte, hcount, honly⟩ := s.dev.refuseAccess_facts r.partition
  exact Runs.of_next he ⟨hbyte, hcount, Dev.mem_replies_answer _ _, Dev.only_then honly (Dev.answer_only _ _) (List.Subset.refl _) (by simp)⟩

theorem runs_stackAccess_refusedWrite {bs : List Byte} (h : s.dev.mayUse r addr bs.length = false) : Runs (.stackAccess r addr (.write bs)) s
    fun d' => (∀ x, d'.byte x = s.dev.byte x) ∧ d'.counter DC.stackViolation = s.dev.counter DC.stackViolation + 1
      ∧ s.dev.only d' [.host, .stack, .obs] :=
  have hn : ¬ s.dev.mayUse r addr bs.length = true := by simp [h]
  Runs.of_next ((exec_stackAccess r addr _ s).trans (State.on_eq (if_neg hn))) (s.dev.refuseAccess_facts r.partition)

end

/-- Settles O35: the permitted reads, the permitted write, and the refused access of each kind. -/
theorem stackAccessStaysInItsRegion : Obligations.StackAccessStaysInItsRegion := by
  unfold Obligations.StackAccessStaysInItsRegion
  exact fun s r addr => ⟨fun n h => ⟨runs_stackAccess_read h, runs_stackAccess_readCorrected h, runs_stackAccess_comesAgain h⟩,
    fun bs h => runs_stackAccess_write h, fun n op h hop => runs_stackAccess_refusedRead h hop, fun bs h => runs_stackAccess_refusedWrite h⟩

end Sys2Proof.Machine
end

section
/-! OBLIGATION. The migration of a block outside the KV pool: the copy, the page it takes, the remap entry (R232, R234, R235). -/

namespace Sys2Proof.Machine

/-! ### A block copied (R234) -/

/-- The cells of block `src`, written over block `dst` of a content that reads 0 there, read at `dst` as they did. -/
theorem Memory.read_copy {src dst : Nat} {base : List Host.Cell} (hz : ∀ x, x / 16384 = dst → Memory.read base x = 0) (m : List Host.Cell)
    (x : Nat) : Memory.read ((m.filter fun e => e.1 / 16384 == src).foldr (fun e m => Memory.write m (16384 * dst + e.1 % 16384) e.2) base) x
      = if x / 16384 = dst then Memory.read m (16384 * src + x % 16384) else Memory.read base x := by
  induction m with
  | nil =>
    split
    · next hx => exact hz x hx
    · rfl
  | cons e m ih =>
    obtain ⟨j, v⟩ := e
    have hget : Memory.read ((j, v) :: m) (16384 * src + x % 16384)
        = if j = 16384 * src + x % 16384 then v else Memory.read m (16384 * src + x % 16384) := rfl
    by_cases hj : j / 16384 = src
    · rw [List.filter_cons_of_pos (by simpa using hj), List.foldr_cons, Memory.read_write, ih, hget]
      by_cases hx : x / 16384 = dst
      · simp only [hx, if_true]
        exact if_congr (by omega) rfl rfl
      · rw [if_neg hx, if_neg hx, if_neg (by omega)]
    · rw [List.filter_cons_of_neg (by simpa using hj), ih, hget, if_neg (show ¬ j = 16384 * src + x % 16384 by omega)]

section
variable (d : Dev) (src dst : Nat)

theorem Dev.byte_copyBlock (x : Nat) : (d.copyBlock src dst).byte x = if x / 16384 = dst then d.byte (16384 * src + x % 16384) else d.byte x := by
  have hzero : ∀ y, Memory.read (Memory.zero d.stack.mem (16384 * dst) 16384) y = if y / 16384 = dst then 0 else d.byte y := fun y => by
    rw [Memory.read_zero]
    exact if_congr (by omega) rfl rfl
  refine (Memory.read_copy (fun y hy => (hzero y).trans (if_pos hy)) d.stack.mem x).trans ?_
  split
  · rfl
  · next hx => exact (hzero x).trans (if_neg hx)

theorem Dev.copyBlock_only : d.only (d.copyBlock src dst) [.stack] := d.only_stack _

end

/-! ### PC_MIGRATION_BLOCK -/

section
variable (d : Dev) (b : Nat)

@[simp] theorem Dev.mapBlock_count (n k : Nat) : (d.count n k).mapBlock b = d.mapBlock b := by simp [Dev.mapBlock]
@[simp] theorem Dev.mapBlock_takePage (p : Nat) : (d.takePage p).mapBlock b = d.mapBlock b := by simp [Dev.mapBlock, Dev.takePage]
@[simp] theorem Dev.mapBlock_copyBlock (src dst : Nat) : (d.copyBlock src dst).mapBlock b = d.mapBlock b := by
  simp [Dev.mapBlock, Dev.copyBlock, Dev.setMem, Dev.zeroRange]

@[simp] theorem Dev.byte_count (n k x : Nat) : (d.count n k).byte x = d.byte x := by simp [Dev.byte]
@[simp] theorem Dev.byte_takePage (p x : Nat) : (d.takePage p).byte x = d.byte x := by simp [Dev.byte, Dev.takePage]

end

/-- Readable block `block` is copied to pool page `new`, which is taken; the copy and the migration are counted. -/
def Dev.blockCopied (d : Dev) (block new : Nat) : Dev :=
  let dst := (d.kindAt 4).1 + new
  let d := d.takePage new
  ((d.copyBlock (d.mapBlock block) (d.mapBlock dst)).count DC.stackBytesC 256).count DC.stackMigrated

/-- Block `block` lies at block `dst` of the stack. -/
def Dev.remapped (d : Dev) (block dst : Nat) : Dev := { d with stack := { d.stack with remap := SMap.put block d.stack.remap block dst } }

/-- Readable block `block` has moved to pool page `new`. -/
def Dev.blockMoved (d : Dev) (block new : Nat) : Dev :=
  (d.blockCopied block new).remapped block ((d.blockCopied block new).mapBlock ((d.kindAt 4).1 + new))

section
variable (d : Dev) (block new : Nat)

theorem Dev.counter_copyBlock (src dst n : Nat) : (d.copyBlock src dst).counter n = d.counter n := by simp [Dev.counter, Dev.copyBlock, Dev.zeroRange]

theorem Dev.byte_remapped (dst x : Nat) : (d.remapped block dst).byte x = d.byte x := rfl

theorem Dev.counter_remapped (dst n : Nat) : (d.remapped block dst).counter n = d.counter n := rfl

theorem Dev.mapBlock_remapped (dst : Nat) : (d.remapped block dst).mapBlock block = dst := SMap.get_put_same _ _ _ _

@[simp] theorem Dev.mapBlock_blockCopied (b : Nat) : (d.blockCopied block new).mapBlock b = d.mapBlock b := by simp [Dev.blockCopied]

theorem Dev.mapBlock_blockMoved : (d.blockMoved block new).mapBlock block = d.mapBlock ((d.kindAt 4).1 + new) := by
  rw [Dev.blockMoved, Dev.mapBlock_remapped, Dev.mapBlock_blockCopied]

theorem Dev.mem_pagesUsed_blockMoved : new ∈ (d.blockMoved block new).stack.pagesUsed := List.mem_cons_self

theorem Dev.byte_blockMoved (x : Nat) : (d.blockMoved block new).byte x = if x / 16384 = d.mapBlock ((d.kindAt 4).1 + new)
    then d.byte (16384 * d.mapBlock block + x % 16384) else d.byte x := by
  rw [Dev.blockMoved, Dev.byte_remapped, Dev.blockCopied]
  simp [Dev.byte_copyBlock]

theorem Dev.counter_blockMoved : (d.blockMoved block new).counter DC.stackMigrated = d.counter DC.stackMigrated + 1 := by
  have hmoved : (d.blockMoved block new).counter DC.stackMigrated = (d.blockCopied block new).counter DC.stackMigrated := by
    rw [Dev.blockMoved, Dev.counter_remapped]
  have hbytes : DC.stackMigrated ≠ DC.stackBytesC := by decide
  have hpage : DC.stackMigrated ≠ DC.kvPageAlloc := by decide
  rw [hmoved, Dev.blockCopied, Dev.counter_count, if_pos rfl, Dev.counter_count, if_neg hbytes, Dev.counter_copyBlock, Dev.takePage,
    Dev.counter_count, if_neg hpage]
  rfl

theorem Dev.blockMoved_only : d.only (d.blockMoved block new) [.stack, .obs] := by
  have hpage : d.only (d.takePage new) [.stack, .obs] := Dev.only_then (d.only_stack _) (Dev.count_only _ _ _) (by simp) (by simp)
  have hcopy : d.only (d.blockCopied block new) [.stack, .obs] := Dev.only_mono (((hpage.append (Dev.copyBlock_only _ _ _)).append
    (Dev.count_only _ DC.stackBytesC 256)).append (Dev.count_only _ DC.stackMigrated 1)) (by simp)
  exact Dev.only_then hcopy (Dev.only_stack _ _) (List.Subset.refl _) (by simp)

end

section
variable {s : State} {pc block new : Nat}

theorem exec_pcMigrationBlock_moves (hs : (s.dev.pcs pc).state = 1) (hpc : pcOf (s.dev.mapBlock block) = pc)
    (hout : block < (s.dev.kindAt 4).1 ∨ (s.dev.kindAt 4).1 + (s.dev.kindAt 4).2 ≤ block) (hk : (s.dev.kindOf block).isSome = true)
    (hp : s.dev.pageFrom s.dev.stack.turn = some new) :
    exec (.pcMigrationBlock pc block true) s = .next { s with dev := s.dev.blockMoved block new } := by
  rw [show exec (.pcMigrationBlock pc block true) s = execPcMigrationBlock pc block true s from rfl, execPcMigrationBlock]
  refine State.on_eq ?_
  have hpool : ¬ ((s.dev.kindAt 4).1 ≤ block ∧ block < (s.dev.kindAt 4).1 + (s.dev.kindAt 4).2) := by omega
  dsimp only
  rw [if_pos ⟨hs, hpc⟩, if_neg hpool, if_pos hk, hp]
  rfl

theorem exec_pcMigrationBlock_stays (h : (s.dev.pcs pc).state ≠ 1 ∨ pcOf (s.dev.mapBlock block) ≠ pc) (readable : Bool) :
    exec (.pcMigrationBlock pc block readable) s = .next s := by
  rw [show exec (.pcMigrationBlock pc block readable) s = execPcMigrationBlock pc block readable s from rfl, execPcMigrationBlock]
  exact State.on_eq (d' := s.dev) (if_neg (by tauto))

end

/-- Settles O36: the block that moves, and the one that the pseudo-channel does not hold or does not give up. -/
theorem migrationMovesABlockWithItsContent : Obligations.MigrationMovesABlockWithItsContent := by
  unfold Obligations.MigrationMovesABlockWithItsContent
  refine fun s pc block new => ⟨fun hs hpc hout hk hp => Runs.of_next (exec_pcMigrationBlock_moves hs hpc hout hk hp) ?_,
    fun readable h => exec_pcMigrationBlock_stays h readable⟩
  refine ⟨s.dev.mapBlock_blockMoved block new, s.dev.mem_pagesUsed_blockMoved block new, fun i hi => ?_, fun x hx => ?_,
    s.dev.counter_blockMoved block new, s.dev.blockMoved_only block new⟩
  · rw [Dev.byte_blockMoved, if_pos (by omega)]
    congr 2
    omega
  · rw [Dev.byte_blockMoved, if_neg hx]

end Sys2Proof.Machine
end

section
/-! SUPPORT. Trace records in a ring that is empty: the page that holds one record, its 4 KiB in the stack, and a ring that is refused (R230,
R431, R432, R436). -/

namespace Sys2Proof.Machine

/-! ### The bytes of a page (R431, R432) -/

@[simp] theorem length_bytesOf {n : Nat} (w : BitVec n) (k : Nat) : (bytesOf w k).length = k := by simp [bytesOf]

theorem length_padTo {n : Nat} {bs : List Byte} (h : bs.length ≤ n) : (padTo n bs).length = n := by
  rw [padTo, List.length_append, List.length_replicate]
  omega

/-- A record's body fits in its units. -/
def TraceRec.Fits (x : TraceRec) : Prop := 32 + 8 * x.body.length ≤ 64 * x.units

theorem TraceRec.length_bytes {x : TraceRec} (h : x.Fits) : x.bytes.length = 64 * x.units := by
  have hbody : (x.body.flatMap fun w => bytesOf w 8).length = 8 * x.body.length := by
    simp [List.length_flatMap, Nat.mul_comm]
  exact length_padTo (by rw [List.length_append, length_bytesOf, hbody]; exact h)

/-- A record alone on its page, with pad records behind it, fills 4 KiB. -/
theorem length_pageBytes_single {x : TraceRec} (h : x.Fits) (hu : x.units ≤ 64) : (pageBytes [x]).length = 4096 := by
  have hpad : TraceRec.pad.bytes.length = 64 := TraceRec.length_bytes (x := TraceRec.pad) (by decide : 32 + 8 * 0 ≤ 64 * 1)
  have hpads : ((List.replicate (64 - x.units) TraceRec.pad).flatMap TraceRec.bytes).length = 64 * (64 - x.units) := by
    simp [List.length_flatMap, hpad, Nat.mul_comm]
  have hsplit : pageBytes [x] = x.bytes ++ (List.replicate (64 - x.units) TraceRec.pad).flatMap TraceRec.bytes := by
    simp [pageBytes]
  rw [hsplit, List.length_append, TraceRec.length_bytes h, hpads]
  omega

/-- Up to 64 selected counters make a record of fewer than 64 units, in which they fit. -/
theorem recordUnits_bounds {k : Nat} (h : k ≤ 64) : recordUnits k < 64 ∧ 32 + 8 * k ≤ 64 * recordUnits k := by
  unfold recordUnits ceilDiv
  omega

/-! ### One record in an empty ring (R431, R436) -/

/-- The ring whose page holds record `x` alone. -/
def Ring.holding (x : TraceRec) (now : U64) : Ring := { Ring.empty with page := [x], pageAt := now }

theorem Ring.put_empty {x : TraceRec} (h : x.units < 64) (now : U64) : Ring.empty.put now x = Ring.holding x now := by
  have h₁ : ¬ (0 + x.units > 64) := by omega
  have h₂ : ¬ (([x].map (·.units)).sum = 64) := by simpa using h.ne
  simp only [Ring.put, Ring.empty, List.map_nil, List.sum_nil, if_neg h₁, List.nil_append, if_neg h₂, List.isEmpty_nil, if_true]
  rfl

section
variable (d : Dev) (p : Nat)

theorem Dev.traceRing_setTraceRing_same (x : Ring) : (d.setTraceRing p x).traceRing p = x := (d.traceRing_setTraceRing p p x).trans (if_pos rfl)

theorem Dev.traceRing_count (n k : Nat) : (d.count n k).traceRing p = d.traceRing p := rfl

theorem Dev.traceRing_stackWrite (a : Nat) (bs : List Byte) : (d.stackWrite a bs).traceRing p = d.traceRing p := by
  rw [Dev.traceRing, d.stackWrite_only a bs .obs (by simp), Dev.traceRing]

theorem Dev.setTraceRing_only (x : Ring) : d.only (d.setTraceRing p x) [.obs] := d.only_obs _

/-- Record `x` stands alone on the first page of ring `p`, there and in the stack. -/
def Dev.recorded (d : Dev) (p : Nat) (x : TraceRec) : Dev :=
  (((d.setTraceRing p (Ring.holding x d.now)).stackWrite (d.ringPageAt p 0) (pageBytes [x])).count DC.traceRecords 1).count DC.stackBytesD x.units

theorem Dev.storePages_holding (x : TraceRec) (now : U64) : (d.setTraceRing p (Ring.holding x now)).storePages p 0
    = (d.setTraceRing p (Ring.holding x now)).stackWrite (d.ringPageAt p 0) (pageBytes [x]) := by
  unfold Dev.storePages
  rw [Dev.traceRing_setTraceRing_same]
  rfl

/-- A record in an empty ring that the partition may use. -/
theorem Dev.traceRecord_first {x : TraceRec} (ha : d.ringAllowed p = true) (he : d.traceRing p = Ring.empty) (hp : 1 ≤ d.ringPages p)
    (hu : x.units < 64) : d.traceRecord p x = d.recorded p x := by
  have hneed : ¬ ((Ring.empty.page.map (·.units)).sum + x.units + (if Ring.empty.dropped = 0 then 0 else 1) > 64) := by
    simp only [Ring.empty, List.map_nil, List.sum_nil, if_true]
    omega
  have hfull : decide (Ring.empty.pages.length + 1 + 0 > d.ringPages p) = false := decide_eq_false (by simp [Ring.empty]; omega)
  unfold Dev.traceRecord
  rw [ha, he]
  simp only [Bool.not_true, Bool.false_eq_true, if_false, if_neg hneed, hfull, Bool.false_and]
  rw [if_pos (show Ring.empty.dropped = 0 from rfl), if_pos (show Ring.empty.dropped = 0 from rfl), if_pos (show Ring.empty.dropped = 0 from rfl),
    Ring.put_empty hu]
  exact congrArg (fun d' : Dev => (d'.count DC.traceRecords 1).count DC.stackBytesD x.units) (d.storePages_holding p x d.now)

theorem Dev.recorded_only (x : TraceRec) : d.only (d.recorded p x) [.obs, .stack] :=
  Dev.only_mono ((((d.setTraceRing_only p _).append (Dev.stackWrite_only _ _ _)).append (Dev.count_only _ DC.traceRecords 1)).append
    (Dev.count_only _ DC.stackBytesD x.units)) (by simp)

theorem Dev.traceRing_recorded (x : TraceRec) : (d.recorded p x).traceRing p = Ring.holding x d.now := by
  rw [Dev.recorded, Dev.traceRing_count, Dev.traceRing_count, Dev.traceRing_stackWrite, Dev.traceRing_setTraceRing_same]

/-- With no block remapped the first 4 KiB of the ring hold the page. -/
theorem Dev.byte_recorded {x : TraceRec} (hx : x.Fits) (hu : x.units ≤ 64) (hr : d.stack.remap = []) {i : Nat} (hi : i < 4096) :
    (d.recorded p x).byte (d.ringPageAt p 0 + i) = (pageBytes [x]).getD i 0 := by
  have hlen : i < (pageBytes [x]).length := by rw [length_pageBytes_single hx hu]; exact hi
  have hwrite := Dev.byte_stackWrite_inside (d.setTraceRing p (Ring.holding x d.now)) (d.ringPageAt p 0) (pageBytes [x]) hr hlen
  rw [List.getD_eq_getElem _ _ hlen, ← hwrite, Dev.recorded, Dev.byte_count, Dev.byte_count]

theorem Dev.ringPageAt_zero : d.ringPageAt p 0 = 16384 * fieldNat (d.regIn64 (Off.traceRing p)) 22 0 := by
  rw [Dev.ringPageAt, Nat.zero_mod, Nat.mul_zero, Nat.add_zero]

end

/-! ### A ring that the partition may not use (R230, R431) -/

/-- The ring of partition `p`, whether `p` may use it, and the stack's content are as they were. -/
structure Dev.KeepsRing (p : Nat) (d d' : Dev) : Prop where
  ring : d'.traceRing p = d.traceRing p
  allowed : d'.ringAllowed p = d.ringAllowed p
  mem : d'.stack.mem = d.stack.mem

section
variable {p : Nat} {d d₁ d₂ : Dev}

theorem Dev.KeepsRing.refl : Dev.KeepsRing p d d := ⟨rfl, rfl, rfl⟩

theorem Dev.KeepsRing.trans (h₁ : Dev.KeepsRing p d d₁) (h₂ : Dev.KeepsRing p d₁ d₂) : Dev.KeepsRing p d d₂ :=
  ⟨h₂.ring.trans h₁.ring, h₂.allowed.trans h₁.allowed, h₂.mem.trans h₁.mem⟩

theorem Dev.ringAllowed_of (hg : d₁.glob = d.glob) (hp : d₁.part = d.part) (hr : d₁.region = d.region) : d₁.ringAllowed p = d.ringAllowed p := by
  have hreg : d₁.regIn64 (Off.traceRing p) = d.regIn64 (Off.traceRing p) := by simp only [Dev.regIn64, Dev.regIn, hg]
  have hsec : d₁.partSecure p = d.partSecure p := by rw [Dev.partSecure, Dev.partSecure, Dev.partIn, Dev.partIn, hp]
  unfold Dev.ringAllowed
  rw [hreg, hsec, hr]

theorem Dev.rings_event (d : Dev) (e : EventRec) : (d.event e).obs.rings = d.obs.rings := by
  obtain ⟨d₁, rfl, h | ⟨v, h⟩⟩ := d.event_cases e <;> rw [h]
  obtain ⟨x, e⟩ | ⟨w, e⟩ := Dev.msix_cases _ 0 v <;> rw [e] <;> rfl

theorem Dev.rings_refuseAccess (d : Dev) (q : Nat) : (d.refuseAccess q).obs.rings = d.obs.rings := by
  obtain e | ⟨x, e⟩ := d.refuseAccess_cases q <;> rw [e]
  · rfl
  · exact Dev.rings_event _ _

theorem Dev.keepsRing_refuseAccess (d : Dev) (p q : Nat) : Dev.KeepsRing p d (d.refuseAccess q) where
  ring := by rw [Dev.traceRing, Dev.rings_refuseAccess, Dev.traceRing]
  allowed := Dev.ringAllowed_of (d.refuseAccess_only q .glob (by simp)) (d.refuseAccess_only q .part (by simp)) (d.readsAlike_refuseAccess q).region
  mem := d.mem_refuseAccess q

/-- The stack refuses a record of a ring that the partition may not use. -/
theorem Dev.keepsRing_traceRecord_refused (h : d.ringAllowed p = false) (x : TraceRec) : Dev.KeepsRing p d (d.traceRecord p x) := by
  have e : d.traceRecord p x = d.refuseAccess p := by
    unfold Dev.traceRecord
    exact if_pos (by simp [h])
  exact e ▸ d.keepsRing_refuseAccess p p

end

end Sys2Proof.Machine
end

section
/-! OBLIGATION. Trace samples, PC samples, and pages that leave for the host (R431 to R437). -/

namespace Sys2Proof.Machine

/-! ### TRACE_SAMPLE (R434) -/

/-- The selected counters of a cluster. -/
def Dev.clusterSel (d : Dev) (p : Nat) : List Nat := (List.range 64).filter fun k => (d.regIn64 (Off.traceSel p)).getLsbD k

/-- The selected device counters. -/
def Dev.deviceSel (d : Dev) (p : Nat) : List Nat :=
  (((List.range 16).map fun i => fieldNat (d.regIn (Off.traceDev p + 4 * (i / 2))) (16 * (i % 2) + 15) (16 * (i % 2))).filter
    fun e => decide (e ≥ 0x8000)).map (· % 1024)

/-- The record of cluster `c` at the instant `at_`, tagged as package `d` finds it. -/
def Dev.clusterRec (d at_ : Dev) (p c : Nat) : TraceRec :=
  let tag := d.traceTag p c (d.cluster c).sequencer.pc
  { at_.traceHead p with type := 1, units := recordUnits (at_.clusterSel p).length, cluster := c, tag := tag.1, addrTag := tag.2,
                         body := (at_.clusterSel p).map (at_.counterC c) }

/-- The device record of the instant `at_`. -/
def Dev.deviceRec (d at_ : Dev) (p : Nat) : TraceRec :=
  { at_.traceHead p with type := 2, units := recordUnits (d.deviceSel p).length, body := (d.deviceSel p).map at_.counter }

/-- The clusters' records of a sample instant. -/
def Dev.clustersSampled (d : Dev) (p : Nat) : Dev :=
  if d.traceCl p then d.forAll (d.partClusters p) fun x c => x.draw.traceRecord p (x.clusterRec d p c) else d

/-- The device's record of the instant `at_`. -/
def Dev.deviceSampled (d at_ : Dev) (p : Nat) : Dev := if d.traceDev p then d.traceRecord p (d.deviceRec at_ p) else d

section
variable (d x : Dev) (p c : Nat)

theorem Dev.fits_clusterRec : (x.clusterRec d p c).Fits ∧ (x.clusterRec d p c).units < 64 := by
  have hlen : (d.clusterSel p).length ≤ 64 := (List.length_filter_le _ _).trans (by simp)
  obtain ⟨hu, hf⟩ := recordUnits_bounds hlen
  exact ⟨by rwa [TraceRec.Fits, Dev.clusterRec, List.length_map], hu⟩

theorem Dev.fits_deviceRec : (x.deviceRec d p).Fits ∧ (x.deviceRec d p).units < 64 := by
  have hlen : (x.deviceSel p).length ≤ 64 := by
    rw [Dev.deviceSel, List.length_map]
    exact (List.length_filter_le _ _).trans (by simp)
  obtain ⟨hu, hf⟩ := recordUnits_bounds hlen
  exact ⟨by rwa [TraceRec.Fits, Dev.deviceRec, List.length_map], hu⟩

end

section
variable {s : State} {p : Nat}

theorem exec_traceSample (h : s.dev.traceOn p = true ∧ s.dev.now.toNat % (1000 * s.dev.traceInterval p) = 0) :
    exec (.traceSample p) s = .next { s with dev := (s.dev.clustersSampled p).deviceSampled s.dev p } :=
  (show exec (.traceSample p) s = execTraceSample p s from rfl).trans (State.on_eq (if_pos h))

theorem exec_traceSample_off (h : ¬ (s.dev.traceOn p = true ∧ s.dev.now.toNat % (1000 * s.dev.traceInterval p) = 0)) :
    exec (.traceSample p) s = .next s :=
  (show exec (.traceSample p) s = execTraceSample p s from rfl).trans (State.on_eq (d' := s.dev) (if_neg h))

section
variable (hat : s.dev.traceOn p = true ∧ s.dev.now.toNat % (1000 * s.dev.traceInterval p) = 0)
include hat

/-- With device records only, the page of an empty ring holds the device's record. -/
theorem runs_traceSample_device (ha : s.dev.ringAllowed p = true) (hc : s.dev.traceCl p = false) (hd : s.dev.traceDev p = true)
    (he : s.dev.traceRing p = Ring.empty) (hp : 1 ≤ s.dev.ringPages p) : Runs (.traceSample p) s fun d' =>
      s.dev.only d' [.obs, .stack] ∧ ∃ x, (d'.traceRing p).page = [x] ∧ (d'.traceRing p).pages = []
        ∧ (s.dev.stack.remap = [] → ∀ i < 4096,
            d'.byte (16384 * fieldNat (s.dev.regIn64 (Off.traceRing p)) 22 0 + i) = (pageBytes [x]).getD i 0)
        ∧ x.type = 2 ∧ x.time = s.dev.now ∧ x.step = s.dev.stepNow p ∧ x.position = s.dev.sys.position ∧ x.partition = p
        ∧ x.body = (s.dev.deviceSel p).map s.dev.counter := by
  obtain ⟨hfits, hu⟩ := s.dev.fits_deviceRec s.dev p
  have hnext : (s.dev.clustersSampled p).deviceSampled s.dev p = s.dev.recorded p (s.dev.deviceRec s.dev p) := by
    rw [Dev.clustersSampled, hc, if_neg (by simp), Dev.deviceSampled, if_pos hd, s.dev.traceRecord_first p ha he hp hu]
  refine Runs.of_next (exec_traceSample hat) ?_
  rw [hnext, Dev.traceRing_recorded]
  refine ⟨s.dev.recorded_only p _, _, rfl, rfl, fun hr i hi => ?_, rfl, rfl, rfl, rfl, rfl, rfl⟩
  rw [← Dev.ringPageAt_zero]
  exact s.dev.byte_recorded p hfits hu.le hr hi

/-- With cluster records only and one cluster, the page of an empty ring holds that cluster's record. -/
theorem runs_traceSample_cluster {c : Nat} (ha : s.dev.ringAllowed p = true) (hc : s.dev.traceCl p = true) (hd : s.dev.traceDev p = false)
    (h₁ : s.dev.partClusters p = [c]) (he : s.dev.traceRing p = Ring.empty) (hp : 1 ≤ s.dev.ringPages p) : Runs (.traceSample p) s fun d' =>
      s.dev.only d' [.obs, .fresh, .stack] ∧ ∃ x, (d'.traceRing p).page = [x] ∧ x.type = 1 ∧ x.time = s.dev.now ∧ x.cluster = c
        ∧ x.body = (s.dev.clusterSel p).map (s.dev.counterC c) := by
  obtain ⟨-, hu⟩ := s.dev.fits_clusterRec s.dev p c
  have hsample : s.dev.clustersSampled p = s.dev.draw.recorded p (s.dev.clusterRec s.dev p c) := by
    rw [Dev.clustersSampled, if_pos hc, h₁]
    exact s.dev.draw.traceRecord_first p ha he hp hu
  have hdev : (s.dev.draw.recorded p (s.dev.clusterRec s.dev p c)).traceDev p = false := by
    rw [Dev.traceDev, Dev.regIn64, Dev.regIn, Dev.regIn, Dev.recorded_only _ p _ .glob (by simp)]
    exact hd
  refine Runs.of_next (exec_traceSample hat) ?_
  rw [hsample, Dev.deviceSampled, hdev, if_neg (by simp), Dev.traceRing_recorded]
  exact ⟨Dev.only_then (s.dev.only_fresh _) (Dev.recorded_only _ p _) (by simp) (by simp), _, rfl, rfl, rfl, rfl, rfl⟩

/-- A ring that the partition may not use is as it was, and so is the stack. -/
theorem runs_traceSample_refused (ha : s.dev.ringAllowed p = false) : Runs (.traceSample p) s fun d' =>
    d'.traceRing p = s.dev.traceRing p ∧ d'.stack.mem = s.dev.stack.mem := by
  have hcl : Dev.KeepsRing p s.dev (s.dev.clustersSampled p) := by
    unfold Dev.clustersSampled
    split
    · refine Dev.forAll_holds (Dev.KeepsRing p s.dev) _ (fun x c h => ?_) _ _ .refl
      have hdraw : Dev.KeepsRing p s.dev x.draw := h.trans ⟨rfl, rfl, rfl⟩
      exact hdraw.trans (Dev.keepsRing_traceRecord_refused (hdraw.allowed.trans ha) _)
    · exact .refl
  have hall : Dev.KeepsRing p s.dev ((s.dev.clustersSampled p).deviceSampled s.dev p) := by
    unfold Dev.deviceSampled
    split
    · exact hcl.trans (Dev.keepsRing_traceRecord_refused (hcl.allowed.trans ha) _)
    · exact hcl
  exact Runs.of_next (exec_traceSample hat) ⟨hall.ring, hall.mem⟩

end

end

/-! ### PC_SAMPLE (R435) -/

theorem pc_pcWord (delta : Nat) (stall : BitVec 4) (pc : BitVec 20) : (pcWord delta stall pc).extractLsb' 0 20 = pc :=
  BitVec.extractLsb'_append_eq_right

/-- The samples that wait in the batch of cluster `c`. -/
def Dev.pcWords (d : Dev) (p c : Nat) : List U32 := ((SMap.get none (d.traceRing p).batches c).map (·.words)).getD []

/-- The batch that a sample of cluster `c` at `pc` joins: the one begun, or a new one of this instant. -/
def Dev.pcBatch (d : Dev) (p c : Nat) (pc : BitVec 20) : PcBatch :=
  (SMap.get none (d.traceRing p).batches c).getD
    { time := d.now, step := d.stepNow p, replay := d.inReplay p, tag := (d.traceTag p c pc).1, addrTag := (d.traceTag p c pc).2, words := [] }

/-- Batch `b` of cluster `c` with one more sample, at `pc`. -/
def Dev.pcJoined (d : Dev) (b : PcBatch) (p c : Nat) (pc : BitVec 20) : PcBatch :=
  { b with words := b.words ++ [pcWord (d.stepNow p - b.step).toNat (d.stallCode p c) pc] }

/-- The sample is counted, and a batch that it begins has drawn its tag. -/
def Dev.pcCounted (d : Dev) (p c : Nat) : Dev :=
  let d := d.countC c CC.pcSamples
  if (SMap.get none (d.traceRing p).batches c).isNone then d.draw else d

/-- The batch of cluster `c` with the sample taken now. -/
def Dev.pcSample (d : Dev) (p c : Nat) : PcBatch :=
  let pc := (d.cluster c).sequencer.pc
  (d.pcCounted p c).pcJoined ((d.countC c CC.pcSamples).pcBatch p c pc) p c pc

/-- The package after a sample that begins a batch or joins one. -/
def Dev.pcSampled (d : Dev) (p c : Nat) : Dev :=
  (d.pcCounted p c).setTraceRing p
    { (d.countC c CC.pcSamples).traceRing p with
      batches := SMap.put none ((d.countC c CC.pcSamples).traceRing p).batches c (some (d.pcSample p c)) }

section
variable (d : Dev) (p c : Nat)

theorem Dev.traceRing_countC (n k : Nat) : (d.countC c n k).traceRing p = d.traceRing p := rfl

theorem Dev.words_pcBatch (pc : BitVec 20) : (d.pcBatch p c pc).words = d.pcWords p c := by
  unfold Dev.pcBatch Dev.pcWords
  cases SMap.get none (d.traceRing p).batches c <;> rfl

theorem Dev.pcBatch_new (pc : BitVec 20) (h : SMap.get none (d.traceRing p).batches c = none) :
    (d.pcBatch p c pc).time = d.now ∧ (d.pcBatch p c pc).step = d.stepNow p := by
  unfold Dev.pcBatch
  rw [h]
  exact ⟨rfl, rfl⟩

theorem Dev.words_pcSample : ∃ w, (d.pcSample p c).words = d.pcWords p c ++ [w] ∧ w.extractLsb' 0 20 = (d.cluster c).sequencer.pc := by
  have hwords : (d.countC c CC.pcSamples).pcWords p c = d.pcWords p c := by rw [Dev.pcWords, Dev.traceRing_countC, Dev.pcWords]
  rw [Dev.pcSample, Dev.pcJoined, Dev.words_pcBatch, hwords]
  exact ⟨_, rfl, pc_pcWord _ _ _⟩

theorem Dev.pcSample_new (h : SMap.get none (d.traceRing p).batches c = none) :
    (d.pcSample p c).time = d.now ∧ (d.pcSample p c).step = d.stepNow p :=
  Dev.pcBatch_new (d.countC c CC.pcSamples) p c _ h

theorem Dev.pcCounted_only : d.only (d.pcCounted p c) [.obs, .fresh] := by
  unfold Dev.pcCounted
  extract_lets d'
  split
  · exact Dev.only_then (d.countC_only _ _ _) (Dev.only_fresh _ _) (by simp) (by simp)
  · exact Dev.only_mono (d.countC_only _ _ _) (by simp)

theorem Dev.pcSampled_only : d.only (d.pcSampled p c) [.obs, .fresh] :=
  Dev.only_trans (d.pcCounted_only p c) (Dev.only_mono (Dev.setTraceRing_only _ p _) (by simp))

theorem Dev.traceRing_pcSampled : (d.pcSampled p c).traceRing p
    = { d.traceRing p with batches := SMap.put none (d.traceRing p).batches c (some (d.pcSample p c)) } := by
  rw [Dev.pcSampled, Dev.traceRing_setTraceRing_same, Dev.traceRing_countC]

theorem Dev.batches_pcSampled : ((d.pcSampled p c).traceRing p).batches
    = SMap.put none (d.traceRing p).batches c (some (d.pcSample p c)) := by
  rw [Dev.traceRing_pcSampled]

theorem Dev.page_pcSampled : ((d.pcSampled p c).traceRing p).page = (d.traceRing p).page := by
  rw [Dev.traceRing_pcSampled]

theorem Dev.batch_pcSampled : SMap.get none ((d.pcSampled p c).traceRing p).batches c = some (d.pcSample p c) := by
  rw [Dev.batches_pcSampled, SMap.get_put_same]

theorem Dev.counterC_pcSampled : (d.pcSampled p c).counterC c CC.pcSamples = d.counterC c CC.pcSamples + 1 := by
  have h : (d.countC c CC.pcSamples).counterC c CC.pcSamples = d.counterC c CC.pcSamples + 1 := (d.counterC_countC _ _ _ _ _).trans (if_pos rfl)
  have hset : (d.pcSampled p c).counterC c CC.pcSamples = (d.pcCounted p c).counterC c CC.pcSamples := rfl
  rw [hset, Dev.pcCounted]
  split <;> exact h

end

section
variable {s : State} {p c : Nat}

theorem exec_pcSample_joins (ho : s.dev.clusterOwner c = some p) (hon : s.dev.traceOn p = true) (hpc : s.dev.tracePc p = true)
    (hnow : s.dev.now.toNat % 2 ^ s.dev.pcLog2 p = 0) (hw : (s.dev.pcWords p c).length < 7) :
    exec (.pcSample c) s = .next { s with dev := s.dev.pcSampled p c } := by
  have hlen : (s.dev.pcSample p c).words.length < 8 := by
    obtain ⟨w, hw', -⟩ := s.dev.words_pcSample p c
    rw [hw', List.length_append, List.length_singleton]
    omega
  rw [show exec (.pcSample c) s = execPcSample c s from rfl, execPcSample]
  refine State.on_eq ?_
  simp only [ho]
  rw [if_pos ⟨hon, hpc, hnow⟩]
  exact if_pos hlen

theorem runs_pcSample_joins (ho : s.dev.clusterOwner c = some p) (hon : s.dev.traceOn p = true) (hpc : s.dev.tracePc p = true)
    (hnow : s.dev.now.toNat % 2 ^ s.dev.pcLog2 p = 0) (hw : (s.dev.pcWords p c).length < 7) : Runs (.pcSample c) s fun d' =>
      ∃ b w, SMap.get none (d'.traceRing p).batches c = some b ∧ b.words = s.dev.pcWords p c ++ [w]
        ∧ w.extractLsb' 0 20 = (s.dev.cluster c).sequencer.pc
        ∧ (SMap.get none (s.dev.traceRing p).batches c = none → b.time = s.dev.now ∧ b.step = s.dev.stepNow p)
        ∧ (d'.traceRing p).page = (s.dev.traceRing p).page
        ∧ d'.counterC c CC.pcSamples = s.dev.counterC c CC.pcSamples + 1 ∧ s.dev.only d' [.obs, .fresh] := by
  refine Runs.of_next (exec_pcSample_joins ho hon hpc hnow hw) ?_
  obtain ⟨w, hwords, hpc'⟩ := s.dev.words_pcSample p c
  exact ⟨s.dev.pcSample p c, w, s.dev.batch_pcSampled p c, hwords, hpc', s.dev.pcSample_new p c,
    s.dev.page_pcSampled p c, s.dev.counterC_pcSampled p c, s.dev.pcSampled_only p c⟩

end

/-! ### TRACE_PAGE_SEND (R436) -/

/-- The oldest page of ring `p` is taken out, and counted. -/
def Dev.pageTaken (d : Dev) (p : Nat) (rest : List TracePage) : Dev :=
  (d.setTraceRing p { d.traceRing p with pages := rest }).count DC.tracePages

section
variable (d : Dev) (p : Nat)

theorem Dev.traceRing_pageTaken (rest : List TracePage) : (d.pageTaken p rest).traceRing p = { d.traceRing p with pages := rest } :=
  d.traceRing_setTraceRing_same p _

theorem Dev.counter_pageTaken (rest : List TracePage) : (d.pageTaken p rest).counter DC.tracePages = d.counter DC.tracePages + 1 :=
  (Dev.counter_count _ _ _ _).trans (if_pos rfl)

theorem Dev.pageTaken_only (rest : List TracePage) : d.only (d.pageTaken p rest) [.obs] :=
  Dev.only_trans (d.setTraceRing_only p _) (Dev.count_only _ _ _)

/-- With no page held back, a release leaves the ring as it was. -/
theorem Dev.traceRelease_of_none_held (h : (d.traceRing p).heldBack = []) : d.traceRelease p = d.setTraceRing p (d.traceRing p) := by
  have hr : { d.traceRing p with heldBack := [] } = d.traceRing p := by rw [← h]
  unfold Dev.traceRelease
  rw [h]
  exact congrArg (d.setTraceRing p) hr

end

section
variable {d d₁ : Dev} {p n : Nat}

theorem Dev.traceLog2_of_glob (h : d₁.glob = d.glob) : d₁.traceLog2 p = d.traceLog2 p := by rw [Dev.traceLog2, Dev.traceLog2, Dev.regIn, Dev.regIn, h]

/-- The host ring has room for a page. -/
def Dev.hostRoom (d : Dev) (p n : Nat) : Prop := ¬ ((d.traceRing p).wptr - d.reg (Off.tracePtr p + 4)).toNat ≥ 2 ^ n

theorem Dev.hostRoom_of_not_full (hp : d.sys.primary = true) (hl : d.traceLog2 p = some n) (hf : d.hostRingFull p = false) : d.hostRoom p n := by
  rw [Dev.hostRingFull, hp, hl, Bool.true_and, Bool.or_eq_false_iff] at hf
  exact of_decide_eq_false hf.2

/-- A page that arrives at a host ring with room is written there. -/
theorem Dev.tracePageArrive_room (hl : d.traceLog2 p = some n) (hr : d.hostRoom p n) (bytes : List Byte) : ∃ a, d.tracePageArrive p bytes
    = (d.setTraceRing p { d.traceRing p with wptr := (d.traceRing p).wptr + 1 }).post (.tracePage p a bytes) := by
  unfold Dev.tracePageArrive
  rw [hl]
  exact ⟨_, if_neg hr⟩

/-- A page that reaches the gateway, with none held back and room, is written to the host ring at once. -/
theorem Dev.tracePageIn_room (hl : d.traceLog2 p = some n) (hh : (d.traceRing p).heldBack = []) (hr : d.hostRoom p n) (bytes : List Byte) :
    (d.tracePageIn p bytes).traceRing p = { d.traceRing p with wptr := (d.traceRing p).wptr + 1 }
      ∧ ∃ a, (d.tracePageIn p bytes).host.writes = d.host.writes ++ [.tracePage p a bytes] := by
  have hheld : { d.traceRing p with heldBack := (d.traceRing p).heldBack ++ [bytes] } = { d.traceRing p with heldBack := [bytes] } := by
    rw [hh, List.nil_append]
  have hsame : { d.traceRing p with heldBack := [] } = d.traceRing p := by rw [← hh]
  have hin : d.tracePageIn p bytes
      = ((d.setTraceRing p { d.traceRing p with heldBack := [bytes] }).setTraceRing p (d.traceRing p)).tracePageArrive p bytes := by
    unfold Dev.tracePageIn Dev.traceRelease
    simp only [Dev.traceRing_setTraceRing_same, hheld, hsame]
    rfl
  have hring := Dev.traceRing_setTraceRing_same (d.setTraceRing p { d.traceRing p with heldBack := [bytes] }) p (d.traceRing p)
  obtain ⟨a, e⟩ := Dev.tracePageArrive_room (d := (d.setTraceRing p { d.traceRing p with heldBack := [bytes] }).setTraceRing p (d.traceRing p))
    (hl : _ = some n) (by rw [Dev.hostRoom, hring]; exact hr) bytes
  rw [hin, e, hring]
  exact ⟨Dev.traceRing_setTraceRing_same _ p _, a, rfl⟩

end

section
variable {s : State} {p n : Nat} {pg : TracePage} {rest : List TracePage}

/-- A member that is not the primary sends its oldest page. -/
theorem runs_tracePageSend_member (hl : s.dev.traceLog2 p = some n) (hpg : (s.dev.traceRing p).pages = pg :: rest)
    (hp : s.dev.sys.primary = false) : Runs (.tracePageSend p) s fun d' => (d'.traceRing p).pages = rest
      ∧ d'.host.sent = s.dev.host.sent ++ [.bulk (.tracePage p (pageBytes pg.records))]
      ∧ d'.counter DC.tracePages = s.dev.counter DC.tracePages + 1 := by
  have hfull : s.dev.hostRingFull p = false := by rw [Dev.hostRingFull, hp, Bool.false_and]
  have hexec : exec (.tracePageSend p) s
      = .next { s with dev := (s.dev.pageTaken p rest).send (.bulk (.tracePage p (pageBytes pg.records))) } := by
    rw [show exec (.tracePageSend p) s = execTracePageSend p s from rfl, execTracePageSend]
    refine State.on_eq ?_
    simp only [hp, Bool.false_eq_true, if_false, hl, hfull, hpg, Option.isNone_some, false_or, List.isEmpty_cons, Bool.false_and]
    exact if_neg (by simp [hp])
  refine Runs.of_next hexec ⟨?_, ?_, s.dev.counter_pageTaken p rest⟩
  · exact congrArg Ring.pages (s.dev.traceRing_pageTaken p rest)
  · exact congrArg (· ++ _) (congrArg HostBlk.sent (s.dev.pageTaken_only p rest .host (by simp)))

/-- The primary with room and no page held back writes its oldest page to the host ring. -/
theorem runs_tracePageSend_primary (hl : s.dev.traceLog2 p = some n) (hpg : (s.dev.traceRing p).pages = pg :: rest)
    (hp : s.dev.sys.primary = true) (hh : (s.dev.traceRing p).heldBack = []) (hf : s.dev.hostRingFull p = false) :
    Runs (.tracePageSend p) s fun d' => (d'.traceRing p).pages = rest ∧ (d'.traceRing p).wptr = (s.dev.traceRing p).wptr + 1
      ∧ ∃ a, d'.host.writes = s.dev.host.writes ++ [.tracePage p a (pageBytes pg.records)] := by
  have hring := s.dev.traceRing_setTraceRing_same p (s.dev.traceRing p)
  have hl' : (s.dev.setTraceRing p (s.dev.traceRing p)).traceLog2 p = some n := hl
  have hf' : (s.dev.setTraceRing p (s.dev.traceRing p)).hostRingFull p = false := by
    rw [Dev.hostRingFull, hring, hl', Dev.setTraceRing_sys, hp]
    rwa [Dev.hostRingFull, hl, hp] at hf
  have hexec : exec (.tracePageSend p) s = .next
      { s with dev := ((s.dev.setTraceRing p (s.dev.traceRing p)).pageTaken p rest).tracePageIn p (pageBytes pg.records) } := by
    rw [show exec (.tracePageSend p) s = execTracePageSend p s from rfl, execTracePageSend]
    refine State.on_eq ?_
    simp only [hp, if_true, s.dev.traceRelease_of_none_held p hh, hl', hf', hring, hpg, Option.isNone_some, Bool.false_eq_true, false_or,
      if_false, List.isEmpty_cons, Bool.false_and, Dev.count_sys, Dev.setTraceRing_sys]
    rw [Dev.pageTaken, hring]
  have htaken := (s.dev.setTraceRing p (s.dev.traceRing p)).traceRing_pageTaken p rest
  rw [hring] at htaken
  have honly := Dev.only_trans (s.dev.setTraceRing_only p (s.dev.traceRing p)) (Dev.pageTaken_only _ p rest)
  generalize (s.dev.setTraceRing p (s.dev.traceRing p)).pageTaken p rest = d₁ at hexec htaken honly
  have hglob : d₁.glob = s.dev.glob := honly .glob (by simp)
  have hroom : d₁.hostRoom p n := by
    rw [Dev.hostRoom, htaken, Dev.reg, hglob]
    exact Dev.hostRoom_of_not_full hp hl hf
  obtain ⟨hin, a, ha⟩ := Dev.tracePageIn_room ((Dev.traceLog2_of_glob hglob).trans hl) (htaken ▸ hh) hroom (pageBytes pg.records)
  refine Runs.of_next hexec ⟨?_, ?_, a, ?_⟩
  · rw [hin, htaken]
  · rw [hin, htaken]
  · rw [ha, honly .host (by simp)]

end

/-- Settles O24: the sample instants, a sample that joins its batch, and the page that leaves. -/
theorem traceSampleWritesLatchedCounters : Obligations.TraceSampleWritesLatchedCounters := by
  unfold Obligations.TraceSampleWritesLatchedCounters
  exact fun s p => ⟨fun hat ha hc hd he hp => runs_traceSample_device hat ha hc hd he hp, fun hat ha => runs_traceSample_refused hat ha,
    fun c hat ha hc hd h₁ he hp => runs_traceSample_cluster hat ha hc hd h₁ he hp, exec_traceSample_off,
    fun c ho hon hpc hnow hw => runs_pcSample_joins ho hon hpc hnow hw,
    fun n pg rest hl hpg => ⟨runs_tracePageSend_member hl hpg, runs_tracePageSend_primary hl hpg⟩⟩

end Sys2Proof.Machine
end

section
/-! OBLIGATION. The step: the command at the front, or one CORE_CLK cycle (R236, R238, R239, R372). -/

namespace Sys2Proof.Machine

/-! ### What a cycle may change -/

/-- The blocks that a cycle may change beside the time itself. -/
def cycleBlocks : List Blk := [.obs, .array, .serve, .engine, .link, .host, .stack]

/-- The change is one that a cycle makes: it stays in those blocks and leaves the stack's content. -/
structure Dev.Passes (d d' : Dev) : Prop where
  only : d.only d' cycleBlocks
  mem : d'.stack.mem = d.stack.mem

section
variable {d d₁ d₂ : Dev}

theorem Dev.Passes.refl : Dev.Passes d d := ⟨d.only_refl _, rfl⟩

theorem Dev.Passes.trans (h₁ : Dev.Passes d d₁) (h₂ : Dev.Passes d₁ d₂) : Dev.Passes d d₂ :=
  ⟨Dev.only_trans h₁.only h₂.only, h₂.mem.trans h₁.mem⟩

theorem Dev.Passes.forAll {α : Type} {f : Dev → α → Dev} (hf : ∀ d a, Dev.Passes d (f d a)) (xs : List α) (d : Dev) :
    Dev.Passes d (d.forAll xs f) :=
  Dev.forAll_holds (fun x => Dev.Passes d x) f (fun _ a h => h.trans (hf _ a)) xs d .refl

/-- A change beside the stack. -/
theorem Dev.passes_of_only {bs : List Blk} (h : d.only d₁ bs) (hb : bs.all (fun b => cycleBlocks.contains b && b != .stack) = true) :
    Dev.Passes d d₁ := by
  have hin : ∀ b ∈ bs, b ∈ cycleBlocks ∧ b ≠ .stack := fun b hm => by simpa using List.all_eq_true.mp hb b hm
  exact ⟨Dev.only_mono h fun b hm => (hin b hm).1, congrArg StackBlk.mem (h .stack fun hm => (hin _ hm).2 rfl)⟩

theorem Dev.Computes.passes (h : Dev.Computes d d₁) : Dev.Passes d d₁ := ⟨Dev.only_mono h.only (by simp [cycleBlocks]), h.mem⟩

end

section
variable (d : Dev)

theorem Dev.passes_count (n k : Nat) : Dev.Passes d (d.count n k) := Dev.passes_of_only (d.count_only n k) rfl

theorem Dev.passes_link (x : LinkBlk) : Dev.Passes d { d with link := x } := Dev.passes_of_only (d.only_link x) rfl

theorem Dev.passes_count_if (b : Prop) [Decidable b] (n : Nat) : Dev.Passes d (if b then d.count n else d) := by
  split
  · exact d.passes_count n 1
  · exact .refl

/-! ### Clusters and waits (R77, R105, R106, R170, R209, R273, R314, R395) -/

theorem Dev.passes_addC (c k n : Nat) : Dev.Passes d (d.addC c k n) := by
  unfold Dev.addC
  split
  · exact .refl
  · exact Dev.passes_of_only (d.countC_only c k n) rfl

theorem Dev.passes_tickCluster (c : Nat) : Dev.Passes d (d.tickCluster c) := by
  unfold Dev.tickCluster
  extract_lets x one d₁ d₂ d₃ d₄ d₅ d₆
  have h₄ : Dev.Passes d d₄ := (((d.passes_addC _ _ _).trans (d₁.passes_addC _ _ _)).trans (d₂.passes_addC _ _ _)).trans (d₃.passes_addC _ _ _)
  have h₆ : Dev.Passes d d₆ := (h₄.trans (d₄.passes_count_if _ _)).trans (d₅.passes_addC _ _ _)
  exact h₆.trans ((Dev.passes_of_only (d₆.updSeq_only c _) rfl).trans (Dev.passes_of_only (Dev.checkGuard_only _ c) rfl))

theorem Dev.passes_tickWaits : Dev.Passes d d.tickWaits := by
  unfold Dev.tickWaits
  extract_lets d₁ d₂ d₃ d₄ d₅
  have h₂ : Dev.Passes d d₂ := (d.passes_count _ _).trans (d₁.passes_count_if _ _)
  have h₄ : Dev.Passes d d₄ := (h₂.trans (d₂.passes_count _ _)).trans (d₃.passes_count_if _ _)
  have h₅ : Dev.Passes d d₅ := by
    unfold d₅
    split
    · exact h₄
    · exact h₄.trans (d₄.passes_count _ _)
  exact h₅.trans (d₅.passes_count_if _ _)

/-! ### Schedules that wait for a frame (R212) -/

theorem Dev.passes_startSchedule (p : Nat) : Dev.Passes d (d.startSchedule p) := by
  cases h : (d.job p).step with
  | none =>
    have e : d.startSchedule p = d := by
      unfold Dev.startSchedule
      split
      · rfl
      · next st hs => cases h.symm.trans hs
    exact e.symm ▸ .refl
  | some st =>
    rw [Dev.startSchedule_eq h]
    have hsched : Dev.Passes d (d.scheduled p st) := (Dev.passes_of_only (d.beginStep_only p st) rfl).trans (Dev.passes_of_only (d.scheduled_only p st) rfl)
    exact hsched.trans ((Dev.computes_queueStandIns _ p).trans (Dev.computes_startHalves 32 _)).passes

theorem Dev.passes_startDue : Dev.Passes d d.startDue := by
  unfold Dev.startDue
  split
  · exact .forAll (fun d p => d.passes_startSchedule p) _ _
  · exact .refl

/-! ### The links (R278, R281, R284, R287) -/

theorem Dev.passes_toPorts (k : Nat) (m : OutMsg) : Dev.Passes d (d.toPorts k m) := by
  unfold Dev.toPorts
  refine .forAll (fun d t => ?_) _ _
  split
  · exact .refl
  · split
    · exact d.passes_count _ _
    · extract_lets n head
      split
      · exact d.passes_link _
      · exact d.passes_link _

theorem Dev.passes_handOver : Dev.Passes d d.handOver := by
  refine (d.passes_link _).trans (.forAll (fun d k => ?_) _ _)
  split
  · exact d.passes_toPorts k _
  · exact .refl

theorem Dev.passes_send (m : OutMsg) : Dev.Passes d (d.send m) := Dev.passes_of_only (d.send_only m) rfl

theorem Dev.passes_leaveCtl (n : Nat) (c : LinkCtl) : Dev.Passes d (d.leaveCtl n c) :=
  ((d.passes_send _).trans (Dev.passes_count _ _ _)).trans (Dev.passes_link _ _)

theorem Dev.passes_tickPort (n : Nat) : Dev.Passes d (d.tickPort n) := by
  have port : ∀ p : Port, Dev.Passes d (d.setPort n p) := fun p => d.passes_link _
  unfold Dev.tickPort
  extract_lets p _ p' next timed
  clear_value next
  split
  · exact .refl
  · split
    · exact port _
    · split
      · exact port _
      · split
        · split
          · exact (port _).trans (Dev.passes_leaveCtl _ n _)
          · exact port _
        · split
          · exact ((port _).trans (Dev.passes_count _ _ _)).trans (Dev.passes_send _ _)
          · split
            · exact (port _).trans (Dev.passes_count _ _ _)
            · exact port _

theorem Dev.passes_tickLinks : Dev.Passes d d.tickLinks := d.passes_handOver.trans (.forAll (fun d n => d.passes_tickPort n) _ _)

/-! ### One CORE_CLK cycle -/

/-- Device time advances by 1 ns and the root clock by 8 periods. -/
def Dev.timed (d : Dev) : Dev :=
  { d with glob := { d.glob with timeNs := d.glob.timeNs + 1 }
           rst := { d.rst with rootCount := d.rst.rootCount + 8
                               rootLock := d.rst.rootLock || decide ((d.rst.rootCount + 8).toNat ≥ 800000) } }

theorem Dev.timed_only : d.only d.timed [.rst, .glob] := fun b hb => by
  cases b with
  | rst => simp at hb
  | glob => simp at hb
  | _ => rfl

end

section
variable {d : Dev}

/-- With the clocks running a cycle is the time that passes, and what waits for it. -/
theorem Dev.passes_tick (h : d.clocked = true) : Dev.Passes d.timed d.tick := by
  rw [Dev.tick, if_pos h]
  have hclusters : Dev.Passes d.timed (d.timed.forAll (d.array.clusters.map Prod.fst) Dev.tickCluster) :=
    .forAll (fun d c => d.passes_tickCluster c) _ _
  exact (((hclusters.trans (Dev.passes_tickWaits _)).trans (Dev.passes_startDue _)).trans (Dev.computes_startHalves 32 _).passes).trans
    (Dev.passes_tickLinks _)

theorem Dev.tick_unclocked (h : d.clocked = false) : d.tick
    = { d with rst := { d.rst with vinFor := if d.rst.vinUp then min 1000000 (d.rst.vinFor + 1) else d.rst.vinFor } } := by
  rw [Dev.tick, if_neg (by simp [h])]
  split <;> rfl

end

/-- Settles O1: the front of the queue is a command, or the queue is empty and a cycle passes. -/
theorem stepRunsTheCommandAtTheFront : Obligations.StepRunsTheCommandAtTheFront := by
  unfold Obligations.StepRunsTheCommandAtTheFront
  refine fun c s => ⟨rfl, fun h => ⟨s.dev.tick, rfl, ?_⟩, fun h => ?_⟩
  · have hp := Dev.passes_tick h
    have hglob : s.dev.tick.glob = s.dev.timed.glob := hp.only .glob (by simp [cycleBlocks])
    have honly := s.dev.timed_only.append hp.only
    exact ⟨congrArg Glob.timeNs hglob, hp.only .rst (by simp [cycleBlocks]), hglob, hp.mem, Dev.only_mono honly (by simp [cycleBlocks])⟩
  · exact congrArg (fun d => Host.Outcome.next (⟨d, []⟩ : State)) (Dev.tick_unclocked h)

end Sys2Proof.Machine
end

section
/-! SUPPORT. Commands whose effect is a function of the package, and blocks changed alone. -/

namespace Sys2Proof.Machine

/-- A command whose effect is `f` runs to what `f` leaves. -/
theorem Runs.of_on {i : Instr} {s : State} {f : Dev → Dev} {post : Dev → Prop} (h : exec i s = s.on f) (hp : post (f s.dev)) : Runs i s post :=
  Runs.of_next (h.trans (s.on_next f)) hp

/-- A command whose effect leaves the package as it was changes nothing. -/
theorem exec_eq_self_of_on {i : Instr} {s : State} {f : Dev → Dev} (h : exec i s = s.on f) (hf : f s.dev = s.dev) : exec i s = .next s := by
  rw [h, State.on_next, hf]

/-- A message on the channel of its kind runs to its effect. -/
theorem Runs.of_channel {i : Instr} {s : State} {vc : BitVec 2} {f : Dev → Dev} {post : Dev → Prop} (h : exec i s = s.onChannel vc vc f)
    (hp : post (f s.dev)) : Runs i s post := by
  refine Runs.of_next (h.trans ?_) hp
  rw [State.onChannel, State.on_next, if_pos rfl]

theorem Dev.only_sec (d : Dev) (x : SecBlk) : d.only { d with sec := x } [.sec] := by
  intro b hb
  cases b with
  | sec => simp at hb
  | _ => rfl

end Sys2Proof.Machine
end

section
/-! OBLIGATION. Boot images, the attestation report and the keys of an IDE stream (R243, R408 to R410, R419, R423). -/

namespace Sys2Proof.Machine

/-- Of two copies, one of which is good, the choice with its fallback falls on a good one. -/
theorem chosenCopy_good : ∀ preferB a b : Bool, (a || b) = true →
    ((if preferB then b else !a && b) = true → b = true) ∧ ((if preferB then b else !a && b) = false → a = true) := by decide

section
variable {s : State}

/-- The copy taken is a good one; where neither is, the boot fails. -/
theorem runs_bootImageVerify (img : BootImage) (hb : s.dev.rst.phase = .booting) (hf : s.dev.sec.bootFail = none) :
    let m := SMap.get 0 s.dev.sec.minSvn img.id.toNat
    Runs (.bootImageVerify img) s fun d' => s.dev.only d' [.rst, .sec] ∧ d'.vault = s.dev.vault ∧
      if (img.okA = true ∧ m ≤ img.svnA) ∨ (img.okB = true ∧ m ≤ img.svnB) then
        d'.rst = s.dev.rst ∧ d'.sec.bootFail = none ∧ ∃ e, d'.sec.images = s.dev.sec.images ++ [e] ∧ e.1 = img.id ∧ m ≤ e.2.1
          ∧ (e.2.2.1 = true → img.okB = true) ∧ (e.2.2.1 = false → img.okA = true)
      else d'.rst.phase = .bootFailed ∧ d'.sec.bootFail = some img.id ∧ d'.sec.images = s.dev.sec.images := by
  intro m
  refine Runs.of_on rfl ?_
  rw [if_pos ⟨hb, hf⟩]
  extract_lets okA okB first preferB copyB e
  have hA : okA = true ↔ img.okA = true ∧ m ≤ img.svnA := by simp [okA]
  have hB : okB = true ↔ img.okB = true ∧ m ≤ img.svnB := by simp [okB]
  have hor : (okA || okB) = true ↔ (img.okA = true ∧ m ≤ img.svnA) ∨ (img.okB = true ∧ m ≤ img.svnB) := by rw [Bool.or_eq_true_iff, hA, hB]
  by_cases hg : (okA || okB) = true
  · rw [if_pos hg, if_pos (hor.mp hg)]
    refine ⟨Dev.only_mono (s.dev.only_sec _) (by simp), rfl, rfl, hf, e, rfl, ?_⟩
    have hcopy := chosenCopy_good preferB okA okB hg
    unfold e
    cases h : copyB with
    | true => exact ⟨rfl, (hB.mp (hcopy.1 h)).2, fun _ => (hB.mp (hcopy.1 h)).1, nofun⟩
    | false => exact ⟨rfl, (hA.mp (hcopy.2 h)).2, nofun, fun _ => (hA.mp (hcopy.2 h)).1⟩
  · rw [if_neg hg, if_neg (mt hor.mpr hg)]
    exact ⟨(s.dev.only_rst _).append (Dev.only_sec _ _), rfl, rfl, rfl, rfl⟩

theorem runs_attestationRequest (hs : s.dev.serbelUp = true) (n : BitVec 256) : Runs (.attestationRequest n) s fun d' =>
    ∃ r : AttestReport, d'.host.replies = s.dev.host.replies ++ [.attestation r] ∧ r.nonce = n
      ∧ r.lifecycle = s.dev.sec.lifecycle ∧ r.minSvn = s.dev.sec.minSvn ∧ r.images = s.dev.sec.images
      ∧ r.debugSeen = s.dev.sec.debugSeen ∧ r.ltime = s.dev.ledger.ltime ∧ r.partitions.length = 64
      ∧ d'.counter DC.attestReport = s.dev.counter DC.attestReport + 1 ∧ s.dev.only d' [.host, .obs] := by
  refine Runs.of_on rfl ?_
  rw [if_pos hs]
  exact ⟨s.dev.attest n, rfl, rfl, rfl, rfl, rfl, rfl, rfl, by simp [Dev.attest],
    (Dev.counter_count _ _ _ _).trans (if_pos rfl), (s.dev.answer_only _).append (Dev.count_only _ _ _)⟩

theorem runs_ideKmKeySet (hs : s.dev.serbelUp = true) (hl : s.dev.sec.lifecycle ≠ 3) (cm : Bool) : Runs (.ideKmKeySet cm true) s fun d' =>
    d'.glob = { s.dev.glob with ideIo := s.dev.glob.ideIo || !cm, ideCm := s.dev.glob.ideCm || cm } ∧ s.dev.only d' [.glob] := by
  refine Runs.of_on rfl ?_
  rw [if_pos (by simpa [hs] using hl)]
  exact ⟨rfl, s.dev.only_glob _⟩

end

/-- Settles O13: an image from a good copy or a failed boot, the report, and the stream's keys. -/
theorem bootTakesOnlyGoodImages : Obligations.BootTakesOnlyGoodImages := by
  unfold Obligations.BootTakesOnlyGoodImages
  exact fun s => ⟨fun img => runs_bootImageVerify img, fun n hs => runs_attestationRequest hs n,
    fun cm hs hl => runs_ideKmKeySet hs hl cm⟩

end Sys2Proof.Machine
end

section
/-! OBLIGATION. The SerDes rails: their loss stops every PHY without a reset, and their return lets every enabled port train (R272, R277, R467). -/

namespace Sys2Proof.Machine

section
variable (d : Dev)

theorem Dev.reinject_only (n : Nat) : d.only (d.reinject n) [.link, .obs] := (d.only_link _).append (Dev.count_only _ _ _)

theorem Dev.portsDown_only : d.only d.portsDown [.link, .obs] := by
  unfold Dev.portsDown
  extract_lets d₁
  exact Dev.only_trans (Dev.only_forAll Dev.reinject_only _ d) (Dev.only_mono (d₁.only_link _) (by simp))

/-- Every port is down or disabled, and has no key. -/
theorem Dev.port_portsDown (n : Nat) : ((d.portsDown.port n).state = 0 ∨ (d.portsDown.port n).state = 5) ∧ (d.portsDown.port n).keyed = false := by
  unfold Dev.portsDown
  dsimp only [Dev.port]
  refine SMap.get_mapVals_of (z := Port.reset) (P := fun p : Port => (p.state = 0 ∨ p.state = 5) ∧ p.keyed = false) ⟨.inl rfl, rfl⟩ (fun _ p => ?_) _ n
  refine ⟨?_, rfl⟩
  dsimp only
  split
  · exact .inr rfl
  · exact .inl rfl

end

/-- Every port that is up is counted as going down. -/
def Dev.countDowns (d : Dev) : Dev := d.forAll (d.link.ports.filter fun e => e.2.state == 3) fun d e => d.count (DC.flDown + e.1)

theorem Dev.countDowns_only (d : Dev) : d.only d.countDowns [.obs] := by
  unfold Dev.countDowns
  exact Dev.only_forAll (fun d e => d.count_only _ _) _ d

/-- The package with its PHYs stopped. -/
def Dev.serLost (d : Dev) : Dev :=
  let d := d.countDowns.portsDown
  { d with rst := { d.rst with serUp := false }
           glob := { d.glob with cxlActive := false, width := 0, rate := 0, ideIo := false, ideCm := false } }

/-- A port trains where it is enabled and not disabled for good. -/
def Dev.trainPort (d : Dev) (n : Nat) : Dev :=
  if d.fld (Off.flCtl n) 0 0 = 1 ∧ (d.port n).state ≠ 5 then d.updPort n fun p => { p with state := 1 } else d

section
variable (d : Dev)

theorem Dev.trainPort_only (n : Nat) : d.only (d.trainPort n) [.link] := by
  unfold Dev.trainPort
  split
  · exact d.only_link _
  · exact d.only_refl _

theorem Dev.port_trainPort (n k : Nat) : (d.trainPort n).port k
    = if k = n then (if d.fld (Off.flCtl n) 0 0 = 1 ∧ (d.port n).state ≠ 5 then { d.port n with state := 1 } else d.port n) else d.port k := by
  unfold Dev.trainPort
  split
  · exact d.port_setPort _ _ _
  · split
    · next h => rw [h]
    · rfl

theorem Dev.fld_trainPort (n o hi lo : Nat) : (d.trainPort n).fld o hi lo = d.fld o hi lo := by
  unfold Dev.trainPort
  split <;> rfl

/-- Of the ports of a list without repetition each trains by its own state. -/
theorem Dev.port_trainPorts {ns : List Nat} (hn : ns.Nodup) (k : Nat) : (d.forAll ns Dev.trainPort).port k
    = if k ∈ ns then (if d.fld (Off.flCtl k) 0 0 = 1 ∧ (d.port k).state ≠ 5 then { d.port k with state := 1 } else d.port k) else d.port k := by
  induction ns generalizing d with
  | nil => rfl
  | cons n ns ih =>
    obtain ⟨hnot, hns⟩ := List.nodup_cons.mp hn
    rw [Dev.forAll_cons, ih _ hns, Dev.fld_trainPort, Dev.port_trainPort]
    by_cases h : k = n
    · subst h
      rw [if_neg hnot, if_pos rfl, if_pos List.mem_cons_self]
    · simp [h]

end

section
variable (s : State)

theorem runs_serRailLoss : Runs .serRailLoss s fun d' => (∀ n, ((d'.port n).state = 0 ∨ (d'.port n).state = 5) ∧ (d'.port n).keyed = false)
    ∧ d'.glob.cxlActive = false ∧ d'.glob.ideIo = false ∧ d'.glob.ideCm = false ∧ d'.rst = { s.dev.rst with serUp := false }
    ∧ s.dev.only d' [.rst, .glob, .link, .obs] := by
  refine Runs.of_next (d' := s.dev.serLost) rfl ?_
  have h := s.dev.countDowns_only.append (Dev.portsDown_only _)
  refine ⟨Dev.port_portsDown _, rfl, rfl, rfl, congrArg (fun r : ResetBlk => { r with serUp := false }) (h .rst (by simp)), ?_⟩
  exact Dev.only_mono ((h.append (Dev.only_rst _ _)).append (Dev.only_glob _ _)) (by simp)

theorem runs_serRailRestore : Runs .serRailRestore s fun d' => d'.rst = { s.dev.rst with serUp := true } ∧ s.dev.only d' [.rst, .link]
    ∧ (∀ n < 6, d'.port n = if s.dev.fld (Off.flCtl n) 0 0 = 1 ∧ (s.dev.port n).state ≠ 5
        then { s.dev.port n with state := 1 } else s.dev.port n) := by
  refine Runs.of_next (d' := Dev.forAll { s.dev with rst := { s.dev.rst with serUp := true } } (List.range 6) Dev.trainPort) rfl ?_
  have h := Dev.only_forAll Dev.trainPort_only (List.range 6) { s.dev with rst := { s.dev.rst with serUp := true } }
  refine ⟨h .rst (by simp), (s.dev.only_rst _).append h, fun n hn => ?_⟩
  rw [Dev.port_trainPorts _ List.nodup_range, if_pos (List.mem_range.mpr hn)]
  rfl

end

/-- Settles O21: the loss touches links and host link only, and the return acts port by port. -/
theorem serdesRailLossStopsTheLinksOnly : Obligations.SerdesRailLossStopsTheLinksOnly := by
  unfold Obligations.SerdesRailLossStopsTheLinksOnly
  exact fun s => ⟨runs_serRailLoss s, runs_serRailRestore s⟩

end Sys2Proof.Machine
end

section
/-! OBLIGATION. The CXL link, the decoder, the status window and the mailbox (R240, R241, R242, R246, R247, R248, R272). -/

namespace Sys2Proof.Machine

section
variable {s : State}

/-! ### The link, the decoder and the functions (R240, R241, R448) -/

theorem runs_cxlLinkTrained (width rate : Nat) (flit256 all : Bool) :
    let ok := flit256 = true ∧ all = true ∧ (width = 16 ∨ width = 8) ∧ (rate = 64 ∨ rate = 32) ∧ s.dev.glob.modeErr = false
    Runs (.cxlLinkTrained width rate flit256 all) s fun d' => s.dev.only d' [.glob]
      ∧ d'.glob.width = BitVec.ofNat 5 width ∧ d'.glob.rate = BitVec.ofNat 8 rate
      ∧ (ok → d'.glob.cxlActive = true ∧ d'.glob.modeErr = false ∧ d'.glob.numVfs = s.dev.glob.numVfs)
      ∧ (¬ ok → d'.glob.cxlActive = false ∧ d'.glob.modeErr = true ∧ d'.glob.numVfs = 0) := by
  intro ok
  refine Runs.of_on (show exec _ s = execCxlLinkTrained width rate flit256 all s from rfl) ?_
  extract_lets good g
  have hok : (good && !g.modeErr) = true ↔ ok := by simp [good, g, ok, and_assoc]
  by_cases h : (good && !g.modeErr) = true
  · rw [if_pos h]
    exact ⟨s.dev.only_glob _, rfl, rfl, fun ho => ⟨rfl, ho.2.2.2.2, rfl⟩, fun hn => absurd (hok.mp h) hn⟩
  · rw [if_neg h]
    exact ⟨s.dev.only_glob _, rfl, rfl, fun ho => absurd (hok.mpr ho) h, fun _ => ⟨rfl, rfl, rfl⟩⟩

theorem runs_hdmDecoderCommit (ways size : Nat) (hm : s.dev.glob.modeErr = false) : Runs (.hdmDecoderCommit ways size) s fun d' =>
    s.dev.only d' [.glob] ∧ (d'.glob.hdmCommitted = true ↔ ways = 1 ∧ size = 268435456) ∧ d'.glob.hdmError = !d'.glob.hdmCommitted := by
  refine Runs.of_on (show exec _ s = execHdmDecoderCommit ways size s from rfl) ?_
  rw [if_neg (by simp [hm])]
  split
  · next h => exact ⟨s.dev.only_glob _, ⟨fun _ => h, fun _ => rfl⟩, rfl⟩
  · next h => exact ⟨s.dev.only_glob _, ⟨nofun, fun h' => absurd h' h⟩, rfl⟩

theorem runs_setNumVfs (n : Nat) :
    (s.dev.glob.locks.getLsbD 1 = true → n ≤ 64 → s.dev.glob.modeErr = false →
      Runs (.setNumVfs n) s fun d' => d' = { s.dev with glob := { s.dev.glob with numVfs := n } })
    ∧ (s.dev.glob.locks.getLsbD 1 = false → exec (.setNumVfs n) s = .next s) := by
  refine ⟨fun hl hn hm => Runs.of_on rfl (if_pos ?_), fun hl => ?_⟩
  · have hcaps : n ≤ caps.totalVfs := hn
    simp [hl, hcaps, hm]
  · exact exec_eq_self_of_on rfl (if_neg (by rw [hl]; exact Bool.false_ne_true))

/-! ### The status window (R242, R247, R248) -/

section
variable (hc : s.dev.glob.cxlActive = true) (hm : s.dev.glob.modeErr = false) (hh : s.dev.glob.hdmCommitted = true)
include hc hm hh

theorem runs_statusWindowRead (o n : Nat) : Runs (.statusWindowRead o n) s fun d' => s.dev.only d' [.host, .obs]
    ∧ d'.counter DC.winRead = s.dev.counter DC.winRead + 1
    ∧ ∃ bs, d'.host.replies = s.dev.host.replies ++ [.bytes bs] ∧ bs.length = min n 64
      ∧ (s.dev.windowOpenToHost = true → ∀ i < min n 64, bs.getD i 0 = s.dev.windowByte (o + i))
      ∧ (s.dev.windowOpenToHost = false → ∀ b ∈ bs, b = 0) := by
  refine Runs.of_on rfl ?_
  rw [if_pos (by simp [hc, hm, hh])]
  refine ⟨(s.dev.answer_only _).append (Dev.count_only _ _ _), (Dev.counter_count _ _ _ _).trans (if_pos rfl), _, rfl, by simp,
    fun hw i hi => ?_, fun hw b hb => ?_⟩
  · rw [List.getD_eq_getElem _ _ (by simpa using hi)]
    simp [hw]
  · obtain ⟨i, -, rfl⟩ := List.mem_map.mp hb
    simp [hw]

theorem runs_statusWindowWrite (o : Nat) (v : U64) : Runs (.statusWindowWrite o v) s fun d' => d' = s.dev.count DC.winWriteDiscard :=
  Runs.of_on rfl (if_pos (by simp [hc, hm, hh]))

end

/-- With no decoder committed the window does not answer. -/
theorem exec_statusWindow_uncommitted (hh : s.dev.glob.hdmCommitted = false) (o n : Nat) (v : U64) :
    exec (.statusWindowRead o n) s = .next s ∧ exec (.statusWindowWrite o v) s = .next s :=
  ⟨exec_eq_self_of_on rfl (if_neg (by simp [hh])),
    exec_eq_self_of_on rfl (if_neg (by simp [hh]))⟩

/-! ### The mailbox (R240, R246) -/

theorem runs_clearEventRecords (n : Nat) : Runs (.clearEventRecords n) s fun d' =>
    d'.host.events = s.dev.host.events.drop n ∧ d'.host.replies = s.dev.host.replies ∧ s.dev.only d' [.host] :=
  Runs.of_next rfl ⟨rfl, rfl, s.dev.only_host _⟩

theorem runs_setTimestamp (t : U64) : Runs (.setTimestamp t) s fun d' =>
    d'.glob.timestamp = t ∧ d'.glob.timestampAt = s.dev.now ∧ s.dev.only d' [.glob] :=
  Runs.of_next rfl ⟨rfl, rfl, s.dev.only_glob _⟩

theorem runs_getTimestamp : Runs .getTimestamp s fun d' => s.dev.only d' [.host] ∧ ∃ t, d'.host.replies = s.dev.host.replies ++ [.word t]
    ∧ (s.dev.glob.timestamp ≠ 0 → t = s.dev.glob.timestamp + BitVec.ofNat 64 (s.dev.since s.dev.glob.timestampAt)) :=
  Runs.of_on (show exec _ s = execGetTimestamp s from rfl) ⟨s.dev.answer_only _, _, rfl, fun h => if_neg h⟩

end

/-- Settles O53: the link and its decoder, the window, and the mailbox command by command. -/
theorem cxlLinkWindowAndMailboxAnswer : Obligations.CxlLinkWindowAndMailboxAnswer := by
  unfold Obligations.CxlLinkWindowAndMailboxAnswer
  exact fun s => ⟨fun width rate flit256 all => runs_cxlLinkTrained width rate flit256 all,
    fun hc hm hh => ⟨runs_statusWindowRead hc hm hh, runs_statusWindowWrite hc hm hh⟩,
    fun hh => exec_statusWindow_uncommitted hh,
    fun ways size hm => runs_hdmDecoderCommit ways size hm,
    runs_setNumVfs,
    Runs.of_next rfl rfl, Runs.of_next rfl rfl,
    runs_clearEventRecords,
    fun _ => Runs.of_next rfl rfl, Runs.of_next rfl rfl,
    runs_setTimestamp, runs_getTimestamp,
    Runs.of_next rfl rfl, fun _ => Runs.of_next rfl rfl⟩

end Sys2Proof.Machine
end

section
/-! OBLIGATION. The release of a reset, the regulators, the device made ready and the watchdog (R242, R327, R332, R372, R384, R386, R390, R392,
R409, R410, R414, R463). -/

namespace Sys2Proof.Machine

/-! ### The commit record taken at boot (R327) -/

/-- A write lists no key but its own and those that were listed. -/
theorem SMap.fst_of_mem_put {α : Type} [DecidableEq α] {z v : α} {m : SMap α} {k j : Nat} (h : j ∈ (SMap.put z m k v).map Prod.fst) :
    j = k ∨ j ∈ m.map Prod.fst := by
  have hins : ∀ l : SMap α, j ∈ (SMap.insert l k v).map Prod.fst → j = k ∨ j ∈ l.map Prod.fst := by
    intro l
    induction l with
    | nil => simp [SMap.insert]
    | cons e l ih =>
      obtain ⟨i, w⟩ := e
      unfold SMap.insert
      split
      · simp
      · simp only [List.map_cons, List.mem_cons]
        exact fun h => h.elim (fun h => .inr (.inl h)) fun h => (ih h).imp_right .inr
  have hfilter : j ∈ (m.filter fun e => e.1 != k).map Prod.fst → j ∈ m.map Prod.fst := fun h => (List.filter_sublist.map _).subset h
  unfold SMap.put at h
  split at h
  · exact .inr (hfilter h)
  · exact (hins _ h).imp_right hfilter

/-- The entries that MRAM lists after a change of every entry were listed, or belong to the record. -/
theorem StackBlk.mram_mapCommits {s : StackBlk} {f : Commit → Commit} {p : Nat} (h : p ∈ (s.mapCommits f).mram.map Prod.fst) :
    p ∈ s.mram.map Prod.fst ++ s.commits.map Prod.fst := by
  have fold : ∀ (es : List (Nat × Commit)) (t : StackBlk),
      p ∈ (es.foldl (fun t e => if f e.2 = e.2 then t else t.writeCommit e.1 (f e.2)) t).mram.map Prod.fst →
      p ∈ t.mram.map Prod.fst ++ es.map Prod.fst := by
    intro es
    induction es with
    | nil => exact fun t h => List.mem_append_left _ h
    | cons e es ih =>
      intro t h
      rw [List.foldl_cons] at h
      have hp := ih _ h
      rw [List.map_cons, List.mem_append, List.mem_cons]
      rcases List.mem_append.mp hp with hp | hp
      · split at hp
        · exact .inl hp
        · exact (SMap.fst_of_mem_put hp).elim (fun e => .inr (.inl e)) .inl
      · exact .inr (.inr hp)
  exact fold _ s h

/-- Where the stack places bytes: the region descriptors and the relocated blocks. -/
def StackBlk.places (s : StackBlk) : SMap U64 × SMap Nat := (s.regions, s.remap)

theorem StackBlk.places_lose (s : StackBlk) : s.lose.places = s.places := StackBlk.mapCommits_keeps StackBlk.places (fun _ _ _ => rfl) _ _

theorem StackBlk.mem_lose (s : StackBlk) : s.lose.mem = [] := StackBlk.mapCommits_keeps StackBlk.mem (fun _ _ _ => rfl) _ _

theorem Dev.mapAddr_of_places {d d' : Dev} (h : d'.stack.places = d.stack.places) (a : Nat) : d'.mapAddr a = d.mapAddr a := by
  have hr : d'.stack.remap = d.stack.remap := congrArg Prod.snd h
  rw [Dev.mapAddr, Dev.mapAddr, Dev.mapBlock, Dev.mapBlock, hr]

theorem Dev.kindBase_of_places {d d' : Dev} (h : d'.stack.places = d.stack.places) (kind : Nat) : d'.kindBase kind = d.kindBase kind := by
  have hr : d'.region = d.region := funext fun i => congrArg (SMap.get (regionReset i) · i) (congrArg Prod.fst h)
  rw [Dev.kindBase, Dev.kindBase, Dev.kindAt, Dev.kindAt, hr]

theorem Dev.commitCopy_of_places {d d' : Dev} (h : d'.stack.places = d.stack.places) (p : Nat) : d'.commitCopy p = d.commitCopy p := by
  rw [Dev.commitCopy, Dev.commitCopy, Dev.kindBase_of_places h]

section
variable (d : Dev)

/-- The commit record with other entries. -/
def Dev.withCommits (d : Dev) (x : SMap Commit) : Dev := { d with stack := { d.stack with commits := x } }

/-- An entry taken is a change of the record and a rewrite of its stack copy. -/
theorem Dev.takeCommit_eq (p : Nat) :
    ∃ x, ∃ w : BitVec 512, d.takeCommit p = (d.withCommits x).stackWrite ((d.withCommits x).commitCopy p) (bytesOf w 64) := ⟨_, _, rfl⟩

theorem Dev.places_stackWrite (a : Nat) (bs : List Byte) : (d.stackWrite a bs).stack.places = d.stack.places := rfl

theorem Dev.places_withCommits (x : SMap Commit) : (d.withCommits x).stack.places = d.stack.places := rfl

theorem Dev.takeCommit_only (p : Nat) : d.only (d.takeCommit p) [.stack] := by
  obtain ⟨x, w, e⟩ := d.takeCommit_eq p
  rw [e]
  exact Dev.only_trans (d.only_stack _) (Dev.stackWrite_only _ _ _)

theorem Dev.places_takeCommit (p : Nat) : (d.takeCommit p).stack.places = d.stack.places := by
  obtain ⟨x, w, e⟩ := d.takeCommit_eq p
  rw [e, Dev.places_stackWrite, Dev.places_withCommits]

theorem Dev.byte_takeCommit {p a : Nat} (h : ∀ i < 64, a ≠ d.mapAddr (d.commitCopy p + i)) : (d.takeCommit p).byte a = d.byte a := by
  obtain ⟨x, w, e⟩ := d.takeCommit_eq p
  have hplaces := d.places_withCommits x
  rw [e, Dev.byte_stackWrite_outside]
  · rfl
  · intro i hi
    rw [Dev.mapAddr_of_places hplaces, Dev.commitCopy_of_places hplaces]
    exact (h i (by simpa [bytesOf] using hi)).symm

/-- Every entry that MRAM holds is taken. -/
def Dev.takeCommits (d : Dev) : Dev := d.forAll (d.stack.mram.map Prod.fst) Dev.takeCommit

theorem Dev.takeCommits_only : d.only d.takeCommits [.stack] := Dev.only_forAll Dev.takeCommit_only _ d

/-- Only the stack copies of the entries are rewritten. -/
theorem Dev.byte_takeCommits {a : Nat} (h : ∀ p ∈ d.stack.mram.map Prod.fst, ∀ i < 64, a ≠ d.mapAddr (d.commitCopy p + i)) :
    d.takeCommits.byte a = d.byte a := by
  have fold : ∀ (ps : List Nat) (d : Dev), (∀ p ∈ ps, ∀ i < 64, a ≠ d.mapAddr (d.commitCopy p + i)) →
      (d.forAll ps Dev.takeCommit).byte a = d.byte a := by
    intro ps
    induction ps with
    | nil => exact fun _ _ => rfl
    | cons p ps ih =>
      intro d h
      rw [Dev.forAll_cons, ih, Dev.byte_takeCommit d (h p List.mem_cons_self)]
      intro q hq i hi
      rw [Dev.mapAddr_of_places (d.places_takeCommit p), Dev.commitCopy_of_places (d.places_takeCommit p)]
      exact h q (List.mem_cons_of_mem p hq) i hi
  exact fold _ d h

/-! ### The release (R384, R386, R463) -/

/-- The start is cold: a reset of the whole package without its stack content. -/
def Dev.startsCold (d : Dev) : Bool := !d.rst.soft && (d.rst.cold || d.rst.retentionLost)

/-- The package without its stack content; that debug was open is forgotten with it. -/
def Dev.coldStart (d : Dev) : Dev := { d.loseStack with sec := { d.sec with debugSeen := 0 } }

theorem Dev.coldStart_only (d : Dev) : d.only d.coldStart [.stack, .ledger, .sec] := fun b hb => by
  cases b with
  | stack => simp at hb
  | ledger => simp at hb
  | sec => simp at hb
  | _ => rfl

/-- The straps as sampled. -/
def Dev.strapped (d : Dev) (nodeId : BitVec 7) (spareSel : Bool) : Dev := { d with glob := { d.glob with node := nodeId, spareStrap := spareSel } }

/-- Device time starts at 0. -/
def Dev.timeZero (d : Dev) : Dev := { d with glob := { d.glob with timeNs := 0 } }

/-- The package as the release starts it, before the commit record is taken: a cold start has lost the stack, and a reset that is not soft samples
the straps. -/
def Dev.started (d : Dev) (nodeId : BitVec 7) (spareSel : Bool) : Dev :=
  let d' := if d.startsCold then d.coldStart else d
  (if d.rst.soft then d' else d'.strapped nodeId spareSel).timeZero

/-- The reset block after a release. -/
def Dev.releasedRst (d : Dev) (testEn : Bool) : ResetBlk :=
  { d.rst with phase := if testEn && !d.rst.soft then .testHeld else .booting, perst := false, resetN := false, cold := d.startsCold
               stackKept := !d.startsCold, retentionLost := false, brownHeld := false, selfRefresh := false, rootLock := false
               rootCount := 0, watchdogAt := 0 }

variable {d}

theorem Dev.releaseReset_eq (h : d.mayRelease = true) (nodeId : BitVec 7) (spareSel testEn : Bool) :
    d.releaseReset nodeId spareSel testEn = { (d.started nodeId spareSel).takeCommits with rst := d.releasedRst testEn } := by
  unfold Dev.releaseReset
  exact if_pos h

theorem Dev.releaseReset_of_held (h : d.mayRelease = false) (nodeId : BitVec 7) (spareSel testEn : Bool) :
    d.releaseReset nodeId spareSel testEn = d := by
  unfold Dev.releaseReset
  exact if_neg (by simp [h])

variable (d) (nodeId : BitVec 7) (spareSel : Bool)

theorem Dev.started_only : d.only (d.started nodeId spareSel) [.glob, .stack, .sec, .ledger] := by
  unfold Dev.started
  extract_lets d₁
  have h₁ : d.only d₁ [.stack, .ledger, .sec] := by
    unfold d₁
    split
    · exact d.coldStart_only
    · exact d.only_refl _
  have h₂ : d₁.only (if d.rst.soft then d₁ else d₁.strapped nodeId spareSel) [.glob] := by
    split
    · exact d₁.only_refl _
    · exact d₁.only_glob _
  exact Dev.only_mono ((h₁.append h₂).append (Dev.only_glob _ _)) (by simp)

theorem Dev.glob_started : (d.started nodeId spareSel).glob = { d.glob with
    node := if d.rst.soft then d.glob.node else nodeId, spareStrap := if d.rst.soft then d.glob.spareStrap else spareSel, timeNs := 0 } := by
  unfold Dev.started
  cases d.rst.soft <;> cases d.startsCold <;> rfl

theorem Dev.stack_started : (d.started nodeId spareSel).stack = if d.startsCold then d.stack.lose else d.stack := by
  unfold Dev.started
  cases d.rst.soft <;> cases d.startsCold <;> rfl

theorem Dev.sec_started : (d.started nodeId spareSel).sec = if d.startsCold then { d.sec with debugSeen := 0 } else d.sec := by
  unfold Dev.started
  cases d.rst.soft <;> cases d.startsCold <;> rfl

theorem Dev.log_started : (d.started nodeId spareSel).ledger.log = d.ledger.log := by
  unfold Dev.started
  cases d.rst.soft <;> cases d.startsCold <;> rfl

theorem Dev.places_started : (d.started nodeId spareSel).stack.places = d.stack.places := by
  rw [Dev.stack_started]
  split
  · exact d.stack.places_lose
  · rfl

/-- A byte outside the stack copies of the commit record is 0 after a cold start, and as it was after a warm one. -/
theorem Dev.byte_started_takeCommits {a : Nat} (h : ∀ p ∈ d.stack.mram.map Prod.fst ++ d.stack.commits.map Prod.fst, ∀ i < 64,
    a ≠ d.mapAddr (d.commitCopy p + i)) : (d.started nodeId spareSel).takeCommits.byte a = if d.startsCold then 0 else d.byte a := by
  have hplaces := d.places_started nodeId spareSel
  rw [Dev.byte_takeCommits, Dev.byte, Dev.stack_started]
  · split
    · rw [StackBlk.mem_lose]; rfl
    · rfl
  · intro p hp i hi
    rw [Dev.mapAddr_of_places hplaces, Dev.commitCopy_of_places hplaces]
    refine h p ?_ i hi
    rw [Dev.stack_started] at hp
    split at hp
    · exact StackBlk.mram_mapCommits (s := { d.stack with mem := [], banks := [] }) hp
    · exact List.mem_append_left _ hp

end

/-! ### The release in RETURNED (R414) -/

section
variable (d : Dev)

theorem Dev.closeWindows_only (sel : Nat → Window → Bool) : d.only (d.closeWindows sel) [.link] :=
  Dev.only_forAll (fun d e => by
    split
    · exact d.setWindow_only _ _
    · exact d.only_refl _) _ d

/-- The package without its keys and with every bank invalid. -/
def Dev.keyless (d : Dev) : Dev :=
  { d with sec := { d.sec with owners := [], unwrap := [] }
           stack := d.stack.mapCommits fun c => { c with active := 0, bankA := 0, bankB := 0 } }

theorem Dev.keyless_closed_only : d.keyless.only (d.keyless.closeWindows fun _ _ => true) [.link] := d.keyless.closeWindows_only _

theorem Dev.rst_scrub : d.scrub.rst = { d.rst with retentionLost := true } :=
  congrArg (fun r : ResetBlk => { r with retentionLost := true }) (d.keyless_closed_only .rst (by simp))

theorem Dev.glob_scrub : d.scrub.glob = { d.glob with ideIo := false, ideCm := false } :=
  congrArg (fun g : Glob => { g with ideIo := false, ideCm := false }) (d.keyless_closed_only .glob (by simp))

theorem Dev.sec_scrub : d.scrub.sec = { d.sec with owners := [], unwrap := [] } := d.keyless_closed_only .sec (by simp)

theorem Dev.mayRelease_scrub : d.scrub.mayRelease = d.mayRelease := by rw [Dev.mayRelease, Dev.rst_scrub]; rfl

theorem Dev.startsCold_scrub : d.scrub.startsCold = !d.rst.soft := by
  rw [Dev.startsCold, Dev.rst_scrub]
  exact (congrArg (!d.rst.soft && ·) (Bool.or_true _)).trans (Bool.and_true _)

end

/-- What every release leaves of the reset block, device time and the straps. -/
theorem Dev.releaseReset_facts {d : Dev} (h : d.mayRelease = true) (nodeId : BitVec 7) (spareSel testEn : Bool) :
    let d' := d.releaseReset nodeId spareSel testEn
    d'.rst = d.releasedRst testEn ∧ d'.now = 0 ∧ d'.glob.node = (if d.rst.soft then d.glob.node else nodeId)
      ∧ d'.glob.spareStrap = (if d.rst.soft then d.glob.spareStrap else spareSel)
      ∧ d'.sec = if d.startsCold then { d.sec with debugSeen := 0 } else d.sec := by
  intro d'
  have hd : d' = _ := Dev.releaseReset_eq h nodeId spareSel testEn
  have hc := (d.started nodeId spareSel).takeCommits_only
  have hg : d'.glob = (d.started nodeId spareSel).glob := by rw [hd]; exact hc .glob (by simp)
  have hs : d'.sec = (d.started nodeId spareSel).sec := by rw [hd]; exact hc .sec (by simp)
  rw [Dev.glob_started] at hg
  rw [Dev.sec_started] at hs
  exact ⟨by rw [hd], by rw [Dev.now, hg], by rw [hg], by rw [hg], hs⟩

section
variable {s : State} {nodeId : BitVec 7} {spareSel testEn : Bool}

/-- A release before the reset can be left changes nothing. -/
theorem exec_resetRelease_held (h : s.dev.mayRelease = false) : exec (.resetRelease nodeId spareSel testEn) s = .next s :=
  exec_eq_self_of_on (show exec _ s = execResetRelease nodeId spareSel testEn s from rfl) (by
    rw [if_neg (by simp [h])]
    exact Dev.releaseReset_of_held h _ _ _)

theorem exec_resetRelease (hr : s.dev.sec.returning = false) : exec (.resetRelease nodeId spareSel testEn) s
    = .next { s with dev := s.dev.releaseReset nodeId spareSel testEn } := by
  rw [show exec (.resetRelease nodeId spareSel testEn) s = execResetRelease nodeId spareSel testEn s from rfl, execResetRelease, State.on_next,
    if_neg (by simp [hr])]

theorem exec_resetRelease_returning (h : s.dev.mayRelease = true) (hr : s.dev.sec.returning = true) :
    exec (.resetRelease nodeId spareSel testEn) s = .next { s with dev := s.dev.scrub.releaseReset nodeId spareSel testEn } := by
  rw [show exec (.resetRelease nodeId spareSel testEn) s = execResetRelease nodeId spareSel testEn s from rfl, execResetRelease, State.on_next,
    if_pos (by simp [hr, h])]

/-- A release decides cold or warm by the retention latch; in RETURNED with the sequence incomplete it runs it again first. -/
theorem runs_resetRelease (h : s.dev.mayRelease = true) :
    let cold := !s.dev.rst.soft && (s.dev.rst.cold || s.dev.rst.retentionLost || s.dev.sec.returning)
    let copied := fun (a : Nat) => ∃ p ∈ s.dev.stack.mram.map Prod.fst ++ s.dev.stack.commits.map Prod.fst, ∃ i < 64,
      a = s.dev.mapAddr (s.dev.commitCopy p + i)
    Runs (.resetRelease nodeId spareSel testEn) s fun d' =>
      d'.rst.phase = (if testEn && !s.dev.rst.soft then .testHeld else .booting) ∧ d'.rst.cold = cold
        ∧ d'.rst.stackKept = !cold ∧ d'.rst.retentionLost = false ∧ d'.now = 0
        ∧ (s.dev.sec.returning = false → ∀ a, ¬ copied a → d'.byte a = if cold then 0 else s.dev.byte a)
        ∧ d'.glob.node = (if s.dev.rst.soft then s.dev.glob.node else nodeId)
        ∧ d'.glob.spareStrap = (if s.dev.rst.soft then s.dev.glob.spareStrap else spareSel)
        ∧ (s.dev.sec.returning = true → ∀ n, d'.owner n = none ∧ SMap.get 0 d'.sec.unwrap n = 0)
        ∧ (s.dev.sec.returning = false → s.dev.only d' [.rst, .glob, .stack, .sec, .ledger] ∧ d'.vault = s.dev.vault
            ∧ d'.ledger.log = s.dev.ledger.log) := by
  intro cold copied
  cases hr : s.dev.sec.returning with
  | true =>
    have hcold : s.dev.scrub.startsCold = cold := by simp [Dev.startsCold_scrub, cold, hr]
    refine Runs.of_next (exec_resetRelease_returning h hr) ?_
    obtain ⟨hrst, hnow, hnode, hstrap, hsec⟩ := Dev.releaseReset_facts (s.dev.mayRelease_scrub.trans h) nodeId spareSel testEn
    rw [s.dev.rst_scrub, s.dev.glob_scrub] at hnode hstrap
    rw [hrst, hnow, hnode, hstrap, ← hcold]
    refine ⟨?_, rfl, rfl, rfl, rfl, nofun, rfl, rfl, fun _ n => ?_, nofun⟩
    · rw [Dev.releasedRst, s.dev.rst_scrub]
    · rw [Dev.owner, hsec, s.dev.sec_scrub]
      split <;> exact ⟨rfl, rfl⟩
  | false =>
    have hcold : s.dev.startsCold = cold := by simp [Dev.startsCold, cold, hr]
    refine Runs.of_next (exec_resetRelease hr) ?_
    obtain ⟨hrst, hnow, hnode, hstrap, hsec⟩ := Dev.releaseReset_facts h nodeId spareSel testEn
    rw [hrst, hnow, hnode, hstrap, ← hcold]
    have he := Dev.releaseReset_eq h nodeId spareSel testEn
    have hstarted := s.dev.started_only nodeId spareSel
    have htaken := (s.dev.started nodeId spareSel).takeCommits_only
    refine ⟨rfl, rfl, rfl, rfl, rfl, fun _ a ha => ?_, rfl, rfl, nofun, fun _ => ⟨?_, ?_, ?_⟩⟩
    · rw [he]
      exact s.dev.byte_started_takeCommits nodeId spareSel fun p hp i hi e => ha ⟨p, hp, i, hi, e⟩
    · rw [he]
      exact Dev.only_mono ((hstarted.append htaken).append (Dev.only_rst _ _)) (by simp)
    · rw [Dev.vault, hsec]
      split <;> rfl
    · rw [he]
      exact (congrArg LedgerBlk.log (htaken .ledger (by simp))).trans (s.dev.log_started nodeId spareSel)

end

/-! ### The device becomes ready (R242, R332, R386, R409, R448) -/

section
variable (d : Dev) (p : Nat)

theorem Dev.reportBanks_only : d.only (d.reportBanks p) [.host] := by
  unfold Dev.reportBanks
  split
  · exact d.only_refl _
  · split
    · exact d.only_refl _
    · exact d.send_only _

theorem Dev.askBanks_only : d.only (d.askBanks p) [.host] := by
  unfold Dev.askBanks
  split
  · exact Dev.forAll_send_only _ _ d
  · exact d.only_refl _

theorem Dev.reprogramActive_only : d.only (d.reprogramActive p) [.array, .serve, .host] := by
  unfold Dev.reprogramActive
  split
  · exact d.only_refl _
  · next b _ =>
    have hload := (d.orderProgramming_only p b).append (Dev.loadSchedule_only _ p b)
    exact Dev.only_mono ((hload.append (Dev.updJob_only _ p _)).append ((Dev.reportBanks_only _ p).append (Dev.askBanks_only _ p))) (by simp)

/-- A package with every image of its boot chain running: the STACK lock and Memory_Active are set, and the watchdog runs. -/
def Dev.readied (d : Dev) : Dev :=
  { d with rst := { d.rst with phase := .ready, watchdogAt := d.now, rootLock := true }
           glob := { d.glob with memoryActive := true, locks := d.glob.locks ||| 4 }
           sec := { d.sec with returning := false } }

/-- Every partition with an active bank is reprogrammed, and the allowances are set. -/
def Dev.reprogramAll (d : Dev) : Dev := (d.forAll (d.stack.commits.map Prod.fst) Dev.reprogramActive).divideIdle

theorem Dev.reprogramAll_only : d.only d.reprogramAll [.array, .serve, .host, .engine] :=
  Dev.only_mono ((Dev.only_forAll Dev.reprogramActive_only _ d).append (Dev.divideIdle_only _)) (by simp)

end

section
variable {s : State}

theorem runs_deviceReady (hb : s.dev.rst.phase = .booting) (hf : s.dev.sec.bootFail = none) (hi : s.dev.imagesRun = true) :
    Runs .deviceReady s fun d' => d'.rst.phase = .ready ∧ d'.glob.memoryActive = true ∧ d'.glob.locks.getLsbD 2 = true
      ∧ d'.rst.watchdogAt = s.dev.now ∧ d'.ledger = s.dev.ledger ∧ d'.stack = s.dev.stack ∧ d'.glob.regs = s.dev.glob.regs
      ∧ d'.power = s.dev.power := by
  refine Runs.of_on (show exec _ s = execDeviceReady s from rfl) ?_
  rw [if_pos ⟨hb, hf, hi⟩]
  have h := s.dev.readied.reprogramAll_only
  have hrst := h .rst (by simp)
  have hglob := h .glob (by simp)
  exact ⟨congrArg ResetBlk.phase hrst, congrArg Glob.memoryActive hglob,
    (congrArg (fun g : Glob => g.locks.getLsbD 2) hglob).trans (by simp [Dev.readied]), congrArg ResetBlk.watchdogAt hrst,
    h .ledger (by simp), h .stack (by simp),
    Eq.trans (b := s.dev.readied.glob.regs) (congrArg Glob.regs hglob) rfl, h .power (by simp)⟩

theorem exec_deviceReady_notYet (h : s.dev.sec.bootFail ≠ none ∨ s.dev.imagesRun = false) : exec .deviceReady s = .next s :=
  exec_eq_self_of_on (show exec _ s = execDeviceReady s from rfl) (if_neg fun ⟨_, hf, hi⟩ => h.elim (· hf) fun h => by simp [h] at hi)

/-! ### The rails (R372, R392) -/

theorem runs_stackSupplyWindowLoss (hp : s.dev.rst.phase = .inReset) (hs : s.dev.rst.soft = false) :
    Runs .stackSupplyWindowLoss s fun d' => d' = { s.dev with rst := { s.dev.rst with retentionLost := true } } :=
  Runs.of_on (show exec _ s = execStackSupplyWindowLoss s from rfl) (if_pos ⟨hp, by simp [hs]⟩)

theorem runs_regulatorSoftStart (ha : s.dev.rst.auxUp = true) (hs : s.dev.rst.serUp = true) (ht : s.dev.rst.tripLatched = false) :
    Runs .regulatorSoftStart s fun d' => d' = { s.dev with rst := { s.dev.rst with regulators := true, vinUp := true } } :=
  Runs.of_on (show exec _ s = execRegulatorSoftStart s from rfl) (if_pos ⟨ha, hs, by simp [ht]⟩)

theorem exec_regulatorSoftStart_early (hs : s.dev.rst.serUp = false) : exec .regulatorSoftStart s = .next s :=
  exec_eq_self_of_on (show exec _ s = execRegulatorSoftStart s from rfl) (if_neg fun h => by simp [hs] at h)

end

/-- Settles O7: the release by the retention latch, the rails before it, and the device that becomes ready after it. -/
theorem releaseDecidesColdOrWarmAndReadyFollows : Obligations.ReleaseDecidesColdOrWarmAndReadyFollows := by
  unfold Obligations.ReleaseDecidesColdOrWarmAndReadyFollows
  refine fun s => ⟨fun nodeId spareSel testEn hp ht ha hs hr hv hbr => runs_resetRelease ?_, runs_stackSupplyWindowLoss,
    fun n a b => exec_resetRelease_held, runs_regulatorSoftStart, exec_regulatorSoftStart_early, runs_deviceReady, exec_deviceReady_notYet,
    Runs.of_next rfl rfl⟩
  cases hheld : s.dev.rst.brownHeld with
  | true => simp [Dev.mayRelease, hp, ht, ha, hs, hr, hv, hheld, hbr hheld]
  | false => simp [Dev.mayRelease, hp, ht, ha, hs, hr, hv, hheld]

end Sys2Proof.Machine
end

section
/-! OBLIGATION. The partition reset: what it clears of the partition, what it keeps of the package, and its report (R253, R301, R388, R438). -/

namespace Sys2Proof.Machine

/-! ### After the blocks are cleared (R75, R330, R332, R401, R443) -/

/-- What a job has in progress on this package. -/
def Job.progress (j : Job) : List StepDesc × Option MemberStep × List StepDesc := (j.inFlight, j.step, j.descs)

/-- The blocks in which the package goes on after a partition's blocks are cleared. -/
def resumeBlocks : List Blk := [.array, .serve, .host, .engine, .part, .power, .glob]

/-- The package goes on: no job's steps change, and no set-up word. -/
structure Dev.Resumes (d d' : Dev) : Prop where
  only : d.only d' resumeBlocks
  progress : ∀ p, (d'.job p).progress = (d.job p).progress
  regs : d'.glob.regs = d.glob.regs

section
variable {d d₁ d₂ : Dev}

theorem Dev.Resumes.trans (h₁ : Dev.Resumes d d₁) (h₂ : Dev.Resumes d₁ d₂) : Dev.Resumes d d₂ :=
  ⟨Dev.only_trans h₁.only h₂.only, fun p => (h₂.progress p).trans (h₁.progress p), h₂.regs.trans h₁.regs⟩

theorem Dev.Resumes.refl : Dev.Resumes d d := ⟨d.only_refl _, fun _ => rfl, rfl⟩

/-- A change beside the serving state and the registers. -/
theorem Dev.resumes_of_only {bs : List Blk} (h : d.only d₁ bs)
    (hb : bs.all (fun b => resumeBlocks.contains b && b != .serve && b != .glob) = true) : Dev.Resumes d d₁ := by
  have hmem : ∀ b ∈ bs, b ∈ resumeBlocks ∧ b ≠ .serve ∧ b ≠ .glob := fun b hm => by
    simpa [and_assoc] using List.all_eq_true.mp hb b hm
  refine ⟨Dev.only_mono h fun b hm => (hmem b hm).1, fun p => ?_, ?_⟩
  · rw [Dev.job, Dev.job, h .serve fun hm => (hmem _ hm).2.1 rfl]
  · rw [h .glob fun hm => (hmem _ hm).2.2 rfl]

theorem Dev.Resumes.forAll {α : Type} {f : Dev → α → Dev} (hf : ∀ d a, Dev.Resumes d (f d a)) (xs : List α) (d : Dev) :
    Dev.Resumes d (d.forAll xs f) := Dev.forAll_holds (fun x => Dev.Resumes d x) f (fun _ a h => h.trans (hf _ a)) xs d .refl

/-- A change of a job beside its steps. -/
theorem Dev.resumes_updJob (d : Dev) (p : Nat) {f : Job → Job} (hf : ∀ j, (f j).progress = j.progress) : Dev.Resumes d (d.updJob p f) := by
  refine ⟨Dev.only_mono (d.updJob_only p f) (by simp [resumeBlocks]), fun q => ?_, rfl⟩
  rw [Dev.updJob, Dev.job_setJob]
  split
  · next h => rw [h, hf]
  · rfl

theorem Dev.resumes_divide (d : Dev) (b : Nat) (k : Setting) (js sel : Nat → Bool) : Dev.Resumes d (d.divide b k js sel) := by
  unfold Dev.divide
  extract_lets all olds total old kept room wants rs want mine sum part a allows x y d₁
  have h₁ : d.only d₁ [.array, .engine] := fun b hb => by
    cases b with
    | array => simp at hb
    | engine => simp at hb
    | _ => rfl
  refine (Dev.resumes_of_only h₁ rfl).trans (.forAll (fun d r => ?_) _ _)
  exact d.resumes_updJob _ fun _ => rfl

theorem Dev.resumes_updCluster (d : Dev) (c : Nat) (f : Cluster → Cluster) : Dev.Resumes d (d.updCluster c f) :=
  Dev.resumes_of_only (d.updCluster_only c f) rfl

theorem Dev.resumes_updTable (d : Dev) (lt : Nat) (f : CorrTab → CorrTab) : Dev.Resumes d (d.updTable lt f) :=
  Dev.resumes_of_only (d.updTable_only lt f) rfl

theorem Dev.resumes_loadSchedule (d : Dev) (p b : Nat) : Dev.Resumes d (d.loadSchedule p b) := by
  unfold Dev.loadSchedule
  extract_lets i d₁ d₂ d₃ d₄ d₅ other kept base x d₆ addr d₇ d₈ d₉
  have h₁ : Dev.Resumes d d₁ := .forAll (fun d c => (d.resumes_updCluster c _).trans (.forAll (fun d k => d.resumes_updTable k _) _ _)) _ _
  have h₂ : Dev.Resumes d₁ d₂ := .forAll (fun d h => d.resumes_updCluster _ _) _ _
  have h₃ : Dev.Resumes d₂ d₃ := .forAll (fun d h => d.resumes_updCluster _ _) _ _
  have h₄ : Dev.Resumes d₃ d₄ := .forAll (fun d h => d.resumes_updCluster _ _) _ _
  have h₅ : Dev.Resumes d₄ d₅ := .forAll (fun d h => d.resumes_updCluster _ _) _ _
  have h₆ : Dev.Resumes d₅ d₆ := Dev.resumes_of_only (d₅.only_array _) rfl
  have h₇ : Dev.Resumes d₆ d₇ := .forAll (fun d h => d.resumes_updTable _ _) _ _
  have h₈ : Dev.Resumes d₇ d₈ := .forAll (fun d h => d.resumes_updTable _ _) _ _
  have h₉ : Dev.Resumes d₈ d₉ := .forAll (fun d h => d.resumes_updTable _ _) _ _
  split
  · exact .refl
  · exact (((((((h₁.trans h₂).trans h₃).trans h₄).trans h₅).trans h₆).trans h₇).trans h₈).trans (h₉.trans (d₉.resumes_updJob p fun _ => rfl))

theorem Dev.resumes_reprogramActive (d : Dev) (p : Nat) : Dev.Resumes d (d.reprogramActive p) := by
  unfold Dev.reprogramActive
  split
  · exact .refl
  · next b _ =>
    have hload := (Dev.resumes_of_only (d.orderProgramming_only p b) rfl).trans (Dev.resumes_loadSchedule _ p b)
    have hjob := hload.trans (Dev.resumes_updJob _ p (f := fun j => { j with rebuilding := true, digestOk := false, symbols := false }) fun _ => rfl)
    exact hjob.trans (Dev.resumes_of_only ((Dev.reportBanks_only _ p).append (Dev.askBanks_only _ p)) rfl)

theorem Dev.resumes_passParts (d : Dev) (p : Nat) : Dev.Resumes d (d.passParts p) := by
  unfold Dev.passParts
  extract_lets owed staged
  split
  · exact (Dev.resumes_of_only (d.only_part _) rfl).trans (.forAll (fun d x => Dev.resumes_of_only (d.bringIn_only x) rfl) _ _)
  · exact Dev.resumes_of_only (d.only_part _) rfl

theorem Dev.resumes_passBudget (d : Dev) (p : Nat) : Dev.Resumes d (d.passBudget p) := by
  unfold Dev.passBudget
  extract_lets x d₁ new target d₂ free
  have h₁ : Dev.Resumes d d₁ := Dev.resumes_of_only (d.only_power _) rfl
  have h₂ : Dev.Resumes d₁ d₂ := by
    unfold d₂
    split
    · exact Dev.resumes_of_only (d₁.only_power _) rfl
    · exact .refl
  exact (h₁.trans h₂).trans (d₂.resumes_divide _ _ _ _)

theorem Dev.resumes_setRegIn (d : Dev) (o : Nat) (w : U32) : Dev.Resumes d (d.setRegIn o w) :=
  ⟨Dev.only_mono (d.only_glob _) (by simp [resumeBlocks]), fun _ => rfl, rfl⟩

theorem Dev.resumes_applyRegs (d : Dev) (sel : Nat → Bool) : Dev.Resumes d (d.applyRegs sel) := by
  unfold Dev.applyRegs
  refine .forAll (fun d k => ?_) _ _
  split
  · exact d.resumes_setRegIn _ _
  · exact .refl

theorem Dev.resumes_passRegs (d : Dev) (p : Nat) : Dev.Resumes d (d.passRegs p) := by
  unfold Dev.passRegs
  refine Dev.Resumes.trans ?_ (Dev.resumes_applyRegs _ _)
  exact ⟨Dev.only_mono (d.only_glob _) (by simp [resumeBlocks]), fun _ => rfl, rfl⟩

theorem Dev.resumes_jobOut (d : Dev) (p : Nat) : Dev.Resumes d (d.jobOut p) :=
  ((d.resumes_passParts p).trans (Dev.resumes_passBudget _ p)).trans (Dev.resumes_passRegs _ p)

end

/-! ### What the reset clears (R388) -/

/-- The stack's bytes, the golden banks and the commit record. -/
def StackBlk.contents (s : StackBlk) : List Host.Cell × SMap BankInfo × SMap Commit := (s.mem, s.banks, s.commits)

/-- A step of the clearing: it stays in its blocks and leaves the stack's contents and SYS_CTL. -/
structure Dev.Clears (bs : List Blk) (d d' : Dev) : Prop where
  only : d.only d' bs
  contents : d'.stack.contents = d.stack.contents
  sysCtl : d'.reg Off.sysCtl = d.reg Off.sysCtl

section
variable {d d₁ d₂ : Dev} {as bs : List Blk}

theorem Dev.Clears.trans (h₁ : Dev.Clears as d d₁) (h₂ : Dev.Clears bs d₁ d₂) : Dev.Clears (as ++ bs) d d₂ :=
  ⟨h₁.only.append h₂.only, h₂.contents.trans h₁.contents, h₂.sysCtl.trans h₁.sysCtl⟩

/-- A change beside the stack and the registers. -/
theorem Dev.clears_of_only (h : d.only d₁ bs) (hb : Blk.stack ∉ bs ∧ Blk.glob ∉ bs) : Dev.Clears bs d d₁ :=
  ⟨h, congrArg StackBlk.contents (h .stack hb.1), congrArg (fun g : Glob => SMap.get (regReset Off.sysCtl) g.regs (Off.sysCtl / 4)) (h .glob hb.2)⟩

end

section
variable (d : Dev) (p : Nat)

theorem Dev.hostWrite_mirror_only (slot : Nat) (w : BitVec 128) : d.only (d.hostWrite (.mirror slot w)) [.host] := by
  have happly : ∀ d : Dev, d.only (d.applyHostWrite (.mirror slot w)) [.host] := fun d => d.only_host _
  unfold Dev.hostWrite
  split
  · dsimp only
    split
    · exact Dev.only_trans (d.send_only _) (happly _)
    · exact happly d
  · exact d.send_only _

theorem Dev.freeEntry_only (slot : Nat) : d.only (d.freeEntry slot) [.stack, .serve] :=
  Dev.only_mono (((d.only_stack _).append (Dev.only_serve _ _)).append ((Dev.only_serve _ _).append (Dev.only_serve _ _))) (by simp)

theorem Dev.contents_freeEntry (slot : Nat) : (d.freeEntry slot).stack.contents = d.stack.contents := rfl

/-- The entries of a list are freed; the lead mirrors each. -/
theorem Dev.clears_freeEntries (lead : Bool) (slots : List Nat) : Dev.Clears [.stack, .serve, .host] d (d.forAll slots fun d s =>
    let d := d.freeEntry s
    if lead then d.hostWrite (.mirror s ((d.req s).mirror (d.job p).boundaryNo)) else d) := by
  refine Dev.forAll_holds (fun x => Dev.Clears [.stack, .serve, .host] d x) _ (fun d₁ s h => ?_) slots d
    ⟨d.only_refl _, rfl, rfl⟩
  have hfree : Dev.Clears [.stack, .serve] d₁ (d₁.freeEntry s) := ⟨d₁.freeEntry_only s, d₁.contents_freeEntry s, rfl⟩
  have hmono : ∀ {d₂ : Dev} {bs : List Blk}, Dev.Clears bs d d₂ → bs ⊆ [.stack, .serve, .host] → Dev.Clears [.stack, .serve, .host] d d₂ :=
    fun h hb => ⟨Dev.only_mono h.only hb, h.contents, h.sysCtl⟩
  dsimp only
  split
  · have hmirror := Dev.clears_of_only ((d₁.freeEntry s).hostWrite_mirror_only s (((d₁.freeEntry s).req s).mirror
      ((d₁.freeEntry s).job p).boundaryNo)) (by simp)
    exact hmono ((h.trans hfree).trans hmirror) (by simp)
  · exact hmono (h.trans hfree) (by simp)

theorem Dev.stepOver_only : d.only (d.stepOver p) [.serve, .array] := by
  unfold Dev.stepOver
  split
  · exact (d.updJob_only p _).append (Dev.only_array _ _)
  · exact d.only_refl _

theorem Dev.dropCommands_only : d.only (d.dropCommands p) [.host] := by
  unfold Dev.dropCommands
  extract_lets gone d₁
  refine Dev.only_trans (Dev.only_forAll (fun d o => ?_) gone d) (d₁.only_host _)
  split
  · exact d.only_host _
  · exact d.only_refl _

/-- The word of a partition's trace lies elsewhere than SYS_CTL. -/
theorem Dev.clears_traceCtl (w w' : U32) :
    Dev.Clears [.glob] d ((d.setReg (Off.traceCtl p + 4) w).setRegIn (Off.traceCtl p + 4) w') := by
  refine ⟨Dev.only_trans (d.only_glob _) (Dev.only_glob _ _), rfl, ?_⟩
  have hne : Off.sysCtl / 4 ≠ (Off.traceCtl p + 4) / 4 := by
    unfold Off.sysCtl Off.traceCtl
    omega
  exact d.reg_setReg_other w hne

/-- The word at index `k` belongs to a profile or a stop set of partition `p`. -/
def foxWord (p k : Nat) : Bool := within (4 * k) (Off.foxProfile p 0) 256 8 8 || within (4 * k) (Off.foxStop p 0) 256 512 512

theorem foxWord_sysCtl : foxWord p (Off.sysCtl / 4) = false := by
  rw [foxWord, within_outside (by omega), within_outside (by omega)]
  · rfl
  · unfold Off.sysCtl Off.foxStop
    omega
  · unfold Off.sysCtl Off.foxProfile
    omega

theorem Dev.clears_foxWords : Dev.Clears [.glob] d { d with glob := { d.glob with
    regs := SMap.keep (fun k => !foxWord p k) d.glob.regs, inForce := SMap.keep (fun k => !foxWord p k) d.glob.inForce } } := by
  refine ⟨d.only_glob _, rfl, ?_⟩
  rw [Dev.reg, SMap.get_keep, foxWord_sysCtl]
  rfl

theorem Dev.watches_log (kind event : BitVec 4) (ruling : BitVec 2) (origin : BitVec 3) (unit : Nat) (step : U48) (detail : U32) :
    (d.log kind event ruling origin unit step detail).obs.watches = d.obs.watches := by
  unfold Dev.log
  extract_lets l w next d₁
  refine Eq.trans (b := d₁.obs.watches) rfl ?_
  unfold d₁
  split <;> rfl

theorem Dev.leaveSweep_only (ks : List Nat) : d.only (d.leaveSweep ks) [.power, .ledger, .obs] := by
  unfold Dev.leaveSweep
  extract_lets pw d₁
  have h₁ : d.only d₁ [.power] := d.only_power _
  split
  · exact Dev.only_mono (h₁.append ((d₁.only_power _).append (d₁.endSweep_only))) (by simp)
  · exact Dev.only_mono h₁ (by simp)

theorem Dev.watches_leaveSweep (ks : List Nat) : (d.leaveSweep ks).obs.watches = d.obs.watches := by
  unfold Dev.leaveSweep
  extract_lets pw d₁
  split
  · exact Dev.watches_log _ _ _ _ _ _ _ _
  · rfl

/-- Where no sweep runs the ledger records nothing. -/
theorem Dev.ledger_leaveSweep (h : d.power.sweep = false) (ks : List Nat) : (d.leaveSweep ks).ledger = d.ledger := by
  unfold Dev.leaveSweep
  extract_lets pw d₁
  have h₁ : d₁.power.sweep = false := h
  rw [if_neg (by simp [h₁])]

/-- A partition's blocks are cleared, and what the reset keeps is as it was. -/
structure Dev.PartCleared (p : Nat) (d d' : Dev) : Prop where
  sys : d'.sys = d.sys
  sec : d'.sec = d.sec
  contents : d'.stack.contents = d.stack.contents
  sysCtl : d'.reg Off.sysCtl = d.reg Off.sysCtl
  ledger : d.power.sweep = false → d'.ledger = d.ledger
  cause : d'.rst.cause = 0xA
  progress : (d'.job p).progress = ([], none, [])
  watches : ∀ w < 16, d'.watch p w = none

/-- The reset clears the partition's blocks, and then the package goes on. -/
theorem Dev.resetPartition_clears : ∃ d', Dev.PartCleared p d d' ∧ Dev.Resumes d' (d.resetPartition p) := by
  unfold Dev.resetPartition
  extract_lets slots lead e d₁ d₂ d₃ b d₄ mine h d₅ d₆ d₇ o d₈ en d₉ fox g d₁₀ x d₁₁ cs d₁₂ d₁₃ d₁₄ r d₁₅
  have h₁ : Dev.Clears [.engine] d d₁ := Dev.clears_of_only (d.only_engine _) (by simp)
  have h₂ : Dev.Clears [.stack, .serve, .host] d₁ d₂ := d₁.clears_freeEntries p lead slots
  have h₃ : Dev.Clears [.serve, .array] d₂ d₃ := Dev.clears_of_only (d₂.stepOver_only p) (by simp)
  have h₄ : Dev.Clears [.serve] d₃ d₄ := Dev.clears_of_only (d₃.updJob_only p _) (by simp)
  have h₅ : Dev.Clears [.host] d₄ d₅ := Dev.clears_of_only (d₄.only_host _) (by simp)
  have h₆ : Dev.Clears [.host] d₅ d₆ := Dev.clears_of_only (d₅.dropCommands_only p) (by simp)
  have h₇ : Dev.Clears [.link] d₆ d₇ := Dev.clears_of_only (d₆.closeWindows_only _) (by simp)
  have h₈ : Dev.Clears [.obs] d₇ d₈ := Dev.clears_of_only (d₇.only_obs _) (by simp)
  have h₉ : Dev.Clears [.glob] d₈ d₉ := d₈.clears_traceCtl p _ _
  have h₁₀ : Dev.Clears [.glob] d₉ d₁₀ := d₉.clears_foxWords p
  have h₁₁ : Dev.Clears [.serve] d₁₀ d₁₁ := Dev.clears_of_only (d₁₀.only_serve _) (by simp)
  have h₁₂ : Dev.Clears [.array] d₁₁ d₁₂ := Dev.clears_of_only (Dev.only_forAll (fun d c => d.updCluster_only c _) _ _) (by simp)
  have h₁₃ : Dev.Clears [.array] d₁₂ d₁₃ := Dev.clears_of_only (Dev.only_forAll (fun d k => d.updTile_only k _) _ _) (by simp)
  have h₁₄ : Dev.Clears [.power, .ledger, .obs] d₁₃ d₁₄ := Dev.clears_of_only (d₁₃.leaveSweep_only _) (by simp)
  have h₁₅ : Dev.Clears [.rst] d₁₄ d₁₅ := Dev.clears_of_only (d₁₄.only_rst _) (by simp)
  have before := ((h₁.trans h₂).trans h₃).trans h₄
  have middle := ((((h₅.trans h₆).trans h₇).trans h₈).trans h₉).trans h₁₀
  have tiles := h₁₂.trans h₁₃
  have sweep := h₁₄.trans h₁₅
  have cleared := ((before.trans middle).trans h₁₁).trans tiles
  have whole := cleared.trans sweep
  have hidle : (d₄.job p).progress = ([], none, []) := by
    unfold d₄
    rw [Dev.updJob, Dev.job_setJob, if_pos rfl]
    rfl
  have hjob : d₁₅.job p = d₄.job p :=
    calc d₁₅.job p = d₁₁.job p := congrArg (fun x : ServeBlk => SMap.get Job.idle x.jobs p) ((tiles.trans sweep).only .serve (by simp))
      _ = d₁₀.job p := rfl
      _ = d₄.job p := congrArg (fun x : ServeBlk => SMap.get Job.idle x.jobs p) (middle.only .serve (by simp))
  have hleave : d₁₄.obs.watches = d₁₃.obs.watches := by
    unfold d₁₄
    exact d₁₃.watches_leaveSweep _
  have hwatches : d₁₅.obs.watches = d₈.obs.watches :=
    calc d₁₅.obs.watches = d₁₄.obs.watches := congrArg ObsBlk.watches (h₁₅.only .obs (by simp))
      _ = d₁₃.obs.watches := hleave
      _ = d₈.obs.watches := congrArg ObsBlk.watches ((((h₉.trans h₁₀).trans h₁₁).trans tiles).only .obs (by simp))
  refine ⟨d₁₅, ⟨whole.only .sys (by simp), whole.only .sec (by simp), whole.contents, whole.sysCtl, fun hs => ?_, rfl, ?_, fun w hw => ?_⟩, ?_⟩
  · have hpower : d₁₃.power.sweep = false := (congrArg PowerBlk.sweep (cleared.only .power (by simp))).trans hs
    exact (h₁₅.only .ledger (by simp)).trans ((d₁₃.ledger_leaveSweep hpower _).trans (cleared.only .ledger (by simp)))
  · rw [hjob, hidle]
  · have hk : ((16 * p + w) / 16 != p) = false := by
      rw [show (16 * p + w) / 16 = p by omega]
      exact bne_self_eq_false p
    rw [Dev.watch, hwatches, SMap.get_keep, if_neg (by simp [hk])]
  · have hpower : Dev.Resumes d₁₅ (d₁₅.forAll cs Dev.powerCluster) := .forAll (fun d c => Dev.resumes_of_only (d.powerCluster_only c) rfl) cs _
    exact (hpower.trans (Dev.resumes_reprogramActive _ p)).trans (Dev.resumes_divide _ _ _ _ _)

end

/-! ### The report and the commands (R253, R388) -/

section
variable (d : Dev) (p : Nat)

theorem Dev.reg_of_regs {d d' : Dev} (h : d'.glob.regs = d.glob.regs) (o : Nat) : d'.reg o = d.reg o :=
  congrArg (fun m => SMap.get (regReset o) m (o / 4)) h

/-- The members of a job lie where its set-up and SYS_CTL place them. -/
theorem Dev.members_of_sysCtl {d d' : Dev} (hs : d'.sys = d.sys) (hr : d'.reg Off.sysCtl = d.reg Off.sysCtl) (p : Nat) :
    d'.members p = d.members p := by
  unfold Dev.members Dev.jobSetup Dev.xm1 Dev.ym1 Dev.zm1 Dev.fld
  rw [hs, hr]

theorem Dev.PartCleared.resumes {d d₁ d₂ : Dev} {p : Nat} (h : Dev.PartCleared p d d₁) (hr : Dev.Resumes d₁ d₂) : Dev.PartCleared p d d₂ where
  sys := (hr.only .sys (by simp [resumeBlocks])).trans h.sys
  sec := (hr.only .sec (by simp [resumeBlocks])).trans h.sec
  contents := (congrArg StackBlk.contents (hr.only .stack (by simp [resumeBlocks]))).trans h.contents
  sysCtl := (Dev.reg_of_regs hr.regs _).trans h.sysCtl
  ledger := fun hs => (hr.only .ledger (by simp [resumeBlocks])).trans (h.ledger hs)
  cause := (congrArg ResetBlk.cause (hr.only .rst (by simp [resumeBlocks]))).trans h.cause
  progress := (hr.progress p).trans h.progress
  watches := fun w hw => (congrArg (fun o : ObsBlk => SMap.get none o.watches (16 * p + w)) (hr.only .obs (by simp [resumeBlocks]))).trans
    (h.watches w hw)

/-- The partition is reset and its job is out of its step. -/
theorem Dev.partCleared_reset : Dev.PartCleared p d ((d.resetPartition p).jobOut p) := by
  obtain ⟨d₁, hclear, hresume⟩ := d.resetPartition_clears p
  exact hclear.resumes (hresume.trans (Dev.resumes_jobOut _ p))

theorem Dev.hostWrite_of_member {d : Dev} (h : d.sys.primary = false) (m : HostWriteMsg) : d.hostWrite m = d.send (.hostWrite m) := by
  unfold Dev.hostWrite
  exact if_neg (by simp [h])

theorem Dev.hostWrite_partResetDone_only (pos : Nat) : d.only (d.hostWrite (.partResetDone p pos)) [.host] := by
  unfold Dev.hostWrite
  split
  · exact d.only_host _
  · exact d.send_only _

end

section
variable (s : State) (n : Nat)

theorem runs_partitionResetReceive : Runs (.partitionResetReceive ⟨2, n⟩) s fun d' =>
    d'.rst.cause = 0xA ∧ (d'.job n).inFlight = [] ∧ (d'.job n).step = none ∧ (d'.job n).descs = []
      ∧ (∀ w < 16, d'.watch n w = none) ∧ d'.stack.mem = s.dev.stack.mem ∧ d'.stack.banks = s.dev.stack.banks
      ∧ d'.stack.commits = s.dev.stack.commits ∧ (s.dev.power.sweep = false → d'.ledger = s.dev.ledger) ∧ d'.vault = s.dev.vault
      ∧ (s.dev.sys.primary = false → .hostWrite (.partResetDone n s.dev.sys.position) ∈ d'.host.sent) := by
  refine Runs.of_channel (f := fun d => ((d.resetPartition n).jobOut n).hostWrite (.partResetDone n d.sys.position)) rfl ?_
  have hreset := s.dev.partCleared_reset n
  generalize (s.dev.resetPartition n).jobOut n = d₁ at hreset ⊢
  have hdone := hreset.resumes (Dev.resumes_of_only (d₁.hostWrite_partResetDone_only n s.dev.sys.position) rfl)
  refine ⟨hdone.cause, congrArg Prod.fst hdone.progress, congrArg (·.2.1) hdone.progress, congrArg (·.2.2) hdone.progress, hdone.watches,
    congrArg Prod.fst hdone.contents, congrArg (·.2.1) hdone.contents, congrArg (·.2.2) hdone.contents, hdone.ledger,
    congrArg SecBlk.vault hdone.sec, fun hp => ?_⟩
  rw [Dev.hostWrite_of_member ((congrArg SysBlk.primary hreset.sys).trans hp)]
  exact List.mem_append_right _ (List.mem_singleton.mpr rfl)

/-! ### The primary's part (R388) -/

/-- Contents and ledger are as they were, and so are the places of every job's members. -/
structure Dev.FlrKeeps (d d' : Dev) : Prop where
  sys : d'.sys = d.sys
  contents : d'.stack.contents = d.stack.contents
  sysCtl : d'.reg Off.sysCtl = d.reg Off.sysCtl
  ledger : d.power.sweep = false → d'.ledger = d.ledger

/-- The gateway without the partition's contexts, commands and symbol table. -/
def Dev.detached (d : Dev) (p : Nat) : Dev :=
  (({ d with host := { d.host with
      queues := SMap.keep (fun q => !(d.idOwner q == some p)) d.host.queues
      rings := SMap.keep (fun r => !(d.idOwner r == some p)) d.host.rings } } : Dev).dropCommands p).updJob p fun j => { j with symbols := false }

theorem Dev.detached_only (d : Dev) (p : Nat) : d.only (d.detached p) [.host, .serve] := by
  unfold Dev.detached
  exact Dev.only_mono (((d.only_host _).append (Dev.dropCommands_only _ p)).append (Dev.updJob_only _ p _)) (by simp)

/-- The primary's own part of an FLR: the reset where it is a member; elsewhere what the gateway holds of the partition goes. -/
def Dev.flrHere (d : Dev) (p : Nat) : Dev := if d.isMember p then (d.resetPartition p).jobOut p else d.detached p

/-- The members of the partition's job that are to report. -/
def Dev.flrWaits (d : Dev) (p : Nat) : List Nat :=
  if (d.jobSetup p).valid then (d.members p).filter (· != d.sys.position) else []

section
variable (d : Dev) (p : Nat)

theorem Dev.flrHere_keeps : Dev.FlrKeeps d (d.flrHere p) := by
  unfold Dev.flrHere
  split
  · have h := d.partCleared_reset p
    exact ⟨h.sys, h.contents, h.sysCtl, h.ledger⟩
  · have h := Dev.clears_of_only (d.detached_only p) (by simp)
    exact ⟨h.only .sys (by simp), h.contents, h.sysCtl, fun _ => h.only .ledger (by simp)⟩

/-- The function's registers as its reset leaves them. -/
def Dev.resetVectors (d : Dev) (p : Nat) : Dev := d.setFn (p + 1) { d.fn (p + 1) with msixTable := [], msixPending := [], msixCtl := 0 }

/-- The FLR waits for the members listed, if any. -/
def Dev.awaitFlr (d : Dev) (p : Nat) (waits : List Nat) : Dev :=
  if waits.isEmpty then d else { d with host := { d.host with flrs := (d.host.flrs.filter fun x => x.1 != p) ++ [(p, waits)] } }

theorem Dev.flr_eq : d.flr p = (((d.flrHere p).resetVectors p).awaitFlr p ((d.flrHere p).flrWaits p)).send (.partReset p) := by
  unfold Dev.flr Dev.flrHere
  rfl

theorem Dev.awaitFlr_only (waits : List Nat) : d.only (d.awaitFlr p waits) [.host] := by
  unfold Dev.awaitFlr
  split
  · exact d.only_refl _
  · exact d.only_host _

theorem Dev.flr_only : (d.flrHere p).only (d.flr p) [.host] := by
  rw [Dev.flr_eq]
  exact Dev.only_trans (Dev.only_trans (Dev.only_host _ _) (Dev.awaitFlr_only _ p _)) (Dev.send_only _ _)

theorem Dev.mem_flrs_awaitFlr {waits : List Nat} {pos : Nat} (h : pos ∈ waits) : (p, waits) ∈ (d.awaitFlr p waits).host.flrs := by
  unfold Dev.awaitFlr
  rw [if_neg (by simpa using List.ne_nil_of_mem h)]
  exact List.mem_append_right _ List.mem_cons_self

end

theorem runs_partitionReset (hp : s.dev.sys.primary = true) : Runs (.partitionReset n) s fun d' =>
    .partReset n ∈ d'.host.sent ∧ d'.stack.mem = s.dev.stack.mem ∧ d'.stack.commits = s.dev.stack.commits
      ∧ (s.dev.power.sweep = false → d'.ledger = s.dev.ledger)
      ∧ ((s.dev.jobSetup n).valid = true → ∀ pos ∈ s.dev.members n, pos ≠ s.dev.sys.position →
          ∃ waits, (n, waits) ∈ d'.host.flrs ∧ pos ∈ waits) := by
  refine Runs.of_next (d' := s.dev.flr n) ?_ ?_
  · rw [show exec (.partitionReset n) s = execPartitionReset n s from rfl, execPartitionReset, State.on_next, if_pos hp]
  have hkeeps := s.dev.flrHere_keeps n
  have honly := s.dev.flr_only n
  have hcontents := (congrArg StackBlk.contents (honly .stack (by simp))).trans hkeeps.contents
  refine ⟨?_, congrArg Prod.fst hcontents, congrArg (·.2.2) hcontents, fun hs => (honly .ledger (by simp)).trans (hkeeps.ledger hs),
    fun hv pos hpos hne => ?_⟩
  · rw [Dev.flr_eq]
    exact List.mem_append_right _ (List.mem_singleton.mpr rfl)
  · have hwaits : pos ∈ (s.dev.flrHere n).flrWaits n := by
      rw [Dev.flrWaits, Dev.jobSetup, Dev.members_of_sysCtl hkeeps.sys hkeeps.sysCtl, hkeeps.sys]
      exact (if_pos hv).symm ▸ List.mem_filter.mpr ⟨hpos, by simpa using hne⟩
    refine ⟨_, ?_, hwaits⟩
    rw [Dev.flr_eq]
    exact Dev.mem_flrs_awaitFlr _ n hwaits

theorem runs_hostWriteReceive_partResetDone (pos : Nat) (waits : List Nat) (hp : s.dev.sys.primary = true) (hw : s.dev.host.flrs = [(n, waits)]) :
    Runs (.hostWriteReceive 2 (.partResetDone n pos)) s fun d' => s.dev.only d' [.host]
      ∧ d'.host.flrs = if (waits.filter (· != pos)).isEmpty then [] else [(n, waits.filter (· != pos))] := by
  refine Runs.of_next (d' := s.dev.applyHostWrite (.partResetDone n pos)) ?_ ⟨s.dev.only_host _, ?_⟩
  · rw [show exec (.hostWriteReceive 2 (.partResetDone n pos)) s = execHostWriteReceive 2 (.partResetDone n pos) s from rfl,
      execHostWriteReceive, State.onChannel, State.on_next, if_pos rfl, if_pos hp]
    dsimp only
    rw [Dev.hostWrite, if_pos hp]
  · simp only [Dev.applyHostWrite, hw, List.map_cons, List.map_nil, if_true]
    split <;> simp_all

end

/-- Settles O8: the reset clears the partition's blocks and keeps the rest, the primary sends it on, and its FLR ends with the last report. -/
theorem partitionResetKeepsBanksAndOtherPartitions : Obligations.PartitionResetKeepsBanksAndOtherPartitions := by
  unfold Obligations.PartitionResetKeepsBanksAndOtherPartitions
  exact fun s n _ => ⟨runs_partitionResetReceive s n, runs_partitionReset s n, runs_hostWriteReceive_partResetDone s n⟩

end Sys2Proof.Machine
end

section
/-! SUPPORT. Contexts: the cache, their places in the stack, and what the gateway tells its standby (R252, R273, R296). -/

namespace Sys2Proof.Machine

/-! ### The cache and the place in the stack (R252, R273) -/

/-- The gateway's cache and the stack's bytes may have changed, and a miss may have been counted; nothing else. -/
structure Dev.Caches (d d' : Dev) : Prop where
  only : d.only d' [.host, .obs, .fresh, .stack]
  host : ∃ c, d'.host = { d.host with cached := c }
  stack : ∃ m, d'.stack = { d.stack with mem := m }
  counter : ∀ n, n ≠ DC.qctxMiss → d'.counter n = d.counter n

section
variable {d d₁ d₂ : Dev}

theorem Dev.Caches.refl : Dev.Caches d d := ⟨d.only_refl _, ⟨_, rfl⟩, ⟨_, rfl⟩, fun _ _ => rfl⟩

theorem Dev.Caches.trans (h₁ : Dev.Caches d d₁) (h₂ : Dev.Caches d₁ d₂) : Dev.Caches d d₂ := by
  obtain ⟨c₁, e₁⟩ := h₁.host
  obtain ⟨c₂, e₂⟩ := h₂.host
  obtain ⟨m₁, k₁⟩ := h₁.stack
  obtain ⟨m₂, k₂⟩ := h₂.stack
  exact ⟨Dev.only_trans h₁.only h₂.only, ⟨c₂, by rw [e₂, e₁]⟩, ⟨m₂, by rw [k₂, k₁]⟩, fun n hn => (h₂.counter n hn).trans (h₁.counter n hn)⟩

theorem Dev.Caches.places (h : Dev.Caches d d₁) : d₁.stack.places = d.stack.places := by
  obtain ⟨m, e⟩ := h.stack
  rw [e]
  rfl

end

section
variable (d : Dev) (key : Nat)

theorem Dev.caches_cached (c : List Nat) : Dev.Caches d { d with host := { d.host with cached := c } } :=
  ⟨Dev.only_mono (d.only_host _) (by simp), ⟨c, rfl⟩, ⟨_, rfl⟩, fun _ _ => rfl⟩

theorem Dev.caches_fresh (n : Nat) : Dev.Caches d { d with fresh := n } :=
  ⟨Dev.only_mono (d.only_fresh _) (by simp), ⟨_, rfl⟩, ⟨_, rfl⟩, fun _ _ => rfl⟩

theorem Dev.caches_stackWrite (a : Nat) (bs : List Byte) : Dev.Caches d (d.stackWrite a bs) :=
  ⟨Dev.only_mono (d.stackWrite_only a bs) (by simp), ⟨_, rfl⟩, ⟨_, rfl⟩, fun _ _ => rfl⟩

theorem Dev.caches_storeCtx : Dev.Caches d (d.storeCtx key) := d.caches_stackWrite _ _

theorem Dev.caches_cacheCtx : Dev.Caches d (d.cacheCtx key) := by
  unfold Dev.cacheCtx
  extract_lets cs free
  split
  · exact .refl
  · split
    · exact d.caches_cached _
    · split
      next => exact .refl
      next k _ => exact ((d.caches_cached (key :: cs.erase k)).trans (Dev.caches_fresh _ _)).trans (Dev.caches_storeCtx _ k)

theorem Dev.caches_touchCtx : Dev.Caches d (d.touchCtx key) := by
  unfold Dev.touchCtx
  split
  · exact .refl
  · have hmiss : ∀ d : Dev, Dev.Caches d (d.count DC.qctxMiss) := fun d =>
      ⟨Dev.only_mono (d.count_only _ _) (by simp), ⟨_, rfl⟩, ⟨_, rfl⟩, fun n hn => (d.counter_count _ _ _).trans (if_neg hn)⟩
    exact (d.caches_cacheCtx key).trans (hmiss _)

/-- While the cache has room a context that enters it moves none out. -/
theorem Dev.stack_cacheCtx_of_room (h : d.host.cached.length < 16384) : (d.cacheCtx key).stack = d.stack := by
  unfold Dev.cacheCtx
  extract_lets cs free
  split
  · rfl
  · rfl

end

/-! ### The tables of contexts and functions -/

/-- Work beside the tables of the contexts and of the functions. -/
structure Dev.KeepsTables (d d' : Dev) : Prop where
  only : d.only d' [.host, .sys, .obs, .fresh, .stack]
  queue : ∀ k, d'.queue k = d.queue k
  ring : ∀ k, d'.ring k = d.ring k
  fn : ∀ g, d'.fn g = d.fn g

section
variable {d d₁ d₂ : Dev}

theorem Dev.KeepsTables.refl : Dev.KeepsTables d d := ⟨d.only_refl _, fun _ => rfl, fun _ => rfl, fun _ => rfl⟩

theorem Dev.KeepsTables.trans (h₁ : Dev.KeepsTables d d₁) (h₂ : Dev.KeepsTables d₁ d₂) : Dev.KeepsTables d d₂ :=
  ⟨Dev.only_trans h₁.only h₂.only, fun k => (h₂.queue k).trans (h₁.queue k), fun k => (h₂.ring k).trans (h₁.ring k),
    fun g => (h₂.fn g).trans (h₁.fn g)⟩

theorem Dev.Caches.keepsTables (h : Dev.Caches d d₁) : Dev.KeepsTables d d₁ := by
  obtain ⟨c, e⟩ := h.host
  have hq : d₁.host.queues = d.host.queues := by rw [e]
  have hr : d₁.host.rings = d.host.rings := by rw [e]
  have hf : d₁.host.fns = d.host.fns := by rw [e]
  exact ⟨Dev.only_mono h.only (by simp), fun k => congrArg (SMap.get none · k) hq, fun k => congrArg (SMap.get none · k) hr,
    fun g => congrArg (SMap.get FnRegs.reset · g) hf⟩

/-- What is told to a standby touches what is held for it and the messages. -/
theorem Dev.keepsTables_ctxChanged (d : Dev) (key : Nat) : Dev.KeepsTables d (d.ctxChanged key) := by
  unfold Dev.ctxChanged
  split
  · exact ⟨Dev.only_mono ((d.only_sys _).append (Dev.send_only _ _)) (by simp), fun _ => rfl, fun _ => rfl, fun _ => rfl⟩
  · exact .refl

/-- Without a standby in sync nobody is told. -/
theorem Dev.ctxChanged_of_alone {d : Dev} (h : d.sys.standbySync = false) (key : Nat) : d.ctxChanged key = d := by
  unfold Dev.ctxChanged
  exact if_neg (by simp [h])

theorem Dev.stack_ctxChanged (d : Dev) (key : Nat) : (d.ctxChanged key).stack = d.stack := by
  unfold Dev.ctxChanged
  split <;> rfl

end

end Sys2Proof.Machine
end

section
/-! OBLIGATION. Context operations and the indirect reads of the clusters (R244, R251, R252, R449, R450). -/

namespace Sys2Proof.Machine

/-! ### A context operation that takes effect (R252) -/

/-- RESULT of function `fn` is 0, every other function is as it was, and so is every context but those of `id`. -/
structure Dev.CtxDone (fn id : Nat) (d d' : Dev) : Prop where
  others : ∀ k, k ≠ id → d'.queue k = d.queue k ∧ d'.ring k = d.ring k
  result : (d'.fn fn).ctxResult = 0
  fns : ∀ g, g ≠ fn → d'.fn g = d.fn g
  only : d.only d' [.host, .sys, .obs, .fresh, .stack]

section
variable (d : Dev) (fn : Nat) (code : BitVec 4)

theorem Dev.ctxResult_only : d.only (d.ctxResult fn code) [.host] := d.only_host _

theorem Dev.fn_ctxResult_same : (d.ctxResult fn code).fn fn = { d.fn fn with ctxResult := code } :=
  (d.fn_setFn fn fn _).trans (if_pos rfl)

theorem Dev.fn_ctxResult_other {g : Nat} (h : g ≠ fn) : (d.ctxResult fn code).fn g = d.fn g := (d.fn_setFn fn g _).trans (if_neg h)

theorem FnRegs.id_lt (f : FnRegs) : f.id < 262144 := (bits f.ctxSel 17 0).isLt

end

section
variable {d d₁ d₂ d₃ : Dev} {fn id : Nat}

theorem Dev.CtxDone.all (h : Dev.CtxDone fn id d d₁) : (∀ k, k ≠ id → d₁.queue k = d.queue k ∧ d₁.ring k = d.ring k)
    ∧ (d₁.fn fn).ctxResult = 0 ∧ (∀ g, g ≠ fn → d₁.fn g = d.fn g) ∧ d.only d₁ [.host, .sys, .obs, .fresh, .stack] :=
  ⟨h.others, h.result, h.fns, h.only⟩

/-- A change of the contexts of `id`, work beside the tables, RESULT 0, and work beside the tables again. -/
theorem Dev.ctxDone_of_steps (honly : d.only d₁ [.host]) (hk : ∀ k, k ≠ id → d₁.queue k = d.queue k ∧ d₁.ring k = d.ring k)
    (hf : ∀ g, d₁.fn g = d.fn g) (h₁ : Dev.KeepsTables d₁ d₂) (h₂ : Dev.KeepsTables (d₂.ctxResult fn 0) d₃) :
    Dev.CtxDone fn id d d₃ where
  others := fun k hne => ⟨((h₂.queue k).trans (h₁.queue k)).trans (hk k hne).1, ((h₂.ring k).trans (h₁.ring k)).trans (hk k hne).2⟩
  result := by rw [h₂.fn, Dev.fn_ctxResult_same]
  fns := fun g hg => by rw [h₂.fn, Dev.fn_ctxResult_other _ _ _ hg, h₁.fn, hf]
  only := Dev.only_mono (((honly.append h₁.only).append (Dev.ctxResult_only _ _ _)).append h₂.only) (by simp)

/-- The same steps leave the function's registers as they were, but for RESULT. -/
theorem Dev.fn_of_steps (hf : d₁.fn fn = d.fn fn) (h₁ : Dev.KeepsTables d₁ d₂) (h₂ : Dev.KeepsTables (d₂.ctxResult fn 0) d₃) :
    d₃.fn fn = { d.fn fn with ctxResult := 0 } := by
  rw [h₂.fn, Dev.fn_ctxResult_same, h₁.fn, hf]

end

/-! ### Create (R252) -/

section
variable {d : Dev} {fn : Nat}

theorem Dev.ctxLive_of_queue (hr : (d.fn fn).ring = false) : d.ctxLive fn = (d.queue (d.fn fn).id).isSome := by
  rw [Dev.ctxLive, if_neg (by simp [hr])]

theorem Dev.ctxLive_of_ring (hr : (d.fn fn).ring = true) : d.ctxLive fn = (d.ring (d.fn fn).id).isSome := by
  rw [Dev.ctxLive, if_pos hr]

theorem Dev.createCtx_unnamed (hn : d.mayName fn (d.fn fn).id = false) : d.createCtx fn = d.ctxResult fn 1 := by
  simp [Dev.createCtx, hn]

section
variable (hn : d.mayName fn (d.fn fn).id = true)
include hn

theorem Dev.createCtx_live (hl : d.ctxLive fn = true) : d.createCtx fn = d.ctxResult fn 2 := by
  simp [Dev.createCtx, hn, hl]

/-- The queue pair's context as it is taken, stored and cached. -/
def Dev.queueCreated (d : Dev) (id : Nat) (q : QCtx) : Dev :=
  (((d.setQueue id (some q)).forgetBell id).storeCtx (ctxKey false id)).cacheCtx (ctxKey false id)

/-- The ring's context as it is taken, stored and cached. -/
def Dev.ringCreated (d : Dev) (id : Nat) (r : RCtx) : Dev := ((d.setRing id (some r)).storeCtx (ctxKey true id)).cacheCtx (ctxKey true id)

section
variable (hr : (d.fn fn).ring = false) (hl : d.queue (d.fn fn).id = none)
include hr hl

theorem Dev.createCtx_badField (hok : (QCtx.create (d.fn fn).ctxData).ok = false) : d.createCtx fn = d.ctxResult fn 4 := by
  simp [Dev.createCtx, hn, Dev.ctxLive_of_queue hr, hl, hr, hok]

theorem Dev.createCtx_noPin (hok : (QCtx.create (d.fn fn).ctxData).ok = true) (hp : (QCtx.create (d.fn fn).ctxData).pin = true) (hm : 4096 ≤ d.pins) :
    d.createCtx fn = d.ctxResult fn 5 := by
  simp [Dev.createCtx, hn, Dev.ctxLive_of_queue hr, hl, hr, hok, hp, hm]

theorem Dev.createCtx_queue (hok : (QCtx.create (d.fn fn).ctxData).ok = true)
    (hp : (QCtx.create (d.fn fn).ctxData).pin = false ∨ d.pins < 4096) : d.createCtx fn
      = (((d.queueCreated (d.fn fn).id (QCtx.create (d.fn fn).ctxData)).ctxResult fn 0).ctxChanged (ctxKey false (d.fn fn).id)) := by
  have hpin : ¬ ((QCtx.create (d.fn fn).ctxData).pin = true ∧ d.pins ≥ 4096) := fun h => hp.elim (by simp [h.1]) (by omega)
  simp only [Dev.createCtx, hn, Dev.ctxLive_of_queue hr, hl, hr, hok, if_neg hpin]
  rfl

end

theorem Dev.createCtx_ring (hr : (d.fn fn).ring = true) (hl : d.ring (d.fn fn).id = none) (hok : (RCtx.create (d.fn fn).ctxData).ok = true) :
    d.createCtx fn = (((d.ringCreated (d.fn fn).id (RCtx.create (d.fn fn).ctxData)).ctxResult fn 0).ctxChanged (ctxKey true (d.fn fn).id)) := by
  simp only [Dev.createCtx, hn, Dev.ctxLive_of_ring hr, hl, hr, hok]
  rfl

end

end

section
variable (d : Dev) (fn id : Nat)

theorem Dev.queue_created (q : QCtx) (k : Nat) : ((d.setQueue id (some q)).forgetBell id).queue k = if k = id then some q else d.queue k :=
  Eq.trans (b := (d.setQueue id (some q)).queue k) rfl (d.queue_setQueue _ _ _)

theorem Dev.setQueue_forgetBell_only (x : Option QCtx) : d.only ((d.setQueue id x).forgetBell id) [.host] := d.only_host _

theorem Dev.setRing_only (x : Option RCtx) : d.only (d.setRing id x) [.host] := d.only_host _

theorem Dev.keepsTables_queueCreated (q : QCtx) : Dev.KeepsTables ((d.setQueue id (some q)).forgetBell id) (d.queueCreated id q) :=
  ((Dev.caches_storeCtx _ _).trans (Dev.caches_cacheCtx _ _)).keepsTables

theorem Dev.keepsTables_ringCreated (r : RCtx) : Dev.KeepsTables (d.setRing id (some r)) (d.ringCreated id r) :=
  ((Dev.caches_storeCtx _ _).trans (Dev.caches_cacheCtx _ _)).keepsTables

theorem Dev.ctxDone_queueCreated (q : QCtx) : Dev.CtxDone fn id d (((d.queueCreated id q).ctxResult fn 0).ctxChanged (ctxKey false id))
    ∧ (((d.queueCreated id q).ctxResult fn 0).ctxChanged (ctxKey false id)).queue id = some q
    ∧ (((d.queueCreated id q).ctxResult fn 0).ctxChanged (ctxKey false id)).ring id = d.ring id := by
  have hkeep := d.keepsTables_queueCreated id q
  have htell := Dev.keepsTables_ctxChanged ((d.queueCreated id q).ctxResult fn 0) (ctxKey false id)
  refine ⟨Dev.ctxDone_of_steps (d.setQueue_forgetBell_only id _) (fun k hk => ⟨?_, rfl⟩) (fun _ => rfl) hkeep htell, ?_, ?_⟩
  · rw [Dev.queue_created, if_neg hk]
  · exact (htell.queue id).trans ((hkeep.queue id).trans ((d.queue_created id q id).trans (if_pos rfl)))
  · exact (htell.ring id).trans (hkeep.ring id)

theorem Dev.ctxDone_ringCreated (r : RCtx) : Dev.CtxDone fn id d (((d.ringCreated id r).ctxResult fn 0).ctxChanged (ctxKey true id))
    ∧ (((d.ringCreated id r).ctxResult fn 0).ctxChanged (ctxKey true id)).ring id = some r
    ∧ (((d.ringCreated id r).ctxResult fn 0).ctxChanged (ctxKey true id)).queue id = d.queue id := by
  have hkeep := d.keepsTables_ringCreated id r
  have htell := Dev.keepsTables_ctxChanged ((d.ringCreated id r).ctxResult fn 0) (ctxKey true id)
  refine ⟨Dev.ctxDone_of_steps (d.setRing_only id _) (fun k hk => ⟨rfl, ?_⟩) (fun _ => rfl) hkeep htell, ?_, ?_⟩
  · rw [Dev.ring_setRing, if_neg hk]
  · exact (htell.ring id).trans ((hkeep.ring id).trans ((d.ring_setRing id id _).trans (if_pos rfl)))
  · exact (htell.queue id).trans (hkeep.queue id)

theorem Dev.ctxAt_of_places {d d' : Dev} (h : d'.stack.places = d.stack.places) (key : Nat) : d'.ctxAt key = d.ctxAt key := by
  rw [Dev.ctxAt, Dev.ctxAt, Dev.kindBase_of_places h]

/-- With no block remapped and room in the cache the context lies at its place in the stack (log 174). -/
theorem Dev.byte_queueCreated {id : Nat} (hid : id < 262144) (hr : d.stack.remap = []) (hc : d.host.cached.length < 16384) (q : QCtx) {i : Nat} (hi : i < 32) :
    (((d.queueCreated id q).ctxResult fn 0).ctxChanged (ctxKey false id)).byte (d.ctxAt id + i) = q.word.extractLsb' (8 * i) 8 := by
  let d₁ := (d.setQueue id (some q)).forgetBell id
  have hword : d₁.ctxWord id = some q.word := by
    rw [Dev.ctxWord, if_pos hid, Dev.queue_created, if_pos rfl]
    rfl
  have hplace : d₁.ctxAt id = d.ctxAt id := Dev.ctxAt_of_places rfl id
  have hstack : (((d.queueCreated id q).ctxResult fn 0).ctxChanged (ctxKey false id)).stack = (d₁.storeCtx id).stack :=
    (Dev.stack_ctxChanged _ _).trans ((d₁.storeCtx id).stack_cacheCtx_of_room id hc)
  have hbyte : (d₁.storeCtx id).byte (d₁.ctxAt id + i) = (bytesOf ((d₁.ctxWord id).getD 0) 32)[i]'(by simpa using hi) :=
    d₁.byte_stackWrite_inside (d₁.ctxAt id) _ hr _
  rw [Dev.byte, hstack, ← hplace]
  refine hbyte.trans ?_
  simp [bytesOf, hword]

end

/-! ### Delete (R252) -/

section
variable {d : Dev} {fn : Nat}

theorem Dev.deleteCtx_unnamed (hn : d.mayName fn (d.fn fn).id = false) : d.deleteCtx fn = d.ctxResult fn 1 := by
  simp [Dev.deleteCtx, hn]

theorem Dev.deleteCtx_missing (hn : d.mayName fn (d.fn fn).id = true) (hl : d.ctxLive fn = false) : d.deleteCtx fn = d.ctxResult fn 6 := by
  simp [Dev.deleteCtx, hn, hl]

theorem Dev.deleteCtx_inUse (hn : d.mayName fn (d.fn fn).id = true) (hl : d.ctxLive fn = true) (hu : d.ctxInUse (d.fn fn).ring (d.fn fn).id = true) :
    d.deleteCtx fn = d.ctxResult fn 3 := by
  simp [Dev.deleteCtx, hn, hl, hu]

/-- What a delete does once the context is out of its table: it leaves the cache, and its place in the stack is cleared. -/
def Dev.uncacheCtx (d : Dev) (key : Nat) : Dev := { d with host := { d.host with cached := d.host.cached.erase key } }.storeCtx key

theorem Dev.keepsTables_uncacheCtx (d : Dev) (key : Nat) : Dev.KeepsTables d (d.uncacheCtx key) :=
  ((d.caches_cached _).trans (Dev.caches_storeCtx _ _)).keepsTables

section
variable (hn : d.mayName fn (d.fn fn).id = true) (hl : d.ctxLive fn = true) (hu : d.ctxInUse (d.fn fn).ring (d.fn fn).id = false)
include hn hl hu

theorem Dev.deleteCtx_queue (hr : (d.fn fn).ring = false) : d.deleteCtx fn
    = (((((d.setQueue (d.fn fn).id none).forgetBell (d.fn fn).id).uncacheCtx (ctxKey false (d.fn fn).id)).ctxResult fn 0).ctxChanged
        (ctxKey false (d.fn fn).id)) := by
  simp only [Dev.deleteCtx, hn, hl, hr ▸ hu, hr]
  rfl

theorem Dev.deleteCtx_ring (hr : (d.fn fn).ring = true) : d.deleteCtx fn
    = ((((d.setRing (d.fn fn).id none).uncacheCtx (ctxKey true (d.fn fn).id)).ctxResult fn 0).ctxChanged (ctxKey true (d.fn fn).id)) := by
  simp only [Dev.deleteCtx, hn, hl, hr ▸ hu, hr]
  rfl

/-- A delete takes the selected context out of its table and leaves the table of the other kind. -/
theorem Dev.ctxDone_deleteCtx : Dev.CtxDone fn (d.fn fn).id d (d.deleteCtx fn) ∧ (d.deleteCtx fn).ctxLive fn = false
    ∧ ((d.fn fn).ring = true → (d.deleteCtx fn).queue (d.fn fn).id = d.queue (d.fn fn).id)
    ∧ ((d.fn fn).ring = false → (d.deleteCtx fn).ring (d.fn fn).id = d.ring (d.fn fn).id) := by
  cases hr : (d.fn fn).ring with
  | false =>
    rw [Dev.deleteCtx_queue hn hl hu hr]
    generalize hd₁ : (d.setQueue (d.fn fn).id none).forgetBell (d.fn fn).id = d₁
    have hfns : ∀ g, d₁.fn g = d.fn g := hd₁ ▸ fun _ => rfl
    have hqueue : ∀ k, d₁.queue k = if k = (d.fn fn).id then none else d.queue k := hd₁ ▸ fun k => d.queue_setQueue (d.fn fn).id k none
    have hring : ∀ k, d₁.ring k = d.ring k := hd₁ ▸ fun _ => rfl
    have hkeep := d₁.keepsTables_uncacheCtx (ctxKey false (d.fn fn).id)
    have htell := Dev.keepsTables_ctxChanged ((d₁.uncacheCtx (ctxKey false (d.fn fn).id)).ctxResult fn 0) (ctxKey false (d.fn fn).id)
    have hfn := Dev.fn_of_steps (hfns fn) hkeep htell
    refine ⟨Dev.ctxDone_of_steps (hd₁ ▸ d.setQueue_forgetBell_only _ _) (fun k hk => ⟨(hqueue k).trans (if_neg hk), hring k⟩) hfns hkeep htell,
      ?_, nofun, fun _ => (htell.ring _).trans ((hkeep.ring _).trans (hring _))⟩
    have hid : (d.fn fn).id = ({ d.fn fn with ctxResult := 0 } : FnRegs).id := rfl
    rw [Dev.ctxLive_of_queue (by rw [hfn]; exact hr), hfn, ← hid]
    exact congrArg Option.isSome ((htell.queue _).trans ((hkeep.queue _).trans ((hqueue _).trans (if_pos rfl))))
  | true =>
    rw [Dev.deleteCtx_ring hn hl hu hr]
    generalize hd₁ : d.setRing (d.fn fn).id none = d₁
    have hfns : ∀ g, d₁.fn g = d.fn g := hd₁ ▸ fun _ => rfl
    have hqueue : ∀ k, d₁.queue k = d.queue k := hd₁ ▸ fun _ => rfl
    have hring : ∀ k, d₁.ring k = if k = (d.fn fn).id then none else d.ring k := hd₁ ▸ fun k => d.ring_setRing (d.fn fn).id k none
    have hkeep := d₁.keepsTables_uncacheCtx (ctxKey true (d.fn fn).id)
    have htell := Dev.keepsTables_ctxChanged ((d₁.uncacheCtx (ctxKey true (d.fn fn).id)).ctxResult fn 0) (ctxKey true (d.fn fn).id)
    have hfn := Dev.fn_of_steps (hfns fn) hkeep htell
    refine ⟨Dev.ctxDone_of_steps (hd₁ ▸ d.setRing_only _ _) (fun k hk => ⟨hqueue k, (hring k).trans (if_neg hk)⟩) hfns hkeep htell,
      ?_, fun _ => (htell.queue _).trans ((hkeep.queue _).trans (hqueue _)), nofun⟩
    have hid : (d.fn fn).id = ({ d.fn fn with ctxResult := 0 } : FnRegs).id := rfl
    rw [Dev.ctxLive_of_ring (by rw [hfn]; exact hr), hfn, ← hid]
    exact congrArg Option.isSome ((htell.ring _).trans ((hkeep.ring _).trans ((hring _).trans (if_pos rfl))))

end

/-! ### Read (R252) -/

theorem Dev.readCtx_unnamed (hn : d.mayName fn (d.fn fn).id = false) : d.readCtx fn = d.ctxResult fn 1 := by
  simp [Dev.readCtx, hn]

theorem Dev.readCtx_missing (hn : d.mayName fn (d.fn fn).id = true) (hl : d.ctxLive fn = false) : d.readCtx fn = d.ctxResult fn 6 := by
  cases hr : (d.fn fn).ring with
  | false =>
    have hnone : d.queue (d.fn fn).id = none := by simpa [Dev.ctxLive_of_queue hr] using hl
    simp [Dev.readCtx, hn, hr, hnone]
  | true =>
    have hnone : d.ring (d.fn fn).id = none := by simpa [Dev.ctxLive_of_ring hr] using hl
    simp [Dev.readCtx, hn, hr, hnone]

/-- The context's word in the function's data register, after the context has come into the cache. -/
def Dev.ctxTold (d : Dev) (fn : Nat) (w : BitVec 256) : Dev :=
  (d.touchCtx (ctxKey (d.fn fn).ring (d.fn fn).id)).setFn fn { d.fn fn with ctxData := w, ctxResult := 0 }

theorem Dev.readCtx_queue (hn : d.mayName fn (d.fn fn).id = true) {x : QCtx} (hr : (d.fn fn).ring = false) (hx : d.queue (d.fn fn).id = some x) :
    d.readCtx fn = d.ctxTold fn x.word := by
  simp [Dev.readCtx, Dev.ctxTold, hn, hr, hx]

theorem Dev.readCtx_ring (hn : d.mayName fn (d.fn fn).id = true) {x : RCtx} (hr : (d.fn fn).ring = true) (hx : d.ring (d.fn fn).id = some x) :
    d.readCtx fn = d.ctxTold fn x.word := by
  simp [Dev.readCtx, Dev.ctxTold, hn, hr, hx]

/-- A read changes no context. -/
theorem Dev.ctxDone_ctxTold (d : Dev) (fn : Nat) (w : BitVec 256) : Dev.CtxDone fn (d.fn fn).id d (d.ctxTold fn w)
    ∧ ((d.ctxTold fn w).fn fn).ctxData = w ∧ (∀ k, (d.ctxTold fn w).queue k = d.queue k) ∧ ∀ k, (d.ctxTold fn w).ring k = d.ring k := by
  have htouch := (d.caches_touchCtx (ctxKey (d.fn fn).ring (d.fn fn).id)).keepsTables
  have hfn : (d.ctxTold fn w).fn fn = { d.fn fn with ctxData := w, ctxResult := 0 } := (Dev.fn_setFn _ fn fn _).trans (if_pos rfl)
  refine ⟨⟨fun k _ => ⟨htouch.queue k, htouch.ring k⟩, by rw [hfn], fun g hg => ((Dev.fn_setFn _ fn g _).trans (if_neg hg)).trans (htouch.fn g), ?_⟩,
    by rw [hfn], htouch.queue, htouch.ring⟩
  exact Dev.only_mono (htouch.only.append (Dev.only_host _ _)) (by simp)

end

/-! ### Indirect reads of a cluster (R449, R450) -/

section
variable {d : Dev} {fn : Nat} {c : BitVec 9}

/-- The function's registers once an indirect read of cluster `c` has ended. -/
def FnRegs.indEnded (f : FnRegs) (c : BitVec 9) (code : BitVec 4) (data : List U64) : FnRegs :=
  { f with indCluster := c, indResult := code, indData := data }

theorem Dev.clInd_reserved (hreg : indCount (fieldNat (d.fn fn).indSel 13 8) = 0) :
    d.clInd fn c = d.setFn fn ((d.fn fn).indEnded c 3 []) := if_pos hreg

section
variable (hreg : indCount (fieldNat (d.fn fn).indSel 13 8) ≠ 0)
include hreg

theorem Dev.clInd_unreachable (h14 : fieldNat (d.fn fn).indSel 13 8 ≠ 14) (hreach : d.indReach fn c.toNat = false) :
    d.clInd fn c = (if fn = 0 then d.count DC.worldRefused else d).setFn fn ((d.fn fn).indEnded c 1 []) := by
  unfold Dev.clInd
  exact (if_neg hreg).trans (if_pos ⟨h14, by simp [hreach]⟩)

section
variable (hreach : fieldNat (d.fn fn).indSel 13 8 = 14 ∨ d.indReach fn c.toNat = true)
include hreach

theorem Dev.clInd_pastEnd (hend : fieldNat (d.fn fn).indSel 31 16 + (fieldNat (d.fn fn).indSel 34 32 + 1) > indCount (fieldNat (d.fn fn).indSel 13 8)) :
    d.clInd fn c = d.setFn fn ((d.fn fn).indEnded c 2 []) := by
  unfold Dev.clInd
  exact (if_neg hreg).trans ((if_neg fun h => hreach.elim h.1 (by simpa using h.2)).trans (if_pos hend))

theorem Dev.clInd_inRange (hend : ¬ fieldNat (d.fn fn).indSel 31 16 + (fieldNat (d.fn fn).indSel 34 32 + 1) > indCount (fieldNat (d.fn fn).indSel 13 8)) :
    d.clInd fn c = d.setFn fn ((d.fn fn).indEnded c 0 ((List.range (fieldNat (d.fn fn).indSel 34 32 + 1)).map fun i =>
      d.indRead (fieldNat (d.fn fn).indSel 13 8) c.toNat (fieldNat (d.fn fn).indSel 31 16 + i))) := by
  unfold Dev.clInd
  exact (if_neg hreg).trans ((if_neg fun h => hreach.elim h.1 (by simpa using h.2)).trans (if_neg hend))

end

end

/-- Every outcome of an indirect read is a write of the function's registers, behind at most one count. -/
theorem Dev.clInd_keeps : d.only (d.clInd fn c) [.host, .obs] ∧ ∀ g, g ≠ fn → (d.clInd fn c).fn g = d.fn g := by
  have hset : ∀ (e : Dev) (x : FnRegs), d.only e [.obs] → (∀ g, e.fn g = d.fn g) →
      d.only (e.setFn fn x) [.host, .obs] ∧ ∀ g, g ≠ fn → (e.setFn fn x).fn g = d.fn g := fun e x ho hf =>
    ⟨Dev.only_mono (ho.append (Dev.only_host _ _)) (by simp), fun g hg => ((e.fn_setFn fn g x).trans (if_neg hg)).trans (hf g)⟩
  have hsame := fun x => hset d x (d.only_refl _) fun _ => rfl
  have hcount := fun x => hset (d.count DC.worldRefused) x (d.count_only _ _) fun _ => rfl
  unfold Dev.clInd
  extract_lets f reg first n stop
  split
  · exact hsame _
  · split
    · by_cases h0 : fn = 0
      · rw [if_pos h0]
        exact hcount _
      · rw [if_neg h0]
        exact hsame _
    · split
      · exact hsame _
      · exact hsame _

end

/-! ### The obligation -/

section
variable {s : State} {fn : Nat} (hb : s.dev.bar fn = true) {post : Dev → Prop}
include hb

theorem Runs.queueCtxCreate (h : post (s.dev.createCtx fn)) : Runs (.queueCtxCreate fn) s post :=
  Runs.of_on (f := fun d => if d.bar fn then d.createCtx fn else d) rfl ((if_pos hb : (if s.dev.bar fn then _ else _) = _) ▸ h)

theorem Runs.queueCtxDelete (h : post (s.dev.deleteCtx fn)) : Runs (.queueCtxDelete fn) s post :=
  Runs.of_on (f := fun d => if d.bar fn then d.deleteCtx fn else d) rfl ((if_pos hb : (if s.dev.bar fn then _ else _) = _) ▸ h)

theorem Runs.queueCtxRead (h : post (s.dev.readCtx fn)) : Runs (.queueCtxRead fn) s post :=
  Runs.of_on (f := fun d => if d.bar fn then d.readCtx fn else d) rfl ((if_pos hb : (if s.dev.bar fn then _ else _) = _) ▸ h)

theorem Runs.clIndRead {c : BitVec 9} (h : post (s.dev.clInd fn c)) : Runs (.clIndRead fn c) s post :=
  Runs.of_on (f := fun d => if d.bar fn then d.clInd fn c else d) rfl ((if_pos hb : (if s.dev.bar fn then _ else _) = _) ▸ h)

end

/-- What an indirect read leaves, by the first check that fails. -/
theorem Dev.fn_clInd {d : Dev} {fn : Nat} {c : BitVec 9} : let f := d.fn fn
    let reg := fieldNat f.indSel 13 8
    let first := fieldNat f.indSel 31 16
    let n := fieldNat f.indSel 34 32 + 1
    (indCount reg = 0 → (d.clInd fn c).fn fn = f.indEnded c 3 [])
    ∧ (indCount reg ≠ 0 → reg ≠ 14 → d.indReach fn c.toNat = false → (d.clInd fn c).fn fn = f.indEnded c 1 []
        ∧ (fn = 0 → (d.clInd fn c).counter DC.worldRefused = d.counter DC.worldRefused + 1))
    ∧ (indCount reg ≠ 0 → (reg = 14 ∨ d.indReach fn c.toNat = true) → (d.clInd fn c).fn fn = if first + n > indCount reg then f.indEnded c 2 []
        else f.indEnded c 0 ((List.range n).map fun i => d.indRead reg c.toNat (first + i))) := by
  intro f reg first n
  have hset : ∀ (e : Dev) (x : FnRegs), (e.setFn fn x).fn fn = x := fun e x => (e.fn_setFn fn fn x).trans (if_pos rfl)
  refine ⟨fun h => ?_, fun h h14 hr => ?_, fun h hr => ?_⟩
  · rw [Dev.clInd_reserved h, hset]
  · rw [Dev.clInd_unreachable h h14 hr]
    refine ⟨hset _ _, fun h0 => ?_⟩
    rw [if_pos h0]
    exact (d.counter_count _ _ _).trans (if_pos rfl)
  · split
    next hend => rw [Dev.clInd_pastEnd h hr hend, hset]
    next hend => rw [Dev.clInd_inRange h hr hend, hset]

/-- Settles O51: each operation is one of the equations above, the refusals in the order of their checks; an operation that takes effect
leaves the tables of the other contexts, and the indirect read writes its function's registers only. -/
theorem queueContextsAreCheckedInOrder : Obligations.QueueContextsAreCheckedInOrder := by
  unfold Obligations.QueueContextsAreCheckedInOrder
  intro s fn hb f q refused others
  refine ⟨fun hn => ⟨.queueCtxCreate hb (Dev.createCtx_unnamed hn), .queueCtxDelete hb (Dev.deleteCtx_unnamed hn),
    .queueCtxRead hb (Dev.readCtx_unnamed hn)⟩, fun hn => ⟨fun hr hl => ⟨fun hok => ?_, fun hok hp hm => ?_, fun hok hp => ?_⟩,
    fun hr hl hok => ?_, fun hl => ⟨?_, fun hu => ?_, fun hu => ?_, fun x hr hx => ?_, fun x hr hx => ?_⟩, fun hl => ⟨?_, ?_⟩⟩, fun c => ?_⟩
  · exact .queueCtxCreate hb (Dev.createCtx_badField hn hr hl hok)
  · exact .queueCtxCreate hb (Dev.createCtx_noPin hn hr hl hok hp hm)
  · obtain ⟨hdone, hq, hring⟩ := s.dev.ctxDone_queueCreated fn f.id q
    have hbyte := fun hre hroom i hi => s.dev.byte_queueCreated fn (FnRegs.id_lt f) hre hroom q (i := i) hi
    rw [← Dev.createCtx_queue hn hr hl hok hp] at hdone hq hring hbyte
    exact .queueCtxCreate hb ⟨hdone.all, hq, hring, hbyte⟩
  · obtain ⟨hdone, hring, hq⟩ := s.dev.ctxDone_ringCreated fn f.id (RCtx.create f.ctxData)
    rw [← Dev.createCtx_ring hn hr hl hok] at hdone hring hq
    exact .queueCtxCreate hb ⟨hdone.all, hring, hq⟩
  · exact .queueCtxCreate hb (Dev.createCtx_live hn hl)
  · exact .queueCtxDelete hb (Dev.deleteCtx_inUse hn hl hu)
  · obtain ⟨hdone, hgone, hq, hring⟩ := Dev.ctxDone_deleteCtx hn hl hu
    exact .queueCtxDelete hb ⟨hdone.all, hgone, hq, hring⟩
  · obtain ⟨hdone, hdata, hq, _⟩ := s.dev.ctxDone_ctxTold fn x.word
    rw [← Dev.readCtx_queue hn hr hx] at hdone hdata hq
    exact .queueCtxRead hb ⟨hdone.all, hdata, (hq _).trans hx⟩
  · obtain ⟨hdone, hdata, _, hring⟩ := s.dev.ctxDone_ctxTold fn x.word
    rw [← Dev.readCtx_ring hn hr hx] at hdone hdata hring
    exact .queueCtxRead hb ⟨hdone.all, hdata, (hring _).trans hx⟩
  · exact .queueCtxDelete hb (Dev.deleteCtx_missing hn hl)
  · exact .queueCtxRead hb (Dev.readCtx_missing hn hl)
  · obtain ⟨hreserved, hfar, hnear⟩ := Dev.fn_clInd (d := s.dev) (fn := fn) (c := c)
    obtain ⟨honly, hother⟩ := Dev.clInd_keeps (d := s.dev) (fn := fn) (c := c)
    refine .clIndRead hb ⟨honly, hother, fun h => ?_, fun h h14 hr => ?_, fun h hr => ?_⟩
    · rw [hreserved h]
      exact ⟨rfl, rfl⟩
    · obtain ⟨hfn, hcount⟩ := hfar h h14 hr
      rw [hfn]
      exact ⟨rfl, rfl, hcount⟩
    · have hfn := hnear h hr
      split
      next hend =>
        rw [hfn, if_pos hend]
        exact ⟨rfl, rfl⟩
      next hend =>
        rw [hfn, if_neg hend]
        exact ⟨rfl, rfl⟩

end Sys2Proof.Machine
end

section
/-! SUPPORT. Completion entries at the primary gateway (R257, R265, R266). -/

namespace Sys2Proof.Machine

section
variable {d : Dev} {q : Nat} {w : BitVec 256} {x : QCtx} {o : Outstanding}

/-- The package once command `o` is no longer outstanding. -/
def Dev.noLonger (d : Dev) (o : Outstanding) : Dev := { d with host := { d.host with outstanding := d.host.outstanding.erase o } }

/-- The primary with no standby in sync writes the completion of an outstanding command that brings no symbol table into service. -/
theorem Dev.hostWrite_completion (hp : d.sys.primary = true) (hs : d.sys.standbySync = false)
    (ho : d.host.outstanding.find? (·.answeredBy q w) = some o) (hplain : ¬ (o.opcode = 0x41 ∧ fieldNat w 119 112 = 0)) :
    d.hostWrite (.completion q w) = (d.noLonger o).writeCompletion q w := by
  have happly : d.hostWrite (.completion q w) = d.applyHostWrite (.completion q w) := by
    unfold Dev.hostWrite
    exact (if_pos hp).trans (if_neg (by simp [hs]))
  rw [happly, Dev.applyHostWrite, ho]
  exact congrArg (fun e : Dev => (e.noLonger o).writeCompletion q w) (if_neg hplain)

/-- The primary with no standby in sync writes a host buffer at once. -/
theorem Dev.hostWrite_buffer (hp : d.sys.primary = true) (hs : d.sys.standbySync = false) (a : U64) (bs : List Byte) :
    d.hostWrite (.buffer q a bs) = d.post (.buffer (d.idFn q) a bs) := by
  unfold Dev.hostWrite
  exact (if_pos hp).trans (if_neg (by simp [hs]))

/-- The entry goes to the CQ's tail, and the context moves on (R257, R266). -/
def Dev.entryWritten (d : Dev) (q : Nat) (x : QCtx) (w : BitVec 256) : Dev :=
  (((d.touchCtx q).setQueue q (some (x.written d.now))).post (.completion q (x.cqBase + BitVec.ofNat 64 (32 * x.cqTail.toNat))
    (BitVec.ofBool x.cqPhase ++ w.extractLsb' 0 255))).count DC.cqWritten

theorem Dev.writeCompletion_eq (hx : d.queue q = some x) : d.writeCompletion q w
    = if x.irqEn ∧ (x.written d.now).unsignalled ≥ max 1 x.coalCount.toNat then (d.entryWritten q x w).signalQueue q else d.entryWritten q x w := by
  unfold Dev.writeCompletion
  rw [hx]
  rfl

end

end Sys2Proof.Machine
end

section
/-! OBLIGATION. The dump of a fired watch on the primary gateway (R252, R273, R439, R440): its completion entry uses a queue context, which on a
full cache goes in for one that goes back to the stack. -/

namespace Sys2Proof.Machine

/-! ### A context that comes into a full cache (R252; log 17) -/

theorem exists_getElem?_mod_of_mem {α : Type} {l : List α} {x : α} (h : x ∈ l) (n : Nat) : ∃ y ∈ l, l[n % l.length]? = some y := by
  have hlt : n % l.length < l.length := Nat.mod_lt _ (List.length_pos_of_mem h)
  exact ⟨l[n % l.length], List.getElem_mem hlt, List.getElem?_eq_getElem hlt⟩

section
variable {d : Dev} {key : Nat}

/-- A context that a full cache takes in sends one that is not pinned back to its place in the stack. -/
theorem Dev.stack_touchCtx_of_full (hkey : d.host.cached.contains key = false) (hfull : 16384 ≤ d.host.cached.length)
    {k₀ : Nat} (hk₀ : k₀ ∈ d.host.cached) (hfree : d.pinned k₀ = false) :
    ∃ k ∈ d.host.cached, (d.touchCtx key).stack = (d.storeCtx k).stack := by
  obtain ⟨k, hk, hget⟩ := exists_getElem?_mod_of_mem
    (List.mem_filter.2 ⟨hk₀, by simp [hfree]⟩ : k₀ ∈ d.host.cached.filter fun k => !d.pinned k) (Config.evictChoice d.fresh)
  refine ⟨k, (List.mem_filter.1 hk).1, ?_⟩
  have hcache : (d.cacheCtx key).stack = (d.storeCtx k).stack := by
    unfold Dev.cacheCtx
    extract_lets cs free
    rw [if_neg (by simpa [cs] using hkey), if_neg (Nat.not_lt.2 hfull), hget]
    rfl
  rw [Dev.touchCtx, if_neg (by simpa using hkey)]
  exact hcache

/-- Bytes of a stored context, with no block remapped. -/
theorem Dev.byte_storeCtx (hr : d.stack.remap = []) {w : BitVec 256} (hw : d.ctxWord key = some w) {i : Nat} (hi : i < 32) :
    (d.storeCtx key).byte (d.ctxAt key + i) = w.extractLsb' (8 * i) 8 := by
  refine (d.byte_stackWrite_inside (d.ctxAt key) (bytesOf ((d.ctxWord key).getD 0) 32) hr (by simpa using hi)).trans ?_
  simp [bytesOf, hw]

end

/-! ### A full cache at the primary -/

theorem SMap.get_map_of_mem {α : Type} {z v : α} {k : Nat} : ∀ {l : List Nat}, k ∈ l → SMap.get z (l.map fun q => (q, v)) k = v
  | j :: l, h => by
    rw [List.map_cons, SMap.get]
    split
    · rfl
    next hne => exact SMap.get_map_of_mem ((List.mem_cons.1 h).resolve_left fun e => hne e.symm)

/-- A queue pair's context after its first command: SQ_BASE 0x1000 and CQ_BASE 0x2000, without interrupts, not pinned. -/
def watchQueue : QCtx :=
  { sqBase := 0x1000, cqBase := 0x2000, sqLog2 := 4, cqLog2 := 4, vector := 0, irqEn := false, pin := false, coalCount := 0, coalTime := 0,
    halted := false, sqHead := 1, cqTail := 0, cqPhase := true, sqTail := 1, cqHead := 0, owed := 1, unsignalled := 0, firstUnsignalled := 0 }

/-- The origin of the WATCH command that armed the watch, in queue 16,384. -/
def watchOrigin : Origin := { queue := 16384, sqHead := 1, tag := 7, partition := 0 }

/-- A watch on a symbol that has fired with nothing captured. -/
def firedWatch : Watch :=
  { origin := watchOrigin, fromStep := 0, parts := [], fired := true, step := 0
    spec := { byAddress := false, symbol := 1, addr := { position := 0, space := 0, cluster := 0, offset := 0 }, mode := 0, n := 0, filter := false,
              handle := 0, hasRows := true, bufAddr := 0x3000, bufLen := 64 } }

/-- The WATCH command, not yet completed. -/
def watchOutstanding : Outstanding :=
  { queue := 16384, tag := 7, opcode := 0x50, partition := 0, handle := none, ring := 0, admitAddr := 0, sqHead := 1 }

/-- The primary gateway with the queue pairs `ids`, whose contexts fill the cache, with queue pair 16,384 besides, and with a fired watch of a
command of that one. -/
def fullCache (ids : List Nat) : Dev :=
  { Dev.reset with
    rst := { ResetBlk.reset with phase := .ready }
    sys := { SysBlk.reset with primary := true }
    host := { HostBlk.reset with queues := (16384 :: ids).map fun q => (q, some watchQueue), cached := ids, outstanding := [watchOutstanding] }
    obs := { ObsBlk.reset with watches := [(0, some firedWatch)] } }

/-- The completion of the WATCH command. -/
def watchCompletion : BitVec 256 := completionWord false 16384 0 0 0 0 0x50 St.success 1 0 7

/-- What the dump of a fired watch with nothing captured leaves: its header, its index free, its completion. -/
def Dev.emptyDump (d : Dev) (p w : Nat) (x : Watch) : Dev :=
  let header := bytesOf (dumpHead w x false 0 64 (d.job p).stepEndedAt) 64
  ((d.hostWrite (.buffer x.origin.queue x.spec.bufAddr header)).setWatch p w none).complete x.origin 0x50 St.success (BitVec.ofNat 32 w)

theorem exec_watchDumpWrite_of_empty {s : State} {p w : Nat} {x : Watch} (hx : s.dev.watch p w = some x) (hf : x.fired = true) (hp : x.parts = [])
    (hb : x.spec.byAddress = false) : exec (.watchDumpWrite p w) s = .next { s with dev := s.dev.emptyDump p w x } := by
  change execWatchDumpWrite p w s = _
  rw [execWatchDumpWrite, State.on_next, hx]
  simp only [hf, hp, hb]
  rfl

section
variable (ids : List Nat)

theorem fullCache_queue {k : Nat} (h : k = 16384 ∨ k ∈ ids) : (fullCache ids).queue k = some watchQueue :=
  SMap.get_map_of_mem (List.mem_cons.2 h)

/-- The package when the dump's header is in host memory, the watch's index is free and the command is no longer outstanding. -/
def dumped : Dev :=
  (((fullCache ids).post (.buffer ((fullCache ids).idFn 16384) 0x3000
    (bytesOf (dumpHead 0 firedWatch false 0 64 ((fullCache ids).job 0).stepEndedAt) 64))).setWatch 0 0 none).noLonger watchOutstanding

/-- The dump writes its completion in the package `dumped`. -/
theorem emptyDump_fullCache : (fullCache ids).emptyDump 0 0 firedWatch = (dumped ids).writeCompletion 16384 watchCompletion := by
  have hfind : [watchOutstanding].find? (·.answeredBy 16384 watchCompletion) = some watchOutstanding := by decide +kernel
  unfold Dev.emptyDump
  extract_lets header
  have hheader : (fullCache ids).hostWrite (.buffer 16384 0x3000 header) = (fullCache ids).post (.buffer ((fullCache ids).idFn 16384) 0x3000 header) :=
    Dev.hostWrite_buffer rfl rfl 0x3000 header
  refine (congrArg (fun d : Dev => (d.setWatch 0 0 none).complete watchOrigin 0x50 St.success 0) hheader).trans ?_
  exact Dev.hostWrite_completion (o := watchOutstanding) rfl rfl hfind (by decide)

theorem dumped_queue {k : Nat} (h : k = 16384 ∨ k ∈ ids) : (dumped ids).queue k = some watchQueue := fullCache_queue ids h

variable (hlen : ids.length = 16384) (hids : ∀ k ∈ ids, k < 16384)
include hlen hids

/-- The completion entry sends a context with a byte that is not 0 to the stack. -/
theorem stack_dumped_ne : ((dumped ids).writeCompletion 16384 watchCompletion).stack ≠ (fullCache ids).stack := by
  have hword : ∀ k ∈ ids, (dumped ids).ctxWord k = some watchQueue.word := fun k hk => by
    have hlt := hids k hk
    rw [Dev.ctxWord, if_pos (by omega), dumped_queue ids (.inr hk)]
    rfl
  obtain ⟨k₀, hk₀⟩ : ∃ k, k ∈ ids := List.exists_mem_of_length_pos (by omega)
  have hpinned : (dumped ids).pinned k₀ = false := by
    have hlt : k₀ < 262144 := (hids k₀ hk₀).trans (by decide)
    unfold Dev.pinned
    refine (if_pos hlt).trans ?_
    have h := dumped_queue ids (.inr hk₀)
    rw [h]
    rfl
  have hmiss : (dumped ids).host.cached.contains 16384 = false := by
    have hnot : 16384 ∉ ids := fun h => absurd (hids _ h) (by decide)
    exact (List.contains_eq_mem _ _).trans (decide_eq_false hnot)
  obtain ⟨k, hk, hstack⟩ := Dev.stack_touchCtx_of_full (d := dumped ids) hmiss hlen.ge hk₀ hpinned
  have hbyte : ((dumped ids).storeCtx k).byte ((dumped ids).ctxAt k + 1) = 0x10 := by
    rw [Dev.byte_storeCtx rfl (hword k hk) (by decide)]
    decide
  have hwrite : ((dumped ids).writeCompletion 16384 watchCompletion).stack = ((dumped ids).touchCtx 16384).stack := by
    have hirq : ¬ (watchQueue.irqEn = true ∧ (watchQueue.written (dumped ids).now).unsignalled ≥ max 1 watchQueue.coalCount.toNat) :=
      fun h => Bool.false_ne_true h.1
    rw [Dev.writeCompletion_eq (dumped_queue ids (.inl rfl)), if_neg hirq]
    rfl
  intro heq
  have hzero : ((dumped ids).storeCtx k).byte ((dumped ids).ctxAt k + 1) = 0 := by
    rw [Dev.byte, ← hstack, ← hwrite, heq]
    rfl
  rw [hbyte] at hzero
  exact absurd hzero (by decide)

end

/-- Refutes O25: its dump clause keeps the stack as it was, but at `fullCache` with queue pairs 0 to 16,383 cached the context of the completion
entry comes into a full cache, and the one it moves out is written to the stack. -/
theorem not_counterPushesAndWatchDumpsReachTheGateway : ¬ Obligations.CounterPushesAndWatchDumpsReachTheGateway := by
  unfold Obligations.CounterPushesAndWatchDumpsReachTheGateway
  rintro ⟨-, hdump⟩
  obtain ⟨ids, hlen, hids⟩ : ∃ ids : List Nat, ids.length = 16384 ∧ ∀ k ∈ ids, k < 16384 :=
    ⟨List.range 16384, List.length_range, fun _ => List.mem_range.1⟩
  let s : State := { dev := fullCache ids, pending := [] }
  obtain ⟨d', hexec, -, -, hstack, -⟩ := (hdump s 0 0 firedWatch rfl).1 rfl
  rw [exec_watchDumpWrite_of_empty (s := s) rfl rfl rfl rfl] at hexec
  have hd' : (fullCache ids).emptyDump 0 0 firedWatch = d' := by simpa [s] using hexec
  rw [← hd', emptyDump_fullCache] at hstack
  exact stack_dumped_ne ids hlen hids hstack

end Sys2Proof.Machine
end

section
/-! SUPPORT. The fields of a completion entry, and what writing one to its CQ leaves (R257, R266, R271). -/

namespace Sys2Proof.Machine

/-! ### The fields of the entry (R266) -/

theorem extractLsb'_append_low {v w : Nat} (hi : BitVec v) (lo : BitVec w) (s n : Nat) : (hi ++ lo).extractLsb' (w + s) n = hi.extractLsb' s n := by
  rw [BitVec.extractLsb'_append_eq_of_le (Nat.le_add_right w s), Nat.add_sub_cancel_left]

section
variable (ph : Bool) (q : Nat) (result : U32) (reason state : BitVec 4) (delivered : BitVec 20) (op st : Byte) (head : U16) (h : U32) (tag : U64)

theorem tag_completionWord : (completionWord ph q result reason state delivered op st head h tag).extractLsb' 0 64 = tag :=
  BitVec.extractLsb'_append_eq_right

theorem above_completionWord (s n : Nat) : (completionWord ph q result reason state delivered op st head h tag).extractLsb' (112 + s) n
    = (BitVec.ofBool ph ++ (0 : BitVec 45) ++ BitVec.ofNat 18 q ++ result ++ (0 : BitVec 4) ++ reason ++ state ++ delivered ++ op ++ st).extractLsb' s n := by
  unfold completionWord
  rw [show 112 + s = 64 + (32 + (16 + s)) by omega]
  exact (extractLsb'_append_low _ tag _ n).trans ((extractLsb'_append_low _ h _ n).trans (extractLsb'_append_low _ head _ n))

theorem head_completionWord : (completionWord ph q result reason state delivered op st head h tag).extractLsb' 96 16 = head :=
  (extractLsb'_append_low _ tag 32 16).trans ((extractLsb'_append_low _ h 0 16).trans BitVec.extractLsb'_append_eq_right)

theorem status_completionWord : (completionWord ph q result reason state delivered op st head h tag).extractLsb' 112 8 = st :=
  (above_completionWord ph q result reason state delivered op st head h tag 0 8).trans BitVec.extractLsb'_append_eq_right

theorem opcode_completionWord : (completionWord ph q result reason state delivered op st head h tag).extractLsb' 120 8 = op :=
  (above_completionWord ph q result reason state delivered op st head h tag 8 8).trans
    ((extractLsb'_append_low _ st 0 8).trans BitVec.extractLsb'_append_eq_right)

theorem state_completionWord : (completionWord ph q result reason state delivered op st head h tag).extractLsb' 148 4 = state :=
  (above_completionWord ph q result reason state delivered op st head h tag 36 4).trans ((extractLsb'_append_low _ st 28 4).trans
    ((extractLsb'_append_low _ op 20 4).trans ((extractLsb'_append_low _ delivered 0 4).trans BitVec.extractLsb'_append_eq_right)))

end

/-- The gateway gives the entry its phase bit and leaves the fields below it. -/
theorem extractLsb'_phased (ph : Bool) (w : BitVec 256) {s n : Nat} (h : s + n ≤ 255) :
    (BitVec.ofBool ph ++ w.extractLsb' 0 255).extractLsb' s n = w.extractLsb' s n := by
  rw [BitVec.extractLsb'_append_eq_of_add_le h]
  ext i hi
  have hlt : s + i < 255 := by omega
  simp [hlt]

/-! ### What the cache leaves -/

section
variable {d d₁ : Dev}

theorem Dev.Caches.outstanding (h : Dev.Caches d d₁) : d₁.host.outstanding = d.host.outstanding := by
  obtain ⟨c, e⟩ := h.host
  rw [e]

theorem Dev.Caches.writes (h : Dev.Caches d d₁) : d₁.host.writes = d.host.writes := by
  obtain ⟨c, e⟩ := h.host
  rw [e]

theorem Dev.Caches.reads (h : Dev.Caches d d₁) : d₁.host.reads = d.host.reads := by
  obtain ⟨c, e⟩ := h.host
  rw [e]

theorem Dev.Caches.sent (h : Dev.Caches d d₁) : d₁.host.sent = d.host.sent := by
  obtain ⟨c, e⟩ := h.host
  rw [e]

theorem Dev.Caches.rings (h : Dev.Caches d d₁) : d₁.host.rings = d.host.rings := by
  obtain ⟨c, e⟩ := h.host
  rw [e]

theorem Dev.Caches.doorbells (h : Dev.Caches d d₁) : d₁.host.doorbells = d.host.doorbells := by
  obtain ⟨c, e⟩ := h.host
  rw [e]

theorem Dev.Caches.regions (h : Dev.Caches d d₁) : d₁.stack.regions = d.stack.regions := by
  obtain ⟨m, e⟩ := h.stack
  rw [e]

end

/-! ### A signal, and an entry written to its CQ (R257, R266, R271) -/

/-- What a signal may change: the pair's count of entries not signalled, a function's pending bits, and the writes to host memory. -/
structure Dev.Signals (q : Nat) (d d' : Dev) : Prop where
  only : d.only d' [.host, .obs]
  queue : ∀ x, d.queue q = some x → ∃ u, d'.queue q = some { x with unsignalled := u }
  outstanding : d'.host.outstanding = d.host.outstanding
  writes : ∃ rest, d'.host.writes = d.host.writes ++ rest
  counter : ∀ n, n ≠ DC.msixSent → d'.counter n = d.counter n

section
variable {d d₁ d₂ : Dev} {q : Nat} {x : QCtx}

theorem Dev.Signals.refl : Dev.Signals q d d :=
  ⟨d.only_refl _, fun x hx => ⟨x.unsignalled, hx⟩, rfl, ⟨[], (List.append_nil _).symm⟩, fun _ _ => rfl⟩

theorem Dev.Signals.trans (h₁ : Dev.Signals q d d₁) (h₂ : Dev.Signals q d₁ d₂) : Dev.Signals q d d₂ := by
  refine ⟨Dev.only_trans h₁.only h₂.only, fun x hx => ?_, h₂.outstanding.trans h₁.outstanding, ?_,
    fun n hn => (h₂.counter n hn).trans (h₁.counter n hn)⟩
  · obtain ⟨u, hu⟩ := h₁.queue x hx
    obtain ⟨v, hv⟩ := h₂.queue { x with unsignalled := u } hu
    exact ⟨v, hv⟩
  · obtain ⟨r₁, e₁⟩ := h₁.writes
    obtain ⟨r₂, e₂⟩ := h₂.writes
    exact ⟨r₁ ++ r₂, by rw [e₂, e₁, List.append_assoc]⟩

theorem Dev.queue_msix (d : Dev) (fn : Nat) (v : BitVec 11) (k : Nat) : (d.msix fn v).queue k = d.queue k := by
  obtain ⟨x, e⟩ | ⟨w, e⟩ := d.msix_cases fn v <;> rw [e] <;> rfl

theorem Dev.signals_msix (d : Dev) (q fn : Nat) (v : BitVec 11) : Dev.Signals q d (d.msix fn v) where
  only := d.msix_only fn v
  queue := fun x hx => ⟨x.unsignalled, (d.queue_msix fn v q).trans hx⟩
  outstanding := by obtain ⟨x, e⟩ | ⟨w, e⟩ := d.msix_cases fn v <;> rw [e] <;> rfl
  writes := by
    obtain ⟨x, e⟩ | ⟨w, e⟩ := d.msix_cases fn v
    · exact ⟨[], by rw [e, List.append_nil]; rfl⟩
    · exact ⟨[w], by rw [e]; rfl⟩
  counter := fun _ hn => d.counter_msix fn v hn

theorem Dev.signals_unsignalled (hx : d.queue q = some x) (u : Nat) : Dev.Signals q d (d.setQueue q (some { x with unsignalled := u })) where
  only := Dev.only_mono (d.only_host _) (by simp)
  queue := fun y hy => ⟨u, by rw [Dev.queue_setQueue, if_pos rfl, Option.some.inj (hx.symm.trans hy)]⟩
  outstanding := rfl
  writes := ⟨[], (List.append_nil _).symm⟩
  counter := fun _ _ => rfl

theorem Dev.signalQueue_eq (hx : d.queue q = some x) (hu : x.unsignalled ≠ 0) :
    d.signalQueue q = (d.setQueue q (some { x with unsignalled := 0 })).msix (d.idFn q) x.vector := by
  unfold Dev.signalQueue
  rw [hx]
  exact if_neg hu

theorem Dev.signals_signalQueue (hx : d.queue q = some x) : Dev.Signals q d (d.signalQueue q) := by
  by_cases hu : x.unsignalled = 0
  · have hsame : d.signalQueue q = d := by
      unfold Dev.signalQueue
      rw [hx]
      exact if_pos hu
    rw [hsame]
    exact .refl
  · rw [Dev.signalQueue_eq hx hu]
    exact (Dev.signals_unsignalled hx 0).trans (Dev.signals_msix _ q _ _)

end

/-- What counts an entry that is written. -/
def entryCounters : List Nat := [DC.qctxMiss, DC.cqWritten, DC.msixSent]

/-- An entry `w` of queue pair `q` is in host memory at an address in its CQ, and the pair, whose context was `x`, owes one less. -/
structure Dev.Completed (q : Nat) (x : QCtx) (w : BitVec 256) (d d' : Dev) : Prop where
  only : d.only d' [.host, .obs, .fresh, .stack]
  queue : ∃ y, d'.queue q = some y ∧ y.sqHead = x.sqHead ∧ y.owed = x.owed - 1
  outstanding : d'.host.outstanding = d.host.outstanding
  writes : ∃ a ph rest, d'.host.writes = d.host.writes ++ .completion q a (BitVec.ofBool ph ++ w.extractLsb' 0 255) :: rest
  counter : ∀ n, n ∉ entryCounters → d'.counter n = d.counter n

section
variable {d : Dev} {q : Nat} {x : QCtx}

theorem Dev.completed_writeCompletion (hx : d.queue q = some x) (w : BitVec 256) : Dev.Completed q x w d (d.writeCompletion q w) := by
  have htouch := d.caches_touchCtx q
  have hqueue : (d.entryWritten q x w).queue q = some (x.written d.now) :=
    Eq.trans (b := ((d.touchCtx q).setQueue q (some (x.written d.now))).queue q) rfl ((Dev.queue_setQueue _ _ _ _).trans (if_pos rfl))
  have honly : d.only (d.entryWritten q x w) [.host, .obs, .fresh, .stack] :=
    Dev.only_mono ((htouch.only.append (Dev.only_host _ _)).append ((Dev.only_host _ _).append (Dev.count_only _ _ _))) (by simp)
  have hout : (d.entryWritten q x w).host.outstanding = d.host.outstanding := htouch.outstanding
  have hwrites : (d.entryWritten q x w).host.writes = d.host.writes ++ [.completion q (x.cqBase + BitVec.ofNat 64 (32 * x.cqTail.toNat))
      (BitVec.ofBool x.cqPhase ++ w.extractLsb' 0 255)] := congrArg (· ++ [_]) htouch.writes
  have hcount : ∀ n, n ∉ entryCounters → (d.entryWritten q x w).counter n = d.counter n := fun n hn => by
    simp only [entryCounters, List.mem_cons, List.not_mem_nil, or_false, not_or] at hn
    exact (Dev.counter_count _ _ _ _).trans ((if_neg hn.2.1).trans (htouch.counter n hn.1))
  rw [Dev.writeCompletion_eq hx]
  split
  · have hsig := Dev.signals_signalQueue hqueue
    obtain ⟨u, hu⟩ := hsig.queue _ hqueue
    obtain ⟨rest, hrest⟩ := hsig.writes
    exact ⟨Dev.only_mono (honly.append hsig.only) (by simp), ⟨_, hu, rfl, rfl⟩, hsig.outstanding.trans hout,
      ⟨_, _, rest, by rw [hrest, hwrites, List.append_assoc]; rfl⟩,
      fun n hn => (hsig.counter n fun h => hn (by simp [entryCounters, h])).trans (hcount n hn)⟩
  · exact ⟨honly, ⟨_, hqueue, rfl, rfl⟩, hout, ⟨_, _, [], hwrites⟩, hcount⟩

end

/-! ### The completion of a command (R265, R266) -/

/-- The entry that completes a command naming no request, or one that is refused. -/
def completionOf (o : Origin) (op st : Byte) (result : U32) : BitVec 256 :=
  completionWord false o.queue result 0 0 0 op st o.sqHead 0 o.tag

/-- A command of `o` that has not been admitted is answered by its completion. -/
theorem Outstanding.answeredBy_completionOf {y : Outstanding} {o : Origin} (hq : y.queue = o.queue) (ht : y.tag = o.tag) (hh : y.sqHead = o.sqHead)
    (hn : y.handle = none) (st : Byte) (result : U32) : y.answeredBy o.queue (completionOf o y.opcode st result) = true := by
  have hstate : fieldNat (completionOf o y.opcode st result) 151 148 = 0 :=
    congrArg BitVec.toNat (state_completionWord false o.queue result 0 0 0 y.opcode st o.sqHead 0 o.tag)
  have htag : (completionOf o y.opcode st result).extractLsb' 0 64 = o.tag := tag_completionWord ..
  have hhead : (completionOf o y.opcode st result).extractLsb' 96 16 = o.sqHead := head_completionWord ..
  have hop : (completionOf o y.opcode st result).extractLsb' 120 8 = y.opcode := opcode_completionWord ..
  simp [Outstanding.answeredBy, hq, ht, hh, hn, hstate, htag, hhead, hop]

theorem fieldNat_status_completionOf (o : Origin) (op st : Byte) (result : U32) : fieldNat (completionOf o op st result) 119 112 = st.toNat :=
  congrArg BitVec.toNat (status_completionWord false o.queue result 0 0 0 op st o.sqHead 0 o.tag)

/-- On the primary with no standby in sync a refused command's entry is written, and one command is outstanding no longer. -/
theorem Dev.completed_refusal {d : Dev} {o : Origin} {x : QCtx} {y : Outstanding} {st : Byte} (hp : d.sys.primary = true)
    (hs : d.sys.standbySync = false) (hx : d.queue o.queue = some x) (hy : y ∈ d.host.outstanding) (hq : y.queue = o.queue) (ht : y.tag = o.tag)
    (hh : y.sqHead = o.sqHead) (hn : y.handle = none) (hst : st ≠ 0) (result : U32) : ∃ z ∈ d.host.outstanding,
    Dev.Completed o.queue x (completionOf o y.opcode st result) (d.noLonger z) (d.complete o y.opcode st result) := by
  have hfound : (d.host.outstanding.find? (·.answeredBy o.queue (completionOf o y.opcode st result))).isSome :=
    List.find?_isSome.2 ⟨y, hy, Outstanding.answeredBy_completionOf hq ht hh hn st result⟩
  obtain ⟨z, hz⟩ := Option.isSome_iff_exists.1 hfound
  have hplain : ¬ (z.opcode = 0x41 ∧ fieldNat (completionOf o y.opcode st result) 119 112 = 0) := fun h =>
    hst (BitVec.eq_of_toNat_eq ((fieldNat_status_completionOf o y.opcode st result).symm.trans h.2))
  have hdone : d.complete o y.opcode st result = (d.noLonger z).writeCompletion o.queue (completionOf o y.opcode st result) :=
    Dev.hostWrite_completion hp hs hz hplain
  rw [hdone]
  exact ⟨z, List.mem_of_find?_eq_some hz, Dev.completed_writeCompletion (d := d.noLonger z) hx _⟩

end Sys2Proof.Machine
end

section
/-! OBLIGATION. Doorbells, submission entries, the coalescing timer and host writes received (R244, R255 to R257, R262, R264, R265, R268, R271, R296). -/

namespace Sys2Proof.Machine

/-! ### What the checks of an entry read (R262, R264, R265) -/

theorem Dev.eq_beside_of_only {d e : Dev} (h : d.only e [.host, .obs, .fresh, .stack]) :
    e = { d with host := e.host, obs := e.obs, fresh := e.fresh, stack := e.stack } := by
  have hrst := h .rst (by simp)
  have hglob := h .glob (by simp)
  have hsys := h .sys (by simp)
  have hlink := h .link (by simp)
  have hserve := h .serve (by simp)
  have harray := h .array (by simp)
  have hengine := h .engine (by simp)
  have hpower := h .power (by simp)
  have hpart := h .part (by simp)
  have hledger := h .ledger (by simp)
  have hsec := h .sec (by simp)
  cases e
  simp only [Dev.same] at *
  subst_vars
  rfl

/-- What an entry is checked against: nothing of it is in a queue pair's context, the cache, the bytes of the stack or a counter. -/
structure Dev.SameRules (d e : Dev) : Prop where
  owner : e.idOwner = d.idOwner
  check : e.sqCheck = d.sqCheck
  stopped : e.stoppedResult = d.stoppedResult
  targets : e.sqTargets = d.sqTargets

theorem Dev.sameRules {d e : Dev} (h : d.only e [.host, .obs, .fresh, .stack]) (hr : e.host.rings = d.host.rings)
    (hs : e.stack.regions = d.stack.regions) : Dev.SameRules d e := by
  rw [Dev.eq_beside_of_only h]
  generalize e.host = host at hr ⊢
  generalize e.stack = stack at hs ⊢
  cases host
  cases stack
  simp only at hr hs
  subst hr hs
  exact ⟨rfl, rfl, rfl, rfl⟩

/-! ### An entry is fetched (R244, R257) -/

/-- The context once its next entry is fetched: the head moves on, and a completion is owed. -/
def QCtx.fetched (x : QCtx) : QCtx := { x with sqHead := BitVec.ofNat 16 ((x.sqHead.toNat + 1) % 2 ^ x.sqLog2), owed := x.owed + 1 }

/-- The read of the entry, with the requester ID of the pair's function. -/
def Dev.entryRead (d : Dev) (q : Nat) (x : QCtx) : HostRead := { fn := d.idFn q, addr := x.sqBase + BitVec.ofNat 64 (64 * x.sqHead.toNat), length := 64 }

/-- The package once the entry has been asked for. -/
def Dev.fetching (d : Dev) (q : Nat) (x : QCtx) : Dev :=
  (((d.touchCtx q).setQueue q (some x.fetched)).count DC.sqFetched).readHost (d.entryRead q x).fn (d.entryRead q x).addr (d.entryRead q x).length

/-- The fetch of an entry of pair `q`, whose context was `x`. -/
structure Dev.Fetches (q : Nat) (x : QCtx) (d e : Dev) : Prop where
  only : d.only e [.host, .obs, .fresh, .stack]
  queue : e.queue q = some x.fetched
  rules : Dev.SameRules d e
  outstanding : e.host.outstanding = d.host.outstanding
  writes : e.host.writes = d.host.writes
  sent : e.host.sent = d.host.sent
  reads : e.host.reads = d.host.reads ++ [d.entryRead q x]
  fetched : e.counter DC.sqFetched = d.counter DC.sqFetched + 1
  refused : e.counter DC.sqRefused = d.counter DC.sqRefused

theorem Dev.fetches (d : Dev) (q : Nat) (x : QCtx) : Dev.Fetches q x d (d.fetching q x) := by
  have htouch := d.caches_touchCtx q
  have honly : d.only (d.fetching q x) [.host, .obs, .fresh, .stack] :=
    Dev.only_mono ((htouch.only.append (Dev.only_host _ _)).append ((Dev.count_only _ DC.sqFetched 1).append (Dev.only_host _ _))) (by simp)
  have hcount : ∀ n, (d.fetching q x).counter n = if n = DC.sqFetched then (d.touchCtx q).counter DC.sqFetched + BitVec.ofNat 64 1
      else (d.touchCtx q).counter n := fun n => ((d.touchCtx q).setQueue q (some x.fetched)).counter_count DC.sqFetched 1 n
  refine ⟨honly, ?_, Dev.sameRules honly ?_ ?_, ?_, ?_, ?_, ?_, ?_, ?_⟩
  · exact Eq.trans (b := ((d.touchCtx q).setQueue q (some x.fetched)).queue q) rfl ((Dev.queue_setQueue _ _ _ _).trans (if_pos rfl))
  · exact htouch.rings
  · exact htouch.regions
  · exact htouch.outstanding
  · exact htouch.writes
  · exact htouch.sent
  · exact congrArg (· ++ [d.entryRead q x]) htouch.reads
  · exact (hcount _).trans ((if_pos rfl).trans (congrArg (· + 1) (htouch.counter _ (by decide))))
  · exact (hcount _).trans ((if_neg (by decide)).trans (htouch.counter _ (by decide)))

/-- The gateway may fetch from pair `q`, whose context is `x`, and has no standby in sync. -/
structure Dev.MayFetch (d : Dev) (q : Nat) (x : QCtx) : Prop where
  queue : d.queue q = some x
  hostOn : d.hostOn = true
  ideOk : d.ideOk = true
  primary : d.sys.primary = true
  alone : d.sys.standbySync = false
  mayFetch : x.mayFetch = true
  turn : x.pin = true ∨ d.pinnedFirst = false

section
variable {d : Dev} {s : State} {q : Nat} {x : QCtx}

theorem Dev.idFn_touched (d : Dev) (q : Nat) (x : QCtx) : (((d.touchCtx q).setQueue q (some x.fetched)).count DC.sqFetched).idFn q = d.idFn q := by
  have howner : ((d.touchCtx q).setQueue q (some x.fetched)).idOwner = d.idOwner :=
    (Dev.sameRules (Dev.only_trans (d.caches_touchCtx q).only (Dev.only_mono (Dev.only_host _ _) (by simp))) (d.caches_touchCtx q).rings
      (d.caches_touchCtx q).regions).owner
  exact congrArg (fun f : Nat → Option Nat => match f q with | some p => p + 1 | none => 0) howner

/-- SQ_FETCH where the pair may fetch: what host memory answers decides between the two ways on. -/
theorem exec_sqFetch (h : s.dev.MayFetch q x) (entry : Option (BitVec 512)) (cmd : Option FwdBody) : exec (.sqFetch q entry cmd) s
    = .next { s with dev := (entry.elim ((s.dev.fetching q x).unreadEntry q x.fetched.sqHead)
        (fun e => (s.dev.fetching q x).takeEntry q x.fetched.sqHead e cmd)) } := by
  have hcond : (s.dev.hostOn && s.dev.ideOk && s.dev.sys.primary && x.mayFetch && (x.pin || !s.dev.pinnedFirst)) = true := by
    simpa [h.hostOn, h.ideOk, h.primary, h.mayFetch] using h.turn
  have halone : (s.dev.fetching q x).ctxChanged q = s.dev.fetching q x :=
    Dev.ctxChanged_of_alone ((congrArg SysBlk.standbySync ((s.dev.fetches q x).only .sys (by simp))).trans h.alone) q
  have hread : ((((s.dev.touchCtx q).setQueue q (some x.fetched)).count DC.sqFetched).readHost
      ((((s.dev.touchCtx q).setQueue q (some x.fetched)).count DC.sqFetched).idFn q) (x.sqBase + BitVec.ofNat 64 (64 * x.sqHead.toNat)) 64)
      = s.dev.fetching q x := by
    rw [Dev.idFn_touched]
    rfl
  change execSqFetch q entry cmd s = _
  rw [execSqFetch, State.on_next, h.queue]
  refine congrArg (fun d : Dev => (Host.Outcome.next { s with dev := d } : Out)) ((if_pos hcond).trans ?_)
  cases entry with
  | none => exact congrArg (fun d : Dev => d.unreadEntry q x.fetched.sqHead) ((congrArg (Dev.ctxChanged · q) hread).trans halone)
  | some e => exact congrArg (fun d : Dev => d.takeEntry q x.fetched.sqHead e cmd) ((congrArg (Dev.ctxChanged · q) hread).trans halone)

/-- A pair that may not fetch, or that waits for a pinned one, stays as it was. -/
theorem exec_sqFetch_waits (hq : s.dev.queue q = some x) (h : x.mayFetch = false ∨ (x.pin = false ∧ s.dev.pinnedFirst = true))
    (entry : Option (BitVec 512)) (cmd : Option FwdBody) : exec (.sqFetch q entry cmd) s = .next s := by
  have hcond : ¬ (s.dev.hostOn && s.dev.ideOk && s.dev.sys.primary && x.mayFetch && (x.pin || !s.dev.pinnedFirst)) = true := by
    rcases h with h | ⟨hp, hf⟩
    · simp [h]
    · simp [hp, hf]
  change execSqFetch q entry cmd s = _
  rw [execSqFetch, State.on_next, hq]
  exact congrArg (fun d : Dev => (Host.Outcome.next { s with dev := d } : Out)) (if_neg hcond)

end

/-! ### An entry that is refused, and one that is forwarded (R262, R264, R265) -/

/-- Partition of a command that came in queue `q`. -/
def Dev.entryPart (d : Dev) (q : Nat) (e : BitVec 512) : Nat := (d.idOwner q).getD (fieldNat e 21 16)

def Dev.entryOrigin (d : Dev) (q : Nat) (head : U16) (e : BitVec 512) : Origin :=
  { queue := q, sqHead := head, tag := e.extractLsb' 64 64, partition := d.entryPart q e }

/-- The command as the gateway keeps it until its completion passes (R265). -/
def Dev.entryCommand (d : Dev) (q : Nat) (head : U16) (e : BitVec 512) : Outstanding :=
  { queue := q, tag := e.extractLsb' 64 64, opcode := sqOp e, partition := d.entryPart q e, handle := none,
    ring := if sqOp e = 0x01 then fieldNat e 369 352 else 0, admitAddr := if sqOp e = 0x01 then e.extractLsb' 448 64 else 0, sqHead := head }

/-- An entry that host memory could not be read for has no TAG and no opcode. -/
def Dev.unreadOrigin (d : Dev) (q : Nat) (head : U16) : Origin := { queue := q, sqHead := head, tag := 0, partition := (d.idOwner q).getD 0 }
def Dev.unreadCommand (d : Dev) (q : Nat) (head : U16) : Outstanding :=
  { queue := q, tag := 0, opcode := 0, partition := (d.idOwner q).getD 0, handle := none, ring := 0, admitAddr := 0, sqHead := head }

def Dev.issue (d : Dev) (y : Outstanding) : Dev := { d with host := { d.host with outstanding := d.host.outstanding ++ [y] } }

section
variable (d : Dev) (q : Nat) (head : U16)

theorem Dev.unreadEntry_eq : d.unreadEntry q head
    = ((d.issue (d.unreadCommand q head)).complete (d.unreadOrigin q head) 0 St.hostReadError 0).count DC.sqRefused := rfl

theorem Dev.sameRules_issue (y : Outstanding) : Dev.SameRules d (d.issue y) :=
  Dev.sameRules (Dev.only_mono (d.only_host _) (by simp)) rfl rfl

variable {d q head} {e : BitVec 512} {mem : Option FwdBody}

theorem Dev.takeEntry_refused {st : Byte} (h : d.sqCheck (d.idOwner q).isSome (d.entryPart q e) e = some st) : d.takeEntry q head e mem
    = ((d.issue (d.entryCommand q head e)).complete (d.entryOrigin q head e) (sqOp e) st 0).count DC.sqRefused := by
  have hcheck : (d.issue (d.entryCommand q head e)).sqCheck (d.idOwner q).isSome (d.entryPart q e) e = some st := by
    rw [(d.sameRules_issue _).check, h]
  unfold Dev.takeEntry
  extract_lets vf p op o x busy src d₁
  have h₁ : d₁.sqCheck vf p e = some st := hcheck
  rw [h₁]
  rfl

theorem Dev.takeEntry_forwarded {c : FwdBody} (h : d.sqCheck (d.idOwner q).isSome (d.entryPart q e) e = none)
    (hs : d.stoppedResult (d.entryPart q e) e = none) (hc : sqBody e mem = some c)
    (hbusy : (sqOp e = 0x40 ∨ sqOp e = 0x41) → ∀ y ∈ d.host.outstanding, y.partition = d.entryPart q e → y.opcode ≠ 0x40 ∧ y.opcode ≠ 0x41) :
    d.takeEntry q head e mem = ((d.issue (d.entryCommand q head e)).readTables q e).forAll
      (((d.issue (d.entryCommand q head e)).readTables q e).sqTargets (d.entryPart q e) e c) fun d' pos => d'.forwardTo pos ⟨d.entryOrigin q head e, c⟩ := by
  have hcheck : (d.issue (d.entryCommand q head e)).sqCheck (d.idOwner q).isSome (d.entryPart q e) e = none := by
    rw [(d.sameRules_issue _).check, h]
  have hstopped : (d.issue (d.entryCommand q head e)).stoppedResult (d.entryPart q e) e = none := by
    rw [(d.sameRules_issue _).stopped, hs]
  unfold Dev.takeEntry
  extract_lets vf p op o x busy src d₁
  have h₁ : d₁.sqCheck vf p e = none := hcheck
  have h₂ : d₁.stoppedResult p e = none := hstopped
  have hfree : ¬ ((op == 0x40 || op == 0x41) && busy) = true := by
    intro h
    obtain ⟨hop, hany⟩ := Bool.and_eq_true_iff.1 h
    obtain ⟨y, hy, hsame⟩ := List.any_eq_true.1 hany
    simp only [Bool.and_eq_true, Bool.or_eq_true, beq_iff_eq] at hop hsame
    obtain ⟨h40, h41⟩ := hbusy hop y hy hsame.1
    exact hsame.2.elim h40 h41
  rw [h₁, h₂, hc]
  exact if_neg hfree

end

/-- A refused entry's command is over: the head has moved on, the completion with the status and the TAG is in host memory, the credit is
returned, and as many commands are outstanding as before. -/
structure Dev.EntryEnded (q : Nat) (x : QCtx) (st : Byte) (tag : U64) (d d' : Dev) : Prop where
  only : d.only d' [.host, .obs, .fresh, .stack]
  queue : ∃ y, d'.queue q = some y ∧ y.sqHead = x.fetched.sqHead ∧ y.owed = x.owed
  outstanding : d'.host.outstanding.length = d.host.outstanding.length
  writes : ∃ a w rest, d'.host.writes = d.host.writes ++ .completion q a w :: rest ∧ w.extractLsb' 112 8 = st ∧ w.extractLsb' 0 64 = tag
  fetched : d'.counter DC.sqFetched = d.counter DC.sqFetched + 1
  refused : d'.counter DC.sqRefused = d.counter DC.sqRefused + 1

section
variable {d e : Dev} {q : Nat} {x : QCtx} {y : Outstanding} {o : Origin} {st : Byte}

/-- A fetched entry that is refused is over. -/
theorem Dev.entryEnded_of_refusal (hf : Dev.Fetches q x d e) (hp : d.sys.primary = true) (hs : d.sys.standbySync = false) (ho : o.queue = q)
    (hq : y.queue = o.queue) (ht : y.tag = o.tag) (hh : y.sqHead = o.sqHead) (hn : y.handle = none) (hst : st ≠ 0) :
    Dev.EntryEnded q x st o.tag d (((e.issue y).complete o y.opcode st 0).count DC.sqRefused) := by
  subst ho
  have hsys : e.sys = d.sys := hf.only .sys (by simp)
  obtain ⟨z, hz, hdone⟩ := Dev.completed_refusal (d := e.issue y) (o := o) ((congrArg SysBlk.primary hsys).trans hp)
    ((congrArg SysBlk.standbySync hsys).trans hs) hf.queue (List.mem_append_right _ (List.mem_singleton_self y)) hq ht hh hn hst 0
  obtain ⟨u, hu, hhead, howed⟩ := hdone.queue
  obtain ⟨a, ph, rest, hw⟩ := hdone.writes
  have honly : d.only ((e.issue y).noLonger z) [.host, .obs, .fresh, .stack] :=
    Dev.only_mono (hf.only.append ((e.only_host _).append (Dev.only_host _ _))) (by simp)
  have hcount : ∀ n, n ∉ entryCounters → (((e.issue y).complete o y.opcode st 0).count DC.sqRefused).counter n
      = if n = DC.sqRefused then e.counter DC.sqRefused + BitVec.ofNat 64 1 else e.counter n := fun n hn => by
    refine (Dev.counter_count _ _ _ _).trans ?_
    rw [hdone.counter n hn, hdone.counter DC.sqRefused (by decide)]
    rfl
  refine ⟨Dev.only_mono ((honly.append hdone.only).append (Dev.count_only _ _ _)) (by simp), ⟨u, hu, hhead, ?_⟩, ?_,
    ⟨a, _, rest, hw.trans (by rw [← hf.writes]; rfl), ?_, ?_⟩, ?_, ?_⟩
  · rw [howed]
    exact Nat.add_sub_cancel x.owed 1
  · have hlen : (e.issue y).host.outstanding.length = d.host.outstanding.length + 1 := by
      rw [← hf.outstanding]
      exact List.length_append
    have herase : ((e.issue y).noLonger z).host.outstanding.length = (e.issue y).host.outstanding.length - 1 := List.length_erase_of_mem hz
    have hsame : (((e.issue y).complete o y.opcode st 0).count DC.sqRefused).host.outstanding = ((e.issue y).noLonger z).host.outstanding :=
      hdone.outstanding
    rw [hsame, herase, hlen, Nat.add_sub_cancel]
  · rw [extractLsb'_phased _ _ (by decide)]
    exact status_completionWord ..
  · rw [extractLsb'_phased _ _ (by decide)]
    exact tag_completionWord ..
  · rw [hcount _ (by decide), if_neg (by decide), hf.fetched]
  · rw [hcount _ (by decide), if_pos rfl, hf.refused]
    rfl

end

section
variable {d : Dev}

theorem Dev.sqCheck_ne_success {vf : Bool} {p : Nat} {e : BitVec 512} {st : Byte} (h : d.sqCheck vf p e = some st) : st ≠ 0 := by
  unfold Dev.sqCheck at h
  split at h
  · exact Option.some.inj h ▸ by decide
  · split at h
    · exact Option.some.inj h ▸ by decide
    · split at h
      · exact Option.some.inj h ▸ by decide
      · split at h
        · exact Option.some.inj h ▸ by decide
        · split at h
          · exact Option.some.inj h ▸ by decide
          · cases h

theorem Dev.forAll_forwardTo {c : FwdCmd} {l : List Nat} (hs : d.sys.standbySync = false) (hl : d.sys.position ∉ l) :
    (d.forAll l fun d pos => d.forwardTo pos c) = d.forAll l fun d pos => d.send (.command pos c) := by
  induction l generalizing d with
  | nil => rfl
  | cons pos l ih =>
    obtain ⟨hpos, hrest⟩ := not_or.1 (mt List.mem_cons.2 hl)
    have hone : d.forwardTo pos c = d.send (.command pos c) := by
      unfold Dev.forwardTo
      refine (if_neg (by simp [hs])).trans ?_
      exact if_neg fun h => hpos h.symm
    rw [Dev.forAll_cons, Dev.forAll_cons, hone]
    exact ih (d := d.send (.command pos c)) hs hrest

/-- The table that an entry names is read, and nothing else happens. -/
theorem Dev.readTables_cases (d : Dev) (q : Nat) (e : BitVec 512) :
    d.readTables q e = d ∨ ∃ r : HostRead, d.readTables q e = d.readHost r.fn r.addr r.length := by
  unfold Dev.readTables
  split
  · exact .inr ⟨⟨_, _, _⟩, rfl⟩
  · exact .inr ⟨⟨_, _, _⟩, rfl⟩
  · exact .inr ⟨⟨_, _, _⟩, rfl⟩
  · exact .inl rfl

/-- Reads of host memory may have been asked for; nothing else. -/
structure Dev.Asks (d d' : Dev) : Prop where
  only : d.only d' [.host]
  rules : Dev.SameRules d d'
  queue : ∀ k, d'.queue k = d.queue k
  outstanding : d'.host.outstanding = d.host.outstanding
  sent : d'.host.sent = d.host.sent
  reads : ∃ l, d'.host.reads = d.host.reads ++ l

theorem Dev.asks_readTables (d : Dev) (q : Nat) (e : BitVec 512) : Dev.Asks d (d.readTables q e) := by
  have hrules := fun (x : HostBlk) (h : x.rings = d.host.rings) => Dev.sameRules (e := { d with host := x }) (Dev.only_mono (d.only_host x) (by simp)) h rfl
  obtain h | ⟨r, h⟩ := d.readTables_cases q e
  · rw [h]
    exact ⟨d.only_refl _, hrules d.host rfl, fun _ => rfl, rfl, rfl, ⟨[], (List.append_nil _).symm⟩⟩
  · rw [h]
    exact ⟨d.only_host _, hrules _ rfl, fun _ => rfl, rfl, rfl, ⟨[r], rfl⟩⟩

end

/-- A good entry's command is on its way to every target, and outstanding. -/
structure Dev.EntryForwarded (q : Nat) (x : QCtx) (e : BitVec 512) (c : FwdBody) (d d' : Dev) : Prop where
  only : d.only d' [.host, .obs, .fresh, .stack]
  read : d.entryRead q x ∈ d'.host.reads
  queue : ∃ y, d'.queue q = some y ∧ y.sqHead = x.fetched.sqHead ∧ y.owed = x.owed + 1
  outstanding : d'.host.outstanding = d.host.outstanding ++ [d.entryCommand q x.fetched.sqHead e]
  sent : d'.host.sent = d.host.sent ++ (d.sqTargets (d.entryPart q e) e c).map fun pos => .command pos ⟨d.entryOrigin q x.fetched.sqHead e, c⟩

theorem Dev.reads_forAll_send {α : Type} (m : α → OutMsg) (l : List α) (d : Dev) : (d.forAll l fun d x => d.send (m x)).host.reads = d.host.reads :=
  Dev.forAll_keeps (fun d => d.host.reads) (fun d x => d.send (m x)) (fun _ _ => rfl) l d

theorem Dev.outstanding_forAll_send {α : Type} (m : α → OutMsg) (l : List α) (d : Dev) :
    (d.forAll l fun d x => d.send (m x)).host.outstanding = d.host.outstanding :=
  Dev.forAll_keeps (fun d => d.host.outstanding) (fun d x => d.send (m x)) (fun _ _ => rfl) l d

theorem Dev.queue_forAll_send {α : Type} (m : α → OutMsg) (l : List α) (d : Dev) (q : Nat) :
    (d.forAll l fun d x => d.send (m x)).queue q = d.queue q :=
  Dev.forAll_keeps (fun d => d.queue q) (fun d x => d.send (m x)) (fun _ _ => rfl) l d

section
variable {d e₀ : Dev} {q : Nat} {x : QCtx} {e : BitVec 512} {mem : Option FwdBody} {c : FwdBody}

theorem Dev.entryPart_of_rules (h : Dev.SameRules d e₀) (q : Nat) (e : BitVec 512) : e₀.entryPart q e = d.entryPart q e := by
  rw [Dev.entryPart, h.owner, Dev.entryPart]

/-- A fetched entry that passes its checks is forwarded. -/
theorem Dev.entryForwarded_of_passed (hf : Dev.Fetches q x d e₀) (hs : d.sys.standbySync = false)
    (h : d.sqCheck (d.idOwner q).isSome (d.entryPart q e) e = none) (hstop : d.stoppedResult (d.entryPart q e) e = none) (hc : sqBody e mem = some c)
    (haway : d.sys.position ∉ d.sqTargets (d.entryPart q e) e c)
    (hbusy : (sqOp e = 0x40 ∨ sqOp e = 0x41) → ∀ y ∈ d.host.outstanding, y.partition = d.entryPart q e → y.opcode ≠ 0x40 ∧ y.opcode ≠ 0x41) :
    Dev.EntryForwarded q x e c d (e₀.takeEntry q x.fetched.sqHead e mem) := by
  have hpart := Dev.entryPart_of_rules hf.rules q e
  have horigin : e₀.entryOrigin q x.fetched.sqHead e = d.entryOrigin q x.fetched.sqHead e := by rw [Dev.entryOrigin, hpart, Dev.entryOrigin]
  have hcommand : e₀.entryCommand q x.fetched.sqHead e = d.entryCommand q x.fetched.sqHead e := by rw [Dev.entryCommand, hpart, Dev.entryCommand]
  have htake := Dev.takeEntry_forwarded (d := e₀) (q := q) (head := x.fetched.sqHead) (e := e) (mem := mem) (c := c)
    (by rw [hf.rules.check, hf.rules.owner, hpart, h]) (by rw [hf.rules.stopped, hpart, hstop]) hc (by rw [hf.outstanding, hpart]; exact hbusy)
  rw [horigin, hcommand, hpart] at htake
  have hissue := e₀.sameRules_issue (d.entryCommand q x.fetched.sqHead e)
  have hasks := (e₀.issue (d.entryCommand q x.fetched.sqHead e)).asks_readTables q e
  generalize hd₁ : (e₀.issue (d.entryCommand q x.fetched.sqHead e)).readTables q e = d₁ at htake hasks
  have hsys : d₁.sys = d.sys := (hasks.only .sys (by simp)).trans (hf.only .sys (by simp))
  have htargets : d₁.sqTargets (d.entryPart q e) e c = d.sqTargets (d.entryPart q e) e c := by
    rw [hasks.rules.targets, hissue.targets, hf.rules.targets]
  rw [htargets, Dev.forAll_forwardTo (by rw [hsys, hs]) (by rw [hsys]; exact haway)] at htake
  rw [htake]
  obtain ⟨l, hreads⟩ := hasks.reads
  refine ⟨?_, ?_, ⟨x.fetched, ?_, rfl, rfl⟩, ?_, ?_⟩
  · exact Dev.only_mono ((hf.only.append (e₀.only_host _)).append (hasks.only.append (Dev.forAll_send_only _ _ _))) (by simp)
  · rw [Dev.reads_forAll_send, hreads]
    exact List.mem_append_left _ (hf.reads ▸ List.mem_append_right _ (List.mem_singleton_self _))
  · rw [Dev.queue_forAll_send, hasks.queue]
    exact hf.queue
  · rw [Dev.outstanding_forAll_send, hasks.outstanding, ← hf.outstanding]
    rfl
  · rw [Dev.sent_forAll_send, hasks.sent, ← hf.sent]
    rfl

end

/-! ### Doorbells (R255, R256) -/

/-- A tail or a head at or above its size halts the pair. -/
theorem QCtx.bell_of_past {x : QCtx} {tail : U16} {head : BitVec 18} (hx : x.halted = false)
    (h : tail.toNat ≥ 2 ^ x.sqLog2 ∨ head.toNat ≥ 2 ^ x.cqLog2) : x.bell tail head = { x with halted := true } := by
  unfold QCtx.bell
  extract_lets size past
  have hpast : tail.toNat ≥ 2 ^ x.sqLog2 ∨ head.toNat ≥ size ∨ past := h.elim .inl fun h => .inr (.inl h)
  exact (if_neg (by simp [hx])).trans (if_pos hpast)

/-- What the record `w` makes of the context. -/
def QCtx.heard (x : QCtx) (w : U64) : QCtx := x.bell (w.extractLsb' 0 16) (w.extractLsb' 16 18)

/-- A record of pair `q` is taken: what becomes of its queue pair, of the records and of everything else. -/
structure Dev.BellTaken (q : Nat) (w : U64) (d d' : Dev) : Prop where
  only : d.only d' [.host, .sys, .obs, .fresh, .stack]
  snoops : d'.counter DC.dbSnoop = d.counter DC.dbSnoop
  bell : SMap.get 0 d'.host.doorbells q = w
  queue : d'.queue q = if SMap.get 0 d.host.doorbells q = w then d.queue q else (d.queue q).map (·.heard w)
  otherBell : ∀ k, k ≠ q → SMap.get 0 d'.host.doorbells k = SMap.get 0 d.host.doorbells k
  otherQueue : ∀ k, k ≠ q → d'.queue k = d.queue k

theorem Dev.doorbells_ctxChanged (d : Dev) (key : Nat) : (d.ctxChanged key).host.doorbells = d.host.doorbells := by
  unfold Dev.ctxChanged
  split <;> rfl

theorem Dev.counter_ctxChanged (d : Dev) (key n : Nat) : (d.ctxChanged key).counter n = d.counter n := by
  unfold Dev.ctxChanged
  split <;> rfl

/-- The record as it was last seen. -/
def Dev.seeBell (d : Dev) (q : Nat) (w : U64) : Dev := { d with host := { d.host with doorbells := SMap.put 0 d.host.doorbells q w } }

/-- The context of a pair after its record, with the count of a halt. -/
def Dev.hear (d : Dev) (q : Nat) (x y : QCtx) : Dev :=
  if y.halted && !x.halted then ((d.touchCtx q).setQueue q (some y)).count DC.queueHalt else (d.touchCtx q).setQueue q (some y)

theorem Dev.hear_facts (d : Dev) (q : Nat) (x y : QCtx) : d.only (d.hear q x y) [.host, .obs, .fresh, .stack]
    ∧ (d.hear q x y).counter DC.dbSnoop = d.counter DC.dbSnoop ∧ (d.hear q x y).host.doorbells = d.host.doorbells
    ∧ ∀ k, (d.hear q x y).queue k = if k = q then some y else d.queue k := by
  have htouch := d.caches_touchCtx q
  have honly : d.only ((d.touchCtx q).setQueue q (some y)) [.host, .obs, .fresh, .stack] :=
    Dev.only_mono (htouch.only.append (Dev.only_host _ _)) (by simp)
  have hcount : (d.touchCtx q).counter DC.dbSnoop = d.counter DC.dbSnoop := htouch.counter _ (by decide)
  have hqueue : ∀ k, ((d.touchCtx q).setQueue q (some y)).queue k = if k = q then some y else d.queue k := fun k => by
    rw [Dev.queue_setQueue, htouch.keepsTables.queue]
  unfold Dev.hear
  split
  · exact ⟨Dev.only_mono (honly.append (Dev.count_only _ _ _)) (by simp),
      ((Dev.counter_count _ _ _ _).trans (if_neg (by decide))).trans hcount, htouch.doorbells, hqueue⟩
  · exact ⟨honly, hcount, htouch.doorbells, hqueue⟩

section
variable {d : Dev} {q : Nat} {w : U64} {x : QCtx}

theorem Dev.takeBell_same (h : SMap.get 0 d.host.doorbells q = w) : d.takeBell q w = d := if_pos h

theorem Dev.takeBell_ignored (h : SMap.get 0 d.host.doorbells q ≠ w) (hq : d.queue q = none) :
    d.takeBell q w = (d.seeBell q w).count DC.dbIgnored := by
  unfold Dev.takeBell
  refine (if_neg h).trans ?_
  extract_lets src d₁
  have hq₁ : d₁.queue q = none := hq
  rw [hq₁]
  rfl

theorem Dev.takeBell_heard (h : SMap.get 0 d.host.doorbells q ≠ w) (hq : d.queue q = some x) : d.takeBell q w
    = if x.heard w = x then (d.seeBell q w).hear q x (x.heard w) else ((d.seeBell q w).hear q x (x.heard w)).ctxChanged q := by
  unfold Dev.takeBell
  refine (if_neg h).trans ?_
  extract_lets src d₁
  have hq₁ : d₁.queue q = some x := hq
  rw [hq₁]
  rfl

theorem Dev.bellTaken (d : Dev) (q : Nat) (w : U64) : Dev.BellTaken q w d (d.takeBell q w) := by
  by_cases h : SMap.get 0 d.host.doorbells q = w
  · rw [Dev.takeBell_same h]
    exact ⟨d.only_refl _, rfl, h, (if_pos h).symm, fun _ _ => rfl, fun _ _ => rfl⟩
  · have hbell : ∀ k, SMap.get 0 (d.seeBell q w).host.doorbells k = if k = q then w else SMap.get 0 d.host.doorbells k := fun k =>
      SMap.get_put _ _ _ _ _
    have hsee : d.only (d.seeBell q w) [.host, .sys, .obs, .fresh, .stack] := Dev.only_mono (d.only_host _) (by simp)
    cases hq : d.queue q with
    | none =>
      rw [Dev.takeBell_ignored h hq]
      refine ⟨Dev.only_mono (hsee.append (Dev.count_only _ _ _)) (by simp), (Dev.counter_count _ _ _ _).trans (if_neg (by decide)),
        (hbell q).trans (if_pos rfl), ?_, fun k hk => (hbell k).trans (if_neg hk), fun _ _ => rfl⟩
      rw [if_neg h, hq]
      exact hq
    | some x =>
      obtain ⟨honly, hsnoops, hkept, hqueue⟩ := (d.seeBell q w).hear_facts q x (x.heard w)
      have hdone : Dev.BellTaken q w d ((d.seeBell q w).hear q x (x.heard w)) := by
        refine ⟨Dev.only_mono (hsee.append honly) (by simp), hsnoops, ?_, ?_, fun k hk => ?_, fun k hk => ?_⟩
        · rw [hkept]
          exact (hbell q).trans (if_pos rfl)
        · rw [hqueue, if_pos rfl, if_neg h, hq]
          rfl
        · rw [hkept]
          exact (hbell k).trans (if_neg hk)
        · exact (hqueue k).trans (if_neg hk)
      rw [Dev.takeBell_heard h hq]
      split
      · exact hdone
      · have htell := Dev.keepsTables_ctxChanged ((d.seeBell q w).hear q x (x.heard w)) q
        refine ⟨Dev.only_mono (hdone.only.append htell.only) (by simp), (Dev.counter_ctxChanged _ _ _).trans hdone.snoops, ?_,
          (htell.queue q).trans hdone.queue, fun k hk => ?_, fun k hk => (htell.queue k).trans (hdone.otherQueue k hk)⟩
        · rw [Dev.doorbells_ctxChanged]
          exact hdone.bell
        · rw [Dev.doorbells_ctxChanged]
          exact hdone.otherBell k hk

end

/-- The records of a line are taken, each into its own pair: `es` lists the places of some of them, each once. -/
theorem Dev.bellsTaken (line : Nat) : ∀ (es : List (Nat × U64)) (d : Dev), (es.map Prod.fst).Nodup →
    d.only (d.forAll es fun d e => d.takeBell (8 * line + e.1) e.2) [.host, .sys, .obs, .fresh, .stack]
    ∧ (d.forAll es fun d e => d.takeBell (8 * line + e.1) e.2).counter DC.dbSnoop = d.counter DC.dbSnoop
    ∧ (∀ k, (∀ e ∈ es, k ≠ 8 * line + e.1) → SMap.get 0 (d.forAll es fun d e => d.takeBell (8 * line + e.1) e.2).host.doorbells k
          = SMap.get 0 d.host.doorbells k ∧ (d.forAll es fun d e => d.takeBell (8 * line + e.1) e.2).queue k = d.queue k)
    ∧ ∀ e ∈ es, SMap.get 0 (d.forAll es fun d e => d.takeBell (8 * line + e.1) e.2).host.doorbells (8 * line + e.1) = e.2
        ∧ (d.forAll es fun d e => d.takeBell (8 * line + e.1) e.2).queue (8 * line + e.1)
          = if SMap.get 0 d.host.doorbells (8 * line + e.1) = e.2 then d.queue (8 * line + e.1) else (d.queue (8 * line + e.1)).map (·.heard e.2)
  | [], d, _ => ⟨d.only_refl _, rfl, fun _ _ => ⟨rfl, rfl⟩, nofun⟩
  | a :: es, d, hnodup => by
    obtain ⟨hfresh, hrest⟩ := List.nodup_cons.1 hnodup
    have hne : ∀ e ∈ es, e.1 ≠ a.1 := fun e he h => hfresh (h ▸ List.mem_map_of_mem he)
    have hone := d.bellTaken (8 * line + a.1) a.2
    obtain ⟨honly, hsnoops, hother, hmine⟩ := Dev.bellsTaken line es (d.takeBell (8 * line + a.1) a.2) hrest
    rw [Dev.forAll_cons]
    refine ⟨Dev.only_trans hone.only honly, hsnoops.trans hone.snoops, fun k hk => ?_, fun e he => ?_⟩
    · obtain ⟨hb, hq⟩ := hother k fun e he => hk e (List.mem_cons_of_mem _ he)
      have hka := hk a List.mem_cons_self
      exact ⟨hb.trans (hone.otherBell k hka), hq.trans (hone.otherQueue k hka)⟩
    · rcases List.mem_cons.1 he with rfl | he
      · obtain ⟨hb, hq⟩ := hother (8 * line + e.1) fun e' he' h => hne e' he' (by omega)
        exact ⟨hb.trans hone.bell, hq.trans hone.queue⟩
      · obtain ⟨hb, hq⟩ := hmine e he
        have hkey : 8 * line + e.1 ≠ 8 * line + a.1 := fun h => hne e he (by omega)
        rw [hone.otherBell _ hkey, hone.otherQueue _ hkey] at hq
        exact ⟨hb, hq⟩

section
variable {s : State} {line : Nat} {rs : List U64}

/-- The package after the snoop of a line with the records `rs`. -/
def Dev.snooped (d : Dev) (line : Nat) (rs : List U64) : Dev :=
  (d.count DC.dbSnoop).forAll ((List.range 8).zip rs) fun d e => d.takeBell (8 * line + e.1) e.2

theorem runs_doorbellSnoop (hon : s.dev.hostOn = true) (hheld : s.dev.host.linesHeld = true) (hline : line < 32768) {post : Dev → Prop}
    (h : post (s.dev.snooped line rs)) : Runs (.doorbellSnoop line rs) s post := by
  have hcond : (s.dev.hostOn && s.dev.host.linesHeld && decide (line < 32768)) = true := by simp [hon, hheld, hline]
  refine Runs.of_on (show exec (.doorbellSnoop line rs) s = execDoorbellSnoop line rs s from rfl) ?_
  exact (if_pos hcond : (if (s.dev.hostOn && s.dev.host.linesHeld && decide (line < 32768)) = true then s.dev.snooped line rs else s.dev) = _) ▸ h

theorem exec_doorbellSnoop_free (hheld : s.dev.host.linesHeld = false) : exec (.doorbellSnoop line rs) s = .next s :=
  exec_eq_self_of_on (show exec (.doorbellSnoop line rs) s = execDoorbellSnoop line rs s from rfl) (if_neg (by simp [hheld]))

theorem mem_range_zip_getD {rs : List U64} {i : Nat} (hlen : rs.length = 8) (hi : i < 8) : (i, rs.getD i 0) ∈ (List.range 8).zip rs := by
  have hzip : i < ((List.range 8).zip rs).length := by simpa [hlen] using hi
  have hget : ((List.range 8).zip rs)[i] = (i, rs.getD i 0) := by
    rw [List.getElem_zip, List.getElem_range, List.getD_eq_getElem _ _ (by omega)]
  exact hget ▸ List.getElem_mem hzip

/-- What the snoop of a line leaves: each of its eight records in its own pair, and every other pair as it was. -/
theorem Dev.snooped_facts (d : Dev) (line : Nat) (hlen : rs.length = 8) :
    d.only (d.snooped line rs) [.host, .sys, .obs, .fresh, .stack] ∧ (d.snooped line rs).counter DC.dbSnoop = d.counter DC.dbSnoop + 1
    ∧ (∀ q, q / 8 ≠ line → (d.snooped line rs).queue q = d.queue q)
    ∧ ∀ i < 8, SMap.get 0 (d.snooped line rs).host.doorbells (8 * line + i) = rs.getD i 0
        ∧ (d.snooped line rs).queue (8 * line + i) = if SMap.get 0 d.host.doorbells (8 * line + i) = rs.getD i 0 then d.queue (8 * line + i)
          else (d.queue (8 * line + i)).map (·.heard (rs.getD i 0)) := by
  have hnodup : (((List.range 8).zip rs).map Prod.fst).Nodup := by
    rw [List.map_fst_zip (by simp [hlen])]
    exact List.nodup_range
  obtain ⟨honly, hsnoops, hother, hmine⟩ := Dev.bellsTaken line ((List.range 8).zip rs) (d.count DC.dbSnoop) hnodup
  refine ⟨Dev.only_mono ((d.count_only _ _).append honly) (by simp), hsnoops.trans ((d.counter_count _ _ _).trans (if_pos rfl)),
    fun q hq => (hother q fun e he h => hq ?_).2, fun i hi => hmine (i, rs.getD i 0) (mem_range_zip_getD hlen hi)⟩
  have hlt : e.1 < 8 := List.mem_range.1 (List.of_mem_zip he).1
  omega

end

/-! ### The coalescing timer (R271) -/

/-- The signal of the timer: a message with the vector's Address and Data, or a pending bit (log 80). -/
theorem runs_coalesceTimerExpiry {s : State} {q : Nat} {x : QCtx} (hq : s.dev.queue q = some x) (hirq : x.irqEn = true) (htime : x.coalTime ≠ 0)
    (hun : x.unsignalled ≠ 0) (hdue : 1000 * x.coalTime.toNat ≤ s.dev.since x.firstUnsignalled) {post : Dev → Prop}
    (h : post ((s.dev.setQueue q (some { x with unsignalled := 0 })).msix (s.dev.idFn q) x.vector)) : Runs (.coalesceTimerExpiry q) s post := by
  refine Runs.of_on (show exec (.coalesceTimerExpiry q) s = execCoalesceTimerExpiry q s from rfl) ?_
  rw [hq]
  exact (congrArg post ((if_pos ⟨hirq, htime, hun, hdue⟩).trans (Dev.signalQueue_eq hq hun))).mpr h

section
variable {d : Dev} {fn : Nat} {v : BitVec 11}

theorem Dev.msix_unmasked (h : (d.fn fn).masked v.toNat = false) : d.msix fn v
    = (d.post (.msix fn v ((d.fn fn).table (4 * v.toNat + 1) ++ (d.fn fn).table (4 * v.toNat)) ((d.fn fn).table (4 * v.toNat + 2)))).count DC.msixSent := by
  unfold Dev.msix
  exact if_neg (by simp [h])

theorem Dev.msix_masked (h : (d.fn fn).masked v.toNat = true) : d.msix fn v
    = d.setFn fn { d.fn fn with msixPending := SMap.put false (d.fn fn).msixPending v.toNat true } := by
  unfold Dev.msix
  exact if_pos h

/-- A masked vector is pending, and nothing is written to host memory. -/
theorem Dev.pending_msix (h : (d.fn fn).masked v.toNat = true) :
    (d.msix fn v).host.writes = d.host.writes ∧ SMap.get false ((d.msix fn v).fn fn).msixPending v.toNat = true := by
  rw [Dev.msix_masked h]
  exact ⟨rfl, (congrArg (fun f : FnRegs => SMap.get false f.msixPending v.toNat) ((d.fn_setFn fn fn _).trans (if_pos rfl))).trans
    (SMap.get_put_same false (d.fn fn).msixPending v.toNat true)⟩

end

/-! ### Host writes received (R268, R284, R296) -/

section
variable {s : State}

theorem runs_hostWriteReceive_channel {vc : BitVec 2} {m : HostWriteMsg} (h : vc ≠ 2) :
    Runs (.hostWriteReceive vc m) s fun d' => d' = s.dev.count DC.msgDiscard :=
  Runs.of_next ((show exec (.hostWriteReceive vc m) s = execHostWriteReceive vc m s from rfl).trans (State.onChannel_other h _)) rfl

theorem runs_hostWriteReceive_buffer {q : Nat} {a : U64} {bs : List Byte} (hp : s.dev.sys.primary = true) (hs : s.dev.sys.standbySync = false) :
    Runs (.hostWriteReceive 2 (.buffer q a bs)) s fun d' => d' = s.dev.post (.buffer (s.dev.idFn q) a bs) :=
  Runs.of_channel (show exec (.hostWriteReceive 2 (.buffer q a bs)) s = execHostWriteReceive 2 (.buffer q a bs) s from rfl)
    ((if_pos hp).trans (Dev.hostWrite_buffer hp hs a bs))

/-- What is not the primary keeps what it is told. -/
theorem runs_hostWriteReceive_shadow {m : HostWriteMsg} (hp : s.dev.sys.primary = false) {post : Dev → Prop} (h : post (s.dev.shadow m)) :
    Runs (.hostWriteReceive 2 m) s post := by
  refine Runs.of_channel (show exec (.hostWriteReceive 2 m) s = execHostWriteReceive 2 m s from rfl) ?_
  rw [hp]
  exact h

end

/-! ### The obligation -/

theorem runs_sqFetch {s : State} {q : Nat} {x : QCtx} (h : s.dev.MayFetch q x) {entry : Option (BitVec 512)} {cmd : Option FwdBody} {post : Dev → Prop}
    (hp : post (entry.elim ((s.dev.fetching q x).unreadEntry q x.fetched.sqHead) fun e => (s.dev.fetching q x).takeEntry q x.fetched.sqHead e cmd)) :
    Runs (.sqFetch q entry cmd) s post := Runs.of_next (exec_sqFetch h entry cmd) hp

theorem Dev.EntryEnded.all {q : Nat} {x : QCtx} {st : Byte} {tag : U64} {d d' : Dev} (h : Dev.EntryEnded q x st tag d d') :
    d.only d' [.host, .obs, .fresh, .stack] ∧ (∃ y, d'.queue q = some y ∧ y.sqHead = x.fetched.sqHead ∧ y.owed = x.owed)
    ∧ d'.host.outstanding.length = d.host.outstanding.length
    ∧ (∃ a w rest, d'.host.writes = d.host.writes ++ .completion q a w :: rest ∧ w.extractLsb' 112 8 = st ∧ w.extractLsb' 0 64 = tag)
    ∧ d'.counter DC.sqFetched = d.counter DC.sqFetched + 1 ∧ d'.counter DC.sqRefused = d.counter DC.sqRefused + 1 :=
  ⟨h.only, h.queue, h.outstanding, h.writes, h.fetched, h.refused⟩

/-- Settles O52: a fetch changes only what no check reads, so each entry meets its checks as they stood; the other commands act by their own
equations above. -/
theorem entriesAreFetchedCheckedAndForwarded : Obligations.EntriesAreFetchedCheckedAndForwarded := by
  unfold Obligations.EntriesAreFetchedCheckedAndForwarded
  refine ⟨fun s line rs hlen => ⟨fun hon hheld hline => ?_, exec_doorbellSnoop_free⟩, fun x tail head hx h => QCtx.bell_of_past hx h,
    fun s q x cmd hq => ?_, fun s => ⟨fun vc m h => runs_hostWriteReceive_channel h, fun q a bs hp hs => runs_hostWriteReceive_buffer hp hs,
      fun on hp => runs_hostWriteReceive_shadow hp rfl, fun slot w hp => ?_⟩⟩
  · exact runs_doorbellSnoop hon hheld hline (s.dev.snooped_facts line hlen)
  · intro p head ended
    refine ⟨fun hon hide hp hs hmay hturn => ?_, fun entry h => exec_sqFetch_waits hq h entry cmd, fun hirq htime hun hdue => ?_⟩
    · have hfetch : s.dev.MayFetch q x := ⟨hq, hon, hide, hp, hs, hmay, hturn⟩
      have hf := s.dev.fetches q x
      refine ⟨?_, fun e st hcheck => ?_, fun e c hcheck hstop hc haway hbusy => ?_⟩
      · refine runs_sqFetch hfetch ?_
        rw [Option.elim_none, Dev.unreadEntry_eq]
        exact (Dev.entryEnded_of_refusal (o := (s.dev.fetching q x).unreadOrigin q x.fetched.sqHead)
          (y := (s.dev.fetching q x).unreadCommand q x.fetched.sqHead) hf hp hs rfl rfl rfl rfl rfl (by decide)).all
      · have hcheck' : (s.dev.fetching q x).sqCheck ((s.dev.fetching q x).idOwner q).isSome ((s.dev.fetching q x).entryPart q e) e = some st := by
          rw [hf.rules.check, hf.rules.owner, Dev.entryPart_of_rules hf.rules]
          exact hcheck
        refine runs_sqFetch hfetch ?_
        rw [Option.elim_some, Dev.takeEntry_refused hcheck']
        exact (Dev.entryEnded_of_refusal (o := (s.dev.fetching q x).entryOrigin q x.fetched.sqHead e)
          (y := (s.dev.fetching q x).entryCommand q x.fetched.sqHead e) hf hp hs rfl rfl rfl rfl rfl (Dev.sqCheck_ne_success hcheck)).all
      · have hsent := Dev.entryForwarded_of_passed (mem := cmd) hf hs hcheck hstop hc haway hbusy
        exact runs_sqFetch hfetch ⟨hsent.only, hsent.read, hsent.queue, ⟨_, hsent.outstanding, rfl, rfl, rfl⟩, hsent.sent⟩
    · refine runs_coalesceTimerExpiry hq hirq htime hun hdue ⟨?_, ?_, fun hmask => ?_, fun hmask => ?_⟩
      · rw [Dev.queue_msix, Dev.queue_setQueue, if_pos rfl]
      · exact Dev.only_mono ((s.dev.only_host _).append (Dev.msix_only _ _ _)) (by simp)
      · rw [Dev.msix_unmasked (d := s.dev.setQueue q _) hmask]
        exact ⟨rfl, (Dev.counter_count _ _ _ _).trans (if_pos rfl)⟩
      · exact Dev.pending_msix (d := s.dev.setQueue q _) hmask
  · exact runs_hostWriteReceive_shadow hp ⟨(SMap.get_put _ _ _ _ _).trans (if_pos rfl), fun k hk => SMap.get_put_ne _ _ _ hk, s.dev.only_host _⟩

end Sys2Proof.Machine
end
